-- ==== Sys2Proof/Word.lean ====
section
/-! DEFINITION. Words, little-endian bytes, register fields, and sparse tables in one canonical form (R1, R2, R9). -/

namespace Sys2Proof

/-- Eight bits. -/
abbrev Byte := BitVec 8
/-- A 16-bit field. -/
abbrev W16 := BitVec 16
/-- A 32-bit field. -/
abbrev W32 := BitVec 32
/-- A 64-bit field or register. -/
abbrev W64 := BitVec 64

/-- The `n` bytes of `v`, least significant first (R2). -/
def leBytes : Nat → Nat → List Byte
  | 0, _ => []
  | n + 1, v => BitVec.ofNat 8 v :: leBytes n (v / 256)

/-- The number that bytes spell, least significant first (R2). -/
def leNat : List Byte → Nat
  | [] => 0
  | b :: bs => b.toNat + 256 * leNat bs

/-- The `n` bytes of a list from offset `o` on, as a number; bytes past the end read as zero. -/
def leAt (bs : List Byte) (o n : Nat) : Nat := leNat ((bs.drop o).take n)

/-- Bits [hi:lo] of a number (R2). -/
def natBits (v hi lo : Nat) : Nat := (v / 2 ^ lo) % 2 ^ (hi + 1 - lo)

/-- Bit `i` of a number. -/
def natBit (v i : Nat) : Bool := v.testBit i

/-- A field of `w` bits at bit `lo` of a 64-bit register. -/
def fld (w lo : Nat) (v : W64) : BitVec w := (v >>> lo).setWidth w

/-- A field placed at bit `lo` of a 64-bit register. -/
def place {w : Nat} (lo : Nat) (v : BitVec w) : W64 := v.setWidth 64 <<< lo

/-- A one-bit field placed at bit `lo`. -/
def placeB (lo : Nat) (b : Bool) : W64 := if b then 1#64 <<< lo else 0#64

/-- Bit `lo` of a register. -/
def bitAt (lo : Nat) (v : W64) : Bool := v.getLsbD lo

/-- 1 or 0. -/
def b2n (b : Bool) : Nat := if b then 1 else 0

/-- Largest whole part of a division rounded up. -/
def ceilDiv (a b : Nat) : Nat := (a + b - 1) / b

/-- The nearer end of a range, or the value itself within it (R46). -/
def clampNat (lo hi v : Nat) : Nat := if v < lo then lo else if hi < v then hi else v

/-- Saturating addition of a field of `w` bits. -/
def satAdd {w : Nat} (a : BitVec w) (n : Nat) : BitVec w :=
  if 2 ^ w - 1 ≤ a.toNat + n then BitVec.allOnes w else BitVec.ofNat w (a.toNat + n)

/-- A list's entry `i` replaced. -/
def listSet {α : Type} (l : List α) (i : Nat) (v : α) : List α := l.set i v

/-- Byte `i` of a number. -/
def natByte (v i : Nat) : Byte := BitVec.ofNat 8 (v / 256 ^ i)

/-- A sparse table: keys strictly rising, no entry equal to what an unlisted key holds. -/
abbrev Tab (α : Type) := List (Nat × α)

/-- The value at a key; `d` where the table lists none. -/
def tabGet {α : Type} (d : α) : Tab α → Nat → α
  | [], _ => d
  | (k, v) :: t, i => if i = k then v else tabGet d t i

/-- The table with one key's value replaced, kept in the canonical form. -/
def tabPut {α : Type} [DecidableEq α] (d : α) : Tab α → Nat → α → Tab α
  | [], i, v => if v = d then [] else [(i, v)]
  | (k, w) :: t, i, v =>
    if i < k then (if v = d then (k, w) :: t else (i, v) :: (k, w) :: t)
    else if i = k then (if v = d then t else (i, v) :: t)
    else (k, w) :: tabPut d t i v

/-- Keys strictly rising from `lo`, and no entry equal to `d`. -/
def tabWfFrom {α : Type} [DecidableEq α] (d : α) : Nat → Tab α → Bool
  | _, [] => true
  | lo, (k, v) :: t => decide (lo ≤ k) && decide (v ≠ d) && tabWfFrom d (k + 1) t

/-- The canonical form of a table. -/
def tabWf {α : Type} [DecidableEq α] (d : α) (t : Tab α) : Bool := tabWfFrom d 0 t

/-- An entry changed by a function. -/
def tabMod {α : Type} [DecidableEq α] (d : α) (t : Tab α) (i : Nat) (f : α → α) : Tab α :=
  tabPut d t i (f (tabGet d t i))

/-- Every entry changed by a function, entries equal to `d` left out. -/
def tabMap {α : Type} [DecidableEq α] (d : α) (f : Nat → α → α) (t : Tab α) : Tab α :=
  (t.map (fun c => (c.1, f c.1 c.2))).filter (fun c => decide (c.2 ≠ d))

/-- A set of numbers, rising, without repeats. -/
def setAdd : List Nat → Nat → List Nat
  | [], i => [i]
  | k :: t, i => if i < k then i :: k :: t else if i = k then k :: t else k :: setAdd t i

/-- A set without one number. -/
def setDel (s : List Nat) (i : Nat) : List Nat := s.filter (fun k => k ≠ i)

/-- The least element of a list that a test accepts, by a key. -/
def minBy {α : Type} (key : α → Nat) : List α → Option α
  | [] => none
  | a :: t =>
    match minBy key t with
    | none => some a
    | some b => if key a ≤ key b then some a else some b

/-- Integer square root, by bisection on the bits from `n` down. -/
def isqrtGo : Nat → Nat → Nat → Nat
  | 0, _, r => r
  | n + 1, v, r =>
    let r' := r + 2 ^ n
    if r' * r' ≤ v then isqrtGo n v r' else isqrtGo n v r

/-- The largest `r` with `r * r ≤ v`. -/
def isqrt (v : Nat) : Nat := isqrtGo (Nat.log2 v / 2 + 1) v 0

/-- Integer `p`-th root, by bisection on the bits from `n` down. -/
def irootGo (p : Nat) : Nat → Nat → Nat → Nat
  | 0, _, r => r
  | n + 1, v, r =>
    let r' := r + 2 ^ n
    if r' ^ p ≤ v then irootGo p n v r' else irootGo p n v r

/-- The largest `r` with `r ^ p ≤ v`. -/
def iroot (p v : Nat) : Nat := if p = 0 then 0 else irootGo p (Nat.log2 v / p + 1) v 0

/-- ceil(log2 n) for n at least 1. -/
def clog2 (n : Nat) : Nat := if n ≤ 1 then 0 else Nat.log2 (n - 1) + 1

end Sys2Proof
end

