-- ==== Sys2Proof/Syntax.lean ====
section
/-! DEFINITION. The commands: every row of the table of operations and events, with its operands. -/

namespace Sys2Proof

/-- Where a CXL.io write of the host goes: a BAR0 offset (R281), a standard HDM decoder (R283), the bus-master bit of
configuration space (R445), or the mode of CXL.cachemem IDE (R291). -/
inductive HostTarget where
  | bar0 (off : Nat)
  | decoder (n : Fin 2) (commit : Bool)
  | busMaster (on : Bool)
  | ideMode (skid : Bool)
  deriving DecidableEq, Repr

/-- The straps as the plinth connector ties them (R487). -/
structure Straps where
  side : BitVec 1 := 0
  feedId : BitVec 4 := 0
  moduleId : BitVec 8 := 0
  deriving DecidableEq, Repr

/-- What a firmware request writes into flash (R446). -/
inductive FlashKind where
  | image | configBlock | ownerKey
  deriving DecidableEq, Repr

/-- Link rate of DEV_CXL_STATUS (R297). -/
inductive CxlRate where
  | gt16 | gt32 | gt64
  deriving DecidableEq, Repr

/-- The answer to an ATS Translation Request (R289). -/
inductive AtsAnswer where
  | granted (hostBase : Nat) (sizeLog2 : Nat) (write : Bool)
  | denied
  | error
  deriving DecidableEq, Repr

/-- How the host's data came back (R288). -/
inductive ReadOutcome where
  | ok | poisoned | failed
  deriving DecidableEq, Repr

/-- One SPDM request, with the fields its answer depends on (R451). The last chunk of a large request names the request
that the chunks make up. -/
inductive SpdmReq where
  | getVersion
  | getCapabilities (version : Byte) (flags : W32)
  | negotiateAlgorithms (asym hash dhe aead : Nat)
  | getDigests
  | getCertificate (slot : Byte) (offset length : Nat)
  | challenge (slot : Byte) (nonce : BitVec 256)
  | getMeasurements (index : Byte) (signed : Bool) (nonce : BitVec 256)
  | keyExchange (sessionId : W16) (exchange : BitVec 768)
  | finish (session : W32) (macOk : Bool)
  | keyUpdate (session : W32) (op : Byte) (tag : Byte)
  | heartbeat (session : W32)
  | endSession (session : W32)
  | chunkSend (handle : Byte) (seqNo : Nat) (last : Bool) (size : Nat) (chunk : List Byte) (whole : SpdmReq)
  | chunkGet (handle : Byte) (seqNo : Nat)
  | other (code : Byte)
  deriving DecidableEq, Repr

/-- One object written to a DOE mailbox (R292). -/
inductive DoeObject where
  | discovery (index : Nat)
  | cdat (entry : Nat)
  | spdm (r : SpdmReq)
  | secured (session : W32) (r : SpdmReq)
  | ideKm (session : W32) (cachemem io : Bool)
  | other (vendor type : Nat)
  deriving DecidableEq, Repr

/-- Source types of arbitration requesters (R261), with the two fixed low ones of R260. -/
inductive ArbSource where
  | load | drain | tidy | copy | coll | hostmem | hostctl | arm | linkctl | patrol | refresh
  deriving DecidableEq, Repr

/-- One requester of an arbiter instance: a source type and its unit (R261). -/
structure Requester where
  src : ArbSource
  unit : Nat
  deriving DecidableEq, Repr

/-- What a request is made for, which decides its service (R267): a TEST descriptor, work of a context, the armature
processor's recovery work, or anything else. -/
inductive ArbWork where
  | test | ctx (x : Fin 64) | recovery | other
  deriving DecidableEq, Repr

/-- One request raised at an instance: its requester, what it is made for (R267), and its transfer's beats (R259). -/
structure ArbRequest where
  req : Requester
  work : ArbWork
  beats : Nat
  deriving DecidableEq, Repr

/-- The two emergency requesters (R260). -/
inductive Emergency where
  | refresh | debug
  deriving DecidableEq, Repr

/-- One set of sensor readings (R500): temperatures in 1/16 °C. -/
structure Readings where
  tj : List W16
  tstack : List W16
  tpwr : List W16
  vin : BitVec 17
  iin : W16
  rails : List W16
  deriving DecidableEq, Repr

/-- What a read of one word or granule finds (R253 to R255, R258): good data, an error its code corrects, an uncorrectable
error, a beat that came good after `n` retries of its link code, a beat that failed a fifth time, or an interface that fails
to retrain. -/
inductive ReadResult where
  | clean | corrected | uncorrectable
  | retried (n : Fin 5)
  | linkFailed
  | retrainFailed
  deriving DecidableEq, Repr

/-- Where a protected word lies (R253, R254): device memory by its device physical address, a position of an accumulator
bank, or a word of a chisel core's scratch by its offset. -/
inductive WordAt where
  | mem (a : Nat)
  | bank (e : Fin 128) (b : Fin 2) (pos : Fin 131072)
  | scratch (i : Fin 256) (off : Nat)
  deriving DecidableEq, Repr

/-- How far a TEST has come: it runs as a whole, begins, or ends after it began (R452, R454). -/
inductive TestPhase where
  | whole | begin_ | finish
  deriving DecidableEq, Repr

/-- Identity frame of a partner (R337). -/
structure Identity where
  node : BitVec 10
  incarn : W32
  straps : Straps
  port : BitVec 5
  sideLink : Bool
  deriving DecidableEq, Repr

/-- The header frame of a collective (R353). -/
structure CollHeader where
  op : BitVec 3
  count : W32
  slots : W32
  fmtSrc : BitVec 5
  convDst : Byte
  trailerEn : Bool
  seq : Nat
  tableCrc : W32
  deriving DecidableEq, Repr

/-- What a fabric message carries between modules (R335, R340, R349, R353, R366, R388, R417). A credit is for a collective
as a whole, or for one 4,096-byte segment of a reduction's chunk (R349, R356). -/
inductive FabMsg where
  | heartbeat
  | ack (msg : Nat) (frame : Nat)
  | identity (i : Identity)
  | announce (node : BitVec 10) (incarn : W32) (feedId : BitVec 4) (moduleId : BitVec 8) (role : BitVec 3) (busy : Bool)
      (pace : W16) (seq : W32)
  | lossAnnounce (node : BitVec 10) (incarn : W32) (seq : W32) (origin : BitVec 10)
  | leaveAnnounce (node : BitVec 10) (incarn : W32) (seq : W32)
  | collHeader (group : Byte) (rank : Nat) (h : CollHeader)
  | credit (group : Byte) (rank : Nat) (seq : Nat) (seg : Option Nat)
  | mismatch (group : Byte) (rank : Nat) (seq : Nat)
  | abort (group : Byte)
  | collGone (group : Byte) (seq : Nat)
  | collData (group : Byte) (rank : Nat) (seq : Nat) (phase : Nat) (offset : Nat) (bytes : List Byte)
  | copyWrite (group : Byte) (rank : Nat) (tag : Nat) (addr : W64) (bytes : List Byte)
  | copyRead (group : Byte) (rank : Nat) (tag : Nat) (addr : W64) (size : Nat)
  | copyData (tag : Nat) (addr : W64) (bytes : List Byte)
  | copyDone (tag : Nat) (status : Byte) (addr : W64) (size : Nat)
  | pairing (group : Byte) (node : BitVec 10) (names : BitVec 10) (feedId : BitVec 4) (override : Bool) (refuse : Bool)
  deriving DecidableEq, Repr

/-- Who reads PACE_TIME: one shadow each (R42). -/
inductive TimeReader where
  | host | debug
  deriving DecidableEq, Repr

/-- What part of PACE_TIME is read (R42). -/
inductive TimePart where
  | low | high | whole
  deriving DecidableEq, Repr

/-- What a debug instruction reaches (R489). `moved` is how many beats of a grant it revokes have moved (R270). -/
inductive DebugTarget where
  | readMem (addr : Nat) (moved : Nat)
  | writeMem (addr : Nat) (bytes : List Byte) (moved : Nat)
  | readReg (off : Nat)
  | writeReg (off : Nat) (value : W32)
  deriving DecidableEq, Repr

/-- A half or whole BAR0 write: its value and whether it came in the CXL.io IDE stream (R282). -/
structure HostWrite where
  value : W64
  ide : Bool
  deriving DecidableEq, Repr

/-- Sources of a thermal trip (R483, R484, R502), and the rail of a rail fault, which trips the module too (R479). -/
inductive TripSource where
  | field (f : Fin 4)
  | stack (s : Fin 20)
  | power (i : Fin 2)
  | rail (r : Fin 7)
  deriving DecidableEq, Repr

/-- A unit that writes PC samples (R468, R469). -/
inductive SampleUnit where
  | engine (e : Fin 128)
  | chisel (i : Fin 256)
  | vector (c : Fin 32)
  | solver (c : Fin 32)
  | port (p : Fin 24)
  deriving DecidableEq, Repr

/-- A firmware's request to write flash (R446): its bytes, and how many of them are written where it is interrupted. -/
structure FlashWrite where
  bytes : List Byte
  cut : Option Nat
  deriving DecidableEq, Repr

/-- An object written to a DOE mailbox, and its size in bytes (R292). -/
structure DoeArrival where
  obj : DoeObject
  size : Nat
  deriving DecidableEq, Repr

/-- A word or granule that is read, and what the read finds (R253 to R256). -/
structure WordRead where
  at_ : WordAt
  found : ReadResult
  deriving DecidableEq, Repr

/-- An emergency requester, and how many beats of the grant it revokes have moved (R270). -/
structure Revoker where
  who : Emergency
  moved : Nat
  deriving DecidableEq, Repr

/-- A frame that arrives at a port: its sender and its numbers (R335). -/
structure FrameIn where
  port : Fin 24
  src : BitVec 10
  msg : Nat
  frame : Nat
  deriving DecidableEq, Repr

/-- A message of a port's partner, of one frame (R335). -/
structure PortMsg where
  port : Fin 24
  msg : Nat
  deriving DecidableEq, Repr

/-- What credit is granted for: a collective, or one segment of a chunk of it (R349, R356). -/
structure CreditFor where
  seq : Nat
  seg : Option Nat
  deriving DecidableEq, Repr

/-- A TEST's descriptor, and how far the test comes (R452, R454). -/
structure TestOf where
  d : Nat
  ph : TestPhase
  deriving DecidableEq, Repr

/-- A read of PACE_TIME (R42): by whom, and of what. -/
structure TimeRead where
  who : TimeReader
  part : TimePart
  deriving DecidableEq, Repr

/-- One command: one row of the table of operations and events. `d` numbers a descriptor in staging, `p` one of its
parts. A field named `w` is a BAR0 write. -/
inductive Instr where
  | powerUp (straps : Straps) (refclkOk : Bool)
  | inputFaultTurnOff
  | inputRestored (straps : Straps) (refclkOk : Bool)
  | perstLAssert
  | perstLRelease
  | romStart (puf : List Byte) (flashOk : Bool)
  | memoryInitDone
  | startupSelfTest (failedCores : W32) (failedStacks : BitVec 20)
  | recoveryLoad (w : HostWrite) (image : List Byte) (readOk : Bool)
  | flashUpdate (kind : FlashKind) (w : FlashWrite) (privileged : Bool)
  | watchdogExpiry
  | cxlLinkUp (rate : CxlRate) (x16 : Bool) (flit256 : Bool)
  | linkReset
  | cxlEnable
  | ideMacFailure
  | hdmRead (addr : Nat)
  | hdmWrite (addr : Nat) (line : List Byte) (mask : W64) (poison : Bool)
  | backInvalidate (line : Nat) (write : Bool)
  | atsInvalidation (pasid : BitVec 20) (base : Nat) (sizeLog2 : Nat) (tag : Nat)
  | atsInvalidationComplete (tag : Nat)
  | atsTranslation (d p : Nat) (pasid : BitVec 20) (addr : Nat) (va : W64) (answer : AtsAnswer)
  | hostReadData (d p : Nat) (addr : Nat) (va : W64) (bytes : List Byte) (outcome : ReadOutcome)
  | doeObject (mailbox : Fin 3) (o : DoeArrival)
  | doeAbort (mailbox : Fin 3)
  | doeDiscovery (mailbox : Fin 3)
  | cdatTableAccess
  | getVersion
  | getCapabilities
  | negotiateAlgorithms
  | getDigests
  | getCertificate
  | challenge
  | getMeasurements
  | keyExchange
  | finish
  | keyUpdate
  | spdmHeartbeat
  | endSession
  | chunkSend
  | chunkGet
  | bar0Write (t : HostTarget) (wide : Bool) (w : HostWrite)
  | bar0UnsupportedAccess (off size : Nat) (write : Bool)
  | i3cSetOffset (off : W32)
  | i3cRead (wide : Bool)
  | jtagBypass (tdi : Bool)
  | jtagIdcode
  | jtagSamplePreload (preload : List Bool)
  | jtagExtest
  | debugAccess (t : DebugTarget)
  | refclockLost
  | refclockRestored
  | paceMonitorWindow (f0 f1 f2 f3 : W16)
  | paceMonitorCalibration
  | governorDecision (power : BitVec 13) (aim : Nat)
  | issueGating (power : BitVec 13)
  | sensorUpdate (r : Readings)
  | sensorCalibration (failed : BitVec 38)
  | thermalTrip (src : TripSource)
  | parkEnter (w : HostWrite)
  | parkEntered
  | parkLeave (w : HostWrite)
  | parkLeft
  | refreshDue (ch : Fin 640)
  | refreshDone (ch : Fin 640)
  | patrolScrub (addr : Nat) (r : ReadResult)
  | memoryUe (d p : Nat) (word : WordRead)
  | partialWriteUe (d p : Nat) (at_ : WordAt)
  | arbDecision (inst : Fin 4792) (raised : List ArbRequest) (withdrawn : List Requester)
  | backoffEnd (inst : Fin 4792) (r : Requester)
  | quotaWindowStart (inst : Fin 4792)
  | emergencyRevoke (inst : Fin 4792) (by_ : Revoker)
  | emergencyEnd (inst : Fin 4792)
  | ctxEnable (x : Fin 64) (w : HostWrite)
  | ctxDisable (x : Fin 64) (w : HostWrite)
  | ctxInval (x : Fin 64) (ide : Bool)
  | ctxInvalDone
  | ringEnable (r : Fin 4096) (ide : Bool)
  | ringDisable (r : Fin 4096) (ide : Bool)
  | replayStart (r : Fin 4096) (ide : Bool)
  | dbLineRegister (i : Fin 4096) (w : HostWrite)
  | dbLineRelease (i : Fin 4096) (ide : Bool)
  | doorbellSnoop (i : Fin 4096)
  | doorbellData (i : Fin 4096) (line : BitVec 512) (ok : Bool)
  | doorbellPoll (i : Fin 4096) (line : BitVec 512) (ok : Bool)
  | descriptorFetch (r : Fin 4096)
  | partComplete (d p : Nat)
  | descriptorComplete (d : Nat)
  | fence (d : Nat)
  | wait (d : Nat)
  | waitTimeout (d : Nat)
  | signal (d : Nat)
  | stepBoundary (r : Fin 4096)
  | abortNoticeReceived (group : Byte)
  | attnRecordWrite
  | attnEnable (w : HostWrite)
  | attnHeadWrite (w : HostWrite)
  | attnPulseStart
  | attnPulseEnd
  | mmProduct (d : Nat)
  | mmBackwardPair (d : Nat)
  | mmKeep (d : Nat)
  | mmDrainOnly (d : Nat)
  | passBoundary (e : Fin 128)
  | shadowExchange (e : Fin 128)
  | bankClose (e : Fin 128) (b : Fin 2)
  | treeEmpty (e : Fin 128) (b : Fin 2)
  | drainComplete (e : Fin 128) (b : Fin 2)
  | mov (d p : Nat)
  | conv (d p : Nat)
  | neg (d p : Nat)
  | abs (d p : Nat)
  | add (d p : Nat)
  | sub (d p : Nat)
  | mul (d p : Nat)
  | fma (d p : Nat)
  | axpby (d p : Nat)
  | div (d p : Nat)
  | recip (d p : Nat)
  | sqrt (d p : Nat)
  | rsqrt (d p : Nat)
  | max (d p : Nat)
  | min (d p : Nat)
  | select (d p : Nat)
  | cmpgt (d p : Nat)
  | vopGather (d p : Nat)
  | exp (d p : Nat)
  | log (d p : Nat)
  | tanh (d p : Nat)
  | sigmoid (d p : Nat)
  | softplus (d p : Nat)
  | relu (d p : Nat)
  | gelu (d p : Nat)
  | silu (d p : Nat)
  | dsigmoid (d p : Nat)
  | dtanh (d p : Nat)
  | drelu (d p : Nat)
  | dexp (d p : Nat)
  | dsoftplus (d p : Nat)
  | dgelu (d p : Nat)
  | dsilu (d p : Nat)
  | rsum (d p : Nat)
  | rsumsq (d p : Nat)
  | rmax (d p : Nat)
  | rmin (d p : Nat)
  | rcount (d p : Nat)
  | rwelf (d p : Nat)
  | amax (d p : Nat)
  | runder (d p : Nat)
  | cmbRowstat (d p : Nat)
  | cmbSumsq (d p : Nat)
  | cmbWelford (d p : Nat)
  | softmaxNorm (d p : Nat)
  | kernel (d : Nat)
  | kernelPartStart (d : Nat) (cluster : Fin 32)
  | chiselInstruction (i : Fin 256)
  | dlaunch (i : Fin 256)
  | dwait (i : Fin 256)
  | dpoll (i : Fin 256)
  | cbar (i : Fin 256)
  | ecall (i : Fin 256)
  | kernelTimeout (d : Nat)
  | subDescriptorComplete (d : Nat)
  | statGather (d : Nat)
  | gatherPromote (d : Nat)
  | fold (d p : Nat)
  | norm (d p : Nat)
  | root (d p : Nat)
  | apply (d p : Nat)
  | solve (d p : Nat)
  | allreduce (d : Nat)
  | reducescatter (d : Nat)
  | allgather (d : Nat)
  | broadcast (d : Nat)
  | permute (d : Nat)
  | collHeaderFrame (f : FrameIn) (group : Byte) (rank : Nat) (h : CollHeader)
  | creditGrant (group : Byte) (rank : Nat) (c : CreditFor)
  | collTimeout (d : Nat)
  | copy (d p : Nat)
  | castmarkRecord (d : Nat)
  | castmarkClose (d : Nat)
  | fingerprint (d p : Nat)
  | point (d : Nat)
  | losscmp (d : Nat)
  | testEngine (t : TestOf) (fail : Bool) (detail : W32)
  | testCstoreBank (t : TestOf) (fail : Bool) (detail : W32)
  | testTidy (t : TestOf) (fail : Bool) (detail : W32)
  | testDramChannel (t : TestOf) (fail : Bool) (detail : W32)
  | testPort (t : TestOf) (fail : Bool) (detail : W32)
  | testSensors (t : TestOf) (failed : BitVec 38) (detail : W32)
  | testDevice (t : TestOf) (failedCores : W32) (failedStacks : BitVec 20)
  | portEnable (p : Fin 24) (w : HostWrite)
  | lanesTrained (p : Fin 24) (low high : Bool)
  | identityFrame (f : PortMsg) (i : Identity)
  | portRetrain (p : Fin 24)
  | frameReceived (p : Fin 24) (src : BitVec 10) (msg frame : Nat) (m : FabMsg) (crcOk : Bool)
  | frameAckTimeout (p : Fin 24) (msg frame : Nat)
  | frameForward (p : Fin 24) (dest : BitVec 10) (src : BitVec 10) (msg frame : Nat) (m : FabMsg)
  | heartbeatSend (p : Fin 24)
  | neighbourLost (node : BitVec 10) (twin : Bool)
  | announceSend
  | announceReceived (f : PortMsg) (hops : BitVec 4) (m : FabMsg)
  | announceTimeout (node : BitVec 10)
  | leave (w : HostWrite)
  | groupEnable (g : Fin 256) (w : HostWrite)
  | groupDisable (g : Fin 256) (w : HostWrite)
  | mouldRoleWrite (w : HostWrite)
  | chargeEnable (slot : Fin 5) (w : HostWrite)
  | chargeDisable (slot : Fin 5) (w : HostWrite)
  | pairingFrame (slot : Fin 5) (m : FabMsg)
  | persistedWrite (slot : Fin 4) (value : W32) (ide : Bool)
  | streamRingEnable (w : HostWrite)
  | streamForward
  | ctrSample (set : BitVec 12) (ide : Bool)
  | ctrReset (set : BitVec 12) (ide : Bool)
  | ctrSampleReset (set : BitVec 12) (ide : Bool)
  | mirrorSample (x : Fin 64)
  | pcSample (u : SampleUnit) (stall : Byte)
  | traceRecordAccept (q : Fin 5)
  | traceTrigger (cause : Fin 4)
  | trcFire (w : HostWrite)
  | trcArm (w : HostWrite)
  | trcDump (w : HostWrite)
  | traceSpillDrain
  | stitchLineFault (line : Fin 4)
  | mismatchNotice (group : Byte) (rank : Nat) (seq : Nat)
  | paceTimeLowRead (r : TimeRead)
  | birspReceived (line : Nat)
  deriving DecidableEq, Repr

end Sys2Proof
end

