-- ==== Sys2Proof/WellFormed.lean ====
section
/-! DEFINITION. Well-formed commands: operands within what the interface that carries them can express. -/

namespace Sys2Proof

/-- A BAR0 write's offset lies in the 1 MiB map, aligned to the access, and a 4-byte write carries 4 bytes (R490, R491). -/
def wfBar0 (off : Nat) (wide : Bool) (w : HostWrite) : Bool :=
  decide (off < 0x100000) && decide (off % (if wide then 8 else 4) = 0) && (wide || decide (w.value.toNat < 2 ^ 32))

/-- The write carried by a bit of configuration space or a standard decoder has no offset to check (R281, R283). -/
def wfHostTarget (wide : Bool) (w : HostWrite) : HostTarget → Bool
  | .bar0 off => wfBar0 off wide w
  | .decoder _ _ => true
  | .busMaster _ => true
  | .ideMode _ => true

/-- One HDM access moves one 64-byte line (R283). -/
def wfLine (addr : Nat) : Bool := decide (addr % 64 = 0) && decide (addr < 2 ^ 64)

/-- A set of readings has one entry a sensor (R500). -/
def wfReadings (r : Readings) : Bool :=
  decide (r.tj.length = 16) && decide (r.tstack.length = 20) && decide (r.tpwr.length = 2) && decide (r.rails.length = 7)

/-- A request's transfer has at least one beat (R259). -/
def wfArbRequest (r : ArbRequest) : Bool := decide (1 ≤ r.beats)

/-- A page of ATS is a power of two of 4 KiB to the whole space, aligned (R289, R290). -/
def wfAtsPage (base sizeLog2 : Nat) : Bool :=
  decide (12 ≤ sizeLog2) && decide (sizeLog2 ≤ 64) && decide (base % 2 ^ sizeLog2 = 0)

/-- A counter set's number exists in the map (R460). -/
def wfCtrSet (set : BitVec 12) : Bool := decide (set.toNat < 0x400)

/-- The checks, by command; a command with none of these operands has none. -/
def Instr.wf : Instr → Bool
  | .recoveryLoad w image _ => decide (w.value.toNat < 2 ^ 32) && decide (image.length < 2 ^ 25)
  | .hdmRead a => wfLine a
  | .hdmWrite a line _ _ => wfLine a && decide (line.length = 64)
  | .atsInvalidation _ b n _ => wfAtsPage b n
  | .atsTranslation _ _ _ _ _ (.granted b n _) => wfAtsPage b n
  | .hostReadData _ _ _ _ bytes _ => decide (bytes.length ≤ 4096)
  | .memoryUe _ _ ⟨.scratch _ off, _⟩ => decide (off < 65536)
  | .partialWriteUe _ _ (.scratch _ off) => decide (off < 65536)
  | .bar0Write t wide w => wfHostTarget wide w t
  | .debugAccess (.readReg off) => decide (off < 0x100000) && decide (off % 4 = 0)
  | .debugAccess (.writeReg off _) => decide (off < 0x100000) && decide (off % 4 = 0)
  | .sensorUpdate r => wfReadings r
  | .arbDecision _ raised _ => raised.all wfArbRequest
  | .ctrSample s _ => wfCtrSet s
  | .ctrReset s _ => wfCtrSet s
  | .ctrSampleReset s _ => wfCtrSet s
  | _ => true

end Sys2Proof
end

