-- ==== Sys2Proof/Config.lean ====
section
/-! DEFINITION. What the spec leaves open: opaque constants with no body, applied to a counter of the state or to the
operands they depend on. Nothing in Lean can evaluate one, so a claim holds whatever it is. -/

namespace Sys2Proof.Config

open Sys2Proof

/-- The free value drawn at a counter (log 12): undefined bytes of a failed part's destination (R310, R363), and every
other value the spec leaves open once. -/
opaque freeWord : Nat → W64

/-- The random source of the armature processor (R339), by the counter. -/
opaque freeIncarnation : Nat → W32

/-- What a public-key operation answers is opaque: Ed25519 (RFC 8032) verification of a signature over a message (R443). -/
opaque ed25519Valid : (key msg sig : List Byte) → Bool

/-- ML-DSA-65 (FIPS 204) verification (R443). -/
opaque mldsaValid : (key msg sig : List Byte) → Bool

/-- The four SHA-384 digests of Jandoene Ed25519 public keys in the ROM (R440). -/
opaque romEdDigest : Fin 4 → BitVec 384

/-- The four SHA-384 digests of Jandoene ML-DSA-65 public keys in the ROM (R440). -/
opaque romMldsaDigest : Fin 4 → BitVec 384

/-- The SHA-384 digest of the ROM itself (R440, R451). -/
opaque romDigest : BitVec 384

/-- The secret that the PUF's 4 KiB array and its helper data give, if they do (R450). -/
opaque pufSecret : (array helper : List Byte) → Option (BitVec 256)

/-- The alias certificate that the DeviceID key signs: it carries the alias key, M and C (R450). -/
opaque aliasCert : (deviceIdSeed aliasSeed meas cfg : BitVec 384) → List Byte

/-- The certificate chain of slot 0: the manufacturing root, the DeviceID certificate in flash, and the alias
certificate (R450, R451). -/
opaque certChain : (deviceIdCert aliasCert : List Byte) → List Byte

/-- What a byte of a memory whose supply was off reads as before it is written again, by the counter and its address. -/
opaque lostByte : Nat → Nat → Byte

/-- An ECDSA P-384 signature with the alias key over a transcript, by the counter its nonce comes from (R451). -/
opaque aliasSignature : (aliasKey : BitVec 384) → (transcript : List Byte) → Nat → BitVec 768

/-- The device's public exchange value of a key exchange on secp384r1 (R451). -/
opaque exchangeValue : Nat → BitVec 768

/-- The fixed order of requesters in which an arbiter instance ranks them at reset (R262): the spec does not say which,
so it is a number for each requester of each instance. -/
opaque arbOrder : (instance_ src unit : Nat) → Nat

/-- Bits within the spec's bound that a transcendental function of FP32 picks (R115, R152, R157), by the function's
number and the operand's code: the choice among the admissible results. -/
opaque ulpChoice : (fn : Nat) → (args : List Nat) → Nat

/-- The FP32 code that a bounded function gives where no FP32 value lies within its bound, beyond the range, unless
the code is a NaN (log 27). -/
opaque beyondRange : (fn : Nat) → (args : List Nat) → BitVec 32

/-- REG of a root record where LAMBDA_REG has no value in Q3.28 (R197, R199): the spec states none. -/
opaque regBeyond : (lambdaReg : Nat) → W32

/-- The steps a chisel core waits beside the one that retires an instruction (R124: at most one a step). -/
opaque chiselStall : Nat → Nat

/-- The nodes a sub-step of the armature processor's SPDM stack reports in capability flags (R451). -/
opaque spdmFlags : W32

end Sys2Proof.Config
end

