-- ==== Sys2Proof/Machine/State.lean ====
section
/-! DEFINITION. State: everything the spec gives the AU-7720, as plain data; State.reset; Fault and Refusal. -/

namespace Sys2Proof.Machine

open Sys2Proof

/-- Why the machine stops with a fault. The device reports every error in a status, a register field, an attention
event or an ignored write, so no meaning raises one. -/
inductive Fault where
  /-- Raised by no command: no event of the spec stops the device without naming what it does (safe). -/
  | unreachable
  deriving DecidableEq, Repr

/-- Why a command has no meaning in the model. -/
inductive Refusal where
  /-- Raised by an arm of exec that has no meaning yet: by none now (safe). -/
  | notModelled (mnemonic : String)
  deriving DecidableEq, Repr

/-! ### Power, pins and start-up -/

/-- Power states of R479. -/
inductive PowerState where
  | off | start | active | park | tripped
  deriving DecidableEq, Repr

/-- Which memories hold no contents since their supply was off (R477, R479, R480, R483): none, those on the die, or the DRAM
too. -/
inductive MemLoss where
  | none | onDie | all
  deriving DecidableEq, Repr

/-- Supply, pins and straps (R437, R477, R479, R486 to R488). `vaon` is the always-on rail, `railsUp` the other rails,
`busySince` the time from which a busy period must still last its 10,000 units (R325), `lost` the memories whose contents
are open (log 25), and `hot` says that a working sensor read its warning threshold or more when the sensors were last sampled
(R483), which no reset forgets. -/
structure Power where
  state : PowerState := .off
  perstLow : Bool := true
  rbHigh : Bool := false
  vaon : Bool := false
  railsUp : Bool := false
  straps : Straps := {}
  strapsLatched : Bool := false
  setpoint : Nat := 620
  busySince : Option W64 := none
  lost : MemLoss := .none
  hot : Bool := false
  deriving DecidableEq, Repr

/-- ARM_ registers and what the armature processor keeps (R448 to R450, R459, R489). -/
structure Arm where
  stage : BitVec 4 := 0
  source : Bool := false
  cfgState : BitVec 2 := 0
  pufOk : Bool := false
  imgErr : BitVec 4 := 0
  cfgErr : BitVec 4 := 0
  wdtRestarts : Byte := 0
  fwVersion : W32 := 0
  fwSvn : W32 := 0
  postCores : W32 := 0
  postStacks : BitVec 20 := 0
  wdtTimeout : W16 := 1000
  wdtArmed : Bool := false
  recovAddr : W64 := 0
  recovBytes : BitVec 25 := 0
  meas : BitVec 384 := 0
  cfgMeas : BitVec 384 := 0
  ownerMeas : BitVec 384 := 0
  aliasKey : BitVec 384 := 0
  aliasCert : List Byte := []
  debugUnlock : Bool := false
  firmware : Bool := false
  memoryInit : Bool := false
  nodeIdWritten : Bool := false
  secret : Option (BitVec 256) := none
  flashOk : Bool := true
  romPending : Bool := true
  deriving DecidableEq, Repr

/-- DEV_STATE and DEV_SCRATCH (R499). -/
structure DevBlock where
  ready : Bool := false
  busyCause : BitVec 3 := 1
  live : Bool := false
  scratch : W64 := 0
  deriving DecidableEq, Repr

/-- PACE_ registers, the governor's and the monitors' own state, and the time base (R31 to R48, R480). `vcore` is VCORE at the
time `vcoreAt`, from which it slews (R38); `capRead` the cap as the governor last read it; `windowsSince` the updates of
PACE_MEASURED since VCORE last moved; `vcoreBack` is VCORE 10,000 units before `vcoreAt`; `tbSince` the time of the last choice of
the time base's source; `fromPark` that a DEVICE test brought the module out of park (R456). -/
structure Pace where
  mode : BitVec 2 := 0
  attnEn : Bool := true
  target : W16 := 940
  cap : BitVec 13 := 3300
  capRead : BitVec 13 := 3300
  tjLimit : BitVec 7 := 95
  vcoreSet : BitVec 10 := 620
  vcore : BitVec 10 := 620
  vcoreAt : W64 := 0
  vcoreBack : BitVec 10 := 620
  inputPower : BitVec 13 := 0
  limit : BitVec 3 := 0
  targetMissed : Bool := false
  capGated : Bool := false
  settled : Bool := false
  measured : W16 := 0
  fields : List W16 := [0, 0, 0, 0]
  gating : Bool := false
  windowsSince : Nat := 0
  tbSource : Bool := false
  tbSwitches : Byte := 0
  tbLost : Bool := false
  tbSince : W64 := 0
  time : W64 := 0
  running : Bool := false
  shadows : List (TimeReader × W32) := []
  parkReq : Bool := false
  parkState : BitVec 3 := 0
  parkRefused : Bool := false
  leaveAsked : Bool := false
  fromPark : Bool := false
  calibrations : Nat := 0
  deriving DecidableEq, Repr

/-- SNS_ registers (R500). Sensor numbers follow SNS_FAILED: 0 to 15 junction, 16 to 35 stacks, 36 and 37 power. -/
structure Sns where
  tj : List W16 := List.replicate 16 0
  tstack : List W16 := List.replicate 20 0
  tpwr : List W16 := [0, 0]
  hotTemp : W16 := 0
  hotField : BitVec 2 := 0
  vin : BitVec 17 := 0
  iin : W16 := 0
  rails : List W16 := List.replicate 7 0
  warnField : BitVec 4 := 0
  warnPwr : BitVec 2 := 0
  warnStack : BitVec 20 := 0
  failed : BitVec 38 := 0
  update : W64 := 0
  deriving DecidableEq, Repr

/-! ### The CXL edge -/

/-- State of the snoop of a directory line (R285). -/
inductive SnoopState where
  | idle | dataSent | invSent | dataDone
  deriving DecidableEq, Repr

/-- One directory entry: a 64-byte HDM line, by its device physical line number (R285). -/
structure DirEntry where
  line : Nat
  snoop : SnoopState := .idle
  evict : Bool := false
  deriving DecidableEq, Repr

/-- One HDM decoder (R283). -/
structure Decoder where
  base : W64 := 0
  committed : Bool := false
  deriving DecidableEq, Repr

/-- One cached ATS translation (R289). -/
structure AtcEntry where
  pasid : BitVec 20
  base : Nat
  sizeLog2 : Nat
  host : Nat
  write : Bool
  denied : Bool := false
  deriving DecidableEq, Repr

/-- One ATS invalidation whose completion has not been sent (R290). -/
structure AtsInval where
  tag : Nat
  pasid : BitVec 20
  base : Nat
  sizeLog2 : Nat
  deriving DecidableEq, Repr

/-- One DOE mailbox (R292). -/
structure Mailbox where
  busy : Bool := false
  object : Option DoeObject := none
  deriving DecidableEq, Repr

/-- One SPDM session: its identifier, whether FINISH has completed it, and its key generations (R451). -/
structure SpdmSession where
  id : W32
  established : Bool
  reqGen : Nat
  rspGen : Nat
  beats : Nat
  deriving DecidableEq, Repr

/-- The SPDM connection of mailbox 0 (R451). -/
structure Spdm where
  version : Bool := false
  capabilities : Bool := false
  algorithms : Bool := false
  keyAlgs : Bool := false
  sessions : List SpdmSession := []
  nextSession : W16 := 1
  sendHandle : Option Byte := none
  sendSeq : Nat := 0
  sendBytes : List Byte := []
  getHandle : Byte := 0
  getBytes : List Byte := []
  getSeq : Nat := 0
  deriving DecidableEq, Repr

/-- What configuration space presents beside the standard decoders and mailboxes (R275, R276, R280, R291, R294, R497): the Vendor ID
and the Device ID, the Interrupt Pin, BAR0 to BAR5 (BAR0 a 64-bit, non-prefetchable memory BAR of 2^20 bytes), the offset in BAR0 that the Register
Locator names, Memory_Active's timeout field, AER's uncorrectable error status, and the mode of CXL.cachemem IDE. -/
structure ConfigSpace where
  vendorId : W16 := 0x2A57
  deviceId : W16 := 0x7720
  interruptPin : Byte := 0
  bars : List W32 := [4, 0, 0, 0, 0, 0]
  bar0SizeLog2 : Nat := 20
  registerLocator : W32 := 0xF0000
  memoryTimeout : BitVec 3 := 1
  aerUncorrectable : W32 := 0
  ideSkid : Bool := false
  deriving DecidableEq, Repr

/-- What software sets in the CXL component registers (R275, R280; layout PRESUMED from CXL 3.1, log 103): the RAS masks and
severity, link control, HDM decoder global control, IDE control, and how many of the errors logged a write of 1 has cleared. -/
structure Component where
  ueMask : W32 := 0x1CFFF
  ueSeverity : W32 := 0x1CFFF
  ceMask : W32 := 0x7F
  linkControl : W32 := 0
  hdmControl : W32 := 0
  ideControl : W32 := 0
  rasCleared : Nat := 0
  ideCleared : Nat := 0
  deriving DecidableEq, Repr

/-- The CXL edge (R275 to R298). IDE_REQ is 0 until a configuration is applied (log 2). `rereads` lists the doorbell lines whose tails
have not been read since link up, and `resetsDue` the resets that LINK_RESETS does not count yet (R295). -/
structure Cxl where
  ideReq : Bool := false
  linkUp : Bool := false
  rate : BitVec 2 := 0
  width : BitVec 2 := 0
  cxlMode : Bool := false
  cacheEn : Bool := false
  memEn : Bool := false
  ideCm : Bool := false
  ideIo : Bool := false
  linkResets : Byte := 0
  errValid : Bool := false
  errAddr : BitVec 58 := 0
  rsvdAccess : W16 := 0
  poisonDropped : W16 := 0
  configLive : Bool := false
  config : ConfigSpace := {}
  busMaster : Bool := false
  memoryActive : Bool := false
  linkWasReset : Bool := false
  dec0 : Decoder := {}
  dec1 : Decoder := {}
  directory : List DirEntry := []
  rereads : List Nat := []
  resetsDue : Nat := 0
  atc : List AtcEntry := []
  invals : List AtsInval := []
  ideKeys : Bool := false
  ideFailures : Nat := 0
  rasInternal : Nat := 0
  component : Component := {}
  mailboxes : List Mailbox := [{}, {}, {}]
  spdm : Spdm := {}
  deriving DecidableEq, Repr

/-! ### Arbitration -/

/-- A class and a quota register (R273, R274), for one kind of instance. -/
structure ArbRegs where
  cls : BitVec 18 := 0
  quota : Byte := 16
  window : W16 := 256
  deriving DecidableEq, Repr

/-- A transfer granted or to be replayed: its requester and the beats left (R259, R270). -/
structure Grant where
  req : Requester
  beats : Nat
  deriving DecidableEq, Repr

/-- A requester's back-off (R268): its exponent and the decision at which it raises again, with its held request. -/
structure Backoff where
  req : Requester
  k : Nat := 0
  until_ : Nat := 0
  held : Option ArbRequest := none
  deriving DecidableEq, Repr

/-- One arbiter instance (R259 to R270). `rank` lists requesters from the highest rank to the lowest; a requester not
in it has not won yet and stands before every one that has, in the fixed reset order. -/
structure ArbInst where
  decision : Nat := 0
  winPos : Nat := 0
  counts : List (Requester × Nat) := []
  rank : List Requester := []
  raised : List ArbRequest := []
  backoff : List Backoff := []
  decided : Option Grant := none
  current : Option Grant := none
  replay : List Grant := []
  emergency : Option Emergency := none
  deriving DecidableEq, Repr

/-- One DRAM channel's refresh state (R246, R247). -/
structure DramChan where
  owed : Nat := 0
  since : Option W64 := none
  deriving DecidableEq, Repr

/-! ### Contexts, rings, doorbells, attention -/

/-- One context's registers (R299). -/
structure Ctx where
  ptRoot : BitVec 40 := 0
  seed : W64 := 0
  stepRec : W64 := 0
  epochAddr : W64 := 0
  pasid : BitVec 20 := 0
  cls : BitVec 3 := 0
  enable : Bool := false
  stepSlots : W16 := 1
  stepSlots2 : W16 := 1
  stride : W64 := 0
  stride2 : W64 := 0
  state : BitVec 2 := 0
  deriving DecidableEq, Repr

/-- The sticky result flags and the flush count (R76, R138). -/
structure Flags where
  overflowSat : Bool := false
  underflowFlush : Bool := false
  invalid : Bool := false
  empty : Bool := false
  warmReject : Bool := false
  pivotReg : Bool := false
  fallback : Bool := false
  versionRetired : Bool := false
  blockFlush : W32 := 0
  deriving DecidableEq, Repr

/-- One ring's registers and what the device keeps for it (R302 to R305, R314, R330, R331, R232). -/
structure Ring where
  base : W64 := 0
  cqBase : W64 := 0
  sizeLog2 : BitVec 5 := 6
  cqLog2 : BitVec 5 := 6
  ctx : BitVec 6 := 0
  mode : BitVec 2 := 0
  dbLine : BitVec 12 := 0
  dbSlot : BitVec 3 := 0
  progLen : BitVec 21 := 0
  enable : Bool := false
  state : BitVec 3 := 0
  err : BitVec 3 := 0
  head : W32 := 0
  tail : W32 := 0
  cqHead : W32 := 0
  cqWritten : W32 := 0
  reserved : Nat := 0
  waiting : Option Nat := none
  passFlags : Flags := {}
  passSkipped : Bool := false
  passRead : Bool := false
  passSum : Bool := false
  boundaryHeld : Bool := false
  deriving DecidableEq, Repr

/-- One doorbell line (R316 to R319), with the data it last gave. -/
structure DbLine where
  valid : Bool := false
  held : Bool := false
  addr : BitVec 46 := 0
  polled : Bool := false
  data : BitVec 512 := 0
  deriving DecidableEq, Repr

/-- One attention event (R321). -/
structure AttnEvent where
  time : W64
  code : W16
  ctx : BitVec 6
  seq : W32
  payload : List Byte
  deriving DecidableEq, Repr

/-- The attention ring, DB_CTRL and RING_CTX_INVAL (R251, R320 to R326, R333). -/
structure Attn where
  pollInterval : BitVec 20 := 10000
  base : W64 := 0
  sizeLog2 : BitVec 5 := 6
  enable : Bool := false
  pulseEn : Bool := true
  head : W32 := 0
  tail : W32 := 0
  fault : Bool := false
  dropped : W16 := 0
  held : List AttnEvent := []
  seq : W32 := 0
  droppedSince : W32 := 0
  pulseLow : Bool := false
  pulseDue : Bool := false
  pulseStart : W64 := 0
  gapFrom : Option W64 := none
  invalCtx : BitVec 6 := 0
  invalBusy : Bool := false
  deriving DecidableEq, Repr

/-- One cached translation of one core (R251). -/
structure TlbEntry where
  core : Nat
  ctx : Nat
  page : Nat
  sizeLog2 : Nat
  base : Nat
  host : Bool
  write : Bool
  deriving DecidableEq, Repr

/-! ### The fabric -/

/-- One Rellon port (R337, R338, R371). `lanes` is how many trained; `fell` that it has gone down and not come up since (R337). -/
structure Port where
  enable : Bool := false
  sideLink : Bool := false
  state : BitVec 3 := 0
  partner : BitVec 10 := 0
  partnerPort : BitVec 5 := 0
  partnerSide : BitVec 1 := 0
  refuse : BitVec 4 := 0
  retrains : Byte := 0
  retries : BitVec 24 := 0
  lanes : Nat := 0
  lastTrain : W64 := 0
  fell : Bool := false
  deriving DecidableEq, Repr

/-- One membership entry (R341, R372), with the times of the last announce, and of the last frame that came from the node
itself (R339). NEIGHBOUR is read off the ports. -/
structure Member where
  state : BitVec 3 := 0
  hops : BitVec 4 := 0
  feedId : BitVec 4 := 0
  moduleId : BitVec 8 := 0
  role : BitVec 3 := 0
  busy : Bool := false
  incarn : W32 := 0
  lastSeen : W64 := 0
  lastAnnounce : W64 := 0
  lastFrame : W64 := 0
  deriving DecidableEq, Repr

/-- One entry of a group record (R347). -/
structure GroupEntry where
  node : BitVec 10
  ctx : BitVec 6
  rgroup : Byte
  incarn : W32
  deriving DecidableEq, Repr

/-- The device's own copy of a group record (R347). -/
structure GroupRec where
  members : Nat := 0
  ownRank : Nat := 0
  portMask : BitVec 24 := 0
  entries : List GroupEntry := []
  deriving DecidableEq, Repr

/-- What has arrived for a collective of a group, by sender, sequence, kind and offset, and the port it came in on (R349, R353,
R357, R362). -/
structure CollRx where
  rank : Nat
  seq : Nat
  phase : Nat
  offset : Nat
  bytes : List Byte
  port : Nat
  deriving DecidableEq, Repr

/-- One group (R347 to R350, R353, R372). `lost` lists the ranks that have failed since the group was enabled (R350). -/
structure Group where
  addr : W64 := 0
  enable : Bool := false
  kind : Bool := false
  ctx : BitVec 6 := 0
  err : BitVec 3 := 0
  gen : W16 := 0
  record : GroupRec := {}
  nextSeq : Nat := 0
  headers : List (Nat × CollHeader) := []
  credits : List (Nat × Nat × Option Nat) := []
  mismatches : List Nat := []
  lost : List Nat := []
  rx : List CollRx := []
  deriving DecidableEq, Repr

/-- One route entry (R344, R372). -/
structure Route where
  ports : BitVec 24 := 0
  alt : BitVec 24 := 0
  valid : Bool := false
  deriving DecidableEq, Repr

/-- One frame sent and not acknowledged (R335, R346); `hops` is that of an announce (R340). -/
structure TxFrame where
  port : Nat
  dest : BitVec 10
  msg : Nat
  frame : Nat
  body : FabMsg
  mask : BitVec 24
  sends : Nat
  sentAt : W64
  hops : BitVec 4 := 0
  deriving DecidableEq, Repr

/-- A frame of a COPY that has been acknowledged, with the node that sent it, whose access waits here (R26, R335, R367). -/
structure RxWait where
  src : BitVec 10
  body : FabMsg
  deriving DecidableEq, Repr

/-- What a module keeps for the fabric as a whole (R335, R339 to R343, R367, R368, R370, R474). -/
structure Fab where
  nodeId : BitVec 10 := 0
  announceMs : Byte := 10
  hbLostUs : W16 := 1000
  attnEn : Bool := true
  duplicates : Byte := 0
  incarn : W32 := 0
  twinState : BitVec 3 := 0
  twinIncarn : W32 := 0
  twinRole : BitVec 3 := 0
  twinSeen : W64 := 0
  annSeq : W32 := 0
  changed : Bool := false
  forwarded : List (Nat × Nat) := []
  nextMsg : Nat := 0
  tx : List TxFrame := []
  seen : List (Nat × Nat × Nat) := []
  rxWaits : List RxWait := []
  stitchFaults : BitVec 4 := 0
  deriving DecidableEq, Repr

/-! ### Moulds -/

/-- A charge slot or the worker link (R387 to R391, R398, R405, R410). -/
structure Pair where
  node : BitVec 10 := 0
  ctx : BitVec 6 := 0
  group : Byte := 0
  incarn : W32 := 0
  enable : Bool := false
  override : Bool := false
  unprot : Bool := false
  state : BitVec 3 := 0
  err : BitVec 3 := 0
  cast : W32 := 0
  persisted : W32 := 0
  lastClose : W32 := 0
  seq : W64 := 0
  layers : W32 := 0
  deriving DecidableEq, Repr

/-- A record queued for forwarding (R404). -/
structure StreamItem where
  ctx : Nat
  addr : W64
  bytes : Nat
  slot : Nat
  closeStep : Option W32
  deriving DecidableEq, Repr

/-- The MOULD_ block (R385, R404, R409, R410). `asked` lists the pairing frames, by group and sender, that no side of this module has
taken or answered (R388). -/
structure Mould where
  role : BitVec 3 := 0
  castLag : Byte := 8
  attnEn : Bool := true
  ssBase : W64 := 0
  ssSize : BitVec 6 := 30
  ssEnable : Bool := false
  ssTailPtr : W64 := 0
  ssHead : W64 := 0
  ssTail : W64 := 0
  pairs : List Pair := [{}, {}, {}, {}, {}]
  queue : List StreamItem := []
  asked : List (Byte × BitVec 10) := []
  deriving DecidableEq, Repr

/-! ### Counters and trace -/

/-- One command waiting in CTR_CMD's queue (R467). -/
structure CtrCmd where
  op : BitVec 2
  set : BitVec 12
  addr : W64
  deriving DecidableEq, Repr

/-- One context's mirror (R466). -/
structure Mirror where
  addr : W64 := 0
  period : BitVec 24 := 0
  stepEn : Bool := false
  deriving DecidableEq, Repr

/-- A mirror's sample, latched, whose write waits (R26, R466). -/
structure MirrorWait where
  ctx : Nat
  addr : W64
  seq : Nat
  body : List Byte
  deriving DecidableEq, Repr

/-- Counter sets, their ports and mirrors (R460 to R467, R475). Counter `i` of set `s` has the key 4,096 s + i. -/
structure Ctr where
  values : Tab W64 := []
  epochs : Tab W32 := []
  samples : Tab W64 := []
  queue : List CtrCmd := []
  cmdAddr : W64 := 0
  overrun : Bool := false
  mirrorFaults : W16 := 0
  mirrors : Tab Mirror := []
  mirrorWaits : List MirrorWait := []
  deriving DecidableEq, Repr

/-- One trace record (R469). -/
structure TraceRec where
  time : W64
  type : Byte
  ctx : BitVec 6
  source : W16
  payload : List Byte
  deriving DecidableEq, Repr

/-- A queue in front of the trace buffer: four trace ports and the fabric logger (R470). -/
structure TraceQueue where
  records : List TraceRec := []
  drops : Nat := 0
  deriving DecidableEq, Repr

/-- The trace buffer and its registers (R468 to R475). `drained` counts the bytes drained to the spill region, `armBase` is
that count at the last ARM, `stopAt` the count at which a triggered capture into the region stops, and `dumpWaits` says that a
DUMP's copy waits. -/
structure Trc where
  mode : BitVec 2 := 0
  pre : BitVec 4 := 8
  running : Bool := false
  triggered : Bool := false
  dumped : Bool := false
  droppedFull : BitVec 11 := 0
  trigEn : BitVec 4 := 0
  trigCtx : BitVec 6 := 0
  trigStall : Byte := 0
  trigCode : BitVec 13 := 0
  src : BitVec 10 := 0
  interval : BitVec 20 := 1000
  fabGroups : W64 := 0
  spillBase : W64 := 0
  spillSize : BitVec 5 := 24
  spillEnable : Bool := false
  spillTail : W64 := 0
  buffer : List TraceRec := []
  armBase : W64 := 0
  stopAt : Option Nat := none
  queues : List TraceQueue := [{}, {}, {}, {}, {}]
  causes : List Nat := []
  dumpWaits : Bool := false
  drained : W64 := 0
  deriving DecidableEq, Repr

/-! ### Management -/

/-- The JTAG instruction in force (R489). -/
inductive JtagInstr where
  | bypass | idcode | samplePreload | extest | debug
  deriving DecidableEq, Repr

/-- The I3C offset and the JTAG registers (R489, R504). -/
structure Mgmt where
  i3cOffset : W32 := 0
  jtag : JtagInstr := .idcode
  bypassBit : Bool := false
  boundary : List Bool := []
  pinsDriven : Bool := false
  deriving DecidableEq, Repr

/-- The value of one SPDM response (R451). -/
inductive SpdmRsp where
  | version (versions : List Byte)
  | capabilities
  | algorithms (asym hash dhe aead : Nat)
  | digests (slot0 : BitVec 384)
  | certificate (portion : List Byte) (remainder : Nat)
  | challengeAuth (certHash nonce : Nat) (signature : BitVec 768)
  | measurements (blocks : List (Nat × Nat × List Byte)) (signature : Option (BitVec 768))
  | keyExchangeRsp (session : W32) (exchange signature : BitVec 768)
  | finishRsp
  | keyUpdateAck (op tag : Byte)
  | heartbeatAck
  | endSessionAck
  | chunkSendAck (handle : Byte) (seqNo : Nat)
  | chunkResponse (handle : Byte) (seqNo : Nat) (last : Bool) (chunk : List Byte)
  | error (code : Byte)
  deriving DecidableEq, Repr

/-- One entry of the CDAT (R292). -/
structure CdatEntry where
  base : Nat
  length : Nat
  readLatencyNs : Nat
  bandwidthGBs : Nat
  deriving DecidableEq, Repr

/-- What the device has put on its interfaces. -/
inductive Out where
  | hdmData (addr : Nat) (line : List Byte)
  | hdmDone (addr : Nat)
  | hdmError (addr : Nat)
  | bisnp (line : Nat) (write : Bool)
  | rdShared (line : Nat)
  | snoopAnswer (line : Nat)
  | hostRead (cache : Bool) (addr size : Nat)
  | hostWrite (cache : Bool) (addr size : Nat)
  | cleanEvict (line : Nat)
  | dbRead (line : Nat)
  | atsRequest (pasid : BitVec 20) (addr : Nat)
  | atsInvalCompletion (tag : Nat)
  | unsupportedRequest
  | doeDiscovery (mailbox : Nat) (types : List Nat) (next : Nat)
  | cdat (entries : List CdatEntry)
  | spdm (session : Option W32) (r : SpdmRsp)
  | ideKmAck (session : W32)
  | i3cData (bytes : List Byte)
  | jtagBit (b : Bool)
  | jtagIdcode (v : W32)
  | jtagPins (pins : List Bool)
  | debugData (bytes : List Byte)
  | barData (v : W64)
  | frame (port : Nat) (src dest : BitVec 10) (msg frame : Nat) (m : FabMsg)
  | flood (ports : List Nat) (hops : BitVec 4) (msg : Nat) (m : FabMsg)
  deriving DecidableEq, Repr

/-! ### Descriptors, engines and chisel cores -/

/-- How far a part has come (R87, R131, R149, R309). -/
inductive PartState where
  | queued | running | ended | done
  deriving DecidableEq, Repr

/-- One part of a fetched descriptor (R309 to R311): where it runs, what it has reported, and how far it has come. -/
structure Part where
  state : PartState := .queued
  unit : Nat := 0
  status : Byte := 0
  flags : Flags := {}
  faultAddr : W64 := 0
  exitCode : W16 := 0
  progress : Nat := 0
  deriving DecidableEq, Repr

/-- A segment of data that a member has sent for a collective: its kind, the rank it went to, its number, and the number of
its message (R335, R344). -/
structure CollSent where
  phase : Nat
  rank : Nat
  seg : Nat
  msg : Nat
  deriving DecidableEq, Repr

/-- The fold of one segment of an owner's chunk (R356, R357): the rank whose contribution comes next, the partial nodes with
their heights in the tree, the newest first, and the port whose collective engine folds. -/
structure CollFold where
  seg : Nat
  next : Nat := 0
  nodes : List (Nat × List Nat) := []
  port : Nat := 0
  deriving DecidableEq, Repr

/-- A collective under way (R349, R352, R353, R356): its sequence, its ports at fetch, the parts whose ports the segments of each
rank were dealt to then, in turn (`deal`), and how far it has come: `stage` is 1
once its headers are sent and 2 once data move; `sent` lists the segments sent, `opened` counts the segments of its own chunk
for which it has granted credit, `folds` those not folded yet, and `got` the segments written here, by rank and number. -/
structure CollRun where
  seq : Nat
  ports : List Nat
  deal : List (List Nat) := []
  stage : Nat := 0
  sent : List CollSent := []
  opened : Nat := 0
  folds : List CollFold := []
  got : List (Nat × Nat) := []
  deriving DecidableEq, Repr

/-- A descriptor fetched and not completed, as the staging area holds it (R239, R304). `sub` names the chisel core and
the handle that launched a sub-descriptor, and `parent` its kernel and part (R136); `orphan` says that its ring has been
enabled again since, so that it has no place in the completion queue. -/
structure Desc where
  id : Nat
  ring : Nat
  sub : Option (Nat × Nat) := none
  parent : Option (Nat × Nat) := none
  ctx : Nat
  unitIndex : W32 := 0
  step : W32 := 0
  time : W64 := 0
  bytes : List Byte := []
  cls : Nat := 0
  parts : List Part := []
  slots : Nat := 0
  promoted : Bool := false
  noSignal : Bool := false
  coll : Option CollRun := none
  subFlags : Flags := {}
  startedAt : Option W64 := none
  orphan : Bool := false
  hostFed : Bool := false
  deriving DecidableEq, Repr

/-- What a bank is doing (R86 to R88, R108 to R111). -/
inductive BankPhase where
  | free | filling | held | closed | draining
  deriving DecidableEq, Repr

/-- One accumulator bank (R18): 64-bit positions, key 256 × row + column, with the group sums of a K tile that is not
complete still in the trees (R102), key 128 × position + group. `drop` says that its context failed or was disabled while a
keep-mode part filled it, so that it is released at the part's end (R88). -/
structure Bank where
  phase : BankPhase := .free
  owner : Option (Nat × Nat) := none
  ctx : Nat := 0
  block : Nat := 0
  order : Nat := 0
  drop : Bool := false
  cells : Tab W64 := []
  pend : Tab W64 := []
  deriving DecidableEq, Repr

/-- One part in an engine's queue (R87, R379): its place in its sequence of output blocks and stationary tiles, the bank
it holds and the bank its last block held (R86), the per-tensor scales read when the block started (R79), and whether the
second pass of a backward pair over the tile is still to come (R211). -/
structure EngPart where
  d : Nat
  p : Nat
  drain : Bool := false
  block : Nat := 0
  tile : Nat := 0
  bank : Option Nat := none
  lastBank : Option Nat := none
  started : Bool := false
  scaleA : W32 := 0x3F800000
  scaleB : W32 := 0x3F800000
  second : Bool := false
  deriving DecidableEq, Repr

/-- A stationary register set (R83): the tile it holds and the codes in its plain and transposed slots. `full` says that it was loaded
at a change of part, which pays its load in full (R380). -/
structure StatSet where
  d : Nat := 0
  p : Nat := 0
  block : Nat := 0
  tile : Nat := 0
  loaded : Bool := false
  full : Bool := false
  plain : Tab W32 := []
  transposed : Tab W32 := []
  scales : Tab Byte := []
  deriving DecidableEq, Repr

/-- One engine: its queue, its running part, its two stationary sets and its two banks (R83, R86, R87). -/
structure Engine where
  queue : List EngPart := []
  current : Option (Nat × Nat) := none
  active : StatSet := {}
  shadow : StatSet := {}
  bank0 : Bank := {}
  bank1 : Bank := {}
  closes : Nat := 0
  deriving DecidableEq, Repr

/-- One of a chisel core's sixteen handles (R137): the sub-descriptor that holds it, and once complete its status word and
its faulting address. -/
structure Handle where
  desc : Option Nat := none
  word : Option W64 := none
  addr : W64 := 0
  deriving DecidableEq, Repr

/-- What a chisel core is doing (R131 to R137). -/
inductive RunState where
  | idle | running | atCbar
  deriving DecidableEq, Repr

/-- One chisel core (R124 to R137). `fetched` holds the 16-bit parcels that the instruction cache has fetched (R127), and
`barrierRd` the destination of the cbar at which it waits. -/
structure Chisel where
  run : RunState := .idle
  barrierRd : Nat := 0
  d : Nat := 0
  p : Nat := 0
  pc : W64 := 0
  regs : Tab W64 := []
  scratch : Tab Byte := []
  fetched : Tab (Option W16) := []
  reserved : Option (Nat × Nat) := none
  handles : List Handle := List.replicate 16 {}
  cycle : W64 := 0
  instret : W64 := 0
  deriving DecidableEq, Repr

/-- One stream table entry held (R19, R239, R240): the core whose store holds it, its place among the 32,768 there, and the
part it tracks. -/
structure StabEntry where
  core : Nat
  slot : Nat
  d : Nat
  p : Nat
  deriving DecidableEq, Repr

/-- Who asks for a stream table entry (R240): a part of a descriptor, a ring's fetch, or a chisel core's dlaunch. -/
inductive StabIssuer where
  | part (d p : Nat)
  | fetch (r : Nat)
  | launch (i : Nat)
  deriving DecidableEq, Repr

/-! ### The whole -/

/-- Everything the device holds besides the bytes of its memories and its command queue. `stabWaits` lists the issuers that have
found their stream table full and wait, each counted once (R240, R462). -/
structure Dev where
  power : Power := {}
  arm : Arm := {}
  blk : DevBlock := {}
  pace : Pace := {}
  sns : Sns := {}
  cxl : Cxl := {}
  arbRegs : List ArbRegs := [{ cls := 0x5000 }, { cls := 0x5000 }, { cls := 0x14000 }, { cls := 0x5000 }]
  arbs : Tab ArbInst := []
  chans : Tab DramChan := []
  ctxs : Tab Ctx := []
  rings : Tab Ring := []
  dbLines : Tab DbLine := []
  attn : Attn := {}
  tlb : List TlbEntry := []
  descs : List Desc := []
  nextDesc : Nat := 0
  engines : Tab Engine := []
  chisels : Tab Chisel := []
  stab : List StabEntry := []
  stabWaits : List StabIssuer := []
  fenced : W32 := 0
  ue : List Nat := []
  ueTimes : Tab (List W64) := []
  stackFault : BitVec 20 := 0
  retired : Bool := false
  ports : Tab Port := []
  fab : Fab := {}
  members : Tab Member := []
  groups : Tab Group := []
  routes : Tab Route := []
  mould : Mould := {}
  ctr : Ctr := {}
  trc : Trc := {}
  mgmt : Mgmt := {}
  torn : List FlashKind := []
  out : List Out := []
  free : Nat := 0
  timers : Tab W64 := []
  scrubbed : Tab (Option W64) := []
  deriving DecidableEq, Repr

/-- The machine: the device, its memories as sparse tables of bytes (device memory by device physical address, R236;
host memory as the host answers the device; flash, R441), and the commands that wait, first in, first out. -/
structure State where
  dev : Dev := {}
  mem : List Host.Cell := []
  host : List Host.Cell := []
  flash : List Host.Cell := []
  pending : List Instr := []
  deriving DecidableEq, Repr

/-- What a byte of device memory that the table does not list reads as: the zero that start-up wrote (R438). -/
def memDefault : Byte := 0
/-- What an unlisted byte of host memory reads as (DESIGN CHOICE, log 6). -/
def hostDefault : Byte := 0
/-- What an unlisted byte of flash reads as (DESIGN CHOICE, log 4). -/
def flashDefault : Byte := 0xFF

/-- The canonical form of the three memories. -/
def Memory.wf (s : State) : Bool :=
  tabWf memDefault s.mem && tabWf hostDefault s.host && tabWf flashDefault s.flash

/-- The machine at reset: no power applied, every register at the reset value of its map (R11), no command waiting. -/
def State.reset : State := { dev := { power := { lost := .all } } }

end Sys2Proof.Machine
end

