-- ==== Sys2Proof/Machine/Flags.lean ====
section
/-! DEFINITION. Statuses (R309), and the sticky result flags and the status word they make (R76, R138). -/

namespace Sys2Proof.Machine

open Sys2Proof

/-! ### Status codes (R309) -/

def stSuccess : Byte := 0x00
def stBusy : Byte := 0x01
def stMalformed : Byte := 0x10
def stKernelError : Byte := 0x11
def stVersionRetired : Byte := 0x12
def stTimeout : Byte := 0x13
def stKernelFault : Byte := 0x14
def stTranslation : Byte := 0x15
def stHostMemory : Byte := 0x16
def stRemote : Byte := 0x17
def stFenced : Byte := 0x18
def stAborted : Byte := 0x19
def stMemoryUe : Byte := 0x1A

/-! ### Flags (R76, R138) -/

/-- The OR of the flags and the saturating sum of the flush counts (R76). -/
def Flags.join (a b : Flags) : Flags :=
  { overflowSat := a.overflowSat || b.overflowSat
    underflowFlush := a.underflowFlush || b.underflowFlush
    invalid := a.invalid || b.invalid
    empty := a.empty || b.empty
    warmReject := a.warmReject || b.warmReject
    pivotReg := a.pivotReg || b.pivotReg
    fallback := a.fallback || b.fallback
    versionRetired := a.versionRetired || b.versionRetired
    blockFlush := satAdd a.blockFlush b.blockFlush.toNat }

/-- Bits [15:8] of the status word (R138). -/
def flagByte (f : Flags) : Nat :=
  b2n f.overflowSat + 2 * b2n f.underflowFlush + 4 * b2n f.invalid + 8 * b2n f.empty + 16 * b2n f.warmReject +
    32 * b2n f.pivotReg + 64 * b2n f.fallback + 128 * b2n f.versionRetired

/-- The status word of R138. -/
def statusWord (st : Byte) (f : Flags) : W64 :=
  BitVec.ofNat 64 (st.toNat + 256 * flagByte f + 65536 * f.blockFlush.toNat + 2 ^ 48)

end Sys2Proof.Machine
end

