-- ==== Sys2Proof/Machine/Ops.lean ====
section
/-! DEFINITION. The named operations every meaning is made of: a command's work on the device and its stores, events,
counters, traces, descriptors and their parts, the failure path, and access to memory. -/

namespace Sys2Proof.Machine

open Sys2Proof

/-! ### A command's work -/

/-- The three memories. -/
inductive Space where
  | dev | host | flash
  deriving DecidableEq, Repr

/-- One byte stored by a command. -/
structure Store where
  space : Space
  addr : Nat
  byte : Byte
  deriving DecidableEq, Repr

/-- Which device memory a command first writes with zero (R438, R480). -/
inductive Wipe where
  | none | onDie | all
  deriving DecidableEq, Repr

/-- Base of the core stores in the device physical address map (R236). -/
def cstoreBase : Nat := 0x8000000000

/-- Device memory after a wipe. -/
def wipeMem : Wipe → List Host.Cell → List Host.Cell
  | .none, m => m
  | .onDie, m => m.filter (fun c => decide (c.1 < cstoreBase))
  | .all, _ => []

/-- A byte of a memory whose contents are open since its supply was off (log 25). -/
def memLost : MemLoss → Nat → Bool
  | .none, _ => false
  | .onDie, a => decide (cstoreBase ≤ a)
  | .all, _ => true

/-- What a byte of device memory reads as: what was last written there, or an open value where the memory has lost its
contents (log 25). -/
def devByte (v : Dev) (m : List Host.Cell) (a : Nat) : Byte :=
  let b := tabGet memDefault m a
  if memLost v.power.lost a && b = memDefault then Config.lostByte v.free a else b

/-- Contents lost in addition. -/
def MemLoss.join : MemLoss → MemLoss → MemLoss
  | .all, _ => .all
  | _, .all => .all
  | .onDie, _ => .onDie
  | .none, l => l

/-- A version pair's buffer as one descriptor uses it (R226 to R228): where the buffer and its tags lie, the weight's stored rows
and columns, row stride and bits per element, whether it is HEADTAIL, or block-scaled, tiles per row and in all, the expected tag,
and whether it is the destination. -/
structure VerWin where
  buf : W64
  bytes : Nat
  tags : W64
  rows : Nat
  cols : Nat
  ldw : Nat
  bits : Nat
  ht : Bool
  blk : Bool
  ct : Nat
  tiles : Nat
  tag : Nat
  dest : Bool
  deriving DecidableEq, Repr

/-- Who accesses memory: its context, the core whose translation cache it uses, whether it is an engine (R92) or a chisel
core (R126), the version pair its descriptor names (R306), and the ranges of addresses that its present transfers write
whole (R237, R257). -/
structure Requestor where
  ctx : Nat
  core : Option Nat := none
  engine : Bool := false
  chisel : Bool := false
  ver : Option VerWin := none
  spans : List (Nat × Nat) := []
  deriving DecidableEq, Repr

/-- A destination that is undefined if the part that writes it fails (R310): who writes it, and which bytes. -/
structure Dest where
  who : Requestor
  va : W64
  n : Nat
  deriving DecidableEq, Repr

/-- A command at work: the device as it changes, the memories as the command found them, and the stores so far, newest
first. One command is one indivisible step, so its stores take effect together when it ends. -/
structure Work where
  dev : Dev
  mem : List Host.Cell
  host : List Host.Cell
  flash : List Host.Cell
  stores : List Store := []
  wiped : Wipe := .none
  dest : List Dest := []
  snooped : List Nat := []
  flags : Flags := {}

/-- The latest store of a command to an address. -/
def storeAt (sp : Space) (a : Nat) : List Store → Option Byte
  | [] => none
  | x :: t => if x.space = sp ∧ x.addr = a then some x.byte else storeAt sp a t

/-- What a byte of a memory reads as during a command. -/
def peek (sp : Space) (a : Nat) (w : Work) : Byte :=
  match storeAt sp a w.stores with
  | some b => b
  | none =>
    match sp with
    | .dev => devByte w.dev (wipeMem w.wiped w.mem) a
    | .host => tabGet hostDefault w.host a
    | .flash => tabGet flashDefault w.flash a

/-- One byte stored. -/
def poke (sp : Space) (a : Nat) (b : Byte) (w : Work) : Work := { w with stores := ⟨sp, a, b⟩ :: w.stores }

/-- Bytes stored from an address up. -/
def pokes (sp : Space) (a : Nat) : List Byte → Work → Work
  | [], w => w
  | b :: bs, w => pokes sp (a + 1) bs (poke sp a b w)

/-- Bytes read from an address up. -/
def peeks (sp : Space) (a : Nat) : Nat → Work → List Byte
  | 0, _ => []
  | n + 1, w => peek sp a w :: peeks sp (a + 1) n w

/-- A memory with a command's stores to it, oldest first, kept in the canonical form. -/
def applyStores (sp : Space) (d : Byte) (m : List Host.Cell) : List Store → List Host.Cell
  | [] => m
  | x :: t => if x.space = sp then tabPut d (applyStores sp d m t) x.addr x.byte else applyStores sp d m t

/-- A command's work at its start. -/
def workOf (s : State) : Work := { dev := s.dev, mem := s.mem, host := s.host, flash := s.flash }

/-- Whether a store lies in a reserved range of device memory. -/
def storeHits (x : Store) (a n : Nat) : Bool := x.space = .dev && decide (a ≤ x.addr) && decide (x.addr < a + n)

/-- A chisel core's reservation is hit by one of a command's stores. -/
def reservedHit (l : List Store) (c : Chisel) : Bool := c.reserved.any (fun r => l.any (fun x => storeHits x r.1 r.2))

/-- A store to a location that a chisel core has reserved, by whomever, breaks the reservation (R128). -/
def breakReserved (l : List Store) (v : Dev) : Dev :=
  if v.chisels.any (fun c => reservedHit l c.2) then
    { v with chisels := tabMap {} (fun _ c => if reservedHit l c then { c with reserved := none } else c) v.chisels }
  else v

/-- The state a command's work leaves: its device, its memories with its stores, and the queue as it was. -/
def commit (s : State) (w : Work) : State :=
  { dev := breakReserved w.stores w.dev
    mem := applyStores .dev memDefault (wipeMem w.wiped s.mem) w.stores
    host := applyStores .host hostDefault s.host w.stores
    flash := applyStores .flash flashDefault s.flash w.stores
    pending := s.pending }

/-- A meaning that works on the device and its memories. -/
def runWork (f : Work → Work) (s : State) : Host.Outcome State Fault Refusal := .next (commit s (f (workOf s)))

/-- A meaning that changes the device and stores nothing. -/
def runDev (f : Dev → Dev) (s : State) : Host.Outcome State Fault Refusal := .next { s with dev := f s.dev }

/-- A change of the device as a step of a command's work. -/
def onDev (f : Dev → Dev) (w : Work) : Work := { w with dev := f w.dev }

/-- What only a device whose rails are up does: with them off nothing but the always-on domain runs (R479). -/
def powered (f : Dev → Dev) (v : Dev) : Dev := if v.power.railsUp then f v else v
def poweredWork (f : Work → Work) (w : Work) : Work := if w.dev.power.railsUp then f w else w

/-! ### Time, free values, outputs, timers -/

/-- The time base (R39). -/
def now (v : Dev) : W64 := v.pace.time

/-- Time-base units from `t` to now, modulo the counter. -/
def since (v : Dev) (t : W64) : Nat := (v.pace.time - t).toNat

/-- Something the device puts on an interface. -/
def emit (o : Out) (v : Dev) : Dev := { v with out := v.out ++ [o] }

/-- The next free value, drawn. -/
def freeVal (v : Dev) : W64 := Config.freeWord v.free

/-- The counter of free values advanced. -/
def freeNext (v : Dev) : Dev := { v with free := v.free + 1 }

/-- `n` free bytes at the counter. -/
def freeBytes (v : Dev) : Nat → List Byte
  | 0 => []
  | n + 1 => (Config.freeWord (v.free + n)).setWidth 8 :: freeBytes v n

/-- Whether a periodic event's period has run since it last happened (log 13), or it has not happened yet. -/
def timerDue (v : Dev) (k period : Nat) : Bool := decide (period ≤ since v (tabGet 0 v.timers k))

/-- A periodic event marked as happening now. -/
def timerMark (k : Nat) (v : Dev) : Dev := { v with timers := tabPut 0 v.timers k (now v) }

/-- One unit of the time base while it counts (R39): what a step on an empty queue does (log 15). -/
def idle (s : State) : State :=
  if s.dev.pace.running then { s with dev := { s.dev with pace := { s.dev.pace with time := s.dev.pace.time + 1 } } } else s

/-! ### Accessors of the tables -/

def getCtx (v : Dev) (x : Nat) : Ctx := tabGet {} v.ctxs x
def setCtx (x : Nat) (c : Ctx) (v : Dev) : Dev := { v with ctxs := tabPut {} v.ctxs x c }
def modCtx (x : Nat) (f : Ctx → Ctx) (v : Dev) : Dev := setCtx x (f (getCtx v x)) v
def getRing (v : Dev) (r : Nat) : Ring := tabGet {} v.rings r
def setRing (r : Nat) (x : Ring) (v : Dev) : Dev := { v with rings := tabPut {} v.rings r x }
def modRing (r : Nat) (f : Ring → Ring) (v : Dev) : Dev := setRing r (f (getRing v r)) v
def getDb (v : Dev) (i : Nat) : DbLine := tabGet {} v.dbLines i
def setDb (i : Nat) (x : DbLine) (v : Dev) : Dev := { v with dbLines := tabPut {} v.dbLines i x }
def getEngine (v : Dev) (e : Nat) : Engine := tabGet {} v.engines e
def setEngine (e : Nat) (x : Engine) (v : Dev) : Dev := { v with engines := tabPut {} v.engines e x }
def modEngine (e : Nat) (f : Engine → Engine) (v : Dev) : Dev := setEngine e (f (getEngine v e)) v
def getChisel (v : Dev) (i : Nat) : Chisel := tabGet {} v.chisels i
def setChisel (i : Nat) (x : Chisel) (v : Dev) : Dev := { v with chisels := tabPut {} v.chisels i x }
def modChisel (i : Nat) (f : Chisel → Chisel) (v : Dev) : Dev := setChisel i (f (getChisel v i)) v
def getPort (v : Dev) (p : Nat) : Port := tabGet {} v.ports p
def setPort (p : Nat) (x : Port) (v : Dev) : Dev := { v with ports := tabPut {} v.ports p x }
def getMember (v : Dev) (n : Nat) : Member := tabGet {} v.members n
def setMember (n : Nat) (x : Member) (v : Dev) : Dev := { v with members := tabPut {} v.members n x }
def getGroup (v : Dev) (g : Nat) : Group := tabGet {} v.groups g
def setGroup (g : Nat) (x : Group) (v : Dev) : Dev := { v with groups := tabPut {} v.groups g x }
def modGroup (g : Nat) (f : Group → Group) (v : Dev) : Dev := setGroup g (f (getGroup v g)) v
def getRoute (v : Dev) (n : Nat) : Route := tabGet {} v.routes n
def getArb (v : Dev) (i : Nat) : ArbInst := tabGet {} v.arbs i
def setArb (i : Nat) (x : ArbInst) (v : Dev) : Dev := { v with arbs := tabPut {} v.arbs i x }
def getChan (v : Dev) (i : Nat) : DramChan := tabGet {} v.chans i
def setChan (i : Nat) (x : DramChan) (v : Dev) : Dev := { v with chans := tabPut {} v.chans i x }
def getPair (v : Dev) (k : Nat) : Pair := v.mould.pairs.getD k {}
def setPair (k : Nat) (x : Pair) (v : Dev) : Dev :=
  { v with mould := { v.mould with pairs := v.mould.pairs.set k x } }
def getDesc (v : Dev) (d : Nat) : Option Desc := v.descs.find? (fun x => x.id = d)
def modDesc (d : Nat) (f : Desc → Desc) (v : Dev) : Dev :=
  { v with descs := v.descs.map (fun x => if x.id = d then f x else x) }
def modPart (d p : Nat) (f : Part → Part) (v : Dev) : Dev :=
  modDesc d (fun x => { x with parts := x.parts.modify p f }) v

/-- Numbers below `n`. -/
def upto (n : Nat) : List Nat := List.range n

/-! ### Counters (R460 to R467) -/

/-- A counter of a set, saturating at 2^64 − 1 (R460). -/
def ctrAdd (set idx n : Nat) (v : Dev) : Dev :=
  let k := 4096 * set + idx
  { v with ctr := { v.ctr with values := tabPut 0 v.ctr.values k (satAdd (tabGet 0 v.ctr.values k) n) } }

/-- A high-water counter (R462). -/
def ctrHigh (set idx n : Nat) (v : Dev) : Dev :=
  let k := 4096 * set + idx
  { v with ctr := { v.ctr with
    values := if (tabGet 0 v.ctr.values k).toNat < n then tabPut 0 v.ctr.values k (BitVec.ofNat 64 n) else v.ctr.values } }

/-- A counter of steps of work, which a command advances by a free amount: what work takes is timing (R27, R28, R461;
log 88). -/
def ctrSteps (set idx : Nat) (v : Dev) : Dev := freeNext (ctrAdd set idx (freeVal v).toNat v)

/-- Steps of a pass on a core's engines: those of the context, which are the `n` in which rows enter and the `prime` of the
corner turn that its work takes (R84), and those it spends waiting for a grant (R27, R89), and those of the core, counted also
where the context is of class FILL (R461, R462; log 88). `prime` counts too the steps for which a short pass waits for the next
tile's load (R85). -/
def ctrPass (ctx core n prime : Nat) (v : Dev) : Dev :=
  let stall := prime + (freeVal v).toNat
  let v := freeNext (ctrAdd ctx 1 stall (ctrAdd ctx 0 (n + stall) v))
  let busy := (freeVal v).toNat % (n + stall + 1)
  let v := freeNext (ctrAdd (0x100 + core) 0 busy v)
  if (getCtx v ctx).cls = 2 then ctrAdd (0x100 + core) 1 busy v else v

/-! ### The stream table (R19, R25, R239, R240) -/

/-- Entries that a core's stream table holds (R19). -/
def stabRoom : Nat := 32768

/-- Entries held in a core's store. -/
def stabHeld (v : Dev) (core : Nat) : List StabEntry := v.stab.filter (fun e => e.core = core)

/-- The lowest free place in a core's stream table (log 88). -/
def stabFree (v : Dev) (core : Nat) : Option Nat :=
  let used := stabHeld v core
  if used.length < stabRoom then (upto (used.length + 1)).find? (fun n => used.all (fun e => e.slot ≠ n)) else none

/-- An entry of a part's core held for the part, if it holds none, and the table's high-water mark (R240, R462). -/
def stabHold (core d p : Nat) (v : Dev) : Dev :=
  if v.stab.any (fun e => e.d = d && e.p = p) then v
  else
    match stabFree v core with
    | none => v
    | some n =>
      let v := { v with stab := v.stab ++ [⟨core, n, d, p⟩], stabWaits := v.stabWaits.filter (fun k => k ≠ .part d p) }
      ctrHigh (0x100 + core) 5 (stabHeld v core).length v

/-- Entries released. -/
def stabRelease (test : StabEntry → Bool) (v : Dev) : Dev := { v with stab := v.stab.filter (fun e => !test e) }

/-- An issuer that finds no free entry in its core's table waits, which is counted once for the issue (R240, R462). -/
def stabWait (core : Nat) (who : StabIssuer) (v : Dev) : Dev :=
  if v.stabWaits.contains who then v else ctrAdd (0x100 + core) 4 1 { v with stabWaits := v.stabWaits ++ [who] }

/-- An issuer that asks no more: its next wait is one of another issue (R240). -/
def stabForget (test : StabIssuer → Bool) (v : Dev) : Dev := { v with stabWaits := v.stabWaits.filter (fun k => !test k) }

/-- The fetches of the rings that `test` names, as issuers. -/
def fetchOf (test : Nat → Bool) : StabIssuer → Bool
  | .fetch r => test r
  | _ => false

/-- The launches of the chisel cores that `test` names, as issuers. -/
def launchOf (test : Nat → Bool) : StabIssuer → Bool
  | .launch i => test i
  | _ => false

/-- A transfer issued that begins and ends in one command: it holds an entry of its core's store for that time (R240, R462). -/
def stabPass (core : Nat) (who : StabIssuer) (v : Dev) : Dev :=
  ctrHigh (0x100 + core) 5 ((stabHeld v core).length + 1) { v with stabWaits := v.stabWaits.filter (fun k => k ≠ who) }

/-- The device physical address of an entry (R239). -/
def stabAddr (e : StabEntry) : Nat := cstoreBase + 0x8000000 * e.core + 0x7F00000 + 24 * e.slot

/-! ### Trace records (R468 to R474) -/

/-- Trace sources of TRC_SRC (R475). -/
def trcOn (bit : Nat) (v : Dev) : Bool := v.trc.src.getLsbD bit

/-- A record offered to a queue of the trace buffer: dropped and counted when the queue holds 64; the first record that the
queue accepts after that goes behind a DROPPED record with the count (R470). -/
def traceTo (q : Nat) (r : TraceRec) (v : Dev) : Dev :=
  let mark (n : Nat) : TraceRec := ⟨now v, 0x07, 0, 0x3FF, leBytes 4 n ++ leBytes 1 q⟩
  let put (x : TraceQueue) : TraceQueue :=
    if 64 ≤ x.records.length then { x with drops := x.drops + 1 }
    else if x.drops = 0 then { x with records := x.records ++ [r] }
    else { records := x.records ++ [mark x.drops, r], drops := 0 }
  { v with trc := { v.trc with queues := v.trc.queues.modify q put } }

/-- A trigger cause whose condition holds, noted for TRACE_TRIGGER where TRC_TRIG enables it (R472). -/
def trcCause (cause : Nat) (v : Dev) : Dev :=
  if v.trc.trigEn.getLsbD cause then { v with trc := { v.trc with causes := v.trc.causes ++ [cause] } } else v

/-! ### Attention events (R320 to R326) -/

/-- Records the attention ring has room for: none while it is disabled (R323). -/
def attnRoom (a : Attn) : Nat :=
  if a.enable then 2 ^ a.sizeLog2.toNat - (a.tail - a.head).toNat else 0

/-- ATTN_STATUS.HELD: the events for which the ring has no room (R323, R333). -/
def attnHeld (a : Attn) : Nat := a.held.length - attnRoom a

/-- An attention event raised (R321 to R323): held in order, or dropped and counted when the ring is disabled or full and
64 are held; SEQ advances either way. It is traced and may be a trigger cause (R469, R472). -/
def raise (code ctx : Nat) (payload : List Byte) (v : Dev) : Dev :=
  let a := v.attn
  let e : AttnEvent := ⟨now v, BitVec.ofNat 16 code, BitVec.ofNat 6 ctx, a.seq, payload⟩
  let a' :=
    if attnHeld a < 64 then { a with held := a.held ++ [e], seq := a.seq + 1 }
    else { a with dropped := satAdd a.dropped 1, droppedSince := a.droppedSince + 1, seq := a.seq + 1 }
  let v := ctrHigh 0x3FF 5 (attnHeld a') { v with attn := a' }
  let v :=
    if trcOn 6 v then
      traceTo 0 ⟨now v, 0x08, BitVec.ofNat 6 ctx, 0x3FF, leBytes 2 code ++ leBytes 4 a.seq.toNat⟩ v
    else v
  if v.trc.trigCode.toNat = code % 8192 then trcCause 1 v else v

/-- RING_ERROR (R322). -/
def raiseRingError (r err : Nat) (v : Dev) : Dev :=
  raise 0x0006 (getRing v r).ctx.toNat (leBytes 2 r ++ leBytes 1 err) v

/-- MEM_UE (R322): an address, and whether it is a host address of an HDM access. -/
def raiseMemUe (ctx addr : Nat) (hostAddr : Bool) (v : Dev) : Dev :=
  raise 0x0004 ctx (leBytes 8 addr ++ leBytes 1 (b2n hostAddr)) v

/-! ### Descriptors and their parts -/

/-- A field of a descriptor: `n` bytes from byte `o`, little-endian (R2). -/
def fieldOf (x : Desc) (o n : Nat) : Nat := leAt x.bytes o n

/-- The worst status of a descriptor's parts (R309). -/
def overallStatus (x : Desc) : Byte :=
  x.parts.foldl (fun a p => if a.toNat < p.status.toNat then p.status else a) 0

/-- The flags of a descriptor (R76), with those of its kernel's sub-descriptors (R139). -/
def overallFlags (x : Desc) : Flags := x.parts.foldl (fun a p => Flags.join a p.flags) x.subFlags

/-- Set bits of CHISEL_MASK in order (R129, R130). -/
def maskBits (m : Nat) : List Nat := (upto 8).filter (fun i => natBit m i)

/-- A KERNEL descriptor (R129). -/
def isKernel (x : Desc) : Bool := x.cls = 1 && fieldOf x 176 1 = 0xF0

/-- A descriptor whose parts run on engines: MM, or STAT with OP = GATHER (R94, R167). -/
def onEngine (x : Desc) : Bool := x.cls = 0 || (x.cls = 3 && natBits (fieldOf x 110 1) 1 0 = 0)

/-- KIND and UNIT of a TEST (R453). -/
def testKind (bs : List Byte) : Nat := leAt bs 16 1
def testUnit (bs : List Byte) : Nat := leAt bs 18 2

/-- The core of a tested unit (R455). -/
def testCore (k u : Nat) : Option Nat :=
  if k = 1 then some (u / 4) else if k = 2 then some (u / 64) else if k = 3 then some u else none

/-- The core a part runs on: an engine's, a cluster's, a COPY mover's, that of the unit a TEST tests, or none for a part that
runs on no core (R25, R94, R148, R352, R429, R454; log 22). -/
def partCore (x : Desc) (p : Part) : Option Nat :=
  if onEngine x then some (p.unit / 4)
  else if x.cls = 0xD then testCore (testKind x.bytes) (testUnit x.bytes)
  else if x.cls ≤ 5 ∨ x.cls = 7 ∨ x.cls = 0xC then some p.unit
  else none

/-- The core in whose store a port's collective engine holds its stream table entries: one of the port's field (R17, R19, R261;
log 88). -/
def portCore (p : Nat) : Nat := 8 * (p / 6) + p % 6

/-- The core in whose store a part's stream table entry lies: that of the chisel core that launched it, that of a collective's
port, or the one it runs on (R19, R136; log 88). A part that runs on no core, of a CASTMARK, a FENCE, a WAIT or a SIGNAL, holds no
entry: the spec names no core that issues its transfers (DESIGN CHOICE, log 121). -/
def stabCore (x : Desc) (p : Nat) : Option Nat :=
  let q := x.parts.getD p {}
  match x.sub with
  | some (i, _) => some (i / 8)
  | none => if x.cls = 6 then some (portCore q.unit) else partCore x q

/-- SOURCE of a part's trace records and the queue they go to: its field's trace port, or that of field F0 (R469, R470;
log 22). -/
def partSource (x : Desc) (p : Nat) : Nat × Nat :=
  let u := (x.parts.getD p {}).unit
  if onEngine x then (u, u / 32)
  else if isKernel x then
    let bits := maskBits (fieldOf x 40 1)
    (0x100 + 8 * u + bits.getD (p % bits.length) 0, u / 8)
  else if x.cls ≤ 3 then (0x200 + u, u / 8)
  else if x.cls ≤ 5 then (0x280 + u, u / 8)
  else if x.cls = 6 then (0x300 + u, u / 6)
  else if x.cls = 0xC then (0x200 + u, u / 8)
  else if x.cls = 0xD then
    let t := testUnit x.bytes
    if testKind x.bytes = 1 then (t, t / 32) else if testKind x.bytes = 3 then (0x200 + t, t / 8)
    else if testKind x.bytes = 5 then (0x300 + t, t / 6) else (0x3FF, 0)
  else (0x3FF, 0)

/-- USER_TAG of a descriptor (R306). -/
def userTag (x : Desc) : Nat := fieldOf x 8 8

/-- A trace record of a part's start or end (R469). -/
def tracePart (type : Nat) (x : Desc) (p : Nat) (extra : List Byte) (v : Dev) : Dev :=
  if trcOn 5 v then
    let (src, q) := partSource x p
    traceTo q ⟨now v, BitVec.ofNat 8 type, BitVec.ofNat 6 x.ctx, BitVec.ofNat 16 src,
      leBytes 8 (userTag x) ++ leBytes 4 x.unitIndex.toNat ++ leBytes 2 p ++ extra⟩ v
  else v

/-- What a part's end leaves in the trace: its PART_END record, and trigger cause 2 where its status is a failure's and its
context the trigger's (R469, R472). -/
def traceEnd (x : Desc) (p : Nat) (st : Byte) (v : Dev) : Dev :=
  let v := tracePart 0x03 x p [st] v
  if 0x10 ≤ st.toNat && v.trc.trigCtx.toNat = x.ctx then trcCause 2 v else v

/-- The core whose stream table has no free entry for a part (R240). -/
def stabBlocked (v : Dev) (d p : Nat) : Option Nat :=
  match getDesc v d with
  | none => none
  | some x =>
    match stabCore x p with
    | none => none
    | some c => if (stabFree v c).isNone && !v.stab.any (fun e => e.d = d && e.p = p) then some c else none

/-- Of parts that start together, the first whose core's stream table has too few entries for those of them that need one there,
with that core (R240). -/
def stabLacks (v : Dev) (x : Desc) (ps : List Nat) : Option (Nat × Nat) :=
  (ps.filterMap (fun p => (stabCore x p).map (fun c => (c, p)))).find? (fun k =>
    decide (stabRoom < (stabHeld v k.1).length + (ps.filter (fun q => stabCore x q = some k.1)).length))

/-- A part that has started, with an entry of its issuer's stream table (R19, R240, R469). -/
def startPart (d p : Nat) (v : Dev) : Dev :=
  match getDesc v d with
  | none => v
  | some x =>
    let v := match stabCore x p with
      | some c => stabHold c d p v
      | none => v
    tracePart 0x02 x p [] (modPart d p (fun q => { q with state := .running }) v)

/-! ### Banks (R86 to R88) -/

def getBank (e : Engine) (b : Nat) : Bank := if b = 0 then e.bank0 else e.bank1
def setBank (b : Nat) (x : Bank) (e : Engine) : Engine := if b = 0 then { e with bank0 := x } else { e with bank1 := x }

/-- A bank released without a drain: cleared to +0 and free (R88). -/
def releaseIf (test : Bank → Bool) (e : Engine) : Engine :=
  let f (b : Bank) : Bank := if test b then { order := b.order } else b
  { e with bank0 := f e.bank0, bank1 := f e.bank1 }

/-- Where the model numbers the words of chisel-core scratch and of accumulator banks, which have no device physical address
(R253): above every address of R236. -/
def scratchBase : Nat := 0x10000000000
def bankBase : Nat := 0x20000000000
/-- Positions of an accumulator bank: 256 columns of 512 rows (R18). -/
def bankRoom : Nat := 131072
/-- The number of a byte of chisel core `i`'s scratch, and of a position of bank `b` of engine `e`. -/
def scratchWord (i o : Nat) : Nat := scratchBase + 0x100000 * i + o
def bankWord (e b pos : Nat) : Nat := bankBase + 8 * (bankRoom * (2 * e + b) + pos)
/-- The engine's bank, as 2 × engine + bank, in which a numbered word lies. -/
def bankOf (a : Nat) : Nat := (a - bankBase) / 8 / bankRoom

/-- A bank that is free has been cleared in every position, which covers each of its words: none is uncorrectable (R257). -/
def bankSweep (v : Dev) : Dev :=
  let free (a : Nat) : Bool :=
    let n := bankOf a
    decide (bankBase ≤ a) && (getBank (getEngine v (n / 2)) (n % 2)).phase = .free
  { v with ue := v.ue.filter (fun a => !free a) }

/-- Every position of a bank has been written, which covers each of its words: none is uncorrectable (R86, R257). -/
def bankClean (e b : Nat) (v : Dev) : Dev :=
  { v with ue := v.ue.filter (fun a => !(decide (bankBase ≤ a) && bankOf a = 2 * e + b)) }

/-- A bank of a context that a part still fills marked, so that the part's end releases it if it is a keep-mode part's (R88). -/
def dropFilling (x : Nat) (e : Engine) : Engine :=
  let f (b : Bank) : Bank := if b.phase = .filling && b.ctx = x then { b with drop := true } else b
  { e with bank0 := f e.bank0, bank1 := f e.bank1 }

/-- Every bank a context holds in keep mode released, on every engine, and those that its parts still fill when they end (R88). -/
def releaseCtxBanks (x : Nat) (v : Dev) : Dev :=
  bankSweep { v with engines := tabMap {} (fun _ e =>
    dropFilling x (releaseIf (fun b => b.phase = .held && b.ctx = x) e)) v.engines }

/-- Parts taken out of every engine queue, with the banks that their blocks held released. -/
def dropEngineParts (test : Nat → Nat → Bool) (v : Dev) : Dev :=
  let owned (b : Bank) : Bool := b.phase ≠ .free && b.phase ≠ .held && (b.owner.any (fun o => test o.1 o.2))
  let f (e : Engine) : Engine :=
    releaseIf owned
      { e with queue := e.queue.filter (fun q => !test q.d q.p), current := e.current.filter (fun o => !test o.1 o.2) }
  bankSweep { v with engines := tabMap {} (fun _ => f) v.engines }

/-! ### Fabric sends that failures make -/

/-- Ports that are up (R337). -/
def portUp (p : Port) : Bool := p.state = 2 || p.state = 3

/-- Admitted ordinary ports (R340). -/
def ordinaryPorts (v : Dev) : List Nat := (upto 24).filter (fun i => portUp (getPort v i) && !(getPort v i).sideLink)

/-- Admitted side links (R368). -/
def sidePorts (v : Dev) : List Nat := (upto 24).filter (fun i => portUp (getPort v i) && (getPort v i).sideLink)

/-- Ports that lead to a node (R344): the first of the three masks that holds an up port; the twin is reached through side
links only (R368). -/
def portsTo (v : Dev) (node : Nat) (mask : BitVec 24) : List Nat :=
  if node = v.fab.nodeId.toNat then sidePorts v
  else
    let r := getRoute v node
    let pick (m : BitVec 24) : List Nat := (ordinaryPorts v).filter (fun p => m.getLsbD p)
    if !r.valid then []
    else
      let a := pick (r.ports &&& mask)
      let b := pick r.ports
      if !a.isEmpty then a else if !b.isEmpty then b else pick r.alt

/-- Payload bytes that a message's frame carries. -/
def msgBytes : FabMsg → Nat
  | .collData _ _ _ _ _ bs => bs.length
  | .copyWrite _ _ _ _ bs => bs.length
  | .copyData _ _ bs => bs.length
  | _ => 0

/-- A record of a fabric message in the logger's queue, of the context whose group's it is, 0 for one of no group (R474): which
code a kind of message has is not specified. -/
def traceFab (type ctx other seq port : Nat) (v : Dev) : Dev :=
  let kind := freeVal v
  traceTo 4 ⟨now v, BitVec.ofNat 8 type, BitVec.ofNat 6 ctx, BitVec.ofNat 16 (0x300 + port),
    leBytes 2 other ++ leBytes 2 v.fab.nodeId.toNat ++ leBytes 4 seq ++ leBytes 1 port ++ leBytes 1 kind.toNat⟩ (freeNext v)

/-- Messages of a group that are traced (R474). -/
def groupTraced (v : Dev) (g : Nat) : Bool := trcOn 7 v && decide (g < 64) && v.trc.fabGroups.getLsbD g

/-- Whether announces (bit 9) or heartbeats (bit 8) are traced (R474, R475). -/
def floodTraced (v : Dev) (bit : Nat) : Bool := trcOn 7 v && trcOn bit v

/-- An announce, a loss announce or a leave announce put on ports, each frame of it to be acknowledged (R335, R340). -/
def floodOn (ports : List Nat) (hops : BitVec 4) (m : FabMsg) (v : Dev) : Dev :=
  let msg := v.fab.nextMsg
  let tx (p : Nat) : TxFrame :=
    { port := p, dest := (getPort v p).partner, msg := msg, frame := 0, body := m, mask := 0, sends := 1, sentAt := now v, hops := hops }
  emit (.flood ports hops msg m) { v with fab := { v.fab with nextMsg := msg + 1, tx := v.fab.tx ++ ports.map tx } }

/-- One of this module's own put on ports, under its next announce sequence, and traced on each (R340, R474). -/
def announceOn (ports : List Nat) (m : W32 → FabMsg) (v : Dev) : Dev :=
  let seq := v.fab.annSeq
  let v := if floodTraced v 9 then
      ports.foldl (fun v p => traceFab 0x04 0 (getPort v p).partner.toNat seq.toNat p v) v
    else v
  let v := floodOn ports 1 (m seq) v
  { v with fab := { v.fab with annSeq := seq + 1 } }

/-- This module's own state has changed, so that an announce is due (R340). -/
def ownChange (v : Dev) : Dev := { v with fab := { v.fab with changed := true } }

/-- One frame put on a port, to be acknowledged (R335). -/
def sendFrame (port node msg : Nat) (mask : BitVec 24) (frame : Nat) (m : FabMsg) (v : Dev) : Dev :=
  let t : TxFrame :=
    { port := port, dest := BitVec.ofNat 10 node, msg := msg, frame := frame, body := m, mask := mask, sends := 1, sentAt := now v }
  ctrAdd (0x300 + port) 0 (msgBytes m)
    (emit (.frame port v.fab.nodeId (BitVec.ofNat 10 node) msg frame m) { v with fab := { v.fab with tx := v.fab.tx ++ [t] } })

/-- The port by which a segment of a message to a node goes out (R344). -/
def segPort (v : Dev) (node : Nat) (mask : BitVec 24) (seg : Nat) : Option Nat :=
  let ps := portsTo v node mask
  ps[seg % ps.length]?

/-- Segments of a message sent to a node, from segment `seg` on, as frames dealt to the ports by segment number (R335, R344): of a
message that has begun, or of a new one; segment 0, which holds frame 0, leaves the FAB_SEND record (R474). Answers the message's
number; nothing where the node is unreachable. `grp` is its group on this module. -/
def sendSegs (grp node : Nat) (mask : BitVec 24) (begun : Option Nat) (seg : Nat) (bodies : List FabMsg) (v : Dev) :
    Option (Nat × Dev) :=
  match portsTo v node mask with
  | [] => none
  | p0 :: ps =>
    let ports := p0 :: ps
    let msg := begun.getD v.fab.nextMsg
    let v := if begun.isSome then v else { v with fab := { v.fab with nextMsg := msg + 1 } }
    let v := if seg = 0 && groupTraced v grp then traceFab 0x04 (getGroup v grp).ctx.toNat node msg p0 v else v
    some (msg, (bodies.zipIdx).foldl (fun v c =>
      sendFrame (ports.getD ((seg + c.2 / 16) % ports.length) p0) node msg mask (16 * seg + c.2) c.1 v) v)

/-- A message sent to a node as frames, its segments of 16 dealt to the ports; nothing where the node is unreachable. -/
def sendMsg (grp node : Nat) (mask : BitVec 24) (bodies : List FabMsg) (v : Dev) : Option Dev :=
  (sendSegs grp node mask none 0 bodies v).map (·.2)

/-- The members whose headers have arrived for collectives that this member has yet to run are told that its copy of the
group, or the context that owns it, is disabled (R364). -/
def goneNotices (gno : Nat) (v : Dev) : Dev :=
  let g := getGroup v gno
  (g.headers.filter (fun h => decide (g.nextSeq ≤ h.2.seq))).foldl (fun v h =>
    match g.record.entries[h.1]? with
    | some e => (sendMsg gno e.node.toNat g.record.portMask [.collGone e.rgroup h.2.seq] v).getD v
    | none => v) v

/-- Abort notices to every other member of every enabled group that a context owns (R417). -/
def abortNotices (x : Nat) (v : Dev) : Dev :=
  (v.groups.filter (fun c => c.2.enable && c.2.ctx.toNat = x)).foldl (fun v c =>
    ((c.2.record.entries.zipIdx).filter (fun e => e.2 ≠ c.2.record.ownRank)).foldl
      (fun v e => (sendMsg c.1 e.1.node.toNat c.2.record.portMask [.abort e.1.rgroup] v).getD v) v) v

/-! ### The failure path of a context (R416, R417) -/

/-- Parts that have not started are completed with ABORTED (R309, R416), which the trace shows as every end (R469, R472). -/
def abortParts (test : Desc → Bool) (v : Dev) : Dev :=
  let hit (x : Desc) : Bool := test x
  let gone (d p : Nat) : Bool :=
    match getDesc v d with
    | some x => hit x && decide ((x.parts.getD p {}).state = .queued)
    | none => false
  let v := stabRelease (fun e => gone e.d e.p) (dropEngineParts gone v)
  let ended := (v.descs.filter hit).flatMap (fun x =>
    ((x.parts.zipIdx).filter (fun c => c.1.state = .queued)).map (fun c => (x, c.2)))
  ended.foldl (fun v c => traceEnd c.1 c.2 stAborted v)
    { v with descs := v.descs.map (fun x =>
        if hit x then
          { x with parts := x.parts.map (fun p =>
              if p.state = .queued then { p with state := .done, status := stAborted } else p) }
        else x) }

/-- A context enters the failure path: state 0b10, no more fetching, unstarted parts aborted, keep-mode banks released,
replay ended, CTX_FAILED raised and abort notices sent. In it already, nothing changes (R416, R417, R331). -/
def failCtx (x : Nat) (tag ring st : Nat) (v : Dev) : Dev :=
  if (getCtx v x).state ≠ 1 then v
  else
    let v := modCtx x (fun c => { c with state := 2 }) v
    let v := abortParts (fun q => q.ctx = x) v
    let v := stabForget (fetchOf (fun r => (getRing v r).ctx.toNat = x)) (releaseCtxBanks x v)
    let idle (r : Ring) : Ring :=
      if r.ctx.toNat = x && r.mode = 1 && r.enable then
        { r with state := if r.state = 3 then 3 else 0, boundaryHeld := false, waiting := none }
      else if r.ctx.toNat = x then { r with waiting := none } else r
    let v := { v with rings := tabMap {} (fun _ => idle) v.rings }
    let v := raise 0x0008 x (leBytes 8 tag ++ leBytes 2 ring ++ leBytes 1 st) v
    abortNotices x v

/-- A context put on the failure path by an access that no descriptor made: USER_TAG and RING of its CTX_FAILED are free values (log
16). -/
def failCtxOpen (x st : Nat) (v : Dev) : Dev :=
  let bs := freeBytes v 10
  failCtx x (leNat (bs.take 8)) (leNat (bs.drop 8)) st { v with free := v.free + 10 }

/-- Fields of CTX_FAILED that a failed descriptor gives (R322). -/
def failCtxBy (x : Desc) (st : Byte) (v : Dev) : Dev := failCtx x.ctx (userTag x) x.ring st.toNat v

/-- A part ends with a status, and its stream table entry is released (R240, R309). A part that met an uncorrectable memory error
puts its context on the failure path at once (R256). -/
def endPart (d p : Nat) (st : Byte) (fault : W64) (f : Flags) (v : Dev) : Dev :=
  match getDesc v d with
  | none => v
  | some x =>
    let v := stabRelease (fun e => e.d = d && e.p = p)
      (modPart d p (fun q => { q with state := .ended, status := st, faultAddr := fault, flags := Flags.join q.flags f }) v)
    if st = stMemoryUe then failCtxBy x st v else v

/-- A leave announce (R341), on the side links too, since the twin keeps this module's state under R341 (R368). -/
def sendLeave (v : Dev) : Dev :=
  announceOn (ordinaryPorts v ++ sidePorts v) (.leaveAnnounce v.fab.nodeId v.fab.incarn) v

/-! ### Retirement and fencing (R24, R25, R258) -/

/-- The module retires from its role: every running context enters the failure path and a leave announce is sent
(R258, R419). The CTX_FAILED payload of a context with no failed descriptor is free (log 16). -/
def retire (v : Dev) : Dev :=
  if v.retired then v
  else
    let v := { v with retired := true }
    let v := (upto 64).foldl (fun v x =>
      let bs := freeBytes v 11
      failCtx x (leNat (bs.take 8)) (leNat ((bs.drop 8).take 2)) (leNat (bs.drop 10)) { v with free := v.free + 11 }) v
    sendLeave v

/-- A core is fenced: the parts it executes or has queued end with FENCED, its stream table entries are released, its chisel
cores stop, and its keep-mode banks are released (R25, R88, R94). Its entries are all of those in its store, also one that tracks a
part running elsewhere, which goes on without it, and those of the parts that end (DESIGN CHOICE, log 120). -/
def fenceCore (c : Nat) (v : Dev) : Dev :=
  let onCore (x : Desc) (p : Part) : Bool := partCore x p = some c && (p.state = .queued || p.state = .running)
  let gone (d p : Nat) : Bool :=
    match getDesc v d with
    | some x => onCore x (x.parts.getD p {})
    | none => false
  let ended := (v.stab.filter (fun e => gone e.d e.p)).map (fun e => (e.d, e.p))
  let held (d p : Nat) : Bool := ended.contains (d, p)
  let v := { v with fenced := v.fenced ||| (1#32 <<< c) }
  let v := dropEngineParts gone v
  let v := bankSweep ((upto 4).foldl (fun v i => modEngine (4 * c + i) (releaseIf (fun b => b.phase = .held)) v) v)
  let v := (upto 8).foldl (fun v i => modChisel (8 * c + i) (fun h => { h with run := .idle, reserved := none }) v) v
  let v := stabForget (launchOf (fun i => i / 8 = c)) v
  let v := stabRelease (fun e => e.core = c || held e.d e.p) v
  { v with
    descs := v.descs.map (fun x => { x with parts := x.parts.map (fun p =>
      if onCore x p then { p with state := .ended, status := stFenced } else p) })
    tlb := v.tlb.filter (fun t => t.core ≠ c) }

def isFenced (v : Dev) (c : Nat) : Bool := v.fenced.getLsbD c

/-- One stack's place in the interleave (R243). -/
def stackOf (a : Nat) : Nat := (a / 256) % 20
/-- The channel within the stack (R243). -/
def channelOf (a : Nat) : Nat := (a / 256 / 20) % 32
/-- The byte within the channel (R243). -/
def channelOffset (a : Nat) : Nat := (a / 256 / 640) * 256 + a % 256
/-- The core whose store holds an address (R236). -/
def storeCore (a : Nat) : Nat := (a - cstoreBase) / 0x8000000

/-- The core in whose store, banks, stream table or scratch an on-die word lies (R462). -/
def wordCore (a : Nat) : Nat :=
  if a < scratchBase then storeCore a
  else if a < bankBase then (a - scratchBase) / 0x100000 / 8
  else bankOf a / 8

/-- The unit in which an address is protected: a 32-byte granule of DRAM or a 64-bit word of a core store (R253, R254). -/
def granule (a : Nat) : Nat := if a < cstoreBase then 32 else 8
/-- The base of an address's word or granule. -/
def granuleBase (a : Nat) : Nat := a - a % granule a

/-- A stack is declared faulty: the module retires from its role (R24, R258). -/
def stackFaulty (s : Nat) (v : Dev) : Dev := retire { v with stackFault := v.stackFault ||| (1#20 <<< s) }

/-- An uncorrectable error is counted, and 16 within 2^30 units of one stack or core store declare the stack faulty or
fence the core (R258, R462); those of banks and scratch, which are no core store, only count. -/
def countUe (a : Nat) (v : Dev) : Dev :=
  let isDram := decide (a < cstoreBase)
  let k := if isDram then stackOf a else 32 + storeCore a
  let v := if isDram then ctrAdd (0x200 + stackOf a) 1 1 v else ctrAdd (0x100 + wordCore a) 3 1 v
  if scratchBase ≤ a then v else
  let times := now v :: (tabGet [] v.ueTimes k).filter (fun t => since v t < 2 ^ 30)
  let v := { v with ueTimes := tabPut [] v.ueTimes k times }
  if 16 ≤ times.length then (if isDram then stackFaulty (stackOf a) v else fenceCore (storeCore a) v) else v

/-- A device access meets an uncorrectable word or granule: MEM_UE with its device physical address, a free value for a word
that has none (log 89), and its count (R256, R258). -/
def meetUe (ctx a : Nat) (v : Dev) : Dev :=
  if scratchBase ≤ a then countUe a (raiseMemUe ctx (freeVal v).toNat false (freeNext v))
  else countUe a (raiseMemUe ctx (granuleBase a) false v)

/-- FAULT_ADDR of an uncorrectable word: its device physical address; a free value for one that has none. -/
def ueFault (v : Dev) (a : Nat) : W64 := if scratchBase ≤ a then freeVal v else BitVec.ofNat 64 (granuleBase a)

/-- An error that a read corrects is counted, per core store or stack (R253, R254, R258, R462). -/
def countCorrected (a : Nat) (v : Dev) : Dev :=
  if a < cstoreBase then ctrAdd (0x200 + stackOf a) 0 1 v else ctrAdd (0x100 + wordCore a) 2 1 v

/-! ### Access to memory (R236, R248 to R257, R285, R289) -/

/-- Why an access does not go on: the part fails, or it waits by handshake (R26) and the command changes nothing. -/
inductive Stop where
  | fail (st : Byte) (addr : W64)
  | wait
  deriving DecidableEq, Repr

/-- A step of a command that may stop; a stop keeps the work done so far. -/
abbrev Acc := ExceptT Stop (StateM Work)

/-- What an address translates to. -/
inductive Target where
  | dev (a : Nat)
  | host (a : Nat)
  deriving DecidableEq, Repr

/-- A device physical address that exists and is not in a core store's reserved top (R236, R239). -/
def populated (a : Nat) : Bool :=
  decide (a < 0x7800000000) ||
    (decide (cstoreBase ≤ a ∧ a < 0x8100000000) && decide ((a - cstoreBase) % 0x8000000 < 0x7F00000))

/-- An address in a core store's usable part. -/
def inCstore (a : Nat) : Bool := decide (cstoreBase ≤ a) && populated a

/-- Bits [63:48] equal bit 47 (R248). -/
def canonicalVa (va : W64) : Bool := decide ((va.setWidth 48).signExtend 64 = va)

/-- The directory entry of a line, if the host may hold it (R285). -/
def dirEntry (v : Dev) (line : Nat) : Option DirEntry := v.cxl.directory.find? (fun e => e.line = line)

/-- A device access to a line of the directory waits for the BIRsp of its snoop (R285). -/
def snoopGate (a : Nat) (write : Bool) : Acc Unit := do
  let w ← get
  match dirEntry w.dev (a / 64) with
  | none => pure ()
  | some e =>
    if write || e.snoop ≠ .dataDone then throw .wait
    else set { w with snooped := (a / 64) :: w.snooped }

/-- Whether the word or granule of an address is uncorrectable (R253, R254). -/
def isUe (v : Dev) (a : Nat) : Bool := v.ue.contains (granuleBase a)

/-- A read that meets an uncorrectable word fails (R256). -/
def failUe {α : Type} (ctx a : Nat) : Acc α := do
  let v := (← get).dev
  modify (onDev (meetUe ctx a))
  throw (.fail stMemoryUe (ueFault v a))

/-- One byte of device memory read by a device requester (R256, R285). -/
def readPhys (ctx a : Nat) : Acc Byte := do
  snoopGate a false
  let w ← get
  if isUe w.dev a then failUe ctx a else pure (peek .dev a w)

/-- Eight bytes of device memory, little-endian. -/
def readPhys64 (ctx a : Nat) : Acc Nat := do
  let bs ← (upto 8).mapM (fun i => readPhys ctx (a + i))
  pure (leNat bs)

/-- An access in which an uncorrectable error, met by a read or by a write in part, also puts its context on the failure path as
`fail` says (R256, R505). -/
def ueFails {α : Type} (fail : Dev → Dev) (m : Acc α) : Acc α :=
  tryCatch m (fun e => do
    match e with
    | .fail st _ => if st = stMemoryUe then modify (onDev fail)
    | .wait => pure ()
    throw e)

/-- The same for an access that no descriptor made. -/
def ueFailsOpen {α : Type} (ctx : Nat) : Acc α → Acc α := ueFails (failCtxOpen ctx stMemoryUe.toNat)

/-- What a failure leaves of a command that does nothing else: all that came of an uncorrectable error, and otherwise nothing. -/
def keepUe (w : Work) (st : Byte) (_ : W64) (w' : Work) : Work := if st = stMemoryUe then w' else w

/-- The translation-fault status with the faulting address (R250, R311). -/
def transFault (va : W64) : Stop := .fail stTranslation va

/-- One leaf's ADDR must be aligned to its page (R249). -/
def leafAligned (level addr : Nat) : Bool := decide (addr % 2 ^ (12 + 9 * level) = 0)

/-- What a walk finds: the page's base and size, its target, and whether every entry allows writes. -/
structure Walked where
  base : Nat
  sizeLog2 : Nat
  host : Bool
  write : Bool

/-- One entry of a walk: the page its leaf maps, or the next table and whether writes are allowed so far (R249, R250). -/
def walkEntry (r : Requestor) (va : W64) (lvl table : Nat) (wOk : Bool) : Acc (Walked ⊕ Nat × Bool) := do
  if 0x7800000000 ≤ table then throw (transFault va)
  let e ← readPhys64 r.ctx (table + 8 * ((va.toNat / 2 ^ (12 + 9 * lvl)) % 512))
  let addr := natBits e 51 12 * 4096
  let ok := wOk && natBit e 1
  if !natBit e 0 || natBits e 11 5 ≠ 0 || natBits e 63 52 ≠ 0 then throw (transFault va)
  if natBit e 2 then
    let tgt := natBits e 4 3
    if lvl = 3 || 1 < tgt || !leafAligned lvl addr then throw (transFault va)
    pure (.inl ⟨addr, 12 + 9 * lvl, tgt = 1, ok⟩)
  else pure (.inr (addr, ok))

/-- The walk from a level's table down to a leaf (R248 to R250). -/
def walk (r : Requestor) (va : W64) : Nat → Nat → Bool → Acc Walked
  | 0, table, ok => do
    match ← walkEntry r va 0 table ok with
    | .inl pg => pure pg
    | .inr _ => throw (transFault va)
  | l + 1, table, ok => do
    match ← walkEntry r va (l + 1) table ok with
    | .inl pg => pure pg
    | .inr (next, ok') => walk r va l next ok'

/-- The cached translation of an address in a core's translation cache (R251). -/
def tlbFind (v : Dev) (core ctx : Nat) (va : Nat) : Option TlbEntry :=
  v.tlb.find? (fun t => t.core = core && t.ctx = ctx && t.page = va / 2 ^ t.sizeLog2)

/-- A translation kept in a core's cache of 2,048 entries (R251); which entry a full cache gives up is not specified, so
the oldest goes (log 17). -/
def tlbAdd (t : TlbEntry) (v : Dev) : Dev :=
  let mine := v.tlb.filter (fun x => x.core = t.core)
  let old := if mine.length < 2048 then v.tlb else
    match mine with
    | o :: _ => v.tlb.erase o
    | [] => v.tlb
  { v with tlb := old ++ [t] }

/-- The ATC entry that covers a host address for a PASID (R289). -/
def atcFind (v : Dev) (pasid : BitVec 20) (ha : Nat) : Option AtcEntry :=
  v.cxl.atc.find? (fun t => t.pasid = pasid && t.base / 2 ^ t.sizeLog2 = ha / 2 ^ t.sizeLog2)

/-- An untranslated host address through ATS (R289): it waits for a translation it does not hold, and a denial is a
translation fault. A denial is kept as an entry until its first use, which drops it (the model's own way, log 122). -/
def atsTranslate (r : Requestor) (va : W64) (ha : Nat) (write : Bool) : Acc Target := do
  let w ← get
  match atcFind w.dev (getCtx w.dev r.ctx).pasid ha with
  | none => throw .wait
  | some t =>
    if t.denied then
      set { w with dev := { w.dev with cxl := { w.dev.cxl with atc := w.dev.cxl.atc.erase t } } }
      throw (transFault va)
    else if write && !t.write then throw (transFault va)
    else if !w.dev.cxl.linkUp then throw .wait
    else pure (.host (t.host + ha % 2 ^ t.sizeLog2))

/-- A device virtual address translated for a requester (R126, R248 to R251, R289); every walk for a core is counted, however it
ends (R462). -/
def translate (r : Requestor) (va : W64) (write : Bool) : Acc Target := do
  if !canonicalVa va then throw (transFault va)
  let va48 := va.toNat % 2 ^ 48
  let w ← get
  let hit := r.core.bind (fun c => tlbFind w.dev c r.ctx va48)
  let pg ← match hit with
    | some t => pure (⟨t.base, t.sizeLog2, t.host, t.write⟩ : Walked)
    | none => do
      match r.core with
      | some c => modify (onDev (ctrAdd (0x100 + c) 7 1))
      | none => pure ()
      let pg ← walk r va 3 ((getCtx w.dev r.ctx).ptRoot.toNat * 4096) true
      match r.core with
      | some c => modify (onDev (tlbAdd ⟨c, r.ctx, va48 / 2 ^ pg.sizeLog2, pg.sizeLog2, pg.base, pg.host, pg.write⟩))
      | none => pure ()
      pure pg
  if write && !pg.write then throw (transFault va)
  let a := pg.base + va48 % 2 ^ pg.sizeLog2
  if pg.host then
    if r.engine || r.chisel then throw (transFault va) else atsTranslate r va a write
  else if !populated a then throw (transFault va)
  else if r.engine && !inCstore a then throw (transFault va)
  else pure (.dev a)

/-- Where an address lies, for the checks of a descriptor at its fetch. -/
inductive Place where
  | cstore (core : Nat)
  | dram
  | host
  | nowhere
  deriving DecidableEq, Repr

/-- Where an address lies now; nowhere if it does not translate. A walk that meets an uncorrectable word leaves what R256 says. -/
def placeOf (ctx : Nat) (va : W64) : Acc Place := do
  let w ← get
  if !canonicalVa va then pure .nowhere
  else
    match (walk { ctx := ctx } va 3 ((getCtx w.dev ctx).ptRoot.toNat * 4096) true).run w with
    | (.ok pg, _) =>
      let a := pg.base + va.toNat % 2 ^ pg.sizeLog2
      pure (if pg.host then .host else if !populated a then .nowhere else if cstoreBase ≤ a then .cstore (storeCore a) else .dram)
    | (.error .wait, _) => throw .wait
    | (.error (.fail st _), w') => do
      if st = stMemoryUe then set (onDev (failCtxOpen ctx st.toNat) w')
      pure .nowhere

/-- Bytes a context moved in DRAM or to and from host memory (R461). -/
def countBytes (ctx : Nat) (t : Target) (v : Dev) : Dev :=
  match t with
  | .dev a => if a < cstoreBase then ctrAdd ctx 13 1 v else v
  | .host _ => ctrAdd ctx 16 1 v

/-- One byte at a device virtual address, whatever version it belongs to. -/
def readRaw (r : Requestor) (va : W64) : Acc Byte := do
  let t ← translate r va false
  modify (onDev (countBytes r.ctx t))
  match t with
  | .dev a => readPhys r.ctx a
  | .host a => do return peek .host a (← get)

/-- The tail plane of a versioned HEADTAIL weight, from the start of its buffer (R506). -/
def VerWin.tail (w : VerWin) : Nat := 64 * ceilDiv ((w.rows - 1) * w.ldw + 2 * w.cols) 64

/-- The tile that a byte of the element plane lies in; padding between rows is of no tile (R226). -/
def VerWin.elemTile (w : VerWin) (o : Nat) : Option Nat :=
  let row := o / w.ldw
  let col := (o % w.ldw) * 8 / w.bits
  if row < w.rows ∧ col < w.cols then some (row / 256 * w.ct + col / 256) else none

/-- Where the block scales of a versioned weight begin in its buffer, after the elements (R54, log 32), and that of block `b` of a
stored row. -/
def VerWin.scales (w : VerWin) : Nat := w.rows * w.ldw
def VerWin.scaleAt (w : VerWin) (row b : Nat) : Nat := w.scales + row * ceilDiv w.cols 32 + b

/-- The tile of a version pair's buffer that an address lies in (R226): that of its element, in the plane of the elements or heads,
of the tails (R506), or of the block scales (R54). -/
def VerWin.tileOf (w : VerWin) (va : W64) : Option Nat :=
  let o := (va - w.buf).toNat
  if w.bytes ≤ o then none
  else
    match w.elemTile o with
    | some t => some t
    | none =>
      if w.ht then (if w.tail ≤ o then w.elemTile (o - w.tail) else none)
      else if w.blk then
        let k := o - w.scales
        let per := ceilDiv w.cols 32
        if w.scales ≤ o ∧ k / per < w.rows then some (k / per / 256 * w.ct + k % per / 8) else none
      else none

/-- An element of a versioned weight is used only when its tile's tag is VALID and the one expected (R227). A tile beyond
the pair's count has no tag and is not resident. -/
def checkTag (r : Requestor) (va : W64) : Acc Unit :=
  match r.ver with
  | none => pure ()
  | some w =>
    if w.dest then pure ()
    else
      match w.tileOf va with
      | none => pure ()
      | some t => do
        if w.tiles ≤ t then throw (.fail stVersionRetired 0)
        let b ← readRaw r (w.tags + BitVec.ofNat 64 t)
        if b.toNat % 32 ≠ 16 + w.tag then throw (.fail stVersionRetired 0)

/-- One byte at a device virtual address. -/
def readByte (r : Requestor) (va : W64) : Acc Byte := do
  checkTag r va
  readRaw r va

/-- Bytes from a device virtual address up. -/
def readBytes (r : Requestor) (va : W64) : Nat → Acc (List Byte)
  | 0 => pure []
  | n + 1 => do
    let b ← readByte r va
    let bs ← readBytes r (va + 1) n
    pure (b :: bs)

/-- A little-endian number of `n` bytes at a device virtual address. -/
def readNat (r : Requestor) (va : W64) (n : Nat) : Acc Nat := do return leNat (← readBytes r va n)

/-- One byte of a write that covers the bytes from `lo` to `hi` (excluded), whatever version it belongs to: a word or granule that
is uncorrectable is cleared by a write that covers it whole, and takes no byte of one that covers it in part, which then fails
(R257, R505). -/
def writeRaw (r : Requestor) (lo hi : Nat) (va : W64) (b : Byte) : Acc (Option Nat) := do
  let t ← translate r va true
  modify (onDev (countBytes r.ctx t))
  match t with
  | .host a => do
    modify (poke .host a b)
    pure none
  | .dev a => do
    snoopGate a true
    let w ← get
    if isUe w.dev a then
      let g := granule a
      let start := va.toNat - a % g
      if lo ≤ start ∧ start + g ≤ hi then
        let v := if a % g = g - 1 then { w.dev with ue := setDel w.dev.ue (granuleBase a) } else w.dev
        set (poke .dev a b { w with dev := v })
        pure none
      else pure (some (granuleBase a))
    else
      set (poke .dev a b w)
      pure none

/-- A tile's VALID is cleared before the tile's first byte is written (R228). -/
def clearTag (r : Requestor) (va : W64) : Acc Unit :=
  match r.ver with
  | none => pure ()
  | some w =>
    if !w.dest then pure ()
    else
      match w.tileOf va with
      | none => pure ()
      | some t =>
        if w.tiles ≤ t then pure ()
        else do
          let a := w.tags + BitVec.ofNat 64 t
          let b ← readRaw r a
          if b.getLsbD 4 then
            let _ ← writeRaw r a.toNat (a.toNat + 1) a (b &&& 0xEF)
            pure ()
          else pure ()

/-- One byte of a write that covers the bytes from `lo` to `hi` (excluded). -/
def writeByteIn (r : Requestor) (lo hi : Nat) (va : W64) (b : Byte) : Acc (Option Nat) := do
  clearTag r va
  writeRaw r lo hi va b

/-- Bytes of one write from a device virtual address up; answers the uncorrectable unit it could not cover. -/
def writeBytesIn (r : Requestor) (lo hi : Nat) (va : W64) : List Byte → Acc (Option Nat)
  | [] => pure none
  | b :: bs => do
    let u ← writeByteIn r lo hi va b
    let u' ← writeBytesIn r lo hi (va + 1) bs
    pure (match u with
      | some a => some a
      | none => u')

/-- The range that the transfer of a write covers: that of the requester's transfers in which it lies, or its own (R257). -/
def writeSpan (r : Requestor) (va n : Nat) : Nat × Nat :=
  (r.spans.find? (fun c => decide (c.1 ≤ va) && decide (va + n ≤ c.2))).getD (va, va + n)

/-- One write of bytes at a device virtual address (R257, R505). -/
def writeBytes (r : Requestor) (va : W64) (bs : List Byte) : Acc Unit := do
  let (lo, hi) := writeSpan r va.toNat bs.length
  let u ← writeBytesIn r lo hi va bs
  match u with
  | none => pure ()
  | some a => do
    modify (onDev (meetUe r.ctx a))
    throw (.fail stMemoryUe (BitVec.ofNat 64 a))

/-- A little-endian number of `n` bytes written at a device virtual address. -/
def writeNat (r : Requestor) (va : W64) (n v : Nat) : Acc Unit := writeBytes r va (leBytes n v)

/-- The link's requests for a span of addresses as far as it lies in host memory: reads or writes, by CXL.cache or CXL.io, one for
each aligned piece of `most` bytes (R288). -/
def hostAsks (read cache : Bool) (r : Requestor) (va : W64) (n most : Nat) : Acc Unit := do
  for k in upto (ceilDiv (va.toNat % most + n) most) do
    let lo := Nat.max va.toNat ((va.toNat / most + k) * most)
    let hi := Nat.min (va.toNat + n) ((va.toNat / most + k + 1) * most)
    match ← translate r (BitVec.ofNat 64 lo) (!read) with
    | .dev _ => pure ()
    | .host a => modify (onDev (emit (if read then .hostRead cache a (hi - lo) else .hostWrite cache a (hi - lo))))

/-- The requests for `n` bytes of host memory from a host address up, one for each aligned piece of `most` bytes (R288). -/
def hostPieces (read cache : Bool) (a n most : Nat) : List Out :=
  (upto (ceilDiv (a % most + n) most)).map (fun k =>
    let lo := Nat.max a ((a / most + k) * most)
    let hi := Nat.min (a + n) ((a / most + k + 1) * most)
    if read then .hostRead cache lo (hi - lo) else .hostWrite cache lo (hi - lo))

/-- A destination that is undefined if the part fails (R310). -/
def markDest (r : Requestor) (va : W64) (n : Nat) : Acc Unit :=
  modify (fun w => { w with dest := ⟨r, va, n⟩ :: w.dest })

/-- One byte of a failed part's destination made free, where it translates (R310); the tile of a version that it lies in is not
VALID any more (R228). -/
def freeDestByte (r : Requestor) (va : W64) (w : Work) : Work :=
  match (writeByteIn r va.toNat (va.toNat + 1) va ((freeVal w.dev).setWidth 8)).run w with
  | (.ok _, w') => onDev freeNext w'
  | (.error _, _) => w

/-- The destinations of a failed part made free. -/
def freeDest (w : Work) : Work :=
  w.dest.foldl (fun w c => (upto c.n).foldl (fun w i => freeDestByte c.who (c.va + BitVec.ofNat 64 i) w) w)
    { w with dest := [] }

/-- The lines a part read under a BISnpData are snooped again before the next device read (R285). -/
def snoopsUsed (w : Work) : Work :=
  { w with
    snooped := []
    dev := { w.dev with cxl := { w.dev.cxl with directory := w.dev.cxl.directory.map (fun e =>
      if w.snooped.contains e.line then { e with snoop := .idle } else e) } } }

/-- A computation run for its effect: on a wait nothing changes (R26); on a failure its destinations become free. -/
def runAcc {α : Type} (m : Acc α) (onOk : α → Work → Work) (onFail : Byte → W64 → Work → Work) (w : Work) : Work :=
  match m.run { w with dest := [], snooped := [], flags := {} } with
  | (.ok a, w') => onOk a (snoopsUsed { w' with dest := [] })
  | (.error (.fail st a), w') => onFail st a (snoopsUsed (freeDest w'))
  | (.error .wait, _) => w

/-- A computation run for its effect that says what a wait leaves besides. -/
def runAccOr {α : Type} (m : Acc α) (onOk : α → Work → Work) (onFail : Byte → W64 → Work → Work) (onWait : Work → Work)
    (w : Work) : Work :=
  match m.run { w with dest := [], snooped := [], flags := {} } with
  | (.ok a, w') => onOk a (snoopsUsed { w' with dest := [] })
  | (.error (.fail st a), w') => onFail st a (snoopsUsed (freeDest w'))
  | (.error .wait, _) => onWait w

/-! ### Starting parts -/

/-- The edge's own accesses for a context: ring, completion, counter and record traffic (R261). -/
def edge (ctx : Nat) : Requestor := { ctx := ctx }

/-- No FENCE of its ring that is not complete stands before a descriptor (R328). A sub-descriptor has no ring order. -/
def fencesPassed (v : Dev) (x : Desc) : Bool :=
  x.sub.isSome ||
    !(v.descs.any (fun y => y.ring = x.ring && y.sub.isNone && y.orphan = x.orphan && y.id < x.id && y.cls = 8 &&
      y.parts.any (fun p => p.state ≠ .done)))

/-- A TEST of a unit is under way: no part starts on the unit until it completes (R454). -/
def underTest (v : Dev) (k u : Nat) : Bool :=
  v.descs.any (fun y => y.cls = 0xD && testKind y.bytes = k && testUnit y.bytes = u && y.parts.any (fun p => p.state = .running))

/-- A descriptor's parts may start: its context runs, its fences have passed, the module is not parked, and the whole device is
not under test (R309, R416, R454, R481). -/
def mayStart (v : Dev) (x : Desc) : Bool :=
  (getCtx v x.ctx).state = 1 && fencesPassed v x && v.pace.parkState = 0 && !underTest v 0x0F 0

/-- A part queued, of a class, on a descriptor that may start. -/
def startable (v : Dev) (d p cls : Nat) : Option (Desc × Part) :=
  match getDesc v d with
  | none => none
  | some x =>
    match x.parts[p]? with
    | none => none
    | some q => if x.cls = cls && q.state = .queued && mayStart v x then some (x, q) else none

/-- Steps of work of the part at work, in a counter of its context (R461, log 88). -/
def countSteps (ctx idx : Nat) : Acc Unit := modify (onDev (ctrSteps ctx idx))

/-- A known number of steps of work of the part at work, beside those it waits (R461). -/
def countOwn (ctx idx n : Nat) : Acc Unit := modify (onDev (ctrAdd ctx idx n))

/-- A pass of `n` and `prime` steps of the part at work on the engines of a core (R461, R462, log 88). -/
def countPass (ctx core n prime : Nat) : Acc Unit := modify (onDev (ctrPass ctx core n prime))

/-- Passes that take `own` steps alone and that up to `share` independent products may share (R82): a free number of steps
between the two (R461, log 88). -/
def countShared (ctx core own share : Nat) : Acc Unit := do
  let least := ceilDiv own share
  let extra := (freeVal (← get).dev).toNat % (own - least + 1)
  modify (onDev freeNext)
  countPass ctx core (least + extra) 0

/-- Element-pair products of a class of R78 (R461). -/
def countMacs (ctx cls n : Nat) : Acc Unit := modify (onDev (ctrAdd ctx (2 + cls) n))

/-- Flags raised by the part at work (R76). -/
def addFlags (f : Flags) : Acc Unit := modify (fun w => { w with flags := Flags.join w.flags f })

/-- A part's core is fenced, so the part fails without running (R25). -/
def onFenced (v : Dev) (d p : Nat) : Bool :=
  match getDesc v d with
  | none => false
  | some x => (partCore x (x.parts.getD p {})).any (isFenced v)

/-- A running part's body computed: the part ends with its status and the flags it raised (R76); on a wait, `w` stands. -/
def runBody (d p : Nat) (body : Acc Unit) (w w1 : Work) : Work :=
  match body.run { w1 with dest := [], snooped := [], flags := {} } with
  | (.ok _, w') => onDev (endPart d p stSuccess 0 w'.flags) (snoopsUsed { w' with dest := [] })
  | (.error (.fail st a), w') =>
    let f : Flags := if st = stVersionRetired then { w'.flags with versionRetired := true } else w'.flags
    onDev (endPart d p st a f) (snoopsUsed (freeDest w'))
  | (.error .wait, _) => w

/-- A part begun: failed where its core is fenced (R25), held where its core's stream table is full (R240), and otherwise
started and given to `go`. -/
def beginPart (d p : Nat) (go : Work → Work) (w : Work) : Work :=
  if onFenced w.dev d p then onDev (endPart d p stFenced 0 {}) w
  else
    match stabBlocked w.dev d p with
    | some c => onDev (stabWait c (.part d p)) w
    | none => go (onDev (startPart d p) w)

/-- One part run as a whole. -/
def runPart (d p : Nat) (body : Acc Unit) (w : Work) : Work := beginPart d p (runBody d p body w) w

/-! ### Epoch counters and completion records -/

/-- An epoch counter's value (R300). -/
def readEpoch (ctx e : Nat) : Acc Nat := do
  let w ← get
  readNat (edge ctx) ((getCtx w.dev ctx).epochAddr + BitVec.ofNat 64 (8 * e)) 8

/-- An addition to an epoch counter, modulo 2^64 (R300, R329). -/
def addEpoch (ctx e n : Nat) : Acc Unit := do
  let w ← get
  let a := (getCtx w.dev ctx).epochAddr + BitVec.ofNat 64 (8 * e)
  let v ← readNat (edge ctx) a 8
  writeNat (edge ctx) a 8 ((v + n) % 2 ^ 64)

/-- The slots of a record of P parts (R311). -/
def recordSlots (parts : Nat) : Nat := 1 + ceilDiv (parts - 15) 56

/-- PHASE of the pass in which a position is written: 1 on the first pass (R313). -/
def phaseOf (index len : Nat) : Nat := if (index / len) % 2 = 0 then 1 else 0

/-- Whether a context serves a pairing reported as unprotected (R389). -/
def ctxUnprot (v : Dev) (x : Nat) : Bool :=
  v.mould.pairs.any (fun q => q.enable && q.unprot && q.ctx.toNat = x)

/-- A ring's number within its context, in order of ring number, among its enabled rings (R311). -/
def ringInCtx (v : Dev) (r : Nat) : Nat :=
  let x := (getRing v r).ctx
  (v.rings.filter (fun c => c.1 < r && c.2.enable && c.2.ctx = x)).length

/-- The lowest part with a status of 0x10 or above (R311). -/
def firstFail (x : Desc) : Option Nat := x.parts.findIdx? (fun p => 0x10 ≤ p.status.toNat)

/-- EXIT_CODE (R311). -/
def exitCode (x : Desc) : Nat :=
  match x.parts.find? (fun p => p.status = stKernelError) with
  | some p => p.exitCode.toNat
  | none => 0

/-- FAULT_ADDR (R311): that of part FIRST_FAIL, for the three statuses that carry one. -/
def faultAddrOf (x : Desc) : Nat :=
  match firstFail x with
  | none => 0
  | some i =>
    let p := x.parts.getD i {}
    if p.status = stTranslation || p.status = stHostMemory || p.status = stMemoryUe then p.faultAddr.toNat else 0

/-- `n` status bytes from part `o` on; bytes beyond P are zero (R311, R312). -/
def statusBytes (x : Desc) (o n : Nat) : List Byte := (upto n).map (fun i => (x.parts.getD (o + i) {}).status)

/-- The header slot of a completion record (R311). -/
def recordHeader (v : Dev) (x : Desc) (phase : Nat) : List Byte :=
  leBytes 8 (userTag x) ++ leBytes 8 (now v).toNat ++
  leBytes 8 (statusWord (overallStatus x) (overallFlags x)).toNat ++
  leBytes 4 x.unitIndex.toNat ++ leBytes 4 x.step.toNat ++ leBytes 2 x.parts.length ++ leBytes 1 x.cls ++
  leBytes 1 (ringInCtx v x.ring % 64) ++ leBytes 2 (exitCode x) ++ leBytes 2 ((firstFail x).getD 0xFFFF) ++
  leBytes 8 (faultAddrOf x) ++ statusBytes x 0 15 ++ leBytes 1 (phase + 2 * b2n (ctxUnprot v x.ctx))

/-- Continuation slot k of a record (R312). -/
def recordCont (x : Desc) (k phase : Nat) : List Byte :=
  statusBytes x (15 + 56 * (k - 1)) 56 ++ List.replicate 6 0 ++ leBytes 1 k ++ leBytes 1 phase

/-- A completion record written to its ring's queue (R311 to R315). -/
def writeRecord (x : Desc) : Acc Unit := do
  let w ← get
  let r := getRing w.dev x.ring
  let len := 2 ^ r.cqLog2.toNat
  let n := recordSlots x.parts.length
  let base := r.cqWritten.toNat
  let at_ (i : Nat) : W64 := r.cqBase + BitVec.ofNat 64 (64 * ((base + i) % len))
  for k in (upto n).drop 1 do
    hostAsks false w.dev.cxl.cacheEn (edge x.ctx) (at_ k) 64 64
    writeBytes (edge x.ctx) (at_ k) (recordCont x k (phaseOf (base + k) len))
  hostAsks false w.dev.cxl.cacheEn (edge x.ctx) (at_ 0) 64 64
  writeBytes (edge x.ctx) (at_ 0) (recordHeader w.dev x (phaseOf base len))
  modify (onDev (modRing x.ring (fun r => { r with cqWritten := r.cqWritten + BitVec.ofNat 32 n })))

/-- A ring stopped by an error, with RING_ERROR; a WAIT it has fetched goes on (R305). -/
def stopRing (r err : Nat) (v : Dev) : Dev :=
  raiseRingError r err (stabForget (fetchOf (fun q => q = r)) (modRing r (fun x => { x with state := 3, err := BitVec.ofNat 3 err }) v))

/-- The step count of a context: STEP of its step state record, or 0 with none (R231, R299). -/
def readStep (ctx : Nat) : Acc Nat := do
  let w ← get
  let a := (getCtx w.dev ctx).stepRec
  if a = 0 then pure 0 else readNat (edge ctx) a 4

/-! ### BAR0 writes (R281, R282, R492) -/

/-- A write of one 8-byte granule of BAR0: which halves it reaches, and its value at their places. -/
structure Bar where
  lo : Bool
  hi : Bool
  val : W64
  deriving DecidableEq, Repr

/-- The access that writes `x` at an offset: 64 bits, or the 32 bits of its half (R281, R492). -/
def barOf (off : Nat) (wide : Bool) (x : W64) : Bar :=
  if wide then ⟨true, true, x⟩
  else if off % 8 = 0 then ⟨true, false, x &&& 0xFFFFFFFF⟩
  else ⟨false, true, x <<< 32⟩

/-- A whole granule after a write: the halves not reached keep their value (R492). -/
def Bar.merge (b : Bar) (old : W64) : W64 :=
  ((if b.lo then b.val else old) &&& 0xFFFFFFFF) ||| ((if b.hi then b.val else old) &&& 0xFFFFFFFF00000000)

/-- Blocks that are live before RB_L has gone high: DEV_, DEV_CXL_, ARM_ and the component registers (R281). -/
def earlyBlock (off : Nat) : Bool :=
  decide (off < 0x1000) || (decide (0x2000 ≤ off) && decide (off < 0x3000)) ||
    (decide (0x90000 ≤ off) && decide (off < 0xA0000)) || decide (0xF0000 ≤ off)

/-- The block at an offset is live. -/
def blockLive (v : Dev) (off : Nat) : Bool := v.blk.live || earlyBlock off

/-- A BAR0 write arrives over the link once configuration requests are answered. -/
def barReached (v : Dev) : Bool := v.cxl.linkUp && v.cxl.configLive

/-- The write is refused under IDE_REQ: it did not come in the CXL.io IDE stream, which exists only while its keys are set
(R282, R291). -/
def ideRefused (v : Dev) (ide : Bool) : Bool := v.cxl.ideReq && !(ide && v.cxl.ideIo)

/-- A write of a register at an offset that has a row of its own: ignored in a block that is not live, refused and counted
outside the IDE stream when IDE_REQ is 1, and otherwise as `act` says (R281, R282). -/
def guarded (off : Nat) (ide : Bool) (act : Work → Work) (w : Work) : Work :=
  if !barReached w.dev || !blockLive w.dev off then w
  else if ideRefused w.dev ide then onDev (ctrAdd 0x3FF 0 1) w
  else act w

/-- A range of a field: the nearer end for a value outside it (R46). -/
def clampW {n : Nat} (lo hi : Nat) (x : BitVec n) : BitVec n := BitVec.ofNat n (clampNat lo hi x.toNat)

end Sys2Proof.Machine
end

