-- ==== Sys2Proof/Machine/Arb.lean ====
section
/-! DEFINITION. Arbitration (chapter 11), DRAM refresh (R246, R247), patrol scrub (R255), and
stitch-line faults (R24). -/

namespace Sys2Proof.Machine

open Sys2Proof

/-! ### Instances and requesters -/

/-- Kind of an instance: 0 DRAM channel, 1 core-store bank port, 2 Rellon egress, 3 stream table (R259). -/
def arbKind (i : Nat) : Nat := if i < 640 then 0 else if i < 4736 then 1 else if i < 4760 then 2 else 3

/-- Longest transfer of a grant, in beats (R259). -/
def arbBeats (kind : Nat) : Nat := if kind = 0 then 4 else if kind = 2 then 16 else 1

/-- The field of a source in the class register (R273). -/
def srcField : ArbSource → Option Nat
  | .load => some 0 | .drain => some 1 | .tidy => some 2 | .copy => some 3 | .coll => some 4
  | .hostmem => some 5 | .hostctl => some 6 | .arm => some 7 | .linkctl => some 8
  | .patrol => none | .refresh => none

/-- Whether a source type makes requests at a kind of instance (R261); patrol scrub and refresh do at memories (R260). -/
def srcAt (kind : Nat) : ArbSource → Bool
  | .load => kind = 1
  | .drain => kind = 1
  | .tidy => kind ≠ 2
  | .copy => true
  | .coll => true
  | .hostmem => kind = 0 || kind = 1
  | .hostctl => kind ≠ 2
  | .arm => true
  | .linkctl => kind = 2
  | .patrol => kind = 0 || kind = 1
  | .refresh => kind = 0

/-- The field of a class register at a source (R273): 0 normal, 1 high, 2 low. -/
def classField (cls : BitVec 18) (f : Nat) : Nat := (cls.toNat / 4 ^ f) % 4

/-- Class of a requester at a kind: patrol scrub and owed refresh are low (R260). -/
def srcClass (v : Dev) (kind : Nat) (s : ArbSource) : Nat :=
  match srcField s with
  | some f => classField (v.arbRegs.getD kind {}).cls f
  | none => 2

/-- Units of a source type at an instance (R261). -/
def srcUnits : ArbSource → Nat
  | .load => 8 | .drain => 4 | .tidy => 32 | .copy => 32 | .coll => 24 | .linkctl => 24
  | .hostmem => 1 | .hostctl => 1 | .arm => 1 | .patrol => 1 | .refresh => 1

def arbSrcCode : ArbSource → Nat
  | .load => 0 | .drain => 1 | .tidy => 2 | .copy => 3 | .coll => 4 | .hostmem => 5 | .hostctl => 6 | .arm => 7
  | .linkctl => 8 | .patrol => 9 | .refresh => 10

/-- Position in the ranking: a requester that has not moved stands in the fixed reset order of the instance, ahead of
every one that has moved to the lowest rank since (R262). -/
def rankKey (i : Nat) (a : ArbInst) (r : Requester) : Nat × Nat :=
  match a.rank.idxOf? r with
  | none => (0, Config.arbOrder i (arbSrcCode r.src) r.unit)
  | some k => (1, k)

/-- One key before another. -/
def keyLe (a b : Nat × Nat) : Bool := decide (a.1 < b.1) || (a.1 = b.1 && decide (a.2 ≤ b.2))

/-- The candidate of highest rank; of two that the order does not tell apart, the earlier in the list. -/
def topRank (i : Nat) (a : ArbInst) : List ArbRequest → Option ArbRequest
  | [] => none
  | r :: t =>
    match topRank i a t with
    | none => some r
    | some q => if keyLe (rankKey i a r.req) (rankKey i a q.req) then some r else some q

/-- A requester's grants in this window (R265). -/
def winCount (a : ArbInst) (r : Requester) : Nat := ((a.counts.find? (fun c => c.1 = r)).map (·.2)).getD 0

/-- A requester of the high class masked for the rest of the window (R265). -/
def masked (v : Dev) (kind : Nat) (a : ArbInst) (r : Requester) : Bool :=
  decide ((v.arbRegs.getD kind {}).quota.toNat ≤ winCount a r)

/-- A raised request of the high class whose requester is masked: it takes no part but in an idle grant (R262, R265). -/
def maskedHigh (v : Dev) (kind : Nat) (a : ArbInst) (r : ArbRequest) : Bool :=
  srcClass v kind r.req.src = 1 && masked v kind a r.req

/-- The contest of R262: the candidates, and whether the grant is charged (the first line). -/
def contest (v : Dev) (kind : Nat) (a : ArbInst) : List ArbRequest × Bool :=
  let ofClass (c : Nat) := a.raised.filter (fun r => srcClass v kind r.req.src = c && !maskedHigh v kind a r)
  if !(ofClass 1).isEmpty then (ofClass 1, true)
  else if !(ofClass 0).isEmpty then (ofClass 0, false)
  else if !(ofClass 2).isEmpty then (ofClass 2, false)
  else (a.raised.filter (maskedHigh v kind a), false)

/-- Who loses to a winner: every other raised request in the contest, which a masked one joins only where all are masked. -/
def losersOf (v : Dev) (kind : Nat) (a : ArbInst) (win : ArbRequest) : List ArbRequest :=
  a.raised.filter (fun r => r.req ≠ win.req && (!maskedHigh v kind a r || maskedHigh v kind a win))

/-- Back-off state of a requester (R268). -/
def backoffOf (a : ArbInst) (r : Requester) : Backoff :=
  (a.backoff.find? (fun b => b.req = r)).getD { req := r }

/-- Back-off state replaced; a requester with k = 0 that holds nothing needs none. -/
def setBackoff (b : Backoff) (a : ArbInst) : ArbInst :=
  let rest := a.backoff.filter (fun x => x.req ≠ b.req)
  { a with backoff := if b.k = 0 && b.held.isNone then rest else rest ++ [b] }

/-- Requesters whose back-off rounds have run out raise again (R268). -/
def wake (a : ArbInst) : ArbInst :=
  let due := a.backoff.filter (fun b => b.held.isSome && decide (b.until_ ≤ a.decision))
  due.foldl (fun a b =>
    match b.held with
    | some r => setBackoff { b with held := none } { a with raised := a.raised ++ [r] }
    | none => a) a

/-- A request in waiting service (R267): every one while RB_L is held low, that of a TEST under way, that of a context in its
failure path, and the armature processor's recovery work. -/
def waitingService (v : Dev) (r : ArbRequest) : Bool :=
  !v.power.rbHigh ||
    (match r.work with
     | .test => v.descs.any (fun x => x.cls = 0xD)
     | .ctx x => (getCtx v x.val).state = 2
     | .recovery => r.req.src = .arm && (v.retired || v.ctxs.any (fun c => c.2.state = 2))
     | .other => false)

/-- A loss in normal service: withdrawn, sitting out 2^k decisions, k one more up to 10 (R268); in waiting service the
request stays raised (R269). -/
def lose (waiting : Bool) (d : Nat) (r : ArbRequest) (a : ArbInst) : ArbInst :=
  if waiting then a
  else
    let b := backoffOf a r.req
    setBackoff { b with k := Nat.min (b.k + 1) 10, until_ := d + 2 ^ b.k + 1, held := some r }
      { a with raised := a.raised.filter (fun x => x.req ≠ r.req) }

/-- Normal-service losses counted at the instance (R268, R462). -/
def countLoss (i : Nat) (v : Dev) : Dev :=
  if i < 640 then ctrAdd (0x200 + i / 32) (4 + i % 32) 1 v
  else if i < 4736 then
    let j := i - 640
    ctrAdd (0x100 + j / 128) (8 + j % 128) 1 v
  else if i < 4760 then ctrAdd (0x300 + (i - 4736)) 2 1 v
  else ctrAdd 0x3FF 6 1 v

/-- The winner moved to the lowest rank of its class (R262), charged on the first line (R265), its back-off cleared. -/
def winAt (charged : Bool) (r : ArbRequest) (a : ArbInst) : ArbInst :=
  let a := setBackoff { req := r.req } { a with
    rank := a.rank.filter (fun x => x ≠ r.req) ++ [r.req]
    raised := a.raised.filter (fun x => x.req ≠ r.req)
    decided := some ⟨r.req, r.beats⟩ }
  if charged then
    { a with counts := a.counts.filter (fun c => c.1 ≠ r.req) ++ [(r.req, winCount a r.req + 1)] }
  else a

/-- A window's start when its W rounds have run (R265). A write that changes W in a window's middle leaves the rounds counted, and the
next window begins at the first decision by which they have reached the W in force (DESIGN CHOICE, log 41). -/
def rollWindow (v : Dev) (kind : Nat) (a : ArbInst) : ArbInst :=
  if (v.arbRegs.getD kind {}).window.toNat ≤ a.winPos then { a with winPos := 0, counts := [] } else a

/-- A requester sits out the decision to come after its last loss (R268), whatever has become of the request that lost. -/
def sitsOut (a : ArbInst) (r : Requester) : Bool := decide (a.decision < (backoffOf a r).until_)

/-- A request of a requester that has none: raised, or held through the rounds that its requester sits out (R268). -/
def raiseOne (a : ArbInst) (r : ArbRequest) : ArbInst :=
  let b := backoffOf a r.req
  if a.raised.any (fun x => x.req = r.req) || b.held.isSome then a
  else if sitsOut a r.req then setBackoff { b with held := some r } a
  else { a with raised := a.raised ++ [r] }

/-- An owed refresh is issued as an ordinary request whenever its channel has no other request pending (R247). -/
def askRefresh (c : Nat) (v : Dev) : Dev :=
  let h := getChan v c
  let a := getArb v c
  if c < 640 ∧ h.owed ≠ 0 ∧ h.owed < 8 ∧ h.since.isNone ∧ a.raised.isEmpty ∧ a.decided.isNone ∧
      (backoffOf a ⟨.refresh, 0⟩).held.isNone ∧ !sitsOut a ⟨.refresh, 0⟩ then
    setArb c { a with raised := [⟨⟨.refresh, 0⟩, .other, 1⟩] } v
  else v

/-- New requests raised: of sources that make them at the kind, one of each requester, held where it sits out rounds after a loss
(R261, R268); refresh asks of itself (R247). A requester whose part failed or whose core was fenced withdraws, the request it holds
through its back-off too (R263). -/
def raiseAll (kind : Nat) (raised : List ArbRequest) (withdrawn : List Requester) (a : ArbInst) : ArbInst :=
  let a := (raised.filter (fun r => srcAt kind r.req.src && r.req.src ≠ .refresh)).foldl raiseOne a
  let drop (b : Backoff) : Backoff := if withdrawn.contains b.req then { b with held := none } else b
  { a with
    raised := a.raised.filter (fun r => !withdrawn.contains r.req)
    backoff := (a.backoff.map drop).filter (fun b => b.k ≠ 0 || b.held.isSome) }

/-- The instance of the memory port that serves a device physical address (R237, R243, R259). -/
def memPort (a : Nat) (write : Bool) : Nat :=
  if a < cstoreBase then 32 * stackOf a + channelOf a
  else 640 + 128 * storeCore a + 2 * ((a - cstoreBase) % 0x8000000 / 128 % 64) + b2n write

/-- A collective engine's request at an instance for a transfer of a context's (R261, R357). -/
def askColl (p i ctx beats : Nat) (v : Dev) : Dev :=
  setArb i (raiseAll (arbKind i) [⟨⟨.coll, p⟩, .ctx (Fin.ofNat 64 ctx), beats⟩] [] (getArb v i)) v

/-- The grant that is issued now: a replay ahead of every other (R270), else the one decided, which is empty where its requester
has withdrawn (R263). -/
def issue (kind : Nat) (withdrawn : List Requester) (a : ArbInst) : ArbInst :=
  match a.replay, a.decided with
  | g :: rest, _ => { a with current := some g, replay := rest }
  | [], some g =>
    { a with decided := none
             current := if withdrawn.contains g.req then none else some ⟨g.req, Nat.min g.beats (arbBeats kind)⟩ }
  | [], none => { a with current := none }

/-- A refresh that an ordinary grant issues begins to occupy its channel (R246). -/
def beginRefresh (i : Nat) (v : Dev) : Dev :=
  if i < 640 ∧ (getArb v i).current.any (fun g => g.req = ⟨.refresh, 0⟩) then
    setChan i { (getChan v i) with since := some (now v) } v
  else v

/-- The next grant decided among the requests as they stand (R262, R265, R268). -/
def decideNext (i : Nat) (v : Dev) : Dev :=
  let kind := arbKind i
  let a := getArb v i
  let d := a.decision
  let counted (a : ArbInst) : ArbInst := { a with decision := d + 1, winPos := a.winPos + 1 }
  let (cands, charged) := contest v kind a
  match topRank i a cands with
  | none => setArb i (counted a) v
  | some win =>
    let losers := losersOf v kind a win
    let a := losers.foldl (fun a r => lose (waitingService v r) d r a) (winAt charged win a)
    let v := (losers.filter (fun r => !waitingService v r)).foldl (fun v _ => countLoss i v) v
    setArb i (counted a) v

/-- A refresh that has reached eight owed waits for its channel, which takes no ordinary grant and no replay before it (R247, R260,
R270). -/
def refreshWaits (i : Nat) (v : Dev) : Bool := decide (i < 640) && decide (8 ≤ (getChan v i).owed)

/-- One decision (R262, R263, R265, R268): the decided grant is issued, or is an empty grant when its requester has
withdrawn; then the next grant is decided. While an emergency use or a refresh holds the resource, or an emergency refresh waits for
it, nothing is issued (R246, R270). In park the die and the ports are off and DRAM refreshes itself: no instance decides (R479). -/
def arbDecide (i : Nat) (raised : List ArbRequest) (withdrawn : List Requester) (v : Dev) : Dev :=
  let a := getArb v i
  if v.power.state = .park || a.emergency.isSome || (decide (i < 640) && (getChan v i).since.isSome) || refreshWaits i v then v
  else
    let a := wake (raiseAll (arbKind i) raised withdrawn (rollWindow v (arbKind i) a))
    let replayed := !a.replay.isEmpty
    let v := beginRefresh i (setArb i (issue (arbKind i) withdrawn a) v)
    if replayed then v else decideNext i (askRefresh i v)

/-- BACKOFF_END (R268): a loser whose rounds have run out raises its request again. -/
def backoffEnd (i : Nat) (r : Requester) (v : Dev) : Dev :=
  let a := getArb v i
  let b := backoffOf a r
  match b.held with
  | some q => if b.until_ ≤ a.decision then setArb i (setBackoff { b with held := none } { a with raised := a.raised ++ [q] }) v else v
  | none => v

/-- QUOTA_WINDOW_START (R265). -/
def quotaWindowStart (i : Nat) (v : Dev) : Dev := setArb i (rollWindow v (arbKind i) (getArb v i)) v

/-- The resource is free for an emergency requester: no other emergency use nor a refresh holds it, and a refresh of eight owed goes
before the debug port (R270, R271). In park DRAM refreshes itself (R479). -/
def emergencyMay (i : Nat) (who : Emergency) (v : Dev) : Bool :=
  let due := refreshWaits i v
  (getArb v i).emergency.isNone && !(decide (i < 640) && (getChan v i).since.isSome) &&
    (match who with
     | .refresh => due && v.power.state ≠ .park
     | .debug => v.arm.debugUnlock && !due)

/-- EMERGENCY_REVOKE (R260, R270, R271): an emergency request takes an idle resource, or revokes the current grant at the
next beat boundary, at which `moved` of its beats have moved; the beats left form its replay. -/
def emergencyRevoke (i : Nat) (who : Emergency) (moved : Nat) (v : Dev) : Dev :=
  if !emergencyMay i who v then v
  else
    let a := getArb v i
    let v := match a.current with
      | some _ => if i < 640 then ctrAdd (0x200 + i / 32) 3 1 v else v
      | none => v
    let replay := match a.current with
      | some g => if Nat.max 1 moved < g.beats then ⟨g.req, g.beats - Nat.max 1 moved⟩ :: a.replay else a.replay
      | none => a.replay
    let v := setArb i { a with emergency := some who, current := none, replay := replay } v
    match who with
    | .refresh => setChan i { (getChan v i) with since := some (now v) } v
    | .debug => v

/-- EMERGENCY_END (R270): the emergency use ends, and a replay is issued ahead of every other grant, but behind a refresh that waits
(R271). A refresh ends with REFRESH_DONE. -/
def emergencyEnd (i : Nat) (v : Dev) : Dev :=
  let a := getArb v i
  match a.emergency with
  | none => v
  | some .refresh => v
  | some .debug =>
    match a.replay, refreshWaits i v with
    | g :: rest, false => setArb i { a with emergency := none, current := some g, replay := rest } v
    | _, _ => setArb i { a with emergency := none } v

/-! ### Refresh (R246, R247, R482, R502) -/

/-- REFI of a stack, by its sensor's reading; one whose sensor failed is refreshed as one above 105 °C (R502). -/
def refi (v : Dev) (stack : Nat) : Nat :=
  let t := (v.sns.tstack.getD stack 0).toInt
  if v.sns.failed.getLsbD (16 + stack) then 975
  else if t ≤ 85 * 16 then 3900 else if t ≤ 105 * 16 then 1950 else 975

def tmRefreshOf (c : Nat) : Nat := 1000 + c

/-- A refresh of eight owed is an emergency requester and no ordinary one (R247, R260); its k stands until it wins (R268). -/
def promoteRefresh (c : Nat) (v : Dev) : Dev :=
  let a := getArb v c
  if (getChan v c).owed < 8 then v
  else setArb c (setBackoff { backoffOf a ⟨.refresh, 0⟩ with held := none } { a with raised := a.raised.filter (fun r => r.req ≠ ⟨.refresh, 0⟩) }) v

/-- REFRESH_DUE (R246, R247): the owed count rises, never beyond 8; fewer than 8 owed is an ordinary low request. In park DRAM
refreshes itself and nothing is owed (R479). -/
def refreshDue (c : Nat) (v : Dev) : Dev :=
  if !v.power.railsUp || v.power.state = .park || !timerDue v (tmRefreshOf c) (refi v (c / 32)) then v
  else
    let h := getChan v c
    askRefresh c (promoteRefresh c (timerMark (tmRefreshOf c) (setChan c { h with owed := Nat.min (h.owed + 1) 8 } v)))

/-- REFRESH_DONE (R246, R247, R270): 120 units after it began, a refresh ends; a revoked transfer is replayed first, and a refresh
still owed asks again. -/
def refreshDone (c : Nat) (v : Dev) : Dev :=
  let h := getChan v c
  let a := getArb v c
  match h.since with
  | some t =>
    if since v t < 120 then v
    else
      let v := setChan c { owed := h.owed - 1, since := none } v
      let a' := { a with emergency := none, current := none }
      askRefresh c (match a.replay with
        | g :: rest => setArb c { a' with current := some g, replay := rest } v
        | [] => setArb c a' v)
  | none => v

/-! ### Scrubs and stitch lines -/

/-- What a read of a word or granule found, beside what the reader gets (R253 to R255, R258, R462): corrections and retried beats
counted, an interface that fails to retrain. Answers whether the data are good. -/
def readFound (a : Nat) (r : ReadResult) (v : Dev) : Dev × Bool :=
  let dram := decide (a < cstoreBase)
  match r with
  | .clean => (v, !isUe v a)
  | .corrected => if isUe v a then (v, false) else (countCorrected a v, true)
  | .uncorrectable => ({ v with ue := setAdd v.ue (granuleBase a) }, false)
  | .retried n => (if dram then ctrAdd (0x200 + stackOf a) 2 n.val v else v, !isUe v a)
  | .linkFailed => if dram then (ctrAdd (0x200 + stackOf a) 2 4 v, false) else (v, !isUe v a)
  | .retrainFailed => (if dram then stackFaulty (stackOf a) v else v, !isUe v a)

/-- How often a word is scrubbed: once per 2^36 units in a core store, once per 2^40 in DRAM (R255). -/
def scrubPeriod (a : Nat) : Nat := if a < cstoreBase then 2 ^ 40 else 2 ^ 36

/-- The scrub of a word is due: it has not been read yet, or a period ago. -/
def scrubDue (v : Dev) (a : Nat) : Bool :=
  match tabGet none v.scrubbed (granuleBase a) with
  | none => true
  | some t => decide (scrubPeriod a ≤ since v t)

/-- PATROL_SCRUB (R255): a word or granule read in its turn. A corrected error is counted; an uncorrectable one is counted and
raises MEM_UE, and the word or granule stays as it is. In park nothing is scrubbed: the die is off and DRAM in self-refresh (R479). -/
def patrolScrub (a : Nat) (r : ReadResult) (v : Dev) : Dev :=
  if !(decide (a < 0x7800000000) || (decide (cstoreBase ≤ a) && decide (a < 0x8100000000))) || !v.arm.memoryInit ||
      v.power.state = .park || !scrubDue v a then v
  else
    let (v', good) := readFound a r { v with scrubbed := tabPut none v.scrubbed (granuleBase a) (some (now v)) }
    if good then v' else meetUe 0 a v'

/-- STITCH_LINE_FAULT (R24): direct traffic between two fields goes round by the other lines, 12 steps longer. -/
def stitchFault (line : Fin 4) (v : Dev) : Dev :=
  { v with fab := { v.fab with stitchFaults := v.fab.stitchFaults ||| (1#4 <<< line.val) } }

/-! ### Registers (R264, R273, R274) -/

/-- The class register's whole content after a write of `x`: reserved values and fields of sources that make no request
at the kind leave their field unchanged (R273). -/
def classMerge (kind : Nat) (old x : BitVec 18) : BitVec 18 :=
  let srcs : List ArbSource := [.load, .drain, .tidy, .copy, .coll, .hostmem, .hostctl, .arm, .linkctl]
  BitVec.ofNat 18 ((srcs.zipIdx).foldl (fun n (s, f) =>
    let q := classField x f
    n + (if srcAt kind s && q ≠ 3 then q else if srcAt kind s then classField old f else 0) * 4 ^ f) 0)

/-- Requesters of a source that changed class enter at the lowest rank of the new class, in the order they had (R262). -/
def moveClass (i : Nat) (s : ArbSource) (a : ArbInst) : ArbInst :=
  let all := (upto (srcUnits s)).map (fun u => (⟨s, u⟩ : Requester))
  let fresh := (all.filter (fun r => !a.rank.contains r)).mergeSort (fun x y => keyLe (rankKey i a x) (rankKey i a y))
  let old := a.rank.filter (fun r => r.src = s)
  { a with rank := a.rank.filter (fun r => r.src ≠ s) ++ fresh ++ old }

/-- Instances of a kind (R259). -/
def instancesOf (kind : Nat) : List Nat := (upto 4792).filter (fun i => arbKind i = kind)

/-- A write of a class register (R264, R273). -/
def writeClass (kind : Nat) (x : BitVec 18) (v : Dev) : Dev :=
  let r := v.arbRegs.getD kind {}
  let new := classMerge kind r.cls x
  let srcs : List ArbSource := [.load, .drain, .tidy, .copy, .coll, .hostmem, .hostctl, .arm, .linkctl]
  let moved := ((srcs.zipIdx).filter (fun c => classField new c.2 ≠ classField r.cls c.2)).map (·.1)
  let v := { v with arbRegs := v.arbRegs.set kind { r with cls := new } }
  if moved.isEmpty then v
  else (instancesOf kind).foldl (fun v i => setArb i (moved.foldl (fun a s => moveClass i s a) (getArb v i)) v) v

/-- A write of a quota register (R274). -/
def writeQuota (kind : Nat) (q w : Nat) (v : Dev) : Dev :=
  let r := v.arbRegs.getD kind {}
  let r' : ArbRegs := { r with quota := BitVec.ofNat 8 (clampNat 1 255 q), window := BitVec.ofNat 16 (clampNat 16 65535 w) }
  { v with arbRegs := v.arbRegs.set kind r' }

/-! ### Meanings -/

/-- REFRESH_DUE (R247). -/
def execRefreshDue (c : Fin 640) (s : State) : Host.Outcome State Fault Refusal := runDev (refreshDue c.val) s
/-- REFRESH_DONE (R246). -/
def execRefreshDone (c : Fin 640) (s : State) : Host.Outcome State Fault Refusal := runDev (powered (refreshDone c.val)) s
/-- PATROL_SCRUB (R255). -/
def execPatrolScrub (a : Nat) (r : ReadResult) (s : State) : Host.Outcome State Fault Refusal := runDev (powered (patrolScrub a r)) s
/-- ARB_DECISION (R262). -/
def execArbDecision (i : Fin 4792) (raised : List ArbRequest) (withdrawn : List Requester) (s : State) :
    Host.Outcome State Fault Refusal := runDev (powered (arbDecide i.val raised withdrawn)) s
/-- BACKOFF_END (R268). -/
def execBackoffEnd (i : Fin 4792) (r : Requester) (s : State) : Host.Outcome State Fault Refusal := runDev (powered (backoffEnd i.val r)) s
/-- QUOTA_WINDOW_START (R265). -/
def execQuotaWindowStart (i : Fin 4792) (s : State) : Host.Outcome State Fault Refusal := runDev (powered (quotaWindowStart i.val)) s
/-- EMERGENCY_REVOKE (R270). -/
def execEmergencyRevoke (i : Fin 4792) (r : Revoker) (s : State) : Host.Outcome State Fault Refusal :=
  runDev (powered (emergencyRevoke i.val r.who r.moved)) s
/-- EMERGENCY_END (R270). -/
def execEmergencyEnd (i : Fin 4792) (s : State) : Host.Outcome State Fault Refusal := runDev (powered (emergencyEnd i.val)) s
/-- STITCH_LINE_FAULT (R24). -/
def execStitchLineFault (l : Fin 4) (s : State) : Host.Outcome State Fault Refusal := runDev (stitchFault l) s

end Sys2Proof.Machine
end

