-- ==== Sys2Proof/Machine/Crypto.lean ====
section
/-! DEFINITION. Digests the spec names by their public standards (PRESUMED, log 18): SHA-384 (FIPS 180-4) with HMAC and
HKDF (RFC 2104, RFC 5869), CRC-32C, and SipHash-2-4. -/

namespace Sys2Proof.Machine

open Sys2Proof

/-- Whether a number is prime, by trial division up to a bound. -/
def isPrime (n : Nat) : Bool := decide (2 ≤ n) && (List.range n).all (fun d => decide (d < 2) || n % d ≠ 0)

/-- The primes below 410: the first eighty. -/
def firstPrimes : List Nat := (List.range 410).filter isPrime

/-- The round constants of SHA-512: the first 64 bits of the fractional parts of the primes' cube roots. -/
def shaK : List W64 := firstPrimes.map (fun p => BitVec.ofNat 64 (iroot 3 (p * 2 ^ 192)))

/-- The initial hash value of SHA-384: from the square roots of the ninth to sixteenth primes. -/
def sha384Init : List W64 := ((firstPrimes.drop 8).take 8).map (fun p => BitVec.ofNat 64 (isqrt (p * 2 ^ 128)))

/-- A number of `n` bytes from big-endian bytes. -/
def beNat (bs : List Byte) : Nat := bs.foldl (fun a b => 256 * a + b.toNat) 0

/-- `n` bytes of a number, most significant first. -/
def beBytes (n v : Nat) : List Byte := (leBytes n v).reverse

/-- The message padded to whole 128-byte blocks. -/
def shaPad (m : List Byte) : List Byte :=
  let z := (128 - (m.length + 17) % 128) % 128
  m ++ [0x80] ++ List.replicate z 0 ++ beBytes 16 (8 * m.length)

/-- The message schedule, newest word first, extended by `n` words. -/
def shaSchedule : Nat → List W64 → List W64
  | 0, ws => ws
  | n + 1, ws =>
    let g (i : Nat) : W64 := ws.getD (i - 1) 0
    let s0 := (g 15).rotateRight 1 ^^^ (g 15).rotateRight 8 ^^^ (g 15 >>> 7)
    let s1 := (g 2).rotateRight 19 ^^^ (g 2).rotateRight 61 ^^^ (g 2 >>> 6)
    shaSchedule n ((s1 + g 7 + s0 + g 16) :: ws)

/-- One round on the eight working variables. -/
def shaRound (h : List W64) (kw : W64) : List W64 :=
  let g (i : Nat) : W64 := h.getD i 0
  let e := g 4
  let a := g 0
  let t1 := g 7 + (e.rotateRight 14 ^^^ e.rotateRight 18 ^^^ e.rotateRight 41) + ((e &&& g 5) ^^^ (~~~e &&& g 6)) + kw
  let t2 := (a.rotateRight 28 ^^^ a.rotateRight 34 ^^^ a.rotateRight 39) + ((a &&& g 1) ^^^ (a &&& g 2) ^^^ (g 1 &&& g 2))
  [t1 + t2, a, g 1, g 2, g 3 + t1, e, g 5, g 6]

/-- One block folded into the hash value. -/
def shaBlock (h : List W64) (blk : List Byte) : List W64 :=
  let w0 := (List.range 16).map (fun i => BitVec.ofNat 64 (beNat ((blk.drop (8 * i)).take 8)))
  let ws := (shaSchedule 64 w0.reverse).reverse
  let kw := (List.zip shaK ws).map (fun c => c.1 + c.2)
  List.zipWith (fun a b => a + b) h (kw.foldl shaRound h)

/-- SHA-384 of bytes, as 48 bytes. -/
def sha384Bytes (m : List Byte) : List Byte :=
  let p := shaPad m
  let h := (List.range (p.length / 128)).foldl (fun h i => shaBlock h ((p.drop (128 * i)).take 128)) sha384Init
  ((h.take 6).map (fun w => beBytes 8 w.toNat)).flatten

/-- A digest as a register holds it: byte 0 lowest (R2). -/
def digestOf (bs : List Byte) : BitVec 384 := BitVec.ofNat 384 (leNat bs)

/-- SHA-384 as a register holds it. -/
def sha384 (m : List Byte) : BitVec 384 := digestOf (sha384Bytes m)

/-- HMAC-SHA-384. -/
def hmac384 (key m : List Byte) : List Byte :=
  let k := key ++ List.replicate (128 - key.length) 0
  sha384Bytes (k.map (fun b => b ^^^ 0x5C) ++ sha384Bytes (k.map (fun b => b ^^^ 0x36) ++ m))

/-- HKDF-SHA-384 with an empty salt and one output block (R450). -/
def hkdf384 (secret info : List Byte) : List Byte :=
  hmac384 (hmac384 (List.replicate 48 0) secret) (info ++ [1])

/-- One bit of CRC-32C, reflected polynomial 0x82F63B78. -/
def crcStep (c : W32) : W32 := if c.getLsbD 0 then (c >>> 1) ^^^ 0x82F63B78 else c >>> 1

/-- One byte folded into a CRC-32C. -/
def crcByte (c : W32) (b : Byte) : W32 :=
  crcStep (crcStep (crcStep (crcStep (crcStep (crcStep (crcStep (crcStep (c ^^^ b.setWidth 32))))))))

/-- CRC-32C of bytes. -/
def crc32c (m : List Byte) : W32 := ~~~(m.foldl crcByte 0xFFFFFFFF)

/-- The four words of SipHash. -/
structure Sip where
  v0 : W64
  v1 : W64
  v2 : W64
  v3 : W64

/-- One SipRound. -/
def sipRound (s : Sip) : Sip :=
  let v0 := s.v0 + s.v1
  let v1 := s.v1.rotateLeft 13 ^^^ v0
  let v0 := v0.rotateLeft 32
  let v2 := s.v2 + s.v3
  let v3 := s.v3.rotateLeft 16 ^^^ v2
  let v0' := v0 + v3
  let v3' := v3.rotateLeft 21 ^^^ v0'
  let v2' := v2 + v1
  let v1' := v1.rotateLeft 17 ^^^ v2'
  ⟨v0', v1', v2'.rotateLeft 32, v3'⟩

/-- One 64-bit word of a message. -/
def sipWord (s : Sip) (m : W64) : Sip :=
  let t := sipRound (sipRound { s with v3 := s.v3 ^^^ m })
  { t with v0 := t.v0 ^^^ m }

/-- Whole words of a message, `n` of them. -/
def sipWords : Nat → List Byte → Sip → Sip
  | 0, _, s => s
  | n + 1, m, s => sipWords n (m.drop 8) (sipWord s (BitVec.ofNat 64 (leAt m 0 8)))

/-- SipHash-2-4 of a message under a 128-bit key (R430). -/
def sipHash24 (key msg : List Byte) : W64 :=
  let k0 := BitVec.ofNat 64 (leAt key 0 8)
  let k1 := BitVec.ofNat 64 (leAt key 8 8)
  let s : Sip := ⟨k0 ^^^ 0x736f6d6570736575, k1 ^^^ 0x646f72616e646f6d, k0 ^^^ 0x6c7967656e657261, k1 ^^^ 0x7465646279746573⟩
  let n := msg.length / 8
  let s := sipWords n msg s
  let last := BitVec.ofNat 64 (leNat (msg.drop (8 * n)) + (msg.length % 256) * 2 ^ 56)
  let s := sipWord s last
  let s := sipRound (sipRound (sipRound (sipRound { s with v2 := s.v2 ^^^ 0xFF })))
  s.v0 ^^^ s.v1 ^^^ s.v2 ^^^ s.v3

end Sys2Proof.Machine
end

