-- ==== Sys2Proof/Machine/Numerics.lean ====
section
/-! DEFINITION. Numbers: exact values, the storage formats and conversions of chapter 03, FP32 arithmetic, FP32 pairs
(R106), block scales (R54 to R58), head and tail (R65, R66), stochastic rounding (R68). -/

namespace Sys2Proof.Machine

open Sys2Proof

/-! ### Exact values -/

/-- An exact value: a NaN or an infinity with its sign, or (−1)^neg × mag × 2^exp, a zero where mag = 0. -/
inductive Val where
  | nan (neg : Bool)
  | inf (neg : Bool)
  | num (neg : Bool) (mag : Nat) (exp : Int)
  deriving DecidableEq, Repr

def vZero : Val := .num false 0 0
def vOne : Val := .num false 1 0
/-- A whole number. -/
def vInt (i : Int) : Val := .num (decide (i < 0)) i.natAbs 0
/-- A whole number times a power of two. -/
def vDy (i : Int) (e : Int) : Val := .num (decide (i < 0)) i.natAbs e

def Val.isNan : Val → Bool
  | .nan _ => true
  | _ => false
def Val.isZero : Val → Bool
  | .num _ m _ => m = 0
  | _ => false
def Val.isFinite : Val → Bool
  | .num _ _ _ => true
  | _ => false
def Val.isNeg : Val → Bool
  | .nan n => n
  | .inf n => n
  | .num n _ _ => n
/-- The sign inverted; a NaN's too. -/
def Val.neg : Val → Val
  | .nan n => .nan (!n)
  | .inf n => .inf (!n)
  | .num n m e => .num (!n) m e
/-- The sign made positive; a NaN's too. -/
def Val.abs : Val → Val
  | .nan _ => .nan false
  | .inf _ => .inf false
  | .num _ m e => .num false m e

/-- 2 to a power as a factor of a magnitude: shifts by a non-negative amount. -/
def shl (m : Nat) (k : Int) : Nat := m * 2 ^ k.toNat

/-- floor(log2) of a non-zero magnitude. -/
def ilog (m : Nat) (e : Int) : Int := (Nat.log2 m : Int) + e

/-- A signed mantissa. -/
def sgn (n : Bool) (m : Nat) : Int := if n then -(m : Int) else (m : Int)

/-- The exact sum of two finite values as a signed mantissa and exponent. -/
def sumDy (n1 : Bool) (m1 : Nat) (e1 : Int) (n2 : Bool) (m2 : Nat) (e2 : Int) : Int × Int :=
  if m1 = 0 then (sgn n2 m2, e2)
  else if m2 = 0 then (sgn n1 m1, e1)
  else
    let e := min e1 e2
    (sgn n1 (shl m1 (e1 - e)) + sgn n2 (shl m2 (e2 - e)), e)

/-- IEEE 754 addition, exact (R152): a NaN operand gives a NaN with the sign of the first one. -/
def addV (a b : Val) : Val :=
  match a, b with
  | .nan n, _ => .nan n
  | _, .nan n => .nan n
  | .inf n, .inf k => if n = k then .inf n else .nan false
  | .inf n, .num _ _ _ => .inf n
  | .num _ _ _, .inf n => .inf n
  | .num n1 m1 e1, .num n2 m2 e2 =>
    let (i, e) := sumDy n1 m1 e1 n2 m2 e2
    if i = 0 then .num (n1 && n2) 0 0 else vDy i e

/-- Exact subtraction: the sign of a NaN operand is kept. -/
def subV (a b : Val) : Val :=
  match b with
  | .nan n => (match a with
    | .nan k => .nan k
    | _ => .nan n)
  | _ => addV a b.neg

/-- IEEE 754 multiplication, exact. -/
def mulV (a b : Val) : Val :=
  match a, b with
  | .nan n, _ => .nan n
  | _, .nan n => .nan n
  | .inf n, .inf k => .inf (n != k)
  | .inf n, .num k m _ => if m = 0 then .nan false else .inf (n != k)
  | .num n m _, .inf k => if m = 0 then .nan false else .inf (n != k)
  | .num n1 m1 e1, .num n2 m2 e2 => .num (n1 != n2) (m1 * m2) (e1 + e2)

/-- A quotient of magnitudes to more than 600 bits, its last bit a sticky bit for all that follow. -/
def quotMag (m1 m2 : Nat) : Nat × Int :=
  let k := 640 + Nat.log2 m2
  let n := m1 * 2 ^ k
  (2 * (n / m2) + (if n % m2 = 0 then 0 else 1), -(k : Int) - 1)

/-- IEEE 754 division (R59, R152), to a precision that rounds as the exact quotient does. -/
def divV (a b : Val) : Val :=
  match a, b with
  | .nan n, _ => .nan n
  | _, .nan n => .nan n
  | .inf _, .inf _ => .nan false
  | .inf n, .num k _ _ => .inf (n != k)
  | .num n _ _, .inf k => .num (n != k) 0 0
  | .num n1 m1 e1, .num n2 m2 e2 =>
    if m2 = 0 then (if m1 = 0 then .nan false else .inf (n1 != n2))
    else
      let (q, e) := quotMag m1 m2
      .num (n1 != n2) q (e1 - e2 + e)

/-- A square root of a magnitude, with a sticky bit. -/
def sqrtMag (m : Nat) (e : Int) : Nat × Int :=
  let k : Nat := 600 + (if e % 2 = 0 then 0 else 1)
  let n := m * 2 ^ (2 * 600 + (if e % 2 = 0 then 0 else 1))
  let r := isqrt n
  (2 * r + (if r * r = n then 0 else 1), (e - (k : Int) - 600) / 2 - 1)

/-- Square root (R152): a NaN below −0. -/
def sqrtV : Val → Val
  | .nan n => .nan n
  | .inf n => if n then .nan false else .inf false
  | .num n m e =>
    if m = 0 then .num n 0 0
    else if n then .nan false
    else
      let (r, e') := sqrtMag m e
      .num false r e'

/-- 1 over the square root (R152). -/
def rsqrtV : Val → Val
  | .nan n => .nan n
  | .inf n => if n then .nan false else .num false 0 0
  | .num n m e =>
    if m = 0 then .inf n
    else if n then .nan false
    else
      let odd : Bool := e % 2 ≠ 0
      let m' := if odd then 2 * m else m
      let e' := if odd then e - 1 else e
      let k := 640 + Nat.log2 m'
      let num := 2 ^ (2 * k)
      let q := num / m'
      let r := isqrt q
      .num false (2 * r + (if r * r = q && num % m' = 0 then 0 else 1)) (-(k : Int) - e' / 2 - 1)

/-- The order of two values that are no NaN: −0 below +0. -/
def ltV (a b : Val) : Bool :=
  match a, b with
  | .inf n, .inf k => n && !k
  | .inf n, .num _ _ _ => n
  | .num _ _ _, .inf k => !k
  | .num n1 m1 e1, .num n2 m2 e2 =>
    if m1 = 0 && m2 = 0 then n1 && !n2
    else
      let (i, _) := sumDy n1 m1 e1 (!n2) m2 e2
      decide (i < 0)
  | _, _ => false

/-- a > b as numbers: the two zeros are equal. -/
def gtV (a b : Val) : Bool := if a.isZero && b.isZero then false else ltV b a

/-- Equal as numbers. -/
def eqNum (a b : Val) : Bool := !a.isNan && !b.isNan && ((a.isZero && b.isZero) || (!ltV a b && !ltV b a))

/-- A NaN of either operand, the first one's sign; else nothing. -/
def nanOf (a b : Val) : Option Val :=
  match a, b with
  | .nan n, _ => some (.nan n)
  | _, .nan n => some (.nan n)
  | _, _ => none

/-- MAX (R152). -/
def maxV (a b : Val) : Val := (nanOf a b).getD (if ltV a b then b else a)
/-- MIN (R152). -/
def minV (a b : Val) : Val := (nanOf a b).getD (if ltV b a then b else a)

/-! ### Rounding (R67, R68) -/

/-- A rounding mode, with the draw of stochastic rounding. -/
inductive Rnd where
  | near | zero | stoch (r : Nat)
  deriving DecidableEq, Repr

/-- The draw r of R68. -/
def stochDraw (seed : W64) (stream step : W32) (index : Nat) : Nat :=
  let key : W64 := (stream.setWidth 64 <<< 32) ||| step.setWidth 64
  let z := seed ^^^ (key * 0xD1B54A32D192ED03#64)
  let z := z + 0x9E3779B97F4A7C15#64 * (BitVec.ofNat 64 (index + 1))
  let z := (z ^^^ (z >>> 30)) * 0xBF58476D1CE4E5B9#64
  let z := (z ^^^ (z >>> 27)) * 0x94D049BB133111EB#64
  let z := z ^^^ (z >>> 31)
  (z >>> 32).toNat

/-- A magnitude rounded to a whole number of units of 2^q. -/
def roundAt (rd : Rnd) (m : Nat) (e q : Int) : Nat :=
  if q ≤ e then shl m (e - q)
  else
    let s := 2 ^ (q - e).toNat
    let k := m / s
    let rem := m % s
    match rd with
    | .near => if s < 2 * rem || (2 * rem = s && k % 2 = 1) then k + 1 else k
    | .zero => k
    | .stoch r => if 2 ^ 32 ≤ rem * 2 ^ 32 / s + r then k + 1 else k

/-! ### Flags -/

def fNone : Flags := {}
def fOver : Flags := { overflowSat := true }
def fUnder : Flags := { underflowFlush := true }
def fInvalid : Flags := { invalid := true }
def fEmpty : Flags := { empty := true }
def fFlush (n : Nat) : Flags := { blockFlush := BitVec.ofNat 32 n }

/-! ### Floating-point formats (R50 to R52) -/

/-- A floating-point format: significand bits with the hidden one, exponent bits, bias, its greatest finite code, and
which special values it has. -/
structure Flt where
  p : Nat
  eb : Nat
  bias : Nat
  maxCode : Nat
  hasInf : Bool
  hasNan : Bool
  deriving DecidableEq, Repr

def fFP32 : Flt := ⟨24, 8, 127, 0x7F7FFFFF, true, true⟩
def fBF16 : Flt := ⟨8, 8, 127, 0x7F7F, true, true⟩
def fFP16 : Flt := ⟨11, 5, 15, 0x7BFF, true, true⟩
def fE4M3 : Flt := ⟨4, 4, 7, 0x7E, false, true⟩
def fE5M2 : Flt := ⟨3, 5, 15, 0x7B, true, true⟩
def fE3M2 : Flt := ⟨3, 3, 3, 0x1F, false, false⟩
def fE2M3 : Flt := ⟨4, 2, 1, 0x1F, false, false⟩
def fE2M1 : Flt := ⟨2, 2, 1, 0x7, false, false⟩

/-- Bits of an element. -/
def Flt.bits (f : Flt) : Nat := f.p + f.eb
/-- The least normal exponent. -/
def Flt.emin (f : Flt) : Int := 1 - (f.bias : Int)
/-- The sign bit's weight. -/
def Flt.signBit (f : Flt) : Nat := 2 ^ (f.bits - 1)

/-- The code's magnitude part as a value, specials left out. -/
def Flt.magOf (f : Flt) (c : Nat) : Nat × Int :=
  let e := c / 2 ^ (f.p - 1)
  let m := c % 2 ^ (f.p - 1)
  if e = 0 then (m, f.emin - (f.p - 1 : Nat)) else (m + 2 ^ (f.p - 1), (e : Int) - f.bias - (f.p - 1 : Nat))

/-- A code read (R50 to R52). -/
def Flt.decode (f : Flt) (code : Nat) : Val :=
  let n := decide (f.signBit ≤ code % 2 ^ f.bits)
  let c := code % f.signBit
  if f.hasInf && c = f.maxCode + 1 then .inf n
  else if f.hasNan && f.maxCode < c then .nan n
  else
    let (m, e) := f.magOf c
    .num n m e

/-- A code of a sign and a magnitude code. -/
def Flt.signed (f : Flt) (n : Bool) (c : Nat) : Nat := if n then f.signBit + c else c

/-- The canonical NaN (R51). -/
def Flt.nanCode (f : Flt) : Nat := if f.hasInf then f.maxCode + 1 + 2 ^ (f.p - 2) else f.maxCode + 1

/-- The code of k × 2^q, where q is the grid of its binade and k at most 2^p. -/
def Flt.pack (f : Flt) (k : Nat) (q : Int) : Nat :=
  let (k, q) := if 2 ^ f.p ≤ k then (k / 2, q + 1) else (k, q)
  if k < 2 ^ (f.p - 1) then k
  else ((q + (f.p - 1 : Nat) + f.bias).toNat) * 2 ^ (f.p - 1) + (k - 2 ^ (f.p - 1))

/-- The grid of a magnitude: the weight of the last significand bit, with an unbounded exponent above. -/
def Flt.grid (f : Flt) (m : Nat) (e : Int) : Int := max (ilog m e) f.emin - (f.p - 1 : Nat)

/-- One conversion into a floating-point format (R69 to R73). -/
def Flt.convert (f : Flt) (rd : Rnd) (ieee : Bool) (v : Val) : Nat × Flags :=
  match v with
  | .nan n => if f.hasNan then (f.signed n f.nanCode, fNone) else (f.signed n f.maxCode, fInvalid)
  | .inf n => if f.hasInf then (f.signed n (f.maxCode + 1), fNone) else (f.signed n f.maxCode, fOver)
  | .num n m e =>
    if m = 0 then (f.signed n 0, fNone)
    else
      let q := f.grid m e
      let k := roundAt rd m e q
      if k = 0 then (f.signed n 0, fUnder)
      else
        let c := f.pack k q
        if c ≤ f.maxCode then (f.signed n c, fNone)
        else if ieee && f.hasInf && rd ≠ .zero then (f.signed n (f.maxCode + 1), fOver)
        else (f.signed n f.maxCode, fOver)

/-- One conversion into a fixed-point format of `w` bits with `frac` below the point (R60, R72 to R74). -/
def fixConvert (w frac : Nat) (rd : Rnd) (v : Val) : Nat × Flags :=
  let top (n : Bool) : Nat := if n then 2 ^ (w - 1) else 2 ^ (w - 1) - 1
  match v with
  | .nan n => (top n, fInvalid)
  | .inf n => (top n, fOver)
  | .num n m e =>
    if m = 0 then (0, fNone)
    else
      let k := roundAt rd m e (-(frac : Int))
      if k = 0 then (0, fUnder)
      else if top n < k then (top n, fOver)
      else ((if n then 2 ^ w - k else k), fNone)

/-- A two's complement code read. -/
def fixDecode (w frac : Nat) (c : Nat) : Val :=
  let c := c % 2 ^ w
  if 2 ^ (w - 1) ≤ c then .num true (2 ^ w - c) (-(frac : Int)) else .num false c (-(frac : Int))

/-! ### FP32 arithmetic -/

/-- An FP32 code's value. -/
def f32 (c : Nat) : Val := fFP32.decode c

/-- A value rounded once to FP32, to nearest even; beyond the range ±inf. -/
def toF32 (v : Val) : Nat := (fFP32.convert .near true v).1

/-- A zero sum is +0 (R107). -/
def plusZero (v : Val) : Val := if v.isZero then vZero else v

/-- fl(a + b) under R107. -/
def fadd (a b : Nat) : Nat := toF32 (plusZero (addV (f32 a) (f32 b)))
/-- fl(a − b) under R107. -/
def fsub (a b : Nat) : Nat := toF32 (plusZero (subV (f32 a) (f32 b)))
/-- fl(a × b). -/
def fmul (a b : Nat) : Nat := toF32 (mulV (f32 a) (f32 b))
/-- fl(a / b). -/
def fdiv (a b : Nat) : Nat := toF32 (divV (f32 a) (f32 b))

def f32One : Nat := 0x3F800000
def f32NegInf : Nat := 0xFF800000
def f32PosInf : Nat := 0x7F800000
def f32Nan : Nat := 0x7FC00000

/-- An FP32 code that is a NaN. -/
def isNan32 (c : Nat) : Bool := (f32 c).isNan

/-- An FP32 code without the payload of a NaN (R52). -/
def noPayload (c : Nat) : Nat := if isNan32 c then fFP32.signed (decide (2 ^ 31 ≤ c)) f32Nan else c

/-- An FP32 code that is neither a NaN nor an infinity. -/
def isFin32 (c : Nat) : Bool := (f32 c).isFinite

/-! ### FP32 pairs (R64, R106) -/

/-- A pair's words from its 64 bits: high, low. -/
def pairHi (c : Nat) : Nat := c % 2 ^ 32
def pairLo (c : Nat) : Nat := (c / 2 ^ 32) % 2 ^ 32
def mkPair (hi lo : Nat) : Nat := hi + lo * 2 ^ 32

/-- A pair's exact value (R64); that of hi alone where hi is an infinity or a NaN (log 94). -/
def pairVal (c : Nat) : Val :=
  let h := f32 (pairHi c)
  if h.isFinite then addV h (f32 (pairLo c)) else h

/-- pair_add of R106. -/
def pairAdd (a b : Nat) : Nat :=
  let ah := pairHi a
  let bh := pairHi b
  let s := fadd ah bh
  if !isFin32 s then mkPair s 0
  else
    let v := fsub s ah
    let e := fadd (fsub ah (fsub s v)) (fsub bh v)
    let e := fadd e (fadd (pairLo a) (pairLo b))
    let hi := fadd s e
    if !isFin32 hi then mkPair hi 0 else mkPair hi (fsub e (fsub hi s))

/-- A value as a pair, both words rounded to nearest even (R99, R153). -/
def pairOf (v : Val) : Nat :=
  let hi := toF32 v
  if isFin32 hi then mkPair hi (toF32 (plusZero (subV v (f32 hi)))) else mkPair hi 0

/-- Conversion to an FP32 pair (R156). The pair flushes when a non-zero value becomes a pair of zeros (R73). -/
def pairConvert (rd : Rnd) (ieee : Bool) (v : Val) : Nat × Flags :=
  match v with
  | .num _ _ _ =>
    let (hi, fl) := fFP32.convert .near ieee v
    if fl.overflowSat then (mkPair hi 0, fOver)
    else
      let rest := subV v (f32 hi)
      let lo := (fFP32.convert rd false (plusZero rest)).1
      let zero := (f32 hi).isZero && (f32 lo).isZero
      (mkPair hi lo, if zero && !v.isZero then fUnder else fNone)
  | _ => (mkPair (fFP32.convert .near ieee v).1 0, fNone)

/-! ### Head and tail (R65, R66) -/

/-- The gap of a head toward the master, as an exponent of two: `up` says the master is further from zero. -/
def headGap (head : Nat) (up : Bool) : Int :=
  let c := head % 0x8000
  let e := c / 128
  let m := c % 128
  if e ≤ 1 then -133
  else if m = 0 && !up then (e : Int) - 127 - 8
  else (e : Int) - 127 - 7

/-- The master value of a head and a tail (R65). -/
def headTailVal (head tail : Nat) : Val :=
  let h := fBF16.decode head
  let t : Int := if 0x8000 ≤ tail % 0x10000 then (tail % 0x10000 : Nat) - 0x10000 else (tail % 0x10000 : Nat)
  if !h.isFinite || t = 0 then h
  else
    let up := h.isZero || (decide (t < 0) = h.isNeg)
    addV h (vDy t (headGap head up - 15))

/-- A value as a head and a tail: head in the low 16 bits, tail above (R66, R71 to R73); its flags are those of R73 (log 98). -/
def headTailConvert (rd : Rnd) (ieee : Bool) (v : Val) : Nat × Flags :=
  match v with
  | .nan n => (fBF16.signed n fBF16.nanCode, fNone)
  | .inf n => (fBF16.signed n 0x7F80, fNone)
  | .num n m e =>
    if m = 0 then (fBF16.signed n 0, fNone)
    else
      let q := max (ilog m e) (-126) - 22
      let k := roundAt rd m e q
      if k = 0 then (fBF16.signed n 0, fUnder)
      else
        let (head, fl) := fBF16.convert .near true (.num n k q)
        if fl.overflowSat then
          (if ieee && rd ≠ .zero then (fBF16.signed n 0x7F80, fOver) else (fBF16.signed n 0x7F7F, fOver))
        else
          let h := fBF16.decode head
          match h with
          | .num hn hm he =>
            let (i, x) := sumDy n k q (!hn) hm he
            if i = 0 then (head, fNone)
            else
              let up := hm = 0 || (decide (i < 0) = hn)
              let unit := headGap head up - 15
              let t := (sgn (decide (i < 0)) (roundAt .zero i.natAbs x unit))
              (head + (BitVec.ofInt 16 t).toNat * 65536, fNone)
          | _ => (head, fNone)

/-! ### Format codes (R49) -/

/-- The floating-point format of an element, block-scaled formats included. -/
def fltOf (fmt : Nat) : Option Flt :=
  if fmt = 0x00 then some fFP32 else if fmt = 0x01 then some fBF16 else if fmt = 0x02 then some fFP16
  else if fmt = 0x03 || fmt = 0x09 then some fE4M3 else if fmt = 0x04 || fmt = 0x0A then some fE5M2
  else if fmt = 0x05 || fmt = 0x0B then some fE3M2 else if fmt = 0x06 || fmt = 0x0C then some fE2M3
  else if fmt = 0x07 || fmt = 0x0D then some fE2M1 else none

def fmtReserved (fmt : Nat) : Bool := decide (0x13 ≤ fmt)
def fmtBlock (fmt : Nat) : Bool := decide (0x09 ≤ fmt) && decide (fmt ≤ 0x0D)
/-- Formats that may carry a per-tensor scale (R59). -/
def fmtFp8 (fmt : Nat) : Bool := fmt = 0x03 || fmt = 0x04

/-- Bits of a stored element; 16 for HEADTAIL, whose planes are alike. -/
def fmtBits (fmt : Nat) : Nat :=
  match fltOf fmt with
  | some f => f.bits
  | none =>
    if fmt = 0x08 then 8 else if fmt = 0x0E then 64 else if fmt = 0x0F then 16
    else if fmt = 0x10 then 32 else if fmt = 0x11 then 64 else 32

/-- The value of an element of a format that has no scale; HEADTAIL as head + 65,536 × tail. -/
def elemVal (fmt c : Nat) : Val :=
  match fltOf fmt with
  | some f => f.decode c
  | none =>
    if fmt = 0x08 then fixDecode 8 0 c else if fmt = 0x0E then pairVal c
    else if fmt = 0x0F then headTailVal (c % 65536) (c / 65536)
    else if fmt = 0x10 then fixDecode 32 28 c else if fmt = 0x11 then fixDecode 64 56 c
    else fixDecode 32 0 c

/-- One conversion into a format without block scales (R69 to R74, R156). -/
def convertTo (fmt : Nat) (rd : Rnd) (ieee : Bool) (v : Val) : Nat × Flags :=
  match fltOf fmt with
  | some f => f.convert rd ieee v
  | none =>
    if fmt = 0x08 then fixConvert 8 0 rd v else if fmt = 0x0E then pairConvert rd ieee v
    else if fmt = 0x0F then headTailConvert rd ieee v
    else if fmt = 0x10 then fixConvert 32 28 rd v else if fmt = 0x11 then fixConvert 64 56 rd v
    else fixConvert 32 0 rd v

/-! ### Blocks with a shared scale (R54 to R58) -/

/-- An element of a block read with the block's scale code; `allZero` says that every element of the block is zero. The NaN that
the code 0xFF makes is positive (log 96). -/
def blockElemVal (fmt scale : Nat) (allZero : Bool) (c : Nat) : Val :=
  match elemVal fmt c with
  | .num n m e =>
    if m = 0 && (allZero || scale ≠ 0xFF) then .num n 0 0
    else if scale = 0xFF then .nan false
    else .num n m (e + ((scale : Int) - 127))
  | v => if scale = 0xFF then .nan false else v

/-- A block read: its values, and INVALID for a NaN scale (R55, R56). -/
def blockRead (fmt scale : Nat) (codes : List Nat) : List Val × Flags :=
  let allZero := codes.all (fun c => (elemVal fmt c).isZero)
  (codes.map (blockElemVal fmt scale allZero), if scale = 0xFF && !allZero then fInvalid else fNone)

/-- The greater magnitude of two finite values. -/
def maxMag (a b : Nat × Int) : Nat × Int :=
  if a.1 = 0 then b else if b.1 = 0 then a
  else
    let e := min a.2 b.2
    if shl a.1 (a.2 - e) < shl b.1 (b.2 - e) then b else a

/-- amax of R57: the largest finite magnitude, 0 where there is none. -/
def amaxOf (vs : List Val) : Nat × Int :=
  vs.foldl (fun a v => match v with
    | .num _ m e => maxMag a (m, e)
    | _ => a) (0, 0)

/-- The scale exponent of R57. -/
def blockExp (f : Flt) (amax : Nat × Int) : Int :=
  if amax.1 = 0 then -127
  else
    let (fm, fe) := f.magOf f.maxCode
    let e0 := ilog amax.1 amax.2 - ilog fm fe
    let lo := min amax.2 (fe + e0)
    let e := if shl amax.1 (amax.2 - lo) ≤ shl fm (fe + e0 - lo) then e0 else e0 + 1
    max (-127) (min 127 e)

/-- A format of block elements without its special values: the device writes none in a block (R57). -/
def blockFlt (f : Flt) : Flt := { f with hasInf := false, hasNan := false }

/-- One element of a block written with scale exponent `e` (R57, R58). -/
def blockElem (f : Flt) (e : Int) (rd : Rnd) (v : Val) : Nat × Flags :=
  let x : Val := match v with
    | .num n m y => .num n m (y - e)
    | v => v
  let (c, fl) := (blockFlt f).convert rd false x
  (c, if fl.underflowFlush then { fl with underflowFlush := false, blockFlush := 1 } else fl)

/-- A block written: its scale code, its element codes and the flags. `rds` gives each element's rounding. -/
def blockWrite (fmt : Nat) (vs : List (Val × Rnd)) : Nat × List Nat × Flags :=
  match fltOf fmt with
  | none => (0, [], fNone)
  | some f =>
    let e := blockExp f (amaxOf (vs.map (·.1)))
    let out := vs.map (fun c => blockElem f e c.2 c.1)
    ((127 + e).toNat, out.map (·.1), out.foldl (fun a c => Flags.join a c.2) fNone)

/-! ### Conversion control (R67) -/

/-- FMT, ROUND and IEEE_OVF of a conversion control byte. -/
def ccFmt (b : Nat) : Nat := natBits b 4 0
def ccRound (b : Nat) : Nat := natBits b 6 5
def ccIeee (b : Nat) : Bool := natBit b 7
/-- A control byte with a reserved format or rounding mode makes a descriptor malformed (R49, R67). -/
def ccOk (b : Nat) : Bool := !fmtReserved (ccFmt b) && ccRound b ≠ 3

/-- Inputs of the stochastic draw besides the index (R68). -/
structure Draw where
  seed : W64
  stream : W32
  step : W32
  deriving DecidableEq, Repr

/-- The rounding of one element under a control byte. -/
def rndOf (b : Nat) (dr : Draw) (index : Nat) : Rnd :=
  if ccRound b = 0 then .near else if ccRound b = 1 then .zero else .stoch (stochDraw dr.seed dr.stream dr.step index)

end Sys2Proof.Machine
end

