-- ==== Sys2Proof/Machine/Operands.lean ====
section
/-! DEFINITION. Operand forms: a descriptor's address fields and version pairs (R226, R227, R306), elements of every
format in memory (R53), scales (R54 to R56, R59), HEADTAIL planes (R506), and runs of a destination. -/

namespace Sys2Proof.Machine

open Sys2Proof

/-! ### Address fields and version pairs -/

/-- VER_FIELD and VER_D of a header (R306). -/
def verField (x : Desc) : Nat := natBits (fieldOf x 3 1) 2 0
def verD (x : Desc) : Int :=
  let d := natBits (fieldOf x 3 1) 7 4
  if 8 ≤ d then (d : Int) - 16 else d

/-- The requester of a descriptor's part, with its version pair read and its expected tag (R226, R227, R306). `dests`
lists the address slots, from byte 16 on, that are destinations of its class. -/
def reqOf (x : Desc) (r : Requestor) (dests : List Nat) : Acc Requestor := do
  let k := verField x
  if k = 0 ∨ 4 < k then pure r
  else
    let pair : W64 := BitVec.ofNat 64 (fieldOf x (8 + 8 * k) 8)
    let h ← readBytes r pair 32
    let tag := (((x.step.toNat : Int) + verD x) % 16).toNat
    let b := if natBit (leAt h 2 1) 0 then 0 else tag % 2
    let bytes := leAt h 16 8
    pure { r with ver := some {
      buf := pair + BitVec.ofNat 64 (4096 + b * bytes), bytes := bytes
      tags := pair + BitVec.ofNat 64 (64 + 2016 * b), rows := leAt h 4 4, cols := leAt h 8 4, ldw := leAt h 12 4
      bits := fmtBits (natBits (leAt h 3 1) 4 0), ht := natBits (leAt h 3 1) 4 0 = 0x0F
      blk := fmtBlock (natBits (leAt h 3 1) 4 0), ct := ceilDiv (leAt h 8 4) 256
      tiles := Nat.min (leAt h 24 2) 2016, tag := tag, dest := dests.contains (k - 1) } }

/-- The address in slot `i` (bytes 16 + 8i): the version's buffer where VER_FIELD names the slot (R227). -/
def slotAddr (x : Desc) (r : Requestor) (i : Nat) : W64 :=
  match r.ver with
  | some w => if verField x = i + 1 then w.buf else BitVec.ofNat 64 (fieldOf x (16 + 8 * i) 8)
  | none => BitVec.ofNat 64 (fieldOf x (16 + 8 * i) 8)

/-- The address in slot `i` as it stands, for naming a destination that a failure leaves undefined. -/
def slotNow (x : Desc) (r : Requestor) (i : Nat) (w : Work) : W64 :=
  match (reqOf x r [i]).run w with
  | (.ok r, _) => slotAddr x r i
  | (.error _, _) => slotAddr x r i

/-- `n` bytes from offset `o` of the destination in slot `i`, as it stands. -/
def destNow (x : Desc) (i o n : Nat) (w : Work) : Dest :=
  match (reqOf x { ctx := x.ctx } [i]).run w with
  | (.ok r, _) => ⟨r, slotAddr x r i + BitVec.ofNat 64 o, n⟩
  | (.error _, _) => ⟨{ ctx := x.ctx }, slotAddr x { ctx := x.ctx } i + BitVec.ofNat 64 o, n⟩

/-- Tiles that lie wholly in a descriptor's destination, with their tails and block scales, are tagged and VALID once all of it is
visible (R228). `covered` says whether a byte of the buffer is written. -/
def setTags (r : Requestor) (w : VerWin) (covered : Nat → Bool) (rows cols : Nat) : Acc Unit := do
  for t in upto w.tiles do
    let r0 := 256 * (t / w.ct)
    let c0 := 256 * (t % w.ct)
    let nc := Nat.min 256 (cols - c0)
    let whole := (upto (Nat.min 256 (rows - r0))).all (fun i =>
      (upto (ceilDiv (nc * w.bits) 8)).all (fun j =>
        let o := (r0 + i) * w.ldw + c0 * w.bits / 8 + j
        covered o && (!w.ht || covered (w.tail + o))) &&
      (!w.blk || (upto (ceilDiv nc 32)).all (fun k => covered (w.scaleAt (r0 + i) (c0 / 32 + k)))))
    if decide (r0 < rows) && decide (c0 < cols) && whole then
      writeNat r (w.tags + BitVec.ofNat 64 t) 1 (16 + w.tag)

/-! ### Elements in memory (R53) -/

/-- An address at a signed byte offset. -/
def addrAt (base : W64) (o : Int) : W64 := base + BitVec.ofInt 64 o

/-- The code of one element at an element offset from a base (R53). -/
def readCode (r : Requestor) (base : W64) (bits : Nat) (off : Int) : Acc Nat :=
  if 8 ≤ bits then readNat r (addrAt base (off * (bits / 8 : Nat))) (bits / 8)
  else do
    let per : Int := if bits = 4 then 2 else 4
    let grp : Int := if bits = 4 then 1 else 3
    let at_ := off / per * grp
    let bit := (off % per).toNat * bits
    let first := bit / 8
    let n := if 8 < bit % 8 + bits then 2 else 1
    let w ← readNat r (addrAt base (at_ + (first : Nat))) n
    pure ((w / 2 ^ (bit % 8)) % 2 ^ bits)

/-- A run of elements narrower than a byte written from an element offset that is a multiple of the packing group: codes,
or nothing where an element is inactive. Bytes that hold an inactive element keep its bits; padding is zero (R53). -/
def writeRun (r : Requestor) (base : W64) (bits : Nat) (off : Int) (codes : List (Option Nat)) : Acc Unit := do
  let per : Nat := if bits = 4 then 2 else 4
  let grp : Nat := if bits = 4 then 1 else 3
  let nbytes := ceilDiv codes.length per * grp
  let start := addrAt base (off / (per : Int) * (grp : Int))
  let r := if codes.all (·.isSome) then { r with spans := r.spans ++ [(start.toNat, start.toNat + nbytes)] } else r
  for j in upto nbytes do
    let elems := (upto 8).map (fun t => (8 * j + t) / bits)
    let live := elems.filter (fun k => k < codes.length)
    let active := live.any (fun k => (codes.getD k none).isSome)
    if active || (live.isEmpty && codes.any (·.isSome)) then
      let keep := live.any (fun k => (codes.getD k none).isNone)
      let old ← if keep then readNat r (start + BitVec.ofNat 64 j) 1 else pure 0
      let bit (t : Nat) : Bool :=
        let k := (8 * j + t) / bits
        match codes.getD k none with
        | some c => natBit c ((8 * j + t) % bits)
        | none => decide (k < codes.length) && natBit old t
      writeNat r (start + BitVec.ofNat 64 j) 1 ((upto 8).foldl (fun n t => n + b2n (bit t) * 2 ^ t) 0)

/-- A requester whose transfers write `n` consecutive elements whole from an element offset of a plane (R237, R257). -/
def runSpan (r : Requestor) (base : W64) (bits : Nat) (off : Int) (n : Nat) : Requestor :=
  let a := if 8 ≤ bits then addrAt base (off * (bits / 8 : Nat))
    else if bits = 4 then addrAt base (off / 2) else addrAt base (off / 4 * 3)
  let len := if 8 ≤ bits then n * (bits / 8) else if bits = 4 then ceilDiv n 2 else ceilDiv n 4 * 3
  { r with spans := r.spans ++ [(a.toNat, a.toNat + len)] }

/-- The code of one element written, of a format of 8 bits or more. -/
def writeCode (r : Requestor) (base : W64) (bits : Nat) (off : Int) (c : Nat) : Acc Unit :=
  writeNat r (addrAt base (off * (bits / 8 : Nat))) (bits / 8) c

/-! ### Scales -/

/-- The product of an element and a per-tensor scale (R59): a NaN scale gives the canonical NaN. -/
def timesScale (v s : Val) : Val := if s.isNan then .nan false else mulV v s

/-- The quotient written under a per-tensor scale (R59). -/
def overScale (v s : Val) : Val := if s.isNan then .nan false else divV v s

/-- A per-tensor scale read from its FP32 word. -/
def readScale (r : Requestor) (a : W64) : Acc Val := do return f32 (← readNat r a 4)

/-- Offset of the tail plane from the head plane, for a head plane of S bytes (R506). -/
def tailOffset (s : Nat) : Nat := 64 * ceilDiv s 64

/-- A signed field. -/
def signed32 (n : Nat) : Int := (BitVec.ofNat 32 n).toInt

/-! ### Lists of memory runs -/

/-- A run of bytes: address and length. -/
abbrev Runs := List (W64 × Nat)

/-- Bytes of `n` packed elements from a group's start. -/
def runBytes (bits n : Nat) : Nat :=
  if 8 ≤ bits then n * (bits / 8) else if bits = 4 then ceilDiv n 2 else ceilDiv n 4 * 3

end Sys2Proof.Machine
end

