-- ==== Sys2Proof/Machine/Sched.lean ====
section
/-! DEFINITION. Which waiting part a cluster's units may start next (R131, R149, R378, R379, R381). -/

namespace Sys2Proof.Machine

open Sys2Proof

/-- Rank of a context class (R378). -/
def classRank (v : Dev) (ctx : Nat) : Nat :=
  let c := (getCtx v ctx).cls
  if c = 1 then 2 else if c = 0 then 1 else 0

/-- What a descriptor's parts run on: 1 the vector engine (with FOLD and NORM, R180), 2 chisel cores, 3 solver lanes, 0
anything else. -/
def unitKind (x : Desc) : Nat :=
  if x.cls = 1 then (if fieldOf x 176 1 = 0xF0 then 2 else 1)
  else if x.cls = 2 then 1
  else if x.cls = 3 then (if natBits (fieldOf x 110 1) 1 0 = 0 then 0 else 1)
  else if x.cls = 4 ∨ x.cls = 5 then 3 else 0

/-- Two descriptors that one issuer issued: one ring, or one chisel core (R149). -/
def sameIssuer (x y : Desc) : Bool :=
  match x.sub, y.sub with
  | none, none => x.ring = y.ring
  | some a, some b => a.1 = b.1
  | _, _ => false

/-- A waiting part of `y` that stands before the parts of `x` on a unit: an earlier one of the same issuer, or one of a
higher class; for chisel cores also an earlier one of the same class (R131, R149). -/
def standsBefore (v : Dev) (x y : Desc) : Bool :=
  (sameIssuer x y && decide (y.id < x.id)) || decide (classRank v x.ctx < classRank v y.ctx) ||
    (unitKind x = 2 && decide (y.id < x.id) && classRank v x.ctx = classRank v y.ctx)

/-- Rank of a part that waits for a unit: its context's class, or the lowest for a GATHER that is not promoted (R167, R378). -/
def waitRank (v : Dev) (x : Desc) : Nat := if x.cls = 3 && unitKind x = 0 && !x.promoted then 0 else classRank v x.ctx

/-- `y` stands before `x` in the queue of a unit that a TEST enters: of a higher class, earlier from the same issuer, or, on an
engine, earlier in one class (R379, R454). -/
def queuedBefore (v : Dev) (k : Nat) (y x : Desc) : Bool :=
  decide (waitRank v x < waitRank v y) ||
    (decide (y.id < x.id) && (sameIssuer x y || (k = 1 && waitRank v x = waitRank v y)))

/-- A waiting TEST of a unit stands before the parts of `x` there (R454). -/
def testBefore (v : Dev) (x : Desc) (k u : Nat) : Bool :=
  v.descs.any (fun y => y.id ≠ x.id && y.cls = 0xD && testKind y.bytes = k && testUnit y.bytes = u && mayStart v y &&
    queuedBefore v k y x && y.parts.any (fun q => q.state = .queued))

/-- No waiting part stands before this one on its unit, and no TEST of the unit is under way (R454). -/
def turnOf (v : Dev) (x : Desc) (u : Nat) : Bool :=
  !underTest v 3 u && !testBefore v x 3 u &&
  !(v.descs.any (fun y => y.id ≠ x.id && unitKind y = unitKind x && standsBefore v x y && mayStart v y &&
    y.parts.any (fun q => q.unit = u && q.state = .queued)))

/-- A queued part of a class on a descriptor that may start, whose turn it is. -/
def ready (v : Dev) (d p cls : Nat) : Option (Desc × Part) :=
  match startable v d p cls with
  | some (x, q) => if turnOf v x q.unit then some (x, q) else none
  | none => none

/-- The replay rings of a context changed. -/
def modReplays (ctx : Nat) (f : Ring → Ring) (v : Dev) : Dev :=
  { v with rings := tabMap {} (fun _ r => if r.enable && r.mode = 1 && r.ctx.toNat = ctx then f r else r) v.rings }

/-- A verdict that a FOLD or a CASTMARK reads, noted for the replay rings of its context (R171, R222, R223, R402, log 20). -/
def noteVerdict (ctx : Nat) (skipped : Bool) : Dev → Dev :=
  modReplays ctx (fun r => { r with passRead := true, passSkipped := r.passSkipped || skipped })

/-- The sum of a verdict, of 0.0 or 1.0 from each of `n` members: a whole number up to `n` (R222). -/
def verdictSum (n code : Nat) : Bool := (upto (n + 1)).any (fun k => toF32 (vInt (k : Int)) = code)

/-- A verdict's sum that an ALLREDUCE gave: the last one of a pass is its verdict (R222, log 20). -/
def noteSum (ctx : Nat) (nonzero : Bool) : Dev → Dev :=
  modReplays ctx (fun r => { r with passSum := nonzero })

/-! ### High-water marks of queues (R461, R462) -/

/-- TESTs that wait for a unit, of the descriptors that pass a test (R454). -/
def testsWaiting (v : Dev) (k u : Nat) (of_ : Desc → Bool) : Nat :=
  (v.descs.filter (fun y => of_ y && y.cls = 0xD && testKind y.bytes = k && testUnit y.bytes = u &&
    y.parts.any (fun q => q.state = .queued))).length

/-- An engine's queue marked for a context and for the core, with the TESTs that wait in it (R454, R461, R462). -/
def queueMarks (e ctx : Nat) (v : Dev) : Dev :=
  let waiting := (getEngine v e).queue.filter (fun q => !q.started)
  let mine := waiting.filter (fun q => match getDesc v q.d with
    | some y => y.ctx = ctx
    | none => false)
  ctrHigh (0x100 + e / 4) 6 (waiting.length + testsWaiting v 1 e (fun _ => true))
    (ctrHigh ctx 17 (mine.length + testsWaiting v 1 e (fun y => y.ctx = ctx)) v)

/-- The queue of its core that a descriptor's parts wait in: 1 the vector queue, 2 the kernel queue, 3 the lanes', 4 the CHECKs', 5 the
COPY mover's, 0 none of these. -/
def coreQueue (x : Desc) : Nat := if x.cls = 0xC then 4 else if x.cls = 7 then 5 else unitKind x

/-- Parts waiting in a queue of core `u`, of the descriptors that pass a test. A TEST of a tidy cluster waits in each of its queues (R454;
DESIGN CHOICE, log 126). -/
def waitingIn (v : Dev) (k u : Nat) (of_ : Desc → Bool) : Nat :=
  ((v.descs.filter (fun y => of_ y && coreQueue y = k)).map (fun y =>
    (y.parts.filter (fun p => p.unit = u && p.state = .queued)).length)).sum + (if k = 5 then 0 else testsWaiting v 3 u of_)

/-- A queue of core `u` marked for the core, and for a context where it is a kernel or vector queue (R461, R462). -/
def markQueue (ctx u : Nat) (v : Dev) (k : Nat) : Dev :=
  let core := ctrHigh (0x100 + u) 6 (waitingIn v k u (fun _ => true)) v
  if k ≤ 2 then ctrHigh ctx 17 (waitingIn v k u (fun y => y.ctx = ctx)) core else core

/-- The queues that a descriptor's parts enter at its fetch, marked (R461, R462): a TEST's by the unit it tests (R454), a bank's being
one of its core. A product part enters its engine's queue later (R87). -/
def countQueues (x : Desc) (v : Dev) : Dev :=
  let u := testUnit x.bytes
  if !x.parts.any (fun p => p.state = .queued) then v
  else if x.cls = 0xD then
    (if testKind x.bytes = 1 then queueMarks u x.ctx v
     else if testKind x.bytes = 2 then ctrHigh (0x100 + u / 64) 6 (testsWaiting v 2 u (fun _ => true)) v
     else if testKind x.bytes = 3 then [1, 2, 3, 4].foldl (markQueue x.ctx u) v else v)
  else if coreQueue x = 0 then v
  else (x.parts.map (·.unit)).eraseDups.foldl (fun v u => markQueue x.ctx u v (coreQueue x)) v

end Sys2Proof.Machine
end

