-- ==== Sys2Proof/Machine/Castmark.lean ====
section
/-! DEFINITION. State stream records and the CASTMARK descriptor (R398 to R403): the lane coding, RECORD and CLOSE. -/

namespace Sys2Proof.Machine

open Sys2Proof

/-! ### The coding of a plane (R399) -/

/-- Maximal runs of zero bytes and of other bytes. -/
def zeroRuns : List Byte → List (Bool × List Byte)
  | [] => []
  | b :: t =>
    let z : Bool := b = 0
    match zeroRuns t with
    | (y, r) :: rest => if y = z then (y, b :: r) :: rest else (z, [b]) :: (y, r) :: rest
    | [] => [(z, [b])]

/-- Zero runs of 8 or more stand alone; everything else joins its neighbours. -/
def stretches : List (Bool × List Byte) → List (Bool × List Byte)
  | [] => []
  | (z, r) :: t =>
    let long : Bool := z && decide (8 ≤ r.length)
    match stretches t with
    | (false, s) :: rest => if long then (true, r) :: (false, s) :: rest else (false, r ++ s) :: rest
    | rest => (long, r) :: rest

/-- One lane as tokens. -/
def codeLane (bs : List Byte) : List Byte :=
  (stretches (zeroRuns bs)).flatMap (fun s =>
    if s.1 then leBytes 4 s.2.length
    else leBytes 4 (2 ^ 31 + s.2.length) ++ s.2 ++ List.replicate ((4 - s.2.length % 4) % 4) 0)

/-- A plane's delta coded: its byte lanes in increasing position. -/
def codePlane (elemBytes elems : Nat) (delta : List Byte) : List Byte :=
  (upto elemBytes).flatMap (fun b => codeLane ((upto elems).map (fun i => delta.getD (elemBytes * i + b) 0)))

/-! ### The descriptor (R401, R403) -/

structure Cast where
  verdict : W64
  room : Nat
  layer : Nat
  slot : Nat
  close : Bool
  forward : Bool
  updateOld : Bool
  planes : Nat
  every : Nat
  phase : Nat
  delta : W64
  deriving DecidableEq, Repr

def castOf (bs : List Byte) : Cast :=
  let f := leAt bs 47 1
  { verdict := BitVec.ofNat 64 (leAt bs 32 8), room := leAt bs 40 4, layer := leAt bs 44 2, slot := leAt bs 46 1 % 4
    close := natBits f 1 0 = 1, forward := natBit f 2, updateOld := natBit f 3, planes := leAt bs 48 2
    every := leAt bs 50 2, phase := leAt bs 52 2, delta := BitVec.ofNat 64 (leAt bs 56 8) }

/-- Checks of R403 and R9 that read nothing else. -/
def castOk (bs : List Byte) : Bool :=
  let o := castOf bs
  decide (leAt bs 46 1 < 4) && decide (leAt bs 47 1 < 16) && decide (natBits (leAt bs 47 1) 1 0 < 2) && leAt bs 54 2 = 0 &&
  [16, 24, 32, 56].all (fun a => leAt bs a 8 % 64 = 0) &&
  (if o.close then o.planes = 0 && decide (64 ≤ o.room) else decide (1 ≤ o.planes) && decide (o.planes ≤ 64)) &&
  o.every ≠ 0 && decide (o.phase < o.every)

/-- The module is a mould and the slot is PAIRED for this context (R386, R403). -/
def castRoleOk (v : Dev) (ctx : Nat) (bs : List Byte) : Bool :=
  let q := getPair v (castOf bs).slot
  v.mould.role = 2 && q.state = 2 && q.ctx.toNat = ctx

/-- One entry of the plane table. -/
structure Plane where
  old : W64
  new_ : W64
  elems : Nat
  bytes : Nat
  kind : Nat
  deriving DecidableEq, Repr

def planeOf (e : List Byte) : Plane :=
  { old := BitVec.ofNat 64 (leAt e 0 8), new_ := BitVec.ofNat 64 (leAt e 8 8), elems := leAt e 16 4, bytes := leAt e 20 1
    kind := leAt e 21 1 }

/-- A plane entry passes R403; its bytes 22 to 31 are ignored. -/
def planeOk (e : List Byte) : Bool :=
  let p := planeOf e
  (p.bytes = 2 || p.bytes = 4) && decide (1 ≤ p.kind) && decide (p.kind ≤ 7) && p.old.toNat % 64 = 0 && p.new_.toNat % 64 = 0

/-- The largest record the coding can produce (R403). -/
def castBound (ps : List Plane) : Nat :=
  64 + 16 * ps.length + (ps.map (fun p => p.bytes * (ceilDiv (4 * p.elems) 3 + 8))).sum

/-! ### The record (R398) -/

/-- A record's header with its CRC field zero. -/
def recHeader (v : Dev) (x : Desc) (o : Cast) (total layers : Nat) (skipped : Bool) : List Byte :=
  let q := getPair v o.slot
  leBytes 4 total ++ leBytes 4 0 ++ leBytes 4 x.step.toNat ++ leBytes 4 (x.step - BitVec.ofNat 32 o.every).toNat ++
  leBytes 2 (if o.close then 0 else o.layer) ++ leBytes 2 q.node.toNat ++ leBytes 2 v.fab.nodeId.toNat ++
  leBytes 1 (b2n o.close) ++ leBytes 1 (b2n q.unprot + 2 * b2n skipped) ++ leBytes 2 o.planes ++ leBytes 2 0 ++
  leBytes 4 q.incarn.toNat ++ leBytes 8 q.seq.toNat ++ leBytes 4 layers ++ List.replicate 20 0

/-- A record with its CRC. -/
def withCrc (r : List Byte) : List Byte := r.take 4 ++ leBytes 4 (crc32c r).toNat ++ r.drop 8

/-- A plane's header (R398). -/
def planeHeader (p : Plane) (coded : Nat) : List Byte :=
  leBytes 1 p.kind ++ leBytes 1 p.bytes ++ leBytes 2 0 ++ leBytes 4 p.elems ++ leBytes 4 coded ++ leBytes 4 0

/-- The raw tail delta (R394): two 16-bit deltas in each INT32 element. -/
def tailDelta (elems : Nat) (delta : List Byte) : List Byte := delta.take (2 * elems) ++ (if elems % 2 = 1 then [0, 0] else [])

/-- A record queued for forwarding, and its slot's counts (R398, R404). -/
def castQueue (x : Desc) (o : Cast) (a : W64) (total : Nat) (v : Dev) : Dev :=
  let q := getPair v o.slot
  let v := setPair o.slot { q with seq := q.seq + 1, layers := if o.close then 0 else q.layers + 1 } v
  let it : StreamItem :=
    { ctx := x.ctx, addr := a, bytes := total, slot := o.slot, closeStep := if o.close then some x.step else none }
  { v with mould := { v.mould with queue := v.mould.queue ++ [it] } }

/-- An address holds a record that is still queued (R404). -/
def stillQueued (v : Dev) (ctx : Nat) (a : W64) : Bool :=
  v.mould.queue.any (fun i => i.ctx = ctx && decide ((a - i.addr).toNat < i.bytes))

/-- The plane table, or malformed (R403). -/
def readPlanes (x : Desc) (r : Requestor) (o : Cast) : Acc (List Plane) := do
  let es ← (upto o.planes).mapM (fun i => readBytes r (slotAddr x r 0 + BitVec.ofNat 64 (32 * i)) 32)
  let ps := es.map planeOf
  if !es.all planeOk || o.room < castBound ps then throw (.fail stMalformed 0)
  pure ps

/-- The record of a RECORD or CLOSE that acts (R402): written before any plane is copied, so that it is all that a part which fails up to
here leaves undefined (R310, R420). Answers each plane with its new bytes and its delta, whether the step is skipped, and the record's
length. -/
def castRecord (x : Desc) (o : Cast) : Acc (List (Plane × List Byte × List Byte) × Bool × Nat) := do
  let r ← reqOf x (edge x.ctx) [1]
  let a := slotAddr x r 1
  let ps ← if o.close then pure [] else readPlanes x r o
  if stillQueued (← get).dev x.ctx a then throw .wait
  let skipped ← if !o.close && o.verdict ≠ 0 then (do
      let bad := decide ((← readNat r o.verdict 4) % 2 ^ 31 ≠ 0)
      modify (onDev (noteVerdict x.ctx bad))
      pure bad) else pure false
  -- every plane is read before anything is written
  let data ← ps.mapM (fun p => do
    let old ← readBytes r p.old (p.bytes * p.elems)
    let new_ ← readBytes r p.new_ (p.bytes * p.elems)
    let d := if skipped then List.replicate old.length 0 else (old.zip new_).map (fun c => c.1 ^^^ c.2)
    pure (p, new_, d))
  let coded := data.map (fun c => codePlane c.1.bytes c.1.elems c.2.2)
  let body := (data.zip coded).flatMap (fun c => planeHeader c.1.1 c.2.length) ++ coded.flatten
  let total := 64 + body.length
  let w ← get
  let layers := if o.close then (getPair w.dev o.slot).layers.toNat else 0
  markDest r a total
  writeBytes r a (withCrc (recHeader w.dev x o total layers skipped ++ body))
  pure (data, skipped, total)

/-- A RECORD or CLOSE that acts (R402). -/
def castAct (x : Desc) (o : Cast) : Acc Unit := do
  let r ← reqOf x (edge x.ctx) [1]
  let a := slotAddr x r 1
  let (data, skipped, total) ← castRecord x o
  -- the record stands from here on (R420)
  modify (fun w => { w with dest := [] })
  match data.find? (fun c => c.1.kind = 0x02) with
  | some (p, _, d) =>
    if o.delta ≠ 0 then
      markDest r o.delta (4 * ceilDiv p.elems 2)
      writeBytes r o.delta (tailDelta p.elems d)
    else pure ()
  | none => pure ()
  if o.updateOld && !skipped then
    for (p, _, _) in data do markDest r p.old (p.bytes * p.elems)
    for (p, new_, _) in data do writeBytes r p.old new_
  else pure ()
  if o.forward then modify (onDev (castQueue x o a total)) else pure ()

/-- A CASTMARK acts in the steps that EVERY and PHASE select (R402). -/
def castActs (x : Desc) (o : Cast) : Bool := x.step.toNat % o.every = o.phase

/-- A CASTMARK part (R402, R403). -/
def castBody (x : Desc) : Acc Unit := do
  let o := castOf x.bytes
  if !castRoleOk (← get).dev x.ctx x.bytes then throw (.fail stMalformed 0)
  if castActs x o then castAct x o else pure ()

/-- What a CASTMARK that fails before its record is written leaves undefined is that record (R310, R420). -/
def castDest (x : Desc) : Acc Unit := do
  let o := castOf x.bytes
  if castActs x o then discard (castRecord x o) else pure ()

/-- A CASTMARK of one operation. -/
def castRun (close : Bool) (d : Nat) (w : Work) : Work :=
  match startable w.dev d 0 0xB with
  | some (x, _) => if (castOf x.bytes).close = close then runPart d 0 (castBody x) w else w
  | none => w

/-- CASTMARK_RECORD (R402). -/
def execCastmarkRecord (d : Nat) (s : State) : Host.Outcome State Fault Refusal := runWork (castRun false d) s
/-- CASTMARK_CLOSE (R402). -/
def execCastmarkClose (d : Nat) (s : State) : Host.Outcome State Fault Refusal := runWork (castRun true d) s

end Sys2Proof.Machine
end

