-- ==== Sys2Proof/Machine/Chisel.lean ====
section
/-! DEFINITION. A chisel core's instructions (R124 to R128, R133): RV64IMAC with Zicsr and Zifencei in user mode, its
memory view, its instruction cache, and how a trap ends its part. -/

namespace Sys2Proof.Machine

open Sys2Proof

/-! ### Kernel descriptors and chisel cores (R129, R130) -/

/-- CHISEL_MASK, and the chisel core (global number) of a part. -/
def kernelMask (x : Desc) : Nat := fieldOf x 40 1
def partChisel (x : Desc) (p : Nat) : Nat :=
  let bits := maskBits (kernelMask x)
  8 * (x.parts.getD p {}).unit + bits.getD (p % bits.length) 0

/-- A chisel core's register (x0 reads as zero). -/
def xreg (c : Chisel) (r : Nat) : W64 := if r = 0 then 0 else tabGet 0 c.regs r

/-- A register written (x0 discards it). -/
def setX (r : Nat) (v : W64) (c : Chisel) : Chisel := if r = 0 then c else { c with regs := tabPut 0 c.regs r v }

/-! ### Memory view (R126 to R128) -/

/-- The first address of the local scratch. -/
def scratchVa : Nat := 0xFFFFFFFFFFFF0000

/-- The first uncorrectable word, if any, among `n` bytes of chisel core `i`'s scratch from an offset up (R253). -/
def scratchUe (v : Dev) (i o n : Nat) : Option Nat :=
  ((upto n).map (fun k => scratchWord i ((o + k) % 65536))).find? (isUe v)

/-- Chisel core `i`'s scratch cleared in every word: none is uncorrectable (R126, R257). -/
def scratchSweep (i : Nat) (v : Dev) : Dev :=
  { v with ue := v.ue.filter (fun a => !(decide (scratchWord i 0 ≤ a) && decide (a < scratchWord i 65536))) }

/-- A trap other than ecall (R133). -/
def trap {α : Type} : Acc α := throw (.fail stKernelFault 0)

/-- A failure of an access as a chisel core meets it: an uncorrectable error, or an access fault (R126, R133). -/
def asTrap (e : Stop) : Stop :=
  match e with
  | .fail st a => if st = stMemoryUe then .fail st a else .fail stKernelFault 0
  | .wait => .wait

/-- Who chisel core `i` accesses memory as. -/
def reqOfChisel (i ctx : Nat) : Requestor := { ctx := ctx, core := some (i / 8), chisel := true }

/-- The chisel core at work changed. -/
def onChisel (i : Nat) (f : Chisel → Chisel) : Acc Unit := modify (onDev (modChisel i f))

/-- Bytes read by a chisel core. -/
def chRead (i ctx : Nat) (a : W64) (n : Nat) : Acc (List Byte) := do
  if scratchVa ≤ a.toNat then
    let v := (← get).dev
    match scratchUe v i (a.toNat % 65536) n with
    | some word => failUe ctx word
    | none => pure ((upto n).map (fun k => tabGet 0 (getChisel v i).scratch ((a.toNat + k) % 65536)))
  else tryCatch (readBytes (reqOfChisel i ctx) a n) (fun e => throw (asTrap e))

/-- Bytes written by a chisel core. A write of a whole uncorrectable word of scratch clears it, and one of a part of it
fails (R257, R505). -/
def chWrite (i ctx : Nat) (a : W64) (bs : List Byte) : Acc Unit := do
  if scratchVa ≤ a.toNat then
    match scratchUe (← get).dev i (a.toNat % 65536) bs.length with
    | some word =>
      if bs.length < 8 then failUe ctx word
      else modify (onDev (fun v => { v with ue := setDel v.ue (granuleBase word) }))
    | none => pure ()
    onChisel i (fun c =>
      { c with scratch := (bs.zipIdx).foldl (fun t b => tabPut 0 t ((a.toNat + b.2) % 65536) b.1) c.scratch
               reserved := match c.reserved with
                 | some (r, n) => if r < a.toNat + bs.length && a.toNat < r + n then none else some (r, n)
                 | none => none })
  else tryCatch (writeBytes (reqOfChisel i ctx) a bs) (fun e => throw (asTrap e))

/-- One 16-bit parcel fetched through the instruction cache (R127). -/
def fetchParcel (i ctx : Nat) (a : W64) : Acc Nat := do
  let c := getChisel (← get).dev i
  match tabGet none c.fetched (a.toNat / 2) with
  | some h => pure h.toNat
  | none => do
    let h := leNat (← chRead i ctx a 2)
    onChisel i (fun c => { c with fetched := tabPut none c.fetched (a.toNat / 2) (some (BitVec.ofNat 16 h)) })
    pure h

/-! ### Fields of an instruction word -/

def iOp (w : Nat) : Nat := natBits w 6 0
def iRd (w : Nat) : Nat := natBits w 11 7
def iF3 (w : Nat) : Nat := natBits w 14 12
def iRs1 (w : Nat) : Nat := natBits w 19 15
def iRs2 (w : Nat) : Nat := natBits w 24 20
def iF7 (w : Nat) : Nat := natBits w 31 25
/-- A sign-extended number of `n` bits. -/
def sx (n v : Nat) : W64 := (BitVec.ofNat n v).signExtend 64
def immI (w : Nat) : W64 := sx 12 (natBits w 31 20)
def immS (w : Nat) : W64 := sx 12 (32 * natBits w 31 25 + natBits w 11 7)
def immB (w : Nat) : W64 :=
  sx 13 (4096 * natBits w 31 31 + 2048 * natBits w 7 7 + 32 * natBits w 30 25 + 2 * natBits w 11 8)
def immU (w : Nat) : W64 := sx 32 (4096 * natBits w 31 12)
def immJ (w : Nat) : W64 :=
  sx 21 (1048576 * natBits w 31 31 + 4096 * natBits w 19 12 + 2048 * natBits w 20 20 + 2 * natBits w 30 21)

/-! ### Compressed instructions as the words they stand for -/

def mkR (f7 rs2 rs1 f3 rd op : Nat) : Nat := f7 * 2 ^ 25 + rs2 * 2 ^ 20 + rs1 * 2 ^ 15 + f3 * 2 ^ 12 + rd * 2 ^ 7 + op
def mkI (imm rs1 f3 rd op : Nat) : Nat := (imm % 4096) * 2 ^ 20 + rs1 * 2 ^ 15 + f3 * 2 ^ 12 + rd * 2 ^ 7 + op
def mkS (imm rs2 rs1 f3 op : Nat) : Nat := mkR (natBits imm 11 5) rs2 rs1 f3 (natBits imm 4 0) op
def mkB (imm rs2 rs1 f3 : Nat) : Nat :=
  mkR (64 * natBits imm 12 12 + natBits imm 10 5) rs2 rs1 f3 (2 * natBits imm 4 1 + natBits imm 11 11) 0x63
def mkU (imm rd op : Nat) : Nat := (imm % 2 ^ 32) / 4096 * 4096 + rd * 2 ^ 7 + op
def mkJ (imm rd : Nat) : Nat :=
  (2 ^ 19 * natBits imm 20 20 + 2 ^ 9 * natBits imm 10 1 + 2 ^ 8 * natBits imm 11 11 + natBits imm 19 12) * 4096 +
    rd * 2 ^ 7 + 0x6F
/-- A sign-extended field as a two's complement number of 32 bits. -/
def sx32 (n v : Nat) : Nat := ((BitVec.ofNat n v).signExtend 32).toNat

/-- Quadrant 0. -/
def expand0 (h : Nat) : Option Nat :=
  let rd := 8 + natBits h 4 2
  let rs := 8 + natBits h 9 7
  let w := 64 * natBits h 5 5 + 8 * natBits h 12 10 + 4 * natBits h 6 6
  let d := 64 * natBits h 6 5 + 8 * natBits h 12 10
  let f := natBits h 15 13
  if f = 0 then
    let imm := 64 * natBits h 10 7 + 16 * natBits h 12 11 + 8 * natBits h 5 5 + 4 * natBits h 6 6
    if imm = 0 then none else some (mkI imm 2 0 rd 0x13)
  else if f = 2 then some (mkI w rs 2 rd 0x03)
  else if f = 3 then some (mkI d rs 3 rd 0x03)
  else if f = 6 then some (mkS w rd rs 2 0x23)
  else if f = 7 then some (mkS d rd rs 3 0x23)
  else none

/-- Quadrant 1's arithmetic on the popular registers. -/
def expandArith (h : Nat) : Option Nat :=
  let rd := 8 + natBits h 9 7
  let rs2 := 8 + natBits h 4 2
  let imm := 32 * natBits h 12 12 + natBits h 6 2
  let f2 := natBits h 11 10
  if f2 = 0 then some (mkI imm rd 5 rd 0x13)
  else if f2 = 1 then some (mkI (0x400 + imm) rd 5 rd 0x13)
  else if f2 = 2 then some (mkI (sx32 6 imm) rd 7 rd 0x13)
  else
    match natBits h 12 12, natBits h 6 5 with
    | 0, 0 => some (mkR 0x20 rs2 rd 0 rd 0x33)
    | 0, 1 => some (mkR 0 rs2 rd 4 rd 0x33)
    | 0, 2 => some (mkR 0 rs2 rd 6 rd 0x33)
    | 0, 3 => some (mkR 0 rs2 rd 7 rd 0x33)
    | 1, 0 => some (mkR 0x20 rs2 rd 0 rd 0x3B)
    | 1, 1 => some (mkR 0 rs2 rd 0 rd 0x3B)
    | _, _ => none

/-- Quadrant 1. -/
def expand1 (h : Nat) : Option Nat :=
  let rd := natBits h 11 7
  let imm6 := 32 * natBits h 12 12 + natBits h 6 2
  let f := natBits h 15 13
  let j := 2048 * natBits h 12 12 + 1024 * natBits h 8 8 + 256 * natBits h 10 9 + 128 * natBits h 6 6 +
    64 * natBits h 7 7 + 32 * natBits h 2 2 + 16 * natBits h 11 11 + 2 * natBits h 5 3
  let b := 256 * natBits h 12 12 + 64 * natBits h 6 5 + 32 * natBits h 2 2 + 8 * natBits h 11 10 + 2 * natBits h 4 3
  let sp := 512 * natBits h 12 12 + 128 * natBits h 4 3 + 64 * natBits h 5 5 + 32 * natBits h 2 2 + 16 * natBits h 6 6
  let rs := 8 + natBits h 9 7
  if f = 0 then some (mkI (sx32 6 imm6) rd 0 rd 0x13)
  else if f = 1 then (if rd = 0 then none else some (mkI (sx32 6 imm6) rd 0 rd 0x1B))
  else if f = 2 then some (mkI (sx32 6 imm6) 0 0 rd 0x13)
  else if f = 3 then
    (if rd = 2 then (if sp = 0 then none else some (mkI (sx32 10 sp) 2 0 2 0x13))
     else if imm6 = 0 then none else some (mkU (sx32 18 (4096 * imm6)) rd 0x37))
  else if f = 4 then expandArith h
  else if f = 5 then some (mkJ (sx32 12 j) 0)
  else if f = 6 then some (mkB (sx32 9 b) 0 rs 0)
  else some (mkB (sx32 9 b) 0 rs 1)

/-- Quadrant 2. -/
def expand2 (h : Nat) : Option Nat :=
  let rd := natBits h 11 7
  let rs2 := natBits h 6 2
  let f := natBits h 15 13
  if f = 0 then some (mkI (32 * natBits h 12 12 + natBits h 6 2) rd 1 rd 0x13)
  else if f = 2 then
    (if rd = 0 then none else
      some (mkI (64 * natBits h 3 2 + 32 * natBits h 12 12 + 4 * natBits h 6 4) 2 2 rd 0x03))
  else if f = 3 then
    (if rd = 0 then none else
      some (mkI (64 * natBits h 4 2 + 32 * natBits h 12 12 + 8 * natBits h 6 5) 2 3 rd 0x03))
  else if f = 4 then
    (if natBits h 12 12 = 0 then
      (if rs2 = 0 then (if rd = 0 then none else some (mkI 0 rd 0 0 0x67)) else some (mkR 0 rs2 0 0 rd 0x33))
     else if rs2 = 0 then (if rd = 0 then some 0x00100073 else some (mkI 0 rd 0 1 0x67))
     else some (mkR 0 rs2 rd 0 rd 0x33))
  else if f = 6 then some (mkS (64 * natBits h 8 7 + 4 * natBits h 12 9) rs2 2 2 0x23)
  else if f = 7 then some (mkS (64 * natBits h 9 7 + 8 * natBits h 12 10) rs2 2 3 0x23)
  else none

/-- The 32-bit instruction a compressed one stands for; nothing where it is illegal. -/
def expand (h : Nat) : Option Nat :=
  if h % 4 = 0 then expand0 h else if h % 4 = 1 then expand1 h else expand2 h

/-- The instruction at a chisel core's pc and its length in bytes; an illegal compressed one traps (R124). -/
def fetchInstr (i ctx : Nat) : Acc (Nat × Nat) := do
  let c := getChisel (← get).dev i
  let lo ← fetchParcel i ctx c.pc
  if lo % 4 = 3 then
    let hi ← fetchParcel i ctx (c.pc + 2)
    pure (lo + 65536 * hi, 4)
  else
    match expand lo with
    | some w => pure (w, 2)
    | none => trap

/-! ### Arithmetic -/

/-- A 32-bit result sign-extended. -/
def word (v : W64) : W64 := (v.setWidth 32).signExtend 64

/-- OP and OP-IMM functions on 64 bits; `alt` is bit 30. -/
def alu (f3 : Nat) (alt : Bool) (a b : W64) : W64 :=
  let sh := b.toNat % 64
  if f3 = 0 then (if alt then a - b else a + b)
  else if f3 = 1 then a <<< sh
  else if f3 = 2 then (if a.slt b then 1 else 0)
  else if f3 = 3 then (if a.ult b then 1 else 0)
  else if f3 = 4 then a ^^^ b
  else if f3 = 5 then (if alt then a.sshiftRight sh else a >>> sh)
  else if f3 = 6 then a ||| b
  else a &&& b

/-- The 32-bit forms. -/
def aluW (f3 : Nat) (alt : Bool) (a b : W64) : W64 :=
  let x := a.setWidth 32
  let sh := b.toNat % 32
  if f3 = 0 then word (if alt then a - b else a + b)
  else if f3 = 1 then (x <<< sh).signExtend 64
  else (if alt then x.sshiftRight sh else x >>> sh).signExtend 64

/-- Division toward zero with the results of RV64M for a zero divisor and for overflow. -/
def divS (a b : Int) : Int := if b = 0 then -1 else Int.tdiv a b
def remS (a b : Int) : Int := if b = 0 then a else Int.tmod a b
def divU (w a b : Nat) : Nat := if b = 0 then 2 ^ w - 1 else a / b
def remU (a b : Nat) : Nat := if b = 0 then a else a % b

/-- The M extension on 64 bits. -/
def mulDiv (f3 : Nat) (a b : W64) : W64 :=
  let hi (v : Int) : W64 := BitVec.ofInt 64 (v / 2 ^ 64)
  if f3 = 0 then a * b
  else if f3 = 1 then hi (a.toInt * b.toInt)
  else if f3 = 2 then hi (a.toInt * (b.toNat : Int))
  else if f3 = 3 then hi ((a.toNat : Int) * (b.toNat : Int))
  else if f3 = 4 then BitVec.ofInt 64 (divS a.toInt b.toInt)
  else if f3 = 5 then BitVec.ofNat 64 (divU 64 a.toNat b.toNat)
  else if f3 = 6 then BitVec.ofInt 64 (remS a.toInt b.toInt)
  else BitVec.ofNat 64 (remU a.toNat b.toNat)

/-- The M extension on 32 bits; nothing for the codes that do not exist. -/
def mulDivW (f3 : Nat) (a b : W64) : Option W64 :=
  let x := a.setWidth 32
  let y := b.setWidth 32
  let out (v : W32) : Option W64 := some (v.signExtend 64)
  if f3 = 0 then out (x * y)
  else if f3 = 4 then out (BitVec.ofInt 32 (divS x.toInt y.toInt))
  else if f3 = 5 then out (BitVec.ofNat 32 (divU 32 x.toNat y.toNat))
  else if f3 = 6 then out (BitVec.ofInt 32 (remS x.toInt y.toInt))
  else if f3 = 7 then out (BitVec.ofNat 32 (remU x.toNat y.toNat))
  else none

/-- Whether a branch is taken; nothing for the codes that do not exist. -/
def branch (f3 : Nat) (a b : W64) : Option Bool :=
  if f3 = 0 then some (a = b) else if f3 = 1 then some (a ≠ b)
  else if f3 = 4 then some (a.slt b) else if f3 = 5 then some (!a.slt b)
  else if f3 = 6 then some (a.ult b) else if f3 = 7 then some (!a.ult b) else none

/-- The value an AMO stores. -/
def amoFn (f5 : Nat) (wide : Bool) (old src : W64) : Option W64 :=
  let o := if wide then old else word old
  let s := if wide then src else word src
  let ou := if wide then old else (old.setWidth 32).setWidth 64
  let su := if wide then src else (src.setWidth 32).setWidth 64
  if f5 = 0x00 then some (old + src) else if f5 = 0x01 then some src else if f5 = 0x04 then some (old ^^^ src)
  else if f5 = 0x08 then some (old ||| src) else if f5 = 0x0C then some (old &&& src)
  else if f5 = 0x10 then some (if s.slt o then src else old)
  else if f5 = 0x14 then some (if o.slt s then src else old)
  else if f5 = 0x18 then some (if su.ult ou then src else old)
  else if f5 = 0x1C then some (if ou.ult su then src else old)
  else none

/-! ### Control and status registers (R124, R125) -/

/-- A readable register's value; nothing where reading it is an illegal instruction. STEP_CT is the count with which the kernel
was fetched, and a sub-descriptor launched later takes the same (DESIGN CHOICE, log 111: R125 does not say as of when). -/
def csrRead (v : Dev) (i : Nat) (x : Desc) (c : Chisel) (n : Nat) : Option W64 :=
  if n = 0xC00 then some c.cycle
  else if n = 0xC01 then some (now v)
  else if n = 0xC02 then some c.instret
  else if n = 0xCC0 then some (BitVec.ofNat 64 (i % 8 + 8 * (i / 8)))
  else if n = 0xCC1 then some (BitVec.ofNat 64 x.ctx)
  else if n = 0xCC2 then some (x.step.setWidth 64)
  else if n = 0xCC3 then some (BitVec.ofNat 64 c.p)
  else none

/-! ### One instruction -/

/-- Where an instruction's sources are, and what it does next: the value for rd and the next pc. -/
structure Retire where
  rd : Nat := 0
  val : W64 := 0
  pc : W64

/-- Loads (R126, R127): the bytes and how they extend. -/
def doLoad (i ctx : Nat) (f3 : Nat) (a : W64) : Acc W64 := do
  let n := 2 ^ (f3 % 4)
  if f3 = 7 || a.toNat % n ≠ 0 then trap
  else
    let v := leNat (← chRead i ctx a n)
    pure (if f3 < 4 then sx (8 * n) v else BitVec.ofNat 64 v)

/-- Stores. -/
def doStore (i ctx : Nat) (f3 : Nat) (a v : W64) : Acc Unit := do
  let n := 2 ^ (f3 % 4)
  if 4 ≤ f3 || a.toNat % n ≠ 0 then trap
  else chWrite i ctx a (leBytes n v.toNat)

/-- Where a location that LR, SC or an AMO names lies: its reservation key, and whether LR and SC may use it (R128). -/
def atomicTarget (i ctx : Nat) (a : W64) (write : Bool) : Acc (Nat × Bool) := do
  if scratchVa ≤ a.toNat then pure (a.toNat, true)
  else
    let t ← tryCatch (translate (reqOfChisel i ctx) a write) (fun e => throw (asTrap e))
    match t with
    | .dev d => pure (d, decide (cstoreBase ≤ d) && storeCore d = i / 8)
    | .host _ => trap

/-- The A extension (R128). -/
def doAmo (i ctx : Nat) (w : Nat) (a src : W64) : Acc W64 := do
  let f5 := natBits w 31 27
  let wide := iF3 w = 3
  let n := if wide then 8 else 4
  if (iF3 w ≠ 2 && iF3 w ≠ 3) || a.toNat % n ≠ 0 then trap
  else if f5 = 0x02 then
    if iRs2 w ≠ 0 then trap
    else do
      let (key, ok) ← atomicTarget i ctx a false
      if !ok then trap
      let v := leNat (← chRead i ctx a n)
      onChisel i (fun c => { c with reserved := some (key, n) })
      pure (sx (8 * n) v)
  else if f5 = 0x03 then do
    let (key, ok) ← atomicTarget i ctx a true
    if !ok then trap
    let held := (getChisel (← get).dev i).reserved
    onChisel i (fun c => { c with reserved := none })
    if held = some (key, n) then
      chWrite i ctx a (leBytes n src.toNat)
      pure 0
    else pure 1
  else if scratchVa ≤ a.toNat then trap
  else do
    let old ← chRead i ctx a n
    let o := sx (8 * n) (leNat old)
    match amoFn f5 wide o src with
    | none => trap
    | some v => do
      chWrite i ctx a (leBytes n v.toNat)
      pure o

/-- Zicsr: every register of the user-mode view is read-only. -/
def doCsr (i : Nat) (x : Desc) (c : Chisel) (w : Nat) : Acc W64 := do
  let f3 := iF3 w
  match csrRead (← get).dev i x c (natBits w 31 20) with
  | some v => if (f3 % 4 = 2 || f3 % 4 = 3) && iRs1 w = 0 then pure v else trap
  | none => trap

/-- One ordinary instruction: what it writes and where it goes (R124). -/
def execute (i : Nat) (x : Desc) (c : Chisel) (w len : Nat) : Acc Retire := do
  let ctx := x.ctx
  let a := xreg c (iRs1 w)
  let b := xreg c (iRs2 w)
  let next := c.pc + BitVec.ofNat 64 len
  let out (v : W64) : Acc Retire := pure ⟨iRd w, v, next⟩
  let op := iOp w
  let f3 := iF3 w
  let f7 := iF7 w
  if op = 0x37 then out (immU w)
  else if op = 0x17 then out (c.pc + immU w)
  else if op = 0x6F then pure ⟨iRd w, next, c.pc + immJ w⟩
  else if op = 0x67 then (if f3 = 0 then pure ⟨iRd w, next, (a + immI w) &&& ~~~1#64⟩ else trap)
  else if op = 0x63 then
    match branch f3 a b with
    | some t => pure ⟨0, 0, if t then c.pc + immB w else next⟩
    | none => trap
  else if op = 0x03 then do out (← doLoad i ctx f3 (a + immI w))
  else if op = 0x23 then do
    doStore i ctx f3 (a + immS w) b
    pure ⟨0, 0, next⟩
  else if op = 0x13 then
    let f6 := natBits w 31 26
    (if f3 = 1 && f6 ≠ 0 then trap
     else if f3 = 5 && f6 ≠ 0 && f6 ≠ 0x10 then trap
     else out (alu f3 (f3 = 5 && f6 = 0x10) a (if f3 = 1 || f3 = 5 then BitVec.ofNat 64 (natBits w 25 20) else immI w)))
  else if op = 0x1B then
    (if f3 = 0 then out (word (a + immI w))
     else if f3 = 1 && f7 = 0 then out (aluW 1 false a (BitVec.ofNat 64 (iRs2 w)))
     else if f3 = 5 && (f7 = 0 || f7 = 0x20) then out (aluW 5 (f7 = 0x20) a (BitVec.ofNat 64 (iRs2 w)))
     else trap)
  else if op = 0x33 then
    (if f7 = 1 then out (mulDiv f3 a b)
     else if f7 = 0 then out (alu f3 false a b)
     else if f7 = 0x20 && (f3 = 0 || f3 = 5) then out (alu f3 true a b)
     else trap)
  else if op = 0x3B then
    (if f7 = 1 then
      match mulDivW f3 a b with
      | some v => out v
      | none => trap
     else if f7 = 0 && (f3 = 0 || f3 = 1 || f3 = 5) then out (aluW f3 false a b)
     else if f7 = 0x20 && (f3 = 0 || f3 = 5) then out (aluW f3 true a b)
     else trap)
  else if op = 0x2F then do out (← doAmo i ctx w a b)
  else if op = 0x0F then
    (if f3 = 0 then pure ⟨0, 0, next⟩
     else if f3 = 1 then do
      onChisel i (fun c => { c with fetched := [] })
      pure ⟨0, 0, next⟩
     else trap)
  else if op = 0x73 && f3 ≠ 0 && f3 ≠ 4 then do out (← doCsr i x c w)
  else trap

/-- An instruction of the custom-0 space that exists (R135): its funct3. -/
def customOf (w : Nat) : Option Nat := if iOp w = 0x0B && iF7 w = 0 && iF3 w < 4 then some (iF3 w) else none

/-- `ecall`. -/
def isEcall (w : Nat) : Bool := w = 0x00000073

/-- An instruction retired: rd and pc written, and the counters advanced (R124). -/
def retireInstr (i : Nat) (ctx : Nat) (t : Retire) (v : Dev) : Dev :=
  let stall := Config.chiselStall v.free
  let v := { v with free := v.free + 1 }
  ctrAdd ctx 9 1 (modChisel i (fun c =>
    { setX t.rd t.val c with
      pc := t.pc, instret := c.instret + 1, cycle := c.cycle + BitVec.ofNat 64 (1 + stall) }) v)

end Sys2Proof.Machine
end

