-- ==== Sys2Proof/Machine/Transcend.lean ====
section
/-! DEFINITION. The exponential E (R115) and the other transcendental functions of the vector engine (R151, R152, R157):
each result is one of the FP32 values within the spec's bound of the exact result, picked by a constant with no body. -/

namespace Sys2Proof.Machine

open Sys2Proof

/-! ### Fixed-point series, with `fxBits` bits below the point -/

def fxBits : Nat := 704
def fxOne : Int := 2 ^ fxBits

/-- A finite magnitude in fixed point, truncated. -/
def fxOf (n : Bool) (m : Nat) (e : Int) : Int :=
  let k := e + fxBits
  sgn n (if 0 ≤ k then m * 2 ^ k.toNat else m / 2 ^ (-k).toNat)

/-- A product of fixed-point numbers. -/
def fxMul (a b : Int) : Int := (a * b).ediv fxOne
/-- A quotient of fixed-point numbers. -/
def fxDiv (a b : Int) : Int := if b = 0 then 0 else (a * fxOne).ediv b

/-- The sum of r^i / i! from term `i` on. -/
def fxExpSum : Nat → Int → Int → Int → Int
  | 0, _, _, acc => acc
  | n + 1, r, t, acc =>
    let i : Int := (200 - n : Nat)
    let t := (fxMul t r).ediv i
    fxExpSum n r t (acc + t)

/-- e^r for |r| below 1. -/
def fxExpSmall (r : Int) : Int := fxExpSum 200 r fxOne fxOne

/-- The sum of z^(2i+1) / (2i+1). -/
def fxAtanhSum : Nat → Int → Int → Int → Int
  | 0, _, _, acc => acc
  | n + 1, z2, t, acc =>
    let i : Int := (2 * (260 - n) + 1 : Nat)
    let t := fxMul t z2
    fxAtanhSum n z2 t (acc + t.ediv i)

/-- atanh z for |z| at most 1/3. -/
def fxAtanh (z : Int) : Int := fxAtanhSum 260 (fxMul z z) z z

/-- ln 2. -/
def fxLn2 : Int := 2 * fxAtanh (fxOne.ediv 3)

/-- e^x as a mantissa in fixed point and a power of two. -/
def fxExp (x : Int) : Int × Int :=
  let k := x.ediv fxLn2
  (fxExpSmall (x - k * fxLn2), k)

/-- e^x in fixed point. -/
def fxExpWhole (x : Int) : Int :=
  let (m, k) := fxExp x
  if 0 ≤ k then m * 2 ^ k.toNat else m.ediv (2 ^ (-k).toNat)

/-- The natural logarithm of a positive magnitude. -/
def fxLn (m : Nat) (e : Int) : Int :=
  let l := ilog m e
  let y := fxOf false m (e - l)
  2 * fxAtanh (fxDiv (y - fxOne) (y + fxOne)) + l * fxLn2

/-- The sum of x^(2i+1) / (1·3·5…(2i+1)). -/
def fxPhiSum : Nat → Int → Int → Int → Int
  | 0, _, _, acc => acc
  | n + 1, x2, t, acc =>
    let i : Int := (2 * (1600 - n) + 1 : Nat)
    let t := (fxMul t x2).ediv i
    fxPhiSum n x2 t (acc + t)

/-- 1 / sqrt(2π), by π = 16 atan(1/5) − 4 atan(1/239). -/
def fxAtanInvSum : Nat → Int → Int → Int → Int
  | 0, _, _, acc => acc
  | n + 1, q2, t, acc =>
    let i : Int := (2 * (320 - n) + 1 : Nat)
    let t := -(t.ediv q2)
    fxAtanInvSum n q2 t (acc + t.ediv i)

def fxAtanInv (q : Int) : Int := fxAtanInvSum 320 (q * q) (fxOne.ediv q) (fxOne.ediv q)
def fxPi : Int := 16 * fxAtanInv 5 - 4 * fxAtanInv 239
def fxInvSqrt2Pi : Int := (isqrt (fxDiv fxOne (2 * fxPi) * fxOne).toNat : Nat)

/-- The standard normal density. -/
def fxDensity (x : Int) : Int := fxMul fxInvSqrt2Pi (fxExpWhole (-(fxMul x x).ediv 2))

/-- The standard normal distribution function, for |x| at most 16. -/
def fxPhi (x : Int) : Int := fxOne.ediv 2 + fxMul (fxDensity x) (fxPhiSum 1600 (fxMul x x) x x)

/-! ### Picking among the FP32 values within the bound -/

/-- A fixed-point result as a sign, magnitude and exponent. -/
def fxVal (x : Int) : Bool × Nat × Int := (decide (x < 0), x.natAbs, -(fxBits : Int))

/-- The FP32 magnitude code at or below a magnitude. -/
def floorCode (m : Nat) (e : Int) : Nat := if m = 0 then 0 else
  let q := fFP32.grid m e
  let k := roundAt .zero m e q
  let c := fFP32.pack k q
  if c ≤ fFP32.maxCode then c else fFP32.maxCode + 1

/-- The finite FP32 magnitude codes within `k` ulp of an exact magnitude, of the ulp of its own binade (R115, R152). Below a binade
the codes lie half an ulp apart, so that 2k of them are looked at there. -/
def codesWithin (k m : Nat) (e : Int) : List Nat :=
  let c := floorCode m e
  let bound := vDy (k : Int) (fFP32.grid m e)
  (((upto (3 * k + 1)).filter (fun i => 2 * k ≤ c + i)).map (fun i => c + i - 2 * k)).filter (fun d =>
    decide (d ≤ fFP32.maxCode) && !ltV bound (subV (f32 d) (.num false m e)).abs)

/-- What a bounded function of a finite argument gives beyond the range of FP32: an open value (log 27), but no NaN, which R152 has
come of no finite argument but those it lists. -/
def beyond (fn : Nat) (args : List Nat) : Nat :=
  let c := (Config.beyondRange fn args).toNat
  if isNan32 c then f32PosInf else c

/-- A function's FP32 value within `k` ulp of its exact one: one of those there are, and with none, beyond the range of FP32, an open
one (log 27). -/
def pickWithin (k fn : Nat) (args : List Nat) (n : Bool) (m : Nat) (e : Int) : Nat :=
  match codesWithin k m e with
  | [] => beyond fn args
  | c :: cs => fFP32.signed n ((c :: cs).getD (Config.ulpChoice fn args % (cs.length + 1)) c)

/-- A value within 1 ulp of an exact one (R115), and within 2 ulp (R152). -/
def pick1 : Nat → List Nat → Bool → Nat → Int → Nat := pickWithin 1
def pick2 : Nat → List Nat → Bool → Nat → Int → Nat := pickWithin 2

/-- The operand of a choice: the value as a number that identifies it. -/
def argOf : Val → List Nat
  | .nan n => [0, b2n n]
  | .inf n => [1, b2n n]
  | .num n m e => [2, b2n n, m, (if e < 0 then 1 else 0), e.natAbs]

/-- |a| is at least 2^k. -/
def atLeastPow (m : Nat) (e k : Int) : Bool := decide (k ≤ ilog m e)

/-- E of an FP32 code (R115): E(0) = 1, E(−inf) = +0, and within 1 ulp else; open where e^y lies beyond the range of FP32 (log
27). -/
def expE (y : Nat) : Nat :=
  match f32 y with
  | .nan n => fFP32.signed n f32Nan
  | .inf n => if n then 0 else f32PosInf
  | .num n m e =>
    if m = 0 then f32One
    else if atLeastPow m e 8 then (if n then pick1 0 [y] false 1 (-300) else beyond 0 [y])
    else
      let (mant, k) := fxExp (fxOf n m e)
      pick1 0 [y] false mant.toNat (k - fxBits)

/-- E of a difference (R115): the difference is rounded once to FP32, and is 0 for two equal values. -/
def expDiff (a b : Nat) : Nat := if eqNum (f32 a) (f32 b) then expE 0 else expE (fsub a b)

/-- Function codes whose value is formed in FP32 first (R151, R152). -/
inductive Tfn where
  | log | tanh | sigmoid | softplus | gelu | silu | gelud | silud
  deriving DecidableEq, Repr

def Tfn.code : Tfn → Nat
  | .log => 1 | .tanh => 2 | .sigmoid => 3 | .softplus => 4 | .gelu => 5 | .silu => 6 | .gelud => 7 | .silud => 8

/-- The exact value of a function of a non-zero finite argument within range, in fixed point. -/
def tfnFx (f : Tfn) (n : Bool) (m : Nat) (e : Int) : Int :=
  let x := fxOf n m e
  let sig : Int := fxDiv fxOne (fxOne + fxExpWhole (-x))
  match f with
  | .log => fxLn m e
  | .tanh =>
    let y := fxExpWhole (2 * x)
    fxDiv (y - fxOne) (y + fxOne)
  | .sigmoid => sig
  | .softplus =>
    let y := fxOne + fxExpWhole x
    fxLn y.toNat (-(fxBits : Int))
  | .gelu => fxMul x (fxPhi x)
  | .silu => fxMul x sig
  | .gelud => fxPhi x + fxMul x (fxDensity x)
  | .silud => fxMul sig (fxOne + fxMul x (fxOne - sig))

/-- The value at a large argument: its limit, less or more by less than an FP32 value can tell. -/
def tfnFar (f : Tfn) (n : Bool) (m : Nat) (e : Int) : Bool × Nat × Int :=
  let below : Bool × Nat × Int := (false, 2 ^ 600 - 1, -600)
  let above : Bool × Nat × Int := (false, 2 ^ 600 + 1, -600)
  let tiny (s : Bool) : Bool × Nat × Int := (s, 1, -1000)
  match f with
  | .log => (false, m, e)
  | .tanh => (n, 2 ^ 600 - 1, -600)
  | .sigmoid => if n then tiny false else below
  | .softplus => if n then tiny false else (false, m * 2 ^ 600 + 1, e - 600)
  | .gelu => if n then tiny true else (false, m * 2 ^ 600 - 1, e - 600)
  | .silu => if n then tiny true else (false, m * 2 ^ 600 - 1, e - 600)
  | .gelud => if n then tiny true else above
  | .silud => if n then tiny true else above

/-- Where a function is taken at its limit: 16 for the normal distribution, 256 for the others. -/
def tfnFarAt : Tfn → Int
  | .gelu => 4
  | .gelud => 4
  | _ => 8

/-- At zero: the exact values. -/
def tfnZero (f : Tfn) (n : Bool) : Nat :=
  match f with
  | .log => f32NegInf
  | .tanh => fFP32.signed n 0
  | .sigmoid => 0x3F000000
  | .softplus => pick2 4 [0] false fxLn2.toNat (-(fxBits : Int))
  | .gelu => fFP32.signed n 0
  | .silu => fFP32.signed n 0
  | .gelud => 0x3F000000
  | .silud => 0x3F000000

/-- At an infinity: the limits (R152, R157). -/
def tfnInf (f : Tfn) (n : Bool) : Nat :=
  match f with
  | .log => if n then f32Nan else f32PosInf
  | .tanh => fFP32.signed n f32One
  | .sigmoid => if n then 0 else f32One
  | .softplus => if n then 0 else f32PosInf
  | .gelu => if n then 0x80000000 else f32PosInf
  | .silu => if n then 0x80000000 else f32PosInf
  | .gelud => if n then 0x80000000 else f32One
  | .silud => if n then 0x80000000 else f32One

/-- The FP32 value of a function of an exact value (R152). -/
def tfn (f : Tfn) (v : Val) : Nat :=
  match v with
  | .nan n => fFP32.signed n f32Nan
  | .inf n => tfnInf f n
  | .num n m e =>
    if m = 0 then tfnZero f n
    else if f = .log && n then f32Nan
    else
      let far := f ≠ .log && atLeastPow m e (tfnFarAt f)
      let (s, a, x) := if far then tfnFar f n m e else fxVal (tfnFx f n m e)
      if a = 0 then (if f = .log then 0 else pick2 f.code (argOf v) n 1 (-1000))
      else pick2 f.code (argOf v) s a x

end Sys2Proof.Machine
end

