-- ==== Sys2Proof/Machine/Vector.lean ====
section
/-! DEFINITION. The vector engine (R142 to R159): VOP descriptors but KERNEL, and CONV. -/

namespace Sys2Proof.Machine

open Sys2Proof

/-! ### Descriptor fields (R142) -/

/-- A VOP or CONV descriptor's fields. -/
structure Vop where
  func : Nat
  fmt0 : Nat
  fmt1 : Nat
  fmt2 : Nat
  cc : Nat
  cc2 : Nat
  imm1On : Bool
  imm2On : Bool
  maskInv : Bool
  pair : Bool
  reduce : Nat
  first : Nat
  count : Nat
  counts : List Nat
  str0 : List Int
  str1 : List Int
  strD : List Int
  imm0 : Nat
  imm1 : Nat
  dst2 : Bool
  mask : W64
  scale0 : W64
  scale1 : W64
  scaleD : W64
  deriving DecidableEq, Repr

def vopOf (bs : List Byte) : Vop :=
  let w (o : Nat) : W64 := BitVec.ofNat 64 (leAt bs o 8)
  let five (o : Nat) : List Int := (upto 5).map (fun d => signed32 (leAt bs (o + 4 * d) 4))
  let ctrl := leAt bs 182 1
  { func := leAt bs 176 1, fmt0 := leAt bs 177 1 % 32, fmt1 := leAt bs 178 1 % 32, fmt2 := leAt bs 179 1 % 32
    cc := leAt bs 180 1, cc2 := leAt bs 181 1, imm1On := natBit ctrl 0, imm2On := natBit ctrl 1
    maskInv := natBit ctrl 2, pair := natBit ctrl 3, reduce := leAt bs 183 1 % 32
    first := leAt bs 184 1 % 32, count := leAt bs 185 1 % 64
    counts := (upto 5).map (fun d => leAt bs (88 + 4 * d) 4)
    str0 := five 108, str1 := five 128, strD := five 148, imm0 := leAt bs 168 4, imm1 := leAt bs 172 4
    dst2 := leAt bs 48 8 ≠ 0, mask := w 56, scale0 := w 64, scale1 := w 72, scaleD := w 80 }

/-! ### Function table (R151, R157) -/

def isDeriv (f : Nat) : Bool := decide (0x30 ≤ f) && decide (f ≤ 0x36)
def isReduce (f : Nat) : Bool := decide (0x40 ≤ f) && decide (f ≤ 0x47)
def isRecord (f : Nat) : Bool := decide (0x50 ≤ f) && decide (f ≤ 0x52)
def isElem (f : Nat) : Bool := decide (f ≤ 0x10) || (decide (0x20 ≤ f) && decide (f ≤ 0x27)) || isDeriv f || f = 0x53
def isFunc (f : Nat) : Bool := isElem f || isReduce f || isRecord f || f = 0xF0

/-- Whether a function reads b, and whether it reads c. -/
def readsB (f : Nat) : Bool :=
  (decide (0x03 ≤ f) && decide (f ≤ 0x08)) || (decide (0x0C ≤ f) && decide (f ≤ 0x10)) || isDeriv f || f = 0x53
def readsC (f : Nat) : Bool := f = 0x06 || f = 0x0E

/-- Functions with a second output. -/
def hasDst2 (f : Nat) : Bool := (decide (0x40 ≤ f) && decide (f ≤ 0x43)) || f = 0x45 || f = 0x46

/-! ### Malformed descriptors (R9, R49, R67, R143 to R145, R159, R506) -/

def vopReserved (bs : List Byte) : Bool :=
  [177, 178, 179, 183, 184].any (fun o => 32 ≤ leAt bs o 1) || 64 ≤ leAt bs 185 1 || 16 ≤ leAt bs 182 1 || leAt bs 186 6 ≠ 0

def multOf (s : Int) (n : Nat) : Bool := if n = 0 then s = 0 else s % (n : Int) = 0

/-- Strides of a packed or block-scaled operand (R145); `skip` says that a dimension's stride is ignored. -/
def denseOk (fmt : Nat) (counts : List Nat) (str : List Int) (skip : Nat → Bool) : Bool :=
  let s (d : Nat) : Int := str.getD d 0
  let c0 := counts.getD 0 0
  let packed := fmtBits fmt < 8
  let grp := if fmtBits fmt = 4 then 2 else 4
  (upto 5).all (fun d => skip d ||
    ((!packed || (if d = 0 then s 0 = 1 else multOf (s d) grp)) &&
     (!fmtBlock fmt || (if d = 0 then s 0 = 1 else if d = 1 then s 1 = (c0 : Int) else multOf (s d) c0))))

/-- A HEADTAIL operand has no negative stride (R506). -/
def headTailOk (fmt : Nat) (str : List Int) : Bool := fmt ≠ 0x0F || str.all (fun s => decide (0 ≤ s))

/-- A scale address is there where a block-scaled operand needs one, may be there for FP8, and is 0 else (R159). -/
def scaleOk (fmt : Nat) (a : W64) : Bool := if fmtBlock fmt then a ≠ 0 else fmtFp8 fmt || a = 0

def redBit (o : Vop) (d : Nat) : Bool := natBit o.reduce d

/-- A KERNEL descriptor passes R129 and R159. -/
def kernelOk (bs : List Byte) : Bool :=
  let zero (lo hi : Nat) : Bool := ((bs.drop lo).take (hi + 1 - lo)).all (fun b => b = 0)
  leAt bs 40 1 ≠ 0 && leAt bs 16 8 % 2 = 0 && zero 41 175 && zero 177 183 && zero 186 191 &&
  decide (leAt bs 184 1 < 32) && leAt bs 185 1 ≠ 0 && decide (leAt bs 184 1 + leAt bs 185 1 ≤ 32)

/-- A descriptor of FUNC other than KERNEL passes R159. -/
def vopOk (bs : List Byte) : Bool :=
  let o := vopOf bs
  let rec_ := isRecord o.func
  let none_ (_ : Nat) : Bool := false
  let fmtD := ccFmt o.cc
  !vopReserved bs && !fmtReserved o.fmt0 && (o.imm1On || !fmtReserved o.fmt1) && (o.imm2On || !fmtReserved o.fmt2) &&
  ccOk o.cc && ccOk o.cc2 &&
  (if isReduce o.func then o.reduce ≠ 0 else if rec_ then o.reduce = 1 else o.reduce = 0) &&
  !(redBit o 4 && 1 < o.count) && o.count ≠ 0 && o.first + o.count ≤ 32 &&
  -- strides
  (rec_ || (denseOk o.fmt0 o.counts o.str0 none_ && headTailOk o.fmt0 o.str0)) &&
  (!readsB o.func || o.imm1On || o.func = 0x53 || (denseOk o.fmt1 o.counts o.str1 none_ && headTailOk o.fmt1 o.str1)) &&
  (!readsC o.func || o.imm2On || (denseOk o.fmt2 o.counts o.str0 none_ && headTailOk o.fmt2 o.str0 && !fmtBlock o.fmt2)) &&
  (rec_ || (denseOk fmtD o.counts o.strD (redBit o) && headTailOk fmtD o.strD)) &&
  (upto 5).all (fun d => redBit o d || o.strD.getD d 0 ≠ 0 || o.counts.getD d 0 ≤ 1) &&
  (!o.dst2 || rec_ || headTailOk (ccFmt o.cc2) o.strD) &&
  (!o.dst2 || denseOk (ccFmt o.cc2) o.counts o.strD (redBit o)) &&
  -- scales
  (if rec_ then o.scale0 = 0 else scaleOk o.fmt0 o.scale0) &&
  (if readsB o.func && !o.imm1On then (if o.func = 0x53 then o.scale1 = 0 else scaleOk o.fmt1 o.scale1) else true) &&
  (if rec_ then o.scaleD = 0 else scaleOk fmtD o.scaleD) &&
  -- second output and single functions
  (!o.dst2 || (hasDst2 o.func && !fmtBlock (ccFmt o.cc2))) &&
  (o.func ≠ 0x10 || o.imm1On || o.fmt1 = 0x12) &&
  (o.func ≠ 0x47 || !fmtReserved (o.imm0 % 32)) && !(o.func = 0x53 && o.imm1On)

/-- The clusters of a VOP or CONV descriptor's parts, or nothing where it is malformed (R148, R159). -/
def vopPlan (cls : Nat) (bs : List Byte) : Option (List Nat) :=
  let o := vopOf bs
  if isElem o.func || isReduce o.func || isRecord o.func then
    if vopOk bs && (cls = 1 || o.func = 0) then some ((upto o.count).map (fun i => o.first + i)) else none
  else none

/-! ### Iteration (R144, R148) -/

/-- The range of i₄ of part `i` (R148). -/
def partRange (n parts i : Nat) : Nat × Nat :=
  let q := n / parts
  let r := n % parts
  let lo := i * q + Nat.min i r
  (lo, lo + q + (if i < r then 1 else 0))

/-- A point of the iteration space. -/
abbrev Pt := List Nat

/-- Points over given ranges of each dimension, dimension 0 fastest. -/
def pointsOf (ranges : List (Nat × Nat)) : List Pt :=
  match ranges with
  | [] => [[]]
  | (lo, hi) :: rest => (pointsOf rest).flatMap (fun t => (upto (hi - lo)).map (fun i => (lo + i) :: t))

/-- The linear index q (R144). -/
def linIdx (counts : List Nat) (pt : Pt) : Nat :=
  match counts, pt with
  | c :: cs, i :: is => i + c * linIdx cs is
  | _, _ => 0

/-- The element offset of a point under strides. -/
def offOf (str : List Int) (pt : Pt) : Int := ((str.zip pt).map (fun c => c.1 * (c.2 : Int))).foldl (· + ·) 0

/-- Counts and positions of the unreduced dimensions (R68). -/
def keepDims {α : Type} (o : Vop) (l : List α) : List α := ((l.zipIdx).filter (fun c => !redBit o c.2)).map (·.1)

/-- The index of a destination element for stochastic rounding (R68). -/
def drawIdx (o : Vop) (pt : Pt) : Nat := linIdx (keepDims o o.counts) (keepDims o pt)

/-- Strides of the destination, those on reduced dimensions ignored (R144). -/
def dstStr (o : Vop) : List Int := (o.strD.zipIdx).map (fun c => if redBit o c.2 then 0 else c.1)

/-- The extent in bytes of a head plane, over the operand's own strides and every dimension, reduced ones included (R506; log 95).
That of a reduction over no points, whose results R144 has written, is 0 too (log 116). -/
def headExtent (counts : List Nat) (str : List Int) : Nat :=
  if counts.any (· = 0) then 0
  else ((2 : Int) * (1 + ((str.zip counts).map (fun (c : Int × Nat) => c.1 * ((c.2 : Int) - 1))).foldl (· + ·) 0)).toNat

/-! ### Reading sources (R143, R147, R152) -/

/-- One source as a part reads it. -/
structure VSrc where
  base : W64
  fmt : Nat
  str : List Int
  tail : Nat
  plane : W64
  tensor : Option Val
  imm : Option Val

/-- The code of an element of a source; a HEADTAIL element as head + 65,536 × tail. -/
def srcCode (r : Requestor) (s : VSrc) (off : Int) : Acc Nat :=
  if s.fmt = 0x0F then do
    let h ← readCode r s.base 16 off
    let t ← readCode r (s.base + BitVec.ofNat 64 s.tail) 16 off
    pure (h + 65536 * t)
  else readCode r s.base (fmtBits s.fmt) off

/-- The exact value of a source at a point (R152): its element with its scale, INVALID for a NaN block scale (R55). -/
def srcVal (r : Requestor) (s : VSrc) (c0 : Nat) (pt : Pt) : Acc Val :=
  match s.imm with
  | some v => pure v
  | none => do
    let off := offOf s.str pt
    let c ← srcCode r s off
    if fmtBlock s.fmt then
      let i0 := pt.getD 0 0
      let row := off / (c0 : Int)
      let sc ← readNat r (addrAt s.plane (row * (ceilDiv c0 32 : Nat) + (i0 / 32 : Nat))) 1
      if sc = 0xFF then
        let b0 := i0 / 32 * 32
        let codes ← ((upto (Nat.min 32 (c0 - b0))).mapM (fun j => srcCode r s (off - (i0 : Int) + ((b0 + j : Nat) : Int))))
        let allZero := codes.all (fun c => (elemVal s.fmt c).isZero)
        if !allZero then addFlags fInvalid
        pure (blockElemVal s.fmt sc allZero c)
      else pure (blockElemVal s.fmt sc false c)
    else
      match s.tensor with
      | some t => pure (timesScale (elemVal s.fmt c) t)
      | none => pure (elemVal s.fmt c)

/-- A source of a descriptor, its per-tensor scale read once. -/
def mkSrc (r : Requestor) (base : W64) (fmt : Nat) (counts : List Nat) (str : List Int) (scale : W64) (imm : Option Val) :
    Acc VSrc := do
  let t ← if imm.isNone && fmtFp8 fmt && scale ≠ 0 then some <$> readScale r scale else pure none
  pure { base, fmt, str, tail := tailOffset (headExtent counts str), plane := scale, tensor := t, imm }

/-- Whether a point is active under the mask (R147). -/
def activeAt (r : Requestor) (o : Vop) (pt : Pt) : Acc Bool :=
  if o.mask = 0 then pure true
  else do
    let q := linIdx o.counts pt
    let b ← readNat r (o.mask + BitVec.ofNat 64 (q / 8)) 1
    pure (natBit b (q % 8) != o.maskInv)

/-! ### Element functions (R151, R152, R155, R157) -/

/-- The first NaN among values. -/
def firstNan : List Val → Option Val
  | [] => none
  | v :: t => if v.isNan then some v else firstNan t

def fl32 (v : Val) : Nat := toF32 v

/-- The factor of a derivative (R157). -/
def derivFactor (f : Nat) (y : Val) : Val :=
  if f = 0x30 then f32 (fl32 (mulV y (f32 (fl32 (addV vOne y.neg)))))
  else if f = 0x31 then f32 (fl32 (addV vOne (mulV y y).neg))
  else if f = 0x32 then (if gtV y vZero then vOne else vZero)
  else if f = 0x33 then f32 (fl32 y)
  else if f = 0x34 then f32 (fl32 (addV vOne (f32 (expE (fl32 y.neg))).neg))
  else if f = 0x35 then f32 (tfn .gelud y)
  else f32 (tfn .silud y)

/-- A derivative's exact product: a NaN operand gives the canonical NaN with its sign (R72, R152, R157); DRELU gives +0 where f = 0. -/
def derivOf (f : Nat) (g y : Val) : Val :=
  if g.isNan then g
  else if y.isNan then y
  else if f = 0x32 && !gtV y vZero then vZero
  else mulV g (derivFactor f y)

/-- The value of an element function before its one conversion; GATHER and SOFTMAX_NORM are formed where they read. -/
def elemFn (f : Nat) (a b c : Val) (imm0 imm1 : Nat) : Val :=
  if f = 0x00 then a
  else if f = 0x01 then a.neg
  else if f = 0x02 then a.abs
  else if f = 0x03 then addV a b
  else if f = 0x04 then subV a b
  else if f = 0x05 then mulV a b
  else if f = 0x06 then (firstNan [a, b, c]).getD (addV (mulV a b) c)
  else if f = 0x07 then
    (firstNan [a, b, f32 imm0, f32 imm1]).getD (addV (mulV a (f32 imm0)) (mulV b (f32 imm1)))
  else if f = 0x08 then divV a b
  else if f = 0x09 then divV vOne a
  else if f = 0x0A then sqrtV a
  else if f = 0x0B then rsqrtV a
  else if f = 0x0C then maxV a b
  else if f = 0x0D then minV a b
  else if f = 0x0E then (firstNan [a, b, c]).getD (if c.isZero then b else a)
  else if f = 0x0F then (firstNan [a, b]).getD (if gtV a b then vOne else vZero)
  else if f = 0x20 then f32 (expE (fl32 a))
  else if f = 0x21 then f32 (tfn .log a)
  else if f = 0x22 then f32 (tfn .tanh a)
  else if f = 0x23 then f32 (tfn .sigmoid a)
  else if f = 0x24 then f32 (tfn .softplus a)
  else if f = 0x25 then (if a.isNan then a else if gtV a vZero then a else vZero)
  else if f = 0x26 then f32 (tfn .gelu a)
  else if f = 0x27 then f32 (tfn .silu a)
  else derivOf f a b

/-- A row-statistics record (R118). -/
structure Rec where
  w0 : Nat
  w1 : Nat
  w2 : Nat
  n : Nat
  deriving DecidableEq, Repr

/-- The record at an element offset. -/
def readRec (r : Requestor) (base : W64) (off : Int) : Acc Rec := do
  let b ← readBytes r (addrAt base (off * 16)) 16
  pure ⟨leAt b 0 4, leAt b 4 4, leAt b 8 4, leAt b 12 4⟩

def recBytes (x : Rec) : List Byte := leBytes 4 x.w0 ++ leBytes 4 x.w1 ++ leBytes 4 x.w2 ++ leBytes 4 x.n

/-- SOFTMAX_NORM of one element with its row's record (R120, R155). An element of -inf gives +0 also where the record holds a NaN
(DESIGN CHOICE, log 119: R152 has a NaN input give a NaN). -/
def softmaxElem (a : Val) (x : Rec) : Val :=
  if x.n = 0 then vZero
  else if a = .inf true then vZero
  else if a.isNan then a
  else
    let m := f32 x.w0
    let e := if eqNum a m then expE 0 else expE (fl32 (plusZero (subV a m)))
    divV (f32 e) (f32 x.w1)

/-! ### Record folds (R154) -/

/-- CMB_ROWSTAT of two records. -/
def foldRowstat (a b : Rec) : Rec :=
  let m := fl32 (maxV (f32 a.w0) (f32 b.w0))
  ⟨m, fadd (fmul a.w1 (expDiff a.w0 m)) (fmul b.w1 (expDiff b.w0 m)), 0, (a.n + b.n) % 2 ^ 32⟩

/-- CMB_SUMSQ of two records. -/
def foldSumsq (a b : Rec) : Rec := ⟨fadd a.w0 b.w0, 0, 0, (a.n + b.n) % 2 ^ 32⟩

/-- A quotient of whole numbers rounded once. -/
def flRatio (a b : Nat) : Nat := fl32 (divV (vInt a) (vInt b))

/-- CMB_WELFORD of two records. -/
def foldWelford (a b : Rec) : Rec :=
  let n := a.n + b.n
  let d := fsub b.w0 a.w0
  let mu := fadd a.w0 (fmul d (flRatio b.n n))
  let m2 := fadd (fadd a.w2 b.w2) (fmul (fmul d d) (flRatio (a.n * b.n) n))
  ⟨mu, fl32 (divV (f32 m2) (vInt n)), m2, n % 2 ^ 32⟩

/-- The empty record of R119. -/
def emptyRec (f : Nat) : Rec :=
  if f = 0x50 then ⟨f32NegInf, 0, 0, 0⟩ else if f = 0x51 then ⟨0, 0, 0, 0⟩ else ⟨f32Nan, f32Nan, 0, 0⟩

def foldOf (f : Nat) : Rec → Rec → Rec :=
  if f = 0x50 then foldRowstat else if f = 0x51 then foldSumsq else foldWelford

/-- A record as its function writes it: no NaN's payload (R52), and unused words zero (R118). -/
def cleanRec (f : Nat) (x : Rec) : Rec :=
  let x := { x with w0 := noPayload x.w0, w1 := noPayload x.w1, w2 := noPayload x.w2 }
  if f = 0x50 then { x with w2 := 0 } else if f = 0x51 then { x with w1 := 0, w2 := 0 } else x

/-- Records folded in order, those whose COUNT is 0 skipped. -/
def foldRecs (f : Nat) (l : List Rec) : Rec :=
  match l.filter (fun x => x.n ≠ 0) with
  | [] => emptyRec f
  | x :: t => cleanRec f (t.foldl (foldOf f) x)

/-! ### Reductions (R153) -/

/-- The terms of lane `l` of 128, in order. -/
def laneTerms {α : Type} (l : Nat) (ts : List α) : List α := ((ts.zipIdx).filter (fun c => c.2 % 128 = l)).map (·.1)

/-- One level of the tree of adjacent neighbours. -/
def treeLevel {α : Type} (f : α → α → α) : List α → List α
  | a :: b :: t => f a b :: treeLevel f t
  | l => l

/-- The pairwise tree of adjacent neighbours, by levels. -/
def treeFold {α : Type} (f : α → α → α) : Nat → List α → List α
  | 0, l => l
  | n + 1, l => treeFold f n (treeLevel f l)

/-- Seven levels over 128 lanes. -/
def laneTree {α : Type} (f : α → α → α) (d : α) (l : List α) : α := (treeFold f 7 l).headD d

/-- Sum or sum of squares (R153). -/
def redSum (sq pair : Bool) (ts : List Val) : Val :=
  let term (v : Val) : Val := if sq then mulV v v else v
  if pair then
    let lane (l : Nat) : Nat := (laneTerms l ts).foldl (fun acc v => pairAdd acc (pairOf (term v))) 0
    pairVal (laneTree pairAdd 0 ((upto 128).map lane))
  else
    let lane (l : Nat) : Nat := (laneTerms l ts).foldl (fun acc v => fl32 (plusZero (addV (f32 acc) (term v)))) 0
    f32 (laneTree fadd 0 ((upto 128).map lane))

/-- One Welford step (R117): count, mean and M2. -/
def welfordStep (s : Nat × Nat × Nat) (x : Val) : Nat × Nat × Nat :=
  let n := s.1 + 1
  let mu := s.2.1
  let d := fl32 (plusZero (subV x (f32 mu)))
  let mu' := fadd mu (fl32 (divV (f32 d) (vInt n)))
  let m2 := fadd s.2.2 (fmul d (fl32 (plusZero (subV x (f32 mu')))))
  (n, mu', m2)

/-- Welford over values (R117): the record. -/
def welfordRec (ts : List Val) : Rec :=
  let (n, mu, m2) := ts.foldl welfordStep (0, 0, 0)
  if n = 0 then emptyRec 0x52 else ⟨mu, fl32 (divV (f32 m2) (vInt n)), m2, n⟩

/-- RWELF: lanes by R117, combined by R154, empty lanes skipped. -/
def redWelford (ts : List Val) : Rec :=
  let comb (a b : Rec) : Rec := if b.n = 0 then a else if a.n = 0 then b else foldWelford a b
  laneTree comb (emptyRec 0x52) ((upto 128).map (fun l => welfordRec (laneTerms l ts)))

/-- Whether a non-zero finite value converts to zero in a format under a per-tensor scale (RUNDER, R151). -/
def flushes (fmt scale : Nat) (v : Val) : Bool :=
  v.isFinite && !v.isZero &&
    (match overScale v (f32 scale) with
     | .num n m e => m = 0 || (elemVal fmt (convertTo fmt .near false (.num n m e)).1).isZero
     | _ => false)

/-- The result of a reduction over its active values, in order, and its second output. -/
def redFn (o : Vop) (ts : List Val) : Val × Val :=
  let cnt := vInt ts.length
  if o.func = 0x40 then (redSum false o.pair ts, cnt)
  else if o.func = 0x41 then (redSum true o.pair ts, cnt)
  else if o.func = 0x42 then (ts.foldl maxV (.inf true), cnt)
  else if o.func = 0x43 then (ts.foldl minV (.inf false), cnt)
  else if o.func = 0x44 then (cnt, cnt)
  else if o.func = 0x45 then
    let x := redWelford ts
    (f32 x.w0, f32 x.w1)
  else if o.func = 0x46 then
    let fin := ts.filter Val.isFinite
    ((fin.map Val.abs).foldl maxV vZero, vInt (ts.length - fin.length))
  else (vInt (ts.filter (flushes (o.imm0 % 32) o.imm1)).length, cnt)

/-! ### Writing a destination (R144, R147) -/

/-- Where a destination lies. -/
structure VDst where
  base : W64
  cc : Nat
  tail : Nat
  plane : W64
  tensor : Option Val

/-- One scalar element converted and written. -/
def putScalar (r : Requestor) (t : VDst) (rd : Rnd) (off : Int) (v : Val) : Acc Unit := do
  let v := match t.tensor with
    | some s => overScale v s
    | none => v
  let (c, f) := convertTo (ccFmt t.cc) rd (ccIeee t.cc) v
  addFlags f
  if ccFmt t.cc = 0x0F then
    writeCode r t.base 16 off (c % 65536)
    writeCode r (t.base + BitVec.ofNat 64 t.tail) 16 off (c / 65536)
  else writeCode r t.base (fmtBits (ccFmt t.cc)) off c

/-- One block of a run written whole where any of its points is active (R147): `vals` from element `i0` on. -/
def putBlock (r : Requestor) (t : VDst) (c0 : Nat) (off : Int) (i0 : Nat) (vals : List (Option Val × Rnd)) : Acc Unit := do
  if vals.any (fun c => c.1.isSome) then
    let fmt := ccFmt t.cc
    let bits := fmtBits fmt
    let o := off + (i0 : Int)
    let sa := addrAt t.plane (off / (c0 : Int) * (ceilDiv c0 32 : Nat) + (i0 / 32 : Nat))
    let old ←
      if vals.all (fun c => c.1.isSome) then pure []
      else do
        let codes ← (upto vals.length).mapM (fun (j : Nat) => readCode r t.base bits (o + (j : Int)))
        let (vs, f) := blockRead fmt (← readNat r sa 1) codes
        addFlags f
        pure vs
    let src := (vals.zipIdx).map (fun c => (c.1.1.getD (old.getD c.2 vZero), c.1.2))
    let (sc, codes, f) := blockWrite fmt src
    addFlags f
    writeNat r sa 1 sc
    if bits < 8 then writeRun r t.base bits o (codes.map some)
    else for (c, j) in codes.zipIdx do
      writeCode r t.base bits (o + (j : Int)) c

/-- Sublists of at most 32, with their starts. -/
def blocksOf {α : Type} (l : List α) : List (Nat × List α) :=
  (upto (ceilDiv l.length 32)).map (fun b => (32 * b, (l.drop (32 * b)).take 32))

/-- The requester of a run whose elements are all written: its transfers cover the run's bytes in every plane (R237, R257). -/
def runReq (r : Requestor) (t : VDst) (c0 : Nat) (off step : Int) (vals : List (Option Val × Rnd)) : Requestor :=
  let fmt := ccFmt t.cc
  let n := vals.length
  if !(vals.all (fun c => c.1.isSome)) then r
  else if fmtBlock fmt then
    let sa := addrAt t.plane (off / (c0 : Int) * (ceilDiv c0 32 : Nat))
    runSpan (runSpan r t.base (fmtBits fmt) off n) sa 8 0 (ceilDiv n 32)
  else if step ≠ 1 then r
  else if fmt = 0x0F then runSpan (runSpan r t.base 16 off n) (t.base + BitVec.ofNat 64 t.tail) 16 off n
  else runSpan r t.base (fmtBits fmt) off n

/-- A run of results along dimension 0 written: values from element offset `off`, `step` elements apart. -/
def putRun (r : Requestor) (t : VDst) (c0 : Nat) (off step : Int) (vals : List (Option Val × Rnd)) : Acc Unit := do
  let fmt := ccFmt t.cc
  let r := runReq r t c0 off step vals
  if fmtBlock fmt then
    for (i0, blk) in blocksOf vals do
      putBlock r t c0 off i0 blk
  else if fmtBits fmt < 8 then
    let outs := vals.map (fun c => c.1.map (fun v => convertTo fmt c.2 (ccIeee t.cc) v))
    addFlags (outs.foldl (fun a c => Flags.join a ((c.map (·.2)).getD fNone)) fNone)
    writeRun r t.base (fmtBits fmt) off (outs.map (fun c => c.map (·.1)))
  else
    for (c, j) in vals.zipIdx do
      match c.1 with
      | some v => putScalar r t c.2 (off + (j : Int) * step) v
      | none => pure ()

/-! ### A part (R144 to R155) -/

/-- Runs of results of a part: the unreduced points with dimension 0 at its start (or at 0, where it is reduced). -/
def resultRuns (o : Vop) (lo hi : Nat) : List Pt :=
  let rng (d : Nat) : Nat × Nat :=
    if redBit o d || d = 0 then (0, 1) else if d = 4 then (lo, hi) else (0, o.counts.getD d 0)
  pointsOf ((upto 5).map rng)

/-- Elements along dimension 0 of a run of results. -/
def runLen (o : Vop) : Nat := if redBit o 0 then 1 else o.counts.getD 0 0

/-- The iteration space holds no result: some unreduced count is 0 (R144). -/
def noResult (o : Vop) : Bool := (upto 5).any (fun d => !redBit o d && o.counts.getD d 0 = 0)

/-- Bytes of a part's destination in one plane of elements. -/
def dstRuns (o : Vop) (base : W64) (cc : Nat) (lo hi : Nat) : Runs :=
  let fmt := ccFmt cc
  let rec_ := isRecord o.func
  if noResult o then []
  else
    (resultRuns o lo hi).flatMap (fun pt =>
      let off := offOf (dstStr o) pt
      if rec_ then [(addrAt base (off * 16), 16)]
      else if fmtBits fmt < 8 then
        let per : Int := if fmtBits fmt = 4 then 2 else 4
        let grp : Int := if fmtBits fmt = 4 then 1 else 3
        [(addrAt base (off / per * grp), runBytes (fmtBits fmt) (runLen o))]
      else
        let n := fmtBits fmt / 8
        (upto (runLen o)).map (fun (j : Nat) => (addrAt base ((off + (j : Int) * (dstStr o).getD 0 0) * (n : Int)), n)))

/-- Bytes of a part's destination in all its planes, elements, tails (R506) and block scales (R54): what a failed part leaves
undefined (R310), and what a version's tile coverage counts (R228). -/
def planeRuns (o : Vop) (t : VDst) (lo hi : Nat) : Runs :=
  let fmt := ccFmt t.cc
  let c0 := o.counts.getD 0 0
  dstRuns o t.base t.cc lo hi ++
  (if isRecord o.func || noResult o then []
   else if fmt = 0x0F then dstRuns o (t.base + BitVec.ofNat 64 t.tail) t.cc lo hi
   else if fmtBlock fmt then
    (resultRuns o lo hi).map (fun pt =>
      (addrAt t.plane (offOf (dstStr o) pt / (c0 : Int) * (ceilDiv c0 32 : Nat)), ceilDiv (runLen o) 32))
   else [])

/-- The two destinations of a VOP or CONV, the second where there is one; `tensor` is the first one's scale (R59). -/
def vopDsts (x : Desc) (r : Requestor) (o : Vop) (tensor : Option Val) : VDst × Option VDst :=
  let t : VDst :=
    { base := slotAddr x r 3, cc := o.cc, tail := tailOffset (headExtent o.counts o.strD), plane := o.scaleD, tensor := tensor }
  let t2 : VDst := { base := BitVec.ofNat 64 (fieldOf x 48 8), cc := o.cc2, tail := t.tail, plane := 0, tensor := none }
  (t, if o.dst2 then some t2 else none)

/-- Everything a VOP or CONV part reads and writes with, set up. -/
def vopPart (x : Desc) (core lo hi : Nat) (go : Requestor → Vop → VDst → Option VDst → Acc Unit) : Acc Unit := do
  let o := vopOf x.bytes
  if noResult o || (hi ≤ lo && !redBit o 4) then pure ()
  else
    let r ← reqOf x { ctx := x.ctx, core := some core } [3]
    let (d, d2) := vopDsts x r o none
    for (a, n) in planeRuns o d lo hi ++ (d2.map (fun t => planeRuns o t lo hi)).getD [] do markDest r a n
    let tensor ← if fmtFp8 (ccFmt o.cc) && o.scaleD ≠ 0 then some <$> readScale r o.scaleD else pure none
    let (t, t2) := vopDsts x r o tensor
    go r o t t2

/-- The inputs of a descriptor's draws (R68). -/
def drawOf (w : Work) (x : Desc) : Draw :=
  { seed := (getCtx w.dev x.ctx).seed, stream := BitVec.ofNat 32 (fieldOf x 4 4), step := x.step }

/-- The three sources (R142, R143). -/
def vopSources (x : Desc) (r : Requestor) (o : Vop) : Acc (VSrc × VSrc × VSrc) := do
  let s0 ← mkSrc r (slotAddr x r 0) o.fmt0 o.counts o.str0 o.scale0 none
  let s1 ← mkSrc r (slotAddr x r 1) o.fmt1 o.counts o.str1 o.scale1
    (if o.imm1On && readsB o.func then some (f32 o.imm0) else if readsB o.func then none else some vZero)
  let s2 ← mkSrc r (slotAddr x r 2) o.fmt2 o.counts o.str0 0
    (if o.imm2On && readsC o.func then some (f32 o.imm1) else if readsC o.func then none else some vZero)
  pure (s0, s1, s2)

/-- GATHER at a point (R151): an index out of range gives +0 and INVALID. -/
def gatherAt (r : Requestor) (o : Vop) (s0 s1 : VSrc) (pt : Pt) : Acc Val := do
  let c0 := o.counts.getD 0 0
  let b : Int ← if o.imm1On then pure (signed32 o.imm0) else do
    let c ← srcCode r s1 (offOf s1.str pt)
    pure (signed32 c)
  if 0 ≤ b ∧ b < (c0 : Int) then srcVal r s0 c0 (b.toNat :: pt.drop 1)
  else do
    addFlags fInvalid
    pure vZero

/-- A part of an element function. SOFTMAX_NORM follows the strides given for its second source, so that a non-zero first
stride reads one record per element (DESIGN CHOICE, log 110: R155 states that stride as 0 and R159 lists no check). -/
def vopElem (x : Desc) (core lo hi : Nat) : Acc Unit :=
  vopPart x core lo hi fun r o t _ => do
    let (s0, s1, s2) ← vopSources x r o
    let dr := drawOf (← get) x
    let c0 := o.counts.getD 0 0
    for base in resultRuns o lo hi do
      let vals ← (upto c0).mapM (fun i => do
        let pt := i :: base.drop 1
        if ← activeAt r o pt then
          let v ←
            if o.func = 0x10 then gatherAt r o s0 s1 pt
            else if o.func = 0x53 then do
              let a ← srcVal r s0 c0 pt
              let rec_ ← readRec r s1.base (offOf s1.str pt)
              if rec_.n = 0 then addFlags fEmpty
              pure (softmaxElem a rec_)
            else do
              let a ← srcVal r s0 c0 pt
              let b ← srcVal r s1 c0 pt
              let c ← srcVal r s2 c0 pt
              pure (elemFn o.func a b c o.imm0 o.imm1)
          pure (some v, rndOf o.cc dr (drawIdx o pt))
        else pure (none, rndOf o.cc dr (drawIdx o pt)))
      putRun r t c0 (offOf (dstStr o) base) ((dstStr o).getD 0 0) vals

/-- The points over which one result is reduced, in increasing linear index (R153). -/
def reducedPoints (o : Vop) (u : Pt) : List Pt :=
  pointsOf ((upto 5).map (fun d => if redBit o d then (0, o.counts.getD d 0) else (u.getD d 0, u.getD d 0 + 1)))

/-- Active values of a reduction's points. -/
def activeVals (r : Requestor) (o : Vop) (s0 : VSrc) (pts : List Pt) : Acc (List Val) := do
  let vs ← pts.mapM (fun pt => do
    if ← activeAt r o pt then some <$> srcVal r s0 (o.counts.getD 0 0) pt else pure none)
  pure (vs.filterMap id)

/-- RUNDER into a block-scaled format (R151): how many of the given points a block write would flush. -/
def blockFlushes (r : Requestor) (o : Vop) (s0 : VSrc) (pts : List Pt) : Acc Nat := do
  let c0 := o.counts.getD 0 0
  let hits ← pts.mapM (fun pt => do
    if ← activeAt r o pt then
      let b0 := pt.getD 0 0 / 32 * 32
      let blk ← (upto (Nat.min 32 (c0 - b0))).mapM (fun j => do
        let q := (b0 + j) :: pt.drop 1
        if ← activeAt r o q then srcVal r s0 c0 q else pure vZero)
      let v := blk.getD (pt.getD 0 0 - b0) vZero
      let (_, codes, _) := blockWrite (o.imm0 % 32) (blk.map (fun v => (v, Rnd.near)))
      pure (b2n (v.isFinite && !v.isZero && (elemVal (o.imm0 % 32) (codes.getD (pt.getD 0 0 - b0) 0)).isZero))
    else pure 0)
  pure (hits.foldl (· + ·) 0)

/-- A part of a reduction. -/
def vopReduce (x : Desc) (core lo hi : Nat) : Acc Unit :=
  vopPart x core lo hi fun r o t t2 => do
    let (s0, _, _) ← vopSources x r o
    let dr := drawOf (← get) x
    for base in resultRuns o lo hi do
      let outs ← (upto (runLen o)).mapM (fun i => do
        let u := i :: base.drop 1
        let pts := reducedPoints o u
        let vs ← activeVals r o s0 pts
        if vs.isEmpty then addFlags fEmpty
        let (a, b) ←
          if o.func = 0x47 && fmtBlock (o.imm0 % 32) then do
            let n ← blockFlushes r o s0 pts
            pure (vInt n, vZero)
          else pure (redFn o vs)
        pure (a, b, drawIdx o u))
      let put (t : VDst) (vals : List (Val × Nat)) : Acc Unit :=
        putRun r t (o.counts.getD 0 0) (offOf (dstStr o) base) ((dstStr o).getD 0 0)
          (vals.map (fun c => (some c.1, rndOf t.cc dr c.2)))
      put t (outs.map (fun c => (c.1, c.2.2)))
      match t2 with
      | some t2 => put t2 (outs.map (fun c => (c.2.1, c.2.2)))
      | none => pure ()

/-- A part of a record function (R154). An inactive point's record takes no part. -/
def vopRecord (x : Desc) (core lo hi : Nat) : Acc Unit :=
  vopPart x core lo hi fun r o t _ => do
    let base0 := slotAddr x r 0
    for base in resultRuns o lo hi do
      let recs ← (reducedPoints o base).mapM (fun pt => do
        if ← activeAt r o pt then some <$> readRec r base0 (offOf o.str0 pt) else pure none)
      let out := foldRecs o.func (recs.filterMap id)
      if out.n = 0 && !(recs.filterMap id).any (fun x => x.n ≠ 0) then addFlags fEmpty
      writeBytes r (addrAt t.base (offOf (dstStr o) base * 16)) (recBytes out)

/-- A vector part of a descriptor, by its function. -/
def vopBody (x : Desc) (q : Part) (p : Nat) : Acc Unit := do
  countSteps x.ctx 8
  let o := vopOf x.bytes
  let (lo, hi) := partRange (o.counts.getD 4 0) o.count p
  if isReduce o.func then vopReduce x q.unit lo hi
  else if isRecord o.func then vopRecord x q.unit lo hi
  else vopElem x q.unit lo hi

/-- A VOP part of one function, run where it is its turn. -/
def vopRun (func d p : Nat) (w : Work) : Work :=
  match ready w.dev d p 1 with
  | some (x, q) => if (vopOf x.bytes).func = func then runPart d p (vopBody x q p) w else w
  | none => w

/-- A CONV part (R156). -/
def convRun (d p : Nat) (w : Work) : Work :=
  match ready w.dev d p 2 with
  | some (x, q) => runPart d p (vopBody x q p) w
  | none => w

/-! ### Meanings -/

/-- MOV (R151). -/
def execMov (d p : Nat) (s : State) : Host.Outcome State Fault Refusal := runWork (vopRun 0x00 d p) s
/-- NEG (R151). -/
def execNeg (d p : Nat) (s : State) : Host.Outcome State Fault Refusal := runWork (vopRun 0x01 d p) s
/-- ABS (R151). -/
def execAbs (d p : Nat) (s : State) : Host.Outcome State Fault Refusal := runWork (vopRun 0x02 d p) s
/-- ADD (R151). -/
def execAdd (d p : Nat) (s : State) : Host.Outcome State Fault Refusal := runWork (vopRun 0x03 d p) s
/-- SUB (R151). -/
def execSub (d p : Nat) (s : State) : Host.Outcome State Fault Refusal := runWork (vopRun 0x04 d p) s
/-- MUL (R151). -/
def execMul (d p : Nat) (s : State) : Host.Outcome State Fault Refusal := runWork (vopRun 0x05 d p) s
/-- FMA (R151). -/
def execFma (d p : Nat) (s : State) : Host.Outcome State Fault Refusal := runWork (vopRun 0x06 d p) s
/-- AXPBY (R151). -/
def execAxpby (d p : Nat) (s : State) : Host.Outcome State Fault Refusal := runWork (vopRun 0x07 d p) s
/-- DIV (R151). -/
def execDiv (d p : Nat) (s : State) : Host.Outcome State Fault Refusal := runWork (vopRun 0x08 d p) s
/-- RECIP (R151). -/
def execRecip (d p : Nat) (s : State) : Host.Outcome State Fault Refusal := runWork (vopRun 0x09 d p) s
/-- SQRT (R151). -/
def execSqrt (d p : Nat) (s : State) : Host.Outcome State Fault Refusal := runWork (vopRun 0x0A d p) s
/-- RSQRT (R151). -/
def execRsqrt (d p : Nat) (s : State) : Host.Outcome State Fault Refusal := runWork (vopRun 0x0B d p) s
/-- MAX (R151). -/
def execMax (d p : Nat) (s : State) : Host.Outcome State Fault Refusal := runWork (vopRun 0x0C d p) s
/-- MIN (R151). -/
def execMin (d p : Nat) (s : State) : Host.Outcome State Fault Refusal := runWork (vopRun 0x0D d p) s
/-- SELECT (R151). -/
def execSelect (d p : Nat) (s : State) : Host.Outcome State Fault Refusal := runWork (vopRun 0x0E d p) s
/-- CMPGT (R151). -/
def execCmpgt (d p : Nat) (s : State) : Host.Outcome State Fault Refusal := runWork (vopRun 0x0F d p) s
/-- GATHER (R151). -/
def execVopGather (d p : Nat) (s : State) : Host.Outcome State Fault Refusal := runWork (vopRun 0x10 d p) s
/-- EXP (R151). -/
def execExp (d p : Nat) (s : State) : Host.Outcome State Fault Refusal := runWork (vopRun 0x20 d p) s
/-- LOG (R151). -/
def execLog (d p : Nat) (s : State) : Host.Outcome State Fault Refusal := runWork (vopRun 0x21 d p) s
/-- TANH (R151). -/
def execTanh (d p : Nat) (s : State) : Host.Outcome State Fault Refusal := runWork (vopRun 0x22 d p) s
/-- SIGMOID (R151). -/
def execSigmoid (d p : Nat) (s : State) : Host.Outcome State Fault Refusal := runWork (vopRun 0x23 d p) s
/-- SOFTPLUS (R151). -/
def execSoftplus (d p : Nat) (s : State) : Host.Outcome State Fault Refusal := runWork (vopRun 0x24 d p) s
/-- RELU (R151). -/
def execRelu (d p : Nat) (s : State) : Host.Outcome State Fault Refusal := runWork (vopRun 0x25 d p) s
/-- GELU (R151). -/
def execGelu (d p : Nat) (s : State) : Host.Outcome State Fault Refusal := runWork (vopRun 0x26 d p) s
/-- SILU (R151). -/
def execSilu (d p : Nat) (s : State) : Host.Outcome State Fault Refusal := runWork (vopRun 0x27 d p) s
/-- DSIGMOID (R157). -/
def execDsigmoid (d p : Nat) (s : State) : Host.Outcome State Fault Refusal := runWork (vopRun 0x30 d p) s
/-- DTANH (R157). -/
def execDtanh (d p : Nat) (s : State) : Host.Outcome State Fault Refusal := runWork (vopRun 0x31 d p) s
/-- DRELU (R157). -/
def execDrelu (d p : Nat) (s : State) : Host.Outcome State Fault Refusal := runWork (vopRun 0x32 d p) s
/-- DEXP (R157). -/
def execDexp (d p : Nat) (s : State) : Host.Outcome State Fault Refusal := runWork (vopRun 0x33 d p) s
/-- DSOFTPLUS (R157). -/
def execDsoftplus (d p : Nat) (s : State) : Host.Outcome State Fault Refusal := runWork (vopRun 0x34 d p) s
/-- DGELU (R157). -/
def execDgelu (d p : Nat) (s : State) : Host.Outcome State Fault Refusal := runWork (vopRun 0x35 d p) s
/-- DSILU (R157). -/
def execDsilu (d p : Nat) (s : State) : Host.Outcome State Fault Refusal := runWork (vopRun 0x36 d p) s
/-- RSUM (R153). -/
def execRsum (d p : Nat) (s : State) : Host.Outcome State Fault Refusal := runWork (vopRun 0x40 d p) s
/-- RSUMSQ (R153). -/
def execRsumsq (d p : Nat) (s : State) : Host.Outcome State Fault Refusal := runWork (vopRun 0x41 d p) s
/-- RMAX (R153). -/
def execRmax (d p : Nat) (s : State) : Host.Outcome State Fault Refusal := runWork (vopRun 0x42 d p) s
/-- RMIN (R153). -/
def execRmin (d p : Nat) (s : State) : Host.Outcome State Fault Refusal := runWork (vopRun 0x43 d p) s
/-- RCOUNT (R153). -/
def execRcount (d p : Nat) (s : State) : Host.Outcome State Fault Refusal := runWork (vopRun 0x44 d p) s
/-- RWELF (R153). -/
def execRwelf (d p : Nat) (s : State) : Host.Outcome State Fault Refusal := runWork (vopRun 0x45 d p) s
/-- AMAX (R153). -/
def execAmax (d p : Nat) (s : State) : Host.Outcome State Fault Refusal := runWork (vopRun 0x46 d p) s
/-- RUNDER (R153). -/
def execRunder (d p : Nat) (s : State) : Host.Outcome State Fault Refusal := runWork (vopRun 0x47 d p) s
/-- CMB_ROWSTAT (R154). -/
def execCmbRowstat (d p : Nat) (s : State) : Host.Outcome State Fault Refusal := runWork (vopRun 0x50 d p) s
/-- CMB_SUMSQ (R154). -/
def execCmbSumsq (d p : Nat) (s : State) : Host.Outcome State Fault Refusal := runWork (vopRun 0x51 d p) s
/-- CMB_WELFORD (R154). -/
def execCmbWelford (d p : Nat) (s : State) : Host.Outcome State Fault Refusal := runWork (vopRun 0x52 d p) s
/-- SOFTMAX_NORM (R155). -/
def execSoftmaxNorm (d p : Nat) (s : State) : Host.Outcome State Fault Refusal := runWork (vopRun 0x53 d p) s
/-- CONV (R156). -/
def execConv (d p : Nat) (s : State) : Host.Outcome State Fault Refusal := runWork (convRun d p) s

end Sys2Proof.Machine
end

