-- ==== Sys2Proof/Machine/Coll.lean ====
section
/-! DEFINITION. Collectives (R349 to R365): the COLL descriptor, headers, credits and mismatches, the reduction tree,
gathers, PERMUTE, and how a collective's parts end. -/

namespace Sys2Proof.Machine

open Sys2Proof

/-! ### The COLL descriptor (R351, R359, R365) -/

structure Coll where
  src : W64
  dst : W64
  scale : W64
  work : W64
  aux : W64
  auxOut : W64
  timeout : Nat
  count : Nat
  slots : Nat
  windows : Nat
  root : Nat
  op : Nat
  group : Nat
  fmt : Nat
  cc : Nat
  trailer : Bool
  deriving DecidableEq, Repr

def collOf (bs : List Byte) : Coll :=
  let a (o : Nat) : W64 := BitVec.ofNat 64 (leAt bs o 8)
  { src := a 16, dst := a 24, scale := a 32, work := a 40, aux := a 48, auxOut := a 56, timeout := leAt bs 64 8
    count := leAt bs 72 4, slots := leAt bs 76 4, windows := leAt bs 80 2, root := leAt bs 82 2, op := leAt bs 84 1 % 8
    group := leAt bs 85 1, fmt := leAt bs 86 1 % 32, cc := leAt bs 87 1, trailer := natBit (leAt bs 88 1) 0 }

/-- ALLREDUCE and REDUCESCATTER. -/
def Coll.reduces (o : Coll) : Bool := decide (o.op < 2)

/-- Format pairs of ALLGATHER and BROADCAST (R359). -/
def gatherPairOk (fs fd : Nat) : Bool :=
  (fs = 0x00 && fd = 0x00) || (fs = 0x12 && fd = 0x12) ||
    ((fs = 0x01 || fs = 0x09 || fs = 0x0A) && (fd = 0x01 || fd = 0x00))

/-- Checks of R365 that need neither the group nor a translation: formats, and fields that the operation does not use. -/
def collOk (bs : List Byte) : Bool :=
  let o := collOf bs
  let red := o.reduces
  let perm : Bool := o.op = 4
  let gat : Bool := o.op = 2 || o.op = 3
  decide (leAt bs 84 1 < 8) && decide (leAt bs 86 1 < 32) && decide (leAt bs 88 1 < 2) &&
  (bs.drop 89).all (fun b => b = 0) && decide (o.op < 5) &&
  [16, 24, 32, 40, 48, 56].all (fun a => leAt bs a 8 % 64 = 0) &&
  (!red || (o.fmt = 0x00 && ccFmt o.cc = 0x00 && ccRound o.cc = 0)) &&
  (!gat || (gatherPairOk o.fmt (ccFmt o.cc) && ccRound o.cc = 0 && !ccIeee o.cc)) &&
  (!perm || (o.fmt = 0 && o.cc = 0)) &&
  (if gat && fmtBlock o.fmt then o.count % 32 = 0 else o.scale = 0) &&
  (gat || perm || !o.trailer || (o.aux ≠ 0 && o.auxOut ≠ 0)) &&
  (red || !o.trailer) && (red || perm || (o.work = 0 && o.aux = 0)) && (o.trailer || o.auxOut = 0) &&
  (o.op = 3 || o.root = 0) &&
  (if perm then o.src = o.dst && o.count % 64 = 0 && o.slots ≠ 0 && o.windows ≠ 0 else o.slots = 0 && o.windows = 0)

/-- A group of a charge slot or worker link may be named only while that pairing is PAIRED (R390). -/
def pairedOk (v : Dev) (gno : Nat) : Bool :=
  v.mould.pairs.all (fun q => q.state = 0 || q.state = 2 || q.group.toNat ≠ gno)

/-- Checks of R365 on the group: enabled, owned by the context, the root within it, and what a CHECK group may carry. -/
def collGroupOk (v : Dev) (ctx : Nat) (o : Coll) : Bool :=
  let g := getGroup v o.group
  g.enable && g.ctx.toNat = ctx && pairedOk v o.group && (o.op ≠ 3 || decide (o.root < g.record.members)) &&
  (!g.kind || (o.op = 2 && decide (o.count * fmtBits o.fmt / 8 ≤ 4096))) &&
  -- a member that contributes from a block-scaled source names its scale plane
  (!(fmtBlock o.fmt && (o.op = 2 || (o.op = 3 && o.root = g.record.ownRank))) || o.scale ≠ 0)

/-- Bytes of workspace that a reduction needs (R356). -/
def collWork (n : Nat) : Nat := 32768 * (clog2 n + 1)

/-- The ports of a group's mask that are up, in increasing number (R352). -/
def groupPorts (v : Dev) (g : Group) : List Nat :=
  (if g.kind then sidePorts v else ordinaryPorts v).filter (fun p => g.record.portMask.getLsbD p)

/-! ### Members (R347, R350) -/

/-- Ranks of a group but this member's own. -/
def otherRanks (g : Group) : List Nat := (upto g.record.members).filter (fun k => k ≠ g.record.ownRank)

def memberOf (g : Group) (k : Nat) : GroupEntry := g.record.entries.getD k ⟨0, 0, 0, 0⟩

/-- A member has failed since the group was enabled, or is not what its entry says (R350). -/
def memberBad (v : Dev) (g : Group) (k : Nat) : Bool :=
  let e := memberOf g k
  g.lost.contains k ||
    (if g.kind then !(v.fab.twinState = 1 || v.fab.twinState = 2) || v.fab.twinIncarn ≠ e.incarn
     else
      let m := getMember v e.node.toNat
      !(m.state = 1 || m.state = 2) || m.incarn ≠ e.incarn)

/-- A message to a member of a group. -/
def toMember (gno : Nat) (g : Group) (k : Nat) (bodies : List FabMsg) (v : Dev) : Option Dev :=
  if bodies.isEmpty then some v
  else sendMsg gno (memberOf g k).node.toNat g.record.portMask bodies v

/-- A message to each of some ranks; nothing if one of them has failed or cannot be reached. -/
def toMembers (gno : Nat) (g : Group) (ranks : List Nat) (bodies : Nat → List FabMsg) (v : Dev) : Option Dev :=
  ranks.foldl (fun o k =>
    match o with
    | none => none
    | some v => if memberBad v g k then none else toMember gno g k (bodies k) v) (some v)

/-- Bytes as data frames of a collective (R334, R335). -/
def dataFrames (rg : Byte) (rank seq phase base : Nat) (bs : List Byte) : List FabMsg :=
  (upto (ceilDiv bs.length 256)).map (fun i => .collData rg rank seq phase (base + 256 * i) ((bs.drop (256 * i)).take 256))

/-- Payload bytes that a context's parts have sent (R461). -/
def countTx (ctx : Nat) (ms : List FabMsg) (v : Dev) : Dev := ctrAdd ctx 14 (ms.map msgBytes).sum v

/-- The bytes of one kind that have arrived from a rank, once all of them have. -/
def rxBytes (g : Group) (rank seq phase base len : Nat) : Option (List Byte) :=
  (upto (ceilDiv len 256)).foldr (fun i acc =>
    match acc, g.rx.find? (fun r => r.rank = rank && r.seq = seq && r.phase = phase && r.offset = base + 256 * i) with
    | some bs, some r => some (r.bytes ++ bs)
    | _, _ => none) (some [])

/-! ### What a collective keeps -/

/-- Bytes of DST_ADDR that a collective writes on this member (R353, R359, R363). -/
def collDest (o : Coll) (g : Group) : Nat :=
  let n := g.record.members
  if o.op = 0 then 4 * o.count
  else if o.op = 1 then 4 * (o.count / n + (if g.record.ownRank < o.count % n then 1 else 0))
  else if o.op = 4 then o.slots * o.count
  else fmtBits (ccFmt o.cc) / 8 * o.count * (if o.op = 2 then n else 1)

/-- What arrived for a collective is dropped when it ends. -/
def collForget (gno seq : Nat) (v : Dev) : Dev :=
  modGroup gno (fun g => { g with
    rx := g.rx.filter (fun r => r.seq ≠ seq), headers := g.headers.filter (fun h => h.2.seq ≠ seq)
    credits := g.credits.filter (fun c => c.2.1 ≠ seq), mismatches := g.mismatches.filter (fun s => s ≠ seq) }) v

/-! ### Segments and parts (R335, R344, R352) -/

/-- Segments of 4,096 bytes of `n` bytes, and the length of one of them. -/
def segsOf (n : Nat) : Nat := ceilDiv n 4096
def segLen (n s : Nat) : Nat := Nat.min 4096 (n - 4096 * s)

/-- The part that carries segment `s` of the data exchanged with a rank: that of the port which R344 dealt it to at the fetch, and
of this member's own chunk that of the port whose engine folds it (R352, R357; log 60). -/
def segPart (x : Desc) (k s : Nat) : Nat :=
  match (x.coll.map (fun c => c.deal.getD k [])).getD [] with
  | [] => s % Nat.max 1 x.parts.length
  | j :: js => (j :: js).getD (s % (js.length + 1)) j

/-- For each rank the parts whose ports R344 deals the segments to it to, in turn; a port that is no part's counts by its place
(log 60). -/
def partDeal (v : Dev) (g : Group) (ports : List Nat) : List (List Nat) :=
  (upto g.record.members).map (fun k =>
    if k = g.record.ownRank then []
    else ((portsTo v (memberOf g k).node.toNat g.record.portMask).zipIdx).map (fun c =>
      (ports.idxOf? c.1).getD (c.2 % Nat.max 1 ports.length)))

/-- The first element and the length of chunk k. -/
def chunkOf (count n k : Nat) : Nat × Nat :=
  (k * (count / n) + Nat.min k (count % n), count / n + (if k < count % n then 1 else 0))

/-- Bytes of rank k's chunk, and of a contribution's codes. -/
def chunkBytes (o : Coll) (g : Group) (k : Nat) : Nat := 4 * (chunkOf o.count g.record.members k).2
def srcBytes (o : Coll) : Nat := o.count * fmtBits o.fmt / 8

/-- Ranks that this member sends its contribution to. -/
def sendRanks (o : Coll) (g : Group) : List Nat :=
  if o.op = 3 && o.root ≠ g.record.ownRank then [] else if o.op = 4 then [] else otherRanks g

/-- Ranks that contribute to what this member writes. -/
def sourceRanks (o : Coll) (g : Group) : List Nat := if o.op = 3 then [o.root] else upto g.record.members

/-- The segments that this member writes at its destination, by the rank they come from: the sums of that rank's chunk, or its
contribution. -/
def recvSegs (o : Coll) (g : Group) : List (Nat × Nat) :=
  if o.op = 4 then []
  else if o.op = 1 then (upto (segsOf (chunkBytes o g g.record.ownRank))).map (fun s => (g.record.ownRank, s))
  else (sourceRanks o g).flatMap (fun k => (upto (segsOf (if o.op = 0 then chunkBytes o g k else srcBytes o))).map (fun s => (k, s)))

/-- The segments that this member sends, by kind (0 contributions, 3 sums) and rank. -/
def segsSent (o : Coll) (g : Group) : List (Nat × Nat × Nat) :=
  let parcels (phase n k : Nat) : List (Nat × Nat × Nat) := (upto (segsOf n)).map (fun s => (phase, k, s))
  if o.reduces then
    (otherRanks g).flatMap (fun k => parcels 0 (chunkBytes o g k) k) ++
      (if o.op = 0 then (otherRanks g).flatMap (parcels 3 (chunkBytes o g g.record.ownRank)) else [])
  else (sendRanks o g).flatMap (parcels 0 (srcBytes o))

/-- Where a segment goes in the destination, and its bytes there. -/
def destAt (o : Coll) (g : Group) (k s : Nat) : Nat × Nat :=
  if o.op = 0 then (4 * (chunkOf o.count g.record.members k).1 + 4096 * s, segLen (chunkBytes o g k) s)
  else if o.op = 1 then (4096 * s, segLen (chunkBytes o g k) s)
  else
    let m := fmtBits o.fmt / 8
    let n := fmtBits (ccFmt o.cc) / 8
    ((if o.op = 2 then k * (n * o.count) else 0) + 4096 * s / m * n, segLen (srcBytes o) s / m * n)

/-- A segment has been sent. -/
def CollRun.hasSent (c : CollRun) (phase k s : Nat) : Bool := c.sent.any (fun e => e.phase = phase && e.rank = k && e.seg = s)

/-- A frame of a collective's data to a rank, in a part's segments, is not acknowledged (R335, R346). -/
def unacked (v : Dev) (x : Desc) (g : Group) (seq j k : Nat) : Bool :=
  let e := memberOf g k
  v.fab.tx.any (fun t => t.dest = e.node && segPart x k (t.frame / 16) = j &&
    (match t.body with
     | .collData rg rank q _ _ _ => rg = e.rgroup && rank = g.record.ownRank && q = seq
     | _ => false))

/-- Part `j` of a collective has still to exchange with rank `k`: data to it or from it are outstanding (R350, R352, R364). -/
def partNeeds (v : Dev) (x : Desc) (c : CollRun) (j k : Nat) : Bool :=
  let o := collOf x.bytes
  let g := getGroup v o.group
  let me := g.record.ownRank
  let mine (k s : Nat) : Bool := segPart x k s = j
  let awaits (s : Nat) : Bool := match c.folds.find? (fun f => f.seg = s) with
    | some f => decide (f.next ≤ k)
    | none => true
  decide (c.stage < 2) ||
  (recvSegs o g).any (fun e => mine e.1 e.2 && !c.got.contains e && (e.1 = k || (o.reduces && e.1 = me && awaits e.2))) ||
  (segsSent o g).any (fun e => e.2.1 = k && mine k e.2.2 && !c.hasSent e.1 k e.2.2) ||
  (j = 0 && o.trailer && (rxBytes g k c.seq 2 0 16).isNone) ||
  (o.op = 4 && decide (c.stage < 3) && decide (j < segsOf o.count)) || unacked v x g c.seq j k

/-- Part `j` has exchanged and written all that is its own (R352). -/
def partDone (v : Dev) (x : Desc) (c : CollRun) (j : Nat) : Bool :=
  let o := collOf x.bytes
  let g := getGroup v o.group
  decide (2 ≤ c.stage) && (otherRanks g).all (fun k => !partNeeds v x c j k) &&
    (recvSegs o g).all (fun e => segPart x e.1 e.2 ≠ j || c.got.contains e) &&
    (o.op ≠ 4 || c.stage = 3 || decide (segsOf o.count ≤ j))

/-! ### The end of a collective (R310, R352, R363, R364) -/

/-- Parts of a descriptor that have not ended. -/
def aliveParts (x : Desc) : List Nat :=
  (upto x.parts.length).filter (fun p => (x.parts.getD p {}).state = .queued || (x.parts.getD p {}).state = .running)

/-- What the failure of some parts leaves undefined: their segments of the destination, or all of a PERMUTE's (R310, R363). -/
def collFreed (o : Coll) (g : Group) (x : Desc) (js : List Nat) : List (Nat × Nat) :=
  if o.op = 4 then (if js.isEmpty then [] else [(0, collDest o g)])
  else ((recvSegs o g).filter (fun e => js.contains (segPart x e.1 e.2))).map (fun e => destAt o g e.1 e.2)

/-- Some of a collective's parts end with a status; with the last of them the collective is over. -/
def collEndParts (x : Desc) (ps : List Nat) (st : Byte) (a : W64) (f : Flags) (w : Work) : Work :=
  let o := collOf x.bytes
  let g := getGroup w.dev o.group
  let js := match getDesc w.dev x.id with
    | some y => ps.filter (fun p => (aliveParts y).contains p)
    | none => []
  let w := if st = stSuccess || st = stMalformed then { w with dest := [] }
    else
      freeDest { w with dest := (collFreed o g x js).map (fun c => destNow x 1 c.1 c.2 w) }
  onDev (fun v =>
    let v := js.foldl (fun v p => endPart x.id p st a f v) v
    match x.coll, getDesc v x.id with
    | some c, some y => if (aliveParts y).isEmpty then collForget o.group c.seq v else v
    | _, _ => v) w

/-- A collective's parts end: malformed on every one (R353), else with the status where a part is not done, and with SUCCESS
where it is. -/
def collEnd (x : Desc) (st : Byte) (a : W64) (f : Flags) (w : Work) : Work :=
  match getDesc w.dev x.id with
  | none => w
  | some y =>
    let done (j : Nat) : Bool := y.coll.any (fun c => partDone w.dev y c j)
    if st = stMalformed then collEndParts y (aliveParts y) st a f w
    else collEndParts y ((aliveParts y).filter (fun j => !done j)) st a f (collEndParts y ((aliveParts y).filter done) stSuccess 0 {} w)

/-- The parts of a running collective that must exchange with a rank end with REMOTE_FAILURE (R350, R364). -/
def collLoseRank (x : Desc) (k : Nat) (w : Work) : Work :=
  match getDesc w.dev x.id with
  | none => w
  | some y =>
    if !y.parts.any (fun p => p.state = .running) then w
    else collEndParts y ((aliveParts y).filter (fun j => y.coll.all (fun c => partNeeds w.dev y c j k))) stRemote 0 {} w

/-- A collective's descriptor by its group and sequence, not finished. -/
def collFind (v : Dev) (gno seq : Nat) : Option Desc :=
  v.descs.find? (fun x => x.cls = 6 && (collOf x.bytes).group = gno && x.coll.any (fun c => c.seq = seq) &&
    x.parts.any (fun p => p.state = .queued || p.state = .running))

/-- A part of a collective or of a peer COPY exchanges with a rank of a group: for a COPY, the one it names. -/
def exchangesWith (x : Desc) (gno k : Nat) : Bool :=
  (x.cls = 6 && (collOf x.bytes).group = gno) ||
    (x.cls = 7 && fieldOf x 37 1 % 4 ≠ 0 && fieldOf x 36 1 = gno && fieldOf x 38 2 = k)

/-- Bytes of a COPY part: its offset and length (R366). -/
def copySpan (x : Desc) (p : Nat) : Nat × Nat :=
  (16777216 * p, Nat.min 16777216 (fieldOf x 32 4 - 16777216 * p))

/-- A running part of a collective or a COPY ends with REMOTE_FAILURE, its destination here undefined (R310, R364). -/
def remoteFail (x : Desc) (w : Work) : Work :=
  if x.cls = 6 then
    (if x.parts.any (fun p => p.state = .running) then collEnd x stRemote 0 {} w else w)
  else
    (upto x.parts.length).foldl (fun w p =>
      if (x.parts.getD p {}).state = .running then
        let (o, n) := copySpan x p
        let w := if fieldOf x 37 1 % 4 = 1 then w else freeDest { w with dest := [destNow x 1 o n w] }
        onDev (endPart x.id p stRemote 0 {}) w
      else w) w

/-- Running parts that must exchange with a rank end (R364). -/
def rankFail (x : Desc) (k : Nat) (w : Work) : Work := if x.cls = 6 then collLoseRank x k w else remoteFail x w

/-- A rank of a group has failed: it stays failed until the group is enabled again, and every running part that exchanges
with it ends (R350, R364). -/
def rankLost (gno k : Nat) (w : Work) : Work :=
  let w := onDev (modGroup gno (fun g => { g with lost := setAdd g.lost k })) w
  (w.dev.descs.filter (fun x => exchangesWith x gno k)).foldl (fun w x => rankFail x k w) w

/-- A node, or the twin, has been lost, has left or has another incarnation: so has every rank that names it (R350). -/
def nodeLost (node : BitVec 10) (twin : Bool) (w : Work) : Work :=
  (w.dev.groups.filter (fun c => c.2.enable && c.2.kind = twin)).foldl (fun w c =>
    ((otherRanks c.2).filter (fun k => (memberOf c.2 k).node = node)).foldl (fun w k => rankLost c.1 k w) w) w

/-- The contexts of the parts that a lost module has just ended enter the failure path (R419): `v` is the device before. -/
def remoteCtxs (v : Dev) (w : Work) : Work :=
  let hit (c : Desc × Desc) : Bool :=
    (c.1.parts.zip c.2.parts).any (fun p => p.1.state = .running && p.2.state ≠ .running && p.2.status = stRemote)
  ((v.descs.zip w.dev.descs).filter hit).foldl (fun w c => onDev (failCtxBy c.2 stRemote) w) w

/-- Parts that need a node that no route reaches any more end (R344, R346). -/
def unreachableFail (w : Work) : Work :=
  (w.dev.groups.filter (fun c => c.2.enable)).foldl (fun w c =>
    ((otherRanks c.2).filter (fun k =>
      (portsTo w.dev (memberOf c.2 k).node.toNat c.2.record.portMask).isEmpty)).foldl (fun w k =>
        (w.dev.descs.filter (fun x => exchangesWith x c.1 k)).foldl (fun w x => rankFail x k w) w) w) w

/-! ### What a collective engine asks the arbiters for (R261, R357) -/

/-- The port of a collective whose engine moves what neither leaves nor has arrived by one: its first (log 85). -/
def firstPort (x : Desc) : Nat := (x.coll.bind (fun c => c.ports.head?)).getD 0

/-- The collective engine of a port asks the memory ports that serve the bytes of a segment (R243, R259, R261, R357). -/
def askMemory (p : Nat) (write : Bool) (r : Requestor) (va : W64) (n : Nat) : Acc Unit := do
  for k in upto (ceilDiv (va.toNat % 128 + n) 128) do
    let lo := Nat.max va.toNat ((va.toNat / 128 + k) * 128)
    match ← translate r (BitVec.ofNat 64 lo) write with
    | .dev a =>
      let most := Nat.min (256 - lo % 256) (va.toNat + n - lo)
      modify (onDev (askColl p (memPort a write) r.ctx (if a < cstoreBase then ceilDiv most 64 else 1)))
    | .host _ => pure ()

/-- The egress requests for a message of `n` frames to a node: for each segment, by the collective engine of the port by which it
leaves (R261, R357). -/
def askOut (ctx node : Nat) (mask : BitVec 24) (n : Nat) (v : Dev) : Dev :=
  (upto (ceilDiv n 16)).foldl (fun v s =>
    match segPort v node mask s with
    | some out => askColl out (4736 + out) ctx (Nat.min 16 (n - 16 * s)) v
    | none => v) v

/-- A collective's messages to some ranks, with their egress requests; nothing if one of them has failed or cannot be reached. -/
def collMsgs (ctx gno : Nat) (g : Group) (ranks : List Nat) (bodies : Nat → List FabMsg) (v : Dev) : Option Dev :=
  (toMembers gno g ranks bodies v).map (fun v =>
    ranks.foldl (fun v k => askOut ctx (memberOf g k).node.toNat g.record.portMask (bodies k).length v) v)

/-! ### Headers (R353) -/

/-- The permutation table (R361). -/
def permTable (x : Desc) (g : Group) : Acc (List Nat) := do
  let o := collOf x.bytes
  askMemory (firstPort x) false (edge x.ctx) o.aux (4 * g.record.members * o.slots)
  (upto (g.record.members * o.slots)).mapM (fun i => readNat (edge x.ctx) (o.aux + BitVec.ofNat 64 (4 * i)) 4)

/-- The header frame that this member sends (R353). -/
def ownHeader (x : Desc) (g : Group) (seq : Nat) : Acc CollHeader := do
  let o := collOf x.bytes
  let crc ← if o.op = 4 then do
      let t ← permTable x g
      pure (crc32c (t.flatMap (leBytes 4)))
    else pure 0
  pure { op := BitVec.ofNat 3 o.op, count := BitVec.ofNat 32 o.count, slots := BitVec.ofNat 32 o.slots
         fmtSrc := BitVec.ofNat 5 o.fmt, convDst := BitVec.ofNat 8 o.cc, trailerEn := o.trailer, seq := seq, tableCrc := crc }

/-- A table that names each index below its length once (R361). -/
def isPermutation (t : List Nat) : Bool := (upto t.length).all (fun i => t.contains i)

/-- A mismatch notice to every other member that can be reached, and MALFORMED here (R353). -/
def collMismatch (x : Desc) (w : Work) : Work :=
  let o := collOf x.bytes
  let g := getGroup w.dev o.group
  let seq := (x.coll.map (·.seq)).getD 0
  let w := onDev (fun v => (otherRanks g).foldl (fun v k =>
    match toMember o.group g k [.mismatch (memberOf g k).rgroup g.record.ownRank seq] v with
    | some v => askOut x.ctx (memberOf g k).node.toNat g.record.portMask 1 v
    | none => v) v) w
  collEnd x stMalformed 0 {} w

/-- Headers that have arrived are compared with this member's own before data move: a difference, or a notice of one, ends the
collective. -/
def collCheck (x : Desc) (w : Work) : Work :=
  let o := collOf x.bytes
  let g := getGroup w.dev o.group
  match x.coll with
  | none => w
  | some c =>
    if c.stage = 0 then w
    else if g.mismatches.contains c.seq then collEnd x stMalformed 0 {} w
    else if c.stage ≠ 1 then w
    else
      let body : Acc Bool := do
        let h ← ownHeader x g c.seq
        let perm ← if o.op = 4 then (do return isPermutation (← permTable x g)) else pure true
        pure (perm && g.headers.all (fun y => y.2.seq ≠ c.seq || y.2 = h))
      runAcc body (fun ok w => if ok then w else collMismatch x w) (fun st a w => collEnd x st a {} w) w

/-- Every other member's header of a sequence is here. -/
def headersIn (g : Group) (seq : Nat) : Bool :=
  (otherRanks g).all (fun k => g.headers.any (fun h => h.1 = k && h.2.seq = seq))

/-- Every receiver has granted credit for the collective (R349). -/
def creditsIn (g : Group) (ranks : List Nat) (seq : Nat) : Bool := ranks.all (fun k => g.credits.contains (k, seq, none))

/-! ### Data (R354, R358 to R360) -/

/-- Scale codes that a block-scaled source may send for a destination (R360). -/
def wireRange (fmt fd : Nat) : Nat × Nat :=
  if fmt = 0x09 then (if fd = 0x01 then (0x03, 0xF6) else (0, 0xF6)) else (if fd = 0x01 then (0x0A, 0xEF) else (0, 0xEF))

/-- Who a collective accesses memory as: its destination is slot 1 (R393). -/
def collReq (x : Desc) : Acc Requestor := reqOf x (edge x.ctx) [1]

/-- The same for a message's bytes, each segment of them by its own port's engine. -/
def askSegs (eng : Nat → Nat) (write : Bool) (r : Requestor) (va : W64) (n : Nat) : Acc Unit := do
  for s in upto (segsOf n) do
    askMemory (eng s) write r (va + BitVec.ofNat 64 (4096 * s)) (segLen n s)

/-- The port by which a segment of a message to a rank leaves (R344). -/
def portTo (v : Dev) (g : Group) (k s : Nat) : Nat := (segPort v (memberOf g k).node.toNat g.record.portMask s).getD 0

/-- This member's scale codes as they travel: those out of range are sent as 0xFF (R360). -/
def ownScales (x : Desc) (r : Requestor) : Acc (List Byte) := do
  let o := collOf x.bytes
  if !fmtBlock o.fmt then pure []
  else
    let scales ← readBytes r o.scale (o.count / 32)
    let (lo, hi) := wireRange o.fmt (ccFmt o.cc)
    pure (scales.map (fun s => if lo ≤ s.toNat && s.toNat ≤ hi then s else 0xFF))

/-- Gathered elements as they are written: FP32 and INT32 unconverted, the others widened exactly, a NaN head becoming
the canonical NaN (R359, R360, R393). -/
def widened (o : Coll) (codes scales : List Byte) : List Byte × Flags :=
  let fd := ccFmt o.cc
  let n := fmtBits fd / 8
  if fd = o.fmt && fd ≠ 0x01 then (codes, fNone)
  else
    let m := fmtBits o.fmt / 8
    let vals := (upto (codes.length / m)).map (fun i => leAt codes (m * i) m)
    let groups : List (List Val × Flags) :=
      if fmtBlock o.fmt then
        (scales.zipIdx).map (fun s => blockRead o.fmt s.1.toNat ((vals.drop (32 * s.2)).take 32))
      else [(vals.map (elemVal o.fmt), fNone)]
    (groups.flatMap (fun q => q.1.flatMap (fun v => leBytes n (convertTo fd .near false v).1)),
      groups.foldl (fun f q => Flags.join f q.2) fNone)

/-- The words of a list of bytes. -/
def wordsOf (bs : List Byte) : List Nat := (upto (bs.length / 4)).map (fun i => leAt bs (4 * i) 4)

/-- A contribution, or a node of height `h`, taken into the partial nodes of a fold: two nodes of one height make one of the
next, the earlier ranks first (R354, R356). -/
def pushNode (h : Nat) (xs : List Nat) : List (Nat × List Nat) → List (Nat × List Nat)
  | [] => [(h, xs)]
  | (h', ys) :: t => if h' = h then pushNode (h + 1) (List.zipWith fadd ys xs) t else (h, xs) :: (h', ys) :: t

/-- The sums of a fold that has taken every contribution: a node without a partner goes up unchanged (R354). -/
def finishNodes : List (Nat × List Nat) → List Nat
  | [] => []
  | (_, xs) :: t => t.foldl (fun acc n => List.zipWith fadd n.2 acc) xs

/-- A fold of contributions in rank order. -/
def foldAll (xs : List (List Nat)) : List Nat := finishNodes (xs.foldl (fun ns x => pushNode 0 x ns) [])

/-! ### PERMUTE (R361 to R363) -/

/-- Where a permutation takes an index from. -/
def permFrom (t : List Nat) (j : Nat) : Nat := (t.findIdx? (fun k => k = j)).getD j

/-- The lowest index of an index's cycle, walking at most `n` shards. -/
def permLead (t : List Nat) : Nat → Nat → Nat → Nat
  | 0, _, m => m
  | n + 1, i, m => permLead t n (t.getD i i) (Nat.min m i)

/-- Whether an index leads a cycle that moves something. -/
def leads (t : List Nat) (i : Nat) : Bool := t.getD i i ≠ i && permLead t t.length i i = i

/-- A note of a PERMUTE, kept with what has arrived: 3 shard data, 4 shard may be sent, 5 cycle done, 6 leader staged in a
window, 7 slot written. -/
def note (rank seq phase offset : Nat) (g : Group) : Group := { g with rx := g.rx ++ [⟨rank, seq, phase, offset, [], 0⟩] }
def noted (g : Group) (seq phase offset : Nat) : Bool := g.rx.any (fun r => r.seq = seq && r.phase = phase && r.offset = offset)
def unnote (seq phase offset : Nat) (g : Group) : Group :=
  { g with rx := g.rx.filter (fun r => !(r.seq = seq && r.phase = phase && r.offset = offset)) }

/-- A note to the member that holds an index: here, or by a message. -/
def tellOwner (x : Desc) (seq phase i : Nat) : Acc Unit := do
  let o := collOf x.bytes
  let w ← get
  let g := getGroup w.dev o.group
  let k := i / o.slots
  if k = g.record.ownRank then modify (onDev (modGroup o.group (note k seq phase i)))
  else
    match collMsgs x.ctx o.group g [k] (fun k => [.collData (memberOf g k).rgroup g.record.ownRank seq phase i []]) w.dev with
    | some v => set { w with dev := v }
    | none => throw (.fail stRemote 0)

/-- The window that holds a leader's shard. -/
def windowOf (g : Group) (seq i : Nat) : Nat :=
  ((g.rx.find? (fun r => r.seq = seq && r.phase = 6 && r.offset = i)).map (·.rank)).getD 0

/-- Windows held by cycles not done. -/
def windowsHeld (g : Group) (seq : Nat) : List Nat :=
  (g.rx.filter (fun r => r.seq = seq && r.phase = 6 && !noted g seq 5 r.offset)).map (·.rank)

/-- One movement of a PERMUTE that this member can make now, or false. -/
def permMove (x : Desc) (seq : Nat) (t : List Nat) : Acc Bool := do
  let o := collOf x.bytes
  let r := edge x.ctx
  let w ← get
  let g := getGroup w.dev o.group
  let me := g.record.ownRank
  let mine := (upto o.slots).map (fun s => me * o.slots + s)
  let slot (i : Nat) : W64 := o.dst + BitVec.ofNat 64 (i % o.slots * o.count)
  let window (k : Nat) : W64 := o.work + BitVec.ofNat 64 (k * o.count)
  let on (f : Group → Group) : Acc Unit := modify (onDev (modGroup o.group f))
  -- a shard that has arrived whole is written into its slot
  match mine.find? (fun j => (rxBytes g ((permFrom t j) / o.slots) seq 3 (j * o.count) o.count).isSome && !noted g seq 7 j) with
  | some j => do
    let i := permFrom t j
    let from_ (s : Nat) : Nat := ((g.rx.find? (fun y => y.rank = i / o.slots && y.rank ≠ me && y.seq = seq && y.phase = 3 &&
      y.offset = j * o.count + 4096 * s)).map (·.port)).getD (firstPort x)
    askSegs from_ true r (slot j) o.count
    writeBytes r (slot j) ((rxBytes g (i / o.slots) seq 3 (j * o.count) o.count).getD [])
    on (fun g => note me seq 7 j
      { g with rx := g.rx.filter (fun y => !(y.seq = seq && y.phase = 3 && y.offset / o.count = j)) })
    if leads t i then tellOwner x seq 5 i else tellOwner x seq 4 (permFrom t i)
    pure true
  | none =>
    -- a shard whose turn it is goes to its new slot
    match mine.find? (fun i => noted g seq 4 i) with
    | some i => do
      let j := t.getD i i
      let k := j / o.slots
      let a := if leads t i then window (windowOf g seq i) else slot i
      askSegs (fun s => if k = me then firstPort x else portTo w.dev g k s) false r a o.count
      let bs ← readBytes r a o.count
      on (unnote seq 4 i)
      if k = me then
        on (fun g => { g with rx := g.rx ++ (upto (ceilDiv o.count 256)).map (fun c =>
          ⟨me, seq, 3, j * o.count + 256 * c, (bs.drop (256 * c)).take 256, 0⟩) })
      else do
        let w ← get
        let frames := dataFrames (memberOf g k).rgroup me seq 3 (j * o.count) bs
        match collMsgs x.ctx o.group (getGroup w.dev o.group) [k] (fun _ => frames) w.dev with
        | some v => set { w with dev := countTx x.ctx frames v }
        | none => throw (.fail stRemote 0)
      pure true
    | none =>
      -- the next leader without a window takes the lowest free one
      match mine.find? (fun i => leads t i && !noted g seq 6 i),
          (upto o.windows).find? (fun k => !(windowsHeld g seq).contains k) with
      | some i, some k => do
        askSegs (fun _ => firstPort x) false r (slot i) o.count
        let bs ← readBytes r (slot i) o.count
        askSegs (fun _ => firstPort x) true r (window k) o.count
        writeBytes r (window k) bs
        on (fun g => note k seq 6 i g)
        tellOwner x seq 4 (permFrom t i)
        pure true
      | _, _ => pure false

/-- Movements until none can be made, at most `n`. -/
def permMoves (x : Desc) (seq : Nat) (t : List Nat) : Nat → Acc Unit
  | 0 => pure ()
  | n + 1 => do
    if ← permMove x seq t then permMoves x seq t n else pure ()

/-- Every slot of this member that changes is written, and every cycle it leads is done. -/
def permDone (g : Group) (o : Coll) (seq : Nat) (t : List Nat) : Bool :=
  ((upto o.slots).map (fun s => g.record.ownRank * o.slots + s)).all (fun j =>
    t.getD j j = j || (noted g seq 7 j && (!leads t j || noted g seq 5 j)))

/-! ### A collective at work -/

/-- The stage of a collective set. -/
def setStage (d n : Nat) (v : Dev) : Dev := modDesc d (fun x => { x with coll := x.coll.map (fun c => { c with stage := n }) }) v

/-- All of one kind from each rank, this member's own among them; nothing until all have arrived. -/
def gathered (g : Group) (seq phase : Nat) (len : Nat → Nat) (own : List Byte) (ranks : List Nat) : Option (List (List Byte)) :=
  ranks.foldr (fun k acc =>
    match acc, (if k = g.record.ownRank then some own else rxBytes g k seq phase 0 (len k)) with
    | some l, some bs => some (bs :: l)
    | _, _ => none) (some [])

/-- The workspace of a reduction holds partial nodes whose layout is not specified (R356, R357); it is written whole (R257). -/
def collScrub (x : Desc) (g : Group) : Acc Unit := do
  let o := collOf x.bytes
  let n := g.record.members
  if 1 < n && (chunkOf o.count n g.record.ownRank).2 ≠ 0 then
    let r := { edge x.ctx with spans := [(o.work.toNat, o.work.toNat + collWork n)] }
    for i in upto (collWork n) do
      let w ← get
      writeNat r (o.work + BitVec.ofNat 64 i) 1 ((freeVal w.dev).toNat % 256)
      modify (onDev freeNext)

/-- The run of a collective changed. -/
def modRun (d : Nat) (f : CollRun → CollRun) (v : Dev) : Dev := modDesc d (fun x => { x with coll := x.coll.map f }) v

/-- A collective at this moment of a command: its descriptor, its run, its fields and its group. -/
structure CollNow where
  x : Desc
  c : CollRun
  o : Coll
  g : Group

def collNow (x : Desc) : Acc CollNow := do
  let v := (← get).dev
  let y := (getDesc v x.id).getD x
  let o := collOf y.bytes
  pure ⟨y, y.coll.getD { seq := 0, ports := [] }, o, getGroup v o.group⟩

/-- The part of a segment is still running. -/
def CollNow.lives (q : CollNow) (k s : Nat) : Bool := (q.x.parts.getD (segPart q.x k s) {}).state = .running

/-- The part of a segment of this member's own chunk is still running. -/
def CollNow.livesOwn (q : CollNow) (s : Nat) : Bool := q.lives q.g.record.ownRank s

/-- The port on which a segment of a rank arrived, or that of its part for this member's own. -/
def CollNow.portOf (q : CollNow) (k phase s : Nat) : Nat :=
  ((q.g.rx.find? (fun r => r.rank = k && r.seq = q.c.seq && r.phase = phase && r.offset = 4096 * s)).map (·.port)).getD
    (q.c.ports.getD (segPart q.x k s) 0)

/-- What arrived of one segment is dropped once it is used. -/
def dropSeg (gno rank seq phase s : Nat) : Dev → Dev :=
  modGroup gno (fun g => { g with
    rx := g.rx.filter (fun r => !(r.rank = rank && r.seq = seq && r.phase = phase && r.offset / 4096 = s)) })

/-- A segment of data sent to a rank, as part of the message of its kind to that rank (R335, R344); a rank that has failed or
cannot be reached fails the parts that need it. The engine `eng`, or that of the port it leaves by, asks for the port's egress
(R261, R357). -/
def collSend (q : CollNow) (eng : Option Nat) (k phase s : Nat) (bs : List Byte) : Acc Unit := do
  let w ← get
  let c := (getDesc w.dev q.x.id).bind (·.coll) |>.getD q.c
  let e := memberOf q.g k
  let frames := dataFrames e.rgroup q.g.record.ownRank c.seq phase (4096 * s) bs
  let begun := (c.sent.find? (fun t => t.phase = phase && t.rank = k)).map (·.msg)
  match (if memberBad w.dev q.g k then none else sendSegs q.o.group e.node.toNat q.g.record.portMask begun s frames w.dev) with
  | some (msg, v) =>
    let note (c : CollRun) : CollRun := { c with sent := c.sent ++ [{ phase := phase, rank := k, seg := s, msg := msg }] }
    let out := (segPort w.dev e.node.toNat q.g.record.portMask s).getD 0
    let ask := askColl (eng.getD out) (4736 + out) q.x.ctx frames.length
    set { w with dev := ask (countTx q.x.ctx frames (modRun q.x.id note v)) }
  | none => modify (collLoseRank q.x k)

/-- Credit for one segment granted to the rank whose contribution comes next (R356). -/
def grantSeg (q : CollNow) (k s : Nat) : Acc Unit := do
  if k < q.g.record.members && k ≠ q.g.record.ownRank then
    let w ← get
    match collMsgs q.x.ctx q.o.group q.g [k] (fun k => [.credit (memberOf q.g k).rgroup q.g.record.ownRank q.c.seq (some s)]) w.dev with
    | some v => set { w with dev := v }
    | none => modify (collLoseRank q.x k)
  else pure ()

/-- The collective engine that folds a segment: that of its port, or of the next up port of the mask once that one is down
(R357). -/
def foldPort (v : Dev) (g : Group) (p : Nat) : Nat :=
  if portUp (getPort v p) then p
  else (((upto 24).map (fun i => (p + 1 + i) % 24)).find? (fun i => (groupPorts v g).contains i)).getD p

/-- A contribution's segment that may be sent now: one with credit where the collective reduces (R349, R356). -/
def sendDue (q : CollNow) : Option (Nat × Nat) :=
  ((segsSent q.o q.g).find? (fun e => e.1 = 0 && q.lives e.2.1 e.2.2 && !q.c.hasSent 0 e.2.1 e.2.2 &&
    (!q.o.reduces || q.g.credits.contains (e.2.1, q.c.seq, some e.2.2)))).map (·.2)

/-- A fold whose next contribution is here. -/
def foldDue (q : CollNow) : Option CollFold :=
  q.c.folds.find? (fun f => q.livesOwn f.seg && (f.next = q.g.record.ownRank ||
    (rxBytes q.g f.next q.c.seq 0 (4096 * f.seg) (segLen (chunkBytes q.o q.g q.g.record.ownRank) f.seg)).isSome))

/-- The owner may grant credit to one more segment: at most eight at a time (R356). -/
def openDue (q : CollNow) : Bool :=
  q.o.reduces && decide (q.c.opened < segsOf (chunkBytes q.o q.g q.g.record.ownRank)) &&
    decide ((q.c.folds.filter (fun f => q.livesOwn f.seg)).length < 8)

/-- A segment that is here and not written yet. -/
def recvDue (q : CollNow) : Option (Nat × Nat) :=
  (recvSegs q.o q.g).find? (fun e =>
    !q.c.got.contains e && q.lives e.1 e.2 &&
    (if q.o.reduces then e.1 ≠ q.g.record.ownRank && (rxBytes q.g e.1 q.c.seq 3 (4096 * e.2) (segLen (chunkBytes q.o q.g e.1) e.2)).isSome
     else e.1 = q.g.record.ownRank ||
       ((rxBytes q.g e.1 q.c.seq 0 (4096 * e.2) (segLen (srcBytes q.o) e.2)).isSome &&
        (!fmtBlock q.o.fmt || (rxBytes q.g e.1 q.c.seq 1 0 (q.o.count / 32)).isSome))))

/-- A segment written at the destination by the collective engine of a port. A sum of one element of 0.0 or 1.0 from each member is
the verdict of its pass (R222, log 20). -/
def putSeg (q : CollNow) (r : Requestor) (eng k s : Nat) (bs : List Byte) : Acc Unit := do
  let a := slotAddr q.x r 1 + BitVec.ofNat 64 (destAt q.o q.g k s).1
  askMemory eng true r a bs.length
  writeBytes r a bs
  modify (onDev (fun v =>
    let v := modRun q.x.id (fun c => { c with got := c.got ++ [(k, s)] }) v
    if q.o.op = 0 && q.o.count = 1 && verdictSum q.g.record.members (leAt bs 0 4) then
      noteSum q.x.ctx (!(f32 (leAt bs 0 4)).isZero) v
    else v))

/-- This member's own codes of a segment, read by the collective engine of a port. -/
def ownCodes (q : CollNow) (r : Requestor) (eng k s : Nat) : Acc (List Byte) := do
  let (base, n) := if q.o.reduces then (4 * (chunkOf q.o.count q.g.record.members k).1, chunkBytes q.o q.g k) else (0, srcBytes q.o)
  let a := slotAddr q.x r 0 + BitVec.ofNat 64 (base + 4096 * s)
  askMemory eng false r a (segLen n s)
  readBytes r a (segLen n s)

/-- The engine of a fold asks for the partial nodes of a segment in WORK_ADDR: read where there are any, and written where the fold
goes on; where in it they lie is not specified (R356, R357). -/
def askNodes (q : CollNow) (eng : Nat) (f : CollFold) (more : Bool) : Acc Unit := do
  let n := q.g.record.members
  if 1 < n then
    let place := (freeVal (← get).dev).toNat % (collWork n / 4096)
    modify (onDev freeNext)
    let a := q.o.work + BitVec.ofNat 64 (4096 * place)
    let len := segLen (chunkBytes q.o q.g q.g.record.ownRank) f.seg
    if !f.nodes.isEmpty then askMemory eng false (edge q.x.ctx) a len
    if more then askMemory eng true (edge q.x.ctx) a len

/-- One contribution folded into its segment; with the last, the sums are written, and sent where the collective is an
ALLREDUCE (R354, R356). -/
def foldStep (q : CollNow) (r : Requestor) (f : CollFold) : Acc Unit := do
  let me := q.g.record.ownRank
  let n := q.g.record.members
  let eng := foldPort (← get).dev q.g f.port
  let bs ← if f.next = me then ownCodes q r eng me f.seg
    else pure ((rxBytes q.g f.next q.c.seq 0 (4096 * f.seg) (segLen (chunkBytes q.o q.g me) f.seg)).getD [])
  let f' : CollFold := { f with next := f.next + 1, nodes := pushNode 0 (wordsOf bs) f.nodes, port := eng }
  askNodes q eng f (decide (f'.next < n))
  modify (onDev (dropSeg q.o.group f.next q.c.seq 0 f.seg))
  let others (c : CollRun) : List CollFold := c.folds.filter (fun y => y.seg ≠ f.seg)
  if f'.next < n then
    modify (onDev (modRun q.x.id (fun c => { c with folds := others c ++ [f'] })))
    grantSeg q f'.next f.seg
  else do
    let sums := (finishNodes f'.nodes).flatMap (leBytes 4)
    modify (onDev (modRun q.x.id (fun c => { c with folds := others c })))
    putSeg q r eng me f.seg sums
    if q.o.op = 0 then
      for k in (otherRanks q.g).filter (fun k => q.lives k f.seg) do collSend q (some eng) k 3 f.seg sums
    else pure ()

/-- A segment of a chunk opened: credit goes to the first rank, unless that is this member (R356). -/
def openStep (q : CollNow) : Acc Unit := do
  let s := q.c.opened
  let p := q.c.ports.getD (s % Nat.max 1 q.c.ports.length) 0
  modify (onDev (modRun q.x.id (fun c => { c with
    opened := s + 1, folds := if q.livesOwn s then c.folds ++ [{ seg := s, port := p }] else c.folds })))
  if q.livesOwn s then grantSeg q 0 s else pure ()

/-- A segment that is here is written by the engine of the port on which it arrived: sums as they are, a gathered contribution
widened (R357, R359), whose flags stand even if the write fails (R76). -/
def recvStep (q : CollNow) (r : Requestor) (k s : Nat) : Acc Unit := do
  let me := q.g.record.ownRank
  if q.o.reduces then
    putSeg q r (q.portOf k 3 s) k s ((rxBytes q.g k q.c.seq 3 (4096 * s) (segLen (chunkBytes q.o q.g k) s)).getD [])
    modify (onDev (dropSeg q.o.group k q.c.seq 3 s))
  else
    let eng := q.portOf k 0 s
    let codes ← if k = me then ownCodes q r eng k s else pure ((rxBytes q.g k q.c.seq 0 (4096 * s) (segLen (srcBytes q.o) s)).getD [])
    if k = me && fmtBlock q.o.fmt then
      askMemory eng false r (q.o.scale + BitVec.ofNat 64 (4096 * s / 32)) (codes.length / 32)
    let scales ← if k = me then ownScales q.x r else pure ((rxBytes q.g k q.c.seq 1 0 (q.o.count / 32)).getD [])
    let (out, fl) := widened q.o codes ((scales.drop (4096 * s / 32)).take (codes.length / 32))
    modify (onDev (modPart q.x.id (segPart q.x k s) (fun p => { p with flags := Flags.join p.flags fl })))
    putSeg q r eng k s out
    modify (onDev (dropSeg q.o.group k q.c.seq 0 s))

/-- A step on a segment of part `j`: a failure here ends the part (R310, R352). -/
def segStep (q : CollNow) (j : Nat) (m : Acc Unit) : Acc Unit :=
  tryCatch m (fun e =>
    match e with
    | .wait => throw .wait
    | .fail st a => modify (collEndParts q.x [j] st a {}))

/-- One step of a reduction, a gather or a broadcast that can be made now, or false. -/
def collMove (x : Desc) : Acc Bool := do
  let q ← collNow x
  let r ← collReq q.x
  match sendDue q, foldDue q, openDue q, recvDue q with
  | some (k, s), _, _, _ => do
    let out := portTo (← get).dev q.g k s
    segStep q (segPart q.x k s) (do collSend q none k 0 s (← ownCodes q r out k s))
    pure true
  | none, some f, _, _ => do
    segStep q (segPart q.x q.g.record.ownRank f.seg) (foldStep q r f)
    pure true
  | none, none, true, _ => do
    openStep q
    pure true
  | none, none, false, some (k, s) => do
    segStep q (segPart q.x k s) (recvStep q r k s)
    pure true
  | none, none, false, none => pure false

/-- Steps until none can be made, at most `n`. -/
def collMoves (x : Desc) : Nat → Acc Unit
  | 0 => pure ()
  | n + 1 => do
    if ← collMove x then collMoves x n else pure ()

/-- Data begin to move: trailers and scale planes go out (R358, R360), read for each rank by the engines of the ports by which they
leave (R357). -/
def collBegin (q : CollNow) (r : Requestor) : Acc Unit := do
  let me := q.g.record.ownRank
  for k in sendRanks q.o q.g do
    let v := (← get).dev
    if q.o.trailer then askMemory (portTo v q.g k 0) false r q.o.aux 16
    if fmtBlock q.o.fmt && (q.o.op = 2 || (q.o.op = 3 && q.o.root = me)) then
      askSegs (portTo v q.g k) false r q.o.scale (q.o.count / 32)
  let trail ← if q.o.trailer then readBytes r q.o.aux 16 else pure []
  let scales ← if q.o.op = 2 || (q.o.op = 3 && q.o.root = me) then ownScales q.x r else pure []
  let w ← get
  let frames (k : Nat) : List FabMsg :=
    let rg := (memberOf q.g k).rgroup
    dataFrames rg me q.c.seq 1 0 scales ++ dataFrames rg me q.c.seq 2 0 trail
  match collMsgs q.x.ctx q.o.group q.g (sendRanks q.o q.g) frames w.dev with
  | some v => set { w with dev := countTx q.x.ctx ((sendRanks q.o q.g).flatMap frames) (setStage q.x.id 2 v) }
  | none => throw (.fail stRemote 0)

/-- The trailers of every member, written once every part has succeeded (R358): a step of the first part. -/
def putTrailers (x : Desc) (r : Requestor) : Acc Unit := do
  let q ← collNow x
  if q.o.trailer && q.x.parts.all (fun p => p.state = .running) then
    segStep q 0 (do
      askMemory (firstPort q.x) false r q.o.aux 16
      let own ← readBytes r q.o.aux 16
      match gathered q.g q.c.seq 2 (fun _ => 16) own (upto q.g.record.members) with
      | some ts => do
        for k in upto q.g.record.members do
          askMemory (q.portOf k 2 0) true r (q.o.auxOut + BitVec.ofNat 64 (16 * k)) 16
        writeBytes r q.o.auxOut ts.flatten
      | none => pure ())
  else pure ()

/-- What a running collective can do now; answers whether every part that has not failed is done. -/
def collGo (x : Desc) (c : CollRun) : Acc Bool := do
  let o := collOf x.bytes
  let r ← collReq x
  let g := getGroup (← get).dev o.group
  if !headersIn g c.seq || !creditsIn g (if o.op = 4 then otherRanks g else sendRanks o g) c.seq then pure false
  else do
    if c.stage = 1 then collBegin (← collNow x) r else pure ()
    if o.op = 4 then
      if c.stage = 3 then pure ()
      else if o.count = 0 then modify (onDev (setStage x.id 3))
      else do
        let t ← permTable x g
        permMoves x c.seq t (8 * o.slots + 8)
        if permDone (getGroup (← get).dev o.group) o c.seq t then modify (onDev (setStage x.id 3)) else pure ()
    else do
      let own := segsOf (chunkBytes o g g.record.ownRank)
      collMoves x ((segsSent o g).length + (recvSegs o g).length + (g.record.members + 1) * own + 1)
      let q ← collNow x
      if q.c.opened ≠ c.opened || q.c.folds ≠ c.folds then collScrub x g else pure ()
    let q ← collNow x
    let v := (← get).dev
    if (aliveParts q.x).all (partDone v q.x q.c) then
      putTrailers x r
      pure true
    else pure false

/-- A collective's parts start: its header and its credit go to every other member (R349, R353). -/
def collStart (x : Desc) (c : CollRun) : Acc Unit := do
  let o := collOf x.bytes
  let w ← get
  let g := getGroup w.dev o.group
  let h ← ownHeader x g c.seq
  let me := g.record.ownRank
  let w ← get
  match collMsgs x.ctx o.group g (otherRanks g) (fun k =>
      [.collHeader (memberOf g k).rgroup me h, .credit (memberOf g k).rgroup me c.seq none]) w.dev with
  | some v => set { w with dev := setStage x.id 1 v }
  | none => throw (.fail stRemote 0)

/-- A TEST of a port that a part of the collective waits for is under way, or goes before it (R454). -/
def portHeld (v : Dev) (x : Desc) : Bool :=
  x.parts.any (fun p => p.state = .queued && (underTest v 5 p.unit || testBefore v x 5 p.unit))

/-- One collective, of an operation, moved on as far as it can go. -/
def collRun (op d : Nat) (w : Work) : Work :=
  match getDesc w.dev d with
  | none => w
  | some x =>
    let o := collOf x.bytes
    match x.coll with
    | none => w
    | some c =>
      if x.cls ≠ 6 || o.op ≠ op then w
      else
        let w1 :=
          if c.stage = 0 then
            if !mayStart w.dev x || !x.parts.any (fun p => p.state = .queued) || portHeld w.dev x then w
            else if !collGroupOk w.dev x.ctx o then collEnd x stMalformed 0 {} w
            else
              match stabLacks w.dev x (upto x.parts.length) with
              | some k => onDev (stabWait k.1 (.part d k.2)) w
              | none =>
                let begun (w : Work) : Work := onDev (fun v => (upto x.parts.length).foldl (fun v p => startPart d p v) v) w
                runAcc (collStart x c) (fun _ w => begun w) (fun st a w => collEnd x st a {} (begun w)) w
          else w
        match getDesc w1.dev d with
        | none => w1
        | some x =>
          let w2 := if x.parts.any (fun p => p.state = .running) then collCheck x w1 else w1
          match getDesc w2.dev d with
          | none => w2
          | some x =>
            match x.coll with
            | none => w2
            | some c =>
              if c.stage = 0 || !x.parts.any (fun p => p.state = .running) then w2
              else
                runAcc (collGo x c) (fun done w => if done then collEnd x stSuccess 0 {} w else w)
                  (fun st a w => collEnd x st a {} w) w2

/-! ### What arrives for a group -/

/-- A group that takes traffic: enabled, its context enabled and running or failed (R364). -/
def groupLive (v : Dev) (gno : Nat) : Bool :=
  let g := getGroup v gno
  g.enable && (getCtx v g.ctx.toNat).enable

/-- Traffic of a sequence still to be finished on this member (R349). -/
def seqOpen (v : Dev) (gno seq : Nat) : Bool :=
  decide ((getGroup v gno).nextSeq ≤ seq) || (collFind v gno seq).isSome

/-- A header frame arrives (R353). -/
def rxHeader (gno rank : Nat) (h : CollHeader) (w : Work) : Work :=
  let g := getGroup w.dev gno
  if !groupLive w.dev gno || !(otherRanks g).contains rank || !seqOpen w.dev gno h.seq ||
      g.headers.any (fun y => y.1 = rank && y.2.seq = h.seq) then w
  else
    let w := onDev (modGroup gno (fun g => { g with headers := g.headers ++ [(rank, h)] })) w
    match collFind w.dev gno h.seq with
    | some x => collCheck x w
    | none => w

/-- Credit arrives, for a collective or for one segment of the sender's chunk (R349, R356). -/
def rxCredit (gno rank seq : Nat) (seg : Option Nat) (v : Dev) : Dev :=
  let g := getGroup v gno
  if !groupLive v gno || !(otherRanks g).contains rank || !seqOpen v gno seq || g.credits.contains (rank, seq, seg) then v
  else modGroup gno (fun g => { g with credits := g.credits ++ [(rank, seq, seg)] }) v

/-- A mismatch notice arrives (R353): the collective completes with MALFORMED, now or when it starts. -/
def rxMismatch (gno rank seq : Nat) (w : Work) : Work :=
  let g := getGroup w.dev gno
  if !groupLive w.dev gno || !(otherRanks g).contains rank || !seqOpen w.dev gno seq then w
  else
    match collFind w.dev gno seq with
    | some x =>
      if x.parts.any (fun p => p.state = .running) then collEnd x stMalformed 0 {} w
      else onDev (modGroup gno (fun g => { g with mismatches := setAdd g.mismatches seq })) w
    | none => onDev (modGroup gno (fun g => { g with mismatches := setAdd g.mismatches seq })) w

/-- Data of a collective arrives on a port (R335, R357). -/
def rxData (gno rank seq phase offset : Nat) (bs : List Byte) (port : Nat) (v : Dev) : Dev :=
  let g := getGroup v gno
  if !groupLive v gno || !(otherRanks g).contains rank || !seqOpen v gno seq then v
  else ctrAdd g.ctx.toNat 15 bs.length (modGroup gno (fun g => { g with rx := g.rx ++ [⟨rank, seq, phase, offset, bs, port⟩] }) v)

/-- COLL_TIMEOUT (R364): TIMEOUT units since fetch have passed, and unfinished parts end. -/
def collTimeout (d : Nat) (w : Work) : Work :=
  match getDesc w.dev d with
  | none => w
  | some x =>
    let t := (collOf x.bytes).timeout
    if x.cls = 6 && t ≠ 0 && decide (t ≤ since w.dev x.time) &&
        x.parts.any (fun p => p.state = .queued || p.state = .running) then collEnd x stRemote 0 {} w
    else w

/-! ### Meanings -/

/-- ALLREDUCE (R354). -/
def execAllreduce (d : Nat) (s : State) : Host.Outcome State Fault Refusal := runWork (collRun 0 d) s
/-- REDUCESCATTER (R354). -/
def execReducescatter (d : Nat) (s : State) : Host.Outcome State Fault Refusal := runWork (collRun 1 d) s
/-- ALLGATHER (R359). -/
def execAllgather (d : Nat) (s : State) : Host.Outcome State Fault Refusal := runWork (collRun 2 d) s
/-- BROADCAST (R359). -/
def execBroadcast (d : Nat) (s : State) : Host.Outcome State Fault Refusal := runWork (collRun 3 d) s
/-- PERMUTE (R362). -/
def execPermute (d : Nat) (s : State) : Host.Outcome State Fault Refusal := runWork (collRun 4 d) s
/-- CREDIT_GRANT (R349). -/
def execCreditGrant (group : Byte) (rank : Nat) (c : CreditFor) (s : State) : Host.Outcome State Fault Refusal :=
  runDev (rxCredit group.toNat rank c.seq c.seg) s
/-- COLL_TIMEOUT (R364). -/
def execCollTimeout (d : Nat) (s : State) : Host.Outcome State Fault Refusal := runWork (collTimeout d) s
/-- MISMATCH_NOTICE (R353). -/
def execMismatchNotice (group : Byte) (rank seq : Nat) (s : State) : Host.Outcome State Fault Refusal :=
  runWork (rxMismatch group.toNat rank seq) s

end Sys2Proof.Machine
end

