-- ==== Sys2Proof/Machine/Copy.lean ====
section
/-! DEFINITION. COPY (R364, R366, R367): local moves, writes to a peer, reads from a peer, and both sides of their
messages. -/

namespace Sys2Proof.Machine

open Sys2Proof

/-- DIR of a COPY: 0 local, 1 write to peer, 2 read from peer. -/
def copyDir (bs : List Byte) : Nat := leAt bs 37 1 % 4

/-- Checks of a COPY that need no group (R9, R49, R366). -/
def copyOk (bs : List Byte) : Bool :=
  decide (leAt bs 37 1 < 3) && decide (leAt bs 40 1 < 32) && decide (leAt bs 41 1 < 32) &&
  leAt bs 40 1 = leAt bs 41 1 && !fmtReserved (leAt bs 40 1) && (bs.drop 42).all (fun b => b = 0)

/-- The peer of a COPY: a group of its context, and another rank of it (R347, R367). -/
def copyGroupOk (v : Dev) (ctx : Nat) (bs : List Byte) : Bool :=
  let g := getGroup v (leAt bs 36 1)
  copyDir bs = 0 || (g.enable && g.ctx.toNat = ctx && pairedOk v (leAt bs 36 1) && (otherRanks g).contains (leAt bs 38 2))

/-- Parts of a COPY: one for each 16 MiB, and one where there is nothing to move (R311, R366). -/
def copyParts (bs : List Byte) : Nat := Nat.max 1 (ceilDiv (leAt bs 32 4) 16777216)

/-- The core whose COPY mover runs part p: the part number's, or the next that is not fenced (DESIGN CHOICE, log 21). -/
def copyCore (v : Dev) (p : Nat) : Nat :=
  (((upto 32).map (fun i => (p + i) % 32)).find? (fun c => !isFenced v c)).getD (p % 32)

/-- Who a COPY part accesses memory as; a version pair is read where its slot is a local address (R306). -/
def copyReq (x : Desc) (q : Part) : Acc Requestor :=
  let r : Requestor := { ctx := x.ctx, core := some q.unit }
  let peer := if copyDir x.bytes = 1 then 2 else if copyDir x.bytes = 2 then 1 else 0
  if verField x ≠ 0 && verField x = peer then pure r else reqOf x r [1]

/-- A free byte. -/
def freeByte : Acc Byte := do
  let w ← get
  set { w with dev := freeNext w.dev }
  pure ((freeVal w.dev).setWidth 8)

/-- A local part (R366). A byte whose source lies in the destination of the same COPY may have been written before it is
read: its value is free. -/
def copyLocal (x : Desc) (q : Part) (p : Nat) : Acc Unit := do
  let r ← copyReq x q
  let (o, n) := copySpan x p
  let src0 := slotAddr x r 0
  let dst0 := slotAddr x r 1
  let src := src0 + BitVec.ofNat 64 o
  let dst := dst0 + BitVec.ofNat 64 o
  markDest r dst n
  hostAsks true false r src n 4096
  let bs ← readBytes r src n
  let out ← (bs.zipIdx).mapM (fun c => do
    let at_ := (src + BitVec.ofNat 64 c.2 - dst0).toNat
    if src0 ≠ dst0 && decide (at_ < fieldOf x 32 4) then freeByte else pure c.1)
  hostAsks false false r dst n 512
  writeBytes r dst out

/-- The tag by which a peer's answers name a part. -/
def copyTag (d p : Nat) : Nat := 256 * d + p

/-- The request of a peer part: its bytes, or what it asks for (R366, R367). -/
def copyAsk (x : Desc) (q : Part) (p : Nat) : Acc Unit := do
  let r ← copyReq x q
  let (o, n) := copySpan x p
  let src := slotAddr x r 0 + BitVec.ofNat 64 o
  let dst := slotAddr x r 1 + BitVec.ofNat 64 o
  let gno := fieldOf x 36 1
  let g := getGroup (← get).dev gno
  let k := fieldOf x 38 2
  let rg := (memberOf g k).rgroup
  let me := g.record.ownRank
  let tag := copyTag x.id p
  let frames ← if copyDir x.bytes = 1 then do
      hostAsks true false r src n 4096
      let bs ← readBytes r src n
      pure ((upto (ceilDiv n 256)).map (fun i =>
        FabMsg.copyWrite rg me tag (dst + BitVec.ofNat 64 (256 * i)) ((bs.drop (256 * i)).take 256)))
    else pure [FabMsg.copyRead rg me tag src n]
  let w ← get
  match toMembers gno g [k] (fun _ => frames) w.dev with
  | some v => set { w with dev := countTx x.ctx frames v }
  | none => throw (.fail stRemote 0)

/-- A peer part ends with a failure, what it wrote here undefined (R310). -/
def copyFail (x : Desc) (p : Nat) (st : Byte) (a : W64) (w : Work) : Work :=
  let (o, n) := copySpan x p
  let w := if copyDir x.bytes = 1 then w else freeDest { w with dest := [destNow x 1 o n w] }
  onDev (endPart x.id p st a {}) w

/-- A COPY part starts: a local one runs as a whole, a peer's waits for its answers. -/
def copyRun (d p : Nat) (w : Work) : Work :=
  match startable w.dev d p 7 with
  | none => w
  | some (x, q) =>
    let n := (copySpan x p).2
    if copyDir x.bytes = 0 || n = 0 then runPart d p (if n = 0 then pure () else copyLocal x q p) w
    else if !copyGroupOk w.dev x.ctx x.bytes then
      onDev (fun v => endPart d p stMalformed 0 {} (startPart d p v)) w
    else
      let begun := onDev (startPart d p)
      beginPart d p (fun _ => runAcc (copyAsk x q p) (fun _ w => begun w) (fun st a w => copyFail x p st a (begun w)) w) w

/-! ### The peer's side (R364, R367) -/

/-- An answer to the node that asked. -/
def copyReply (gno node : Nat) (ms : List FabMsg) (v : Dev) : Dev :=
  (sendMsg gno node (getGroup v gno).record.portMask ms v).getD v

/-- A group takes a COPY of a rank: it and its context are enabled, and the rank is another member at that node. -/
def copyServes (v : Dev) (gno rank node : Nat) : Bool :=
  let g := getGroup v gno
  groupLive v gno && (otherRanks g).contains rank && (memberOf g rank).node.toNat = node

/-- An arrived frame whose access waits stays here, acknowledged as it is, until the access can be made (R26, R335). -/
def rxKeep (src : Nat) (m : FabMsg) : Work → Work :=
  onDev (fun v => { v with fab := { v.fab with rxWaits := v.fab.rxWaits ++ [⟨BitVec.ofNat 10 src, m⟩] } })

/-- Bytes that a peer writes here, by the tables of the context that owns this module's copy of the group. -/
def rxCopyWrite (g : Byte) (rank tag node : Nat) (addr : W64) (bs : List Byte) (w : Work) : Work :=
  let gno := g.toNat
  if !copyServes w.dev gno rank node then onDev (copyReply gno node [.copyDone tag stRemote addr 0]) w
  else
    let x := (getGroup w.dev gno).ctx.toNat
    runAccOr (do
        hostAsks false false (edge x) addr bs.length 512
        writeBytes (edge x) addr bs)
      (fun _ w => onDev (fun v => copyReply gno node [.copyDone tag 0 addr bs.length] (ctrAdd x 15 bs.length v)) w)
      (fun st a w => onDev (copyReply gno node [.copyDone tag st a 0]) w) (rxKeep node (.copyWrite g rank tag addr bs)) w

/-- Bytes that a peer reads here. -/
def rxCopyRead (g : Byte) (rank tag node : Nat) (addr : W64) (n : Nat) (w : Work) : Work :=
  let gno := g.toNat
  if !copyServes w.dev gno rank node then onDev (copyReply gno node [.copyDone tag stRemote addr 0]) w
  else
    let x := (getGroup w.dev gno).ctx.toNat
    runAccOr (do
        hostAsks true false (edge x) addr n 4096
        readBytes (edge x) addr n)
      (fun bs w =>
        let ms := (upto (ceilDiv n 256)).map (fun i =>
          FabMsg.copyData tag (addr + BitVec.ofNat 64 (256 * i)) ((bs.drop (256 * i)).take 256))
        onDev (fun v => copyReply gno node ms (countTx x ms v)) w)
      (fun st a w => onDev (copyReply gno node [.copyDone tag st a 0]) w) (rxKeep node (.copyRead g rank tag addr n)) w

/-! ### The answers -/

/-- The running COPY part that a tag names. -/
def copyPart (v : Dev) (tag : Nat) : Option (Desc × Part × Nat) :=
  match getDesc v (tag / 256) with
  | none => none
  | some x =>
    match x.parts[tag % 256]? with
    | none => none
    | some q => if x.cls = 7 && q.state = .running then some (x, q, tag % 256) else none

/-- Bytes of a peer part that are done; with its last, the part succeeds. -/
def copyProgress (x : Desc) (p n : Nat) (v : Dev) : Dev :=
  let v := modPart x.id p (fun q => { q with progress := q.progress + n }) v
  match getDesc v x.id with
  | some y => if (copySpan y p).2 ≤ (y.parts.getD p {}).progress then endPart x.id p stSuccess 0 {} v else v
  | none => v

/-- The peer answers (R367): bytes done, or a failure with the peer's address. -/
def rxCopyDone (tag : Nat) (st : Byte) (addr : W64) (n : Nat) (w : Work) : Work :=
  match copyPart w.dev tag with
  | none => w
  | some (x, _, p) => if st = 0 then onDev (copyProgress x p n) w else copyFail x p st addr w

/-- Bytes read from the peer arrive, and are written where the part puts them. -/
def rxCopyData (tag node : Nat) (addr : W64) (bs : List Byte) (w : Work) : Work :=
  match copyPart w.dev tag with
  | none => w
  | some (x, q, p) =>
    let body : Acc Unit := do
      let r ← copyReq x q
      let a := slotAddr x r 1 + (addr - slotAddr x r 0)
      hostAsks false false r a bs.length 512
      writeBytes r a bs
    runAccOr body
      (fun _ w => onDev (fun v => copyProgress x p bs.length (ctrAdd x.ctx 15 bs.length v)) w)
      (fun st a w => copyFail x p st a w) (rxKeep node (.copyData tag addr bs)) w

/-- What a frame of a COPY does on this module; `node` sent it. -/
def rxCopy (node : Nat) (m : FabMsg) (w : Work) : Work :=
  match m with
  | .copyWrite g rank tag a bs => rxCopyWrite g rank tag node a bs w
  | .copyRead g rank tag a n => rxCopyRead g rank tag node a n w
  | .copyData tag a bs => rxCopyData tag node a bs w
  | .copyDone tag st a n => rxCopyDone tag st a n w
  | _ => w

/-- The arrived frames whose accesses waited tried again, in the order of their arrival. -/
def rxDrain (w : Work) : Work :=
  w.dev.fab.rxWaits.foldl (fun w c => rxCopy c.src.toNat c.body w)
    (onDev (fun v => { v with fab := { v.fab with rxWaits := [] } }) w)

/-- COPY (R366). -/
def execCopy (d p : Nat) (s : State) : Host.Outcome State Fault Refusal := runWork (copyRun d p) s

end Sys2Proof.Machine
end

