-- ==== Sys2Proof/Machine/Power.lean ====
section
/-! DEFINITION. Power, resets, start-up and firmware (chapters 18 and 20), pace and the time base (chapter 02), sensors
(chapter 21), and park (chapter 20). -/

namespace Sys2Proof.Machine

open Sys2Proof

/-! ### Resets -/

/-- Every register at its reset value and every unit idle; the pins, flash, the model's output and its free-value counter
stay (R11, R293). -/
def resetDev (pw : Power) (v : Dev) : Dev :=
  { power := pw, out := v.out, free := v.free, pace := { tbSource := v.pace.tbSource }, ue := v.ue, torn := v.torn }

/-- Memories that have lost their contents in addition. -/
def loseMem (l : MemLoss) (p : Power) : Power := { p with lost := p.lost.join l }

/-- The straps latched (R487), the rails up unless a sensor is at its warning threshold or above (R483), and start-up begun (R437). The time base counts from 0 once PERST_L is
high (R39); its source follows the reference clock (R40). -/
def applyPower (st : Straps) (refclkOk : Bool) (v : Dev) : Dev :=
  let v := resetDev { (loseMem .onDie v.power) with
    state := .start, rbHigh := false, vaon := true, railsUp := !v.power.hot, straps := st, strapsLatched := true, setpoint := 620
    busySince := if v.power.perstLow then none else some 0 } v
  { v with pace := { v.pace with tbSource := !refclkOk, running := !v.power.perstLow } }

/-- POWER_UP (R437): the 60 V input enters its operating range with the module off. -/
def powerUp (st : Straps) (refclkOk : Bool) (v : Dev) : Dev :=
  if v.power.state = .off then applyPower st refclkOk v else v

/-- INPUT_FAULT_TURN_OFF (R477, R479): every rail but the always-on rail removed, ports stopped, RB_L low; no state but what
lies in DRAM survives. The straps count as not latched until the next power-up (R487). -/
def inputFault (w : Work) : Work :=
  let v := w.dev
  if v.power.state = .off then w
  else
    { w with
      wiped := .onDie
      dev := { (resetDev { (loseMem .onDie { perstLow := v.power.perstLow, lost := v.power.lost, hot := v.power.hot }) with
          vaon := v.power.vaon } v) with
        ue := v.ue.filter (fun a => decide (a < cstoreBase)) } }

/-- PERST_L driven low (R293): all device state cleared, straps kept, RB_L low. A tripped or unpowered module stays so. It
stays low for longer than the shortest busy period (R294, R325). -/
def perstAssert (v : Dev) : Dev :=
  if v.power.perstLow then v
  else
    let st := if v.power.state = .off then PowerState.off else if v.power.state = .tripped then .tripped else .start
    resetDev { v.power with perstLow := true, rbHigh := false, state := st, setpoint := 620, busySince := none } v

/-- PERST_L released (R294): the time base counts from 0, and the ROM starts once the rails are up (R437). Rails that a trip took
off stay off while a sensor is at its warning threshold or above (R483). The pins that EXTEST drives are let go (R489), and SEQ
counts events from here (R321). -/
def perstRelease (v : Dev) : Dev :=
  if !v.power.perstLow then v
  else
    let pw := { v.power with perstLow := false }
    if v.power.state = .off then { v with power := pw }
    else
      { v with
        power := { pw with state := .start, railsUp := pw.railsUp || !pw.hot }
        mgmt := { v.mgmt with pinsDriven := false }
        attn := {}
        pace := { v.pace with time := 0, running := true } }

/-! ### Images and the configuration block (R442 to R449) -/

/-- Bytes that lie in given ranges are all zero. -/
def zeroIn (bs : List Byte) (ranges : List (Nat × Nat)) : Bool :=
  ranges.all (fun r => ((bs.drop r.1).take (r.2 + 1 - r.1)).all (fun b => b = 0))

/-- Reserved bits of one byte are zero. -/
def lowBits (bs : List Byte) (o n : Nat) : Bool := decide (leAt bs o 1 < 2 ^ n)

/-- The two signatures over a digest, checked in order: 0, or the first failure's code (R443, R459). -/
def sigCheck (hdr digest : List Byte) (keysOk : Bool) : Nat :=
  let ed := (hdr.drop 64).take 32
  let ml := (hdr.drop 128).take 1952
  if !keysOk then 2
  else if !Config.ed25519Valid ed digest ((hdr.drop 2080).take 64) then 3
  else if !Config.mldsaValid ml digest ((hdr.drop 2144).take 3309) then 4
  else 0

/-- The public keys match the ROM digests that two indices name (R443, R448). -/
def romKeysOk (hdr : List Byte) (edIdx mlIdx : Nat) : Bool :=
  sha384 ((hdr.drop 64).take 32) = Config.romEdDigest (Fin.ofNat 4 edIdx) &&
  sha384 ((hdr.drop 128).take 1952) = Config.romMldsaDigest (Fin.ofNat 4 mlIdx)

/-- The measurement M of an image (R443). -/
def imageDigest (img : List Byte) : List Byte :=
  sha384Bytes (img.take 2080 ++ (img.drop 8192).take (leAt img 8 4))

/-- The checks of R443 on an image of `len` bytes: 0, or IMG_ERR. -/
def imageCheck (img : List Byte) (len : Nat) : Nat :=
  let body := leAt img 8 4
  if leAt img 0 4 ≠ 0x37375541 || leAt img 4 4 ≠ 8192 || body = 0 || 16769024 < body || len < 8192 + body ||
      !zeroIn img [(30, 63), (96, 127), (5453, 8191)] || !lowBits img 28 2 || !lowBits img 29 2 then 1
  else sigCheck img (imageDigest img) (romKeysOk img (leAt img 28 1) (leAt img 29 1))

/-- Flash contents (R441). -/
def flashBytes (o n : Nat) (w : Work) : List Byte := peeks .flash o n w

/-- The measurement C of a configuration block (R448). -/
def configDigest (blk : List Byte) : List Byte := sha384Bytes (blk.take 2080)

/-- The owner key record (R441). -/
def ownerRecord (w : Work) : List Byte := flashBytes 0x01002000 48 w

/-- The checks of R448 on a configuration block: 0, or CFG_ERR. -/
def configCheck (blk owner : List Byte) : Nat :=
  if blk.all (fun b => b = 0xFF) then 6
  else
    let signer := leAt blk 4 1
    if leAt blk 0 4 ≠ 0x47464343 || 1 < signer || !zeroIn blk [(5, 7), (15, 15), (20, 63), (96, 127), (5453, 8191)] ||
        !lowBits blk 9 2 || !lowBits blk 13 5 || !lowBits blk 14 1 || !lowBits blk 18 2 || !lowBits blk 19 2 ||
        (signer = 1 && leAt blk 18 2 ≠ 0) then 1
    else
      let keys := ((blk.drop 64).take 32) ++ ((blk.drop 128).take 1952)
      let ok := if signer = 1 then decide (sha384Bytes keys = owner) else romKeysOk blk (leAt blk 18 1) (leAt blk 19 1)
      sigCheck blk (configDigest blk) ok

/-- The configuration block's fields applied, or the defaults of R449. Once RB_L has gone high after reset the device
rewrites no RW or RWP field (R494), so a watchdog restart applies only the watchdog timeout. -/
def applyConfig (w : Work) : Work :=
  let blk := flashBytes 0x01000000 8192 w
  let err := if w.dev.arm.flashOk then configCheck blk (ownerRecord w) else 5
  let good := err = 0
  let node := if good then leAt blk 8 2 else 0
  let target := if good then clampNat 550 1350 (leAt blk 10 2) else 940
  let cap := if good then clampNat 1000 4000 (leAt blk 12 2) else 3300
  let ide := if good then leAt blk 14 1 = 1 else true
  let wdt := if good then clampNat 10 10000 (leAt blk 16 2) else 1000
  let st : Nat := if good then (if leAt blk 4 1 = 1 then 2 else 1) else 3
  onDev (fun v =>
    let v := { v with arm := { v.arm with
      stage := 4
      cfgState := BitVec.ofNat 2 st
      cfgErr := BitVec.ofNat 4 err
      cfgMeas := if good then digestOf (configDigest blk) else 0
      wdtTimeout := BitVec.ofNat 16 wdt
      nodeIdWritten := false } }
    if v.blk.live then v
    else
      { v with
        fab := { v.fab with nodeId := BitVec.ofNat 10 node }
        pace := { v.pace with target := BitVec.ofNat 16 target, cap := BitVec.ofNat 13 cap, capRead := BitVec.ofNat 13 cap }
        cxl := { v.cxl with ideReq := ide } }) w

/-- The alias key's seed: HKDF-SHA-384 of the secret with the label Alias and M followed by C (R450). -/
def aliasSeed (secret : BitVec 256) (m c : BitVec 384) : BitVec 384 :=
  digestOf (hkdf384 (leBytes 32 secret.toNat) ([0x41, 0x6C, 0x69, 0x61, 0x73] ++ leBytes 48 m.toNat ++ leBytes 48 c.toNat))

/-- The DeviceID key's seed: HKDF-SHA-384 of the secret with the label DeviceID (R450). -/
def deviceIdSeed (secret : BitVec 256) : BitVec 384 :=
  digestOf (hkdf384 (leBytes 32 secret.toNat) [0x44, 0x65, 0x76, 0x69, 0x63, 0x65, 0x49, 0x44])

/-- The PUF's secret, from its array and the helper data in flash (R441, R450). -/
def pufSecret (array : List Byte) (w : Work) : Option (BitVec 256) :=
  Config.pufSecret array (flashBytes 0x01003000 4096 w)

/-- The image accepted: measured, configuration applied, identity derived, alias certificate signed, secret and DeviceID key
erased, watchdog armed, firmware started, memory initialisation begun (R437, R445, R448 to R450, R452). -/
def startFirmware (img : List Byte) (source : Bool) (w : Work) : Work :=
  let w := onDev (fun v => { v with arm := { v.arm with
    imgErr := 0, source := source, ownerMeas := digestOf (ownerRecord w), meas := digestOf (imageDigest img)
    fwVersion := BitVec.ofNat 32 (leAt img 20 4), fwSvn := BitVec.ofNat 32 (leAt img 24 4) } }) w
  let w := applyConfig w
  onDev (fun v =>
    { v with
      blk := { v.blk with busyCause := if v.arm.wdtRestarts = 0 then 1 else 3 }
      arm := { v.arm with
        aliasKey := match v.arm.secret with
          | some s => aliasSeed s v.arm.meas v.arm.cfgMeas
          | none => 0
        aliasCert := match v.arm.secret with
          | some s => Config.aliasCert (deviceIdSeed s) (aliasSeed s v.arm.meas v.arm.cfgMeas) v.arm.meas v.arm.cfgMeas
          | none => []
        secret := none, wdtArmed := true, firmware := true, stage := 5 } }) w

/-- The image refused: the ROM waits for a recovery load (R445). -/
def waitRecovery (err : Nat) (v : Dev) : Dev :=
  { v with
    arm := { v.arm with stage := 2, imgErr := BitVec.ofNat 4 err }
    blk := { v.blk with busyCause := 2 } }

/-- A new incarnation, never the value it replaces (R339 and the text before it). -/
def drawIncarnation (v : Dev) : Dev :=
  let r := Config.freeIncarnation v.free
  let n := v.fab.incarn + 1 + BitVec.ofNat 32 (r.toNat % (2 ^ 32 - 1))
  { v with fab := { v.fab with incarn := n }, free := v.free + 1 }

/-- A reading in 1/16 °C as a signed number (R484). -/
def temp (t : W16) : Int := t.toInt

/-- Warning and trip thresholds of a sensor kind, in 1/16 °C (R482). -/
def warnTj : Int := 105 * 16
def warnStackT : Int := 100 * 16
def warnPower : Int := 115 * 16

/-- Sensor `i` of SNS_FAILED has failed (R502). -/
def sensorFailed (s : Sns) (i : Nat) : Bool := s.failed.getLsbD i

/-- The highest reading among a field's working sensors (R501). -/
def fieldTemp (s : Sns) (f : Nat) : Option Int :=
  ((upto 4).filter (fun i => !sensorFailed s (4 * f + i))).foldl
    (fun m i =>
      let t := temp (s.tj.getD (4 * f + i) 0)
      match m with
      | none => some t
      | some u => some (if u < t then t else u)) none

/-- Every working sensor reads below its warning threshold (R483). -/
def allCool (s : Sns) : Bool :=
  (upto 16).all (fun i => sensorFailed s i || temp (s.tj.getD i 0) < warnTj) &&
  (upto 20).all (fun i => sensorFailed s (16 + i) || temp (s.tstack.getD i 0) < warnStackT) &&
  (upto 2).all (fun i => sensorFailed s (36 + i) || temp (s.tpwr.getD i 0) < warnPower)

/-- The checks of R443 on the image in flash: 0, or IMG_ERR. An update that was interrupted leaves a slot that fails one of
them, which one is open (R446). -/
def flashImageErr (flashOk : Bool) (w : Work) : Nat :=
  if !flashOk then 5
  else if !w.dev.torn.isEmpty then 1 + (freeVal w.dev).toNat % 4
  else imageCheck (flashBytes 0 16777216 w) 16777216

/-- ROM_START (R437, R443 to R450, R339): PUF, incarnation, image check, and the firmware or WAIT_RECOVERY. It waits until the
sensors read below their warning thresholds (R483). -/
def romStart (puf : List Byte) (flashOk : Bool) (w : Work) : Work :=
  let v := w.dev
  if v.power.state ≠ .start || v.power.perstLow || !v.power.railsUp || !v.arm.romPending || v.power.hot then w
  else
    let s := pufSecret puf w
    let w := onDev (fun v =>
      drawIncarnation { v with
        arm := { v.arm with romPending := false, stage := 1, pufOk := s.isSome, secret := s, flashOk := flashOk, source := false }
        cxl := { v.cxl with configLive := true } }) w
    let err := flashImageErr flashOk w
    let w := if w.dev.torn.isEmpty then w else onDev freeNext w
    if flashOk && w.dev.torn.isEmpty && err = 0 then startFirmware (flashBytes 0 16777216 w) false w
    else onDev (waitRecovery err) w

/-- A recovery load's bytes checked and started, or refused (R445). -/
def recoverWith (img : List Byte) (readOk : Bool) (w : Work) : Work :=
  let err := if readOk then imageCheck img img.length else 5
  if err = 0 then startFirmware img true w else onDev (waitRecovery err) w

/-- The banks and stationary sets of every engine, the chisel cores' stores and the uncorrectable words on the die
written afresh (R438, R480). No chisel core runs after it, so none waits to launch (R240). -/
def clearOnDie (v : Dev) : Dev :=
  let launches : StabIssuer → Bool
    | .launch _ => true
    | _ => false
  stabForget launches { v with engines := [], chisels := [], ue := v.ue.filter (fun a => decide (a < cstoreBase)) }

/-- The module is in the part of its start-up that follows a stage of the armature processor's (R437, R479). -/
def starting (stage : BitVec 4) (v : Dev) : Bool := v.power.state = .start && v.power.railsUp && v.arm.stage = stage

/-- MEMORY_INIT_DONE (R437, R438): every word and granule is zero with a fresh code. It waits until the host holds no line of what it
writes (R285). -/
def memoryInitDone (w : Work) : Work :=
  if !starting 5 w.dev || !w.dev.cxl.directory.isEmpty then w
  else
    { w with
      wiped := .all
      stores := w.stores.filter (fun x => x.space ≠ .dev)
      dev := { (clearOnDie w.dev) with
        ue := [], ueTimes := [], power := { w.dev.power with lost := .none }
        arm := { w.dev.arm with memoryInit := true, stage := 6 } } }

/-- RB_L goes high (R438, R499, R326): BUSY_CAUSE and LIVE are written first; a pulse follows if any record is unread, or if one
was owed for a failed record write (R324). -/
def becomeReady (v : Dev) : Dev :=
  { v with
    power := { v.power with state := .active, rbHigh := true, busySince := none }
    blk := { v.blk with ready := true, busyCause := 0, live := true }
    fab := { v.fab with changed := true }
    attn := { v.attn with
      pulseLow := false, gapFrom := some (now v)
      pulseDue := v.attn.pulseDue || (v.attn.pulseEn && v.attn.tail ≠ v.attn.head) } }

/-- A busy period has lasted its 10,000 units (R325). -/
def busyLong (v : Dev) : Bool :=
  match v.power.busySince with
  | some t => decide (10000 ≤ since v t)
  | none => true

/-- STARTUP_SELF_TEST (R439, R437): failed cores are fenced, failed stacks recorded, Memory_Active reads 1 and RB_L goes
high. -/
def startupSelfTest (cores : W32) (stks : BitVec 20) (v : Dev) : Dev :=
  if !starting 6 v || !busyLong v then v
  else
    let v := (upto 32).foldl (fun v c => if cores.getLsbD c then fenceCore c v else v) v
    becomeReady { v with
      arm := { v.arm with postCores := cores, postStacks := stks, stage := 7 }
      cxl := { v.cxl with memoryActive := true } }

/-- A request of the firmware's passes the checks of R446 for what it writes. -/
def flashPasses (kind : FlashKind) (bs : List Byte) (w : Work) : Bool :=
  match kind with
  | .image => decide (bs.length ≤ 16777216) && decide (imageCheck bs bs.length = 0)
  | .configBlock => decide (bs.length = 8192) && decide (configCheck bs (ownerRecord w) = 0)
  | .ownerKey => decide (bs.length = 48)

/-- Where each kind lies in flash (R441). -/
def flashPlace : FlashKind → Nat
  | .image => 0
  | .configBlock => 0x01000000
  | .ownerKey => 0x01002000

/-- FLASH_UPDATE (R446): a privileged request writes a checked image, block or record while the firmware runs; one that is
interrupted after `cut` bytes leaves the slot torn. -/
def flashUpdate (kind : FlashKind) (bs : List Byte) (privileged : Bool) (cut : Option Nat) (w : Work) : Work :=
  if !w.dev.arm.firmware || !privileged || !flashPasses kind bs w then w
  else
    match cut with
    | some n =>
      if n < bs.length then
        onDev (fun v => { v with torn := v.torn.filter (fun k => k ≠ kind) ++ [kind] }) (pokes .flash (flashPlace kind) (bs.take n) w)
      else w
    | none =>
      onDev (fun v => { v with torn := v.torn.filter (fun k => k ≠ kind) }) (pokes .flash (flashPlace kind) bs w)

/-- A port stopped: down, with nothing heard or sent on it (R428, R477, R483). -/
def stopPorts (v : Dev) : Dev :=
  { v with
    ports := tabMap {} (fun _ p => { p with state := if p.enable then 5 else 0, lanes := 0, lastTrain := now v, fell := p.enable }) v.ports
    fab := { v.fab with tx := [] } }

/-- WATCHDOG_EXPIRY (R428, R452): every port stops, RB_L is held low, and the ROM starts again; the time base and configuration
space stay. A running self-test has been ended before (R452). Park ends with it, and PARK_REQ keeps its value (R494, log 90). -/
def watchdogRestart (v : Dev) : Dev :=
  let v := stopPorts v
  { v with
    power := { v.power with rbHigh := false, state := .start, busySince := some (now v) }
    blk := { v.blk with ready := false, busyCause := 3 }
    pace := { v.pace with parkState := 0, leaveAsked := false }
    cxl := { v.cxl with memoryActive := false }
    attn := { v.attn with pulseLow := false }
    fab := { v.fab with changed := true }
    arm := { v.arm with
      wdtRestarts := satAdd v.arm.wdtRestarts 1, wdtArmed := false, firmware := false, memoryInit := false
      stage := 0, romPending := true } }

/-! ### The time base and pace -/

/-- A change of the time base's source, traced (R40, R469). -/
def switchSource (osc : Bool) (v : Dev) : Dev :=
  let v := { v with pace := { v.pace with tbSource := osc, tbSwitches := satAdd v.pace.tbSwitches 1, tbSince := now v } }
  traceTo 0 ⟨now v, 0x09, 0, 0x3FF, [BitVec.ofNat 8 (b2n osc)]⟩ v

/-- REFCLOCK_LOST (R40). While PERST_L is low the registers stay at reset and no event is raised (R293, R321). -/
def refclockLost (v : Dev) : Dev :=
  if v.pace.tbSource || v.power.state = .off then v
  else if v.power.perstLow then { v with pace := { v.pace with tbSource := true } }
  else
    let v := switchSource true v
    raise 0x0003 0 [1] { v with pace := { v.pace with tbLost := true } }

/-- REFCLOCK_RESTORED (R40): the clock has stayed within its limits for 1 ms of time base, which is no longer than the time
since the oscillator was taken. -/
def refclockRestored (v : Dev) : Dev :=
  if !v.pace.tbSource || v.power.state = .off || v.power.perstLow || since v v.pace.tbSince < 1000000 then v
  else switchSource false v

/-- Numbers of the periodic events (log 13). -/
def tmMonitor : Nat := 0
def tmCalibrate : Nat := 1
def tmGovernor : Nat := 2
def tmSensor : Nat := 3
def tmSensorCal : Nat := 4
def tmPcs (src : Nat) : Nat := 10000 + src
def tmAnnounce : Nat := 6
def tmHeartbeat (p : Nat) : Nat := 100 + p
def tmMirror (x : Nat) : Nat := 200 + x

/-- Smallest of four paces (R32). -/
def minPace (a b c d : W16) : W16 :=
  let m (x y : W16) : W16 := if x.toNat ≤ y.toNat then x else y
  m (m a b) (m c d)

/-- Two PACE_MEASURED values agree within 0.5 % (R38). -/
def paceAgrees (a b : W16) : Bool :=
  decide (200 * a.toNat ≤ 201 * b.toNat) && decide (200 * b.toNat ≤ 201 * a.toNat)

/-- VCORE `d` mV further on its way from one level to another (R38). -/
def slew (vcore setpoint d : Nat) : Nat :=
  if vcore < setpoint then Nat.min setpoint (vcore + d) else Nat.max setpoint (vcore - d)

/-- VCORE now: 5 mV in every 1,000 units since it stood at `pace.vcore` (R38, log 37). -/
def vcoreNow (v : Dev) : Nat := slew v.pace.vcore.toNat v.power.setpoint (5 * (since v v.pace.vcoreAt / 1000))

/-- The table of R30: VCORE in mV, and the pace of a field at 55 °C in M steps/s. -/
def paceTable : List (Nat × Nat) :=
  [(500, 550), (550, 720), (600, 880), (620, 940), (650, 1020), (700, 1140), (750, 1250), (800, 1350)]

/-- Pace at 55 °C by linear interpolation between the rows of R30, in units of a step per second. -/
def paceAt55 (vc : Nat) : Nat :=
  match (paceTable.zip (paceTable.drop 1)).find? (fun c => decide (c.1.1 ≤ vc) && decide (vc ≤ c.2.1)) with
  | some (a, b) => 1000000 * a.2 + 1000000 * (b.2 - a.2) * (vc - a.1) / (b.1 - a.1)
  | none => 0

/-- The least and the greatest factor of a pace, in units of 10^-8, over a range of temperatures in 1/16 °C (R31): none where
the rule gives no upper bound. -/
def paceFactor (t1 t2 : Int) : Nat × Option Nat :=
  let fall (t : Int) : Nat := (100000000 - 9375 * (t - 880)).toNat
  (if t1 ≤ 880 then (if t2 < 400 then 100000000 else 99000000) else fall t2,
   if t1 < 400 then none else if t1 ≤ 880 then some 101000000 else some (fall t1))

/-- Whether a reported pace is one that a field can have (R30, R31, R33; log 91): VCORE lies between two levels, and the field's
temperature within the sensors' 1.5 °C of what they read. The report is a whole number of M steps/s. -/
def paceFits (lo hi : Nat) (t : Option Int) (r : Nat) : Bool :=
  match t with
  | none => true
  | some t =>
    let (f1, f2) := paceFactor (t - 24) (t + 24)
    let exact := lo = hi && paceTable.any (fun c => c.1 = lo)
    let den := 10000000000000000000
    decide (paceAt55 lo * f1 * (if exact then 100 else 99) * 995 ≤ (r + 1) * den) &&
      (match f2 with
       | some f2 => decide (r * den ≤ paceAt55 hi * f2 * (if exact then 100 else 101) * 1005 + den)
       | none => true)

/-- The temperature of a field as the sensors last read it, if they have (R501). -/
def knownTemp (v : Dev) (f : Nat) : Option Int := if v.sns.update = 0 then none else fieldTemp v.sns f

/-- The levels between which VCORE has been in the last 10,000 units (R34, R38): since the last decision it moves one way from
`pace.vcore`, and before that it moved one way from `pace.vcoreBack`, where it was 10,000 units earlier. -/
def vcoreSpan (v : Dev) : Nat × Nat :=
  let p := v.pace
  let t := since v p.vcoreAt
  let vc := vcoreNow v
  let from_ := if 10000 ≤ t then slew p.vcore.toNat v.power.setpoint (5 * ((t - 10000) / 1000))
    else slew p.vcoreBack.toNat p.vcore.toNat (5 * (t / 1000))
  let turn := if 10000 ≤ t then from_ else p.vcore.toNat
  (Nat.min vc (Nat.min from_ turn), Nat.max vc (Nat.max from_ turn))

/-- The four reported paces are those of levels at which VCORE has been since the last update (R30, R31, R33). -/
def windowFits (a b c d : W16) (v : Dev) : Bool :=
  let (lo, hi) := vcoreSpan v
  ([a, b, c, d].zipIdx).all (fun r => paceFits lo hi (knownTemp v r.2) r.1.toNat)

/-- PACE_MONITOR_WINDOW (R34, R38): PACE_FIELD, PACE_MEASURED and SETTLED, every 10,000 units, for paces that the fields can
have (R30, R31, R33). -/
def paceWindow (a b c d : W16) (v : Dev) : Dev :=
  if v.power.state ≠ .active || !timerDue v tmMonitor 10000 || !windowFits a b c d v then v
  else
    let m := minPace a b c d
    let p := v.pace
    let there := decide (v.power.setpoint = vcoreNow v)
    let ok := there && decide (1 ≤ p.windowsSince) && paceAgrees m p.measured
    timerMark tmMonitor { v with
      pace := { p with
        fields := [a, b, c, d], measured := m, windowsSince := if there then p.windowsSince + 1 else 0
        settled := p.settled || ok }
      fab := { v.fab with changed := v.fab.changed || decide (m ≠ p.measured) } }

/-- PACE_MONITOR_CALIBRATION (R33): every 1 ms; it needs nothing and changes no value software sees. -/
def paceCalibrate (v : Dev) : Dev :=
  if v.power.state ≠ .active || !timerDue v tmCalibrate 1000000 then v
  else timerMark tmCalibrate { v with pace := { v.pace with calibrations := v.pace.calibrations + 1 } }

/-- A setpoint between the present one and a goal, in 5 mV steps within R30: the amount of a move toward the mode's aim
is the governor's (R35), so the command names it. -/
def moveToward (lo hi aim : Nat) : Nat := clampNat lo hi (aim / 5 * 5)

/-- What one decision comes to: the new setpoint and LIMIT (R35, R47). Rule 1 decides once VCORE itself stands at the end of its
range and the measured pace is of that VCORE alone, which the second update there is; until then no rule constrains it. Where the
setpoint is at the ceiling and a margin is not met, the margin's rule decides (log 92). -/
def governorRule (p : Pace) (setpoint vc : Nat) (hot : Int) (power aim : Nat) : Nat × Nat :=
  let cap := p.cap.toNat
  let tj : Int := p.tjLimit.toNat * 16
  if cap < power then (Nat.max 500 (setpoint - 5), 1)
  else if tj < hot then (Nat.max 500 (setpoint - 5), 2)
  else
    let noPower := decide (95 * cap < 100 * power)
    let noHeat := decide (tj - 32 < hot)
    let wantUp := if p.mode = 1 then decide (setpoint < p.vcoreSet.toNat) else decide (p.measured.toNat < p.target.toNat)
    let wantDown := if p.mode = 1 then decide (p.vcoreSet.toNat < setpoint) else decide (p.target.toNat < p.measured.toNat)
    if wantUp then
      if noPower then (setpoint, 1)
      else if noHeat then (setpoint, 2)
      else if p.mode = 1 then (moveToward setpoint p.vcoreSet.toNat aim, 0)
      else if setpoint = 800 then (800, if vc = 800 ∧ 2 ≤ p.windowsSince then 3 else 0)
      else (moveToward setpoint 800 aim, 0)
    else if wantDown then
      if p.mode = 1 then (moveToward p.vcoreSet.toNat setpoint aim, 0)
      else if setpoint = 500 then (500, if vc = 500 ∧ 2 ≤ p.windowsSince then 4 else 0)
      else (moveToward 500 setpoint aim, 0)
    else (setpoint, 0)

/-- GOVERNOR_DECISION (R35 to R38): every 10,000 units while the governor runs. The registers written since the last decision are
read now, and a step of 5 mV under way is completed first (R38). -/
def governorDecision (power : BitVec 13) (aim : Nat) (v : Dev) : Dev :=
  if v.power.state ≠ .active || !timerDue v tmGovernor 10000 then v
  else
    let p := v.pace
    let vc := slew p.vcore.toNat v.power.setpoint (5 * ceilDiv (since v p.vcoreAt) 1000)
    let (sp, lim) := governorRule p v.power.setpoint (vcoreNow v) (temp v.sns.hotTemp) power.toNat aim
    let missed := decide (1 ≤ lim) && decide (lim ≤ 3) &&
      (if p.mode = 1 then decide (sp ≠ p.vcoreSet.toNat) else decide (p.measured.toNat < p.target.toNat))
    let moved := decide (sp ≠ v.power.setpoint)
    let release := p.gating && decide (100 * power.toNat ≤ 95 * p.cap.toNat)
    let p' := { p with
      inputPower := power
      limit := BitVec.ofNat 3 lim
      targetMissed := p.targetMissed || missed
      vcore := BitVec.ofNat 10 vc
      vcoreAt := now v
      vcoreBack := BitVec.ofNat 10 (slew p.vcore.toNat v.power.setpoint (5 * ((since v p.vcoreAt - 10000) / 1000)))
      capRead := p.cap
      gating := p.gating && !release
      settled := p.settled && !moved
      windowsSince := if moved then 0 else p.windowsSince }
    let v' := timerMark tmGovernor { v with pace := p', power := { v.power with setpoint := sp } }
    if p.limit = 0 && lim ≠ 0 && p.attnEn then raise 0x0002 0 [BitVec.ofNat 8 lim] v' else v'

/-- ISSUE_GATING (R36): the instantaneous input power exceeds the cap as the governor last read it (R38). -/
def issueGating (power : BitVec 13) (v : Dev) : Dev :=
  if v.power.state ≠ .active || power.toNat ≤ v.pace.capRead.toNat || v.pace.gating then v
  else ctrAdd 0x3FF 1 1 { v with pace := { v.pace with gating := true, capGated := true } }

/-! ### Sensors -/

/-- The value a failed sensor reads (R502). -/
def failedReading : W16 := 0x8000

/-- Readings with the failed sensors' replaced (R502). `o` is the first sensor's number in SNS_FAILED. -/
def maskFailed (s : Sns) (o : Nat) (l : List W16) (n : Nat) : List W16 :=
  (upto n).map (fun i => if sensorFailed s (o + i) then failedReading else l.getD i 0)

/-- THERMAL (R484). -/
def raiseThermal (kind src : Nat) (t : W16) (v : Dev) : Dev :=
  raise 0x0016 0 (leBytes 1 kind ++ leBytes 1 src ++ leBytes 2 t.toNat) v

/-- The hottest field: its temperature and the lowest-numbered field that has it (R501). -/
def hottest (s : Sns) : Option (Int × Nat) :=
  (upto 4).foldl (fun m f =>
    match fieldTemp s f, m with
    | none, m => m
    | some t, none => some (t, f)
    | some t, some (u, g) => if u < t then some (t, f) else some (u, g)) none

/-- A warned source has fallen 5 °C below its threshold (R482). -/
def fallen (t thr : Int) : Bool := decide (t ≤ thr - 80)

/-- A source's next state: at or above its threshold it is warned, and stays so until every source that warned has fallen (R482). -/
def warnNext (old clear : Bool) (t thr : Int) : Bool := decide (thr ≤ t) || (old && !clear)

/-- The sources that can warn: their number, threshold, temperature and whether they work (R482, R484). -/
def warnSources (s : Sns) : List (Nat × Int × Option Int) :=
  (upto 4).map (fun f => (f, warnTj, fieldTemp s f)) ++
  (upto 20).map (fun i => (0x10 + i, warnStackT, if sensorFailed s (16 + i) then none else some (temp (s.tstack.getD i 0)))) ++
  (upto 2).map (fun i => (0x30 + i, warnPower, if sensorFailed s (36 + i) then none else some (temp (s.tpwr.getD i 0))))

/-- The warn bit of a source (R500). -/
def warnBit (s : Sns) (src : Nat) : Bool :=
  if src < 4 then s.warnField.getLsbD src
  else if src < 0x30 then s.warnStack.getLsbD (src - 0x10)
  else s.warnPwr.getLsbD (src - 0x30)

/-- The warn bit of a source written. -/
def setWarnBit (src : Nat) (b : Bool) (s : Sns) : Sns :=
  let put {w : Nat} (x : BitVec w) (i : Nat) : BitVec w := if b then x ||| (1#w <<< i) else x &&& ~~~(1#w <<< i)
  if src < 4 then { s with warnField := put s.warnField src }
  else if src < 0x30 then { s with warnStack := put s.warnStack (src - 0x10) }
  else { s with warnPwr := put s.warnPwr (src - 0x30) }

/-- A temperature as a reading. -/
def reading (t : Int) : W16 := BitVec.ofInt 16 t

/-- Every working source that is warned, or is so with this update, has fallen (R482). -/
def allFallen (s : Sns) (live : List (Nat × Int × Option Int)) : Bool :=
  live.all (fun c => !warnNext (warnBit s c.1) false (c.2.2.getD 0) c.2.1 || fallen (c.2.2.getD 0) c.2.1)

/-- SENSOR_UPDATE (R482, R501, R502): all readings together, the warn bits, then SNS_UPDATE. A source that reaches its threshold is
warned, with WARN; once every one that warned has fallen, each has its bit cleared, with CLEAR (log 39). In a start that waits for
cool sensors the rails come up once they are (R483). -/
def sensorUpdate (r : Readings) (v : Dev) : Dev :=
  if v.power.state = .off || !timerDue v tmSensor 10000 then v
  else
    let s := { v.sns with
      tj := maskFailed v.sns 0 r.tj 16, tstack := maskFailed v.sns 16 r.tstack 20, tpwr := maskFailed v.sns 36 r.tpwr 2
      vin := r.vin, iin := r.iin, rails := (upto 7).map (fun i => r.rails.getD i 0) }
    let s := match hottest s with
      | some (t, f) => { s with hotTemp := reading t, hotField := BitVec.ofNat 2 f }
      | none => s
    let src := warnSources s
    let live := src.filter (fun c => c.2.2.isSome)
    let clear := allFallen v.sns live
    let next (c : Nat × Int × Option Int) : Bool := warnNext (warnBit v.sns c.1) clear (c.2.2.getD 0) c.2.1
    let s := live.foldl (fun s c => setWarnBit c.1 (next c) s) s
    let hot := !allCool s
    let cooled := v.power.state = .start && !v.power.perstLow && !hot
    let v' := timerMark tmSensor { v with
      sns := { s with update := now v }
      power := { v.power with hot := hot, railsUp := v.power.railsUp || cooled } }
    live.foldl (fun w c =>
      if next c = warnBit v.sns c.1 then w else raiseThermal (b2n (!next c)) c.1 (reading (c.2.2.getD 0)) w) v'

/-- SENSOR_CALIBRATION's failures recorded (R502): the SNS_FAILED bit, and a stack's warn bit. The sensor reads 0x8000 from the
next update on, since all readings of one SNS_UPDATE come from one sampling (R501). -/
def sensorsFail (failed : BitVec 38) (v : Dev) : Dev :=
  let s := { v.sns with failed := v.sns.failed ||| failed }
  { v with sns := { s with warnStack := s.warnStack ||| (s.failed >>> 16).setWidth 20 } }

/-- SENSOR_CALIBRATION (R458, R502): every 1,000,000 units. -/
def sensorCalibration (failed : BitVec 38) (v : Dev) : Dev :=
  if v.power.state = .off || !timerDue v tmSensorCal 1000000 then v
  else timerMark tmSensorCal (sensorsFail failed v)

/-- Whether a source is at its trip threshold, or its sensors have all failed (R482, R483, R502); a rail's fault holds when it is
commanded (R479). -/
def tripHolds (s : Sns) : TripSource → Bool
  | .field f => match fieldTemp s f.val with
    | some t => decide (110 * 16 ≤ t)
    | none => true
  | .stack i => !sensorFailed s (16 + i.val) && decide (110 * 16 ≤ temp (s.tstack.getD i.val 0))
  | .power i =>
    (sensorFailed s 36 && sensorFailed s 37) ||
      (!sensorFailed s (36 + i.val) && decide (125 * 16 ≤ temp (s.tpwr.getD i.val 0)))
  | .rail _ => true

/-- SOURCE and TEMP of a thermal trip (R484); a rail fault raises no THERMAL event. -/
def tripPayload (s : Sns) : TripSource → Option (Nat × W16)
  | .field f => some (f.val, match fieldTemp s f.val with
      | some t => reading t
      | none => failedReading)
  | .stack i => some (0x10 + i.val, s.tstack.getD i.val 0)
  | .power i => some (0x30 + i.val, s.tpwr.getD i.val 0)
  | .rail _ => none

/-! ### Park (R480, R481) -/

/-- Part states that count as running or queued (R456). -/
def partBusy (p : Part) : Bool := p.state = .queued || p.state = .running

/-- The device is quiescent (R456); `self` is the TEST that asks, if one does. -/
def quiescent (self : Option Nat) (v : Dev) : Bool :=
  v.ctxs.all (fun c => c.1 = 0 || !c.2.enable) && v.groups.all (fun c => !c.2.enable) &&
  v.mould.pairs.all (fun q => !q.enable) &&
  v.descs.all (fun x => some x.id = self || !x.parts.any partBusy)

/-- A write of PARK_REQ = 1 (R480, R494): refused, with PARK_REQ 0, unless the device is quiescent with every port off.
While the module is leaving park it asks for entry again. -/
def parkEnter (v : Dev) : Dev :=
  let p := v.pace
  if !(quiescent none v && v.ports.all (fun c => !c.2.enable)) then
    { v with pace := { p with parkRefused := true, parkReq := false } }
  else if p.parkState = 0 then { v with pace := { p with parkReq := true, parkState := 1, leaveAsked := false } }
  else { v with pace := { p with parkReq := true, leaveAsked := false } }

/-- A write of PARK_REQ = 0, or a descriptor fetched in park (R480, R481): leaving begins in PARKED; while ENTERING it takes
effect, PARK_REQ included, once PARKED is reached. -/
def parkLeave (v : Dev) : Dev :=
  let p := v.pace
  if p.parkState = 2 then { v with pace := { p with parkReq := false, parkState := 3, leaveAsked := false } }
  else if p.parkState = 1 then { v with pace := { p with leaveAsked := true } }
  else { v with pace := { p with parkReq := false } }

/-- PARK_ENTERED (R480, R481): core stores lose their contents, and the governor stops; issue gating ends with the work it gates
(log 90). -/
def parkEntered (w : Work) : Work :=
  if w.dev.pace.parkState ≠ 1 || w.dev.power.state ≠ .active then w
  else
    let v := w.dev
    let v := { v with
      power := { (loseMem .onDie v.power) with state := .park }
      pace := { v.pace with parkState := 2, gating := false } }
    { w with dev := if v.pace.leaveAsked then parkLeave v else v, wiped := .onDie }

/-- PARK_LEFT (R480): the die's memories are written with zero and fresh codes, and STATE reads ACTIVE, or ENTERING where entry
has been asked for again. It waits until the host holds no line of a core store (R285). -/
def parkLeft (w : Work) : Work :=
  if w.dev.pace.parkState ≠ 3 || w.dev.power.state ≠ .park ||
      w.dev.cxl.directory.any (fun e => decide (cstoreBase ≤ 64 * e.line)) then w
  else
    let v := clearOnDie w.dev
    { w with
      wiped := .onDie
      dev := { v with
        power := { v.power with state := .active, lost := .none }
        pace := { v.pace with parkState := if v.pace.parkReq then 1 else 0, leaveAsked := false } } }

/-! ### Meanings -/

/-- POWER_UP (R437). -/
def execPowerUp (st : Straps) (refclkOk : Bool) (s : State) : Host.Outcome State Fault Refusal := runDev (powerUp st refclkOk) s
/-- INPUT_FAULT_TURN_OFF (R477). -/
def execInputFaultTurnOff (s : State) : Host.Outcome State Fault Refusal := runWork inputFault s
/-- INPUT_RESTORED (R477): the module starts again from the first row of R437. -/
def execInputRestored (st : Straps) (refclkOk : Bool) (s : State) : Host.Outcome State Fault Refusal :=
  runDev (fun v => if v.power.state = .off then applyPower st refclkOk v else v) s
/-- PERST_L_ASSERT (R293). -/
def execPerstLAssert (s : State) : Host.Outcome State Fault Refusal := runDev perstAssert s
/-- PERST_L_RELEASE (R294). -/
def execPerstLRelease (s : State) : Host.Outcome State Fault Refusal := runDev perstRelease s
/-- ROM_START (R437). -/
def execRomStart (puf : List Byte) (flashOk : Bool) (s : State) : Host.Outcome State Fault Refusal :=
  runWork (romStart puf flashOk) s
/-- MEMORY_INIT_DONE (R438). -/
def execMemoryInitDone (s : State) : Host.Outcome State Fault Refusal := runWork memoryInitDone s
/-- STARTUP_SELF_TEST (R439). -/
def execStartupSelfTest (cores : W32) (stks : BitVec 20) (s : State) : Host.Outcome State Fault Refusal :=
  runDev (startupSelfTest cores stks) s
/-- FLASH_UPDATE (R446). -/
def execFlashUpdate (k : FlashKind) (w : FlashWrite) (priv : Bool) (s : State) : Host.Outcome State Fault Refusal :=
  runWork (flashUpdate k w.bytes priv w.cut) s
/-- REFCLOCK_LOST (R40). -/
def execRefclockLost (s : State) : Host.Outcome State Fault Refusal := runDev refclockLost s
/-- REFCLOCK_RESTORED (R40). -/
def execRefclockRestored (s : State) : Host.Outcome State Fault Refusal := runDev refclockRestored s
/-- PACE_MONITOR_WINDOW (R34). -/
def execPaceMonitorWindow (a b c d : W16) (s : State) : Host.Outcome State Fault Refusal := runDev (paceWindow a b c d) s
/-- PACE_MONITOR_CALIBRATION (R33). -/
def execPaceMonitorCalibration (s : State) : Host.Outcome State Fault Refusal := runDev paceCalibrate s
/-- GOVERNOR_DECISION (R35). -/
def execGovernorDecision (power : BitVec 13) (aim : Nat) (s : State) : Host.Outcome State Fault Refusal :=
  runDev (governorDecision power aim) s
/-- ISSUE_GATING (R36). -/
def execIssueGating (power : BitVec 13) (s : State) : Host.Outcome State Fault Refusal := runDev (issueGating power) s
/-- SENSOR_UPDATE (R501). -/
def execSensorUpdate (r : Readings) (s : State) : Host.Outcome State Fault Refusal := runDev (sensorUpdate r) s
/-- SENSOR_CALIBRATION (R458). -/
def execSensorCalibration (failed : BitVec 38) (s : State) : Host.Outcome State Fault Refusal :=
  runDev (sensorCalibration failed) s
/-- PARK_ENTERED (R480). -/
def execParkEntered (s : State) : Host.Outcome State Fault Refusal := runWork parkEntered s
/-- PARK_LEFT (R480). -/
def execParkLeft (s : State) : Host.Outcome State Fault Refusal := runWork parkLeft s

end Sys2Proof.Machine
end

