-- ==== Sys2Proof/Machine/Observe.lean ====
section
/-! DEFINITION. Counters, samples and mirrors (R460 to R467), PC samples (R468), and the trace buffer (R469 to R475). -/

namespace Sys2Proof.Machine

open Sys2Proof

/-! ### Counter sets (R460 to R465) -/

/-- How many counters a set has; none for a number the map does not list (R460 to R462). -/
def setCount (set : Nat) : Option Nat :=
  if set < 64 then some 19
  else if 0x100 ≤ set ∧ set < 0x120 then some 136
  else if 0x200 ≤ set ∧ set < 0x214 then some 36
  else if 0x300 ≤ set ∧ set < 0x318 then some 5
  else if set = 0x3FF then some 7
  else none

/-- A counter's value. -/
def ctrGet (v : Dev) (set i : Nat) : W64 := tabGet 0 v.ctr.values (4096 * set + i)

/-- A set's epoch (R463). -/
def ctrEpoch (v : Dev) (set : Nat) : W32 := tabGet 0 v.ctr.epochs set

/-- RESET of a set (R463). -/
def ctrReset (set : Nat) (v : Dev) : Dev :=
  { v with ctr := { v.ctr with
      values := v.ctr.values.filter (fun c => decide (c.1 / 4096 ≠ set))
      epochs := tabPut 0 v.ctr.epochs set (ctrEpoch v set + 1) } }

/-- One more sample of a set (R465). -/
def ctrCountSample (set : Nat) (v : Dev) : Dev :=
  { v with ctr := { v.ctr with samples := tabPut 0 v.ctr.samples set (tabGet 0 v.ctr.samples set + 1) } }

/-- The bytes of a sample record from byte 8 on (R465): TIME, EPOCH, SET, COUNT, CAUSE, and the counters. -/
def sampleBody (v : Dev) (set n cause : Nat) (epoch : W32) : List Byte :=
  leBytes 8 (now v).toNat ++ leBytes 4 epoch.toNat ++ leBytes 2 set ++ leBytes 2 n ++ leBytes 1 cause ++ leBytes 7 0 ++
    (upto n).flatMap (fun i => leBytes 8 (ctrGet v set i).toNat)

/-- A sample record written: SEQ as zero, the body, then SEQ (R465). -/
def writeSample (ctx : Nat) (a : W64) (seq : Nat) (body : List Byte) : Acc Unit := do
  writeBytes (edge ctx) a (leBytes 8 0)
  writeBytes (edge ctx) (a + 8) body
  writeBytes (edge ctx) a (leBytes 8 seq)

/-- SAMPLE, or SAMPLE_RESET (R463): the counters and the epoch latched at one instant, then the record. EPOCH is the set's
after the reset of a SAMPLE_RESET (R465). -/
def takeSample (ctx set n cause : Nat) (reset : Bool) (a : W64) : Acc Unit := do
  let v := (← get).dev
  let epoch := if reset then ctrEpoch v set + 1 else ctrEpoch v set
  let body := sampleBody v set n cause epoch
  let v' := ctrCountSample set (if reset then ctrReset set v else v)
  modify (onDev (fun _ => v'))
  writeSample ctx a (tabGet 0 v'.ctr.samples set).toNat body

/-- One command of the queue (R463, R467). -/
def ctrExec (c : CtrCmd) : Acc Unit :=
  match setCount c.set.toNat with
  | none => pure ()
  | some n =>
    if c.op = 1 then modify (onDev (ctrReset c.set.toNat))
    else takeSample 0 c.set.toNat n 0 (c.op = 2) c.addr

/-- The command at the head of the queue run; it stays there while its record's writes wait. A record that cannot be
written is lost; an uncorrectable word that it meets puts context 0 on the failure path (R256, R505). -/
def ctrStep (w : Work) : Work :=
  match w.dev.ctr.queue with
  | [] => w
  | c :: rest =>
    runAcc (do
      modify (onDev (fun v => { v with ctr := { v.ctr with queue := rest } }))
      ueFailsOpen 0 (ctrExec c)) (fun _ w => w) (fun _ _ w => w) w

/-- The queue run as far as it goes (R467). -/
def ctrDrain (w : Work) : Work := (upto 8).foldl (fun w _ => ctrStep w) w

/-- A write of CTR_CMD (R467, R475). -/
def ctrCommand (op : BitVec 2) (set : BitVec 12) (w : Work) : Work :=
  let v := w.dev
  if 8 ≤ v.ctr.queue.length then onDev (fun v => { v with ctr := { v.ctr with overrun := true } }) w
  else if op = 3 || (setCount set.toNat).isNone then w
  else ctrDrain (onDev (fun v => { v with ctr := { v.ctr with queue := v.ctr.queue ++ [⟨op, set, v.ctr.cmdAddr⟩] } }) w)

/-- Writes of CTR_CMD, CTR_CMD_ADDR and CTR_STATUS, by granule (R475). -/
def ctrWrite (g : Nat) (b : Bar) (w : Work) : Work :=
  if g = 0 then (if b.lo then ctrCommand (fld 2 0 b.val) (fld 12 2 b.val) w else w)
  else if g = 1 then onDev (fun v => { v with ctr := { v.ctr with cmdAddr := b.merge v.ctr.cmdAddr } }) w
  else if g = 2 then
    onDev (fun v => if b.lo && bitAt 4 b.val then { v with ctr := { v.ctr with overrun := false } } else v) w
  else w

/-! ### Mirrors (R466) -/

def getMirror (v : Dev) (x : Nat) : Mirror := tabGet {} v.ctr.mirrors x

/-- A latched sample written at its mirror; it waits as any write, and a translation fault drops it and is counted (R466). An
uncorrectable word puts its context on the failure path (R505). -/
def mirrorPut (m : MirrorWait) (w : Work) : Work :=
  runAccOr (ueFailsOpen m.ctx (writeSample m.ctx m.addr m.seq m.body)) (fun _ w => w)
    (fun st _ w => if st = stTranslation then
      onDev (fun v => { v with ctr := { v.ctr with mirrorFaults := satAdd v.ctr.mirrorFaults 1 } }) w else w)
    (onDev (fun v => { v with ctr := { v.ctr with mirrorWaits := v.ctr.mirrorWaits ++ [m] } })) w

/-- A context's sample latched and written at its mirror. `cause` is the record's. -/
def mirrorTake (x cause : Nat) (w : Work) : Work :=
  let m := getMirror w.dev x
  if m.addr = 0 then w
  else
    let body := sampleBody w.dev x 19 cause (ctrEpoch w.dev x)
    let w := onDev (ctrCountSample x) w
    mirrorPut ⟨x, m.addr, (tabGet 0 w.dev.ctr.samples x).toNat, body⟩ w

/-- Mirror writes that waited tried again, in order (R26). -/
def mirrorDrain (w : Work) : Work :=
  w.dev.ctr.mirrorWaits.foldl (fun w m => mirrorPut m w)
    (onDev (fun v => { v with ctr := { v.ctr with mirrorWaits := [] } }) w)

/-- MIRROR_SAMPLE (R466): every PERIOD_US microseconds of time base. -/
def mirrorSample (x : Nat) (w : Work) : Work :=
  let m := getMirror w.dev x
  if m.period = 0 || m.addr = 0 || !timerDue w.dev (tmMirror x) (1000 * m.period.toNat) then w
  else mirrorTake x 1 (onDev (timerMark (tmMirror x)) w)

/-- A write of CTR_CTX_MIRROR of context x, by granule (R475). -/
def mirrorWrite (x g : Nat) (b : Bar) (v : Dev) : Dev :=
  let m := getMirror v x
  let m' : Mirror :=
    if g = 0 then { m with addr := b.merge m.addr }
    else if b.lo then { m with period := fld 24 0 b.val, stepEn := bitAt 24 b.val }
    else m
  { v with ctr := { v.ctr with mirrors := tabPut {} v.ctr.mirrors x m' } }

/-! ### PC samples (R468) -/

/-- SOURCE of a unit, its trace port, and its bit of TRC_SRC (R469, R475). -/
def sampleSource : SampleUnit → Nat × Nat × Nat
  | .engine e => (e.val, e.val / 32, 0)
  | .chisel i => (0x100 + i.val, i.val / 64, 1)
  | .vector c => (0x200 + c.val, c.val / 8, 2)
  | .solver c => (0x280 + c.val, c.val / 8, 3)
  | .port p => (0x300 + p.val, p.val / 6, 4)

/-- A part of a descriptor, in a state, whose unit is the sampled one: of the same SOURCE (R469). -/
def partOf (u : SampleUnit) (st : PartState) (x : Desc) (p : Nat) : Bool :=
  (x.parts.getD p {}).state = st && (partSource x p).1 = (sampleSource u).1

/-- The running part on a unit. -/
def runningPart (v : Dev) (u : SampleUnit) : Option (Desc × Nat) :=
  v.descs.findSome? (fun x => ((upto x.parts.length).find? (partOf u .running x)).map (fun p => (x, p)))

/-- The parts that begin together with a part: a kernel's on one cluster (R131). -/
def startsWith (x : Desc) (p : Nat) : List Nat :=
  if isKernel x then (upto x.parts.length).filter (fun q => (x.parts.getD q {}).unit = (x.parts.getD p {}).unit) else [p]

/-- The part of a unit, not a port, that waits for an entry of the stream table (R240, R468). -/
def stabPart (v : Dev) (u : SampleUnit) : Option (Desc × Nat) :=
  match u with
  | .port _ => none
  | _ => v.stabWaits.findSome? (fun k =>
    match k with
    | .part d p => (getDesc v d).bind (fun x => ((startsWith x p).find? (partOf u .queued x)).map (fun q => (x, q)))
    | _ => none)

/-- What a unit's sample carries besides: a chisel core's pc, whatever it runs, or the USER_TAG of the part, if there is one (R468). -/
def sampleWord (v : Dev) (u : SampleUnit) (x : Option Desc) : Nat :=
  match u with
  | .chisel i => (getChisel v i.val).pc.toNat
  | _ => (x.map userTag).getD 0

/-- The part a unit runs: on an engine the one that it works for, else one that only drains. -/
def workPart (v : Dev) (u : SampleUnit) : Option (Desc × Nat) :=
  match u with
  | .engine e => ((getEngine v e.val).current.bind (fun c => (getDesc v c.1).map (fun x => (x, c.2)))).or (runningPart v u)
  | .chisel i =>
    let h := getChisel v i.val
    if h.run = .idle then none
    else do
      let x ← getDesc v h.d
      pure (x, h.p)
  | _ => runningPart v u

/-- A TEST part that runs on a unit (R454, R455): its kind's unit is the sampled one, or a cluster's for its vector engine, its
solver lanes and its chisel cores; a DEVICE test runs on all. -/
def testOn (u : SampleUnit) (x : Desc) : Bool :=
  let kind := fieldOf x 16 1
  let unit := fieldOf x 18 2
  x.cls = 0xD && x.parts.any (fun p => p.state = .running) && (kind = 0x0F ||
    (match u with
     | .engine e => kind = 1 && unit = e.val
     | .chisel i => kind = 3 && unit = i.val / 8
     | .vector c => kind = 3 && unit = c.val
     | .solver c => kind = 3 && unit = c.val
     | .port p => kind = 5 && unit = p.val))

/-- The part a unit's sample names: the TEST that runs on it, the part it works on, or the one that it cannot begin for want of a
stream table entry. -/
def sampledPart (v : Dev) (u : SampleUnit) : Option (Desc × Nat) :=
  match v.descs.find? (testOn u) with
  | some x => some (x, 0)
  | none => (workPart v u).or (stabPart v u)

/-- A unit's issue waits for a stream table entry: a chisel core's dlaunch, or the part that a unit with no other is to begin
(R240, R468). -/
def stabStalled (v : Dev) (u : SampleUnit) : Bool :=
  (match u with
   | .chisel i => v.stabWaits.contains (.launch i.val)
   | _ => false) || ((workPart v u).isNone && (stabPart v u).isSome)

/-- The requesters by which a unit reaches an instance (R261): an engine's loaders and its drain, a tidy cluster's port, a port's
collective engine and link management. -/
def unitAsks (u : SampleUnit) (i : Nat) (r : Requester) : Bool :=
  match u with
  | .engine e => decide (640 ≤ i) && decide (i < 4736) && (i - 640) / 128 = e.val / 4 &&
      ((r.src = .load && r.unit / 2 = e.val % 4) || (r.src = .drain && r.unit = e.val % 4))
  | .chisel c => r.src = .tidy && r.unit = c.val / 8
  | .vector c => r.src = .tidy && r.unit = c.val
  | .solver c => r.src = .tidy && r.unit = c.val
  | .port p => (r.src = .coll || r.src = .linkctl) && r.unit = p.val

/-- The state in which a unit holds its issue, of those that the device itself knows (R468): issue gating, an entry of the stream
table, back-off, a barrier, a revoked transfer, and a TEST. -/
def stallsHeld (v : Dev) (u : SampleUnit) : List Nat :=
  (match u with
   | .engine _ => if v.pace.gating then [0x07] else []
   | .chisel i => if (getChisel v i.val).run = .atCbar then [0x0F] else []
   | _ => []) ++
  (if stabStalled v u then [0x09] else []) ++
  (if v.arbs.any (fun c => c.2.backoff.any (fun b => b.held.isSome && unitAsks u c.1 b.req)) then [0x0B] else []) ++
  (if v.arbs.any (fun c => c.2.replay.any (fun g => unitAsks u c.1 g.req)) then [0x13] else []) ++
  (if v.descs.any (testOn u) then [0x14] else [])

/-- A stall-state code whose cause is timing (R468, log 72): of the unit's kind, and with the state that the cause needs. -/
def stallFits (v : Dev) (u : SampleUnit) (code : Nat) : Bool :=
  let snooped := v.cxl.directory.any (fun e => e.snoop = .dataSent || e.snoop = .invSent)
  let common := code = 0x0A || (code = 0x0C && snooped)
  if v.descs.any (testOn u) then false
  else
    match u with
    | .engine e =>
      let g := getEngine v e.val
      let phase (f : BankPhase → Bool) : Bool := f g.bank0.phase || f g.bank1.phase
      common || code = 0x02 || code = 0x03 || code = 0x04 || (code = 0x05 && !phase (fun b => b = .free)) ||
        (code = 0x06 && phase (fun b => b = .closed || b = .draining)) ||
        (code = 0x08 && g.queue.any (fun q => q.bank.isSome && g.current ≠ some (q.d, q.p)))
    | .chisel i =>
      let h := getChisel v i.val
      h.run ≠ .atCbar && (common || code = 0x0D || (code = 0x0E && h.handles.any (fun k => k.desc.isSome && k.word.isNone)) ||
        (code = 0x10 && h.handles.all (fun k => k.desc.isSome || k.word.isSome)) || code = 0x11)
    | .vector _ => common || code = 0x0D
    | .solver _ => common || code = 0x0D
    | .port _ => code = 0x12

/-- The stall-state code of a unit with a part (R468): the lowest of those that hold, else RUNNING. `code` is the cause that timing
gives. -/
def stallCode (v : Dev) (u : SampleUnit) (code : Nat) : Nat :=
  let all := stallsHeld v u ++ (if stallFits v u code then [code] else [])
  (all.min?).getD 1

/-- PC_SAMPLE (R468, R469): a selected unit's part, with the stall-state code that holds it: IDLE with no part. A chisel core's
pc is in every sample of it. -/
def pcSample (u : SampleUnit) (stall : Byte) (v : Dev) : Dev :=
  let (src, q, bit) := sampleSource u
  if !trcOn bit v || !timerDue v (tmPcs src) v.trc.interval.toNat then v
  else
    let r : Nat × Nat × Nat × Nat × Nat :=
      match sampledPart v u with
      | none => (0, sampleWord v u none, 0, 0, 0)
      | some (x, p) => (x.ctx, sampleWord v u (some x), x.unitIndex.toNat, p, stallCode v u stall.toNat)
    let v := timerMark (tmPcs src) v
    let v := traceTo q ⟨now v, 0x01, BitVec.ofNat 6 r.1, BitVec.ofNat 16 src,
      leBytes 8 r.2.1 ++ leBytes 4 r.2.2.1 ++ leBytes 2 r.2.2.2.1 ++ leBytes 1 r.2.2.2.2⟩ v
    if v.trc.trigStall.toNat = r.2.2.2.2 then trcCause 3 v else v

/-! ### The trace buffer (R470 to R473) -/

/-- Records the buffer holds. -/
def trcCap : Nat := 131072

def setTrc (f : Trc → Trc) (v : Dev) : Dev := { v with trc := f v.trc }

/-- Bytes of the spill region (R473). -/
def spillBytes (t : Trc) : Nat := 2 ^ t.spillSize.toNat

/-- A record taken by a running buffer (R471, R473): with spill off, MODE says what a full buffer does. -/
def trcPush (r : TraceRec) (t : Trc) : Trc :=
  if t.spillEnable then { t with buffer := t.buffer ++ [r] }
  else if t.mode = 0 || (t.mode = 2 && t.triggered) then
    (if t.buffer.length < trcCap then { t with buffer := t.buffer ++ [r], running := decide (t.buffer.length + 1 < trcCap) }
     else { t with running := false, droppedFull := satAdd t.droppedFull 1 })
  else { t with buffer := (t.buffer ++ [r]).drop (t.buffer.length + 1 - trcCap) }

/-- The buffer can take a record now: with spill on it is a queue that waits when full. -/
def trcRoom (t : Trc) : Bool := !t.spillEnable || decide (t.buffer.length < trcCap)

/-- TRACE_RECORD_ACCEPT (R470, R471): the record at a queue's head, a DROPPED record as any other; a stopped buffer drops it and
counts it, but a DROPPED record waits. -/
def traceAccept (q : Nat) (v : Dev) : Dev :=
  let k := v.trc.queues.getD q {}
  match k.records with
  | [] => v
  | r :: rest =>
    let take := setTrc (fun t => { t with queues := t.queues.set q { k with records := rest } })
    if !v.trc.running then
      (if r.type = 0x07 then v else setTrc (fun t => { t with droppedFull := satAdd t.droppedFull 1 }) (take v))
    else if !trcRoom v.trc then v
    else setTrc (trcPush r) (take v)

/-- TRACE_TRIGGER (R471, R472): the first cause noted writes a TRIGGER record, once since ARM; a trigger-centred capture
then keeps its share from before the trigger and stops when full. -/
def traceTrigger (cause : Nat) (v : Dev) : Dev :=
  match v.trc.causes with
  | [] => v
  | c :: rest =>
    if c ≠ cause then v
    else if !v.trc.running || v.trc.triggered then setTrc (fun t => { t with causes := rest }) v
    else if !trcRoom v.trc then v
    else
      let r : TraceRec := ⟨now v, 0x06, 0, 0x3FF, [BitVec.ofNat 8 cause]⟩
      setTrc (fun t =>
        if t.spillEnable then
          let before := (t.drained - t.armBase).toNat + 32 * t.buffer.length
          let keep := Nat.min before (t.pre.toNat * spillBytes t / 16)
          trcPush r { t with
            causes := [], triggered := true, stopAt := if t.mode = 2 then some (before + spillBytes t - keep) else none }
        else
          let keep := t.pre.toNat * trcCap / 16
          let old := if t.mode = 2 then t.buffer.drop (t.buffer.length - keep) else t.buffer
          trcPush r { t with causes := [], triggered := true, buffer := old }) v

/-- The 32 bytes of a trace record (R469). -/
def traceBytes (r : TraceRec) : List Byte :=
  leBytes 8 r.time.toNat ++ leBytes 1 r.type.toNat ++ leBytes 1 r.ctx.toNat ++ leBytes 2 r.source.toNat ++
    (r.payload ++ List.replicate 20 0).take 20

/-- One record drained to the spill region (R473): MODE applies to the region, and TRC_SPILL_TAIL is written at each 4,096
bytes. -/
def spillOne : Acc Unit := do
  let t := (← get).dev.trc
  match t.buffer with
  | [] => pure ()
  | r :: rest =>
    writeBytes (edge 0) (t.spillBase + BitVec.ofNat 64 (t.drained.toNat % spillBytes t)) (traceBytes r)
    modify (onDev (setTrc (fun t =>
      let n := t.drained + 32
      let filled := (n - t.armBase).toNat
      let full := (t.mode = 0 && decide (spillBytes t ≤ filled)) || t.stopAt.any (fun s => decide (s ≤ filled))
      let t := { t with
        buffer := rest, drained := n, spillTail := if n.toNat % 4096 = 0 then n else t.spillTail }
      if full then { t with running := false, buffer := [], droppedFull := satAdd t.droppedFull rest.length } else t)))

/-- TRACE_SPILL_DRAIN (R473): up to four records in order; a region that does not translate holds the drain, and an uncorrectable
word puts context 0 on the failure path (R256, R505). -/
def spillDrain (w : Work) : Work :=
  if !w.dev.trc.spillEnable then w
  else runAcc (do
    for _ in upto 4 do ueFailsOpen 0 spillOne) (fun _ w => w) (keepUe w) w

/-- TRC_CTRL.ARM (R471): the buffer cleared and started. -/
def trcArm (v : Dev) : Dev :=
  setTrc (fun t => { t with buffer := [], running := true, triggered := false, causes := [], stopAt := none, dumpWaits := false, armBase := t.drained }) v

/-- TRC_CTRL.DUMP (R473): a stopped buffer copied to the spill region, as much as the region holds; DUMPED follows the copy, which
waits as any write. -/
def trcDump (w : Work) : Work :=
  let t := w.dev.trc
  if t.spillEnable || t.running then w
  else
    let bs := (t.buffer.take (spillBytes t / 32)).flatMap traceBytes
    let w := onDev (setTrc (fun t => { t with dumpWaits := false })) w
    runAccOr (ueFailsOpen 0 (writeBytes (edge 0) t.spillBase bs)) (fun _ w => onDev (setTrc (fun t => { t with dumped := true })) w)
      (fun _ _ w => w) (onDev (setTrc (fun t => { t with dumpWaits := true }))) w

/-- A write of TRC_CTRL (R475): MODE and PRE, then ARM, then DUMP. -/
def trcCtrl (x : W64) (w : Work) : Work :=
  let w := onDev (setTrc (fun t => { t with mode := if fld 2 0 x = 3 then t.mode else fld 2 0 x, pre := fld 4 2 x })) w
  let w := if bitAt 6 x then onDev trcArm w else w
  if bitAt 7 x then trcDump w else w

/-- A write of TRC_TRIG (R472, R475). -/
def trcTrig (x : W64) (v : Dev) : Dev :=
  let v := setTrc (fun t => { t with trigEn := fld 4 0 x, trigCtx := fld 6 5 x, trigStall := fld 8 11 x, trigCode := fld 13 19 x }) v
  if bitAt 4 x then trcCause 0 v else v

/-- Writes of the TRC_ registers, by granule (R475). A bit set at the instant of its clear reads 1: DUMPED is cleared before a DUMP of
the same write sets it (R494). -/
def trcWrite (g : Nat) (b : Bar) (w : Work) : Work :=
  let x := b.val
  if g = 0 then
    let w := if b.hi && bitAt 34 x then onDev (setTrc (fun t => { t with dumped := false })) w else w
    if b.lo then trcCtrl x w else w
  else if g = 1 then (if b.lo then onDev (trcTrig x) w else w)
  else if g = 2 then (if b.lo then onDev (setTrc (fun t => { t with src := fld 10 0 x })) w else w)
  else if g = 3 then
    (if b.lo then onDev (setTrc (fun t => { t with interval := clampW 100 1000000 (fld 20 0 x) })) w else w)
  else if g = 4 then onDev (setTrc (fun t => { t with fabGroups := b.merge t.fabGroups })) w
  else if g = 5 then
    onDev (setTrc (fun t => if t.spillEnable then t else { t with spillBase := b.merge t.spillBase })) w
  else if g = 6 then
    (if b.lo then onDev (setTrc (fun t => { t with spillSize := clampW 12 30 (fld 5 0 x), spillEnable := bitAt 5 x })) w else w)
  else w

/-! ### Meanings -/

/-- CTR_CMD with an operation and a set. -/
def ctrRow (op : BitVec 2) (set : BitVec 12) (ide : Bool) (s : State) : Host.Outcome State Fault Refusal :=
  runWork (guarded 0x70000 ide (ctrWrite 0 ⟨true, false, place 0 op ||| place 2 set⟩)) s

/-- CTR_SAMPLE (R463). -/
def execCtrSample (set : BitVec 12) (ide : Bool) (s : State) : Host.Outcome State Fault Refusal := ctrRow 0 set ide s
/-- CTR_RESET (R463). -/
def execCtrReset (set : BitVec 12) (ide : Bool) (s : State) : Host.Outcome State Fault Refusal := ctrRow 1 set ide s
/-- CTR_SAMPLE_RESET (R463). -/
def execCtrSampleReset (set : BitVec 12) (ide : Bool) (s : State) : Host.Outcome State Fault Refusal := ctrRow 2 set ide s
/-- MIRROR_SAMPLE (R466). -/
def execMirrorSample (x : Fin 64) (s : State) : Host.Outcome State Fault Refusal := runWork (poweredWork (mirrorSample x.val)) s
/-- PC_SAMPLE (R468). -/
def execPcSample (u : SampleUnit) (stall : Byte) (s : State) : Host.Outcome State Fault Refusal := runDev (powered (pcSample u stall)) s
/-- TRACE_RECORD_ACCEPT (R470). -/
def execTraceRecordAccept (q : Fin 5) (s : State) : Host.Outcome State Fault Refusal := runDev (powered (traceAccept q.val)) s
/-- TRACE_TRIGGER (R472). -/
def execTraceTrigger (cause : Fin 4) (s : State) : Host.Outcome State Fault Refusal := runDev (powered (traceTrigger cause.val)) s
/-- TRC_FIRE (R472): a 32-bit write of TRC_TRIG with FIRE = 1. -/
def execTrcFire (w : HostWrite) (s : State) : Host.Outcome State Fault Refusal :=
  runWork (guarded 0x80008 w.ide (trcWrite 1 ⟨true, false, w.value ||| placeB 4 true⟩)) s
/-- TRC_ARM (R471): a 32-bit write of TRC_CTRL with ARM = 1. -/
def execTrcArm (w : HostWrite) (s : State) : Host.Outcome State Fault Refusal :=
  runWork (guarded 0x80000 w.ide (trcWrite 0 ⟨true, false, w.value ||| placeB 6 true⟩)) s
/-- TRC_DUMP (R473): a 32-bit write of TRC_CTRL with DUMP = 1. -/
def execTrcDump (w : HostWrite) (s : State) : Host.Outcome State Fault Refusal :=
  runWork (guarded 0x80000 w.ide (trcWrite 0 ⟨true, false, w.value ||| placeB 7 true⟩)) s
/-- TRACE_SPILL_DRAIN (R473). -/
def execTraceSpillDrain (s : State) : Host.Outcome State Fault Refusal := runWork (poweredWork spillDrain) s

end Sys2Proof.Machine
end

