-- ==== Sys2Proof/Machine/Cxl.lean ====
section
/-! DEFINITION. The CXL edge (chapter 12): the link, host accesses to device memory and the directory, address
translation services, data from the host, the DOE mailboxes and their SPDM responder (R451). -/

namespace Sys2Proof.Machine

open Sys2Proof

def setCxl (f : Cxl → Cxl) (v : Dev) : Dev := { v with cxl := f v.cxl }

/-! ### Link (R279, R291, R293 to R295) -/

def rateCode : CxlRate → BitVec 2
  | .gt16 => 1 | .gt32 => 2 | .gt64 => 3

/-- Timer of a doorbell line's polls (R319). -/
def tmPoll (i : Nat) : Nat := 5000 + i

/-- Every registered doorbell line is asked for again: with RdShared, or by a poll that is due now where CXL.cache is off, which reads
its tails once (R295, R319). -/
def reacquireLines (v : Dev) : Dev :=
  v.dbLines.foldl (fun v c =>
    if !c.2.valid || c.2.held then v
    else if v.cxl.cacheEn then emit (.rdShared c.1) v
    else { v with timers := tabPut 0 v.timers (tmPoll c.1) (now v - v.attn.pollInterval.setWidth 64) }) v

/-- What waited for a snoop, a translation or the link tried again: counter commands, mirror writes, a DUMP, and the frames of a COPY
that have arrived (R26). -/
def waitsDrain (w : Work) : Work :=
  let w := rxDrain (mirrorDrain (ctrDrain w))
  if w.dev.trc.dumpWaits then trcDump w else w

/-- LINK_RESETS and its event for every reset of the link, once every line to be read again has been (R295). -/
def resetsTold (v : Dev) : Dev :=
  if v.cxl.rereads.isEmpty then
    (upto v.cxl.resetsDue).foldl (fun v _ =>
      let v := setCxl (fun c => { c with linkResets := satAdd c.linkResets 1 }) v
      raise 0x0005 0 [v.cxl.linkResets] v) (setCxl (fun c => { c with resetsDue := 0 }) v)
  else v

/-- A line's tails have been read since link up, or it is registered no more (R295). -/
def lineReread (i : Nat) (v : Dev) : Dev :=
  if v.cxl.linkUp then resetsTold (setCxl (fun c => { c with rereads := c.rereads.filter (fun j => j ≠ i) }) v) else v

/-- CXL_LINK_UP (R279, R295, R297): the link-state fields and the doorbell lines. After a link reset LINK_RESETS and its event follow
once the tails of every registered line have been read again. -/
def cxlLinkUp (rate : CxlRate) (x16 flit : Bool) (v : Dev) : Dev :=
  if v.cxl.linkUp || !v.cxl.configLive || v.power.perstLow || !v.power.railsUp then v
  else
    let was := v.cxl.linkWasReset
    let v := setCxl (fun c => { c with
      linkUp := true, rate := rateCode rate, width := if x16 then 2 else 1, cxlMode := flit, linkWasReset := false
      rereads := (v.dbLines.filter (fun l => l.2.valid)).map (·.1)
      resetsDue := if was then c.resetsDue + 1 else c.resetsDue }) v
    resetsTold (reacquireLines v)

/-- What a link reset clears (R293): configuration space with its mailboxes and decoders, IDE keys, the ATC and the
doorbell lines held. A snoop whose answer the reset took is issued again. -/
def linkReset (v : Dev) : Dev :=
  if !v.cxl.linkUp then v
  else
    let v := setCxl (fun c => { c with
      linkUp := false, rate := 0, width := 0, cxlMode := false, cacheEn := false, memEn := false, ideCm := false
      ideIo := false, busMaster := false, linkWasReset := true, dec0 := {}, dec1 := {}, atc := [], invals := []
      config := {}, ideKeys := false, mailboxes := [{}, {}, {}]
      directory := c.directory.map (fun e => { e with snoop := .idle }) }) v
    { v with dbLines := tabMap {} (fun _ l => { l with held := false }) v.dbLines }

/-- CXL_ENABLE (R294): CXL.cache and CXL.mem accept traffic; the registered lines are acquired (R316). -/
def cxlEnable (v : Dev) : Dev :=
  if !v.cxl.linkUp || !v.cxl.cxlMode || !v.cxl.memoryActive || !v.arm.firmware then v
  else reacquireLines (setCxl (fun c => { c with cacheEn := true, memEn := true }) v)

/-- IDE_MAC_FAILURE (R291): logged, and the link retrains as a link reset. -/
def ideMacFailure (v : Dev) : Dev :=
  if !v.cxl.linkUp || !(v.cxl.ideCm || v.cxl.ideIo) then v
  else linkReset (setCxl (fun c => { c with ideFailures := c.ideFailures + 1 }) v)

/-! ### Device memory through HDM (R283 to R287, R505) -/

/-- Where a host address decodes to: a device physical address, or nothing. -/
def hdmDecode (v : Dev) (h : Nat) : Option Nat :=
  let b0 := v.cxl.dec0.base.toNat
  let b1 := v.cxl.dec1.base.toNat
  if v.cxl.dec0.committed ∧ b0 ≤ h ∧ h < b0 + 0x7800000000 then some (h - b0)
  else if v.cxl.dec1.committed ∧ b1 ≤ h ∧ h < b1 + 0x100000000 then some (cstoreBase + (h - b1))
  else none

/-- The reserved top of a core store (R239, R284). -/
def reservedTop (a : Nat) : Bool := decide (cstoreBase ≤ a) && decide (0x7F00000 ≤ (a - cstoreBase) % 0x8000000)

/-- The units of protection of one line, by the address of each (R253, R254). -/
def lineUnits (a : Nat) : List Nat := (upto (64 / granule a)).map (fun i => a + granule a * i)

/-- A host read allocates a directory entry; a full directory back-invalidates the entry allocated longest ago (R285),
which stays, held for its BIRsp, beside the 524,288. -/
def dirAllocate (line : Nat) (v : Dev) : Dev :=
  let dir := v.cxl.directory
  if dir.any (fun e => e.line = line && !e.evict) then
    setCxl (fun c => { c with directory := c.directory.map (fun e => if e.line = line then { e with snoop := .idle } else e) }) v
  else
    let v :=
      if 524288 ≤ (dir.filter (fun e => !e.evict)).length then
        match dir.find? (fun e => !e.evict) with
        | some old =>
          emit (.bisnp old.line true) (setCxl (fun c => { c with directory := c.directory.map (fun e =>
            if e.line = old.line then { e with evict := true, snoop := .invSent } else e) }) v)
        | none => v
      else v
    setCxl (fun c => { c with directory := (c.directory.filter (fun e => e.line ≠ line)) ++ [{ line := line }] }) v

/-- An uncorrectable error met by a host access: logged, raised with the host address, and counted (R258, R287). -/
def hdmUe (host dpa : Nat) (v : Dev) : Dev :=
  countUe dpa (raiseMemUe 0 host true (setCxl (fun c => { c with rasInternal := c.rasInternal + 1 }) v))

/-- HDM_READ (R283 to R287). -/
def hdmRead (h : Nat) (w : Work) : Work :=
  let v := w.dev
  if !v.cxl.linkUp then w
  else if !v.cxl.memEn || !v.cxl.memoryActive then onDev (emit (.hdmError h)) w
  else
    match hdmDecode v h with
    | none => onDev (emit (.hdmError h)) w
    | some a =>
      let w := onDev (ctrAdd 0x3FF 2 64) w
      let ones := List.replicate 64 (0xFF : Byte)
      if reservedTop a then
        onDev (fun v => emit (.hdmData h ones) (setCxl (fun c => { c with rsvdAccess := satAdd c.rsvdAccess 1 }) v)) w
      else
        let w := onDev (dirAllocate (a / 64)) w
        match (lineUnits a).find? (fun u => isUe v u) with
        | some u =>
          onDev (fun v =>
            let v := setCxl (fun c =>
              if c.errValid then c else { c with errValid := true, errAddr := BitVec.ofNat 58 (h / 64) }) v
            emit (.hdmData h ones) (hdmUe h u v)) w
        | none => onDev (emit (.hdmData h (peeks .dev a 64 w))) w

/-- Bytes of a unit that a mask covers: all of them. -/
def maskCovers (mask : W64) (o n : Nat) : Bool := (upto n).all (fun i => mask.getLsbD (o + i))

/-- Any byte of a unit that a mask covers. -/
def maskTouches (mask : W64) (o n : Nat) : Bool := (upto n).any (fun i => mask.getLsbD (o + i))

/-- One unit of a host write: stored where good or wholly covered, left where uncorrectable and covered in part (R287). -/
def hdmWriteUnit (a : Nat) (line : List Byte) (mask : W64) (w : Work) (u : Nat) : Work :=
  let n := granule a
  let o := u - a
  let bad := isUe w.dev u
  if bad && !maskCovers mask o n then w
  else
    let w := if bad then onDev (fun v => { v with ue := setDel v.ue (granuleBase u) }) w else w
    (upto n).foldl (fun w i =>
      if mask.getLsbD (o + i) then poke .dev (u + i) (line.getD (o + i) 0) w else w) w

/-- HDM_WRITE (R283, R284, R286, R287, R505). -/
def hdmWrite (h : Nat) (line : List Byte) (mask : W64) (poison : Bool) (w : Work) : Work :=
  let v := w.dev
  if !v.cxl.linkUp then w
  else if !v.cxl.memEn || !v.cxl.memoryActive then onDev (emit (.hdmError h)) w
  else
    match hdmDecode v h with
    | none => onDev (emit (.hdmError h)) w
    | some a =>
      let w := onDev (ctrAdd 0x3FF 2 64) w
      let w := if reservedTop a then
          onDev (setCxl (fun c => { c with rsvdAccess := satAdd c.rsvdAccess 1 })) w else w
      let w := if poison then
          onDev (setCxl (fun c => { c with poisonDropped := satAdd c.poisonDropped 1 })) w else w
      if reservedTop a || poison then onDev (emit (.hdmDone h)) w
      else
        let part := (lineUnits a).find? (fun u =>
          isUe v u && maskTouches mask (u - a) (granule a) && !maskCovers mask (u - a) (granule a))
        let w := (lineUnits a).foldl (hdmWriteUnit a line mask) w
        onDev (fun v =>
          let v := match part with
            | some u => hdmUe h u v
            | none => v
          emit (.hdmDone h) v) w

/-- BACK_INVALIDATE (R285): BISnpData before a device read of a directory line, BISnpInv before a write. -/
def backInvalidate (line : Nat) (write : Bool) (v : Dev) : Dev :=
  match dirEntry v line with
  | none => v
  | some e =>
    if !v.cxl.linkUp then v
    else if e.snoop = .idle || (e.snoop = .dataDone && write) then
      emit (.bisnp line write) (setCxl (fun c => { c with directory := c.directory.map (fun x =>
        if x.line = line then { x with snoop := if write then .invSent else .dataSent } else x) }) v)
    else v

/-- BIRSP_RECEIVED (R285): an invalidation's entry is removed, and the held access goes on. -/
def birsp (line : Nat) (v : Dev) : Dev :=
  match dirEntry v line with
  | none => v
  | some e =>
    match e.snoop with
    | .dataSent => setCxl (fun c => { c with directory := c.directory.map (fun x =>
        if x.line = line then { x with snoop := .dataDone } else x) }) v
    | .invSent => setCxl (fun c => { c with directory := c.directory.filter (fun x => x.line ≠ line) }) v
    | .idle => v
    | .dataDone => v

/-! ### Address translation and host data (R288 to R290) -/

/-- ATS_INVALIDATION (R290): the entries of the PASID that overlap the range are dropped at once. -/
def atsInvalidation (pasid : BitVec 20) (base n tag : Nat) (v : Dev) : Dev :=
  if !v.cxl.linkUp then v
  else
    let hit (t : AtcEntry) : Bool :=
      t.pasid = pasid && decide (t.base < base + 2 ^ n) && decide (base < t.base + 2 ^ t.sizeLog2)
    setCxl (fun c => { c with
      atc := c.atc.filter (fun t => !hit t)
      invals := c.invals ++ [⟨tag, pasid, base, n⟩] }) v

/-- ATS_INVALIDATION_COMPLETE (R290). -/
def atsInvalidationComplete (tag : Nat) (v : Dev) : Dev :=
  if v.cxl.linkUp && v.cxl.invals.any (fun i => i.tag = tag) then
    emit (.atsInvalCompletion tag) (setCxl (fun c => { c with invals := c.invals.filter (fun i => i.tag ≠ tag) }) v)
  else v

/-- One translation kept in the ATC of 8,192 entries; a full one gives up its oldest. -/
def atcAdd (t : AtcEntry) (v : Dev) : Dev :=
  setCxl (fun c =>
    let rest := c.atc.filter (fun x => !(x.pasid = t.pasid && x.base = t.base && x.sizeLog2 = t.sizeLog2))
    let rest := if rest.length < 8192 then rest else rest.drop 1
    { c with atc := rest ++ [t] }) v

/-! ### DOE mailboxes (R292) -/

/-- A mailbox's data object types, as vendor × 256 + type (PRESUMED, log 40): discovery, SPDM, secured SPDM, CDAT. -/
def doeTypes (m : Nat) : List Nat :=
  if m = 0 then [0x000100, 0x000101, 0x000102] else if m = 1 then [0x000100, 0x1E9802] else [0x000100]

def getMailbox (v : Dev) (m : Nat) : Mailbox := v.cxl.mailboxes.getD m {}
def setMailbox (m : Nat) (b : Mailbox) (v : Dev) : Dev := setCxl (fun c => { c with mailboxes := c.mailboxes.set m b }) v

/-- Configuration space is reachable. -/
def configUp (v : Dev) : Bool := v.cxl.linkUp && v.cxl.configLive

/-- A session that FINISH has completed (R451). -/
def sessionUp (v : Dev) (id : W32) : Bool := v.cxl.spdm.sessions.any (fun s => s.id = id && s.established)

/-- IDE_KM over an established session sets the keys of the streams it names, which are then active (R291). -/
def ideKm (id : W32) (cm io : Bool) (v : Dev) : Dev :=
  if sessionUp v id then
    emit (.ideKmAck id) (setCxl (fun c => { c with
      ideKeys := c.ideKeys || cm || io, ideCm := c.ideCm || cm, ideIo := c.ideIo || io }) v)
  else v

/-- Whether an object has a row of its own that answers it: it then stands in the mailbox until that row. -/
def objectWaits (m : Nat) : DoeObject → Bool
  | .discovery _ => true
  | .cdat _ => m = 1
  | .spdm (.other _) => false
  | .spdm _ => m = 0
  | .secured _ (.other _) => false
  | .secured _ _ => m = 0
  | .ideKm _ _ _ => false
  | .other _ _ => false

/-- The largest object of a mailbox, in bytes (R292). -/
def doeLargest (m : Nat) : Nat := if m = 0 then 16384 else 4096

/-- DOE_OBJECT (R292): discarded while Busy; an object that is too large, or of a type the mailbox does not have, is dropped;
an SPDM request that is not supported is answered with ERROR UnsupportedRequest (log 40). -/
def doeObject (m : Nat) (o : DoeObject) (size : Nat) (v : Dev) : Dev :=
  if !configUp v || (getMailbox v m).busy || decide (doeLargest m < size) then v
  else if objectWaits m o then setMailbox m { busy := true, object := some o } v
  else
    match o with
    | .spdm _ => if m = 0 then emit (.spdm none (.error 0x07)) v else v
    | .secured id _ => if m = 0 && sessionUp v id then emit (.spdm (some id) (.error 0x07)) v else v
    | .ideKm id cm io => if m = 0 then ideKm id cm io v else v
    | .discovery _ => v
    | .cdat _ => v
    | .other _ _ => v

/-- DOE_ABORT (R292). -/
def doeAbort (m : Nat) (v : Dev) : Dev := if configUp v then setMailbox m {} v else v

/-- DOE_DISCOVERY (R292): the type at an index, and the next index, 0 after the last. -/
def doeDiscovery (m : Nat) (v : Dev) : Dev :=
  match (getMailbox v m).object with
  | some (.discovery i) =>
    if !configUp v then v
    else
      let ts := doeTypes m
      emit (.doeDiscovery m ((ts.drop i).take 1) (if i + 1 < ts.length then i + 1 else 0)) (setMailbox m {} v)
  | _ => v

/-- The CDAT (R292): one entry for each decoder range. -/
def cdatTable : List CdatEntry := [⟨0, 0x7800000000, 400, 121⟩, ⟨cstoreBase, 0x100000000, 300, 121⟩]

/-- CDAT_TABLE_ACCESS (R292). -/
def cdatAccess (v : Dev) : Dev :=
  match (getMailbox v 1).object with
  | some (.cdat _) => if configUp v then emit (.cdat cdatTable) (setMailbox 1 {} v) else v
  | _ => v

/-! ### SPDM (R450, R451) -/

/-- What an SPDM request finds in mailbox 0: the session it came in, and the request. -/
def spdmRequest (v : Dev) : Option (Option W32 × SpdmReq) :=
  match (getMailbox v 0).object with
  | some (.spdm r) => some (none, r)
  | some (.secured s r) => some (some s, r)
  | _ => none

/-- An answer put on mailbox 0. -/
def spdmAnswer (s : Option W32) (r : SpdmRsp) (v : Dev) : Dev := emit (.spdm s r) (setMailbox 0 {} v)

/-- A secured request must come in a session that exists; FINISH comes in one that is not complete yet. -/
def sessionOk (v : Dev) (fin : Bool) : Option W32 → Bool
  | none => !fin
  | some id => v.cxl.spdm.sessions.any (fun s => s.id = id && (s.established != fin))

/-- A request that completes a session's handshake. -/
def isFinish : SpdmReq → Bool
  | .finish _ _ => true
  | _ => false

/-- A request is expected: the connection has come as far as it needs, and its session exists. -/
def spdmExpected (v : Dev) (stage : Nat) (s : Option W32) (r : SpdmReq) : Bool :=
  let c := v.cxl.spdm
  let have_ := if c.algorithms then 3 else if c.capabilities then 2 else if c.version then 1 else 0
  decide (stage ≤ have_) && sessionOk v (isFinish r) s

/-- A request answered by a function once the connection has its version, capabilities and algorithms; before, ERROR
UnexpectedRequest (log 40). -/
def spdmServe (pick : SpdmReq → Option (Dev → SpdmRsp × Dev)) (stage : Nat) (w : Dev) : Dev :=
  match spdmRequest w with
  | none => w
  | some (s, r) =>
    match pick r with
    | none => w
    | some f =>
      if !configUp w then w
      else if !spdmExpected w stage s r then spdmAnswer s (.error 0x04) w
      else
        let (a, w) := f w
        spdmAnswer s a w

def setSpdm (f : Spdm → Spdm) (v : Dev) : Dev := setCxl (fun c => { c with spdm := f c.spdm }) v

/-- A response that needs a signature: ERROR Unspecified when PUF_OK is 0 (R450); else the alias key signs. -/
def signed (v : Dev) (transcript : List Byte) (f : BitVec 768 → SpdmRsp) : SpdmRsp × Dev :=
  if v.arm.pufOk && v.arm.firmware then (f (Config.aliasSignature v.arm.aliasKey transcript v.free), freeNext v)
  else (.error 0x05, v)

/-- The chain of slot 0 (R451): the DeviceID certificate in flash (R441) and the alias certificate that the ROM signed with the
DeviceID key (R450). -/
def chainOf (w : Work) : List Byte := Config.certChain (peeks .flash 0x01004000 16384 w) w.dev.arm.aliasCert

/-- The measurement blocks of R451: index, DMTF type, value. -/
def measurements (v : Dev) : List (Nat × Nat × List Byte) :=
  let a := v.arm
  let owner : Nat := if a.ownerMeas = BitVec.allOnes 384 then 0 else 1
  [(1, 0x00, leBytes 48 Config.romDigest.toNat), (2, 0x01, leBytes 48 a.meas.toNat), (3, 0x03, leBytes 48 a.cfgMeas.toNat),
   (4, 0x02, [v.power.straps.moduleId, v.power.straps.feedId.setWidth 8, v.power.straps.side.setWidth 8, BitVec.ofNat 8 owner]),
   (5, 0x04, leBytes 48 a.ownerMeas.toNat), (6, 0x06, leBytes 4 a.fwVersion.toNat), (7, 0x07, leBytes 4 a.fwSvn.toNat),
   (8, 0x05, [BitVec.ofNat 8 (b2n a.source + 2 * b2n (a.cfgState = 3) + 4 * b2n a.pufOk)])]

/-- GET_VERSION: SPDM 1.3; a new connection begins. -/
def getVersion : Dev → Dev :=
  spdmServe (fun r => match r with
    | .getVersion => some (fun v => (.version [0x13], setSpdm (fun c => { c with
        version := true, capabilities := false, algorithms := false, keyAlgs := false, sessions := [] }) v))
    | _ => none) 0

/-- GET_CAPABILITIES. -/
def getCapabilities : Dev → Dev :=
  spdmServe (fun r => match r with
    | .getCapabilities ver _ => some (fun v =>
        if ver = 0x13 then (.capabilities, setSpdm (fun c => { c with capabilities := true }) v) else (.error 0x41, v))
    | _ => none) 1

/-- NEGOTIATE_ALGORITHMS: bit 7 of the asymmetric algorithms (P-384), bit 1 of the hashes (SHA-384), bit 4 of the groups
(secp384r1), bit 1 of the AEAD suites (AES-256-GCM), where the requester offers each. -/
def negotiateAlgorithms : Dev → Dev :=
  spdmServe (fun r => match r with
    | .negotiateAlgorithms a h d e => some (fun v =>
        let pick (x b : Nat) : Nat := if natBit x b then 2 ^ b else 0
        (.algorithms (pick a 7) (pick h 1) (pick d 4) (pick e 1),
          setSpdm (fun c => { c with
            algorithms := natBit a 7 && natBit h 1, keyAlgs := natBit d 4 && natBit e 1 }) v))
    | _ => none) 2

/-- GET_DIGESTS: the digest of slot 0's chain. -/
def getDigests (w : Work) : Work :=
  let d := sha384 (chainOf w)
  onDev (spdmServe (fun r => match r with
    | .getDigests => some (fun v => (.digests d, v))
    | _ => none) 3) w

/-- The most of a certificate chain that one 16 KiB object carries (R292); more goes by chunks. -/
def spdmRoom : Nat := 16368

/-- GET_CERTIFICATE: a portion of slot 0's chain; one too long for an object is kept for CHUNK_GET. -/
def getCertificate (w : Work) : Work :=
  let chain := chainOf w
  onDev (spdmServe (fun r => match r with
    | .getCertificate slot off len => some (fun v =>
        if slot ≠ 0 || chain.length ≤ off then (.error 0x01, v)
        else
          let portion := (chain.drop off).take len
          if spdmRoom < portion.length then
            (.error 0x0F, setSpdm (fun c => { c with getHandle := c.getHandle + 1, getBytes := portion, getSeq := 0 }) v)
          else (.certificate portion (chain.length - off - portion.length), v))
    | _ => none) 3) w

/-- CHALLENGE: signed with the alias key. -/
def challenge (w : Work) : Work :=
  let d := sha384 (chainOf w)
  onDev (spdmServe (fun r => match r with
    | .challenge slot nonce => some (fun v =>
        if slot ≠ 0 then (.error 0x01, v)
        else
          let n := Config.exchangeValue v.free
          signed v (leBytes 1 slot.toNat ++ leBytes 32 nonce.toNat) (fun sig => .challengeAuth d.toNat (n.toNat % 2 ^ 256) sig))
    | _ => none) 3) w

/-- GET_MEASUREMENTS: index 0 asks how many, 255 for all, else one. -/
def getMeasurements : Dev → Dev :=
  spdmServe (fun r => match r with
    | .getMeasurements i sig nonce => some (fun v =>
        let all := measurements v
        let ms := if i = 0 then [(8, 0, [])] else if i = 0xFF then all else all.filter (fun m => m.1 = i.toNat)
        if ms.isEmpty then (.error 0x01, v)
        else if sig then
          signed v (leBytes 32 nonce.toNat ++ ms.flatMap (fun m => leBytes 1 m.1 ++ leBytes 1 m.2.1 ++ m.2.2))
            (fun s => .measurements ms (some s))
        else (.measurements ms none, v))
    | _ => none) 3

/-- KEY_EXCHANGE: a session begins, its response signed; it needs the group and the AEAD suite to have been negotiated, or is
answered with UnsupportedRequest (log 40). -/
def keyExchange : Dev → Dev :=
  spdmServe (fun r => match r with
    | .keyExchange reqId x => some (fun v =>
        if !v.cxl.spdm.keyAlgs then (.error 0x07, v) else
        let id : W32 := reqId.setWidth 32 ||| (v.cxl.spdm.nextSession.setWidth 32 <<< 16)
        let (a, v') := signed v (leBytes 96 x.toNat) (fun s => .keyExchangeRsp id (Config.exchangeValue v.free) s)
        if v.arm.pufOk && v.arm.firmware then
          (a, setSpdm (fun c => { c with
            sessions := c.sessions ++ [{ id := id, established := false, reqGen := 0, rspGen := 0, beats := 0 }]
            nextSession := c.nextSession + 1 }) v')
        else (a, v'))
    | _ => none) 3

/-- A session changed. -/
def modSession (id : W32) (f : SpdmSession → SpdmSession) (v : Dev) : Dev :=
  setSpdm (fun c => { c with sessions := c.sessions.map (fun s => if s.id = id then f s else s) }) v

/-- FINISH: a session's handshake completes when the requester's MAC verifies; else DecryptError. -/
def finishReq : Dev → Dev :=
  spdmServe (fun r => match r with
    | .finish id ok => some (fun v =>
        if ok then (.finishRsp, modSession id (fun s => { s with established := true }) v) else (.error 0x06, v))
    | _ => none) 3

/-- KEY_UPDATE: operation 1 updates the requester's key, 2 both, 3 verifies. -/
def keyUpdate : Dev → Dev :=
  spdmServe (fun r => match r with
    | .keyUpdate id op tag => some (fun v =>
        if !sessionUp v id || op = 0 || 3 < op.toNat then (.error 0x01, v)
        else
          (.keyUpdateAck op tag, modSession id (fun s =>
            if op = 1 then { s with reqGen := s.reqGen + 1 }
            else if op = 2 then { s with reqGen := s.reqGen + 1, rspGen := s.rspGen + 1 } else s) v))
    | _ => none) 3

/-- HEARTBEAT. -/
def spdmHeartbeat : Dev → Dev :=
  spdmServe (fun r => match r with
    | .heartbeat id => some (fun v =>
        if sessionUp v id then (.heartbeatAck, modSession id (fun s => { s with beats := s.beats + 1 }) v) else (.error 0x01, v))
    | _ => none) 3

/-- END_SESSION. -/
def endSession : Dev → Dev :=
  spdmServe (fun r => match r with
    | .endSession id => some (fun v =>
        if sessionUp v id then
          (.endSessionAck, setSpdm (fun c => { c with sessions := c.sessions.filter (fun s => s.id ≠ id) }) v)
        else (.error 0x01, v))
    | _ => none) 3

/-- A chunk that comes in order: the first of a large request, or the next of the one under way. -/
def chunkFits (c : Spdm) (h : Byte) (n : Nat) : Bool := n = 0 || (c.sendHandle = some h && c.sendSeq = n)

/-- The answer to one chunk of a large request. -/
def chunkTake : Dev → Dev :=
  spdmServe (fun r => match r with
    | .chunkSend h n last _ bs _ => some (fun v =>
        if !chunkFits v.cxl.spdm h n then (.error 0x01, v)
        else
          (.chunkSendAck h n, setSpdm (fun c => { c with
            sendHandle := if last then none else some h
            sendSeq := n + 1
            sendBytes := if n = 0 then bs else c.sendBytes ++ bs }) v))
    | _ => none) 2

/-- The request that a large one's chunks make up stands in the mailbox as any other, until its row answers it. -/
def wholeRequest (s : Option W32) (r : SpdmReq) (v : Dev) : Dev :=
  let o : DoeObject := match s with
    | none => .spdm r
    | some id => .secured id r
  match r with
  | .chunkSend .. => emit (.spdm s (.error 0x01)) v
  | .chunkGet .. => emit (.spdm s (.error 0x01)) v
  | .other _ => emit (.spdm s (.error 0x07)) v
  | _ => setMailbox 0 { busy := true, object := some o } v

/-- CHUNK_SEND: one chunk of a large request, in order; after the last the request itself is served. -/
def chunkSend (v : Dev) : Dev :=
  match spdmRequest v with
  | some (s, .chunkSend h n true z bs r) =>
    let ok := configUp v && spdmExpected v 2 s (.chunkSend h n true z bs r) && chunkFits v.cxl.spdm h n
    if ok then wholeRequest s r (chunkTake v) else chunkTake v
  | _ => chunkTake v

/-- CHUNK_GET: one chunk of a large response, in order. -/
def chunkGet : Dev → Dev :=
  spdmServe (fun r => match r with
    | .chunkGet h n => some (fun v =>
        let c := v.cxl.spdm
        if c.getBytes.isEmpty || c.getHandle ≠ h || c.getSeq ≠ n then (.error 0x01, v)
        else
          let rest := c.getBytes.drop spdmRoom
          (.chunkResponse h n rest.isEmpty (c.getBytes.take spdmRoom), setSpdm (fun c => { c with
            getBytes := rest, getSeq := n + 1 }) v))
    | _ => none) 2

/-! ### Meanings -/

/-- CXL_LINK_UP (R295); what waited for the link goes on (R26). -/
def execCxlLinkUp (r : CxlRate) (x16 flit : Bool) (s : State) : Host.Outcome State Fault Refusal :=
  runWork (fun w => waitsDrain (onDev (cxlLinkUp r x16 flit) w)) s
/-- LINK_RESET (R293). -/
def execLinkReset (s : State) : Host.Outcome State Fault Refusal := runDev linkReset s
/-- CXL_ENABLE (R294). -/
def execCxlEnable (s : State) : Host.Outcome State Fault Refusal := runDev cxlEnable s
/-- IDE_MAC_FAILURE (R291). -/
def execIdeMacFailure (s : State) : Host.Outcome State Fault Refusal := runDev ideMacFailure s
/-- HDM_READ (R285). -/
def execHdmRead (a : Nat) (s : State) : Host.Outcome State Fault Refusal := runWork (hdmRead a) s
/-- HDM_WRITE (R286). -/
def execHdmWrite (a : Nat) (line : List Byte) (mask : W64) (poison : Bool) (s : State) : Host.Outcome State Fault Refusal :=
  runWork (hdmWrite a line mask poison) s
/-- BACK_INVALIDATE (R285). -/
def execBackInvalidate (line : Nat) (write : Bool) (s : State) : Host.Outcome State Fault Refusal :=
  runDev (backInvalidate line write) s
/-- BIRSP_RECEIVED (R285); what waited for it goes on (R26, R467). -/
def execBirspReceived (line : Nat) (s : State) : Host.Outcome State Fault Refusal :=
  runWork (fun w => waitsDrain (onDev (birsp line) w)) s
/-- ATS_INVALIDATION (R290). -/
def execAtsInvalidation (pasid : BitVec 20) (b n tag : Nat) (s : State) : Host.Outcome State Fault Refusal :=
  runDev (atsInvalidation pasid b n tag) s
/-- ATS_INVALIDATION_COMPLETE (R290). -/
def execAtsInvalidationComplete (tag : Nat) (s : State) : Host.Outcome State Fault Refusal :=
  runDev (atsInvalidationComplete tag) s
/-- DOE_OBJECT (R292). -/
def execDoeObject (m : Fin 3) (o : DoeArrival) (s : State) : Host.Outcome State Fault Refusal :=
  runDev (doeObject m.val o.obj o.size) s
/-- DOE_ABORT (R292). -/
def execDoeAbort (m : Fin 3) (s : State) : Host.Outcome State Fault Refusal := runDev (doeAbort m.val) s
/-- DOE_DISCOVERY (R292). -/
def execDoeDiscovery (m : Fin 3) (s : State) : Host.Outcome State Fault Refusal := runDev (doeDiscovery m.val) s
/-- CDAT_TABLE_ACCESS (R292). -/
def execCdatTableAccess (s : State) : Host.Outcome State Fault Refusal := runDev cdatAccess s
/-- GET_VERSION (R451). -/
def execGetVersion (s : State) : Host.Outcome State Fault Refusal := runDev getVersion s
/-- GET_CAPABILITIES (R451). -/
def execGetCapabilities (s : State) : Host.Outcome State Fault Refusal := runDev getCapabilities s
/-- NEGOTIATE_ALGORITHMS (R451). -/
def execNegotiateAlgorithms (s : State) : Host.Outcome State Fault Refusal := runDev negotiateAlgorithms s
/-- GET_DIGESTS (R451). -/
def execGetDigests (s : State) : Host.Outcome State Fault Refusal := runWork getDigests s
/-- GET_CERTIFICATE (R451). -/
def execGetCertificate (s : State) : Host.Outcome State Fault Refusal := runWork getCertificate s
/-- CHALLENGE (R451). -/
def execChallenge (s : State) : Host.Outcome State Fault Refusal := runWork challenge s
/-- GET_MEASUREMENTS (R451). -/
def execGetMeasurements (s : State) : Host.Outcome State Fault Refusal := runDev getMeasurements s
/-- KEY_EXCHANGE (R451). -/
def execKeyExchange (s : State) : Host.Outcome State Fault Refusal := runDev keyExchange s
/-- FINISH (R451). -/
def execFinish (s : State) : Host.Outcome State Fault Refusal := runDev finishReq s
/-- KEY_UPDATE (R451). -/
def execKeyUpdate (s : State) : Host.Outcome State Fault Refusal := runDev keyUpdate s
/-- HEARTBEAT (R451). -/
def execSpdmHeartbeat (s : State) : Host.Outcome State Fault Refusal := runDev spdmHeartbeat s
/-- END_SESSION (R451). -/
def execEndSession (s : State) : Host.Outcome State Fault Refusal := runDev endSession s
/-- CHUNK_SEND (R451). -/
def execChunkSend (s : State) : Host.Outcome State Fault Refusal := runDev chunkSend s
/-- CHUNK_GET (R451). -/
def execChunkGet (s : State) : Host.Outcome State Fault Refusal := runDev chunkGet s

end Sys2Proof.Machine
end

