-- ==== Sys2Proof/Machine/Product.lean ====
section
/-! DEFINITION. What an engine computes (R61, R62, R77 to R82, R90 to R107, R163, R210): MM and GATHER descriptors as
jobs, group sums, the two reduction orders, and the malformed checks of MM. -/

namespace Sys2Proof.Machine

open Sys2Proof

/-! ### The MM descriptor (R90, R91) -/

/-- The fields of an MM descriptor but its addresses. -/
structure Mm where
  m : Nat
  n : Nat
  k : Nat
  lda : Nat
  ldb : Nat
  ldc : Nat
  ldaux : Nat
  batch : Nat
  fmtA : Nat
  fmtB : Nat
  convC : Nat
  convStat : Nat
  split : Bool
  thr : Bool
  pair : Bool
  part : Nat
  statT : Bool
  strmT : Bool
  outT : Bool
  ktile : Nat
  op : Nat
  rowstat : Bool
  elem : Bool
  elemMul : Bool
  statOn : Bool
  sumsq : Bool
  welford : Bool
  bankMode : Nat
  bankSel : Nat
  clear : Bool
  strideA : Nat
  strideB : Nat
  strideC : Nat
  engFirst : Nat
  engCount : Nat
  deriving DecidableEq, Repr

def mmOf (bs : List Byte) : Mm :=
  let mode := leAt bs 106 1
  let kt := leAt bs 107 1
  let fuse := leAt bs 108 1
  let bank := leAt bs 109 1
  { m := leAt bs 72 4, n := leAt bs 76 4, k := leAt bs 80 4, lda := leAt bs 84 4, ldb := leAt bs 88 4
    ldc := leAt bs 92 4, ldaux := leAt bs 96 4, batch := leAt bs 100 2, fmtA := leAt bs 102 1 % 32
    fmtB := leAt bs 103 1 % 32, convC := leAt bs 104 1, convStat := leAt bs 105 1
    split := natBit mode 0, thr := natBit mode 1, pair := natBit mode 2, part := natBits mode 4 3
    statT := natBit mode 5, strmT := natBit mode 6, outT := natBit mode 7
    ktile := natBits kt 2 0, op := natBits kt 5 4
    rowstat := natBit fuse 0, elem := natBit fuse 1, elemMul := natBit fuse 2, statOn := natBit fuse 3
    sumsq := natBit fuse 4, welford := natBit fuse 5
    bankMode := natBits bank 1 0, bankSel := natBits bank 2 2, clear := natBit bank 3
    strideA := leAt bs 112 4, strideB := leAt bs 116 4, strideC := leAt bs 120 4
    engFirst := leAt bs 124 1 % 128, engCount := leAt bs 125 1 }

/-- Whether a descriptor selects a row statistic. -/
def Mm.stat (o : Mm) : Bool := o.rowstat || o.sumsq || o.welford

/-- Narrow formats of R78: FP8, FP6 and FP4, block-scaled or not. -/
def fmtNarrow (f : Nat) : Bool := (decide (3 ≤ f) && decide (f ≤ 7)) || fmtBlock f
def fmtFour (f : Nat) : Bool := f = 0x07 || f = 0x0D
def fmtWide (f : Nat) : Bool := f = 0x00 || f = 0x01 || f = 0x02

/-- The product class of R78: 0 BF16, 1 Narrow-2, 2 INT8, 3 Narrow-4, 4 XF2, 5 XF3. -/
def mmClass (a b : Nat) (split : Bool) : Option Nat :=
  if split && a ≠ 0x00 && b ≠ 0x00 then none
  else if a = 0x01 && b = 0x01 then some 0
  else if fmtNarrow a && fmtNarrow b then some (if fmtFour a && fmtFour b then 3 else 1)
  else if a = 0x08 && b = 0x08 then some 2
  else if fmtWide a && fmtWide b then some (if split then 5 else 4)
  else none

/-- The stationary depth D of a class (R78). -/
def clsDepth (c : Nat) : Nat := if c = 1 ∨ c = 2 then 512 else if c = 3 then 1024 else 256

/-- The side of a sub-array (R82). -/
def partSide (part : Nat) : Nat := 256 / 2 ^ part

/-- Bytes of a stored row of `n` elements, padded to its packing group (R53). -/
def rowBytes (fmt n : Nat) : Nat := runBytes (fmtBits fmt) n

def aligned64 (n : Nat) : Bool := n % 64 = 0

/-- A scale address suits an operand's format (R92). -/
def operandScaleOk (fmt addr : Nat) : Bool :=
  if fmtBlock fmt then addr ≠ 0 else fmtFp8 fmt || addr = 0

/-- Limits of R210 on a backward pair. -/
def backwardOk (o : Mm) (bs : List Byte) : Bool :=
  !o.statT && o.strmT && o.outT && ccFmt o.convStat = 0 && ccRound o.convStat = 0 &&
  decide (4 * o.n ≤ o.strideC) && aligned64 o.strideC && o.batch = 1 && o.strideA = 0 && o.strideB = 0 &&
  o.thr && o.ktile = 0 && o.part = 0 && o.bankMode = 0 && leAt bs 108 1 = 0 &&
  (match mmClass o.fmtA o.fmtB o.split with
   | some c => c = 0 || c = 4 || c = 5
   | none => false) &&
  decide (rowBytes o.fmtA o.k ≤ o.lda) && decide (rowBytes o.fmtB o.n ≤ o.ldb) &&
  decide (rowBytes o.fmtA o.k ≤ o.ldaux) && decide (rowBytes (ccFmt o.convC) o.k ≤ o.ldc)

/-- Limits of R86 on keep and drain-only modes. -/
def bankOk (o : Mm) : Bool :=
  o.bankMode ≠ 3 &&
  (o.bankMode = 0 ||
    (o.engCount = 1 && o.part = 0 && o.op = 0 && decide (o.m ≤ 512) && decide (o.n ≤ 256) && o.batch = 1 &&
      (o.bankMode = 1 || o.k = 0)))

/-- Row strides cover their stored rows (R92), of a single product: LDC in every bank mode, LDA and LDB but in drain-only mode,
which forms no product, LDAUX where AUX is used (log 104). -/
def stridesOk (o : Mm) : Bool :=
  let crow := rowBytes (ccFmt o.convC) (if o.outT then o.m else o.n)
  decide (crow ≤ o.ldc) && (!o.elem || decide (crow ≤ o.ldaux)) &&
  (o.bankMode = 2 ||
    (decide (rowBytes o.fmtA (if o.strmT then o.m else o.k) ≤ o.lda) &&
     decide (rowBytes o.fmtB (if o.statT then o.k else o.n) ≤ o.ldb)))

/-- Checks of R92 that apply to a single product. -/
def singleOk (o : Mm) (bs : List Byte) : Bool :=
  (match mmClass o.fmtA o.fmtB o.split with
   | some c => !o.thr || decide (clsDepth c ≤ 256 * 2 ^ o.ktile)
   | none => false) &&
  !(fmtBlock o.fmtB && !o.statT) && !(fmtBlock o.fmtA && o.strmT) &&
  o.part ≠ 3 && !(o.thr && o.part ≠ 0) && !(o.thr && 5 ≤ o.ktile) &&
  (o.part = 0 || (decide (o.m ≤ 512 / 2 ^ o.part) && decide (o.n ≤ partSide o.part))) &&
  decide (b2n o.rowstat + b2n o.sumsq + b2n o.welford ≤ 1) && !(o.statOn && !o.elem) &&
  !(o.elem && leAt bs 40 8 = 0) && !(o.stat && leAt bs 48 8 = 0) &&
  !(o.elem && (fmtBlock (ccFmt o.convC) || ccFmt o.convC = 0x0F)) && !(o.stat && ccFmt o.convStat ≠ 0) &&
  stridesOk o &&
  (o.batch ≤ 1 || (aligned64 o.strideA && aligned64 o.strideB && aligned64 o.strideC))

/-- An MM descriptor passes every check of R92 that needs no translation. -/
def mmOk (bs : List Byte) : Bool :=
  let o := mmOf bs
  -- reserved fields (R9)
  decide (leAt bs 102 1 < 32) && decide (leAt bs 103 1 < 32) && !natBit (leAt bs 107 1) 3 &&
  decide (leAt bs 107 1 < 64) && decide (leAt bs 108 1 < 64) && decide (leAt bs 109 1 < 16) && leAt bs 110 2 = 0 &&
  decide (leAt bs 124 1 < 128) && leAt bs 126 2 = 0 && decide (o.op ≤ 1) &&
  ccOk o.convC && ccFmt o.convC ≠ 0x11 && ccOk o.convStat &&
  operandScaleOk o.fmtA (leAt bs 56 8) && operandScaleOk o.fmtB (leAt bs 64 8) &&
  bankOk o && o.batch ≠ 0 && o.engCount ≠ 0 && decide (o.engFirst + o.engCount ≤ 128) &&
  [16, 24, 32, 40, 48].all (fun a => aligned64 (leAt bs a 8)) &&
  [o.lda, o.ldb, o.ldc, o.ldaux].all aligned64 &&
  (if o.op = 1 then backwardOk o bs else singleOk o bs)

/-- The address slots that must lie in core stores (R92): 0 A, 1 B, 2 C, 3 AUX, 4 statistics; those that the descriptor's mode uses
(log 104). -/
def mmSlots (o : Mm) : List Nat :=
  if o.op = 1 then [0, 1, 2, 3, 4]
  else
    (if o.bankMode = 2 then [] else [0, 1]) ++ (if o.bankMode = 1 then [] else [2]) ++
      (if o.elem then [3] else []) ++ (if o.stat then [4] else [])

/-! ### Jobs -/

/-- One output block of a part (R94): its first batch member or factor block and how many it takes, its rows and columns,
and the length of its reduction. -/
structure Blk where
  member : Nat
  members : Nat
  row0 : Nat
  rows : Nat
  col0 : Nat
  cols : Nat
  k : Nat
  deriving DecidableEq, Repr

/-- What an engine does for a descriptor: class, configuration and order, the formats and per-tensor scale addresses, and
where the elements and block scales of A (member, row, k) and B (member, k, column) lie. -/
structure Job where
  cls : Nat
  side : Nat
  pair : Bool
  groups : Nat
  fmtA : Nat
  fmtB : Nat
  scaleA : W64
  scaleB : W64
  blocks : List Blk
  aAt : Nat → Nat → Nat → W64 × Int
  bAt : Nat → Nat → Nat → W64 × Int
  aScale : Nat → Nat → Nat → W64
  bScale : Nat → Nat → Nat → W64
  rowsOf : Nat → Nat
  colsOf : Nat → Nat

/-- The stationary depth of a job's sub-arrays (R82). -/
def Job.depth (j : Job) : Nat := j.side * clsDepth j.cls / 256

/-- Stationary tiles of a block. -/
def Job.tiles (j : Job) (b : Blk) : Nat := ceilDiv b.k j.depth

/-- Blocks dealt to one engine of a range, with their places in the whole sequence (R94). -/
def dealt {α : Type} (l : List α) (count i : Nat) : List α :=
  ((l.zipIdx).filter (fun c => c.2 % count = i)).map (·.1)

/-- Output blocks of one member, columns fastest (R94). -/
def cutBlocks (member m n k : Nat) : List Blk :=
  (upto (ceilDiv m 512)).flatMap (fun i => (upto (ceilDiv n 256)).map (fun c =>
    ⟨member, 1, 512 * i, Nat.min 512 (m - 512 * i), 256 * c, Nat.min 256 (n - 256 * c), k⟩))

/-- Output blocks of an MM descriptor (R94). -/
def mmBlocks (o : Mm) : List Blk :=
  if o.m = 0 ∨ o.n = 0 then []
  else if o.part = 0 then (upto o.batch).flatMap (fun b => cutBlocks b o.m o.n o.k)
  else
    let per := if o.part = 1 then 4 else 16
    (upto (ceilDiv o.batch per)).map (fun i => ⟨per * i, Nat.min per (o.batch - per * i), 0, o.m, 0, o.n, o.k⟩)

/-- The address of a row at a byte stride. -/
def rowAt (base : W64) (ld row : Nat) : W64 := base + BitVec.ofNat 64 (ld * row)

/-- The job of a single product (R77 to R81, R90); part `p` of its engines. The rows of the block scales are counted on from one
batch member to the next (log 99). -/
def mmJob (x : Desc) (r : Requestor) (p : Nat) : Job :=
  let o := mmOf x.bytes
  let nb := ceilDiv o.k 32
  let at_ (base : W64) (stride ld : Nat) (b row col : Nat) : W64 × Int := (rowAt (rowAt base stride b) ld row, (col : Int))
  let sA : W64 := BitVec.ofNat 64 (fieldOf x 56 8)
  let sB : W64 := BitVec.ofNat 64 (fieldOf x 64 8)
  { cls := (mmClass o.fmtA o.fmtB o.split).getD 0, side := partSide o.part, pair := o.pair
    groups := if o.thr then 8 * 2 ^ o.ktile else 0
    fmtA := o.fmtA, fmtB := o.fmtB, scaleA := sA, scaleB := sB
    blocks := dealt (mmBlocks o) o.engCount p
    aAt := fun b i k => if o.strmT then at_ (slotAddr x r 0) o.strideA o.lda b k i else at_ (slotAddr x r 0) o.strideA o.lda b i k
    bAt := fun b k j => if o.statT then at_ (slotAddr x r 1) o.strideB o.ldb b j k else at_ (slotAddr x r 1) o.strideB o.ldb b k j
    aScale := fun b i g => sA + BitVec.ofNat 64 ((b * o.m + i) * nb + g)
    bScale := fun b j g => sB + BitVec.ofNat 64 ((b * o.n + j) * nb + g)
    rowsOf := fun _ => o.m, colsOf := fun _ => o.n }

/-- Units of a backward pair (R211) as blocks of the transposed input gradient: rows are features, columns tokens, and the
reduction runs over the output features. A pair without input features, K = 0, has no unit: it writes nothing and sets no flag
(log 105). -/
def backwardBlocks (o : Mm) (p : Nat) : List Blk :=
  if o.m = 0 ∨ o.n = 0 then []
  else
    (dealt (upto (ceilDiv o.k 512)) o.engCount p).flatMap (fun u => (upto (ceilDiv o.m 256)).map (fun i =>
      ⟨0, 1, 512 * u, Nat.min 512 (o.k - 512 * u), 256 * i, Nat.min 256 (o.m - 256 * i), o.n⟩))

/-- The first product of a backward pair (R211): Wᵀ streamed against dYᵀ. -/
def backwardJob (x : Desc) (r : Requestor) (p : Nat) : Job :=
  let o := mmOf x.bytes
  { cls := (mmClass o.fmtA o.fmtB o.split).getD 0, side := 256, pair := o.pair, groups := 8
    fmtA := o.fmtA, fmtB := o.fmtB, scaleA := 0, scaleB := 0
    blocks := backwardBlocks o p
    aAt := fun _ f n => (rowAt (slotAddr x r 0) o.lda n, (f : Int))
    bAt := fun _ n t => (rowAt (slotAddr x r 1) o.ldb t, (n : Int))
    aScale := fun _ _ _ => 0, bScale := fun _ _ _ => 0
    rowsOf := fun _ => o.k, colsOf := fun _ => o.m }

/-! ### GATHER as products (R161 to R167) -/

/-- The padded size r' of a factor block (R162). -/
def padSize (r : Nat) : Nat := if r ≤ 16 then 16 else 2 ^ clog2 r

/-- The block size B of a STAT descriptor (R176). -/
def statB (bs : List Byte) : Nat := 64 * 2 ^ natBits (leAt bs 110 1) 5 3

/-- The number of factor blocks, and the real size of block `j` (R161). -/
def statCount (bs : List Byte) : Nat := ceilDiv (leAt bs 80 4) (statB bs)
def statReal (bs : List Byte) (j : Nat) : Nat := Nat.min (statB bs) (leAt bs 80 4 - j * statB bs)

/-- The byte offset of block `j` in its areas (R177): every block before it has the full size B. -/
def statOffset (bs : List Byte) (j : Nat) : Nat := 4 * j * (statB bs * statB bs)

/-- Settings of R163 by the tensor's format: SPLIT and PAIR. -/
def gatherSplit (fmt : Nat) : Bool := fmt = 0x00
def gatherPair (fmt : Nat) : Bool := fmt = 0x00 || fmt = 0x02

/-- The configuration of R163 by the padded size. -/
def gatherPart (rp : Nat) : Nat := if rp ≤ 64 then 2 else if rp = 128 then 1 else 0

/-- Output blocks of a GATHER over all its factor blocks; the last is cut by its padded size too (R94, R167; log 114). -/
def gatherBlocks (bs : List Byte) : List Blk :=
  (upto (statCount bs)).flatMap (fun j =>
    let rp := padSize (statReal bs j)
    cutBlocks j rp rp (leAt bs 76 4))

/-- The job of one output block of a GATHER (R163); the settings follow the padded size of its factor block. -/
def gatherJob (x : Desc) (r : Requestor) (p : Nat) (b : Nat) : Job :=
  let bs := x.bytes
  let fmt := leAt bs 111 1 % 32
  let blocks := dealt (gatherBlocks bs) (leAt bs 113 1) p
  let rp := padSize (statReal bs ((blocks.getD b ⟨0, 1, 0, 0, 0, 0, 0⟩).member))
  let part := gatherPart rp
  let sc : W64 := BitVec.ofNat 64 (leAt bs 24 8)
  let at_ (j k i : Nat) : W64 × Int := (rowAt (slotAddr x r 0) (leAt bs 84 4) k, ((j * statB bs + i : Nat) : Int))
  { cls := (mmClass fmt fmt (gatherSplit fmt)).getD 0, side := partSide part, pair := gatherPair fmt
    groups := if part = 0 then 128 else 0
    fmtA := fmt, fmtB := fmt, scaleA := sc, scaleB := sc, blocks := blocks
    aAt := fun j i k => at_ j k i, bAt := fun j k i => at_ j k i
    aScale := fun _ _ _ => 0, bScale := fun _ _ _ => 0
    rowsOf := fun j => statReal bs j, colsOf := fun j => statReal bs j }

/-- The job of a part of a descriptor at its block `b`. -/
def jobOf (x : Desc) (r : Requestor) (p b : Nat) : Job :=
  if x.cls = 3 then gatherJob x r p b
  else if (mmOf x.bytes).op = 1 then backwardJob x r p
  else mmJob x r p

/-- How many output blocks a part has. -/
def blockCount (x : Desc) (p : Nat) : Nat := (jobOf x { ctx := x.ctx } p 0).blocks.length

/-! ### Group sums (R61, R62, R79, R96 to R100) -/

/-- BF16 pieces of a finite value by truncation (R61): each piece holds the eight most significant bits of what is left (log 93). -/
def splitPieces : Nat → Val → List Val
  | 0, _ => []
  | n + 1, v =>
    let q := fBF16.decode (fBF16.convert .zero false v).1
    let p : Val := if q.isZero then vZero else q
    p :: splitPieces n (subV v p)

/-- Products of one element pair by class (R62, R78). -/
def pairProducts (cls : Nat) (a b : Val) : List Val :=
  if cls < 4 || !a.isFinite || !b.isFinite then [mulV a b]
  else
    let n := cls - 2
    let pa := splitPieces n a
    let pb := splitPieces n b
    (upto n).flatMap (fun i => ((upto n).filter (fun j => cls = 4 || i + j ≤ 2)).map (fun j =>
      mulV (pa.getD i vZero) (pb.getD j vZero)))

/-- Bits by which a window value is extended so that STICKY breaks ties and nothing else. -/
def stickyBits : Nat := 700

/-- A window value with STICKY: away from zero by less than any half unit it can meet (R97). -/
def pushed (v : Val) (sticky : Bool) (like : Bool) : Val :=
  match v with
  | .num n m e =>
    if sticky && m ≠ 0 then
      let m' := m * 2 ^ stickyBits
      .num n (if n = like then m' + 1 else m' - 1) (e - stickyBits)
    else v
  | v => v

/-- The window of R96: W and STICKY at a given least weight. -/
def windowSum (q : Int) (ps : List Val) : Int × Bool :=
  ps.foldl (fun (a : Int × Bool) p => match p with
    | .num n m e =>
      let k := roundAt .zero m e q
      let lost := decide (e < q) && m % 2 ^ (q - e).toNat ≠ 0
      (a.1 + sgn n k, a.2 || lost)
    | _ => a) (0, false)

/-- The largest e(p) of the non-zero finite products. -/
def topExp : List Val → Option Int
  | [] => none
  | .num _ m e :: t =>
    if m = 0 then topExp t
    else some (match topExp t with
      | some x => max x (ilog m e)
      | none => ilog m e)
  | _ :: t => topExp t

/-- A group sum, as a pair where PAIR = 1, with the per-tensor scales SA and SB (R79, R97 to R100). STICKY of the second rounding
stands for bits on the side of V's sign, as in the first (log 106). -/
def groupSum (pair : Bool) (sa sb : Val) (ps : List Val) : Nat :=
  let bad := ps.any (fun p => !p.isFinite)
  let hiOf (v : Val) : Nat := toF32 v
  if bad || !sa.isFinite || !sb.isFinite then
    let s := ps.foldl addV vZero
    let s := if s.isZero then vZero else s
    let t := mulV (mulV s sa) sb
    if t.isNan then f32Nan else if t.isZero then 0 else hiOf t
  else
    match topExp ps with
    | none => 0
    | some emax =>
      let (w, sticky) := windowSum (emax - 88) ps
      let v := mulV (mulV (vDy w (emax - 88)) sa) sb
      if v.isZero then 0
      else
        let hi := hiOf (pushed v sticky v.isNeg)
        if !pair then hi
        else if !isFin32 hi then mkPair hi 0
        else
          let rest := subV v (f32 hi)
          if rest.isZero then mkPair hi 0
          else mkPair hi (toF32 (plusZero (pushed rest sticky v.isNeg)))

/-- One addition of the tree or the accumulator (R101, R106, R107). -/
def accAdd (pair : Bool) (a b : Nat) : Nat := if pair then pairAdd a b else fadd a b

/-- The pairwise tree of a K tile (R102). -/
def tileTree (pair : Bool) (groups : Nat) (sums : List Nat) : Nat :=
  (treeFold (accAdd pair) (clog2 groups) (sums ++ List.replicate (groups - sums.length) 0)).headD 0

/-! ### Loading and streaming -/

/-- Codes of up to 32 elements of a group as values, with INVALID for a NaN scale (R55, R79). -/
def groupVals (fmt : Nat) (scale : Nat) (codes : List Nat) : List Val × Flags :=
  if fmtBlock fmt then blockRead fmt scale codes else (codes.map (elemVal fmt), fNone)

/-- The part of a reduction that a stationary tile holds: its first k and its length. -/
def tileSpan (j : Job) (b : Blk) (t : Nat) : Nat × Nat := (t * j.depth, Nat.min j.depth (b.k - t * j.depth))

/-- Rows and columns of a member that a block covers. -/
def liveRows (j : Job) (b : Blk) (mem : Nat) : Nat := Nat.min b.rows (j.rowsOf mem - b.row0)
def liveCols (j : Job) (b : Blk) (mem : Nat) : Nat := Nat.min b.cols (j.colsOf mem - b.col0)

/-- Key of a stationary element: sub-array, depth, column. -/
def cellKey (s kk c : Nat) : Nat := (s * 1024 + kk) * 256 + c
/-- Key of a stationary block scale: sub-array, group, column. -/
def scaleKey (s g c : Nat) : Nat := (s * 32 + g) * 256 + c

/-- A stationary tile read into a register set (R83): its codes and block scales. -/
def loadTile (r : Requestor) (j : Job) (b : Blk) (t : Nat) (both : Bool) : Acc StatSet := do
  let (k0, len) := tileSpan j b t
  let cells ← ((upto b.members).flatMap (fun s => (upto len).flatMap (fun kk =>
      (upto (liveCols j b (b.member + s))).map (fun c => (s, kk, c))))).mapM (fun (s, kk, c) => do
    let (base, off) := j.bAt (b.member + s) (k0 + kk) (b.col0 + c)
    let code ← readCode r base (fmtBits j.fmtB) off
    pure (s, kk, c, code))
  let scales ← if fmtBlock j.fmtB then
      ((upto b.members).flatMap (fun s => (upto (ceilDiv len 32)).flatMap (fun g =>
        (upto (liveCols j b (b.member + s))).map (fun c => (s, g, c))))).mapM (fun (s, g, c) => do
        let sc ← readNat r (j.bScale (b.member + s) (b.col0 + c) (k0 / 32 + g)) 1
        pure (scaleKey s g c, BitVec.ofNat 8 sc))
    else pure []
  let put (key : Nat → Nat → Nat → Nat) : Tab W32 :=
    cells.foldl (fun t x => tabPut 0 t (key x.1 x.2.1 x.2.2.1) (BitVec.ofNat 32 x.2.2.2)) []
  pure { loaded := true, plain := if both then put (fun s kk c => cellKey s c kk) else put cellKey
         transposed := if both then put cellKey else []
         scales := scales.foldl (fun t c => tabPut 0 t c.1 c.2) [] }

/-- The stationary values of one group of a column, with the slot that holds them. -/
def statGroup (fmt : Nat) (st : StatSet) (slot : Tab W32) (s g c len : Nat) : List Val × Flags :=
  groupVals fmt (tabGet 0 st.scales (scaleKey s g c)).toNat
    ((upto (Nat.min 32 (len - 32 * g))).map (fun i => (tabGet 0 slot (cellKey s (32 * g + i) c)).toNat))

/-- The streamed values of one group of a row. -/
def rowGroup (r : Requestor) (j : Job) (mem row k0 g len : Nat) : Acc (List Val × Flags) := do
  let codes ← (upto (Nat.min 32 (len - 32 * g))).mapM (fun i => do
    let (base, off) := j.aAt mem row (k0 + 32 * g + i)
    readCode r base (fmtBits j.fmtA) off)
  let sc ← if fmtBlock j.fmtA then readNat r (j.aScale mem row (k0 / 32 + g)) 1 else pure 0
  pure (groupVals j.fmtA sc codes)

/-- A group sum of a row and a column. -/
def dotGroup (j : Job) (sa sb : Val) (a b : List Val) : Nat :=
  groupSum j.pair sa sb ((a.zip b).flatMap (fun c => pairProducts j.cls c.1 c.2))

/-- The position in a bank of a sub-array's element (R82). -/
def bankKey (side s i c : Nat) : Nat :=
  let per := 256 / side
  256 * (2 * side * (s / per) + i) + side * (s % per) + c

/-- The group sums of one tile added to a bank's position, in the order selected (R101, R102). What the position holds is taken by
the part's own MODE.PAIR, also where the parts that filled the bank had the other (DESIGN CHOICE, log 107). -/
def accumulate (j : Job) (b : Blk) (t key : Nat) (sums : List Nat) (bank : Bank) : Bank :=
  let acc := (tabGet 0 bank.cells key).toNat
  if j.groups = 0 then
    { bank with cells := tabPut 0 bank.cells key (BitVec.ofNat 64 (sums.foldl (accAdd j.pair) acc)) }
  else
    let g0 := t * (j.depth / 32) % j.groups
    let last := t + 1 = j.tiles b || g0 + j.depth / 32 = j.groups
    if last then
      let held := (upto g0).map (fun g => (tabGet 0 bank.pend (128 * key + g)).toNat)
      { bank with
        cells := tabPut 0 bank.cells key
          (BitVec.ofNat 64 (accAdd j.pair acc (tileTree j.pair j.groups (held ++ sums))))
        pend := bank.pend.filter (fun c => c.1 / 128 ≠ key) }
    else
      { bank with pend := (sums.zipIdx).foldl (fun q c =>
          tabPut 0 q (128 * key + g0 + c.2) (BitVec.ofNat 64 c.1)) bank.pend }

/-- Every row of a block streamed through the active set, its group sums entering the bank (R78, R96 to R102). -/
def streamTile (r : Requestor) (j : Job) (b : Blk) (t : Nat) (st : StatSet) (slot : Tab W32) (sa sb : Val)
    (bank : Bank) : Acc Bank := do
  let (k0, len) := tileSpan j b t
  let ng := ceilDiv len 32
  let mut out := bank
  for s in upto b.members do
    let mem := b.member + s
    let cols := (upto (liveCols j b mem)).map (fun c => (upto ng).map (fun g => statGroup j.fmtB st slot s g c len))
    addFlags ((cols.flatMap id).foldl (fun f c => Flags.join f c.2) fNone)
    for i in upto (liveRows j b mem) do
      let row ← (upto ng).mapM (fun g => rowGroup r j mem (b.row0 + i) k0 g len)
      addFlags (row.foldl (fun f c => Flags.join f c.2) fNone)
      for (col, c) in cols.zipIdx do
        let sums := (row.zip col).map (fun q => dotGroup j sa sb q.1.1 q.2.1)
        out := accumulate j b t (bankKey j.side s i c) sums out
  pure out

/-- Element-pair products of the second pass of a backward pair over a tile: its reduction runs over the block's tokens, completed
to whole groups (R211, R461). -/
def weightMacs (j : Job) (b : Blk) (t : Nat) : Nat := b.rows * (tileSpan j b t).2 * (32 * ceilDiv b.cols 32)

/-- Element-pair products of one pass, those that complete a group included (R461). -/
def passMacs (j : Job) (b : Blk) (t : Nat) : Nat :=
  let per := 32 * ceilDiv (tileSpan j b t).2 32
  (upto b.members).foldl (fun n s => n + liveRows j b (b.member + s) * liveCols j b (b.member + s) * per) 0

end Sys2Proof.Machine
end

