-- ==== Sys2Proof/Machine/Engine.lean ====
section
/-! DEFINITION. The matrix engines at work (R83 to R94, R108 to R119, R163 to R168, R211, R212, R379 to R381): queues,
pass boundaries, stationary sets, accumulator banks, and the drain with its fusions. -/

namespace Sys2Proof.Machine

open Sys2Proof

/-! ### Parts on engines -/

/-- BANK_MODE of a descriptor: automatic for a GATHER. -/
def bankModeOf (x : Desc) : Nat := if x.cls = 0 then (mmOf x.bytes).bankMode else 0

/-- Who an engine reads and writes memory as. -/
def engReq (x : Desc) (e : Nat) : Requestor := { ctx := x.ctx, core := some (e / 4), engine := true }

/-- A part's entry in an engine's queue. -/
def findPart (g : Engine) (d p : Nat) : Option EngPart := g.queue.find? (fun q => q.d = d && q.p = p)

/-- A part's entry changed. -/
def modEngPart (e d p : Nat) (f : EngPart → EngPart) (v : Dev) : Dev :=
  modEngine e (fun g => { g with queue := g.queue.map (fun q => if q.d = d && q.p = p then f q else q) }) v

/-- A part's entry removed. -/
def dropEngPart (e d p : Nat) (v : Dev) : Dev :=
  modEngine e (fun g =>
    { g with queue := g.queue.filter (fun q => !(q.d = d && q.p = p))
             current := g.current.filter (fun o => o ≠ (d, p)) }) v

/-- A bank changed. -/
def modBank (e b : Nat) (f : Bank → Bank) (v : Dev) : Dev := modEngine e (fun g => setBank b (f (getBank g b)) g) v

/-! ### Destinations (R310) -/

/-- Logical rows and columns of an MM descriptor's C as its blocks see it: a backward pair's blocks are the transpose of
its input gradient (R211). -/
def outRows (o : Mm) : Nat := if o.op = 1 then o.k else o.m
def outCols (o : Mm) : Nat := if o.op = 1 then o.m else o.n

/-- Stored rows of C, and elements of a stored row (R80). -/
def storedRows (o : Mm) : Nat := if o.outT then outCols o else outRows o
def storedLen (o : Mm) : Nat := if o.outT then outRows o else outCols o

/-- Offset of the tail plane of a HEADTAIL C (R506). -/
def mmTail (o : Mm) : Nat :=
  tailOffset ((o.batch - 1) * o.strideC + (storedRows o - 1) * o.ldc + 2 * storedLen o)

/-- The scale plane of a block-scaled C of a member: after its element plane (log 19). -/
def mmScalePlane (o : Mm) (base : W64) : W64 := base + BitVec.ofNat 64 (storedRows o * o.ldc)

/-- Stored rows of a block: the first and how many; stored columns: the first and how many. -/
def storedSpan (o : Mm) (b : Blk) : (Nat × Nat) × (Nat × Nat) :=
  if o.outT then ((b.col0, b.cols), (b.row0, b.rows)) else ((b.row0, b.rows), (b.col0, b.cols))

/-- Bytes of C that a block writes. -/
def blockRuns (x : Desc) (r : Requestor) (b : Blk) : Runs :=
  let o := mmOf x.bytes
  let fmt := ccFmt o.convC
  let ((r0, nr), (c0, nc)) := storedSpan o b
  (upto b.members).flatMap (fun s =>
    let base := rowAt (slotAddr x r 2) o.strideC (b.member + s)
    (upto nr).flatMap (fun i =>
      let row := rowAt base o.ldc (r0 + i)
      let off : W64 := BitVec.ofNat 64 (c0 * fmtBits fmt / 8)
      [(row + off, runBytes (fmtBits fmt) nc)] ++
      (if fmt = 0x0F then [(row + off + BitVec.ofNat 64 (mmTail o), 2 * nc)] else []) ++
      (if fmtBlock fmt then
        [(mmScalePlane o base + BitVec.ofNat 64 ((r0 + i) * ceilDiv (storedLen o) 32 + c0 / 32), ceilDiv nc 32)] else [])))

/-- Where the statistics record of a row of a slice lies (R118). -/
def statRecAt (x : Desc) (r : Requestor) (mem row slice : Nat) : W64 :=
  let o := mmOf x.bytes
  rowAt (slotAddr x r 4) o.strideC mem + BitVec.ofNat 64 (16 * (row * ceilDiv o.n 256 + slice))

/-- Bytes that a part of an engine descriptor writes. -/
def engineDests (x : Desc) (r : Requestor) (p : Nat) : Runs :=
  let blocks := (jobOf x r p 0).blocks
  if x.cls = 3 then
    blocks.flatMap (fun b =>
      let rp := padSize (statReal x.bytes b.member)
      (upto b.rows).map (fun i =>
        (slotAddr x r 2 + BitVec.ofNat 64 (statOffset x.bytes b.member + 4 * ((b.row0 + i) * rp + b.col0)), 4 * b.cols)))
  else
    let o := mmOf x.bytes
    if o.bankMode = 1 then []
    else
      blocks.flatMap (blockRuns x r) ++
      (if o.stat then
        blocks.flatMap (fun b => (upto b.members).flatMap (fun s => (upto b.rows).map (fun i =>
          (statRecAt x r (b.member + s) (b.row0 + i) (b.col0 / 256), 16)))) else []) ++
      (if o.op = 1 then
        (blocks.filter (fun b => b.col0 = 0)).flatMap (fun b => (upto b.rows).map (fun i =>
          (rowAt (slotAddr x r 4) o.strideC (b.row0 + i), 4 * o.n))) else [])

/-! ### The end of a part -/

/-- A bank of free contents, held: what a keep part that fails leaves of the values it accumulated into (R310). -/
def freeBank (rows cols : Nat) (b : Bank) (v : Dev) : Bank :=
  { b with phase := .held, pend := []
           cells := (upto (rows * cols)).foldl (fun t i =>
             tabPut 0 t (256 * (i / cols) + i % cols) (Config.freeWord (v.free + i))) b.cells }

/-- A keep part that fails leaves its bank held with free contents, unless its context has given it up (R88). -/
def keepFree (e : Nat) (x : Desc) (q : EngPart) (v : Dev) : Dev :=
  match q.bank with
  | some b =>
    if bankModeOf x = 1 && !(getBank (getEngine v e) b).drop then
      let o := mmOf x.bytes
      let v' := modBank e b (fun k => freeBank o.m o.n k v) v
      { v' with free := v'.free + o.m * o.n }
    else v
  | none => v

/-- A part fails on its engine: it leaves the queue, and the banks of its blocks are released (R310). -/
def failEng (e d p : Nat) (st : Byte) (a : W64) (f : Flags) (v : Dev) : Dev :=
  let v := match getDesc v d, findPart (getEngine v e) d p with
    | some x, some q => keepFree e x q v
    | _, _ => v
  let v := dropEngineParts (fun d' p' => d' = d && p' = p) v
  endPart d p st a (if st = stVersionRetired then { f with versionRetired := true } else f) v

/-- One stage of a part's work on an engine: its flags are kept, and a failure ends the part. -/
def onPart {α : Type} (e d p : Nat) (body : Acc α) (ok : α → Work → Work) (w : Work) : Work :=
  match body.run { w with dest := [], snooped := [], flags := {} } with
  | (.ok a, w') =>
    ok a (onDev (modPart d p (fun q => { q with flags := Flags.join q.flags w'.flags }))
      (snoopsUsed { w' with dest := [] }))
  | (.error (.fail st a), w') => onDev (failEng e d p st a w'.flags) (snoopsUsed (freeDest w'))
  | (.error .wait, _) => w

/-- The requester of a part with its versions, and its destinations marked. -/
def engStage (x : Desc) (e p : Nat) : Acc Requestor := do
  let r ← reqOf x (engReq x e) [2]
  for (a, n) in engineDests x r p do markDest r a n
  pure r

/-! ### Queues (R87, R94, R167) -/

/-- Parts of a descriptor that are in an engine's queue, product parts or drain-only ones. -/
def queuedOf (g : Engine) (drain : Bool) : Nat := (g.queue.filter (fun q => q.drain = drain)).length

/-- An earlier descriptor of the same issuer has a product part on the engine that has not entered its queue (R87). -/
def earlierOutside (v : Dev) (x : Desc) (e : Nat) : Bool :=
  v.descs.any (fun y => y.id < x.id && sameIssuer x y && onEngine y && bankModeOf y ≠ 2 &&
    (y.parts.zipIdx).any (fun c => c.1.unit = e && c.1.state = .queued && (findPart (getEngine v e) y.id c.2).isNone))

/-- A product part enters its engine's queue: fenced on a fenced core (R94), at once done where it has no block (R93), and fenced
where both hold, of which neither rule says the order (DESIGN CHOICE, log 123). It does not enter while the eight slots are full
or an earlier part of its ring has not entered (R87). -/
def enqueueProduct (d p : Nat) (v : Dev) : Dev :=
  match getDesc v d with
  | none => v
  | some x =>
    match x.parts[p]? with
    | none => v
    | some q =>
      let g := getEngine v q.unit
      if q.state ≠ .queued || (findPart g d p).isSome || !mayStart v x then v
      else if isFenced v (q.unit / 4) then endPart d p stFenced 0 fNone v
      else if blockCount x p = 0 then endPart d p stSuccess 0 fNone v
      else if 8 ≤ queuedOf g false || earlierOutside v x q.unit then v
      else queueMarks q.unit x.ctx (modEngine q.unit (fun g => { g with queue := g.queue ++ [{ d := d, p := p }] }) v)

/-- Every part of an engine descriptor that can enter its engine's queue does. -/
def enqueueAll (test : Desc → Bool) (d : Nat) (v : Dev) : Dev :=
  match getDesc v d with
  | none => v
  | some x => if test x then (upto x.parts.length).foldl (fun v p => enqueueProduct d p v) v else v

/-- A bank that a running keep-mode part of a context is filling (R108), and that the context has not given up (R88). -/
def keepFilling (v : Dev) (b : Bank) (ctx : Nat) : Bool :=
  b.phase = .filling && b.ctx = ctx && !b.drop &&
    (match b.owner with
     | some o => (match getDesc v o.1 with
       | some y => bankModeOf y = 1
       | none => false)
     | none => false)

/-- A drain-only part arrives (R86, R87): malformed unless its context holds the bank it names or is still filling it. -/
def enqueueDrain (d : Nat) (v : Dev) : Dev :=
  match getDesc v d with
  | none => v
  | some x =>
    match x.parts[0]? with
    | none => v
    | some q =>
      let g := getEngine v q.unit
      let o := mmOf x.bytes
      let b := getBank g o.bankSel
      if x.cls ≠ 0 || o.bankMode ≠ 2 || q.state ≠ .queued || (findPart g d 0).isSome || !mayStart v x then v
      else if isFenced v (q.unit / 4) then endPart d 0 stFenced 0 fNone v
      else if o.m = 0 ∨ o.n = 0 then endPart d 0 stSuccess 0 fNone v
      else if !((b.phase = .held && b.ctx = x.ctx) || keepFilling v b x.ctx) then endPart d 0 stMalformed 0 fNone v
      else if 1 ≤ queuedOf g true then v
      else
        queueMarks q.unit x.ctx
          (modEngine q.unit (fun g => { g with queue := g.queue ++ [{ d := d, p := 0, drain := true }] }) v)

/-! ### Pass boundaries (R379 to R381) -/

/-- Rank of an engine part (R167, R168, R378): a GATHER stands in the lowest class until it is promoted. -/
def engRank (v : Dev) (x : Desc) : Nat := if x.cls = 3 && !x.promoted then 0 else classRank v x.ctx

/-- The drain-only part waiting for a bank. -/
def drainWaiting (v : Dev) (g : Engine) (b : Nat) : Option EngPart :=
  g.queue.find? (fun q => q.drain && !q.started &&
    (match getDesc v q.d with
     | some y => (mmOf y.bytes).bankSel = b
     | none => false))

/-- The bank that a part needing a new block would take (R86, R87): its named one in keep mode, else a free one, the
other of its last block's where both are free. -/
def bankFor (v : Dev) (g : Engine) (x : Desc) (q : EngPart) : Option Nat :=
  if bankModeOf x = 1 then
    let s := (mmOf x.bytes).bankSel
    let b := getBank g s
    if b.phase = .free || (b.phase = .held && b.ctx = x.ctx && (drainWaiting v g s).isNone) then some s else none
  else
    match decide (g.bank0.phase = .free), decide (g.bank1.phase = .free) with
    | true, true => some (if q.lastBank = some 0 then 1 else 0)
    | true, false => some 0
    | false, true => some 1
    | false, false => none

/-- A drain-only part that can start: its bank is held, its last pass issued (R87, R108). -/
def drainReady (v : Dev) (g : Engine) : Bool :=
  (upto 2).any (fun b => (getBank g b).phase = .held && (drainWaiting v g b).isSome)

/-- Rank of a queue entry's descriptor. -/
def entryRank (v : Dev) (q : EngPart) : Nat :=
  match getDesc v q.d with
  | some x => engRank v x
  | none => 0

/-- A product part in the queue that waits, or runs, for passes to come. -/
def passesLeft (v : Dev) (q : EngPart) : Bool :=
  match getDesc v q.d with
  | some x => !q.drain && decide (q.block < blockCount x q.p)
  | none => false

/-- A part that has not started may start: its descriptor's parts may, no drain-only part can start ahead of it, no earlier
part of its ring in its class or a higher one waits to start (R87, R379; log 100), and before a GATHER no part of a higher
class waits (R167). -/
def mayBegin (v : Dev) (e : Nat) (g : Engine) (x : Desc) (q : EngPart) : Bool :=
  mayStart v x && !drainReady v g && !underTest v 1 e && !testBefore v x 1 e &&
    !(g.queue.any (fun y => !y.started && !y.drain && y.d < q.d && decide (entryRank v q ≤ entryRank v y) &&
      (match getDesc v y.d with
       | some z => sameIssuer x z
       | none => false))) &&
    !(x.cls = 3 && g.queue.any (fun y => passesLeft v y && decide (entryRank v q < entryRank v y)))

/-- A part can run at a boundary (R87, R379). -/
def canRun (v : Dev) (e : Nat) (g : Engine) (q : EngPart) : Bool :=
  match getDesc v q.d with
  | none => false
  | some x => passesLeft v q && (q.started || mayBegin v e g x q) && (q.bank.isSome || (bankFor v g x q).isSome)

/-- The part that takes a boundary: of the highest rank that can run, the one queued earliest. -/
def pickPart (v : Dev) (e : Nat) (g : Engine) : Option EngPart :=
  minBy (fun q => 2 - entryRank v q) (g.queue.filter (canRun v e g))

/-- A part's entry when a block has had its last pass: a keep part ends and its bank stays held, or is released where its
context has given it up (R86, R88); an automatic block's bank awaits its close. -/
def blockIssued (e d p b : Nat) (v : Dev) : Dev :=
  match getDesc v d with
  | none => v
  | some x =>
    let v := modEngPart e d p (fun q =>
      { q with block := q.block + 1, tile := 0, bank := none, lastBank := some b, second := false }) v
    if bankModeOf x = 1 then
      let v := bankSweep (modBank e b (fun k =>
        if k.drop then { order := k.order } else { k with phase := .held }) v)
      endPart d p stSuccess 0 fNone (dropEngPart e d p v)
    else v

/-- A part begins a block in a bank (R86, R101): cleared, and with that free of uncorrectable words (R257), but for a bank held in
keep mode without CLEAR. -/
def takeBank (e b : Nat) (x : Desc) (q : EngPart) (sa sb : W32) (v : Dev) : Dev :=
  let o := mmOf x.bytes
  let keeps (k : Bank) : Bool := bankModeOf x = 1 && !o.clear && k.phase = .held
  let v := if keeps (getBank (getEngine v e) b) then v else bankClean e b v
  let v := modBank e b (fun k =>
    { k with phase := .filling, owner := some (q.d, q.p), ctx := x.ctx, block := q.block, pend := [], drop := false
             cells := if keeps k then k.cells else [] }) v
  modEngPart e q.d q.p (fun y => { y with bank := some b, tile := 0, scaleA := sa, scaleB := sb }) v

/-! ### Passes (R83, R211, R212) -/

/-- A backward pair (R211). -/
def isPair (x : Desc) : Bool := x.cls = 0 && (mmOf x.bytes).op = 1

/-- Steps of a streamed row, and of a stationary load (R78). -/
def rowSteps (cls : Nat) : Nat := if cls = 4 then 4 else if cls = 5 then 6 else 1
def loadSteps (cls : Nat) : Nat := if cls = 4 then 512 else if cls = 5 then 768 else 256

/-- The corner turn of a block's streamed operand is primed before its first row (R84, R89); that of a backward pair once for a
unit (R213). -/
def primeSteps (x : Desc) (q : EngPart) (b : Blk) : Nat :=
  if q.tile = 0 && !q.second && (x.cls = 3 || (mmOf x.bytes).strmT) && (!isPair x || b.col0 = 0) then 256 else 0

/-- Steps for which the array waits for the load of a tile: all of them at a change of part, before the tile's first pass (R85, R380),
and else those by which the passes over a tile, one or the two of a backward pair, take fewer steps than the load (R83, R85, R213).
`fresh` says that the sets have exchanged roles for this pass. -/
def loadWait (x : Desc) (q : EngPart) (st : StatSet) (fresh : Bool) (cls n : Nat) : Nat :=
  if st.full then (if fresh then loadSteps cls else 0)
  else if isPair x && !q.second then 0 else loadSteps cls - (if isPair x then 2 * n else n)

/-- A position that a block uses. -/
def blockUses (side : Nat) (b : Blk) (pos : Nat) : Bool :=
  (upto b.members).any (fun s => (upto b.rows).any (fun i => (upto b.cols).any (fun c => bankKey side s i c = pos)))

/-- The uncorrectable word of a bank that a block's positions meet (R253). -/
def bankUe (v : Dev) (e b side : Nat) (blk : Blk) : Option Nat :=
  let first := bankWord e b 0
  v.ue.find? (fun a => decide (first ≤ a) && decide (a < first + 8 * bankRoom) && blockUses side blk ((a - first) / 8))

/-- A block's positions read: the part fails on an uncorrectable one (R256). -/
def bankCheck (x : Desc) (e b side : Nat) (blk : Blk) : Acc Unit := do
  match bankUe (← get).dev e b side blk with
  | none => pure ()
  | some a => failUe x.ctx a

/-- The second pass of a backward pair over a tile (R211, R212): tile sums of X against the plain slot, added to dW. A sum beyond
the range is written as R71 and R112 have a drain write it, though R213 has the addition as an accumulator's, whose sum R107 lets be
an infinity (DESIGN CHOICE, log 124). -/
def weightPass (x : Desc) (r : Requestor) (j : Job) (b : Blk) (t : Nat) (st : StatSet) : Acc Unit := do
  let o := mmOf x.bytes
  let (n0, nlen) := tileSpan j b t
  let ng := ceilDiv b.cols 32
  let xj : Job := { j with aAt := fun _ f k => (rowAt (slotAddr x r 3) o.ldaux k, (f : Int)) }
  for i in upto b.rows do
    let f := b.row0 + i
    let dst := rowAt (slotAddr x r 4) o.strideC f + BitVec.ofNat 64 (4 * n0)
    let rw := runSpan r dst 32 0 nlen
    let row ← (upto ng).mapM (fun g => rowGroup r xj 0 f b.col0 g b.cols)
    for c in upto nlen do
      let sums := (row.zipIdx).map (fun q =>
        dotGroup j vOne vOne q.1.1 (statGroup j.fmtB st st.plain 0 q.2 c b.cols).1)
      let s := tileTree j.pair 8 sums
      let v := if j.pair then pairVal s else f32 s
      let a := dst + BitVec.ofNat 64 (4 * c)
      let out ← if o.clear && b.col0 = 0 then pure v else do
        let old ← readNat r a 4
        pure (addV (f32 old) v)
      let (code, fl) := fFP32.convert .near (ccIeee o.convStat) out
      addFlags fl
      writeNat rw a 4 code

/-- A pass over a tile: its rows' sums enter the bank, or those of a backward pair's second pass dW (R83, R211). -/
def passBody (e bank : Nat) (x : Desc) (q : EngPart) (st : StatSet) (fresh : Bool) (k : Bank) : Acc (Option (Job × Blk × Bank)) := do
  let r ← engStage x e q.p
  let j := jobOf x r q.p q.block
  match j.blocks[q.block]? with
  | none => pure none
  | some b => do
    let n := b.rows * rowSteps j.cls
    countPass x.ctx (e / 4) n (primeSteps x q b + loadWait x q st fresh j.cls n)
    if q.second then
      weightPass x r j b q.tile st
      pure (some (j, b, k))
    else do
      bankCheck x e bank j.side b
      let k ← streamTile r j b q.tile st (if isPair x then st.transposed else st.plain)
        (f32 q.scaleA.toNat) (f32 q.scaleB.toNat) k
      pure (some (j, b, k))

/-- A pass of a part over the tile in a stationary set, which becomes the active one; `fresh` where it was the shadow one. After it a backward pair's second pass is
due, else the next tile; after the block's last pass the block has been issued. -/
def runPass (e bank : Nat) (x : Desc) (q : EngPart) (st : StatSet) (fresh : Bool) (w : Work) : Work :=
  let done (out : Option (Job × Blk × Bank)) (w : Work) : Work :=
    match out with
    | none => w
    | some (j, b, k) =>
      onDev (fun v =>
        let v := modEngine e (fun g => setBank bank k { g with active := st, shadow := {} }) v
        let v := ctrAdd x.ctx (2 + j.cls) (if q.second then weightMacs j b q.tile else passMacs j b q.tile) v
        if isPair x && !q.second then modEngPart e q.d q.p (fun y => { y with second := true }) v
        else if q.tile + 1 < j.tiles b then modEngPart e q.d q.p (fun y => { y with tile := y.tile + 1, second := false }) v
        else blockIssued e q.d q.p bank v) w
  onPart e q.d q.p (passBody e bank x q st fresh (getBank (getEngine w.dev e) bank)) done w

/-- A stationary set holds the tile that a part's next pass needs. -/
def holdsTile (st : StatSet) (q : EngPart) : Bool :=
  st.loaded && st.d = q.d && st.p = q.p && st.block = q.block && st.tile = q.tile

/-- A bank whose block has had its last pass and that has not closed yet: it closes before the next row enters (R108, R110). -/
def closeDue (g : Engine) (b : Nat) : Bool :=
  let k := getBank g b
  k.phase = .filling && k.owner.any (fun o => (findPart g o.1 o.2).any (fun q => decide (k.block < q.block)))

/-! ### Taking a boundary (R84, R93, R379 to R381) -/

/-- A per-tensor scale, 1 when absent (R79). -/
def tensorScale (r : Requestor) (fmt : Nat) (a : W64) : Acc W32 := do
  if fmtFp8 fmt && a ≠ 0 then return BitVec.ofNat 32 (← readNat r a 4) else pure 0x3F800000

/-- The load of a part's next stationary tile: the tile, and the block's scales, read when the block begins (R79, R84). -/
def loadBody (e : Nat) (x : Desc) (q : EngPart) : Acc (StatSet × W32 × W32) := do
  let r ← engStage x e q.p
  let j := jobOf x r q.p q.block
  match j.blocks[q.block]? with
  | none => pure ({}, 0, 0)
  | some b => do
    let sa ← if q.bank.isSome then pure q.scaleA else tensorScale r j.fmtA j.scaleA
    let sb ← if q.bank.isSome then pure q.scaleB else tensorScale r j.fmtB j.scaleB
    if j.tiles b = 0 then
      addFlags fEmpty
      pure ({}, sa, sb)
    else do
      let st ← loadTile r j b q.tile (isPair x)
      pure ({ st with d := q.d, p := q.p, block := q.block, tile := q.tile }, sa, sb)

/-- A part begun: running from its first boundary, and the one that the engine works for. -/
def begun (e : Nat) (q : EngPart) (v : Dev) : Dev :=
  let v := if q.started then v else modEngPart e q.d q.p (fun y => { y with started := true }) (startPart q.d q.p v)
  modEngine e (fun g => { g with current := some (q.d, q.p), shadow := {} }) v

/-- The core's stream table has no free entry for a part that would start (R240). -/
def mustWait (v : Dev) (q : EngPart) : Option Nat := if q.started then none else stabBlocked v q.d q.p

/-- A part takes the boundary: a backward pair goes on with its second pass over the active tile; else the shadow set of
another part is discarded, a new block takes its bank and its scales are read, and its next stationary tile is loaded, in full where
the part has changed (R380); a block with no tile has had its last pass (R84, R93). -/
def takeBoundary (e : Nat) (x : Desc) (q : EngPart) (w : Work) : Work :=
  let g := getEngine w.dev e
  match mustWait w.dev q, q.bank.or (bankFor w.dev g x q) with
  | some c, _ => onDev (stabWait c (.part q.d q.p)) w
  | none, none => w
  | none, some bank =>
    let w1 := onDev (modEngine e (fun g => { g with current := some (q.d, q.p) })) w
    if q.bank.isSome && q.second && holdsTile g.active q then runPass e bank x q g.active false w1
    else if q.bank.isSome && holdsTile g.shadow q then w1
    else
      let done (out : StatSet × W32 × W32) (w : Work) : Work :=
        onDev (fun v =>
          let v := if q.bank.isSome then v else takeBank e bank x q out.2.1 out.2.2 v
          let v := modEngine e (fun y => { y with shadow := { out.1 with full := g.current ≠ some (q.d, q.p) } }) v
          if out.1.loaded then v else blockIssued e q.d q.p bank v) w
      let after := onPart e q.d q.p (loadBody e x q) done (onDev (begun e q) w)
      match ((loadBody e x q).run { w with dest := [], snooped := [], flags := {} }).1 with
      | .error .wait => w
      | _ => after

/-- PASS_BOUNDARY on an engine. -/
def passBoundary (e : Nat) (w : Work) : Work :=
  match pickPart w.dev e (getEngine w.dev e) with
  | none => w
  | some q =>
    match getDesc w.dev q.d with
    | none => w
    | some x => takeBoundary e x q w

/-- The sets exchange roles and the tile's rows stream through (R83), once the banks whose blocks are complete have closed
(R110): group sums enter the bank, and after the block's last pass the block has been issued. -/
def exchange (e : Nat) (w : Work) : Work :=
  let g := getEngine w.dev e
  let st := g.shadow
  match findPart g st.d st.p, getDesc w.dev st.d with
  | some q, some x =>
    match q.bank with
    | none => w
    | some bank =>
      if g.current ≠ some (st.d, st.p) || !holdsTile st q || closeDue g 0 || closeDue g 1 then w else runPass e bank x q st true w
  | _, _ => w

/-! ### Banks close and drain (R108 to R111) -/

/-- The other bank holds an earlier block of the same part, which closes first. -/
def closesLater (g : Engine) (b : Nat) : Bool :=
  let k := getBank g b
  let o := getBank g (1 - b)
  o.phase = .filling && o.owner = k.owner && decide (o.block < k.block)

/-- A TEST holds back a queue entry that would start on an engine: one under way, or one that stands before it and waits for no
running part (R454). -/
def testBlocks (v : Dev) (g : Engine) (q : EngPart) (e : Nat) : Bool :=
  underTest v 1 e || (!g.queue.any (·.started) && (getDesc v q.d).any (fun x => testBefore v x 1 e))

/-- A bank closes: in automatic mode once its block has had its last pass, and in keep mode for the drain-only part that
waits for it (R108). A product part whose last block has closed leaves the queue. -/
def bankClose (e b : Nat) (v : Dev) : Dev :=
  let g := getEngine v e
  let k := getBank g b
  let close (k : Bank) : Bank := { k with phase := .closed, order := g.closes }
  let count (v : Dev) : Dev := modEngine e (fun g => { g with closes := g.closes + 1 }) v
  match k.phase with
  | .filling =>
    match k.owner with
    | none => v
    | some (d, p) =>
      if !closeDue g b || closesLater g b then v
      else
        let v := count (modBank e b close v)
        if (getDesc v d).any (fun x => decide (blockCount x p ≤ k.block + 1)) then dropEngPart e d p v else v
  | .held =>
    match drainWaiting v g b with
    | none => v
    | some q =>
      match testBlocks v g q e, mustWait v q with
      | true, _ => v
      | _, some c => stabWait c (.part q.d q.p) v
      | _, none =>
        let v := count (modBank e b (fun k => { close k with owner := some (q.d, q.p), block := 0 }) v)
        startPart q.d q.p (dropEngPart e q.d q.p v)
  | _ => v

/-- The tree-empty handshake: the earliest closed bank starts to drain when no other drains (R109, R111). -/
def treeEmpty (e b : Nat) (v : Dev) : Dev :=
  let g := getEngine v e
  let k := getBank g b
  let other := getBank g (1 - b)
  if k.phase = .closed && other.phase ≠ .draining && !(other.phase = .closed && other.order < k.order) then
    modBank e b (fun k => { k with phase := .draining }) v
  else v

/-! ### The drain (R112 to R119) -/

/-- ROWSTAT over FP32 values (R115): m and s. The first NaN gives both its sign (DEDUCED, log 28). -/
def rowstatStep (a : Nat × Nat) (x : Nat) : Nat × Nat :=
  let (m, s) := a
  if isNan32 m then (m, m)
  else if isNan32 x then (noPayload x, noPayload x)
  else if gtV (f32 x) (f32 m) then (x, fadd (fmul s (expDiff m x)) f32One)
  else (m, fadd s (expDiff x m))

/-- SUMSQ over FP32 values (R116). -/
def sumsqStep (q : Nat) (x : Nat) : Nat := toF32 (plusZero (addV (f32 q) (mulV (f32 x) (f32 x))))

/-- The record of a row's statistic over its unmasked values (R115 to R119). -/
def statRecord (o : Mm) (xs : List Nat) : Rec :=
  if o.rowstat then
    let (m, s) := xs.foldl rowstatStep (f32NegInf, 0)
    ⟨m, s, 0, xs.length⟩
  else if o.sumsq then ⟨xs.foldl sumsqStep 0, 0, 0, xs.length⟩
  else welfordRec (xs.map f32)

/-- The exact value at a position of a bank (R112). -/
def bankVal (pair : Bool) (k : Bank) (key : Nat) : Val :=
  let c := (tabGet 0 k.cells key).toNat
  if pair then pairVal c else f32 (c % 2 ^ 32)

/-- The element-wise operand at a logical position (R112); its batch members lie as those of C do (log 99). -/
def auxVal (x : Desc) (r : Requestor) (mem i j : Nat) : Acc Val := do
  let o := mmOf x.bytes
  let (row, col) := if o.outT then (j, i) else (i, j)
  let base := rowAt (rowAt (slotAddr x r 3) o.strideC mem) o.ldaux row
  let c ← readCode r base (fmtBits (ccFmt o.convC)) col
  pure (elemVal (ccFmt o.convC) c)

/-- One drained element: its exact output, and its value for the statistics where it is not masked (R112 to R114). -/
def drainElem (x : Desc) (r : Requestor) (mem i j : Nat) (v : Val) : Acc (Val × Option Nat) := do
  let o := mmOf x.bytes
  if o.elem then
    let a ← auxVal x r mem i j
    let out := if o.elemMul then mulV v a else addV v a
    pure (out, if !o.elemMul && a = .inf true then none else some (toF32 (if o.statOn then out else v)))
  else pure (v, some (toF32 v))

/-- The index of an element for stochastic rounding (R68): of the tensor that the descriptor names as C. With OUT_T = 1 an element
keeps its logical index, so under stochastic rounding a product and its transposed form (R121) draw differently (log 108). -/
def drainIdx (o : Mm) (mem i j : Nat) : Nat := if o.op = 1 then j * o.k + i else (mem * o.m + i) * o.n + j

/-- A row has an element that is not masked in another slice than a block's (R114, R119); not known where the operand cannot be
read. -/
def unmaskedElsewhere (x : Desc) (r : Requestor) (b : Blk) (mem i : Nat) (w : Work) : Bool :=
  (upto (mmOf x.bytes).n).any (fun j =>
    (decide (j < b.col0) || decide (b.col0 + b.cols ≤ j)) &&
      match (auxVal x r mem i j).run w with
      | (.ok a, _) => a ≠ .inf true
      | (.error _, _) => true)

/-- EMPTY of a record over no element (R119). Whether it is set for a row that has unmasked elements in another slice is a free
value: R119 says first that it is set once a record has n = 0, and then that it is not set for such a row (log 115). -/
def flagEmpty (x : Desc) (r : Requestor) (b : Blk) (mem i : Nat) : Acc Unit := do
  let w ← get
  if unmaskedElsewhere x r b mem i w then
    modify (onDev freeNext)
    if (freeVal w.dev).getLsbD 0 then addFlags fEmpty
  else addFlags fEmpty

/-- A member of a block drained: outputs written row by row as stored, then a record for each row (R80, R112 to R119). -/
def drainMember (x : Desc) (r : Requestor) (b : Blk) (s : Nat) (pair : Bool) (side : Nat) (k : Bank) : Acc Unit := do
  let o := mmOf x.bytes
  let mem := b.member + s
  let dr := drawOf (← get) x
  let rows ← (upto b.rows).mapM (fun i => (upto b.cols).mapM (fun j =>
    drainElem x r mem (b.row0 + i) (b.col0 + j) (bankVal pair k (bankKey side s i j))))
  let cell (i j : Nat) : Val × Rnd :=
    (((rows.getD i []).getD j (vZero, none)).1, rndOf o.convC dr (drainIdx o mem (b.row0 + i) (b.col0 + j)))
  let ((r0, nr), (c0, nc)) := storedSpan o b
  let base := rowAt (slotAddr x r 2) o.strideC mem
  for a in upto nr do
    let vals := (upto nc).map (fun c => if o.outT then cell c a else cell a c)
    let t : VDst :=
      { base := rowAt base o.ldc (r0 + a), cc := o.convC, tail := mmTail o
        plane := mmScalePlane o base + BitVec.ofNat 64 ((r0 + a) * ceilDiv (storedLen o) 32 + c0 / 32)
        tensor := none }
    putRun r t (storedLen o) (c0 : Nat) 1 (vals.map (fun c => (some c.1, c.2)))
  if o.stat then
    for (row, i) in rows.zipIdx do
      let rec_ := statRecord o (row.filterMap (·.2))
      if rec_.n = 0 then flagEmpty x r b mem (b.row0 + i)
      writeBytes r (statRecAt x r mem (b.row0 + i) (b.col0 / 256)) (recBytes rec_)

/-- A block of a GATHER drained (R71, R75, R162, R165, R166): FP32 sums written or added to those held. -/
def drainGather (x : Desc) (r : Requestor) (b : Blk) (pair : Bool) (side : Nat) (k : Bank) : Acc Unit := do
  let acc := natBit (fieldOf x 110 1) 6
  let rp := padSize (statReal x.bytes b.member)
  if !(acc && b.k = 0) then
    for i in upto b.rows do
      let row := slotAddr x r 2 + BitVec.ofNat 64 (statOffset x.bytes b.member + 4 * ((b.row0 + i) * rp + b.col0))
      let rw := runSpan r row 32 0 b.cols
      for j in upto b.cols do
        let a := row + BitVec.ofNat 64 (4 * j)
        let v := bankVal pair k (bankKey side 0 i j)
        let out ← if acc then do
            let old ← readNat r a 4
            pure (addV (f32 old) v)
          else pure v
        let (code, fl) := fFP32.convert .near false out
        addFlags fl
        writeNat rw a 4 code

/-- A bank's block written out (R110, R165). A drain-only part reads the bank by its own PAIR, whatever that of the parts that
filled it (log 107). -/
def drainBody (e bank : Nat) (x : Desc) (p : Nat) (k : Bank) : Acc Unit := do
  let r ← engStage x e p
  let j := jobOf x r p k.block
  match j.blocks[k.block]? with
  | none => pure ()
  | some blk =>
    bankCheck x e bank j.side blk
    if x.cls = 3 then drainGather x r blk j.pair j.side k
    else for s in upto blk.members do drainMember x r blk s j.pair j.side k

/-- The last drained row is acknowledged: C, the statistics and the sums are written, the bank is cleared and freed, and a
part whose blocks have all drained succeeds (R110, R165). -/
def drainComplete (e b : Nat) (w : Work) : Work :=
  let k := getBank (getEngine w.dev e) b
  match k.phase, k.owner with
  | .draining, some (d, p) =>
    match getDesc w.dev d with
    | none => w
    | some x =>
      let done (_ : Unit) (w : Work) : Work :=
        onDev (fun v =>
          let v := bankSweep (modBank e b (fun k => { order := k.order }) v)
          let v := modPart d p (fun q => { q with progress := q.progress + 1 }) v
          match getDesc v d with
          | some x => if blockCount x p ≤ (x.parts.getD p {}).progress then endPart d p stSuccess 0 fNone v else v
          | none => v) w
      onPart e d p (drainBody e b x p k) done w
  | _, _ => w

/-! ### Promotion (R168) -/

/-- A WAIT of a context names an epoch, fetched and not complete. -/
def waitNames (v : Dev) (ctx epoch : Nat) : Bool :=
  v.descs.any (fun y => y.cls = 9 && y.ctx = ctx && fieldOf y 16 1 = epoch && y.parts.any (fun p => p.state ≠ .done))

/-- A GATHER's remaining products take the class of its context, behind the parts already waiting there; one that signals no epoch
(SIG_EPOCH = 0xFF, R306) is named by no WAIT. -/
def gatherPromote (d : Nat) (v : Dev) : Dev :=
  match getDesc v d with
  | none => v
  | some x =>
    if x.cls = 3 && onEngine x && !x.promoted &&
        (decide (fieldOf x 64 8 ≤ since v x.time) || (fieldOf x 1 1 ≠ 0xFF && waitNames v x.ctx (fieldOf x 1 1))) then
      let v := modDesc d (fun x => { x with promoted := true }) v
      { v with engines := tabMap {} (fun _ g =>
          { g with queue := g.queue.filter (fun q => q.d ≠ d) ++ g.queue.filter (fun q => q.d = d) }) v.engines }
    else v

/-! ### Meanings -/

/-- MM_PRODUCT (R94). -/
def execMmProduct (d : Nat) (s : State) : Host.Outcome State Fault Refusal :=
  runDev (enqueueAll (fun x => x.cls = 0 && (mmOf x.bytes).op = 0 && bankModeOf x = 0) d) s
/-- MM_BACKWARD_PAIR (R211). -/
def execMmBackwardPair (d : Nat) (s : State) : Host.Outcome State Fault Refusal :=
  runDev (enqueueAll (fun x => x.cls = 0 && (mmOf x.bytes).op = 1) d) s
/-- MM_KEEP (R86). -/
def execMmKeep (d : Nat) (s : State) : Host.Outcome State Fault Refusal :=
  runDev (enqueueAll (fun x => x.cls = 0 && bankModeOf x = 1) d) s
/-- MM_DRAIN_ONLY (R86). -/
def execMmDrainOnly (d : Nat) (s : State) : Host.Outcome State Fault Refusal := runDev (enqueueDrain d) s
/-- STAT_GATHER (R163, R167). -/
def execStatGather (d : Nat) (s : State) : Host.Outcome State Fault Refusal :=
  runDev (enqueueAll (fun x => x.cls = 3 && onEngine x) d) s
/-- PASS_BOUNDARY (R379). -/
def execPassBoundary (e : Fin 128) (s : State) : Host.Outcome State Fault Refusal := runWork (passBoundary e) s
/-- SHADOW_EXCHANGE (R83). -/
def execShadowExchange (e : Fin 128) (s : State) : Host.Outcome State Fault Refusal := runWork (exchange e) s
/-- BANK_CLOSE (R108). -/
def execBankClose (e : Fin 128) (b : Fin 2) (s : State) : Host.Outcome State Fault Refusal := runDev (bankClose e b) s
/-- TREE_EMPTY (R109). -/
def execTreeEmpty (e : Fin 128) (b : Fin 2) (s : State) : Host.Outcome State Fault Refusal := runDev (treeEmpty e b) s
/-- DRAIN_COMPLETE (R110). -/
def execDrainComplete (e : Fin 128) (b : Fin 2) (s : State) : Host.Outcome State Fault Refusal :=
  runWork (drainComplete e b) s
/-- GATHER_PROMOTE (R168). -/
def execGatherPromote (d : Nat) (s : State) : Host.Outcome State Fault Refusal := runDev (gatherPromote d) s

end Sys2Proof.Machine
end

