-- ==== Sys2Proof/Machine/Stat.lean ====
section
/-! DEFINITION. Curvature statistics on the vector engine (R169 to R181): FOLD and NORM, scale records, and the malformed
checks of STAT. -/

namespace Sys2Proof.Machine

open Sys2Proof

/-! ### The STAT descriptor (R176, R181) -/

def statOp (bs : List Byte) : Nat := natBits (leAt bs 110 1) 1 0
def statSide (bs : List Byte) : Bool := natBit (leAt bs 110 1) 2
def statFmt (bs : List Byte) : Nat := leAt bs 111 1 % 32

/-- A STAT descriptor passes every check of R176 and R181 that needs no translation; FOLD and NORM ignore SRC_ADDR. -/
def statOk (bs : List Byte) : Bool :=
  let op := statOp bs
  let ctrl := leAt bs 110 1
  let fmt := statFmt bs
  let beta := f32 (leAt bs 92 4)
  let lam := f32 (leAt bs 96 4)
  let ls := f32 (leAt bs 100 4)
  let notNeg (v : Val) : Bool := v.isFinite && !ltV v (.num true 0 0)
  decide (ctrl < 128) && decide (leAt bs 111 1 < 32) && decide (leAt bs 112 1 < 128) && leAt bs 114 6 = 0 &&
  !fmtReserved fmt && op ≠ 3 && decide (natBits ctrl 5 3 ≤ 4) && leAt bs 80 4 ≠ 0 && leAt bs 80 4 % 4 = 0 &&
  decide (leAt bs 76 4 ≤ leAt bs 72 4) &&
  (op ≠ 0 || ((fmt ≤ 2 || (decide (3 ≤ fmt) && decide (fmt ≤ 8))) && (leAt bs 24 8 = 0 || fmtFp8 fmt))) &&
  (op ≠ 1 || (notNeg beta && (beta.isZero || (!beta.isNeg && ltV beta vOne)))) &&
  (op ≠ 1 || !statSide bs || (ls.isFinite && gtV ls vZero)) &&
  (op ≠ 2 || (lam.isFinite && (lam.isZero || !lam.isNeg))) &&
  (op = 1 || leAt bs 120 8 = 0) &&
  leAt bs 113 1 ≠ 0 && decide (leAt bs 112 1 + leAt bs 113 1 ≤ 128) &&
  (op ≠ 0 || aligned64 (leAt bs 16 8)) && [24, 32, 40, 48, 56, 120].all (fun a => aligned64 (leAt bs a 8))

/-- The first core of an engine range and how many cores it touches (R180). -/
def coreRange (first count : Nat) : Nat × Nat := (first / 4, (first + count - 1) / 4 + 1 - first / 4)

/-- Blocks of part `p` of `n` (R180). -/
def partBlocks (count n p : Nat) : List Nat := (upto count).filter (fun j => j % n = p)

/-! ### Scale records (R178, R179) -/

/-- The identity fields that a descriptor implies for a block: bytes 22 to 30, and SIDE (R178). -/
def statIdent (bs : List Byte) (j : Nat) : List Byte × Bool :=
  let r := statReal bs j
  (leBytes 2 (leAt bs 104 2) ++ leBytes 2 (leAt bs 106 2 + j) ++ leBytes 2 (leAt bs 108 2) ++ leBytes 2 r ++
    leBytes 1 (Nat.log2 (padSize r)), statSide bs)

/-- A record's identity fields, reserved bits left out. -/
def recIdent (rec_ : List Byte) : List Byte × Bool :=
  (leBytes 6 (leAt rec_ 22 6) ++ leBytes 2 (leAt rec_ 28 2 % 2048) ++ leBytes 1 (leAt rec_ 30 1 % 16),
    natBit (leAt rec_ 31 1) 3)

/-- A record that has been folded names another block (R179). -/
def identWrong (rec_ : List Byte) (bs : List Byte) (j : Nat) : Bool :=
  leAt rec_ 16 4 ≠ 0 && recIdent rec_ ≠ statIdent bs j

/-! ### Matrices in memory -/

/-- Numbers of 32 bits from an address up. -/
def readWords (r : Requestor) (a : W64) (n : Nat) : Acc (List Nat) :=
  (upto n).mapM (fun i => readNat r (a + BitVec.ofNat 64 (4 * i)) 4)

/-- Numbers of 32 bits written from an address up, by transfers that cover them whole (R237, R257). -/
def writeWords (r : Requestor) (a : W64) (ws : List Nat) : Acc Unit := do
  let r := runSpan r a 32 0 ws.length
  for (w, i) in ws.zipIdx do writeNat r (a + BitVec.ofNat 64 (4 * i)) 4 w

/-- A part that must end malformed although its other blocks proceeded (R179, R198): their results stand. -/
def endMalformed (bad : Bool) : Acc Unit :=
  if bad then do
    modify (fun w => { w with dest := [] })
    throw (.fail stMalformed 0)
  else pure ()

/-! ### FOLD (R169 to R171) -/

/-- One block folded; answers whether its record names another block. Each fl rounds as IEEE 754 does, to an infinity beyond the
range and to zero below it, and raises no flag (log 113). STEP_LAST is the context's step count as of the descriptor's fetch (DESIGN
CHOICE, log 111: R169 does not say as of when). -/
def foldBlock (x : Desc) (r : Requestor) (j : Nat) (w : Val) : Acc Bool := do
  let bs := x.bytes
  let rp := padSize (statReal bs j)
  let off : W64 := BitVec.ofNat 64 (statOffset bs j)
  let ra := slotAddr x r 5 + BitVec.ofNat 64 (32 * j)
  let rec_ ← readBytes r ra 32
  if identWrong rec_ bs j then pure true
  else do
    let sums ← readWords r (slotAddr x r 2 + off) (rp * rp)
    if sums.any (fun c => !isFin32 c) then
      addFlags fInvalid
      let n := leAt rec_ 20 2
      writeNat r (ra + 20) 2 (if n = 65535 then n else n + 1)
      pure false
    else do
      let folds := leAt rec_ 16 4
      let fa := slotAddr x r 3 + off
      let beta := f32 (leAt bs 92 4)
      let rest := f32 (toF32 (subV vOne beta))
      let hats := sums.map (fun s => toF32 (mulV (f32 s) w))
      let out ← if folds = 0 then pure hats else do
        let old ← readWords r fa (rp * rp)
        pure ((old.zip hats).map (fun c => toF32 (addV (mulV beta (f32 c.1)) (mulV rest (f32 c.2)))))
      writeWords r fa out
      let (ident, side) := statIdent bs j
      writeBytes r (ra + 12) (leBytes 4 x.step.toNat ++ leBytes 4 (if folds = 2 ^ 32 - 1 then folds else folds + 1))
      writeBytes r (ra + 22) (ident ++ leBytes 1 (1 + 8 * b2n side))
      pure false

/-- The steps that a FOLD or NORM part of some blocks takes while its accesses are granted (R180). -/
def statSteps (bs : List Byte) (js : List Nat) : Nat :=
  let sizes := js.map (fun j => padSize (statReal bs j))
  let elements := (sizes.map (fun r => r * r)).sum
  if statOp bs = 1 then 32 + ceilDiv elements 128 + 24
  else 32 + ceilDiv sizes.sum 128 + 2 * ceilDiv elements 64 + 24

/-- The weight of a step sum: 1 / (m_total × σ²), rounded once (R169). -/
def foldWeight (bs : List Byte) : Val :=
  let ls := if statSide bs then f32 (leAt bs 100 4) else vOne
  f32 (toF32 (divV vOne (mulV (vInt (leAt bs 88 4 : Nat)) (mulV ls ls))))

/-- A FOLD part. One of a skipped step leaves every record as it is (R171); so does one with ROWS_TOTAL = 0, which does not check
their records either (log 112). Neither works on its blocks; what it waits is a free number of steps (R180, log 88). -/
def foldBody (x : Desc) (q : Part) (p : Nat) : Acc Unit := do
  countSteps x.ctx 8
  let bs := x.bytes
  let r ← reqOf x { ctx := x.ctx, core := some q.unit } [3]
  let js := partBlocks (statCount bs) x.parts.length p
  let verdict := leAt bs 120 8
  let skip ← if verdict = 0 then pure false else do
    let c ← readNat r (BitVec.ofNat 64 verdict) 4
    modify (onDev (noteVerdict x.ctx (!(f32 c).isZero)))
    pure (!(f32 c).isZero)
  let none_ := leAt bs 88 4 = 0
  if none_ then addFlags fEmpty
  if !skip && !none_ then do
    countOwn x.ctx 8 (statSteps bs js)
    for j in js do
      let rp := padSize (statReal bs j)
      markDest r (slotAddr x r 3 + BitVec.ofNat 64 (statOffset bs j)) (4 * rp * rp)
      markDest r (slotAddr x r 5 + BitVec.ofNat 64 (32 * j)) 32
    let bad ← js.mapM (fun j => foldBlock x r j (foldWeight bs))
    endMalformed (bad.any id)

/-! ### NORM (R173 to R175) -/

/-- A positive value rounded toward +inf to FP32; nothing beyond the range. -/
def roundUp32 (v : Val) : Option Nat :=
  let (c, fl) := fFP32.convert .zero false v
  if fl.overflowSat then none
  else if ltV (f32 c) v then (if c = fFP32.maxCode then none else some (c + 1)) else some c

/-- The normalised block of R173: the elements, c and δ; nothing where R175 applies. Its roundings raise no flag (log 113). -/
def normBlock (r rp : Nat) (lam : Val) (t : Nat) (f : List Nat) : Option (List Nat × Nat × Nat) :=
  let tv := f32 t
  if !tv.isFinite || !gtV tv vZero then none
  else
    let delta := toF32 (divV (mulV lam tv) (vInt (r : Nat)))
    if !isFin32 delta then none
    else
      let dv := f32 delta
      -- the padding diagonal is top / r
      let top := addV tv (mulV (vInt (r : Nat)) dv)
      match roundUp32 (divV (mulV (mulV (vInt (rp : Nat)) top) (addV vOne (vDy 1 (-16)))) (vInt (r : Nat))) with
      | none => none
      | some c =>
        let cell (i k : Nat) : Nat :=
          if i < r && k < r then
            let e := f32 (f.getD (i * rp + k) 0)
            toF32 (divV (if i = k then addV e dv else e) (f32 c))
          else if i = k then toF32 (divV top (mulV (vInt (r : Nat)) (f32 c)))
          else 0
        some ((upto rp).flatMap (fun i => (upto rp).map (cell i)), c, delta)

/-- The identity of size n in FP32. -/
def identity32 (n : Nat) : List Nat := (upto n).flatMap (fun i => (upto n).map (fun k => if i = k then f32One else 0))

/-- One block normalised; answers whether its record names another block. -/
def normOne (x : Desc) (r : Requestor) (j : Nat) : Acc Bool := do
  let bs := x.bytes
  let n := statReal bs j
  let rp := padSize n
  let off : W64 := BitVec.ofNat 64 (statOffset bs j)
  let ra := slotAddr x r 5 + BitVec.ofNat 64 (32 * j)
  let rec_ ← readBytes r ra 32
  if identWrong rec_ bs j then pure true
  else do
    let f ← readWords r (slotAddr x r 3 + off) (rp * rp)
    let t := toF32 (pairVal ((upto n).foldl (fun acc i => pairAdd acc (mkPair (f.getD (i * rp + i) 0) 0)) 0))
    let out := if leAt rec_ 16 4 = 0 then none else normBlock n rp (f32 (leAt bs 96 4)) t f
    match out with
    | some (es, c, delta) => do
      writeWords r (slotAddr x r 4 + off) es
      writeBytes r ra (leBytes 4 c ++ leBytes 4 delta ++ leBytes 4 t)
      writeNat r (ra + 31) 1 (leAt rec_ 31 1 / 8 * 8 + 2)
    | none => do
      addFlags { fallback := true }
      writeWords r (slotAddr x r 4 + off) (identity32 rp)
      writeBytes r ra (leBytes 4 f32One ++ leBytes 4 0 ++ leBytes 4 t)
      writeNat r (ra + 31) 1 (leAt rec_ 31 1 / 8 * 8 + 3)
    pure false

/-- A NORM part. -/
def normBody (x : Desc) (q : Part) (p : Nat) : Acc Unit := do
  countSteps x.ctx 8
  let bs := x.bytes
  let r ← reqOf x { ctx := x.ctx, core := some q.unit } [4]
  let js := partBlocks (statCount bs) x.parts.length p
  countOwn x.ctx 8 (statSteps bs js)
  for j in js do
    let rp := padSize (statReal bs j)
    markDest r (slotAddr x r 4 + BitVec.ofNat 64 (statOffset bs j)) (4 * rp * rp)
    markDest r (slotAddr x r 5 + BitVec.ofNat 64 (32 * j)) 32
  let bad ← js.mapM (normOne x r)
  endMalformed (bad.any id)

/-- A FOLD or NORM part run where it is its turn. -/
def statRun (op d p : Nat) (w : Work) : Work :=
  match ready w.dev d p 3 with
  | some (x, q) =>
    if statOp x.bytes = op then runPart d p (if op = 1 then foldBody x q p else normBody x q p) w else w
  | none => w

/-- FOLD (R169). -/
def execFold (d p : Nat) (s : State) : Host.Outcome State Fault Refusal := runWork (statRun 1 d p) s
/-- NORM (R173). -/
def execNorm (d p : Nat) (s : State) : Host.Outcome State Fault Refusal := runWork (statRun 2 d p) s

end Sys2Proof.Machine
end

