-- ==== Sys2Proof/Machine/Roots.lean ====
section
/-! DEFINITION. Inverse roots (R182 to R203): the Newton iteration on the engines with warm starts, the solver lanes in
fixed point, the restart sequence, root records, and APPLY. -/

namespace Sys2Proof.Machine

open Sys2Proof

/-! ### The ROOT and SOLVE descriptors (R201, R203) -/

structure Rt where
  op : Nat
  pLog2 : Nat
  warm : Bool
  engine64 : Bool
  split : Bool
  gT : Bool
  n : Nat
  n2 : Nat
  eps : Nat
  reg : Nat
  tau : Nat
  layer : Nat
  first : Nat
  epoch : Nat
  firstR : Nat
  cap : Nat
  bL : Nat
  bR : Nat
  side : Bool
  engFirst : Nat
  engCount : Nat
  cluFirst : Nat
  cluCount : Nat
  ldg : Nat
  workStride : Nat
  deriving DecidableEq, Repr

def rtOf (bs : List Byte) : Rt :=
  let c := leAt bs 100 1
  let b := leAt bs 102 1
  { op := natBits c 1 0, pLog2 := natBits c 3 2, warm := natBit c 4, engine64 := natBit c 5, split := natBit c 6
    gT := natBit c 7, n := leAt bs 72 4, n2 := leAt bs 76 4, eps := leAt bs 80 4, reg := leAt bs 84 4
    tau := leAt bs 88 4, layer := leAt bs 92 2, first := leAt bs 94 2, epoch := leAt bs 96 2, firstR := leAt bs 98 2
    cap := leAt bs 101 1 % 32, bL := 64 * 2 ^ natBits b 2 0, bR := 64 * 2 ^ natBits b 6 4, side := natBit b 3
    engFirst := leAt bs 103 1 % 128, engCount := leAt bs 104 1, cluFirst := leAt bs 105 1 % 32
    cluCount := leAt bs 106 1 % 64, ldg := leAt bs 108 4, workStride := leAt bs 112 4 }

/-- A positive finite FP32 code. -/
def posFin (c : Nat) : Bool := (f32 c).isFinite && gtV (f32 c) vZero

/-- A ROOT or SOLVE descriptor passes every check of R201 and R203 that needs no translation. -/
def rootOk (solve : Bool) (bs : List Byte) : Bool :=
  let o := rtOf bs
  let apply : Bool := o.op = 1
  let (_, cores) := coreRange o.engFirst o.engCount
  decide (leAt bs 101 1 < 32) && decide (leAt bs 102 1 < 128) && decide (leAt bs 103 1 < 128) &&
  decide (leAt bs 105 1 < 32) && decide (leAt bs 106 1 < 64) && leAt bs 107 1 = 0 && leAt bs 116 12 = 0 &&
  decide (o.op ≤ 1) && !(solve && apply) &&
  (apply || (o.n2 = 0 && o.firstR = 0 && natBits (leAt bs 102 1) 6 4 = 0)) &&
  decide (natBits (leAt bs 102 1) 2 0 ≤ 4) && (!apply || decide (natBits (leAt bs 102 1) 6 4 ≤ 4)) &&
  o.cap ≠ 0 && posFin o.eps && posFin o.reg && decide (0 < signed32 o.tau) &&
  o.n ≠ 0 && o.n % 4 = 0 && (!apply || (o.n2 ≠ 0 && o.n2 % 4 = 0)) &&
  (if solve then o.cluCount ≠ 0 && decide (o.cluFirst + o.cluCount ≤ 32)
   else o.engCount ≠ 0 && decide (o.engFirst + o.engCount ≤ 128)) &&
  [16, 24, 32, 40, 48, 56].all (fun a => aligned64 (leAt bs a 8)) && (solve || aligned64 (leAt bs 64 8)) &&
  (!apply || (leAt bs 64 8 ≠ 0 && decide (4 * o.bL * o.n2 ≤ o.workStride) && (leAt bs 16 8 ≠ leAt bs 24 8 || cores = 1)))

/-- Blocks of a width, their real and padded sizes and offsets (R161, R162, R177). -/
def blkCount (n b : Nat) : Nat := ceilDiv n b
def blkReal (n b j : Nat) : Nat := Nat.min b (n - j * b)
def blkOffset (b j : Nat) : Nat := 4 * j * (b * b)

/-- A block takes the engine path (R184). -/
def engPath (o : Rt) (rp : Nat) : Bool := decide (128 ≤ rp) || (rp = 64 && o.engine64)

/-! ### Powers and roots (R183, R190) -/

/-- The positive (m1 × 2^e1 / (m2 × 2^e2))^(1/p), to a precision that rounds as the exact root does. -/
def rootRatio (p m1 m2 : Nat) (e : Int) : Val :=
  if m1 = 0 ∨ m2 = 0 then .nan false
  else
    let s := (e % (p : Int)).toNat
    let k := 320 + Nat.log2 m2
    let num := m1 * 2 ^ (s + p * k)
    let r := iroot p (num / m2)
    .num false (2 * r + (if r ^ p * m2 = num then 0 else 1)) ((e - (s : Int)) / (p : Int) - (k : Int) - 1)

/-- c^(−1/p), rounded once (R183): an infinity beyond the range of FP32, which raises no flag (DEDUCED, log 53). -/
def rootScale (p c : Nat) : Nat :=
  match f32 c with
  | .num false m e => toF32 (rootRatio p 1 m (-e))
  | _ => f32Nan

/-- κ of R190: an infinity beyond the range of FP32, which raises no flag (DEDUCED, log 53). -/
def warmKappa (p c prev : Nat) : Nat :=
  match f32 c, f32 prev with
  | .num false m e, .num false m' e' => toF32 (rootRatio p m m' (e - e'))
  | _, _ => f32Nan

/-! ### FP32 matrices on the engines (R186) -/

/-- A square matrix, row by row. -/
abbrev Mat := List (List Nat)

def matRows (n : Nat) (l : List Nat) : Mat := (upto n).map (fun i => (l.drop (n * i)).take n)
def matMap (f : Nat → Nat → Nat → Nat) (a : Mat) : Mat := (a.zipIdx).map (fun r => (r.1.zipIdx).map (fun c => f r.2 c.2 c.1))
def matIdent (n : Nat) : Mat := matRows n (identity32 n)
def transposed (n : Nat) (a : Mat) : Mat := (upto n).map (fun i => a.map (fun r => r.getD i 0))

/-- A dot product in XF2 or XF3 with PAIR = 1 (R186, R200): throughput order with K tiles of 1,024, or canonical. -/
def dotPair (cls : Nat) (thr : Bool) (a b : List Nat) : Val :=
  let k := a.length
  let sums := (upto (ceilDiv k 32)).map (fun g =>
    let pick (l : List Nat) : List Val := ((l.drop (32 * g)).take 32).map f32
    groupSum true vOne vOne (((pick a).zip (pick b)).flatMap (fun c => pairProducts cls c.1 c.2)))
  if thr then
    pairVal ((upto (ceilDiv sums.length 32)).foldl (fun acc t => pairAdd acc (tileTree true 32 ((sums.drop (32 * t)).take 32))) 0)
  else pairVal (sums.foldl pairAdd 0)

/-- A product stored as FP32 to nearest even. -/
def matMul (cls : Nat) (thr : Bool) (a b : Mat) : Mat :=
  let cols := transposed (b.headD []).length b
  a.map (fun r => cols.map (fun c => toF32 (dotPair cls thr r c)))

/-- The largest magnitude of M − I as an FP32 code; a NaN where any element is not finite. -/
def residual (m : Mat) : Nat :=
  let diffs := (m.zipIdx).flatMap (fun r => (r.1.zipIdx).map (fun c =>
    toF32 (subV (f32 c.1) (if r.2 = c.2 then vOne else vZero)).abs))
  if diffs.any (fun c => !isFin32 c) || m.any (fun r => r.any (fun c => !isFin32 c)) then f32Nan
  else diffs.foldl Nat.max 0

/-- (X + Xᵀ) / 2, each element rounded once (R188). -/
def symmetrised (n : Nat) (x : Mat) : Mat :=
  let t := transposed n x
  matMap (fun i j c => toF32 (mulV (plusZero (addV (f32 c) (f32 ((t.getD i []).getD j 0)))) (vDy 1 (-1)))) x

/-- How an attempt ended: its result, residual, iterations and state; no result is a divergence (R187). -/
structure Attempt (α : Type) where
  x : Option α
  rho : Option Nat
  iters : Nat
  state : Nat
  shift : Nat := 0

/-- Powers by squaring. -/
def matPow (mul : Mat → Mat → Mat) : Nat → Mat → Mat
  | 0, a => a
  | k + 1, a => matPow mul k (mul a a)

/-- FP32 order of non-negative codes. -/
def lt32 (a b : Nat) : Bool := ltV (f32 a) (f32 b)

/-- The Newton iteration of R185 with the stop rule of R187, from X_k, M_k and the iterate before. Its roundings raise no flag (log
53). -/
def newton (o : Rt) (mul : Mat → Mat → Mat) (n' : Mat) : Nat → Nat → Mat → Mat → Option (Mat × Nat) → Attempt Mat
  | 0, k, _, _, _ => ⟨none, none, k, 0, 0⟩
  | fuel + 1, k, x, m, prev =>
    let p := 2 ^ o.pLog2
    let rho := if x.any (fun r => r.any (fun c => !isFin32 c)) then f32Nan else residual m
    let bad := isNan32 rho
    if !bad && lt32 rho o.eps then ⟨some x, some rho, k, 1, 0⟩
    else if !bad && k = o.cap && lt32 rho f32One then ⟨some x, some rho, k, 2, 0⟩
    else
      let floor : Option (Mat × Nat) := prev.filter (fun q => !bad && !lt32 rho q.2 && ltV (f32 q.2) (vDy 1 (-14)))
      match floor with
      | some (xp, rp) => ⟨some xp, some rp, k, 2, 0⟩
      | none =>
        if bad || (1 ≤ k && !lt32 rho f32One) then ⟨none, if bad then none else some rho, k, 0, 0⟩
        else
          let t := matMap (fun i j c =>
            toF32 (mulV (plusZero (subV (if i = j then vInt ((p : Int) + 1) else vZero) (f32 c))) (vDy 1 (-(o.pLog2 : Int))))) m
          let x' := mul x t
          newton o mul n' fuel (k + 1) x' (mul (matPow mul o.pLog2 x') n') (some (x, rho))

/-- N′ = N + λ_reg I, one rounding per element (R185). -/
def regularised (lam : Nat) (n : Mat) : Mat := matMap (fun i j c => if i = j then toF32 (plusZero (addV (f32 c) (f32 lam))) else c) n

/-- λ_reg of a restart on the engines (R197). -/
def engLambda (o : Rt) (i : Nat) : Nat := if i = 0 then 0 else fmul o.reg (toF32 (vInt ((10 : Int) ^ (i - 1))))

/-- A cold attempt on the engines (R185). -/
def coldEngine (o : Rt) (rp : Nat) (mul : Mat → Mat → Mat) (n : Mat) (lam : Nat) : Attempt Mat :=
  let n' := regularised lam n
  newton o mul n' (o.cap + 2) 0 (matIdent rp) n' none

/-- The first restart that succeeds, or the last one (R197). -/
def restarts {α : Type} (try_ : Nat → Attempt α) : Nat → Nat → Nat × Attempt α
  | 0, i => (i, try_ i)
  | fuel + 1, i =>
    let a := try_ i
    if a.x.isSome then (i, a) else restarts try_ fuel (i + 1)

/-! ### Root records (R199) -/

/-- A root record's fields. -/
structure RootRec where
  scale : Nat
  c : Nat
  delta : Nat
  reg : Nat
  residual : Nat
  iters : Nat
  restarts : Nat
  state : Nat
  warm : Nat
  lanes : Bool
  shift : Nat

/-- The record of a block (R199). -/
def rootRecBytes (o : Rt) (step j r rp : Nat) (k : RootRec) : List Byte :=
  leBytes 4 k.scale ++ leBytes 4 k.c ++ leBytes 4 k.delta ++ leBytes 4 k.reg ++ leBytes 4 k.residual ++ leBytes 4 step ++
  leBytes 2 o.layer ++ leBytes 2 (o.first + j) ++ leBytes 2 o.epoch ++ leBytes 2 r ++
  leBytes 1 (Nat.log2 rp + 16 * o.pLog2 + 64 * b2n o.side) ++ leBytes 1 (k.iters % 32 + 32 * k.restarts) ++
  leBytes 1 (k.state + 8 * k.warm + 32 * b2n k.lanes) ++ leBytes 1 (k.shift % 32) ++ List.replicate 12 0

/-- Identity fields of a scale record that a ROOT or SOLVE descriptor implies (R179, R198). -/
def rootIdent (o : Rt) (j r rp : Nat) : List Byte × Bool :=
  (leBytes 2 o.layer ++ leBytes 2 (o.first + j) ++ leBytes 2 o.epoch ++ leBytes 2 r ++ leBytes 1 (Nat.log2 rp), o.side)

/-- A result of one block: its elements in FP32, its record and its flags. -/
structure RootOut where
  els : List Nat
  rec_ : RootRec
  flags : Flags

/-! ### The engine path (R185 to R190) -/

/-- A previous record passes every check of R189 but its usability. -/
def warmMatches (o : Rt) (j r rp : Nat) (delta : Nat) (prev : List Byte) : Bool :=
  let dv := f32 delta
  let pe := addV (f32 (leAt prev 8 4)) (mulV (f32 (leAt prev 4 4)) (f32 (leAt prev 12 4)))
  let half (a b : Val) : Bool := !ltV a (mulV b (vDy 1 (-1)))
  leAt prev 24 2 = o.layer && natBit (leAt prev 32 1) 6 = o.side && leAt prev 26 2 = (o.first + j) % 65536 &&
  leAt prev 30 2 % 2048 = r && leAt prev 32 1 % 16 = Nat.log2 rp && leAt prev 28 2 = o.epoch &&
  natBits (leAt prev 32 1) 5 4 = o.pLog2 && !natBit (leAt prev 34 1) 5 &&
  ((dv.isZero && !dv.isNeg && pe.isZero) ||
    (dv.isFinite && pe.isFinite && gtV pe vZero && half dv pe && half pe dv))

/-- A previous record from which a block may start warm: usable, and passing every check (R189). -/
def warmUsable (o : Rt) (j r rp delta : Nat) (prev : List Byte) : Bool :=
  let st := leAt prev 34 1 % 8
  (st = 1 || st = 2) && warmMatches o j r rp delta prev

/-- The start of an engine-path block: WARM, and the warm X₀ and M₀ where they are kept (R189, R190). -/
def warmStart (o : Rt) (mul : Mat → Mat → Mat) (n : Mat) (j r rp c delta : Nat) (prev : List Byte) (xPrev : Mat) :
    Nat × Option (Mat × Mat) × Flags :=
  let st := leAt prev 34 1 % 8
  if st ≠ 1 ∧ st ≠ 2 then (0, none, fNone)
  else if !warmMatches o j r rp delta prev then (2, none, { warmReject := true })
  else
    let kappa := f32 (warmKappa (2 ^ o.pLog2) c (leAt prev 4 4))
    let x0 := matMap (fun _ _ v => toF32 (mulV kappa (f32 v))) xPrev
    let m0 := mul (matPow mul o.pLog2 x0) n
    let r0 := residual m0
    let rc := residual n
    if !isNan32 r0 && lt32 r0 f32One && (isNan32 rc || lt32 r0 rc) then (1, some (x0, m0), fNone) else (3, none, fNone)

/-- The products of the engine path: split class XF3, in throughput order from padded size 256 (R184, R185). -/
def engineMul (rp : Nat) : Mat → Mat → Mat := matMul 5 (decide (256 ≤ rp))

/-- The start of a block on the engines with what it has of its previous root (R189, R190). -/
def engineStart (o : Rt) (j r rp c delta : Nat) (n : Mat) (prev : Option (List Byte × Mat)) :
    Nat × Option (Mat × Mat) × Flags :=
  match prev with
  | some (pr, xp) => warmStart o (engineMul rp) n j r rp c delta pr xp
  | none => (0, none, fNone)

/-- Attempt i of a block on the engines: the first one warm where a warm start is kept (R190, R197). -/
def engineTry (o : Rt) (rp : Nat) (n : Mat) (start : Option (Mat × Mat)) (i : Nat) : Attempt Mat :=
  match i, start with
  | 0, some (x0, m0) => newton o (engineMul rp) n (o.cap + 2) 0 x0 m0 none
  | _, _ => coldEngine o rp (engineMul rp) n (engLambda o i)

/-- One block on the engines, from its normalised elements and its previous root. -/
def engineBlock (o : Rt) (j r rp c delta : Nat) (n : Mat) (prev : Option (List Byte × Mat)) : RootOut :=
  let (warm, start, wf) := engineStart o j r rp c delta n prev
  let (i, a) := restarts (engineTry o rp n start) 3 0
  let scale := rootScale (2 ^ o.pLog2) c
  let base : RootRec := ⟨scale, c, delta, engLambda o i, 0, a.iters, i, a.state, warm, false, 0⟩
  let wf := if i = 0 then wf else Flags.join wf { pivotReg := true }
  match a.x with
  | some x => ⟨(symmetrised rp x).flatMap id, { base with residual := a.rho.getD 0 }, wf⟩
  | none => ⟨identity32 rp, { base with residual := a.rho.getD f32PosInf, iters := 0, state := 3 },
      Flags.join wf { fallback := true }⟩

/-- Element-pair products of a block on the engines: one product of r' by r' matrices for M₀ of a warm start and each of its
squarings, and log₂ p + 2 of them for every iteration of every attempt (R185, R190, R204, R461). -/
def engineMacs (o : Rt) (j r rp c delta : Nat) (n : Mat) (prev : Option (List Byte × Mat)) : Nat :=
  let (warm, start, _) := engineStart o j r rp c delta n prev
  let last := (restarts (engineTry o rp n start) 3 0).1
  let iters := ((upto (last + 1)).map (fun i => (engineTry o rp n start i).iters)).sum
  rp * rp * rp * ((o.pLog2 + 2) * iters + (if warm = 1 ∨ warm = 3 then o.pLog2 + 1 else 0))

/-- Steps of a product of `rows` rows by `k` by `cols` on the engines in the full configuration: each row enters once for every
stationary tile (R78, R84). -/
def productSteps (cls rows k cols : Nat) : Nat := rowSteps cls * rows * ceilDiv k 256 * ceilDiv cols 256

/-- Steps for which the engines wait for stationary loads in such a product (R83, R85): its output blocks, of up to 512 rows and 256
columns, are dealt to the engines in turn (R94). An engine's first tile waits for the whole of its load, and every other where its
rows pass sooner than it loads. -/
def productWaits (cls engines rows k cols : Nat) : Nat :=
  let blocks := (upto (ceilDiv rows 512)).flatMap (fun i => List.replicate (ceilDiv cols 256) (Nat.min 512 (rows - 512 * i)))
  ((blocks.zipIdx).map (fun c =>
    let first := b2n (decide (c.2 < engines))
    first * loadSteps cls + (ceilDiv k 256 - first) * (loadSteps cls - rowSteps cls * c.1))).sum

/-- The engines of a core in a descriptor's range. -/
def coreEngines (o : Rt) (core : Nat) : Nat :=
  ((upto 4).filter (fun i => decide (o.engFirst ≤ 4 * core + i) && decide (4 * core + i < o.engFirst + o.engCount))).length

/-- Steps of the products of a block, alone on its engine (R78, R184). -/
def engineSteps (rp macs : Nat) : Nat := macs / (rp * rp * rp) * productSteps 5 rp rp rp

/-- Sub-arrays of the configuration in which a block runs on the engines (R82, R184). -/
def subArrays (rp : Nat) : Nat := if rp = 64 then 16 else if rp = 128 then 4 else 1

/-! ### The solver lanes (R191 to R197) -/

/-- One in Q3.28. -/
def q28 : Int := 2 ^ 28

/-- A value rounded to Q3.28 to nearest even; nothing where it saturates (R191, R196). -/
def toQ (num : Int) (den : Nat) : Option Int :=
  let q := num / (den : Int)
  let r := 2 * (num % (den : Int))
  let v := if (den : Int) < r ∨ (r = (den : Int) ∧ q % 2 = 1) then q + 1 else q
  if -(2 ^ 31) ≤ v ∧ v < 2 ^ 31 then some v else none

/-- The divider (R191): Q7.56 by Q3.28; a zero divisor saturates. -/
def qDiv (a b : Int) : Option Int := if b = 0 then none else if b < 0 then toQ (-a) b.natAbs else toQ a b.natAbs

/-- The square root of a non-negative Q7.56 value (R191). -/
def qSqrt (d : Int) : Option Int :=
  let s := isqrt d.toNat
  let s' := if s < d.toNat - s * s then s + 1 else s
  if s' < 2 ^ 31 then some (s' : Int) else none

/-- A matrix of Q3.28 values. -/
abbrev QMat := List (List Int)

def qAt (m : QMat) (i j : Nat) : Int := (m.getD i []).getD j 0
def qMake (n : Nat) (f : Nat → Nat → Option Int) : Option QMat :=
  (upto n).mapM (fun i => (upto n).mapM (fun j => f i j))
/-- A lane's sum of products, exact (R191; log 97 for one beyond the range of Q7.56). -/
def qDot (n : Nat) (f g : Nat → Int) : Int := (upto n).foldl (fun s k => s + f k * g k) 0
def qMul (n : Nat) (a b : QMat) : Option QMat := qMake n (fun i j => toQ (qDot n (qAt a i) (fun k => qAt b k j)) (2 ^ 28))
def qScaled (n : Nat) (v : Int) : QMat := (upto n).map (fun i => (upto n).map (fun j => if i = j then v else 0))

/-- The Cholesky factor of N′ column by column (R192); nothing at a flagged pivot or a saturation (R195, R196). -/
def cholesky (n : Nat) (tau : Int) (a : QMat) : Option QMat :=
  let column (l : QMat) (j : Nat) : Option QMat := do
    let d := qAt a j j * q28 - qDot j (qAt l j) (qAt l j)
    let piv ← if d ≤ tau * q28 then none else qSqrt d
    (upto n).mapM (fun i =>
      if i < j then some (l.getD i [])
      else if i = j then some ((l.getD i []) ++ [piv])
      else do
        let v ← qDiv (qAt a i j * q28 - qDot j (qAt l i) (qAt l j)) piv
        pure ((l.getD i []) ++ [v]))
  (upto n).foldlM column ((upto n).map (fun _ => []))

/-- The root for p = 1: Ỹ = 2^(−e/2) ℒ⁻¹ and X̃ = ỸᵀỸ (R192). -/
def laneInverse (n e : Nat) (l : QMat) : Option QMat := do
  let h ← toQ q28 (2 ^ (e / 2))
  let row (y : QMat) (i : Nat) : Option QMat := do
    let r ← (upto n).mapM (fun c =>
      qDiv ((if i = c then h * q28 else 0) - qDot i (qAt l i) (fun k => qAt y k c)) (qAt l i i))
    pure (y ++ [r])
  let y ← (upto n).foldlM row []
  qMul n ((upto n).map (fun i => y.map (fun r => r.getD i 0))) y

/-- Powers by squaring. -/
def qPow (n : Nat) : Nat → QMat → Option QMat
  | 0, a => some a
  | k + 1, a => do qPow n k (← qMul n a a)

/-- The coupled iteration of R192 under the stop rules of R187, ρ in Q3.28 as a raw value. -/
def laneNewton (o : Rt) (n : Nat) : Nat → Nat → QMat → QMat → Option (QMat × Nat) → Attempt QMat
  | 0, k, _, _, _ => ⟨none, none, k, 0, 0⟩
  | fuel + 1, k, x, m, prev =>
    let p : Nat := 2 ^ o.pLog2
    let rho := (upto n).foldl (fun s i => (upto n).foldl (fun s j =>
      Nat.max s (qAt m i j - (if i = j then q28 else 0)).natAbs) s) 0
    if ltV (vDy rho (-28)) (f32 o.eps) then ⟨some x, some rho, k, 1, 0⟩
    else if k = o.cap ∧ rho < 2 ^ 28 then ⟨some x, some rho, k, 2, 0⟩
    else
      let floor : Option (QMat × Nat) := prev.filter (fun q => decide (q.2 ≤ rho) && decide (q.2 < 2 ^ 14))
      match floor with
      | some (xp, rp) => ⟨some xp, some rp, k, 2, 0⟩
      | none =>
        if 1 ≤ k ∧ 2 ^ 28 ≤ rho then ⟨none, some rho, k, 0, 0⟩
        else
          let next : Option (QMat × QMat) := do
            let t ← qMake n (fun i j => toQ ((if i = j then ((p : Int) + 1) * q28 else 0) - qAt m i j) p)
            let x' ← qMul n x t
            let m' ← qMul n (← qPow n o.pLog2 t) m
            pure (x', m')
          match next with
          | none => ⟨none, some rho, k, 0, 0⟩
          | some (x', m') => laneNewton o n fuel (k + 1) x' m' (some (x, rho))

/-- 2^(p(e+2)) × μ_lo ≥ 1 (R193), for δ / c + λ_reg or τ. -/
def shiftOk (p e : Nat) (c delta : Val) (lam : Int) (tau : Nat) : Bool :=
  let scale := vDy 1 (p * (e + 2) : Nat)
  !ltV (mulV scale (addV delta (mulV c (vDy lam (-28))))) c || decide (2 ^ 28 ≤ 2 ^ (p * (e + 2)) * tau)

/-- The smallest admissible shift from `e` up (R193). -/
def laneShift (p : Nat) (c delta : Val) (lam : Int) (tau : Nat) : Nat → Nat → Nat
  | 0, e => e
  | fuel + 1, e =>
    if shiftOk p e c delta lam tau && (p ≠ 1 || e % 2 = 0) then e else laneShift p c delta lam tau fuel (e + 1)

/-- λ_reg of a restart on the lanes (R197). -/
def laneLambda (o : Rt) (i : Nat) : Int :=
  if i = 0 then 0 else signed32 (fixConvert 32 28 .near (f32 o.reg)).1 * 10 ^ (i - 1)

/-- The flags that LAMBDA_REG raises where it enters Q3.28 for a restart (R75, R197). -/
def lambdaFlags (o : Rt) (i : Nat) : Flags := if i = 0 then fNone else (fixConvert 32 28 .near (f32 o.reg)).2

/-- LAMBDA_REG saturates where it enters Q3.28, which ends each restart (R196). -/
def lambdaSaturates (o : Rt) (i : Nat) : Bool := (lambdaFlags o i).overflowSat

/-- REG of a lane's record (R199). -/
def laneReg (o : Rt) (i : Nat) : Nat :=
  if lambdaSaturates o i then (Config.regBeyond o.reg).toNat else toF32 (vDy (laneLambda o i) (-28))

/-- An attempt on a lane; nothing comes of one whose block or regularisation saturates where it enters Q3.28 (R196). -/
def laneAttempt (o : Rt) (rp c delta : Nat) (n : Option QMat) (i : Nat) : Attempt QMat :=
  let p := 2 ^ o.pLog2
  let lam := laneLambda o i
  let e := laneShift p (f32 c) (f32 delta) lam o.tau 64 0
  let n' : Option QMat := (n.filter (fun _ => !lambdaSaturates o i)).bind (fun n =>
    qMake rp (fun a b => toQ (qAt n a b + (if a = b then lam else 0)) 1))
  match n' with
  | none => ⟨none, none, 0, 0, e⟩
  | some n' =>
    match cholesky rp (signed32 o.tau) n' with
    | none => ⟨none, none, 0, 0, e⟩
    | some l =>
      if p = 1 then ⟨laneInverse rp e l, none, 0, 1, e⟩
      else
        match toQ q28 (2 ^ e) with
        | none => ⟨none, none, 0, 0, e⟩
        | some x0 => { laneNewton o rp (o.cap + 2) 0 (qScaled rp x0) n' none with shift := e }

/-- A lane's result as it leaves (R192): X = 2^e X̃ in FP32, one rounding, then symmetrised; with the flags of the rounding. -/
def laneExit (rp e : Nat) (x : QMat) : List Nat × Flags :=
  let out := x.map (fun row => row.map (fun q => fFP32.convert .near false (vDy q ((e : Int) - 28))))
  ((symmetrised rp (out.map (fun row => row.map (·.1)))).flatten, (out.flatten).foldl (fun f q => Flags.join f q.2) fNone)

/-- RESIDUAL of a lane's record (R199); +0 for p = 1 also where the block falls back (DESIGN CHOICE, log 117: R199 gives it +inf too).
-/
def laneResidual (p : Nat) (a : Attempt QMat) : Nat :=
  match a.rho with
  | some v => toF32 (vDy v (-28))
  | none => if p = 1 then 0 else f32PosInf

/-- One block on a lane (R192, R196, R197). A NaN that enters is the greatest Q3.28 value, with INVALID, and does not end the
attempt (DESIGN CHOICE, log 118). -/
def laneBlock (o : Rt) (rp c delta : Nat) (els : List Nat) : RootOut :=
  let conv := els.map (fun v => fixConvert 32 28 .near (f32 v))
  let entry := conv.foldl (fun f q => Flags.join f q.2) fNone
  let n : QMat := (upto rp).map (fun i => (upto rp).map (fun j => signed32 (conv.getD (rp * i + j) (0, fNone)).1))
  let (i, a) := restarts (laneAttempt o rp c delta (if entry.overflowSat then none else some n)) 3 0
  let p := 2 ^ o.pLog2
  let f := if i = 0 then entry else Flags.join (Flags.join entry (lambdaFlags o i)) { pivotReg := true }
  let base : RootRec := ⟨rootScale p c, c, delta, laneReg o i, laneResidual p a, a.iters, i, a.state, 0, true, a.shift⟩
  match a.x with
  | some x =>
    let (out, g) := laneExit rp a.shift x
    ⟨out, base, Flags.join f g⟩
  | none => ⟨identity32 rp, { base with iters := 0, state := 3 }, Flags.join f { fallback := true }⟩

/-! ### Parts of ROOT and SOLVE (R198, R199, R202) -/

/-- Workspace bytes left with free contents: what the engine path leaves there is not specified. They are written whole (R257). -/
def scrub (r : Requestor) (a : W64) (n : Nat) : Acc Unit := do
  let r := { r with spans := r.spans ++ [(a.toNat, a.toNat + n)] }
  for i in upto n do
    let w ← get
    writeNat r (a + BitVec.ofNat 64 i) 1 ((freeVal w.dev).toNat % 256)
    modify (onDev freeNext)

/-- A block's scale record gives ROOT and SOLVE a root to write: normalised, or an identity block (R198). -/
def rootWrites (srec : List Byte) : Bool :=
  let st := leAt srec 31 1 % 8
  let delta := leAt srec 4 4
  st = 3 || (st = 2 && posFin (leAt srec 0 4) && isFin32 delta && (!(f32 delta).isNeg || (f32 delta).isZero))

/-- A block of a ROOT part has products on the engines. -/
def rootOnEngines (x : Desc) (r : Requestor) (j : Nat) (w : Work) : Bool :=
  let o := rtOf x.bytes
  engPath o (padSize (blkReal o.n o.bL j)) &&
    match (readBytes r (slotAddr x r 1 + BitVec.ofNat 64 (32 * j)) 32).run w with
    | (.ok srec, _) => rootWrites srec && leAt srec 31 1 % 8 ≠ 3
    | (.error _, _) => false

/-- Blocks of a part whose products may share a pass with those of a block: as many as run in its configuration, up to its sub-arrays
(R82, R184, R204). -/
def engineShare (x : Desc) (r : Requestor) (js : List Nat) (rp : Nat) (w : Work) : Nat :=
  let o := rtOf x.bytes
  Nat.min (subArrays rp) (Nat.max 1 (js.filter (fun j => padSize (blkReal o.n o.bL j) = rp && rootOnEngines x r j w)).length)

/-- One block of a ROOT or SOLVE part, whose blocks are `js`; answers whether it makes the part malformed. Its records are read before
R203's tests, and the part's other blocks are run whichever block R203 refuses (DEDUCED, log 56). `slot` is the workspace slot of its
core, where it has one of the size it needs. -/
def rootBlock (x : Desc) (r : Requestor) (solve : Bool) (slot : Option W64) (js : List Nat) (j : Nat) : Acc Bool := do
  let o := rtOf x.bytes
  let n := blkReal o.n o.bL j
  let rp := padSize n
  let off : W64 := BitVec.ofNat 64 (blkOffset o.bL j)
  let onEng := !solve && engPath o rp
  let srec ← readBytes r (slotAddr x r 1 + BitVec.ofNat 64 (32 * j)) 32
  let st := leAt srec 31 1 % 8
  let c := leAt srec 0 4
  let delta := leAt srec 4 4
  let put (out : RootOut) : Acc Unit := do
    addFlags out.flags
    let ra := slotAddr x r 2 + off
    let rr := slotAddr x r 3 + BitVec.ofNat 64 (48 * j)
    writeWords r ra out.els
    writeBytes r rr (rootRecBytes o x.step.toNat j n rp out.rec_)
  if (solve && 128 ≤ rp) || (onEng && slot.isNone) then pure true
  else if leAt srec 16 4 ≠ 0 && recIdent srec ≠ rootIdent o j n rp then pure true
  else if st = 3 then do
    put ⟨identity32 rp, ⟨f32One, c, delta, 0, 0, 0, 0, 4, 0, !onEng, 0⟩, { fallback := true }⟩
    pure false
  else if !rootWrites srec then pure false
  else do
    let els ← readWords r (slotAddr x r 0 + off) (rp * rp)
    match (if onEng then slot else none) with
    | some sa => do
      let prev ← if o.warm && leAt x.bytes 48 8 ≠ 0 then do
          let pr ← readBytes r (slotAddr x r 5 + BitVec.ofNat 64 (48 * j)) 48
          let px ← if warmUsable o j n rp delta pr then readWords r (slotAddr x r 4 + off) (rp * rp) else pure []
          pure (some (pr, matRows rp px))
        else pure none
      scrub r sa (24 * rp * rp)
      let macs := engineMacs o j n rp c delta (matRows rp els) prev
      let share := engineShare x r js rp (← get)
      countShared x.ctx (r.core.getD 0) (engineSteps rp macs) share
      countMacs x.ctx 5 macs
      put (engineBlock o j n rp c delta (matRows rp els) prev)
      pure false
    | none => do
      put (laneBlock o rp c delta els)
      pure false

/-- Blocks of a SOLVE part: those of its cluster's lanes (R202). -/
def solveBlocks (o : Rt) (p : Nat) : List Nat :=
  (upto (blkCount o.n o.bL)).filter (fun j => (j % 16) * o.cluCount / 16 = p)

/-- Bytes of the workspace slot that a part of a ROOT needs: none where none of its blocks runs on the engines (R202). -/
def rootSlotBytes (o : Rt) (js : List Nat) : Nat :=
  (js.map (fun j => padSize (blkReal o.n o.bL j))).foldl (fun m rp => if engPath o rp then Nat.max m (24 * rp * rp) else m) 0

/-- A ROOT or SOLVE part. -/
def rootBody (solve : Bool) (x : Desc) (q : Part) (p : Nat) : Acc Unit := do
  if solve then countSteps x.ctx 10
  let o := rtOf x.bytes
  let r ← reqOf x { ctx := x.ctx, core := some q.unit } [2]
  let js := if solve then solveBlocks o p else partBlocks (blkCount o.n o.bL) x.parts.length p
  let work := fieldOf x 64 8
  let slot : Option W64 :=
    if work = 0 ∨ o.workStride < rootSlotBytes o js then none else some (BitVec.ofNat 64 (work + p * o.workStride))
  for j in js do
    let rp := padSize (blkReal o.n o.bL j)
    markDest r (slotAddr x r 2 + BitVec.ofNat 64 (blkOffset o.bL j)) (4 * rp * rp)
    markDest r (slotAddr x r 3 + BitVec.ofNat 64 (48 * j)) 48
  let bad ← js.mapM (rootBlock x r solve slot js)
  endMalformed (bad.any id)

/-! ### APPLY (R200) -/

/-- A root record agrees with an APPLY descriptor for a block of a side; one of a reserved STATE, 5 to 7, does so and is used as an
ordinary root (DESIGN CHOICE, log 54: R200 fails NONE alone). -/
def applyRecOk (o : Rt) (first j r rp : Nat) (rec_ : List Byte) : Bool :=
  leAt rec_ 24 2 = o.layer && leAt rec_ 28 2 = o.epoch && natBits (leAt rec_ 32 1) 5 4 = o.pLog2 &&
  leAt rec_ 26 2 = (first + j) % 65536 && leAt rec_ 30 2 % 2048 = r && leAt rec_ 32 1 % 16 = Nat.log2 rp &&
  leAt rec_ 34 1 % 8 ≠ 0

/-- A root as APPLY uses it: its scale, and its real part unless it is an identity root. -/
def applyRoot (r : Requestor) (root rec_ : W64) (o : Rt) (n b first j : Nat) : Acc (Nat × Option Mat) := do
  let re := blkReal n b j
  let rp := padSize re
  let k ← readBytes r (rec_ + BitVec.ofNat 64 (48 * j)) 48
  if !applyRecOk o first j re rp k then throw (.fail stMalformed 0)
  let st := leAt k 34 1 % 8
  if st = 3 || st = 4 then pure (leAt k 0 4, none)
  else do
    let els ← readWords r (root + BitVec.ofNat 64 (blkOffset b j)) (rp * rp)
    pure (leAt k 0 4, some ((matRows rp els).take re |>.map (fun row => row.take re)))

/-- The address of element (i, j) of G or OUT. -/
def gradAt (o : Rt) (base : W64) (i j : Nat) : W64 :=
  if o.gT then base + BitVec.ofNat 64 (j * o.ldg + 4 * i) else base + BitVec.ofNat 64 (i * o.ldg + 4 * j)

/-- One L block of an APPLY part. The product sl × sr is rounded as IEEE 754 does and raises no flag (DEDUCED, log 53). -/
def applyBlock (x : Desc) (r : Requestor) (slot : W64) (rights : List (Nat × Option Mat)) (i : Nat)
    (left : Nat × Option Mat) : Acc Unit := do
  let o := rtOf x.bytes
  let cls := if o.split then 5 else 4
  let re := blkReal o.n o.bL i
  let i0 := i * o.bL
  let g ← (upto re).mapM (fun a => (upto o.n2).mapM (fun c => readNat r (gradAt o (slotAddr x r 0) (i0 + a) c) 4))
  let h := match left.2 with
    | some xl => matMul cls true xl g
    | none => g
  let hSteps := if left.2.isSome then productSteps cls re re o.n2 else 0
  let vSteps := (rights.zipIdx).map (fun (right, j) =>
    let cj := blkReal o.n2 o.bR j
    if right.2.isSome then productSteps cls re cj cj else 0)
  let engines := coreEngines o (r.core.getD 0)
  let hWaits := if left.2.isSome then productWaits cls engines re re o.n2 else 0
  let vWaits := (rights.zipIdx).map (fun (right, j) =>
    let cj := blkReal o.n2 o.bR j
    if right.2.isSome then productWaits cls engines re cj cj else 0)
  countPass x.ctx (r.core.getD 0) (hSteps + vSteps.sum) (hWaits + vWaits.sum)
  if left.2.isSome then countMacs x.ctx cls (re * o.n2 * (32 * ceilDiv re 32))
  scrub r slot (4 * o.bL * o.n2)
  for (right, j) in rights.zipIdx do
    let cj := blkReal o.n2 o.bR j
    let hj := h.map (fun row => (row.drop (j * o.bR)).take cj)
    let v := match right.2 with
      | some xr => matMul cls true hj xr
      | none => hj
    if right.2.isSome then countMacs x.ctx cls (re * cj * (32 * ceilDiv cj 32))
    let s := f32 (fmul left.1 right.1)
    let rw := (upto (if o.gT then cj else re)).foldl (fun rw k =>
      if o.gT then runSpan rw (gradAt o (slotAddr x r 1) i0 (j * o.bR + k)) 32 0 re
      else runSpan rw (gradAt o (slotAddr x r 1) (i0 + k) (j * o.bR)) 32 0 cj) r
    for (row, a) in v.zipIdx do
      for (e, c) in row.zipIdx do
        let (code, fl) := fFP32.convert .near false (mulV (f32 e) s)
        addFlags fl
        writeNat rw (gradAt o (slotAddr x r 1) (i0 + a) (j * o.bR + c)) 4 code

/-- An APPLY part. One with no L block does nothing. -/
def applyBody (x : Desc) (q : Part) (p : Nat) : Acc Unit := do
  let o := rtOf x.bytes
  let js := partBlocks (blkCount o.n o.bL) x.parts.length p
  if js.isEmpty then return
  let r ← reqOf x { ctx := x.ctx, core := some q.unit } [1]
  for i in js do
    for a in upto (blkReal o.n o.bL i) do
      for c in upto o.n2 do markDest r (gradAt o (slotAddr x r 1) (i * o.bL + a) c) 4
  let lefts ← js.mapM (fun i => applyRoot r (slotAddr x r 2) (slotAddr x r 3) o o.n o.bL o.first i)
  let rights ← (upto (blkCount o.n2 o.bR)).mapM (fun j =>
    applyRoot r (slotAddr x r 4) (slotAddr x r 5) o o.n2 o.bR o.firstR j)
  for (i, left) in js.zip lefts do
    applyBlock x r (BitVec.ofNat 64 (fieldOf x 64 8 + p * o.workStride)) rights i left

/-- A ROOT or APPLY part uses an engine: one of its core's within its range, unless all its blocks run on lanes (R184, R200,
R202). -/
def usesEngine (x : Desc) (q : Part) (p e : Nat) : Bool :=
  let o := rtOf x.bytes
  x.cls = 4 && e / 4 = q.unit && decide (o.engFirst ≤ e) && decide (e < o.engFirst + o.engCount) &&
    (o.op = 1 || (partBlocks (blkCount o.n o.bL) x.parts.length p).any (fun j => engPath o (padSize (blkReal o.n o.bL j))))

/-- A TEST of an engine that a ROOT or APPLY part uses is under way, or stands before the part (R454). -/
def enginesHeld (v : Dev) (x : Desc) (q : Part) (p : Nat) : Bool :=
  (upto 4).any (fun i =>
    let e := 4 * q.unit + i
    usesEngine x q p e && (underTest v 1 e || testBefore v x 1 e))

/-- A ROOT, APPLY or SOLVE part run where it is its turn. -/
def rootRun (cls op d p : Nat) (w : Work) : Work :=
  match ready w.dev d p cls with
  | some (x, q) =>
    if enginesHeld w.dev x q p then w
    else if (rtOf x.bytes).op = op then runPart d p (if op = 1 then applyBody x q p else rootBody (cls = 5) x q p) w else w
  | none => w

/-- ROOT (R184). -/
def execRoot (d p : Nat) (s : State) : Host.Outcome State Fault Refusal := runWork (rootRun 4 0 d p) s
/-- APPLY (R200). -/
def execApply (d p : Nat) (s : State) : Host.Outcome State Fault Refusal := runWork (rootRun 4 1 d p) s
/-- SOLVE (R192). -/
def execSolve (d p : Nat) (s : State) : Host.Outcome State Fault Refusal := runWork (rootRun 5 0 d p) s

end Sys2Proof.Machine
end

