-- ==== Sys2Proof/Machine/Judge.lean ====
section
/-! DEFINITION. CHECK and TEST descriptors: fingerprints, the pointing check and the loss comparison (R429 to R436), and
self-tests (R453 to R457). -/

namespace Sys2Proof.Machine

open Sys2Proof

/-! ### The CHECK descriptor (R429) -/

def checkOp (bs : List Byte) : Nat := leAt bs 62 1 % 4

/-- Checks of R9 and R429 that need no translation. -/
def checkOk (bs : List Byte) : Bool :=
  let op := checkOp bs
  let elems := leAt bs 48 4
  decide (leAt bs 62 1 < 3) && leAt bs 63 1 = 0 && [16, 24, 32, 40].all (fun a => leAt bs a 8 % 64 = 0) &&
  (op = 0 || leAt bs 40 8 = 0) && (op ≠ 0 || leAt bs 3 1 % 8 = 1) &&
  (op ≠ 1 || (leAt bs 24 8 = 0 && decide (1 ≤ elems) && decide (elems ≤ 256) && decide (1 ≤ leAt bs 58 2) &&
    decide (leAt bs 58 2 ≤ 1024) && decide (leAt bs 60 2 < leAt bs 58 2))) &&
  (op ≠ 2 || elems = 0)

/-- Chunks of a FINGERPRINT (R430). -/
def printChunks (bs : List Byte) : Nat := ceilDiv (leAt bs 48 4) 4096

/-- The cores of a CHECK descriptor's parts (R429). -/
def checkCores (bs : List Byte) : List Nat :=
  if checkOp bs = 0 then upto (Nat.max 1 (Nat.min 32 (printChunks bs))) else [0]

/-! ### FINGERPRINT (R430, R431) -/

/-- The fingerprint of one chunk. -/
def chunkPrint (x : Desc) (r : Requestor) (cols ldw c : Nat) (key : List Byte) : Acc W64 := do
  let o := fieldOf x 48 4
  let n := Nat.min 4096 (o - 4096 * c)
  let heads ← (upto n).mapM (fun i =>
    let k := 4096 * c + i
    readBytes r (slotAddr x r 0 + BitVec.ofNat 64 (k / cols * ldw + 2 * (k % cols))) 2)
  let tails ← readBytes r (slotAddr x r 1 + BitVec.ofNat 64 (2 * 4096 * c)) (2 * n)
  pure (sipHash24 key (leBytes 4 (fieldOf x 56 2) ++ leBytes 4 x.step.toNat ++ leBytes 8 c ++ heads.flatten ++ tails))

/-- A trailer (R431). -/
def trailerBytes (fp : W64) (step layer : Nat) (side : BitVec 1) : List Byte :=
  leBytes 8 fp.toNat ++ leBytes 4 step ++ leBytes 2 layer ++ leBytes 1 (1 + 2 * side.toNat) ++ [0]

/-- A FINGERPRINT part: the XOR of its chunks; the last part to end writes the trailer. -/
def printBody (x : Desc) (q : Part) (p : Nat) : Acc Unit := do
  let r ← reqOf x { ctx := x.ctx, core := some q.unit } []
  let key ← readBytes r (BitVec.ofNat 64 (fieldOf x 40 8)) 16
  let cols ← readNat { r with ver := none } (BitVec.ofNat 64 (fieldOf x 16 8) + 8) 4
  let ldw ← readNat { r with ver := none } (BitVec.ofNat 64 (fieldOf x 16 8) + 12) 4
  let mine := (upto (printChunks x.bytes)).filter (fun c => c % 32 = p)
  let fps ← mine.mapM (fun c => chunkPrint x r cols ldw c key)
  let own := fps.foldl (fun a b => a ^^^ b) 0
  modify (onDev (modPart x.id p (fun q => { q with progress := own.toNat })))
  let others := (x.parts.zipIdx).filter (fun c => c.2 ≠ p)
  if others.all (fun c => (c.1.state = .ended || c.1.state = .done) && c.1.status = 0) then
    let fp := others.foldl (fun a c => a ^^^ BitVec.ofNat 64 c.1.progress) own
    let out : W64 := slotAddr x r 2
    markDest r out 16
    writeBytes r out (trailerBytes fp x.step.toNat (fieldOf x 56 2) (← get).dev.power.straps.side)
  else pure ()

/-! ### POINT (R432, R433) -/

/-- An outcome record. -/
def outcomeBytes (outcome : Nat) (unchecked : Bool) (odd first source layer step : Nat) : List Byte :=
  leBytes 1 (outcome + 4 * b2n unchecked) ++ [0] ++ leBytes 2 odd ++ leBytes 2 first ++ leBytes 2 source ++ leBytes 2 layer ++
    [0, 0] ++ leBytes 4 step

/-- The value that more than half of a column's members hold. -/
def majorityOf (fps : List Nat) : Option Nat := fps.find? (fun a => decide (fps.length < 2 * (fps.filter (fun b => b = a)).length))

/-- The decision of POINT over fingerprints by layer, then member: the outcome, the odd members, SOURCE, and the first
layer that differs. -/
def pointDecide (own : Nat) (layers : List (List Nat)) : Nat × List Nat × Option Nat × Option Nat :=
  let n := (layers.headD []).length
  let majors := layers.map majorityOf
  let same (l : List Nat) : Bool := l.all (fun a => a = l.headD 0)
  let agrees (k : Nat) : Bool := (layers.zip majors).all (fun c => c.2 = some (c.1.getD k 0))
  let source := (upto n).find? agrees
  let differs := layers.findIdx? (fun l => !same l)
  if layers.all same then (0, [], source, none)
  else if 3 ≤ n && majors.all (·.isSome) then
    let odd := (upto n).filter (fun k => !agrees k)
    (if odd.contains own then 2 else 1, odd, source, differs)
  else (3, [], none, differs)

/-- What POINT finds: its outcome and its record, or malformed. A layer that differs in none, and the step of unchecked
trailers that hold different ones, are not stated: they are free. -/
def pointFind (x : Desc) (ts : List (List Byte)) : Acc (Nat × List Byte) := do
  let elems := fieldOf x 48 4
  let n := fieldOf x 58 2
  let layer := fieldOf x 56 2
  let prev := (x.step - 1).toNat
  let valid (t : List Byte) : Bool := natBit (leAt t 14 1) 0
  let bad := (ts.zipIdx).any (fun c =>
    leAt c.1 12 2 ≠ (layer + c.2 % elems) % 65536 || leAt c.1 8 4 ≠ prev)
  let free := freeVal (← get).dev
  if ts.all (fun t => !valid t) then
    modify (onDev freeNext)
    let step := leAt (ts.headD []) 8 4
    let step := if ts.all (fun t => leAt t 8 4 = step) then step else natBits free.toNat 47 16
    pure (0, outcomeBytes 0 true 0 0xFFFF 0xFFFF (natBits free.toNat 15 0) step)
  else if ts.any (fun t => !valid t) || bad then throw (.fail stMalformed 0)
  else
    let cols := (upto elems).map (fun e => (upto n).map (fun k => leAt (ts.getD (k * elems + e) []) 0 8))
    let (out, odd, source, differs) := pointDecide (fieldOf x 60 2) cols
    let at_ ← match differs with
      | some e => pure ((layer + e) % 65536)
      | none => do
        modify (onDev freeNext)
        pure (natBits free.toNat 15 0)
    pure (out, outcomeBytes out false odd.length (odd.headD 0xFFFF) (source.getD 0xFFFF) at_ prev)

/-- The groups that a POINT may speak of: its context's enabled ones with its members and this rank (R429, R436). -/
def pointGroups (v : Dev) (x : Desc) : List (Nat × Group) :=
  v.groups.filter (fun c => c.2.enable && c.2.ctx.toNat = x.ctx && c.2.record.entries.length = fieldOf x 58 2 &&
    c.2.record.ownRank = fieldOf x 60 2)

/-- Bytes 32 and 33 of POINTING: kind and number of the group, where only one is in question; else a free kind and a free
number (R436, log 68). -/
def pointGroup (v : Dev) (x : Desc) : List Byte :=
  let g := freeVal v
  match pointGroups v x with
  | [c] => leBytes 1 (b2n c.2.kind) ++ leBytes 1 c.1
  | _ => leBytes 1 (b2n (g.getLsbD 0)) ++ leBytes 1 (natBits g.toNat 15 8)

/-- An outcome other than AGREE: POINTING, no signal, and the failure path. -/
def pointFailed (x : Desc) (record : List Byte) (v : Dev) : Dev :=
  let v := raise 0x0012 x.ctx (record ++ pointGroup v x) (freeNext v)
  failCtxBy x stSuccess (modDesc x.id (fun y => { y with noSignal := true }) v)

/-- POINT. -/
def pointBody (x : Desc) : Acc Unit := do
  let r ← reqOf x { ctx := x.ctx, core := some 0 } [2]
  let ts ← (upto (fieldOf x 58 2 * fieldOf x 48 4)).mapM (fun i => readBytes r (slotAddr x r 0 + BitVec.ofNat 64 (16 * i)) 16)
  let (out, record) ← pointFind x ts
  markDest r (slotAddr x r 2) 16
  writeBytes r (slotAddr x r 2) record
  if out ≠ 0 then modify (onDev (pointFailed x record)) else pure ()

/-! ### LOSSCMP (R435) -/

/-- 0 MATCH, 1 WITHIN_TOL, 2 MISMATCH. -/
def lossDecide (measured reference tol : Nat) : Nat :=
  if measured = reference then 0
  else
    let m := f32 measured
    let r := f32 reference
    let d := (subV m r).abs
    let lim := mulV (f32 tol) r.abs
    if !d.isNan && !lim.isNan && ((d.isZero && lim.isZero) || !ltV lim d) then 1 else 2

/-- LOSSCMP. -/
def lossBody (x : Desc) : Acc Unit := do
  let r ← reqOf x { ctx := x.ctx, core := some 0 } [2]
  let m ← readNat r (slotAddr x r 0) 4
  let tail := fieldOf x 24 8
  let ref_ ← if tail = 0 then pure 0 else readNat r (slotAddr x r 1) 4
  let out := if tail = 0 then 3 else lossDecide m ref_ (fieldOf x 52 4)
  let record := outcomeBytes out false 0 0xFFFF 0xFFFF 0 x.step.toNat
  markDest r (slotAddr x r 2) 16
  writeBytes r (slotAddr x r 2) record
  modify (onDev (raise 0x0014 x.ctx (record ++ leBytes 4 m ++ leBytes 4 ref_)))
  if out = 2 then modify (onDev (failCtxBy x stSuccess)) else pure ()

/-- A CHECK part whose turn it is, no TEST of its cluster holding it back (R454); a part on a fenced core does not run (R25). -/
def checkRun (op d p : Nat) (w : Work) : Work :=
  match startable w.dev d p 0xC with
  | none => w
  | some (x, q) =>
    if checkOp x.bytes ≠ op || underTest w.dev 3 q.unit || testBefore w.dev x 3 q.unit then w
    else if isFenced w.dev q.unit then onDev (endPart d p stFenced 0 {}) w
    else runPart d p (if op = 0 then printBody x q p else if op = 1 then pointBody x else lossBody x) w

/-! ### TEST (R453 to R457) -/

/-- Units of a test kind (R455). -/
def testUnits (k : Nat) : Nat :=
  if k = 1 then 128 else if k = 2 then 2048 else if k = 3 then 32 else if k = 4 then 640 else if k = 5 then 24
  else if k = 6 ∨ k = 0x0F then 1 else 0

/-- Checks of R453 and R455. -/
def testOk (bs : List Byte) : Bool :=
  decide (leAt bs 17 1 < 2) && leAt bs 20 4 = 0 && (bs.drop 32).all (fun b => b = 0) && leAt bs 24 8 % 64 = 0 &&
  decide (testUnit bs < testUnits (testKind bs))

/-- A descriptor whose parts run on tidy clusters: on their vector engines, chisel cores or lanes, or a CHECK's (R429, R454). -/
def onCluster (y : Desc) : Bool := unitKind y ≠ 0 || y.cls = 0xC

/-- No part runs on the unit (R454): on a port, none of a collective (R352). A test of a bank, a channel or the sensors holds the unit
itself. -/
def testIdle (v : Dev) (k u : Nat) : Bool :=
  let running (f : Desc → Part → Bool) : Bool := v.descs.any (fun y => y.parts.any (fun p => p.state = .running && f y p))
  !underTest v k u &&
  (if k = 1 then !running (fun y p => onEngine y && p.unit = u)
   else if k = 3 then !running (fun y p => onCluster y && p.unit = u)
   else if k = 5 then !running (fun y p => y.cls = 6 && p.unit = u)
   else true)

/-- Nothing that could start on the unit stands before a TEST in its queue (R454). -/
def testTurn (v : Dev) (x : Desc) (k u : Nat) : Bool :=
  let before (y : Desc) : Bool := y.id ≠ x.id && mayStart v y && queuedBefore v k y x
  if k = 1 then
    let g := getEngine v u
    !(g.queue.any (fun q => canRun v u g q && (getDesc v q.d).any before)) &&
      !(v.descs.any (fun y => before y && (y.parts.zipIdx).any (fun c => c.1.state = .queued && usesEngine y c.1 c.2 u)))
  else
    let uses (y : Desc) : Bool := (k = 3 && onCluster y) || (k = 5 && y.cls = 6)
    !(v.descs.any (fun y => uses y && before y && y.parts.any (fun q => q.unit = u && q.state = .queued))) &&
    !(v.descs.any (fun y => y.cls = 0xD && testKind y.bytes = k && testUnit y.bytes = u && before y &&
      y.parts.any (fun q => q.state = .queued)))

/-- The result record (R457): RESULT 0 PASS, 1 FAIL, 2 ENDED. -/
def testRecord (v : Dev) (bs : List Byte) (result detail : Nat) : List Byte :=
  leBytes 8 (now v).toNat ++ leBytes 1 (testKind bs) ++ leBytes 1 result ++ leBytes 2 (testUnit bs) ++
    leBytes 4 (if result = 1 then detail else 0)

/-- A failed unit is fenced, or its stack declared faulty, where the descriptor asks for it (R457). -/
def testFence (bs : List Byte) (fail : Bool) (v : Dev) : Dev :=
  if fail && natBit (leAt bs 17 1) 0 then
    match testCore (testKind bs) (testUnit bs) with
    | some c => fenceCore c v
    | none => if testKind bs = 4 then stackFaulty (testUnit bs / 32) v else v
  else v

/-- The record of a test written where its descriptor says, and its event raised (R457). -/
def testReport (x : Desc) (result detail : Nat) : Acc Unit := do
  let r ← reqOf x (edge x.ctx) []
  let rec_ := testRecord (← get).dev x.bytes result detail
  let a := slotAddr x r 1
  markDest r a 16
  writeBytes r a rec_
  modify (onDev (raise 0x0015 x.ctx rec_))

/-- A granule of the channel that a DRAM_CHANNEL test reads is uncorrectable (R254, R455). -/
def channelBad (v : Dev) (u : Nat) : Bool := v.ue.any (fun a => decide (a < cstoreBase) && stackOf a * 32 + channelOf a = u)

/-- Whether a test's unit fails: as the unit is found to be, and a DRAM channel also where its codes show it (R455). -/
def testFails (x : Desc) (fail : Bool) (v : Dev) : Bool :=
  fail || (testKind x.bytes = 4 && channelBad v (testUnit x.bytes))

/-- A test that may begin: queued, its unit idle and its turn come (R454). -/
def testReady (v : Dev) (kind d : Nat) : Bool :=
  match startable v d 0 0xD with
  | none => false
  | some (x, _) => testKind x.bytes = kind && testIdle v kind (testUnit x.bytes) && testTurn v x kind (testUnit x.bytes)

/-- A test begins; its unit is held from then on (R454). -/
def testBegin (kind d : Nat) (go : Work → Work) (w : Work) : Work :=
  if testReady w.dev kind d then beginPart d 0 go w else w

/-- A running test ends (R457): what it did besides, its record and event, its status, and the fence it asks for. `w` stands on
a wait. -/
def testEnd (d : Nat) (fail : Bool) (detail : W32) (effect : Dev → Dev) (w w1 : Work) : Work :=
  match getDesc w1.dev d with
  | none => w1
  | some x =>
    let bad := testFails x fail w1.dev
    let body : Acc Unit := do
      modify (onDev effect)
      testReport x (b2n bad) detail.toNat
    onDev (fun v => match getDesc v d with
      | some y => if (y.parts.getD 0 {}).state = .ended && (y.parts.getD 0 {}).status = 0 then testFence x.bytes bad v else v
      | none => v) (runBody d 0 body w w1)

/-- A TEST of this kind is under way. -/
def testRuns (v : Dev) (kind d : Nat) : Bool :=
  (getDesc v d).any (fun x => x.cls = 0xD && testKind x.bytes = kind && (x.parts.getD 0 {}).state = .running)

/-- A TEST of a kind other than DEVICE: as a whole, its beginning, or its end. -/
def testRun (kind d : Nat) (ph : TestPhase) (fail : Bool) (detail : W32) (effect : Dev → Dev) (w : Work) : Work :=
  match ph with
  | .whole => testBegin kind d (testEnd d fail detail effect w) w
  | .begin_ => testBegin kind d (fun w => w) w
  | .finish => if testRuns w.dev kind d then testEnd d fail detail effect w w else w

/-- A test that a watchdog restart ends (R452, R457): RESULT reads ENDED where the record can be written, its event is raised,
and its descriptor takes its context through the failure path with ABORTED (log 69). -/
def testStopped (d : Nat) (w : Work) : Work :=
  match getDesc w.dev d with
  | none => w
  | some x =>
    let ended (w : Work) : Work := onDev (fun v => failCtxBy x stAborted (endPart d 0 stAborted 0 {} v)) w
    let lost (w : Work) : Work := ended (onDev (fun v => raise 0x0015 x.ctx (testRecord v x.bytes 2 0) v) w)
    runAccOr (testReport x 2 0) (fun _ w => ended w) (fun _ _ w => lost w) lost w

/-- Every test that runs is ended (R452). -/
def testsStopped (w : Work) : Work :=
  ((w.dev.descs.filter (fun x => x.cls = 0xD && x.parts.any (fun p => p.state = .running))).map (·.id)).foldl
    (fun w d => testStopped d w) w

/-- Set bits of a mask. -/
def popcount (n m : Nat) : Nat := ((upto n).filter (fun i => natBit m i)).length

/-- A DEVICE test begins: a module in park is out of it while the test runs (R456). -/
def deviceOpen (v : Dev) : Dev :=
  if v.pace.parkState = 2 then
    { v with pace := { v.pace with parkState := 0, fromPark := true }, power := { v.power with state := .active } }
  else { v with pace := { v.pace with fromPark := false } }

/-- A DEVICE test ends, whatever its status: a module that it brought out of park, and that no one has since, is parked again, its
core stores without their contents (R456, R480). -/
def deviceClose (w : Work) : Work :=
  let v := w.dev
  if v.pace.fromPark && v.pace.parkReq && v.pace.parkState = 0 then
    { w with
      wiped := if w.wiped = .all then .all else .onDie
      stores := w.stores.filter (fun s => s.space ≠ .dev || decide (s.addr < cstoreBase))
      dev := { v with
        pace := { v.pace with parkState := 2, fromPark := false }, power := { v.power with state := .park, lost := .onDie } } }
  else w

/-- DEVICE at work (R456): every word and granule is rewritten with zero, and failed cores are fenced. It waits until the host holds
no line of what it writes (R285). The place of the result is translated before the page tables are gone. -/
def deviceBody (x : Desc) (cores : W32) (stks : BitVec 20) : Acc Unit := do
  let failing := popcount 32 cores.toNat + popcount 20 stks.toNat
  let rec_ := testRecord (← get).dev x.bytes (b2n (decide (failing ≠ 0))) failing
  let ts ← (upto 16).mapM (fun i => translate (edge x.ctx) (BitVec.ofNat 64 (fieldOf x 24 8 + i)) true)
  if !(← get).dev.cxl.directory.isEmpty then throw .wait
  modify (fun w =>
    let v := { (clearOnDie w.dev) with
      ue := [], ueTimes := [], arm := { w.dev.arm with postCores := cores, postStacks := stks }
      power := { w.dev.power with lost := .none } }
    let v := (upto 32).foldl (fun v c => if cores.getLsbD c then fenceCore c v else v) v
    let w := { w with wiped := .all, stores := w.stores.filter (fun s => s.space ≠ .dev), dev := v }
    (ts.zip rec_).foldl (fun w c => match c.1 with
      | .dev a => poke .dev a c.2 w
      | .host a => poke .host a c.2 w) w)
  modify (onDev (raise 0x0015 x.ctx rec_))

/-- DEVICE with its return to park, which a failure of its part does not keep from happening (R456). -/
def deviceWhole (x : Desc) (cores : W32) (stks : BitVec 20) : Acc Unit :=
  tryCatch (do
    deviceBody x cores stks
    modify deviceClose) (fun e => do
      if e ≠ .wait then modify deviceClose
      throw e)

/-- TEST_DEVICE (R456, R481): in park from context 0, or while the device is quiescent; else BUSY. -/
def deviceRun (d : Nat) (ph : TestPhase) (cores : W32) (stks : BitVec 20) (w : Work) : Work :=
  match getDesc w.dev d with
  | none => w
  | some x =>
    let v := w.dev
    let go := (getCtx v x.ctx).state = 1 && fencesPassed v x && (v.pace.parkState = 0 || (v.pace.parkState = 2 && x.ctx = 0))
    let ending (w w1 : Work) : Work := runBody d 0 (deviceWhole x cores stks) w w1
    let open_ (w1 : Work) : Work :=
      let w2 := onDev deviceOpen w1
      match ph with
      | .begin_ => w2
      | _ => ending w w2
    if x.cls ≠ 0xD || testKind x.bytes ≠ 0x0F then w
    else if ph = .finish then (if testRuns v 0x0F d then ending w w else w)
    else if !go || (x.parts.getD 0 {}).state ≠ .queued then w
    else if v.pace.parkState = 2 || (x.ctx = 0 && quiescent (some d) v) then beginPart d 0 open_ w
    else onDev (fun v => endPart d 0 stBusy 0 {} (startPart d 0 v)) w

/-- TEST_SENSORS (R455, R458): every pace monitor and sensor calibrates now, and their next calibrations count from here. -/
def sensorsNow (failed : BitVec 38) (v : Dev) : Dev :=
  timerMark tmCalibrate (timerMark tmSensorCal
    (sensorsFail failed { v with pace := { v.pace with calibrations := v.pace.calibrations + 1 } }))

/-! ### Meanings -/

/-- FINGERPRINT (R430). -/
def execFingerprint (d p : Nat) (s : State) : Host.Outcome State Fault Refusal := runWork (checkRun 0 d p) s
/-- POINT (R432). -/
def execPoint (d : Nat) (s : State) : Host.Outcome State Fault Refusal := runWork (checkRun 1 d 0) s
/-- LOSSCMP (R435). -/
def execLosscmp (d : Nat) (s : State) : Host.Outcome State Fault Refusal := runWork (checkRun 2 d 0) s
/-- TEST_ENGINE (R455). -/
def execTestEngine (t : TestOf) (fail : Bool) (detail : W32) (s : State) : Host.Outcome State Fault Refusal :=
  runWork (testRun 1 t.d t.ph fail detail id) s
/-- TEST_CSTORE_BANK (R455). -/
def execTestCstoreBank (t : TestOf) (fail : Bool) (detail : W32) (s : State) : Host.Outcome State Fault Refusal :=
  runWork (testRun 2 t.d t.ph fail detail id) s
/-- TEST_TIDY (R455). -/
def execTestTidy (t : TestOf) (fail : Bool) (detail : W32) (s : State) : Host.Outcome State Fault Refusal :=
  runWork (testRun 3 t.d t.ph fail detail id) s
/-- TEST_DRAM_CHANNEL (R455). -/
def execTestDramChannel (t : TestOf) (fail : Bool) (detail : W32) (s : State) : Host.Outcome State Fault Refusal :=
  runWork (testRun 4 t.d t.ph fail detail id) s
/-- TEST_PORT (R455). -/
def execTestPort (t : TestOf) (fail : Bool) (detail : W32) (s : State) : Host.Outcome State Fault Refusal :=
  runWork (testRun 5 t.d t.ph fail detail id) s
/-- TEST_SENSORS (R458). -/
def execTestSensors (t : TestOf) (failed : BitVec 38) (detail : W32) (s : State) :
    Host.Outcome State Fault Refusal := runWork (testRun 6 t.d t.ph (failed ≠ 0) detail (sensorsNow failed)) s
/-- TEST_DEVICE (R456). -/
def execTestDevice (t : TestOf) (cores : W32) (stks : BitVec 20) (s : State) : Host.Outcome State Fault Refusal :=
  runWork (deviceRun t.d t.ph cores stks) s

end Sys2Proof.Machine
end

