-- ==== Sys2Proof/Machine/Plan.lean ====
section
/-! DEFINITION. What a descriptor's fetch decides (R301, R306 to R309): the checks of its header and of its class, its
parts and the units they run on. -/

namespace Sys2Proof.Machine

open Sys2Proof

/-! ### The header (R306 to R308) -/

/-- Units of 64 bytes of a class; 0 for a reserved class (R307). -/
def classUnits (cls : Nat) : Nat :=
  if cls = 1 ∨ cls = 2 then 3
  else if cls = 0 ∨ (3 ≤ cls ∧ cls ≤ 6) then 2
  else if cls ≤ 0xD then 1 else 0

/-- Units that SIZE says (R306); a reserved SIZE takes one. -/
def sizeUnits (b0 : Nat) : Nat := if natBits b0 5 4 = 3 then 1 else natBits b0 5 4 + 1

/-- The checks of R308; `replay` says that the ring is in replay mode. -/
def headerOk (bs : List Byte) (replay : Bool) : Bool :=
  let b0 := leAt bs 0 1
  let idx := natBits (leAt bs 2 1) 3 0
  let sset := natBits (leAt bs 2 1) 7 4
  let ver := natBits (leAt bs 3 1) 2 0
  classUnits (natBits b0 3 0) ≠ 0 && natBits b0 5 4 ≠ 3 && classUnits (natBits b0 3 0) = sizeUnits b0 &&
  !natBit (leAt bs 3 1) 3 && !(ver ≠ 0 && ver ≤ 4 && natBit idx (ver - 1)) && decide (ver ≤ 4) &&
  (upto 4).all (fun i => !natBit sset i || natBit idx i) && !(replay && natBit b0 7 && !natBit b0 6)

/-- A 64-bit field at an offset replaced. -/
def putField (bs : List Byte) (o v : Nat) : List Byte := bs.take o ++ leBytes 8 (v % 2 ^ 64) ++ bs.drop (o + 8)

/-- The step-indexed addresses of a descriptor at its fetch (R301); one that holds 0 stays 0. -/
def stepIndexed (c : Ctx) (step : Nat) (bs : List Byte) : List Byte :=
  (upto 4).foldl (fun b i =>
    let a := leAt b (16 + 8 * i) 8
    if natBit (leAt bs 2 1) i && a ≠ 0 then
      if natBit (leAt bs 2 1) (4 + i) then putField b (16 + 8 * i) (a + step % c.stepSlots2.toNat * c.stride2.toNat)
      else putField b (16 + 8 * i) (a + step % c.stepSlots.toNat * c.stride.toNat)
    else b) bs

/-! ### FENCE, WAIT and SIGNAL (R328 to R330) -/

/-- Bytes from an offset on are zero but for given ranges. -/
def zeroBut (bs : List Byte) (o : Nat) (used : List (Nat × Nat)) : Bool :=
  ((bs.zipIdx).drop o).all (fun c => c.1 = 0 || used.any (fun u => u.1 ≤ c.2 && c.2 ≤ u.2))

/-- A FENCE: SCOPE, and a group number. -/
def fenceOk (bs : List Byte) : Bool :=
  zeroBut bs 16 [(16, 16), (18, 19)] && decide (leAt bs 16 1 < 4) && (leAt bs 16 1 = 2 || leAt bs 18 2 = 0)

/-- A WAIT: it names a counter. -/
def waitOk (bs : List Byte) : Bool := zeroBut bs 16 [(16, 16), (24, 31), (32, 35), (40, 47)] && leAt bs 16 1 ≠ 255

/-- A SIGNAL: it names a counter, a scope and a group; one of EPOCH 255, which is no counter, is malformed as a WAIT is (log
48). -/
def signalOk (bs : List Byte) : Bool :=
  zeroBut bs 16 [(16, 17), (18, 19), (24, 31)] && decide (leAt bs 17 1 < 4) && leAt bs 16 1 ≠ 255

/-! ### Where a class's addresses lie -/

/-- Where the address in slot `i` lies. -/
def slotPlace (x : Desc) (i : Nat) : Acc Place := do
  let w ← get
  placeOf x.ctx (slotNow x (edge x.ctx) i w)

/-- In a core store, or where no translation is: the part then meets a translation fault. -/
def inStore : Place → Bool
  | .cstore _ => true
  | .nowhere => true
  | .dram => false
  | .host => false

/-- In a core store or DRAM, or where no translation is. -/
def inDevice : Place → Bool
  | .host => false
  | _ => true

/-- Slots that pass a test. -/
def slotsPass (x : Desc) (slots : List Nat) (test : Place → Bool) : Acc Bool := do
  let ps ← slots.mapM (slotPlace x)
  pure (ps.all test)

/-- A plain address that passes a test; 0 where an absent operand may stand passes. -/
def addrPass (x : Desc) (o : Nat) (test : Place → Bool) : Acc Bool := do
  if fieldOf x o 8 = 0 then pure true else return test (← placeOf x.ctx (BitVec.ofNat 64 (fieldOf x o 8)))

/-- Slots among those given that hold an address. -/
def namedSlots (x : Desc) (slots : List Nat) : List Nat := slots.filter (fun i => fieldOf x (16 + 8 * i) 8 ≠ 0)

/-! ### Parts of each class -/

/-- A number repeated from a first one up. -/
def unitRange (first count : Nat) : List Nat := (upto count).map (fun i => first + i)

/-- MM (R92, R94). The place of an operand is that of its base: a byte of it that lies elsewhere meets a translation fault when an
engine reaches it (log 86). -/
def planMm (x : Desc) : Acc (Option (List Nat)) := do
  let o := mmOf x.bytes
  if !mmOk x.bytes then pure none
  else if ← slotsPass x (mmSlots o) inStore then pure (some (unitRange o.engFirst o.engCount)) else pure none

/-- The parts of a KERNEL, cluster by cluster (R130). -/
def kernelUnits (bs : List Byte) : List Nat :=
  (upto (leAt bs 185 1)).flatMap (fun i => (maskBits (leAt bs 40 1)).map (fun _ => leAt bs 184 1 + i))

/-- STAT (R167, R176, R180, R181): every address lies where R176 has it, whatever the operation uses, but for the SRC_ADDR that FOLD
and NORM ignore. -/
def planStat (x : Desc) : Acc (Option (List Nat)) := do
  let bs := x.bytes
  let op := statOp bs
  let first := leAt bs 112 1
  let count := leAt bs 113 1
  if !statOk bs then pure none
  else do
    let stores ← slotsPass x ((if op = 0 then [0] else []) ++ namedSlots x [1] ++ [2]) inStore
    let dev ← slotsPass x [3, 4, 5] inDevice
    if !stores || !dev then pure none
    else if op = 0 then pure (some (unitRange first count))
    else pure (some (unitRange (coreRange first count).1 (coreRange first count).2))

/-- A range of addresses passes a test in every page. -/
def rangePass (x : Desc) (a n : Nat) (test : Place → Bool) : Acc Bool := do
  let pages := a / 4096
  let ps ← (upto (ceilDiv (a + n) 4096 - pages)).mapM (fun i =>
    placeOf x.ctx (BitVec.ofNat 64 (Nat.max a (4096 * (pages + i)))))
  pure (ps.all test)

/-- The workspace slots that the parts of a ROOT or an APPLY use, with the bytes they need (R202). -/
def workSlots (x : Desc) (parts : Nat) : List (Nat × Nat) :=
  let o := rtOf x.bytes
  ((upto parts).map (fun k =>
    let js := partBlocks (blkCount o.n o.bL) parts k
    let need := if o.op = 0 then rootSlotBytes o js else if js.isEmpty then 0 else 4 * o.bL * o.n2
    (fieldOf x 64 8 + k * o.workStride, Nat.min need o.workStride))).filter (fun c => c.2 ≠ 0)

/-- ROOT, APPLY and SOLVE (R201 to R203). -/
def planRoot (solve : Bool) (x : Desc) : Acc (Option (List Nat)) := do
  let o := rtOf x.bytes
  if !rootOk solve x.bytes then pure none
  else do
    let (first, cores) := coreRange o.engFirst o.engCount
    let dev ← slotsPass x ([0, 1, 2, 3] ++ (if o.op = 1 then [4, 5] else namedSlots x [4, 5])) inDevice
    let work ← if solve || fieldOf x 64 8 = 0 then pure true else do
      let one ← addrPass x 64 inStore
      let all ← (workSlots x cores).mapM (fun c => rangePass x c.1 c.2 inStore)
      pure (one && all.all id)
    if !dev || !work then pure none
    else if solve then pure (some (unitRange o.cluFirst o.cluCount))
    else pure (some (unitRange first cores))

/-- A reduction's workspace lies in one core store in every page (R356), or its first byte has no translation: the part then meets a
translation fault. -/
def workPass (x : Desc) (n : Nat) : Acc Bool := do
  let a := fieldOf x 40 8
  match ← placeOf x.ctx (BitVec.ofNat 64 a) with
  | .cstore c => rangePass x a (collWork n) (fun p => p = .cstore c)
  | p => pure (inStore p)

/-- COLL (R351, R352, R365). -/
def planColl (x : Desc) : Acc (Option (List Nat)) := do
  let o := collOf x.bytes
  let v := (← get).dev
  let g := getGroup v o.group
  if !collOk x.bytes || !collGroupOk v x.ctx o then pure none
  else do
    let work ← if o.reduces then workPass x g.record.members else pure true
    let ps := groupPorts v g
    pure (if work then some (if ps.isEmpty then [0] else ps) else none)

/-- COPY (R366). -/
def planCopy (x : Desc) : Acc (Option (List Nat)) := do
  let v := (← get).dev
  if copyOk x.bytes && copyGroupOk v x.ctx x.bytes then pure (some ((upto (copyParts x.bytes)).map (copyCore v)))
  else pure none

/-- The units of a descriptor's parts, or nothing where a check of its class finds it malformed. -/
def planOf (x : Desc) : Acc (Option (List Nat)) := do
  let bs := x.bytes
  let one (ok : Bool) : Acc (Option (List Nat)) := pure (if ok then some [0] else none)
  match x.cls with
  | 0 => planMm x
  | 1 => if isKernel x then pure (if kernelOk bs then some (kernelUnits bs) else none) else pure (vopPlan 1 bs)
  | 2 => pure (vopPlan 2 bs)
  | 3 => planStat x
  | 4 => planRoot false x
  | 5 => planRoot true x
  | 6 => planColl x
  | 7 => planCopy x
  | 8 => one (fenceOk bs)
  | 9 => one (waitOk bs)
  | 10 => one (signalOk bs)
  | 11 => do
    let v := (← get).dev
    one (castOk bs && castRoleOk v x.ctx bs)
  | 12 => pure (if checkOk bs then some (checkCores bs) else none)
  | 13 => pure (if testOk bs then some [testUnit bs] else none)
  | _ => pure none

/-- A descriptor with its parts: queued on their units, or one part that has ended malformed. -/
def withParts (x : Desc) (units : Option (List Nat)) : Desc :=
  match units with
  | some us => { x with parts := us.map (fun u => { unit := u }) }
  | none => { x with parts := [{ state := .ended, status := stMalformed }] }

/-- A COLL fetched for a group takes the next sequence of it, whether or not it is executed (R349), and the ports of its
parts, with the deal of R344 at its fetch (R352). -/
def takeSeq (hdr : Bool) (x : Desc) (v : Dev) : Desc × Dev :=
  let gno := (collOf x.bytes).group
  let g := getGroup v gno
  if hdr && x.cls = 6 && g.enable && g.ctx.toNat = x.ctx then
    let ports := groupPorts v g
    let run : CollRun := { seq := g.nextSeq, ports := ports, deal := partDeal v g ports }
    ({ x with coll := if x.parts.any (fun p => p.state = .queued) then some run else none },
      modGroup gno (fun g => { g with nextSeq := g.nextSeq + 1 }) v)
  else (x, v)

end Sys2Proof.Machine
end

