-- ==== Sys2Proof/Machine/Kernel.lean ====
section
/-! DEFINITION. Chisel kernels (R129 to R139): the start of a kernel's parts, the instruction that retires, the launch and
the completion of sub-descriptors, barriers, and the ends of a part. -/

namespace Sys2Proof.Machine

open Sys2Proof

/-! ### The start (R129 to R131) -/

/-- The parts of a kernel on a cluster. -/
def clusterParts (x : Desc) (c : Nat) : List Nat :=
  (upto x.parts.length).filter (fun p => (x.parts.getD p {}).unit = c)

/-- A chisel core at a part's start (R130). -/
def chiselStart (x : Desc) (p i : Nat) : Chisel :=
  { run := .running, d := x.id, p := p, pc := BitVec.ofNat 64 (fieldOf x 16 8)
    regs := tabPut 0 (tabPut 0 (tabPut 0 [] 10 (BitVec.ofNat 64 (fieldOf x 24 8))) 11 (BitVec.ofNat 64 (i / 8))) 12
      (BitVec.ofNat 64 (i % 8)) }

/-- A kernel's parts on one cluster may start: all are queued, it is their turn, and every chisel core they name is free
(R131). -/
def kernelReady (v : Dev) (x : Desc) (c : Nat) : Bool :=
  let ps := clusterParts x c
  isKernel x && !ps.isEmpty && ps.all (fun p => (x.parts.getD p {}).state = .queued) && mayStart v x && turnOf v x c &&
    ps.all (fun p => (getChisel v (partChisel x p)).run = .idle)

/-- A kernel's parts on one cluster started together, or failed where its core is fenced (R25); they wait where the core's
stream table has no entry for each of them (R240). -/
def kernelStart (d c : Nat) (v : Dev) : Dev :=
  match getDesc v d with
  | none => v
  | some x =>
    if !kernelReady v x c then v
    else if isFenced v c then (clusterParts x c).foldl (fun v p => endPart d p stFenced 0 {} v) v
    else
      match stabLacks v x (clusterParts x c) with
      | some k => stabWait k.1 (.part d k.2) v
      | none =>
        let v := modDesc d (fun x => { x with startedAt := x.startedAt.or (some (now v)) }) v
        (clusterParts x c).foldl (fun v p =>
          let i := partChisel x p
          startPart d p (setChisel i (chiselStart x p i) (scratchSweep i v))) v

/-- A kernel started on each named cluster that can. -/
def kernelAll (d : Nat) (v : Dev) : Dev := (upto 32).foldl (fun v c => kernelStart d c v) v

/-! ### Barriers (R135) -/

/-- The chisel cores of a cluster that run parts of a descriptor. -/
def kernelCores (v : Dev) (d c : Nat) : List Nat :=
  ((upto 8).map (fun i => 8 * c + i)).filter (fun i => (getChisel v i).run ≠ .idle && (getChisel v i).d = d)

/-- Whether a part of a kernel on a cluster has ended by trap or timeout. -/
def kernelBroken (v : Dev) (d c : Nat) : Bool :=
  match getDesc v d with
  | none => false
  | some x => x.parts.any (fun p => p.unit = c && p.progress = 1)

/-- A barrier opens once every running chisel core of the kernel on the cluster has reached it. -/
def openBarrier (d c : Nat) (v : Dev) : Dev :=
  let cores := kernelCores v d c
  if cores.all (fun i => (getChisel v i).run = .atCbar) then
    let out : W64 := if kernelBroken v d c then 1 else 0
    let ctx := ((getDesc v d).map (·.ctx)).getD 0
    cores.foldl (fun v i =>
      let h := getChisel v i
      retireInstr i ctx ⟨h.barrierRd, out, h.pc + 4⟩ (modChisel i (fun h => { h with run := .running, barrierRd := 0 }) v)) v
  else v

/-! ### The end of a part (R132 to R134, R139) -/

/-- The worst status among sub-descriptors that failed and were never read, with its address. -/
def unreadWorst (h : Chisel) (st : Byte) (a : W64) : Byte × W64 :=
  h.handles.foldl (fun acc k =>
    match k.word with
    | some w =>
      let s : Byte := w.setWidth 8
      if 0x10 ≤ s.toNat && decide (acc.1.toNat < s.toNat) then (s, k.addr) else acc
    | none => acc) (st, a)

/-- A chisel core's part ends; `broken` marks a trap or a timeout. -/
def chiselEnd (i : Nat) (st : Byte) (a : W64) (code : W16) (broken : Bool) (v : Dev) : Dev :=
  let h := getChisel v i
  let (st', a') := unreadWorst h st a
  let v := stabForget (launchOf (fun k => k = i)) (modChisel i (fun h => { h with run := .idle, reserved := none }) v)
  let v := modPart h.d h.p (fun q => { q with exitCode := code, progress := b2n broken }) v
  openBarrier h.d (i / 8) (endPart h.d h.p st' a' {} v)

/-- A chisel core's stop: a trap or an uncorrectable error ends its part (R133); a wait changes nothing (R26). -/
def chiselTrap (i : Nat) (st : Byte) (a : W64) (w : Work) : Work :=
  onDev (chiselEnd i st (if st = stMemoryUe then a else 0) 0 (st = stKernelFault)) w

/-- A running chisel core with its kernel. -/
def chiselOn (v : Dev) (i : Nat) : Option (Chisel × Desc) :=
  let h := getChisel v i
  if h.run = .running then (getDesc v h.d).map (fun x => (h, x)) else none

/-- An instruction of a running chisel core: its word and length are read and given to a body, whose answer is the work
that follows; a trap ends the part. -/
def chiselStep (i : Nat) (body : Chisel → Desc → Nat → Nat → Acc (Option (Work → Work))) (w : Work) : Work :=
  match chiselOn w.dev i with
  | none => w
  | some (h, x) =>
    let m : Acc (Option (Work → Work)) := do
      let (word, len) ← fetchInstr i x.ctx
      body h x word len
    match (m.run { w with dest := [], snooped := [], flags := {} }) with
    | (.ok (some f), w') => f (snoopsUsed w')
    | (.ok none, _) => w
    | (.error (.fail st a), w') => chiselTrap i st a (snoopsUsed w')
    | (.error .wait, _) => w

/-- An instruction that retires with a value for rd and goes on to the next. -/
def retireWith (i : Nat) (x : Desc) (rd : Nat) (val pc : W64) : Work → Work := onDev (retireInstr i x.ctx ⟨rd, val, pc⟩)

/-- CHISEL_INSTRUCTION: any instruction but those of R135 and ecall, which have their own rows. -/
def chiselInstr (i : Nat) : Work → Work :=
  chiselStep i (fun h x word len =>
    if (customOf word).isSome || isEcall word then pure none
    else do
      let t ← execute i x h word len
      pure (some (onDev (retireInstr i x.ctx t))))

/-! ### Sub-descriptors (R136, R137) -/

/-- A sub-descriptor that may be executed on a chisel core's cluster. -/
def subAllowed (c : Nat) (x : Desc) : Bool :=
  let bs := x.bytes
  if x.cls = 0 then
    let o := mmOf bs
    decide (4 * c ≤ o.engFirst) && decide (o.engFirst + o.engCount ≤ 4 * c + 4)
  else if x.cls = 1 ∨ x.cls = 2 then !(leAt bs 176 1 = 0xF0) && leAt bs 184 1 = c && leAt bs 185 1 = 1
  else x.cls = 7

/-- The bytes of the descriptor at an address: its first unit, and the others that its SIZE says. -/
def subBytes (i ctx : Nat) (a : W64) : Acc (List Byte) := do
  let first ← chRead i ctx a 64
  let more ← ((upto (sizeUnits (leAt first 0 1))).drop 1).mapM (fun k => chRead i ctx (a + BitVec.ofNat 64 (64 * k)) 64)
  pure (first ++ more.flatten)

/-- A sub-descriptor enters staging with a stream table entry of its core (R19, R136): its parts, or one malformed part; in
a context in the failure path its parts are aborted (R416). -/
def subEnter (i : Nat) (h : Chisel) (x : Desc) (hd : Nat) (bs : List Byte) (placed : Bool) : Acc Unit := do
  let v := (← get).dev
  let bs := if placed && headerOk bs false then stepIndexed (getCtx v x.ctx) x.step.toNat bs else bs
  let y : Desc :=
    { id := v.nextDesc, ring := x.ring, sub := some (i, hd), parent := some (h.d, h.p), ctx := x.ctx, unitIndex := x.unitIndex
      step := x.step, time := now v, bytes := bs, cls := leAt bs 0 1 % 16 }
  let units ← if placed && headerOk bs false && subAllowed (i / 8) y then planOf y else pure none
  let y := withParts y units
  modify (onDev (fun v =>
    let v := modChisel i (fun h => { h with handles := h.handles.set hd { desc := some y.id } })
      { v with descs := v.descs ++ [y], nextDesc := y.id + 1 }
    let v := stabForget (launchOf (fun k => k = i)) v
    let v := countQueues y (if units.isSome then stabHold (i / 8) y.id 0 v else v)
    if (getCtx v x.ctx).state = 1 then v else abortParts (fun q => q.id = y.id) v))

/-- DLAUNCH: the lowest free handle, or a wait while one of sixteen held handles runs, or all ones; it waits too where the
core's stream table is full (R136, R137, R240). Where `rs1` is unaligned or lies in another device memory the handle is taken
and a MALFORMED sub-descriptor completes; an unmapped or host address traps (DESIGN CHOICE, log 109: R136 says only that a
sub-descriptor must begin there). -/
def dlaunch (i : Nat) : Work → Work :=
  chiselStep i (fun h x word _ =>
    if customOf word ≠ some 0 then pure none
    else
      let rd := iRd word
      let next := h.pc + 4
      match h.handles.findIdx? (fun k => k.desc.isNone) with
      | none =>
        if h.handles.any (fun k => k.word.isNone) then throw .wait
        else pure (some (retireWith i x rd (BitVec.allOnes 64) next))
      | some hd => do
        if (stabFree (← get).dev (i / 8)).isNone then
          return some (onDev (stabWait (i / 8) (.launch i)))
        let a := xreg h (iRs1 word)
        let placed ← if a.toNat % 64 ≠ 0 then pure false else (fun t => t.2) <$> atomicTarget i x.ctx a false
        let bs ← if placed then subBytes i x.ctx a else pure []
        subEnter i h x hd bs placed
        pure (some (retireWith i x rd (BitVec.ofNat 64 hd) next)))

/-- The handle that a register names. -/
def handleOf (h : Chisel) (v : W64) : Option Handle :=
  match h.handles[v.toNat]? with
  | some k => if k.desc.isSome then some k else none
  | none => none

/-- DWAIT and DPOLL: a handle not in use answers MALFORMED; a complete one answers its word and is freed. -/
def dread (i f3 : Nat) : Work → Work :=
  chiselStep i (fun h x word _ =>
    if customOf word ≠ some f3 then pure none
    else
      let rd := iRd word
      let next := h.pc + 4
      let a := xreg h (iRs1 word)
      match handleOf h a with
      | none => pure (some (retireWith i x rd (statusWord stMalformed {}) next))
      | some k =>
        match k.word with
        | some s => pure (some (fun w =>
            retireWith i x rd s next (onDev (modChisel i (fun h => { h with handles := h.handles.set a.toNat {} })) w)))
        | none => if f3 = 1 then throw .wait else pure (some (retireWith i x rd 0 next)))

/-- CBAR: the core waits at its barrier, which may open at once. -/
def cbar (i : Nat) : Work → Work :=
  chiselStep i (fun h _ word _ =>
    if customOf word ≠ some 3 then pure none
    else pure (some (onDev (fun v =>
      openBarrier h.d (i / 8) (modChisel i (fun h => { h with run := .atCbar, barrierRd := iRd word }) v)))))

/-- ECALL (R132, R137): it waits for the core's running sub-descriptors, then ends the part with the exit code in a0. -/
def ecall (i : Nat) : Work → Work :=
  chiselStep i (fun h _ word _ =>
    if !isEcall word then pure none
    else if h.handles.any (fun k => k.desc.isSome && k.word.isNone) then throw .wait
    else
      let a0 := xreg h 10
      pure (some (onDev (chiselEnd i (if a0 = 0 then stSuccess else stKernelError) 0 (a0.setWidth 16) false))))

/-- KERNEL_TIMEOUT (R134): the running parts of a kernel stop. -/
def kernelTimeout (d : Nat) (v : Dev) : Dev :=
  match getDesc v d with
  | none => v
  | some x =>
    let t := fieldOf x 32 8
    if isKernel x && t ≠ 0 && x.startedAt.any (fun s => decide (t ≤ since v s)) then
      ((upto 256).filter (fun i => (getChisel v i).run ≠ .idle && (getChisel v i).d = d)).foldl
        (fun v i => chiselEnd i stTimeout 0 0 true v) v
    else v

/-- The blocks that a FOLD wrote (R170, R171): none where it skipped, and those whose step sums are finite. -/
def foldedBlocks (x : Desc) (r : Requestor) : Acc (List Nat) := do
  let bs := x.bytes
  let f := overallFlags x
  let verdict ← if leAt bs 120 8 = 0 then pure 0 else readNat (edge x.ctx) (BitVec.ofNat 64 (leAt bs 120 8)) 4
  if f.empty || !(f32 verdict).isZero then pure []
  else
    (upto (statCount bs)).filterM (fun j => do
      if !f.invalid then return true
      let rp := padSize (statReal bs j)
      let sums ← readWords (edge x.ctx) (slotAddr x r 2 + BitVec.ofNat 64 (statOffset bs j)) (rp * rp)
      pure (sums.all isFin32))

/-- Tiles of a version that a descriptor's destination covers whole are tagged once all its parts have succeeded (R228).
What the destination covers is the class's: whole stored rows for MM, the runs of a VOP, the bytes of a COPY or a COLL, the
blocks that a STAT, a ROOT or a SOLVE wrote, the rows of an APPLY. -/
def versionCover (x : Desc) (w : VerWin) (r : Requestor) : Acc (Nat → Bool) := do
  let v := (← get).dev
  let inRuns (rs : Runs) (o : Nat) : Bool := rs.any (fun c =>
    let k := (c.1 - w.buf).toNat
    decide (k ≤ o) && decide (o < k + c.2))
  let blocks (n b slot : Nat) (js : List Nat) : Runs :=
    js.map (fun j => (slotAddr x r slot + BitVec.ofNat 64 (blkOffset b j), 4 * padSize (blkReal n b j) * padSize (blkReal n b j)))
  match x.cls with
  | 0 =>
    let rs := (upto x.parts.length).flatMap (fun p => engineDests x r p)
    pure (inRuns rs)
  | 1 | 2 =>
    let o := vopOf x.bytes
    pure (inRuns (planeRuns o (vopDsts x r o none).1 0 (o.counts.getD 4 0)))
  | 3 =>
    if onEngine x then pure (inRuns ((upto x.parts.length).flatMap (fun p => engineDests x r p)))
    else
      let js ← foldedBlocks x r
      pure (inRuns (blocks (leAt x.bytes 80 4) (statB x.bytes) 3 js))
  | 4 | 5 =>
    let o := rtOf x.bytes
    if o.op = 1 then
      pure (inRuns ((upto (if o.gT then o.n2 else o.n)).map (fun k =>
        if o.gT then (gradAt o (slotAddr x r 1) 0 k, 4 * o.n) else (gradAt o (slotAddr x r 1) k 0, 4 * o.n2))))
    else do
      let js ← (upto (blkCount o.n o.bL)).filterM (fun j => do
        let srec ← readBytes (edge x.ctx) (slotAddr x r 1 + BitVec.ofNat 64 (32 * j)) 32
        pure (rootWrites srec))
      pure (inRuns (blocks o.n o.bL 2 js))
  | 6 =>
    let o := collOf x.bytes
    pure (fun k => decide (k < collDest o (getGroup v o.group)))
  | 7 => pure (fun k => decide (k < fieldOf x 32 4))
  | _ => pure (fun _ => false)

/-- The slot of a class's destination that a version pair may name (R306); NORM_ADDR is no address that VER_FIELD names. -/
def destSlot (x : Desc) : Option Nat :=
  match x.cls with
  | 0 => some 2
  | 1 => some 3
  | 2 => some 3
  | 3 => if statOp x.bytes = 0 then some 2 else if statOp x.bytes = 1 then some 3 else none
  | 4 => if (rtOf x.bytes).op = 1 then some 1 else some 2
  | 5 => some 2
  | 6 => some 1
  | 7 => if copyDir x.bytes = 1 then none else some 1
  | _ => none

/-- A version written by a descriptor is committed (R228). -/
def commitVersion (x : Desc) : Acc Unit := do
  match destSlot x with
  | none => pure ()
  | some k =>
    if verField x ≠ k + 1 then pure ()
    else do
      let r ← reqOf x (edge x.ctx) [k]
      match r.ver with
      | none => pure ()
      | some w => do
        let pair : W64 := BitVec.ofNat 64 (fieldOf x (16 + 8 * k) 8)
        let rows ← readNat (edge x.ctx) (pair + 4) 4
        let cols ← readNat (edge x.ctx) (pair + 8) 4
        let cover ← versionCover x w r
        setTags (edge x.ctx) w cover rows cols

/-- What a descriptor does when it completes, beside its record: its version is committed, and SIG_EPOCH is added where
every part has the status SUCCESS (R228, R310, R329). An epoch counter that cannot be written is not added to. -/
def completeEffects (x : Desc) : Acc Unit := do
  if x.parts.all (fun p => p.status = stSuccess) then
    commitVersion x
    if !x.noSignal && fieldOf x 1 1 ≠ 0xFF then addEpoch x.ctx (fieldOf x 1 1) 1

/-- Every part has recorded its status. -/
def allDone (x : Desc) : Bool := x.parts.all (fun p => p.state = .done)

/-- Counters of a completed descriptor (R461). -/
def countDone (x : Desc) (v : Dev) : Dev :=
  let v := ctrAdd x.ctx 11 1 v
  if 0x10 ≤ (overallStatus x).toNat then ctrAdd x.ctx 12 1 v else v

/-- A descriptor leaves staging. -/
def dropDesc (d : Nat) (v : Dev) : Dev :=
  let stays : StabIssuer → Bool
    | .part e _ => e ≠ d
    | _ => true
  { v with descs := v.descs.filter (fun x => x.id ≠ d), stabWaits := v.stabWaits.filter stays }

/-- A completed sub-descriptor reaches its handle; where its chisel core's part has ended without reading it, a failure
makes that part's status the worse of the two (R139). -/
def subReport (x : Desc) (v : Dev) : Dev :=
  let st := overallStatus x
  let a : W64 := BitVec.ofNat 64 (faultAddrOf x)
  match x.sub, x.parent with
  | some (i, hd), some (d, p) =>
    let v := modDesc d (fun y => { y with subFlags := Flags.join y.subFlags (overallFlags x) }) v
    let h := getChisel v i
    if h.run ≠ .idle && (h.handles.getD hd {}).desc = some x.id then
      let k : Handle := { desc := some x.id, word := some (statusWord st (overallFlags x)), addr := a }
      modChisel i (fun h => { h with handles := h.handles.set hd k }) v
    else
      modPart d p (fun q => if 0x10 ≤ st.toNat && decide (q.status.toNat < st.toNat) then { q with status := st, faultAddr := a } else q) v
  | _, _ => v

/-- SUB_DESCRIPTOR_COMPLETE (R137, R139). -/
def subComplete (d : Nat) (w : Work) : Work :=
  match getDesc w.dev d with
  | none => w
  | some x =>
    if x.sub.isNone || !allDone x then w
    else
      let finish (w : Work) : Work := onDev (fun v => dropDesc d (subReport x (countDone x v))) w
      runAcc (ueFails (failCtxBy x stMemoryUe) (completeEffects x)) (fun _ w => finish w) (fun _ _ w => finish w) w

/-! ### Meanings -/

/-- KERNEL (R129). -/
def execKernel (d : Nat) (s : State) : Host.Outcome State Fault Refusal := runDev (kernelAll d) s
/-- KERNEL_PART_START (R131). -/
def execKernelPartStart (d : Nat) (c : Fin 32) (s : State) : Host.Outcome State Fault Refusal := runDev (kernelStart d c.val) s
/-- CHISEL_INSTRUCTION (R124). -/
def execChiselInstruction (i : Fin 256) (s : State) : Host.Outcome State Fault Refusal := runWork (chiselInstr i.val) s
/-- DLAUNCH (R136). -/
def execDlaunch (i : Fin 256) (s : State) : Host.Outcome State Fault Refusal := runWork (dlaunch i.val) s
/-- DWAIT (R135). -/
def execDwait (i : Fin 256) (s : State) : Host.Outcome State Fault Refusal := runWork (dread i.val 1) s
/-- DPOLL (R135). -/
def execDpoll (i : Fin 256) (s : State) : Host.Outcome State Fault Refusal := runWork (dread i.val 2) s
/-- CBAR (R135). -/
def execCbar (i : Fin 256) (s : State) : Host.Outcome State Fault Refusal := runWork (cbar i.val) s
/-- ECALL (R132). -/
def execEcall (i : Fin 256) (s : State) : Host.Outcome State Fault Refusal := runWork (ecall i.val) s
/-- KERNEL_TIMEOUT (R134). -/
def execKernelTimeout (d : Nat) (s : State) : Host.Outcome State Fault Refusal := runDev (kernelTimeout d) s
/-- SUB_DESCRIPTOR_COMPLETE (R137). -/
def execSubDescriptorComplete (d : Nat) (s : State) : Host.Outcome State Fault Refusal := runWork (subComplete d) s

end Sys2Proof.Machine
end

