-- ==== Sys2Proof/Machine/Faults.lean ====
section
/-! DEFINITION. A part that fails by what memory or the host answers (R256, R288, R289, R310, R505): uncorrectable errors,
denied translations, bad host data, and what becomes of the part's destination. -/

namespace Sys2Proof.Machine

open Sys2Proof

/-- What a part that runs as a whole does to what it leaves undefined where it fails, by its class. -/
def partBody (x : Desc) (q : Part) (p : Nat) : Acc Unit :=
  match x.cls with
  | 1 => vopBody x q p
  | 2 => vopBody x q p
  | 3 => if statOp x.bytes = 1 then foldBody x q p else normBody x q p
  | 4 => if (rtOf x.bytes).op = 1 then applyBody x q p else rootBody false x q p
  | 5 => rootBody true x q p
  | 7 => copyLocal x q p
  | 11 => castDest x
  | 12 => if checkOp x.bytes = 0 then printBody x q p else if checkOp x.bytes = 1 then pointBody x else lossBody x
  | 13 => testReport x 0 0
  | _ => pure ()

/-- The destinations that such a part writes. -/
def partDests (x : Desc) (q : Part) (p : Nat) (w : Work) : List Dest :=
  ((partBody x q p).run { w with dest := [], snooped := [], flags := {} }).2.dest

/-- The destinations of an engine part. -/
def engDests (x : Desc) (e p : Nat) (w : Work) : List Dest :=
  ((engStage x e p).run { w with dest := [], snooped := [], flags := {} }).2.dest

/-- A part that is queued or running. -/
def livePart (v : Dev) (d p : Nat) : Option (Desc × Part) :=
  match getDesc v d with
  | none => none
  | some x =>
    match x.parts[p]? with
    | some q => if q.state = .queued || q.state = .running then some (x, q) else none
    | none => none

/-- The destinations of a part, undefined when it fails (R310): none of a kernel's, and of a COPY from a peer what arrives here. -/
def destsOf (x : Desc) (q : Part) (p : Nat) (w : Work) : List Dest :=
  if onEngine x then engDests x q.unit p w
  else if isKernel x || x.cls = 6 then []
  else if x.cls = 7 && copyDir x.bytes = 1 then []
  else if x.cls = 7 && copyDir x.bytes = 2 then
    let (o, n) := copySpan x p
    [destNow x 1 o n w]
  else partDests x q p w

/-- A queued or running part fails with a status: it leaves its unit, and its destination is undefined (R310). A part of a
collective leaves the other parts to go on (R352). A DEVICE test that had begun in park returns to it (R456). -/
def partFail (x : Desc) (q : Part) (p : Nat) (st : Byte) (a : W64) (w : Work) : Work :=
  if onEngine x then onDev (failEng q.unit x.id p st a {}) (freeDest { w with dest := destsOf x q p w })
  else if isKernel x then
    (if q.state = .running then onDev (chiselEnd (partChisel x p) st a 0 false) w else onDev (endPart x.id p st a {}) w)
  else if x.cls = 6 then collEndParts x [p] st a {} w
  else if x.cls = 13 && testKind x.bytes = 0x0F && q.state = .running then deviceClose (onDev (endPart x.id p st a {}) w)
  else onDev (endPart x.id p st a {}) (freeDest { w with dest := destsOf x q p w })

/-- The entry of the stream table that tracks a part holds an address (R239, R256). -/
def tracksPart (v : Dev) (d p a : Nat) : Bool :=
  v.stab.any (fun e => e.d = d && e.p = p && decide (stabAddr e ≤ a) && decide (a < stabAddr e + 24))

/-- The number of the word or granule that a part's access meets at a place: memory it can address, its own stream table entry, a
bank of its engine, or a word of one of its chisel cores' scratch (R253, R254, R256). -/
def wordMet (v : Dev) (x : Desc) (q : Part) (p : Nat) : WordAt → Option Nat
  | .mem a => if populated a || tracksPart v x.id p a then some a else none
  | .bank e b pos => if onEngine x && q.unit = e.val then some (bankWord e.val b.val pos.val) else none
  | .scratch i off =>
    if isKernel x && partChisel x p = i.val && decide (off < 65536) then some (scratchWord i.val (off - off % 8)) else none

/-- MEMORY_UE (R253, R254, R256): a part's read of a word or granule, and what it finds: what its codes correct or a retry brings
good is counted, and what they do not fails the part. -/
def memoryUe (d p : Nat) (at_ : WordAt) (r : ReadResult) (w : Work) : Work :=
  match livePart w.dev d p with
  | none => w
  | some (x, q) =>
    match wordMet w.dev x q p at_ with
    | none => w
    | some a =>
      let (v, good) := readFound a r w.dev
      if good then { w with dev := v }
      else partFail x q p stMemoryUe (ueFault v a) (onDev (meetUe x.ctx a) { w with dev := v })

/-- PARTIAL_WRITE_UE (R505): a part's write covers only part of an uncorrectable word or granule: nothing of it is stored
there, and the part fails. -/
def partialWriteUe (d p : Nat) (at_ : WordAt) (w : Work) : Work :=
  match livePart w.dev d p with
  | none => w
  | some (x, q) =>
    match wordMet w.dev x q p at_ with
    | none => w
    | some a =>
      if isUe w.dev a then partFail x q p stMemoryUe (ueFault w.dev a) (onDev (meetUe x.ctx a) w) else w

/-- ATS_TRANSLATION (R289): the answer to a Translation Request of part `p` of descriptor `d`, or of the edge's own ring
traffic where no such part waits. -/
def atsAnswer (d p : Nat) (pasid : BitVec 20) (addr : Nat) (va : W64) (ans : AtsAnswer) (w : Work) : Work :=
  if !w.dev.cxl.linkUp then w
  else
    let w := onDev (emit (.atsRequest pasid addr)) w
    let deny : Work :=
      match livePart w.dev d p with
      | some (x, q) => partFail x q p stTranslation va w
      | none => onDev (atcAdd
          { pasid := pasid, base := addr / 4096 * 4096, sizeLog2 := 12, host := 0, write := false, denied := true }) w
    match ans with
    | .granted host n write =>
      if 12 ≤ n then
        onDev (atcAdd { pasid := pasid, base := addr / 2 ^ n * 2 ^ n, sizeLog2 := n, host := host / 2 ^ n * 2 ^ n, write := write }) w
      else deny
    | .denied => deny
    | .error => deny

/-- HOST_READ_DATA (R288): the bytes, at most 4,096, that the host returns to a device read; bad data fails the part that asked,
and ring traffic reads again. -/
def hostReadData (d p addr : Nat) (va : W64) (bs : List Byte) (r : ReadOutcome) (w : Work) : Work :=
  let bad : Work :=
    match livePart w.dev d p with
    | some (x, q) => partFail x q p stHostMemory va w
    | none => w
  if !w.dev.cxl.linkUp || 4096 < bs.length then w
  else
    match r with
    | .ok => pokes .host addr bs w
    | .poisoned => bad
    | .failed => bad

/-- MEMORY_UE (R256). -/
def execMemoryUe (d p : Nat) (r : WordRead) (s : State) : Host.Outcome State Fault Refusal :=
  runWork (memoryUe d p r.at_ r.found) s
/-- PARTIAL_WRITE_UE (R505). -/
def execPartialWriteUe (d p : Nat) (at_ : WordAt) (s : State) : Host.Outcome State Fault Refusal :=
  runWork (partialWriteUe d p at_) s
/-- ATS_TRANSLATION (R289). -/
def execAtsTranslation (d p : Nat) (pasid : BitVec 20) (addr : Nat) (va : W64) (ans : AtsAnswer) (s : State) :
    Host.Outcome State Fault Refusal :=
  runWork (fun w => waitsDrain (atsAnswer d p pasid addr va ans w)) s
/-- HOST_READ_DATA (R288). -/
def execHostReadData (d p addr : Nat) (va : W64) (bs : List Byte) (r : ReadOutcome) (s : State) :
    Host.Outcome State Fault Refusal := runWork (hostReadData d p addr va bs r) s

end Sys2Proof.Machine
end

