-- ==== Sys2Proof/Machine/Rings.lean ====
section
/-! DEFINITION. Contexts, rings, doorbells, fetch, completion, ordering and step programs (chapter 13, R223, R232 to R234,
R406, R416, R417). -/

namespace Sys2Proof.Machine

open Sys2Proof

/-! ### Contexts (R251, R299) -/

/-- Every cached translation of a context dropped (R251). -/
def dropTlb (x : Nat) (v : Dev) : Dev := { v with tlb := v.tlb.filter (fun t => t.ctx ≠ x) }

/-- A ring of the context is enabled, or for context 0 the attention ring (R299). -/
def ctxBusy (v : Dev) (x : Nat) : Bool :=
  v.rings.any (fun c => c.2.enable && c.2.ctx.toNat = x) || (x = 0 && v.attn.enable)

/-- ENABLE = 1 of a context (R251, R299); ignored in park for any but context 0 (R481). -/
def ctxOn (x : Nat) (v : Dev) : Dev :=
  if x ≠ 0 && v.pace.parkState ≠ 0 then v else modCtx x (fun c => { c with enable := true, state := 1 }) (dropTlb x v)

/-- ENABLE = 0 of a context (R88, R299); peers that wait for its groups are told (R364). -/
def ctxOff (x : Nat) (v : Dev) : Dev :=
  if ctxBusy v x then v
  else
    let v := (v.groups.filter (fun c => c.2.enable && c.2.ctx.toNat = x)).foldl (fun v c => goneNotices c.1 v) v
    releaseCtxBanks x (modCtx x (fun c => { c with enable := false, state := 0 }) v)

/-- RING_CTX_CFG as a register (R299). -/
def ctxCfg (c : Ctx) : W64 :=
  place 0 c.pasid ||| place 20 c.cls ||| placeB 31 c.enable ||| place 32 c.stepSlots ||| place 48 c.stepSlots2

/-- A write of RING_CTX_CFG: its fields while ENABLE is 0, then ENABLE. -/
def ctxCfgWrite (x : Nat) (b : Bar) (v : Dev) : Dev :=
  let c := getCtx v x
  let n := b.merge (ctxCfg c)
  if c.enable then (if b.lo && !bitAt 31 n then ctxOff x v else v)
  else
    let cls : BitVec 3 := fld 3 20 n
    let v := setCtx x { c with
      pasid := fld 20 0 n, cls := if cls.toNat ≤ 2 then cls else c.cls
      stepSlots := clampW 1 65535 (fld 16 32 n), stepSlots2 := clampW 1 65535 (fld 16 48 n) } v
    if b.lo && bitAt 31 n then ctxOn x v else v

/-- A write of context x's registers, by granule (R299). -/
def ctxWrite (x g : Nat) (b : Bar) (v : Dev) : Dev :=
  let c := getCtx v x
  if g = 4 then ctxCfgWrite x b v
  else if c.enable then v
  else if g = 0 then setCtx x { c with ptRoot := fld 40 12 (b.merge (place 12 c.ptRoot)) } v
  else if g = 1 then setCtx x { c with seed := b.merge c.seed } v
  else if g = 2 then setCtx x { c with stepRec := b.merge c.stepRec } v
  else if g = 3 then setCtx x { c with epochAddr := b.merge c.epochAddr } v
  else if g = 5 then setCtx x { c with stride := b.merge c.stride } v
  else if g = 7 then setCtx x { c with stride2 := b.merge c.stride2 } v
  else v

/-- A write of RING_CTX_INVAL (R251). -/
def invalWrite (b : Bar) (v : Dev) : Dev :=
  if !b.lo || v.attn.invalBusy then v
  else { v with attn := { v.attn with invalCtx := fld 6 0 b.val, invalBusy := bitAt 31 b.val } }

/-- CTX_INVAL_DONE (R251). -/
def invalDone (v : Dev) : Dev :=
  if v.attn.invalBusy then dropTlb v.attn.invalCtx.toNat { v with attn := { v.attn with invalBusy := false } } else v

/-! ### Rings (R302 to R305) -/

/-- The ring's state while it is host-fed and held by nothing: fetching while units are left (R302, R304). -/
def settle (r : Ring) : Ring :=
  if r.mode = 0 && r.enable && (r.state = 0 || r.state = 1) then { r with state := if r.tail = r.head then 0 else 1 } else r

/-- A ring stopped by an error if it is enabled and has not stopped. -/
def ringError (r err : Nat) (v : Dev) : Dev :=
  let x := getRing v r
  if x.enable && x.state ≠ 3 then stopRing r err v else v

/-- A doorbell slot of a line (R303). -/
def slotTail (line : BitVec 512) (slot : Nat) : W32 := (line >>> (64 * slot)).setWidth 32
def slotCqHead (line : BitVec 512) (slot : Nat) : W32 := (line >>> (64 * slot + 32)).setWidth 32

/-- A slot compared with its ring: taken, or out of range (R305, R317). -/
def takeSlot (r : Nat) (line : BitVec 512) (v : Dev) : Dev :=
  let x := getRing v r
  let tail := slotTail line x.dbSlot.toNat
  let cq := slotCqHead line x.dbSlot.toNat
  if 2 ^ x.sizeLog2.toNat < (tail - x.head).toNat || 2 ^ x.cqLog2.toNat < (x.cqWritten - cq).toNat then ringError r 1 v
  else setRing r (settle { x with tail := tail, cqHead := cq }) v

/-- Every enabled host-fed ring that names a line compared with its slot. -/
def takeLine (i : Nat) (line : BitVec 512) (v : Dev) : Dev :=
  ((v.rings.filter (fun c => c.2.enable && c.2.mode = 0 && c.2.dbLine.toNat = i)).map (·.1)).foldl
    (fun v r => takeSlot r line v) v

/-- The link has come up without 256-byte flits, in which no ring can be started (R279). -/
def ringsBarred (v : Dev) : Bool := v.cxl.linkUp && !v.cxl.cxlMode

/-- Whether a write of ENABLE = 1 is refused (R302); the refusal in the state of R279 has the same ERR (log 101). -/
def ringRefused (v : Dev) (x : Ring) : Bool :=
  ringsBarred v || !(getCtx v x.ctx.toNat).enable ||
  decide (64 ≤ (v.rings.filter (fun c => c.2.enable && c.2.ctx = x.ctx)).length) ||
  !(decide (6 ≤ x.sizeLog2.toNat) && decide (x.sizeLog2.toNat ≤ 20)) ||
  !(decide (6 ≤ x.cqLog2.toNat) && decide (x.cqLog2.toNat ≤ 20)) || decide (2 ≤ x.mode.toNat) ||
  x.base.toNat % 4096 ≠ 0 || x.cqBase.toNat % 4096 ≠ 0 ||
  (x.mode = 1 && (x.progLen = 0 || decide (2 ^ x.sizeLog2.toNat < x.progLen.toNat)))

/-- ENABLE = 1 of a ring (R302): its indices and reservations become 0; descriptors of its earlier life keep no place in its
queue. A held doorbell line's data are compared at once (R317). -/
def ringOn (r : Nat) (v : Dev) : Dev :=
  let x := getRing v r
  if ringRefused v x then setRing r { x with err := 2 } v
  else
    let v := setRing r { x with
      enable := true, err := 0, state := 0, head := 0, tail := 0, cqHead := 0, cqWritten := 0, reserved := 0, waiting := none
      passFlags := {}, passSkipped := false, passRead := false, passSum := false, boundaryHeld := false } v
    let v := { v with descs := v.descs.map (fun d => if d.ring = r then { d with orphan := true } else d) }
    let l := getDb v x.dbLine.toNat
    if x.mode = 0 && l.valid && l.held then takeSlot r l.data v else v

/-- ENABLE = 0 of a ring (R302, R309): fetched parts that have not started are aborted. -/
def ringOff (r : Nat) (v : Dev) : Dev :=
  abortParts (fun d => d.ring = r && d.sub.isNone && !d.orphan)
    (stabForget (fetchOf (fun q => q = r))
      (modRing r (fun x => { x with enable := false, state := 0, waiting := none, boundaryHeld := false }) v))

/-! ### Step programs (R223, R231 to R234, R331, R332, R406) -/

/-- A positive power of two in FP32, subnormal ones included. -/
def powTwo (c : Nat) : Bool :=
  let e := c / 2 ^ 23
  let m := c % 2 ^ 23
  if e = 0 then m ≠ 0 && decide (2 ^ Nat.log2 m = m) else decide (e < 255) && decide (m = 0)

/-- The check of R223 on a step state record. -/
def recordOk (bs : List Byte) : Bool :=
  let ls := leAt bs 4 4
  let lo := leAt bs 20 4
  let hi := leAt bs 24 4
  powTwo ls && powTwo lo && powTwo hi && decide (lo ≤ ls) && decide (ls ≤ hi) && decide (1 ≤ leAt bs 56 4)

/-- FP32 negation of a schedule entry (R232). -/
def negEntry (c : Nat) : Nat :=
  if isNan32 c then (if c / 2 ^ 31 = 1 then f32Nan else f32Nan + 2 ^ 31) else (c + 2 ^ 31) % 2 ^ 32

/-- NEG_ETA for a step (R232, R233). -/
def negEta (ctx : Nat) (bs : List Byte) (step : Nat) : Acc Nat := do
  let i := Nat.min step (leAt bs 56 4 - 1)
  let c ← readNat (edge ctx) (BitVec.ofNat 64 (leAt bs 48 8 + 4 * i)) 4
  pure (negEntry c)

/-- The loss-scale rule: LOSS_SCALE, CLEAN_RUN and SKIPPED after a step (R223). -/
def lossScale (skipped : Bool) (bs : List Byte) : Nat × Nat × Nat :=
  let ls := leAt bs 4 4
  let clean := leAt bs 12 4
  let n := leAt bs 32 4
  if skipped then (Nat.max (leAt bs 20 4) (fmul ls 0x3F000000), 0, Nat.min (n + 1) (2 ^ 32 - 1))
  else
    let c := (clean + 1) % 2 ^ 32
    if leAt bs 16 4 ≤ c then (Nat.min (leAt bs 24 4) (fmul ls 0x40000000), 0, n) else (ls, c, n)

/-- A mould context's boundary that writes S does not fetch again (R406). -/
def castHeld (v : Dev) (ctx s : Nat) : Bool :=
  (v.mould.pairs.take 4).any (fun q => q.state = 2 && q.ctx.toNat = ctx && decide (v.mould.castLag.toNat < s - q.cast.toNat))

/-- A pass begins at unit 0 (R331). -/
def newPass (r : Nat) (v : Dev) : Dev :=
  modRing r (fun x => { x with
    state := 4, head := 0, passFlags := {}, passSkipped := false, passRead := false, passSum := false, boundaryHeld := false }) v

/-- A replay ring whose record cannot be used puts its context on the failure path (R223). -/
def replayFail (r : Nat) (st : Byte) (v : Dev) : Dev := failCtx (getRing v r).ctx.toNat 0 r st.toNat v

/-- START (R233, R331). A record or eta table that cannot be read takes the failure path with that status and writes neither field
(DEDUCED, log 47). -/
def replayStart (r : Nat) (w : Work) : Work :=
  let x := getRing w.dev r
  let ctx := x.ctx.toNat
  let c := getCtx w.dev ctx
  if ringsBarred w.dev || !(x.enable && x.mode = 1 && x.state = 0 && c.stepRec ≠ 0) then w
  else
    runAcc (do
      let bs ← readBytes (edge ctx) c.stepRec 64
      if leAt bs 28 4 ≠ 0 then
        if !recordOk bs then throw (.fail stMalformed 0)
        let eta ← negEta ctx bs (leAt bs 0 4)
        writeNat (edge ctx) (c.stepRec + 8) 4 (fdiv f32One (leAt bs 4 4))
        writeNat (edge ctx) (c.stepRec + 44) 4 eta
        modify (onDev (newPass r))) (fun _ w => w) (fun st _ w => onDev (replayFail r st) w) w

/-- Whether a pass was skipped (R222): as its descriptors read the verdict, or as the sum that the pass made says (log 20). -/
def passVerdict (x : Ring) : Bool := if x.passRead then x.passSkipped else x.passSum

/-- The items of R232 up to the record: the new step, and whether the program runs again. -/
def boundaryRecord (r ctx : Nat) (a : W64) : Acc (Nat × Nat × Bool) := do
  let x := getRing (← get).dev r
  let bs ← readBytes (edge ctx) a 64
  if !recordOk bs then throw (.fail stMalformed 0)
  let skip := passVerdict x
  let (ls, clean, skipped) := lossScale skip bs
  let step := (leAt bs 0 4 + 1) % 2 ^ 32
  let left := (leAt bs 28 4 + 2 ^ 32 - 1) % 2 ^ 32
  let eta ← negEta ctx bs step
  writeBytes (edge ctx) a (leBytes 4 step ++ leBytes 4 ls ++ leBytes 4 (fdiv f32One ls) ++ leBytes 4 clean ++ leBytes 12 (leAt bs 16 12) ++
    leBytes 4 left ++ leBytes 4 skipped ++ leBytes 2 (flagByte x.passFlags + 256 * b2n skip))
  writeBytes (edge ctx) (a + 40) (leBytes 4 x.passFlags.blockFlush.toNat ++ leBytes 4 eta ++ leBytes 12 (leAt bs 48 12) ++ leBytes 4 0)
  pure (step, left, natBit (leAt bs 38 1) 0)

/-- What follows item 5 of R232: STEPS_DONE, the mirror, and the next pass or REPLAY_STOPPED, whose reason is free where both hold
(R322, log 48). -/
def boundaryNext (r ctx : Nat) (res : Nat × Nat × Bool) (w : Work) : Work :=
  let (step, left, stop) := res
  let w := onDev (ctrAdd ctx 18 1) w
  let w := if (getMirror w.dev ctx).stepEn then mirrorTake ctx 2 w else w
  if left ≠ 0 && !stop then
    (if castHeld w.dev ctx step then onDev (modRing r (fun x => { x with boundaryHeld := true })) w else onDev (newPass r) w)
  else
    let why (v : Dev) : Nat := if left ≠ 0 then 1 else if stop then b2n ((freeVal v).getLsbD 0) else 0
    onDev (fun v => raise 0x0007 ctx (leBytes 4 step ++ leBytes 1 (why v))
      (modRing r (fun x => { x with state := 0 }) (freeNext v))) w

/-- A held boundary whose condition has ended fetches again (R406). -/
def releaseHeld (r : Nat) (w : Work) : Work :=
  let x := getRing w.dev r
  if !x.boundaryHeld then w
  else
    runAcc (readStep x.ctx.toNat) (fun s w => if castHeld w.dev x.ctx.toNat s then w else onDev (newPass r) w)
      (fun st _ w => onDev (replayFail r st) w) w

/-- Every held boundary looked at again. -/
def releaseAll (w : Work) : Work :=
  ((w.dev.rings.filter (fun c => c.2.boundaryHeld)).map (·.1)).foldl (fun w r => releaseHeld r w) w

/-- Descriptors of a ring that have not completed (R304). -/
def outstanding (v : Dev) (r : Nat) : List Desc := v.descs.filter (fun x => x.ring = r && x.sub.isNone && !x.orphan)

/-- STEP_BOUNDARY (R232): every descriptor of the pass has completed. -/
def stepBoundary (r : Nat) (w : Work) : Work :=
  let x := getRing w.dev r
  let ctx := x.ctx.toNat
  if x.boundaryHeld then releaseHeld r w
  else if !(x.enable && x.mode = 1 && x.state = 4 && decide (x.progLen.toNat ≤ x.head.toNat) && (outstanding w.dev r).isEmpty) then w
  else
    runAcc (boundaryRecord r ctx (getCtx w.dev ctx).stepRec) (boundaryNext r ctx)
      (fun st _ w => onDev (replayFail r st) w) w

/-- RING_CTRL written (R302, R331, R492). -/
def ringCtrl (r : Nat) (en start : Bool) (w : Work) : Work :=
  let x := getRing w.dev r
  let w := if en && !x.enable then onDev (ringOn r) w else if !en && x.enable then onDev (ringOff r) w else w
  if start && en then replayStart r w else w

/-- RING_CFG as a register (R302). -/
def ringCfg (x : Ring) : W64 :=
  place 0 x.sizeLog2 ||| place 5 x.cqLog2 ||| place 10 x.ctx ||| place 16 x.mode ||| place 18 x.dbLine ||| place 30 x.dbSlot |||
    place 33 x.progLen

/-- A write of ring r's registers, by granule (R302). -/
def ringWrite (r g : Nat) (b : Bar) (w : Work) : Work :=
  let x := getRing w.dev r
  if g = 3 then (if b.lo then ringCtrl r (bitAt 0 b.val) (bitAt 1 b.val) w else w)
  else if x.enable then w
  else if g = 0 then onDev (setRing r { x with base := b.merge x.base }) w
  else if g = 1 then onDev (setRing r { x with cqBase := b.merge x.cqBase }) w
  else
    let n := b.merge (ringCfg x)
    onDev (setRing r { x with
      sizeLog2 := fld 5 0 n, cqLog2 := fld 5 5 n, ctx := fld 6 10 n, mode := fld 2 16 n, dbLine := fld 12 18 n
      dbSlot := fld 3 30 n, progLen := fld 21 33 n }) w

/-! ### Doorbells (R316 to R319) -/

/-- A line asked for: with RdShared, or by polls where CXL.cache is off (R316, R319). -/
def acquireLine (i : Nat) (v : Dev) : Dev :=
  if v.cxl.cacheEn then (if v.cxl.linkUp then emit (.rdShared i) v else v)
  else { v with timers := tabPut 0 v.timers (tmPoll i) (now v - v.attn.pollInterval.setWidth 64) }

/-- A write of DB_LINE[i] (R316). -/
def dbWrite (i : Nat) (b : Bar) (v : Dev) : Dev :=
  let l := getDb v i
  let n := b.merge (placeB 0 l.valid ||| place 6 l.addr)
  let on := if b.lo then bitAt 0 n else l.valid
  if !l.valid then
    let v := setDb i { l with addr := fld 46 6 n, valid := on, held := false, polled := false } v
    if on then acquireLine i v else v
  else if on then v
  else if v.rings.any (fun c => c.2.enable && c.2.mode = 0 && c.2.dbLine.toNat = i) then v
  else
    let v := lineReread i (setDb i { l with valid := false, held := false, polled := false, data := 0 } v)
    if l.held then emit (.cleanEvict i) v else v

/-- DOORBELL_SNOOP (R317): the line is given up, the snoop answered, and the line asked for again. -/
def doorbellSnoop (i : Nat) (v : Dev) : Dev :=
  let l := getDb v i
  if l.valid && l.held && v.cxl.cacheEn && v.cxl.linkUp then
    ctrAdd 0x3FF 3 1 (emit (.rdShared i) (emit (.snoopAnswer i) (setDb i { l with held := false } v)))
  else v

/-- DOORBELL_DATA (R317, R318): the data of a RdShared, or its refusal, after which the line is polled. -/
def doorbellData (i : Nat) (line : BitVec 512) (ok : Bool) (v : Dev) : Dev :=
  let l := getDb v i
  if !l.valid || l.held || !v.cxl.cacheEn || !v.cxl.linkUp then v
  else if ok then lineReread i (takeLine i line (setDb i { l with held := true, polled := false, data := line } v))
  else setDb i { l with polled := true } v

/-- DOORBELL_POLL (R319): a read of a registered line with CXL.cache disabled, or of one whose RdShared was refused, which
is asked for again. -/
def doorbellPoll (i : Nat) (line : BitVec 512) (ok : Bool) (v : Dev) : Dev :=
  let l := getDb v i
  if !l.valid || !v.cxl.linkUp || !(!v.cxl.cacheEn || l.polled) || !timerDue v (tmPoll i) v.attn.pollInterval.toNat then v
  else
    let v := ctrAdd 0x3FF 4 1 (emit (.dbRead i) (timerMark (tmPoll i) v))
    let v := if ok then lineReread i (takeLine i line v) else v
    if l.polled && v.cxl.cacheEn then emit (.rdShared i) v else v

/-! ### Fetch (R304, R308, R314, R481) -/

/-- Completion slots a ring has left for a reservation (R314). -/
def queueRoom (x : Ring) : Nat := 2 ^ x.cqLog2.toNat - x.reserved - (x.cqWritten - x.cqHead).toNat

/-- A ring may fetch: held by nothing, of a running context, with units left and fewer than 256 descriptors not complete. -/
def mayFetch (v : Dev) (r : Nat) : Bool :=
  let x := getRing v r
  v.blk.ready && x.enable && (getCtx v x.ctx.toNat).state = 1 && decide ((outstanding v r).length < 256) &&
    (if x.mode = 0 then x.state ≠ 2 && x.state ≠ 3 && x.tail ≠ x.head
     else x.state = 4 && !x.boundaryHeld && decide (x.head.toNat < x.progLen.toNat))

/-- One unit of a ring (R288, R303). -/
def ringUnit (x : Ring) (i : Nat) : Acc (List Byte) := do
  let a := x.base + BitVec.ofNat 64 (64 * (i % 2 ^ x.sizeLog2.toNat))
  hostAsks true (← get).dev.cxl.cacheEn (edge x.ctx.toNat) a 64 64
  readBytes (edge x.ctx.toNat) a 64

/-- A descriptor that context 0 fetches in park leaves it, a TEST of kind DEVICE aside (R481). -/
def parkFetch (x : Desc) (v : Dev) : Dev :=
  if v.pace.parkState = 0 || (x.cls = 0xD && testKind x.bytes = 0x0F) then v else parkLeave v

/-- The core whose store stages what a ring fetches, and holds the stream table entry of the fetch (R19, R239, R240, R261; which
core is log 88's choice). -/
def fetchCore (r : Nat) : Nat := r % 32

/-- A descriptor enters the staging area: its header and class are checked, its slots reserved, and the head moves on. The fetch
waits where the stream table is full (R240). Where a check of it has met an uncorrectable word, its context is on the failure path
and its parts are aborted (R256, R416). -/
def stage (r : Nat) : Acc Unit := do
  let v := (← get).dev
  let ring := getRing v r
  let ctx := ring.ctx.toNat
  let pos := ring.head.toNat
  if (stabFree v (fetchCore r)).isNone then throw .wait
  let replay := ring.mode ≠ 0
  let first ← ringUnit ring pos
  let n := sizeUnits (leAt first 0 1)
  if !replay && decide ((ring.tail - ring.head).toNat < n) then throw .wait
  let more ← ((upto n).drop 1).mapM (fun k => ringUnit ring (pos + k))
  let raw := first ++ more.flatten
  let step ← readStep ctx
  let ok := headerOk raw replay
  let bs := if ok then stepIndexed (getCtx v ctx) step raw else raw
  let x : Desc :=
    { id := v.nextDesc, ring := r, ctx := ctx, unitIndex := ring.head, step := BitVec.ofNat 32 step, time := now v, bytes := bs
      cls := leAt raw 0 1 % 16, hostFed := !replay }
  let units ← if ok then planOf x else pure none
  let x := withParts x units
  let need := recordSlots x.parts.length
  if queueRoom ring < need then throw .wait
  modify (onDev (fun v =>
    let (x, v) := takeSeq ok { x with slots := need } (stabPass (fetchCore r) (.fetch r) v)
    let goes := (getCtx v ctx).state = 1
    let held := x.cls = 9 && units.isSome && goes
    let v := modRing r (fun q => settle { q with
      head := q.head + BitVec.ofNat 32 n, reserved := q.reserved + need
      waiting := if held then some x.id else q.waiting, state := if held then 2 else q.state }) v
    let v := countQueues x (parkFetch x { v with descs := v.descs ++ [x], nextDesc := x.id + 1 })
    if goes then v else abortParts (fun q => q.id = x.id) v))

/-- A ring that cannot be read stops; where an uncorrectable error is why, its context enters the failure path (R256, R305). No
descriptor has a USER_TAG for CTX_FAILED then: it is a free value (log 16). -/
def fetchFail (r : Nat) (st : Byte) (v : Dev) : Dev :=
  let v := ringError r 3 v
  if st = stMemoryUe then failCtx (getRing v r).ctx.toNat (freeVal v).toNat r st.toNat (freeNext v) else v

/-- DESCRIPTOR_FETCH (R240, R304, R305): a wait for a stream table entry is counted. -/
def descriptorFetch (r : Nat) (w : Work) : Work :=
  if !mayFetch w.dev r then w
  else
    runAccOr (stage r) (fun _ w => w) (fun st _ w => onDev (fetchFail r st) w)
      (fun w => if (stabFree w.dev (fetchCore r)).isNone then onDev (stabWait (fetchCore r) (.fetch r)) w else w) w

/-! ### Parts and descriptors complete (R309 to R315, R329) -/

/-- A sub-descriptor that a kernel's part launched is still under way (R137, R139). -/
def subsOpen (v : Dev) (d p : Nat) : Bool := v.descs.any (fun y => y.parent = some (d, p))

/-- A failed part of a running replay puts its context on the failure path (R234, R416). -/
def replayPart (x : Desc) (st : Byte) (v : Dev) : Dev :=
  let r := getRing v x.ring
  if 0x10 ≤ st.toNat && x.sub.isNone && !x.orphan && r.enable && r.mode = 1 then failCtxBy x st v else v

/-- What a part's completion records of it, and what it sets off (R309, R469, R472). -/
def recordPart (x : Desc) (p : Nat) (st : Byte) (v : Dev) : Dev :=
  replayPart x st (traceEnd x p st (modPart x.id p (fun q => { q with state := .done }) v))

/-- PART_COMPLETE (R309): a part that has ended records its status; the destination of one that its core's fence ended is undefined
from here on (R25, R310). -/
def partComplete (d p : Nat) (w : Work) : Work :=
  match getDesc w.dev d with
  | none => w
  | some x =>
    match x.parts[p]? with
    | none => w
    | some q =>
      if q.state ≠ .ended || subsOpen w.dev d p then w
      else
        let w := if q.status = stFenced then freeDest { w with dest := destsOf x q p w } else w
        onDev (recordPart x p q.status) w

/-- A step of a descriptor's completion that may fail without ending the rest; answers whether it was done. An uncorrectable error
that it meets puts the descriptor's context on the failure path (R256, R505). -/
def attempt (x : Desc) (m : Acc Unit) : Acc Bool :=
  tryCatch (do
    ueFails (failCtxBy x stMemoryUe) m
    pure true) (fun e =>
      match e with
      | .wait => throw .wait
      | .fail _ _ => pure false)

/-- A record is due (R315). -/
def recordDue (x : Desc) : Bool := x.hostFed || 0x10 ≤ (overallStatus x).toNat || natBit (fieldOf x 0 1) 6

/-- CMPL of a descriptor that asks for it (R306, R322). -/
def raiseCmpl (x : Desc) (v : Dev) : Dev :=
  if natBit (fieldOf x 0 1) 7 then
    raise 0x0001 x.ctx (leBytes 8 (userTag x) ++ leBytes 2 x.ring ++ leBytes 1 (overallStatus x).toNat) v
  else v

/-- What a completed descriptor leaves with its ring: its reservation released, and its flags in the pass (R232, R314). -/
def ringDone (x : Desc) (v : Dev) : Dev :=
  if x.orphan then v
  else modRing x.ring (fun r =>
    { r with reserved := r.reserved - x.slots
             passFlags := if r.mode = 1 then Flags.join r.passFlags (overallFlags x) else r.passFlags }) v

/-- The version and the signal, then the record, then CMPL; a queue that cannot be written stops its ring (R305, R313). The record
of a descriptor whose ring has been enabled anew since, which dropped its reservation, waits for room (R302, log 46). -/
def completeBody (x : Desc) : Acc Unit := do
  let _ ← attempt x (completeEffects x)
  if recordDue x then
    if x.orphan && decide (queueRoom (getRing (← get).dev x.ring) < x.slots) then throw .wait
    let seen ← attempt x (writeRecord x)
    modify (onDev (if seen then raiseCmpl x else ringError x.ring 3))
  modify (onDev (fun v => dropDesc x.id (countDone x (ringDone x v))))

/-- DESCRIPTOR_COMPLETE (R313): every part has recorded its status. -/
def descriptorComplete (d : Nat) (w : Work) : Work :=
  match getDesc w.dev d with
  | none => w
  | some x =>
    if x.sub.isSome || !allDone x then w else runAcc (completeBody x) (fun _ w => w) (fun _ _ w => w) w

/-! ### FENCE, WAIT and SIGNAL (R328 to R330) -/

/-- Every earlier descriptor of the ring has completed (R328). -/
def earlierGone (v : Dev) (x : Desc) : Bool :=
  !(v.descs.any (fun y => y.ring = x.ring && y.sub.isNone && y.orphan = x.orphan && decide (y.id < x.id)))

/-- FENCE (R328): with one memory, what has completed is visible at every scope. -/
def fence (d : Nat) (w : Work) : Work :=
  match startable w.dev d 0 8 with
  | some (x, _) => if earlierGone w.dev x then runPart d 0 (pure ()) w else w
  | none => w

/-- SIGNAL (R329). -/
def signal (d : Nat) (w : Work) : Work :=
  match startable w.dev d 0 10 with
  | some (x, _) =>
    if earlierGone w.dev x then runPart d 0 (addEpoch x.ctx (fieldOf x 16 1) (fieldOf x 24 8)) w else w
  | none => w

/-- The value a WAIT waits for (R330). -/
def waitValue (x : Desc) : Nat := (fieldOf x 24 8 + x.step.toNat * fieldOf x 32 4) % 2 ^ 64

/-- A ring whose WAIT has completed fetches on, unless an error has stopped it (R305). -/
def waitOver (r : Nat) (v : Dev) : Dev :=
  modRing r (fun x => if x.state = 3 then { x with waiting := none }
    else settle { x with waiting := none, state := if x.mode = 0 then 0 else 4 }) v

/-- A WAIT of a ring that its ring's WAIT it is, and may start. -/
def waiter (v : Dev) (d : Nat) : Option Desc :=
  match startable v d 0 9 with
  | some (x, _) => if (getRing v x.ring).waiting = some d then some x else none
  | none => none

/-- WAIT (R330): it completes once the counter has reached its value; until then the command changes nothing. -/
def waitRun (d : Nat) (w : Work) : Work :=
  match waiter w.dev d with
  | some x =>
    runPart d 0 (do
      let v ← readEpoch x.ctx (fieldOf x 16 1)
      if v < waitValue x then throw .wait
      modify (onDev (waitOver x.ring))) w
  | none => w

/-- A WAIT ends with TIMEOUT and its ring stops; one that has stopped keeps its ERR (R305, R330, log 46). -/
def timedOut (x : Desc) (v : Dev) : Dev :=
  ringError x.ring 4 (modRing x.ring (fun r => { r with waiting := none }) (endPart x.id 0 stTimeout 0 {} (startPart x.id 0 v)))

/-- The counter of a WAIT whose time has passed cannot be read: an uncorrectable error ends the part with it (R256), and anything
else with TIMEOUT. -/
def waitUnread (x : Desc) (st : Byte) (a : W64) (v : Dev) : Dev :=
  if st = stMemoryUe then endPart x.id 0 st a {} (startPart x.id 0 v) else timedOut x v

/-- WAIT_TIMEOUT (R330): its time has passed and its counter has not reached its value. -/
def waitTimeout (d : Nat) (w : Work) : Work :=
  match waiter w.dev d with
  | some x =>
    let t := fieldOf x 40 8
    if t ≠ 0 && decide (t ≤ since w.dev x.time) then
      runAcc (readEpoch x.ctx (fieldOf x 16 1)) (fun v w => if v < waitValue x then onDev (timedOut x) w else w)
        (fun st a w => onDev (waitUnread x st a) w) w
    else w
  | none => w

/-! ### Abort notices (R417) -/

/-- ABORT_NOTICE_RECEIVED (R417). -/
def abortNotice (gno : Nat) (w : Work) : Work :=
  let g := getGroup w.dev gno
  if !g.enable || (getCtx w.dev g.ctx.toNat).state ≠ 1 then w
  else
    let hit (x : Desc) : Bool :=
      (x.cls = 6 && (collOf x.bytes).group = gno) || (x.cls = 7 && copyDir x.bytes ≠ 0 && fieldOf x 36 1 = gno)
    let w := (w.dev.descs.filter hit).foldl (fun w x => remoteFail x w) w
    onDev (failCtx g.ctx.toNat 0 0xFFFF stRemote.toNat) w

/-! ### Attention (R320 to R326, R333) -/

def setAttn (f : Attn → Attn) (v : Dev) : Dev := { v with attn := f v.attn }

/-- An attention record (R321). -/
def attnBytes (e : AttnEvent) (dropped phase : Nat) : List Byte :=
  leBytes 8 e.time.toNat ++ leBytes 2 e.code.toNat ++ leBytes 1 e.ctx.toNat ++ leBytes 1 0 ++ leBytes 4 e.seq.toNat ++
    (e.payload ++ List.replicate 40 0).take 40 ++ leBytes 4 dropped ++ leBytes 3 0 ++ leBytes 1 phase

/-- Events beyond the 64 that can be held are dropped and counted (R323, R324). -/
def attnSpill (a : Attn) : Attn :=
  let excess := attnHeld a - 64
  { a with held := a.held.take (a.held.length - excess), dropped := satAdd a.dropped excess
           droppedSince := a.droppedSince + BitVec.ofNat 32 excess }

/-- ATTN_HELD_HW follows ATTN_STATUS.HELD (R462). -/
def heldHigh (v : Dev) : Dev := ctrHigh 0x3FF 5 (attnHeld v.attn) v

/-- A failed record write (R324). -/
def attnFail (v : Dev) : Dev :=
  heldHigh (setAttn (fun a => attnSpill { a with enable := false, fault := true, pulseDue := a.pulseDue || a.pulseEn }) v)

/-- An attention record's bytes written at an address; whether a write on the link fails there is a free value (R288, R324, log
42). -/
def attnPut (a : W64) (bs : List Byte) : Acc Unit := do
  match ← translate (edge 0) a true with
  | .host _ =>
    let v := (← get).dev
    modify (onDev freeNext)
    if (freeVal v).getLsbD 0 then throw (.fail stHostMemory a)
  | .dev _ => pure ()
  hostAsks false (← get).dev.cxl.cacheEn (edge 0) a 64 64
  writeBytes (edge 0) a bs

/-- ATTN_RECORD_WRITE (R320, R321, R324, R326): the first held event, once the ring has room. -/
def attnRecordWrite (w : Work) : Work :=
  let a := w.dev.attn
  match a.held with
  | [] => w
  | e :: rest =>
    if attnRoom a = 0 then w
    else
      let len := 2 ^ a.sizeLog2.toNat
      let i := a.tail.toNat
      runAcc (ueFailsOpen 0 (attnPut (a.base + BitVec.ofNat 64 (64 * (i % len))) (attnBytes e a.droppedSince.toNat (phaseOf i len))))
        (fun _ w => onDev (setAttn (fun a =>
          { a with held := rest, tail := a.tail + 1, droppedSince := 0, pulseDue := a.pulseDue || a.pulseEn })) w)
        (fun st a w' => onDev (fun _ => attnFail w'.dev) (keepUe w st a w')) w

/-- A write of ATTN_CFG (R324, R333); a smaller ring has less room, so that more of the events are held (R462). -/
def attnCfg (x : W64) (v : Dev) : Dev :=
  let v := setAttn (fun a => { a with sizeLog2 := clampW 6 16 (fld 5 0 x), pulseEn := bitAt 9 x }) v
  let on := bitAt 8 x
  if on && !v.attn.enable then
    (if (getCtx v 0).enable then setAttn (fun a => { a with enable := true, head := 0, tail := 0 }) v else v)
  else heldHigh (if on then v else setAttn (fun a => attnSpill { a with enable := false }) v)

/-- A write of ATTN_HEAD (R333), which sets the room that the ring has (R462). -/
def attnHead (x : W32) (v : Dev) : Dev := heldHigh (setAttn (fun a => { a with head := x }) v)

/-- W1C bits of ATTN_STATUS (R333). -/
def attnStatus (x : W32) (v : Dev) : Dev :=
  setAttn (fun a => { a with
    fault := a.fault && !x.getLsbD 7, dropped := if x >>> 16 = 0 then a.dropped else 0 }) v

/-- Writes of DB_CTRL, the ATTN_ registers and RING_CTX_INVAL, by granule (R251, R333). -/
def attnWrite (g : Nat) (b : Bar) (v : Dev) : Dev :=
  if g = 0 then
    (if b.lo then setAttn (fun a => { a with pollInterval := clampW 1000 1000000 (fld 20 0 b.val) }) v else v)
  else if g = 1 then setAttn (fun a => if a.enable then a else { a with base := b.merge a.base }) v
  else if g = 2 then
    let v := if b.lo then attnCfg b.val v else v
    if b.hi then attnHead (fld 32 32 b.val) v else v
  else if g = 3 then (if b.hi then attnStatus (fld 32 32 b.val) v else v)
  else invalWrite b v

/-- ATTN_PULSE_START (R326): while ready, at least 4,000 units after the last pulse or the return to ready. -/
def pulseStart (v : Dev) : Dev :=
  let a := v.attn
  let gap := match a.gapFrom with
    | none => true
    | some t => decide (4000 ≤ since v t)
  if a.pulseDue && v.power.rbHigh && !a.pulseLow && gap then
    setAttn (fun a => { a with pulseLow := true, pulseDue := false, pulseStart := now v }) v
  else v

/-- ATTN_PULSE_END (R326): a pulse lasts at least 1,000 units. -/
def pulseEnd (v : Dev) : Dev :=
  if v.attn.pulseLow && decide (1000 ≤ since v v.attn.pulseStart) then
    setAttn (fun a => { a with pulseLow := false, gapFrom := some (now v) }) v
  else v

/-! ### Thermal trips and rail faults (R479, R483) -/

/-- What a trip leaves of a ring: its registers, with nothing fetched any more. -/
def ringCut (r : Ring) : Ring := { r with state := if r.state = 3 then 3 else 0, boundaryHeld := false, waiting := none, reserved := 0 }

/-- The rails of a tripped module off: work ends, ports stop, the link is down, RB_L is low and READY 0 (R479, R483, R499). No
register that software writes changes (R494). -/
def railsOff (v : Dev) : Dev :=
  let v := linkReset (stopPorts v)
  { v with
    power := { (loseMem .all v.power) with state := .tripped, rbHigh := false, railsUp := false, hot := !allCool v.sns }
    blk := { v.blk with ready := false, busyCause := 1 }
    cxl := { v.cxl with memoryActive := false }
    fab := { v.fab with rxWaits := [] }
    descs := [], engines := [], chisels := [], stab := [], stabWaits := [], rings := tabMap {} (fun _ => ringCut) v.rings
    attn := { v.attn with pulseLow := false, pulseDue := false }
    arm := { v.arm with wdtArmed := false, firmware := false, memoryInit := false } }

/-- The held events written out as far as the ring and the host take them, so that the record of a trip is in host memory before
the link goes down (R483, R499; log 39). -/
def attnFlush (w : Work) : Work := (w.dev.attn.held).foldl (fun w _ => attnRecordWrite w) w

/-- THERMAL_TRIP (R479, R483): THERMAL of kind TRIP and its record, unless PERST_L is low (R321); then the rails are off, every
memory has lost its contents, and the module is TRIPPED. -/
def thermalTrip (src : TripSource) (w : Work) : Work :=
  let v := w.dev
  if v.power.state = .off || v.power.state = .tripped || !tripHolds v.sns src then w
  else
    let w := match tripPayload v.sns src with
      | some c => if v.power.perstLow then w else attnFlush (onDev (raiseThermal 2 c.1 c.2) w)
      | none => w
    { w with dev := railsOff w.dev, wiped := .all, stores := w.stores.filter (fun x => x.space ≠ .dev) }

/-! ### Meanings -/

/-- CTX_ENABLE (R299): a 64-bit write of RING_CTX_CFG with ENABLE = 1. -/
def execCtxEnable (x : Fin 64) (w : HostWrite) (s : State) : Host.Outcome State Fault Refusal :=
  runWork (guarded 0x10000 w.ide (onDev (ctxWrite x.val 4 ⟨true, true, w.value ||| placeB 31 true⟩))) s
/-- CTX_DISABLE (R299): a 64-bit write of RING_CTX_CFG with ENABLE = 0. -/
def execCtxDisable (x : Fin 64) (w : HostWrite) (s : State) : Host.Outcome State Fault Refusal :=
  runWork (guarded 0x10000 w.ide (onDev (ctxWrite x.val 4 ⟨true, true, w.value &&& ~~~placeB 31 true⟩))) s
/-- CTX_INVAL (R251). -/
def execCtxInval (x : Fin 64) (ide : Bool) (s : State) : Host.Outcome State Fault Refusal :=
  runWork (guarded 0x48020 ide (onDev (invalWrite ⟨true, false, BitVec.ofNat 64 x.val ||| placeB 31 true⟩))) s
/-- CTX_INVAL_DONE (R251). -/
def execCtxInvalDone (s : State) : Host.Outcome State Fault Refusal := runDev invalDone s
/-- RING_ENABLE (R302). -/
def execRingEnable (r : Fin 4096) (ide : Bool) (s : State) : Host.Outcome State Fault Refusal :=
  runWork (guarded 0x20000 ide (ringWrite r.val 3 ⟨true, false, 1⟩)) s
/-- RING_DISABLE (R302). -/
def execRingDisable (r : Fin 4096) (ide : Bool) (s : State) : Host.Outcome State Fault Refusal :=
  runWork (guarded 0x20000 ide (ringWrite r.val 3 ⟨true, false, 0⟩)) s
/-- REPLAY_START (R331): a write of RING_CTRL with ENABLE = 1 and START = 1. -/
def execReplayStart (r : Fin 4096) (ide : Bool) (s : State) : Host.Outcome State Fault Refusal :=
  runWork (guarded 0x20000 ide (ringWrite r.val 3 ⟨true, false, 3⟩)) s
/-- DB_LINE_REGISTER (R316): a 64-bit write of DB_LINE with VALID = 1. -/
def execDbLineRegister (i : Fin 4096) (w : HostWrite) (s : State) : Host.Outcome State Fault Refusal :=
  runWork (guarded 0x40000 w.ide (onDev (dbWrite i.val ⟨true, true, w.value ||| 1⟩))) s
/-- DB_LINE_RELEASE (R316). -/
def execDbLineRelease (i : Fin 4096) (ide : Bool) (s : State) : Host.Outcome State Fault Refusal :=
  runWork (guarded 0x40000 ide (onDev (dbWrite i.val ⟨true, false, 0⟩))) s
/-- DOORBELL_SNOOP (R317). -/
def execDoorbellSnoop (i : Fin 4096) (s : State) : Host.Outcome State Fault Refusal := runDev (doorbellSnoop i.val) s
/-- DOORBELL_DATA (R317). -/
def execDoorbellData (i : Fin 4096) (line : BitVec 512) (ok : Bool) (s : State) : Host.Outcome State Fault Refusal :=
  runDev (doorbellData i.val line ok) s
/-- DOORBELL_POLL (R319). -/
def execDoorbellPoll (i : Fin 4096) (line : BitVec 512) (ok : Bool) (s : State) : Host.Outcome State Fault Refusal :=
  runDev (doorbellPoll i.val line ok) s
/-- DESCRIPTOR_FETCH (R304). -/
def execDescriptorFetch (r : Fin 4096) (s : State) : Host.Outcome State Fault Refusal := runWork (descriptorFetch r.val) s
/-- PART_COMPLETE (R309). -/
def execPartComplete (d p : Nat) (s : State) : Host.Outcome State Fault Refusal := runWork (partComplete d p) s
/-- DESCRIPTOR_COMPLETE (R313). -/
def execDescriptorComplete (d : Nat) (s : State) : Host.Outcome State Fault Refusal := runWork (descriptorComplete d) s
/-- FENCE (R328). -/
def execFence (d : Nat) (s : State) : Host.Outcome State Fault Refusal := runWork (fence d) s
/-- WAIT (R330). -/
def execWait (d : Nat) (s : State) : Host.Outcome State Fault Refusal := runWork (waitRun d) s
/-- WAIT_TIMEOUT (R330). -/
def execWaitTimeout (d : Nat) (s : State) : Host.Outcome State Fault Refusal := runWork (waitTimeout d) s
/-- SIGNAL (R329). -/
def execSignal (d : Nat) (s : State) : Host.Outcome State Fault Refusal := runWork (signal d) s
/-- STEP_BOUNDARY (R232). -/
def execStepBoundary (r : Fin 4096) (s : State) : Host.Outcome State Fault Refusal := runWork (stepBoundary r.val) s
/-- ABORT_NOTICE_RECEIVED (R417). -/
def execAbortNoticeReceived (g : Byte) (s : State) : Host.Outcome State Fault Refusal := runWork (abortNotice g.toNat) s
/-- ATTN_RECORD_WRITE (R321). -/
def execAttnRecordWrite (s : State) : Host.Outcome State Fault Refusal := runWork (poweredWork attnRecordWrite) s
/-- THERMAL_TRIP (R483). -/
def execThermalTrip (src : TripSource) (s : State) : Host.Outcome State Fault Refusal := runWork (thermalTrip src) s
/-- ATTN_ENABLE (R324): a 32-bit write of ATTN_CFG with ENABLE = 1. -/
def execAttnEnable (w : HostWrite) (s : State) : Host.Outcome State Fault Refusal :=
  runWork (guarded 0x48010 w.ide (onDev (attnWrite 2 ⟨true, false, w.value ||| placeB 8 true⟩))) s
/-- ATTN_HEAD_WRITE (R333): a 32-bit write of ATTN_HEAD. -/
def execAttnHeadWrite (w : HostWrite) (s : State) : Host.Outcome State Fault Refusal :=
  runWork (guarded 0x48014 w.ide (onDev (attnWrite 2 (barOf 0x48014 false w.value)))) s
/-- ATTN_PULSE_START (R326). -/
def execAttnPulseStart (s : State) : Host.Outcome State Fault Refusal := runDev pulseStart s
/-- ATTN_PULSE_END (R326). -/
def execAttnPulseEnd (s : State) : Host.Outcome State Fault Refusal := runDev pulseEnd s

end Sys2Proof.Machine
end

