-- ==== Sys2Proof/Machine/Moulds.lean ====
section
/-! DEFINITION. Roles, pairings, the cast and the stream ring (R385 to R391, R404 to R410). -/

namespace Sys2Proof.Machine

open Sys2Proof

def setMould (f : Mould → Mould) (v : Dev) : Dev := { v with mould := f v.mould }

/-- A write of MOULD_ROLE (R385, R386, R439). -/
def roleWrite (x : BitVec 3) (v : Dev) : Dev :=
  if 4 ≤ x.toNat || v.mould.pairs.any (fun q => q.enable) || (v.arm.postStacks ≠ 0 && x ≠ 0) then v
  else ownChange (setMould (fun m => { m with role := x }) v)

/-! ### Pairings (R387 to R391) -/

/-- The worker link is the fifth pair; the four before it are charge slots. -/
def isLink (k : Nat) : Bool := k = 4

/-- The pair group's record is right: an enabled DATA group of two, owned by the pair's context, with the charge at rank 0,
the mould at rank 1, and the partner as the other member (R387). -/
def pairGroupOk (v : Dev) (k : Nat) (q : Pair) : Bool :=
  let g := getGroup v q.group.toNat
  let mine := if isLink k then 0 else 1
  g.enable && !g.kind && g.record.members = 2 && g.ctx = q.ctx && g.record.ownRank = mine &&
    (memberOf g (1 - mine)).node = q.node

/-- Why a pairing is refused at its enable; 0 where it is not (R387). -/
def pairRefusal (v : Dev) (k : Nat) (q : Pair) : Nat :=
  let m := getMember v q.node.toNat
  let c := getCtx v q.ctx.toNat
  if v.mould.role ≠ (if isLink k then 1 else 2) then 1
  else if m.state ≠ 2 || m.incarn ≠ q.incarn then 2
  else if m.feedId = v.power.straps.feedId && !q.override then 3
  else if !pairGroupOk v k q then 4
  else if !c.enable || (!isLink k && c.cls ≠ 1) then 5
  else if (v.mould.pairs.zipIdx).any (fun p => p.2 ≠ k && p.1.enable && p.1.node = q.node) then 6
  else 0

/-- A pairing frame sent to the partner over the pair group (R388). -/
def sendPairing (q : Pair) (refuse : Bool) (v : Dev) : Dev :=
  let g := getGroup v q.group.toNat
  let e := memberOf g (1 - g.record.ownRank)
  (sendMsg q.group.toNat e.node.toNat g.record.portMask
    [.pairing e.rgroup v.fab.nodeId q.node v.power.straps.feedId q.override refuse] v).getD v

/-- A pairing frame of a node can be answered over a group: an enabled DATA group of two whose other member it is (R387, R388; log
125). -/
def mayAnswer (v : Dev) (g : Byte) (node : BitVec 10) : Bool :=
  let c := getGroup v g.toNat
  c.enable && !c.kind && c.record.members = 2 && decide (c.record.ownRank < 2) &&
    (memberOf c (1 - c.record.ownRank)).node = node

/-- The enabled side that a pairing frame of a node in a group concerns: the worker link where this module is the charge, or the charge
slot that names the node (R387, R388). -/
def sideOf (v : Dev) (g : Byte) (node : BitVec 10) : Option Nat :=
  if (getGroup v g.toNat).record.ownRank = 0 then (if (getPair v 4).enable then some 4 else none)
  else (upto 4).find? (fun k => (getPair v k).enable && (getPair v k).node = node)

/-- A side meets a pairing frame that is not its own partner's in its own group: its sender is refused, and so is a waiting side that
names the sender by another group (R387, R388). -/
def refuseOther (k : Nat) (g : Byte) (node : BitVec 10) (v : Dev) : Dev :=
  let q := getPair v k
  if q.group = g && q.node = node then v
  else
    let v := if q.node = node && q.state = 1 then setPair k { q with state := 3, err := 7 } v else v
    sendPairing { q with group := g, node := node } true v

/-- A pairing frame that names another side than the one it meets, or none that is enabled yet, which answers it then (R388, log
125). -/
def pairingOther (g : Byte) (node : BitVec 10) (v : Dev) : Dev :=
  if !mayAnswer v g node then v
  else
    match sideOf v g node with
    | some k => refuseOther k g node v
    | none => setMould (fun m => { m with asked := if m.asked.contains (g, node) then m.asked else m.asked ++ [(g, node)] }) v

/-- The pairing frames kept for a side that is enabled now (R388). -/
def answerAsked (k : Nat) (v : Dev) : Dev :=
  let mine (a : Byte × BitVec 10) : Bool := mayAnswer v a.1 a.2 && sideOf v a.1 a.2 = some k
  (v.mould.asked.filter mine).foldl (fun v a => refuseOther k a.1 a.2 v)
    (setMould (fun m => { m with asked := m.asked.filter (fun a => !mine a) }) v)

/-- ENABLE = 1 (R387): REFUSED with its reason, or WAITING, with a pairing frame to the partner; a side that one power feed
refuses says so to its partner, so that both ends are refused (R388). -/
def pairOn (k : Nat) (v : Dev) : Dev :=
  let q := getPair v k
  let e := pairRefusal v k q
  if e ≠ 0 then
    let v := setPair k { q with state := 3, err := BitVec.ofNat 3 e } v
    if e = 3 && pairGroupOk v k q then sendPairing q true v else v
  else
    let q := { q with enable := true, state := 1, err := 0, unprot := false }
    answerAsked k (sendPairing q false (setPair k q v))

/-- ENABLE = 0 (R391). -/
def pairOff (k : Nat) (v : Dev) : Dev :=
  setPair k { (getPair v k) with enable := false, state := 0, err := 0, unprot := false } v

/-- A side that its power feed or its partner's answer has refused, and that can say so (R388). -/
def refusedHere (v : Dev) (k : Nat) (q : Pair) : Bool := q.state = 3 && (q.err = 3 || q.err = 7) && pairGroupOk v k q

/-- PAIRING_FRAME (R388, R389): the partner's frame meets a side that waits. It pairs, or is refused where either side refuses,
the partner names another node, or the feeds are equal without OVERRIDE at both ends. A side that has been refused answers with
its refusal, and one that names another partner with that. -/
def pairingFrame (k : Nat) (m : FabMsg) (v : Dev) : Dev :=
  let q := getPair v k
  match m with
  | .pairing g node names feed ov refuse =>
    if g ≠ q.group || node ≠ q.node then (if refuse then v else pairingOther g node v)
    else if refusedHere v k q then (if refuse then v else sendPairing q true v)
    else if q.state ≠ 1 then v
    else
      let bad := names ≠ v.fab.nodeId || (feed = v.power.straps.feedId && !(ov && q.override))
      if refuse then setPair k { q with state := 3, err := 7 } v
      else if bad then sendPairing q true (setPair k { q with state := 3, err := 7 } v)
      else sendPairing q false (setPair k { q with state := 2, unprot := ov || q.override } v)
  | _ => v

/-- A pairing frame that has arrived reaches the side it is for; where there is none, the side that it concerns (R388). -/
def pairingHeard (m : FabMsg) (v : Dev) : Dev :=
  match m with
  | .pairing g node _ _ _ refuse =>
    match (upto 5).filter (fun k =>
        let q := getPair v k
        (q.enable || q.state = 3) && q.group = g && q.node = node) with
    | [] => if refuse then v else pairingOther g node v
    | ks => ks.foldl (fun v k => pairingFrame k m v) v
  | _ => v

/-- A partner that is lost, has left or has another incarnation breaks its pairings (R391). -/
def breakPairs (node : BitVec 10) (v : Dev) : Dev :=
  setMould (fun m => { m with pairs := m.pairs.map (fun q =>
    if q.state = 2 && q.node = node then { q with state := 4 } else q) }) v

/-! ### The cast (R405 to R407) -/

/-- CAST (R407). -/
def raiseCast (k : Nat) (q : Pair) (v : Dev) : Dev :=
  raise 0x0013 q.ctx.toNat (leBytes 4 q.cast.toNat ++ leBytes 2 q.node.toNat ++ leBytes 1 k ++ leBytes 1 (b2n q.unprot)) v

/-- A write of PERSISTED (R405): within (CAST, LAST_CLOSE] the cast advances, and held boundaries are looked at again. -/
def persistedWrite (k : Nat) (p : W32) (w : Work) : Work :=
  let q := { (getPair w.dev k) with persisted := p }
  if q.cast.toNat < p.toNat && decide (p.toNat ≤ q.lastClose.toNat) then
    let q := { q with cast := p }
    releaseAll (onDev (fun v => if v.mould.attnEn then raiseCast k q (setPair k q v) else setPair k q v) w)
  else onDev (setPair k q) w

/-- A write of MOULD_CHARGE or MOULD_LINK, by granule (R410). -/
def pairWrite (k g : Nat) (b : Bar) (w : Work) : Work :=
  let q := getPair w.dev k
  if g = 0 then
    if q.enable then w
    else
      let n := b.merge (place 0 q.node ||| place 16 q.ctx ||| place 24 q.group ||| place 32 q.incarn)
      onDev (setPair k { q with node := fld 10 0 n, ctx := fld 6 16 n, group := fld 8 24 n, incarn := fld 32 32 n }) w
  else if g = 1 then
    if !b.lo then w
    else
      let on := bitAt 0 b.val
      if q.enable then (if on then w else onDev (pairOff k) w)
      else
        let w := onDev (setPair k { q with override := bitAt 1 b.val }) w
        if on then onDev (pairOn k) w else onDev (pairOff k) w
  else if g = 2 && !isLink k then
    let w := if b.lo && !q.enable then onDev (setPair k { q with cast := fld 32 0 b.val }) w else w
    if b.hi then persistedWrite k (fld 32 32 b.val) w else w
  else w

/-! ### The stream ring (R404, R409) -/

/-- MOULD_CTRL (R409). -/
def ctrlWrite (x : W32) (v : Dev) : Dev :=
  setMould (fun m => { m with castLag := clampW 1 255 (x.setWidth 8), attnEn := x.getLsbD 8 }) v

/-- MOULD_SS_CFG (R409). -/
def streamCfg (x : W64) (v : Dev) : Dev :=
  setMould (fun m =>
    let on := bitAt 8 x
    if m.ssEnable then { m with ssEnable := on }
    else
      let m := { m with ssSize := clampW 20 40 (fld 6 0 x) }
      if on then { m with ssEnable := true, ssHead := 0, ssTail := 0 } else m) v

/-- Bytes written to host memory by CXL.io requests of at most 512 bytes (R288). -/
def bulkWrite (a : W64) (bs : List Byte) : Acc Unit := do
  hostAsks false false (edge 0) a bs.length 512
  writeBytes (edge 0) a bs

/-- Bytes written into the stream ring from a free-running count on, wrapping from its end to its base. -/
def streamWrite (base : W64) (size pos : Nat) (bs : List Byte) : Acc Unit := do
  let o := pos % size
  let n := size - o
  bulkWrite (base + BitVec.ofNat 64 o) (bs.take n)
  if n < bs.length then bulkWrite base (bs.drop n)

/-- STREAM_FORWARD (R288, R404): the record at the head of the queue, once the ring has room for it, and then the tail word. It stays
queued where a read or a write fails; an uncorrectable error puts the context whose record it reads, or context 0, on the failure
path (R256, R505). -/
def streamForward (w : Work) : Work :=
  let m := w.dev.mould
  match m.queue with
  | [] => w
  | it :: rest =>
    let size := 2 ^ m.ssSize.toNat
    if !m.ssEnable || size < (m.ssTail - m.ssHead).toNat + it.bytes then w
    else
      let tail := m.ssTail + BitVec.ofNat 64 it.bytes
      runAcc (do
        let bs ← ueFailsOpen it.ctx (do
          hostAsks true false (edge it.ctx) it.addr it.bytes 4096
          readBytes (edge it.ctx) it.addr it.bytes)
        ueFailsOpen 0 (do
          streamWrite m.ssBase size m.ssTail.toNat bs
          bulkWrite m.ssTailPtr (leBytes 8 tail.toNat)))
        (fun _ w => onDev (fun v =>
          let v := setMould (fun m => { m with queue := rest, ssTail := tail }) v
          match it.closeStep with
          | some s => setPair it.slot { (getPair v it.slot) with lastClose := s } v
          | none => v) w)
        (keepUe w) w

/-- Writes of the mould block's other registers, by granule (R409). -/
def mouldWrite (g : Nat) (b : Bar) (v : Dev) : Dev :=
  if g = 0 then
    let v := if b.lo then roleWrite (fld 3 0 b.val) v else v
    if b.hi then ctrlWrite (fld 32 32 b.val) v else v
  else if g = 1 then setMould (fun m => if m.ssEnable then m else { m with ssBase := b.merge m.ssBase }) v
  else if g = 2 then (if b.lo then streamCfg b.val v else v)
  else if g = 3 then setMould (fun m => if m.ssEnable then m else { m with ssTailPtr := b.merge m.ssTailPtr }) v
  else if g = 4 then setMould (fun m => { m with ssHead := b.merge m.ssHead }) v
  else v

/-! ### Meanings -/

/-- MOULD_ROLE_WRITE (R386): a 32-bit write of MOULD_ROLE. -/
def execMouldRoleWrite (w : HostWrite) (s : State) : Host.Outcome State Fault Refusal :=
  runWork (guarded 0x60000 w.ide (onDev (mouldWrite 0 ⟨true, false, w.value⟩))) s
/-- CHARGE_ENABLE (R387): a write of the word at +8 with ENABLE = 1. -/
def execChargeEnable (k : Fin 5) (w : HostWrite) (s : State) : Host.Outcome State Fault Refusal :=
  runWork (guarded 0x60100 w.ide (pairWrite k.val 1 ⟨true, false, w.value ||| 1⟩)) s
/-- CHARGE_DISABLE (R391): a write of the word at +8 with ENABLE = 0. -/
def execChargeDisable (k : Fin 5) (w : HostWrite) (s : State) : Host.Outcome State Fault Refusal :=
  runWork (guarded 0x60100 w.ide (pairWrite k.val 1 ⟨true, false, w.value &&& ~~~1⟩)) s
/-- PAIRING_FRAME (R388). -/
def execPairingFrame (k : Fin 5) (m : FabMsg) (s : State) : Host.Outcome State Fault Refusal := runDev (pairingFrame k.val m) s
/-- PERSISTED_WRITE (R405): a 32-bit write at +20 of a charge slot. -/
def execPersistedWrite (k : Fin 4) (p : W32) (ide : Bool) (s : State) : Host.Outcome State Fault Refusal :=
  runWork (guarded 0x60100 ide (pairWrite k.val 2 ⟨false, true, place 32 p⟩)) s
/-- STREAM_RING_ENABLE (R409): a 32-bit write of MOULD_SS_CFG with ENABLE = 1. -/
def execStreamRingEnable (w : HostWrite) (s : State) : Host.Outcome State Fault Refusal :=
  runWork (guarded 0x60010 w.ide (onDev (mouldWrite 2 ⟨true, false, w.value ||| placeB 8 true⟩))) s
/-- STREAM_FORWARD (R404). -/
def execStreamForward (s : State) : Host.Outcome State Fault Refusal := runWork (poweredWork streamForward) s

end Sys2Proof.Machine
end

