-- ==== Sys2Proof/Machine/Fabric.lean ====
section
/-! DEFINITION. Ports, frames, membership, forwarding and groups (R334 to R350, R368 to R372). -/

namespace Sys2Proof.Machine

open Sys2Proof

/-! ### Ports (R337, R338, R346, R371) -/

/-- Messages of link management. -/
def linkMessage : FabMsg → Bool
  | .heartbeat => true
  | .ack _ _ => true
  | .identity _ => true
  | .announce _ _ _ _ _ _ _ _ => true
  | .lossAnnounce _ _ _ _ => true
  | .leaveAnnounce _ _ _ => true
  | _ => false

/-- Messages that go from neighbour to neighbour: announces, loss announces and leave announces (R340). -/
def isFlood : FabMsg → Bool
  | .announce _ _ _ _ _ _ _ _ => true
  | .lossAnnounce _ _ _ _ => true
  | .leaveAnnounce _ _ _ => true
  | _ => false

/-- The frames a port has not had acknowledged, dealt again onto the up ports of their masks (R344, R346); those of link
management, which are the port's own, end with it (log 24). -/
def redeal (p : Nat) (v : Dev) : Dev :=
  let mine := v.fab.tx.filter (fun t => t.port = p)
  let v := { v with fab := { v.fab with tx := v.fab.tx.filter (fun t => t.port ≠ p) } }
  (mine.filter (fun t => !linkMessage t.body)).foldl (fun v t =>
    match portsTo v t.dest.toNat t.mask with
    | [] => v
    | p0 :: ps => sendFrame ((p0 :: ps).getD (t.frame / 16 % (ps.length + 1)) p0) t.dest.toNat t.msg t.mask t.frame t.body v) v

/-- A port goes down: its frames are dealt again, and parts that need an unreachable node end (R335, R346). -/
def portDown (p : Nat) (st : BitVec 3) (w : Work) : Work :=
  unreachableFail (onDev (fun v =>
    redeal p (setPort p { (getPort v p) with state := st, lanes := 0, lastTrain := now v, fell := st = 5 } v)) w)

/-- ENABLE = 1 of a port (R337); ignored in park (R481), and with the default configuration until FAB_NODE.ID has been
written (R449). -/
def portOn (p : Nat) (v : Dev) : Dev :=
  if v.pace.parkState ≠ 0 || (v.arm.cfgState = 3 && !v.arm.nodeIdWritten) then v
  else setPort p { (getPort v p) with enable := true, state := 1, lanes := 0, refuse := 0, lastTrain := now v, fell := false } v

/-- ENABLE = 0 of a port. -/
def portOff (p : Nat) (w : Work) : Work :=
  onDev (fun v => setPort p { (getPort v p) with enable := false, refuse := 0 } v) (portDown p 0 w)

/-- A write of FAB_PORT_CFG (R371). -/
def portWrite (p : Nat) (b : Bar) (w : Work) : Work :=
  let q := getPort w.dev p
  if !b.lo then w
  else
    let on := bitAt 0 b.val
    if q.enable then (if on then w else portOff p w)
    else
      let w := onDev (setPort p { q with sideLink := bitAt 1 b.val }) w
      if on then onDev (portOn p) w else w

/-- Lanes of a training: all eight, one complete set of four, or fewer (R337). -/
def lanesOf (low high : Bool) : Nat := if low && high then 8 else if low || high then 4 else 0

/-- This module's identity frame (R337). -/
def ownIdentity (v : Dev) (p : Nat) : Identity :=
  { node := v.fab.nodeId, incarn := v.fab.incarn, straps := v.power.straps, port := BitVec.ofNat 5 p, sideLink := (getPort v p).sideLink }

/-- LANES_TRAINED (R337, R338): the identity frame goes out, or the port is refused for its lanes. -/
def lanesTrained (p : Nat) (low high : Bool) (v : Dev) : Dev :=
  let q := getPort v p
  if !q.enable || q.state ≠ 1 || !v.arm.firmware then v
  else
    let n := lanesOf low high
    if n = 0 then setPort p { q with state := 4, refuse := 6, lanes := 0 } v
    else
      let v := setPort p { q with lanes := n } v
      let msg := v.fab.nextMsg
      sendFrame p 0 msg 0 0 (.identity (ownIdentity v p)) { v with fab := { v.fab with nextMsg := msg + 1 } }

/-- Why a port is refused by its partner's identity; 0 where it is admitted (R338). -/
def identityRefusal (v : Dev) (q : Port) (i : Identity) : Nat :=
  let m := getMember v i.node.toNat
  let otherLife := if q.sideLink then (v.fab.twinState = 1 || v.fab.twinState = 2) && v.fab.twinIncarn ≠ i.incarn
    else (m.state = 1 || m.state = 2) && m.incarn ≠ i.incarn
  if !q.sideLink && i.straps.side ≠ v.power.straps.side then 1
  else if q.sideLink != i.sideLink then 2
  else if q.sideLink && (i.straps.side = v.power.straps.side || i.node ≠ v.fab.nodeId) then 3
  else if !q.sideLink && i.node = v.fab.nodeId then 4
  else if otherLife then 5
  else 0

/-! ### Membership (R339 to R342, R368, R391, R419, R436) -/

/-- MEMBERSHIP (R341, R342). -/
def raiseMembership (node : BitVec 10) (old new : BitVec 3) (incarn : W32) (reason : Nat) (v : Dev) : Dev :=
  if v.fab.attnEn then
    raise 0x0010 0 (leBytes 2 node.toNat ++ leBytes 1 old.toNat ++ leBytes 1 new.toNat ++ leBytes 4 incarn.toNat ++ leBytes 1 reason) v
  else v

/-- PEER_LOST (R436): 0 heartbeat loss, 1 leave, 2 twin lost. -/
def raisePeerLost (node : BitVec 10) (role : BitVec 3) (why : Nat) (incarn : W32) (v : Dev) : Dev :=
  raise 0x0011 0 (leBytes 2 node.toNat ++ leBytes 1 role.toNat ++ leBytes 1 why ++ leBytes 4 incarn.toNat) v

/-- A node becomes LOST or LEFT: its entry, the events, its pairings, and the parts that exchange with it (R341, R350, R391). -/
def nodeGone (node : BitVec 10) (st : BitVec 3) (why : Nat) (w : Work) : Work :=
  let m := getMember w.dev node.toNat
  nodeLost node false (onDev (fun v =>
    breakPairs node (raisePeerLost node m.role (if st = 4 then 1 else 0) m.incarn
      (raiseMembership node m.state st m.incarn why (setMember node.toNat { m with state := st } v)))) w)

/-- A node becomes LOST: with the parts that exchange with it their contexts fail (R341, R419). -/
def nodeSilent (node : BitVec 10) (w : Work) : Work := remoteCtxs w.dev (nodeGone node 3 1 w)

/-- An entry that may become LOST: every state but ABSENT and LOST (R341). -/
def mayBeLost (st : BitVec 3) : Bool := st = 1 || st = 2 || st = 4

/-- A node's messages are numbered anew when it comes with another incarnation: what it had sent before is no longer kept apart
(log 24). -/
def newLife (node : BitVec 10) (old new : W32) (v : Dev) : Dev :=
  if old = new then v else { v with fab := { v.fab with seen := v.fab.seen.filter (fun k => k.1 ≠ node.toNat) } }

/-- The twin's state changes (R368). -/
def setTwin (st : BitVec 3) (incarn : W32) (v : Dev) : Dev :=
  let old := v.fab.twinState
  let v := newLife v.fab.nodeId v.fab.twinIncarn incarn v
  let v := { v with fab := { v.fab with twinState := st, twinIncarn := incarn, twinSeen := now v } }
  if old = st then v else raiseMembership v.fab.nodeId old st incarn 4 v

/-- An announce updates its node's entry (R341); another incarnation breaks the node's pairings (R391). -/
def heard (node : BitVec 10) (incarn : W32) (feed : BitVec 4) (module_ : BitVec 8) (role : BitVec 3) (busy : Bool) (hops : BitVec 4)
    (v : Dev) : Dev :=
  let m := getMember v node.toNat
  if (m.state = 1 || m.state = 2) && m.incarn ≠ incarn then
    raiseMembership node m.state m.state m.incarn 3 { v with fab := { v.fab with duplicates := satAdd v.fab.duplicates 1 } }
  else
    let st : BitVec 3 := if busy then 1 else 2
    let v := newLife node m.incarn incarn (if m.incarn = incarn then v else breakPairs node v)
    let v := setMember node.toNat
      { m with state := st, hops := hops, feedId := feed, moduleId := module_, role := role, busy := busy, incarn := incarn
               lastSeen := now v, lastAnnounce := now v } v
    if m.state = st then v else raiseMembership node m.state st incarn 0 v

/-- A flooded message is forwarded once to the other admitted ordinary ports, one hop more (R340): `key` names its sender and
sequence. -/
def forwardOnce (p : Nat) (hops : BitVec 4) (key : Nat × Nat) (m : FabMsg) (v : Dev) : Dev :=
  if v.fab.forwarded.contains key then v
  else
    floodOn ((ordinaryPorts v).filter (fun i => i ≠ p)) (satAdd hops 1) m
      { v with fab := { v.fab with forwarded := v.fab.forwarded ++ [key] } }

/-- A frame heard from a port's partner, and from the node it names (R339, R372). -/
def markHeard (p : Nat) (src : BitVec 10) (v : Dev) : Dev :=
  let q := getPort v p
  if q.sideLink then
    (if v.fab.twinState = 3 then setTwin 2 v.fab.twinIncarn v else { v with fab := { v.fab with twinSeen := now v } })
  else
    let v := if src = v.fab.nodeId then v else setMember src.toNat { (getMember v src.toNat) with lastSeen := now v } v
    setMember q.partner.toNat { (getMember v q.partner.toNat) with lastSeen := now v, lastFrame := now v } v

/-- An announce or a leave announce of the twin on a side link (R341, R368). -/
def twinAnnounce (m : FabMsg) (w : Work) : Work :=
  let f := w.dev.fab
  match m with
  | .announce node incarn _ _ role busy _ _ =>
    if node ≠ f.nodeId then w
    else if (f.twinState = 1 || f.twinState = 2) && f.twinIncarn ≠ incarn then
      onDev (fun v => raiseMembership f.nodeId f.twinState f.twinState f.twinIncarn 4
        { v with fab := { f with duplicates := satAdd f.duplicates 1 } }) w
    else onDev (fun v => setTwin (if busy then 1 else 2) incarn { v with fab := { v.fab with twinRole := role } }) w
  | .lossAnnounce _ _ _ _ => w
  | .leaveAnnounce node incarn _ =>
    if node = f.nodeId && f.twinState ≠ 4 then
      nodeLost f.nodeId true (onDev (fun v => raisePeerLost f.nodeId f.twinRole 1 incarn (setTwin 4 incarn v)) w)
    else w
  | _ => w

/-- The life of this module itself, of which its own table takes nothing (log 75); another life of its node ID is another module. -/
def ownLife (v : Dev) (node : BitVec 10) (incarn : W32) : Bool := node = v.fab.nodeId && incarn = v.fab.incarn

/-- A loss announce for a node's current incarnation (R341). -/
def lossHeard (node : BitVec 10) (incarn : W32) (w : Work) : Work :=
  let e := getMember w.dev node.toNat
  if !ownLife w.dev node incarn && mayBeLost e.state && e.incarn = incarn then nodeSilent node w else w

/-- A leave announce of a node (R341): an entry that had no incarnation takes the one announced. -/
def leaveHeard (node : BitVec 10) (incarn : W32) (w : Work) : Work :=
  let e := getMember w.dev node.toNat
  if ownLife w.dev node incarn || e.state = 4 then w
  else nodeGone node 4 2 (if e.state = 0 then onDev (setMember node.toNat { e with incarn := incarn }) w else w)

/-- What an announce does on the table (R341). A module's own announce that comes back changes nothing there (log 75). -/
def announceHeard (hops : BitVec 4) (m : FabMsg) (w : Work) : Work :=
  match m with
  | .announce node incarn feed module_ role busy _ _ =>
    if ownLife w.dev node incarn then w
    else onDev (heard node incarn feed module_ role busy hops) w
  | .lossAnnounce node incarn _ _ => lossHeard node incarn w
  | .leaveAnnounce node incarn _ => leaveHeard node incarn w
  | _ => w

/-- The module that a flooded message comes from, and its sequence (R340). -/
def floodKey : FabMsg → Option (BitVec 10 × W32)
  | .announce node _ _ _ _ _ _ seq => some (node, seq)
  | .lossAnnounce _ _ seq origin => some (origin, seq)
  | .leaveAnnounce node _ seq => some (node, seq)
  | _ => none

/-- ANNOUNCE_RECEIVED (R335, R340, R341): a frame that its port's partner has numbered `msg`. It is acknowledged and committed once:
traced, forwarded, and entered in the table; its number is kept also where it begins its sender's new life. -/
def announceReceived (p : Nat) (hops : BitVec 4) (msg : Nat) (m : FabMsg) (w : Work) : Work :=
  let q := getPort w.dev p
  match floodKey m with
  | none => w
  | some (node, seq) =>
    if !portUp q then w
    else
      let key := (q.partner.toNat, msg, 0)
      let w := onDev (fun v => markHeard p node (emit (.frame p v.fab.nodeId q.partner msg 0 (.ack msg 0)) v)) w
      if w.dev.fab.seen.contains key then w
      else
        let w := onDev (fun v =>
          let v := { v with fab := { v.fab with seen := v.fab.seen ++ [key] } }
          if floodTraced v 9 then traceFab 0x05 0 node.toNat seq.toNat p v else v) w
        onDev (fun v => { v with fab := { v.fab with seen := if v.fab.seen.contains key then v.fab.seen else v.fab.seen ++ [key] } })
          (if q.sideLink then twinAnnounce m w
           else announceHeard hops m (onDev (forwardOnce p hops (node.toNat, seq.toNat) m) w))

/-- ANNOUNCE_TIMEOUT (R341): no announce for three announce periods. -/
def announceTimeout (node : BitVec 10) (w : Work) : Work :=
  let m := getMember w.dev node.toNat
  if mayBeLost m.state && decide (3000000 * w.dev.fab.announceMs.toNat ≤ since w.dev m.lastAnnounce) then nodeSilent node w
  else w

/-- A port leads to a node. -/
def isNeighbour (v : Dev) (node : BitVec 10) : Bool :=
  (upto 24).any (fun p => let q := getPort v p; q.enable && !q.sideLink && q.lanes ≠ 0 && portUp q && q.partner = node)

/-- A port has led to a node since it was enabled, be it up, down, training or refused now, and a frame has come from the node. -/
def wasNeighbour (v : Dev) (node : BitVec 10) : Bool :=
  (getMember v node.toNat).lastFrame ≠ 0 &&
    (upto 24).any (fun p => let q := getPort v p; q.enable && !q.sideLink && q.partner = node)

/-- NEIGHBOUR_LOST (R339, R368): silence for HB_LOST_US from a neighbour, or from the twin; the loss of a neighbour is flooded. -/
def neighbourLost (node : BitVec 10) (twin : Bool) (w : Work) : Work :=
  let v := w.dev
  let silence := 1000 * v.fab.hbLostUs.toNat
  if twin then
    if mayBeLost v.fab.twinState && decide (silence ≤ since v v.fab.twinSeen) then
      remoteCtxs v (nodeLost v.fab.nodeId true (onDev (fun v =>
        raisePeerLost v.fab.nodeId v.fab.twinRole 2 v.fab.twinIncarn
          (raiseMembership v.fab.nodeId v.fab.twinState 3 v.fab.twinIncarn 4 { v with fab := { v.fab with twinState := 3 } })) w))
    else w
  else
    let m := getMember v node.toNat
    if mayBeLost m.state && wasNeighbour v node && decide (silence ≤ since v m.lastFrame) then
      onDev (fun v => announceOn (ordinaryPorts v) (fun seq => .lossAnnounce node m.incarn seq v.fab.nodeId) v) (nodeSilent node w)
    else w

/-- A frame heard from a node on a port that is not up: from the twin on a side link (R339, R368, R372). -/
def senderHeard (p : Nat) (node : BitVec 10) (v : Dev) : Dev :=
  if (getPort v p).sideLink then
    (if node = v.fab.nodeId then { v with fab := { v.fab with twinSeen := now v } } else v)
  else if node = v.fab.nodeId then v
  else setMember node.toNat { (getMember v node.toNat) with lastSeen := now v, lastFrame := now v } v

/-- An identity frame acknowledged, and its sender heard (R335, R339, R372); on a side link the twin in its present life. -/
def identityHeard (p msg : Nat) (i : Identity) (v : Dev) : Dev :=
  let v := emit (.frame p v.fab.nodeId i.node msg 0 (.ack msg 0)) v
  if (getPort v p).sideLink && i.incarn ≠ v.fab.twinIncarn then v else senderHeard p i.node v

/-- IDENTITY_FRAME (R338): the port is admitted or refused; the first announce on it is then due. -/
def identityFrame (p msg : Nat) (i : Identity) (v : Dev) : Dev :=
  let q := getPort v p
  if !q.enable || q.lanes = 0 then v
  else
    let v := identityHeard p msg i v
    if !(q.state = 1 || q.state = 4) then v
    else
      let r := identityRefusal v q i
      let q' := { q with
        state := if r ≠ 0 then 4 else if q.lanes = 8 then 2 else 3
        refuse := BitVec.ofNat 4 r, partner := i.node, partnerPort := i.port, partnerSide := i.straps.side
        fell := q.fell && r ≠ 0 }
      let v := setPort p q' v
      if r ≠ 0 then v
      else if q.sideLink then setTwin 2 i.incarn v
      else ownChange (newLife i.node (getMember v i.node.toNat).incarn i.incarn v)

/-- A port that has gone down has not trained again yet: it is down, or its last training has brought no partner's identity or too
few lanes (R337). -/
def toRetrain (q : Port) : Bool := q.state = 5 || (q.fell && (q.state = 1 || (q.state = 4 && q.refuse = 6)))

/-- PORT_RETRAIN (R337): every 10,000,000 units a port that has gone down trains again, until it is up or refused by its partner. -/
def portRetrain (p : Nat) (v : Dev) : Dev :=
  let q := getPort v p
  if q.enable && toRetrain q && v.arm.firmware && decide (10000000 ≤ since v q.lastTrain) then
    setPort p { q with state := 1, lanes := 0, refuse := 0, retrains := satAdd q.retrains 1, lastTrain := now v } v
  else v

/-- ANNOUNCE_SEND (R340): at its period, or after a change of this module's own state. -/
def announceSend (v : Dev) : Dev :=
  if !v.arm.firmware || !(v.fab.changed || timerDue v tmAnnounce (1000000 * v.fab.announceMs.toNat)) then v
  else
    let v := announceOn (ordinaryPorts v) (.announce v.fab.nodeId v.fab.incarn v.power.straps.feedId v.power.straps.moduleId
      v.mould.role (!v.power.rbHigh) v.pace.measured) v
    timerMark tmAnnounce { v with fab := { v.fab with changed := false } }

/-- HEARTBEAT_SEND (R339): every 100,000 units on an up port, a frame that its partner acknowledges (R335). -/
def heartbeatSend (p : Nat) (v : Dev) : Dev :=
  let q := getPort v p
  if !portUp q || !timerDue v (tmHeartbeat p) 100000 then v
  else
    let msg := v.fab.nextMsg
    let v := { v with fab := { v.fab with nextMsg := msg + 1 } }
    let v := if floodTraced v 8 then traceFab 0x04 0 q.partner.toNat msg p v else v
    timerMark (tmHeartbeat p) (sendFrame p q.partner.toNat msg 0 0 .heartbeat v)

/-! ### Frames (R334, R335, R344 to R346) -/

/-- The group on this module that a message belongs to. -/
def msgGroup (v : Dev) : FabMsg → Option Nat
  | .collHeader g _ _ => some g.toNat
  | .credit g _ _ _ => some g.toNat
  | .mismatch g _ _ => some g.toNat
  | .abort g => some g.toNat
  | .collGone g _ => some g.toNat
  | .collData g _ _ _ _ _ => some g.toNat
  | .copyWrite g _ _ _ _ => some g.toNat
  | .copyRead g _ _ _ _ => some g.toNat
  | .pairing g _ _ _ _ _ => some g.toNat
  | .copyData tag _ _ => (copyPart v tag).map (fun c => fieldOf c.1 36 1)
  | .copyDone tag _ _ _ => (copyPart v tag).map (fun c => fieldOf c.1 36 1)
  | .heartbeat => none
  | .ack _ _ => none
  | .identity _ => none
  | .announce _ _ _ _ _ _ _ _ => none
  | .lossAnnounce _ _ _ _ => none
  | .leaveAnnounce _ _ _ => none

/-- Sequence of a collective's message, with its sender's rank. -/
def collSeq : FabMsg → Option (Nat × Nat)
  | .collHeader _ rank h => some (rank, h.seq)
  | .credit _ rank seq _ => some (rank, seq)
  | .collData _ rank seq _ _ _ => some (rank, seq)
  | _ => none

/-- A collective's message for a group that this member, or its context, has disabled is answered so that the sender's
parts end (R364). -/
def answerGone (gno : Nat) (m : FabMsg) (v : Dev) : Dev :=
  match collSeq m with
  | some (rank, seq) =>
    let g := getGroup v gno
    if groupLive v gno || !decide (rank < g.record.entries.length) then v
    else
      let e := memberOf g rank
      (sendMsg gno e.node.toNat g.record.portMask [.collGone e.rgroup seq] v).getD v
  | none => v

/-- A peer's copy of the group is disabled: the parts of the collective that exchange with it end (R364). -/
def rxGone (gno seq : Nat) (src : BitVec 10) (w : Work) : Work :=
  let g := getGroup w.dev gno
  match collFind w.dev gno seq with
  | some x => ((otherRanks g).filter (fun k => (memberOf g k).node = src)).foldl (fun w k => collLoseRank x k w) w
  | none => w

/-- What a frame's message does on this module; `p` is the port it came in on and `src` the node that sent it. What link
management sends has its own way. -/
def deliver (p : Nat) (src : BitVec 10) (m : FabMsg) (w : Work) : Work :=
  match m with
  | .collHeader g rank h => rxHeader g.toNat rank h (onDev (answerGone g.toNat m) w)
  | .credit g rank seq seg => onDev (fun v => rxCredit g.toNat rank seq seg (answerGone g.toNat m v)) w
  | .mismatch g rank seq => rxMismatch g.toNat rank seq w
  | .abort g => abortNotice g.toNat w
  | .collGone g seq => rxGone g.toNat seq src w
  | .collData g rank seq phase o bs => onDev (fun v => rxData g.toNat rank seq phase o bs p (answerGone g.toNat m v)) w
  | .copyWrite .. => rxCopy src.toNat m w
  | .copyRead .. => rxCopy src.toNat m w
  | .copyData .. => rxCopy src.toNat m w
  | .copyDone .. => rxCopy src.toNat m w
  | .pairing .. => onDev (pairingHeard m) w
  | _ => w

/-- A message may travel on a port: a side link carries link management and CHECK groups, an ordinary port DATA groups
(R344, R368). -/
def fitsPort (v : Dev) (q : Port) (m : FabMsg) : Bool :=
  linkMessage m ||
    match msgGroup v m with
    | some g => (getGroup v g).kind == q.sideLink
    | none => false

/-- Arrivals of traced messages (R474). -/
def traceArrival (p : Nat) (src : BitVec 10) (msg frame : Nat) (m : FabMsg) (v : Dev) : Dev :=
  match m, msgGroup v m with
  | .heartbeat, _ => if floodTraced v 8 then traceFab 0x05 0 src.toNat msg p v else v
  | _, some g => if frame = 0 && groupTraced v g then traceFab 0x05 (getGroup v g).ctx.toNat src.toNat msg p v else v
  | _, none => v

/-- An acknowledgement of a frame (R335): link management's by its port, any other's by the node it went to. -/
def ackReceived (p : Nat) (src : BitVec 10) (msg frame : Nat) (v : Dev) : Dev :=
  { v with fab := { v.fab with tx := v.fab.tx.filter (fun t =>
    !(t.msg = msg && t.frame = frame && (if linkMessage t.body then t.port = p else t.dest = src))) } }

/-- A good frame for this module on an up port (R335): acknowledged, and committed once. -/
def dataFrame (p : Nat) (src : BitVec 10) (msg frame : Nat) (m : FabMsg) (w : Work) : Work :=
  let key := (src.toNat, msg, frame)
  let w := onDev (fun v =>
    emit (.frame p v.fab.nodeId src msg frame (.ack msg frame)) (ctrAdd (0x300 + p) 1 (msgBytes m) (markHeard p src v))) w
  if w.dev.fab.seen.contains key || !fitsPort w.dev (getPort w.dev p) m then w
  else
    deliver p src m (onDev (fun v =>
      traceArrival p src msg frame m { v with fab := { v.fab with seen := v.fab.seen ++ [key] } }) w)

/-- FRAME_RECEIVED (R335): a good frame is acknowledged, and committed once; an acknowledgement is not itself acknowledged
(log 24). A port that is not up takes identity frames and their acknowledgements (R338). -/
def frameReceived (p : Nat) (src : BitVec 10) (msg frame : Nat) (m : FabMsg) (crcOk : Bool) (w : Work) : Work :=
  let q := getPort w.dev p
  if !crcOk then w
  else
    match m with
    | .identity i => onDev (identityFrame p msg i) w
    | .ack a f =>
      if portUp q then onDev (fun v => ackReceived p src a f (markHeard p src v)) w
      else if q.enable && q.lanes ≠ 0 then onDev (fun v => ackReceived p src a f (senderHeard p src v)) w
      else w
    | _ =>
      if !portUp q then w
      else if isFlood m then announceReceived p 1 msg m w
      else dataFrame p src msg frame m w

/-- A frame put on its port once more (R335). -/
def sendAgain (t : TxFrame) (v : Dev) : Dev :=
  if isFlood t.body then emit (.flood [t.port] t.hops t.msg t.body) v
  else emit (.frame t.port v.fab.nodeId t.dest t.msg t.frame t.body) (ctrAdd (0x300 + t.port) 0 (msgBytes t.body) v)

/-- FRAME_ACK_TIMEOUT (R335): the frame is sent again; after eight failed sends the port is down. -/
def ackTimeout (p msg frame : Nat) (w : Work) : Work :=
  match w.dev.fab.tx.find? (fun t => t.port = p && t.msg = msg && t.frame = frame) with
  | none => w
  | some t =>
    if since w.dev t.sentAt < 2000 then w
    else if 8 ≤ t.sends then portDown p 5 w
    else
      onDev (fun v =>
        let q := getPort v p
        let t' := { t with sends := t.sends + 1, sentAt := now v }
        let v := { v with fab := { v.fab with tx := v.fab.tx.map (fun x => if x = t then t' else x) } }
        sendAgain t (ctrAdd (0x300 + p) 4 1 (setPort p { q with retries := satAdd q.retries 1 } v))) w

/-- The forwarded frame's request for a port's egress, as a COLL requester of the port that it came in on (R261, R345). -/
def askEgress (p out : Nat) (v : Dev) : Dev :=
  setArb (4736 + out) (raiseAll 2 [⟨⟨.coll, p⟩, .other, 1⟩] [] (getArb v (4736 + out))) v

/-- FRAME_FORWARD (R345): cut-through by this module's route entry; a frame with no way on is lost. -/
def frameForward (p : Nat) (dest src : BitVec 10) (msg frame : Nat) (m : FabMsg) (v : Dev) : Dev :=
  let q := getPort v p
  if !portUp q || q.sideLink || dest = v.fab.nodeId then v
  else
    let v := markHeard p src v
    match portsTo v dest.toNat 0 with
    | [] => v
    | p0 :: ps =>
      let out := (p0 :: ps).getD (frame / 16 % (ps.length + 1)) p0
      let n := msgBytes m
      emit (.frame out src dest msg frame m)
        (askEgress p out (ctrAdd (0x300 + out) 3 n (ctrAdd (0x300 + out) 0 n (ctrAdd (0x300 + p) 1 n v))))

/-! ### Groups (R347, R348) -/

/-- A group record's header and entries (R347). -/
def recordOf (bs es : List Byte) : GroupRec :=
  { members := leAt bs 0 2, ownRank := leAt bs 2 2, portMask := BitVec.ofNat 24 (leAt bs 4 3)
    entries := (upto (leAt bs 0 2)).map (fun k =>
      { node := BitVec.ofNat 10 (leAt es (8 * k) 2), ctx := BitVec.ofNat 6 (leAt es (8 * k + 2) 1)
        rgroup := BitVec.ofNat 8 (leAt es (8 * k + 3) 1), incarn := BitVec.ofNat 32 (leAt es (8 * k + 4) 4) }) }

/-- MEMBERS is in range (R347). -/
def membersOk (kind : Bool) (n : Nat) : Bool := decide (1 ≤ n) && decide (n ≤ 1024) && (!kind || n = 2)

/-- Why a group is refused by its record; 0 where it is enabled (R348). -/
def groupRefusal (v : Dev) (g : Group) (r : GroupRec) : Nat :=
  let own := r.entries.getD r.ownRank ⟨0, 0, 0, 0⟩
  let others := (r.entries.zipIdx).filter (fun c => c.2 ≠ r.ownRank)
  let absent (e : GroupEntry) : Bool :=
    if g.kind then v.fab.twinState ≠ 2 || v.fab.twinIncarn ≠ e.incarn
    else (getMember v e.node.toNat).state ≠ 2 || (getMember v e.node.toNat).incarn ≠ e.incarn
  if !membersOk g.kind r.members || decide (r.members ≤ r.ownRank) || own.node ≠ v.fab.nodeId || own.ctx ≠ g.ctx then 2
  else if others.any (fun c => (g.kind || c.1.node ≠ v.fab.nodeId) && absent c.1) then 3
  else if !g.kind && (r.entries.map (·.node)).eraseDups.length ≠ r.entries.length then 4
  else if g.kind && (r.entries.any (fun e => e.node ≠ v.fab.nodeId) || r.ownRank ≠ v.power.straps.side.toNat) then 5
  else if !(getCtx v g.ctx.toNat).enable then 6
  else 0

/-- A refusal of ENABLE = 1 (R348). -/
def groupRefuse (gno err : Nat) (v : Dev) : Dev := modGroup gno (fun g => { g with err := BitVec.ofNat 3 err }) v

/-- ENABLE = 1 of a group (R347, R348). -/
def groupOn (gno : Nat) (w : Work) : Work :=
  let g := getGroup w.dev gno
  runAcc (do
    ueFailsOpen 0 (do
      let bs ← readBytes (edge 0) g.addr 64
      let n := leAt bs 0 2
      let es ← if membersOk g.kind n then readBytes (edge 0) (g.addr + 64) (8 * n) else pure []
      pure (recordOf bs es)))
    (fun r w =>
      let e := groupRefusal w.dev g r
      if e ≠ 0 then onDev (groupRefuse gno e) w
      else onDev (setGroup gno { g with
        enable := true, err := 0, gen := g.gen + 1, record := r, nextSeq := 0, headers := [], credits := [], mismatches := []
        lost := [], rx := [] }) w)
    (fun _ _ w => onDev (groupRefuse gno 1) w) w

/-- A COLL or COPY that names a group is running (R348). -/
def groupRunning (v : Dev) (gno : Nat) : Bool :=
  v.descs.any (fun x =>
    ((x.cls = 6 && (collOf x.bytes).group = gno) || (x.cls = 7 && copyDir x.bytes ≠ 0 && fieldOf x 36 1 = gno)) &&
      x.parts.any (fun p => p.state = .running))

/-- ENABLE = 0 of a group (R348); peers that wait for it are told (R364). -/
def groupOff (gno : Nat) (v : Dev) : Dev :=
  if groupRunning v gno then v else modGroup gno (fun g => { g with enable := false }) (goneNotices gno v)

/-- A write of FAB_GROUP, by granule (R372). -/
def groupWrite (gno g : Nat) (b : Bar) (w : Work) : Work :=
  let q := getGroup w.dev gno
  if g = 0 then (if q.enable then w else onDev (setGroup gno { q with addr := b.merge q.addr }) w)
  else if !b.lo then w
  else
    let on := bitAt 0 b.val
    if q.enable then (if on then w else onDev (groupOff gno) w)
    else
      let w := onDev (setGroup gno { q with kind := bitAt 1 b.val, ctx := fld 6 8 b.val }) w
      if on then groupOn gno w else w

/-! ### Registers (R370, R372) -/

/-- FAB_NODE.ID (R370, R449). -/
def nodeWrite (x : BitVec 10) (v : Dev) : Dev :=
  if v.ports.any (fun c => c.2.enable) then v
  else ownChange { v with fab := { v.fab with nodeId := x }, arm := { v.arm with nodeIdWritten := true } }

/-- FAB_CTRL (R341, R370). -/
def fabCtrl (x : W32) (v : Dev) : Dev :=
  let v := { v with fab := { v.fab with
    announceMs := clampW 1 100 (x.setWidth 8), hbLostUs := clampW 200 50000 ((x >>> 8).setWidth 16), attnEn := x.getLsbD 24 } }
  if x.getLsbD 25 then sendLeave v else v

/-- A write of FAB_NODE and FAB_CTRL. -/
def fabWrite (b : Bar) (v : Dev) : Dev :=
  let v := if b.lo then nodeWrite (fld 10 0 b.val) v else v
  if b.hi then fabCtrl (fld 32 32 b.val) v else v

/-- FAB_ROUTE as a register (R372). -/
def routeReg (r : Route) : W64 := place 0 r.ports ||| place 24 r.alt ||| placeB 63 r.valid

/-- A write of FAB_ROUTE (R344, R372); parts that need a node no route reaches end. -/
def routeWrite (n : Nat) (b : Bar) (w : Work) : Work :=
  unreachableFail (onDev (fun v =>
    let x := b.merge (routeReg (getRoute v n))
    { v with routes := tabPut {} v.routes n { ports := fld 24 0 x, alt := fld 24 24 x, valid := bitAt 63 x } }) w)

/-! ### Meanings -/

/-- WATCHDOG_EXPIRY (R452): tests that run end, and with every port stopped, parts that need another module end (R346). -/
def watchdogExpiry (w : Work) : Work :=
  if !w.dev.arm.wdtArmed then w else unreachableFail (onDev watchdogRestart (testsStopped w))

/-- WATCHDOG_EXPIRY (R452). -/
def execWatchdogExpiry (s : State) : Host.Outcome State Fault Refusal := runWork watchdogExpiry s

/-- PORT_ENABLE (R337): a 64-bit write of FAB_PORT_CFG with ENABLE = 1. -/
def execPortEnable (p : Fin 24) (w : HostWrite) (s : State) : Host.Outcome State Fault Refusal :=
  runWork (guarded 0x50100 w.ide (portWrite p.val ⟨true, true, w.value ||| 1⟩)) s
/-- LANES_TRAINED (R337). -/
def execLanesTrained (p : Fin 24) (low high : Bool) (s : State) : Host.Outcome State Fault Refusal :=
  runDev (lanesTrained p.val low high) s
/-- IDENTITY_FRAME (R338). -/
def execIdentityFrame (f : PortMsg) (i : Identity) (s : State) : Host.Outcome State Fault Refusal :=
  runDev (identityFrame f.port.val f.msg i) s
/-- PORT_RETRAIN (R337). -/
def execPortRetrain (p : Fin 24) (s : State) : Host.Outcome State Fault Refusal := runDev (portRetrain p.val) s
/-- FRAME_RECEIVED (R335). -/
def execFrameReceived (p : Fin 24) (src : BitVec 10) (msg frame : Nat) (m : FabMsg) (crcOk : Bool) (s : State) :
    Host.Outcome State Fault Refusal := runWork (frameReceived p.val src msg frame m crcOk) s
/-- COLL_HEADER_FRAME (R335, R353). -/
def execCollHeaderFrame (f : FrameIn) (group : Byte) (rank : Nat) (h : CollHeader) (s : State) :
    Host.Outcome State Fault Refusal := runWork (frameReceived f.port.val f.src f.msg f.frame (.collHeader group rank h) true) s
/-- FRAME_ACK_TIMEOUT (R335). -/
def execFrameAckTimeout (p : Fin 24) (msg frame : Nat) (s : State) : Host.Outcome State Fault Refusal :=
  runWork (ackTimeout p.val msg frame) s
/-- FRAME_FORWARD (R345). -/
def execFrameForward (p : Fin 24) (dest src : BitVec 10) (msg frame : Nat) (m : FabMsg) (s : State) :
    Host.Outcome State Fault Refusal := runDev (frameForward p.val dest src msg frame m) s
/-- HEARTBEAT_SEND (R339). -/
def execHeartbeatSend (p : Fin 24) (s : State) : Host.Outcome State Fault Refusal := runDev (heartbeatSend p.val) s
/-- NEIGHBOUR_LOST (R339). -/
def execNeighbourLost (node : BitVec 10) (twin : Bool) (s : State) : Host.Outcome State Fault Refusal :=
  runWork (neighbourLost node twin) s
/-- ANNOUNCE_SEND (R340). -/
def execAnnounceSend (s : State) : Host.Outcome State Fault Refusal := runDev announceSend s
/-- ANNOUNCE_RECEIVED (R341). -/
def execAnnounceReceived (f : PortMsg) (hops : BitVec 4) (m : FabMsg) (s : State) : Host.Outcome State Fault Refusal :=
  runWork (announceReceived f.port.val hops f.msg m) s
/-- ANNOUNCE_TIMEOUT (R341). -/
def execAnnounceTimeout (node : BitVec 10) (s : State) : Host.Outcome State Fault Refusal := runWork (announceTimeout node) s
/-- LEAVE (R341): a 32-bit write of FAB_CTRL with LEAVE = 1. -/
def execLeave (w : HostWrite) (s : State) : Host.Outcome State Fault Refusal :=
  runWork (guarded 0x50004 w.ide (onDev (fabWrite (barOf 0x50004 false (w.value ||| placeB 25 true))))) s
/-- GROUP_ENABLE (R348): a 64-bit write of the word at +8 of FAB_GROUP with ENABLE = 1. -/
def execGroupEnable (g : Fin 256) (w : HostWrite) (s : State) : Host.Outcome State Fault Refusal :=
  runWork (guarded 0x51000 w.ide (groupWrite g.val 1 ⟨true, true, w.value ||| 1⟩)) s
/-- GROUP_DISABLE (R348): a write of that word with ENABLE = 0. -/
def execGroupDisable (g : Fin 256) (w : HostWrite) (s : State) : Host.Outcome State Fault Refusal :=
  runWork (guarded 0x51000 w.ide (groupWrite g.val 1 ⟨true, true, w.value &&& ~~~1⟩)) s

end Sys2Proof.Machine
end

