-- ==== Sys2Proof/Machine/RegMap.lean ====
section
/-! DEFINITION. The register map of BAR0 as it reads (R45 to R48, R273, R274, R296 to R299, R302, R316, R333, R370 to R372, R409,
R410, R459, R475, R480, R489, R496 to R500), by granules of 8 bytes, and the words that its field maps name. -/

namespace Sys2Proof.Machine

open Sys2Proof

/-- Two 32-bit registers, the lower offset first. -/
def pairReg (lo hi : W64) : W64 := lo ||| (hi <<< 32)

/-- A number as a register. -/
def numReg (n : Nat) : W64 := BitVec.ofNat 64 n

/-- DEV_STATE (R499). OFF and TRIPPED have no POWER code: what it reads then is a free value, but before PERST_L is released it
reads its reset value (R504). -/
def devState (v : Dev) : W64 :=
  let power : BitVec 2 := if v.power.perstLow then 0 else match v.power.state with
    | .start => 0
    | .active => 1
    | .park => 2
    | _ => (freeVal v).setWidth 2
  placeB 0 v.blk.ready ||| place 1 v.blk.busyCause ||| place 4 power ||| placeB 6 v.blk.live

/-- The DEV_ block (R497 to R499). -/
def readDev (v : Dev) (g : Nat) : W64 :=
  if g = 0 then pairReg 0x77202A57 0x00001001
  else if g = 1 then pairReg 0x18142080 0x20100040
  else if g = 2 then 0x04801000
  else if g = 3 then 0x4000003F804001E0
  else if g = 4 then 0x0007FFFF
  else if g = 5 then devState v
  else if g = 6 then v.blk.scratch
  else 0

/-- PACE_STATUS (R47). -/
def paceStatus (p : Pace) : W64 :=
  place 0 p.limit ||| placeB 3 p.targetMissed ||| placeB 4 p.capGated ||| placeB 5 p.settled

/-- PACE_TB_STATUS (R48). -/
def tbStatus (p : Pace) : W64 := placeB 0 p.tbSource ||| place 8 p.tbSwitches ||| placeB 16 p.tbLost

/-- PACE_PSTATE (R480). -/
def pstate (p : Pace) : W64 := placeB 0 p.parkReq ||| place 1 p.parkState ||| placeB 4 p.parkRefused

/-- The PACE_ block (R38, R45 to R48, R480); PACE_VCORE is the voltage as it is now. -/
def readPace (v : Dev) (g : Nat) : W64 :=
  let p := v.pace
  if g = 0 then pairReg (place 0 p.mode ||| placeB 2 p.attnEn) (place 0 p.target)
  else if g = 1 then pairReg (place 0 p.cap) (place 0 p.tjLimit)
  else if g = 2 then pairReg (place 0 p.vcoreSet) (numReg (vcoreNow v))
  else if g = 3 then place 0 p.inputPower
  else if g = 4 then pairReg (paceStatus p) (place 0 p.measured)
  else if g = 5 then place 0 (p.fields.getD 0 0) ||| place 16 (p.fields.getD 1 0) ||| place 32 (p.fields.getD 2 0) ||| place 48 (p.fields.getD 3 0)
  else if g = 8 then p.time
  else if g = 9 then pairReg (tbStatus p) (pstate p)
  else 0

/-- DEV_CXL_STATUS (R297). -/
def cxlStatus (c : Cxl) : W64 :=
  placeB 0 c.linkUp ||| place 1 c.rate ||| place 3 c.width ||| placeB 5 c.cxlMode ||| placeB 6 c.cacheEn ||| placeB 7 c.memEn |||
    placeB 8 c.ideCm ||| placeB 9 c.ideIo ||| place 16 c.linkResets

/-- The DEV_CXL_ block (R296 to R298). -/
def readCxl (c : Cxl) (g : Nat) : W64 :=
  if g = 0 then pairReg (placeB 0 c.ideReq) (cxlStatus c)
  else if g = 1 then placeB 0 c.errValid ||| place 6 c.errAddr
  else if g = 2 then place 0 c.rsvdAccess ||| place 16 c.poisonDropped
  else 0

/-- The ARB_ block (R273, R274). -/
def readArb (v : Dev) (g : Nat) : W64 :=
  let r (k : Nat) : ArbRegs := v.arbRegs.getD k {}
  let q (k : Nat) : W64 := place 0 (r k).quota ||| place 8 (r k).window
  if g = 0 then pairReg (place 0 (r 0).cls) (place 0 (r 1).cls)
  else if g = 1 then pairReg (place 0 (r 2).cls) (place 0 (r 3).cls)
  else if g = 2 then pairReg (q 0) (q 1)
  else if g = 3 then pairReg (q 2) (q 3)
  else 0

/-- A context's registers (R299). -/
def readCtx (c : Ctx) (g : Nat) : W64 :=
  if g = 0 then place 12 c.ptRoot
  else if g = 1 then c.seed
  else if g = 2 then c.stepRec
  else if g = 3 then c.epochAddr
  else if g = 4 then ctxCfg c
  else if g = 5 then c.stride
  else if g = 6 then place 0 c.state
  else c.stride2

/-- A ring's registers (R302). -/
def readRing (x : Ring) (g : Nat) : W64 :=
  if g = 0 then x.base
  else if g = 1 then x.cqBase
  else if g = 2 then ringCfg x
  else pairReg (placeB 0 x.enable ||| place 2 x.state ||| place 5 x.err) (place 0 x.head)

/-- DB_CTRL, the ATTN_ registers and RING_CTX_INVAL (R251, R333). -/
def readAttn (a : Attn) (g : Nat) : W64 :=
  if g = 0 then place 0 a.pollInterval
  else if g = 1 then a.base
  else if g = 2 then pairReg (place 0 a.sizeLog2 ||| placeB 8 a.enable ||| placeB 9 a.pulseEn) (place 0 a.head)
  else if g = 3 then pairReg (place 0 a.tail) (numReg (attnHeld a) ||| placeB 7 a.fault ||| place 16 a.dropped)
  else if g = 4 then place 0 a.invalCtx ||| placeB 31 a.invalBusy
  else 0

/-- Entries of the membership table in PRESENT (R370). -/
def presentCount (v : Dev) : Nat := (v.members.filter (fun c => c.2.state = 2)).length

/-- FAB_NODE (R370). -/
def fabNode (v : Dev) : W64 :=
  place 0 v.fab.nodeId ||| place 16 v.power.straps.moduleId ||| place 24 v.power.straps.feedId ||| place 28 v.power.straps.side

/-- The node, control and status registers (R370). -/
def readFab (v : Dev) (g : Nat) : W64 :=
  let f := v.fab
  if g = 0 then pairReg (fabNode v) (place 0 f.announceMs ||| place 8 f.hbLostUs ||| placeB 24 f.attnEn)
  else if g = 1 then pairReg (numReg (presentCount v) ||| place 16 f.duplicates) (place 0 f.incarn)
  else if g = 2 then pairReg (place 0 f.twinState) (place 0 f.twinIncarn)
  else 0

/-- FAB_PORT_CFG and FAB_PORT_STATUS (R371). -/
def portCfg (q : Port) : W64 := placeB 0 q.enable ||| placeB 1 q.sideLink
def portStatus (q : Port) : W64 :=
  place 0 q.state ||| place 3 q.partner ||| place 13 q.partnerPort ||| place 18 q.partnerSide ||| place 19 q.refuse |||
    place 32 q.retrains ||| place 40 q.retries

/-- FAB_GROUP (R372). -/
def readGroup (q : Group) (g : Nat) : W64 :=
  if g = 0 then q.addr
  else placeB 0 q.enable ||| placeB 1 q.kind ||| place 8 q.ctx ||| place 16 q.err ||| place 32 q.gen

/-- FAB_MEMBER (R372). -/
def readMember (v : Dev) (n g : Nat) : W64 :=
  let m := getMember v n
  if g = 0 then
    place 0 m.state ||| placeB 3 (isNeighbour v (BitVec.ofNat 10 n)) ||| place 4 m.hops ||| place 8 m.feedId ||| place 12 m.moduleId |||
      place 20 m.role ||| placeB 23 m.busy ||| place 32 m.incarn
  else m.lastSeen

/-- The mould block's control and stream registers (R409). -/
def readMould (m : Mould) (g : Nat) : W64 :=
  if g = 0 then pairReg (place 0 m.role) (place 0 m.castLag ||| placeB 8 m.attnEn)
  else if g = 1 then m.ssBase
  else if g = 2 then place 0 m.ssSize ||| placeB 8 m.ssEnable
  else if g = 3 then m.ssTailPtr
  else if g = 4 then m.ssHead
  else if g = 5 then m.ssTail
  else 0

/-- MOULD_CHARGE, and MOULD_LINK whose words at +16 and +24 are reserved (R410). -/
def readPair (q : Pair) (link : Bool) (g : Nat) : W64 :=
  if g = 0 then place 0 q.node ||| place 16 q.ctx ||| place 24 q.group ||| place 32 q.incarn
  else if g = 1 then placeB 0 q.enable ||| placeB 1 q.override ||| placeB 2 q.unprot ||| place 4 q.state ||| place 8 q.err
  else if link then 0
  else if g = 2 then pairReg (place 0 q.cast) (place 0 q.persisted)
  else place 0 q.lastClose

/-- The CTR_ registers (R475): CTR_CMD has no field that reads. -/
def readCtr (c : Ctr) (g : Nat) : W64 :=
  if g = 1 then c.cmdAddr
  else if g = 2 then numReg c.queue.length ||| placeB 4 c.overrun ||| place 16 c.mirrorFaults
  else 0

/-- CTR_CTX_MIRROR (R475). -/
def readMirror (m : Mirror) (g : Nat) : W64 := if g = 0 then m.addr else place 0 m.period ||| placeB 24 m.stepEn

/-- The TRC_ registers (R475). -/
def readTrc (t : Trc) (g : Nat) : W64 :=
  if g = 0 then
    pairReg (place 0 t.mode ||| place 2 t.pre)
      (placeB 0 t.running ||| placeB 1 t.triggered ||| placeB 2 t.dumped ||| (numReg t.buffer.length <<< 3) ||| place 21 t.droppedFull)
  else if g = 1 then place 0 t.trigEn ||| place 5 t.trigCtx ||| place 11 t.trigStall ||| place 19 t.trigCode
  else if g = 2 then place 0 t.src
  else if g = 3 then place 0 t.interval
  else if g = 4 then t.fabGroups
  else if g = 5 then t.spillBase
  else if g = 6 then place 0 t.spillSize ||| placeB 5 t.spillEnable
  else if g = 7 then t.spillTail
  else 0

/-- ARM_BOOT_STATUS (R459). -/
def bootStatus (a : Arm) : W64 :=
  place 0 a.stage ||| placeB 4 a.source ||| place 5 a.cfgState ||| placeB 7 a.pufOk ||| place 8 a.imgErr ||| place 12 a.cfgErr |||
    place 16 a.wdtRestarts

/-- The ARM_ registers (R459, R489). -/
def readArm (a : Arm) (g : Nat) : W64 :=
  if g = 0 then pairReg (bootStatus a) (place 0 a.fwVersion)
  else if g = 1 then place 0 a.fwSvn
  else if g = 2 then pairReg (place 0 a.postCores) (place 0 a.postStacks)
  else if g = 3 then place 0 a.wdtTimeout ||| placeB 16 a.wdtArmed
  else if g = 4 then a.recovAddr
  else if g = 5 then place 0 a.recovBytes
  else if g = 6 then placeB 0 a.debugUnlock
  else if 8 ≤ g ∧ g ≤ 13 then (a.meas >>> (64 * (g - 8))).setWidth 64
  else 0

/-- Two 16-bit readings of a packed register. -/
def packed (l : List W16) (k : Nat) : W64 := place 0 (l.getD (2 * k) 0) ||| place 16 (l.getD (2 * k + 1) 0)

/-- The SNS_ word at an offset of the block (R500). -/
def snsWord (s : Sns) (o : Nat) : W64 :=
  if o < 0x20 then packed s.tj (o / 4)
  else if 0x40 ≤ o ∧ o < 0x68 then packed s.tstack ((o - 0x40) / 4)
  else if o = 0x80 then packed s.tpwr 0
  else if o = 0x84 then place 0 s.hotTemp ||| place 16 s.hotField
  else if o = 0x90 then place 0 s.vin
  else if o = 0x94 then place 0 s.iin
  else if 0xA0 ≤ o ∧ o < 0xBC then place 0 (s.rails.getD ((o - 0xA0) / 4) 0)
  else if o = 0xC0 then place 0 s.warnField ||| place 4 s.warnPwr
  else if o = 0xC4 then place 0 s.warnStack
  else if o = 0xC8 then place 0 s.failed &&& 0xFFFFFFFF
  else if o = 0xCC then place 0 s.failed >>> 32
  else if o = 0xD0 then s.update &&& 0xFFFFFFFF
  else if o = 0xD4 then s.update >>> 32
  else 0

/-- The SNS_ block by granule (R500). -/
def readSns (s : Sns) (g : Nat) : W64 := pairReg (snsWord s (8 * g)) (snsWord s (8 * g + 4))

/-- A word of one HDM decoder's registers in the component block: base, the size of R283, control, and DPA skip (log 103). -/
def decoderWord (n : Nat) (d : Decoder) (o : Nat) : W32 :=
  if o = 0x00 then d.base.setWidth 32
  else if o = 0x04 then (d.base >>> 32).setWidth 32
  else if o = 0x0C then (if n = 0 then 0x78 else 1)
  else if o = 0x10 then (if d.committed then 0x600 else 0)
  else if o = 0x18 then (if n = 0 then 0 else 8)
  else 0

/-- A word of the CXL component registers, by its offset in the block: the capability headers, RAS, link, HDM decoders and IDE
(R275, R280, R283, R287, R291, R496; layout PRESUMED from CXL 3.1, log 103). -/
def compWord (c : Cxl) (o : Nat) : W32 :=
  let k := c.component
  let ras := k.rasCleared < c.rasInternal
  if o < 0x1100 then [(0x1000, 0x04110001), (0x1004, 0x10020002), (0x1008, 0x18020004), (0x100C, 0x20030005),
    (0x1010, (0x28020007 : W32))].lookup o |>.getD 0
  else if o = 0x1100 then (if ras then 0x4000 else 0)
  else if o = 0x1104 then k.ueMask
  else if o = 0x1108 then k.ueSeverity
  else if o = 0x1110 then k.ceMask
  else if o = 0x1114 then (if ras then 14 else 0)
  else if o = 0x1188 then k.linkControl ||| (if c.cacheEn || c.memEn then 0x18 else 0)
  else if o = 0x1200 then 1
  else if o = 0x1204 then k.hdmControl
  else if 0x1210 ≤ o ∧ o < 0x1230 then decoderWord 0 c.dec0 (o - 0x1210)
  else if 0x1230 ≤ o ∧ o < 0x1250 then decoderWord 1 c.dec1 (o - 0x1230)
  else if o = 0x1280 then 0x20007
  else if o = 0x1284 then k.ideControl
  else if o = 0x1288 then (if !c.ideCm then 0x44 else if c.config.ideSkid then 0x22 else 0x11)
  else if o = 0x128C then (if k.ideCleared < c.ideFailures then 1 else 0)
  else 0

/-- The words of the component block that its layout names (log 103). -/
def compNamed (o : Nat) : Bool :=
  [(0x1000, 0x1014), (0x1100, 0x1158), (0x1180, 0x1190), (0x1200, 0x1208), (0x1210, 0x1250), (0x1280, 0x1290)].any
    (fun r => decide (r.1 ≤ o) && decide (o < r.2))

/-- The granule of BAR0 at an offset that is a multiple of 8 (R496); reserved offsets read as zero (R281). -/
def readGran (v : Dev) (o : Nat) : W64 :=
  if o < 0x1000 then readDev v (o / 8)
  else if o < 0x2000 then readPace v ((o - 0x1000) / 8)
  else if o < 0x3000 then readCxl v.cxl ((o - 0x2000) / 8)
  else if o < 0x4000 then readArb v ((o - 0x3000) / 8)
  else if o < 0x10000 then 0
  else if o < 0x11000 then readCtx (getCtx v ((o - 0x10000) / 0x40)) (o % 0x40 / 8)
  else if o < 0x20000 then 0
  else if o < 0x40000 then readRing (getRing v ((o - 0x20000) / 0x20)) (o % 0x20 / 8)
  else if o < 0x48000 then
    let l := getDb v ((o - 0x40000) / 8)
    placeB 0 l.valid ||| placeB 1 l.held ||| place 6 l.addr
  else if o < 0x48028 then readAttn v.attn ((o - 0x48000) / 8)
  else if o < 0x50000 then 0
  else if o < 0x50018 then readFab v ((o - 0x50000) / 8)
  else if o < 0x50100 then 0
  else if o < 0x501C0 then portCfg (getPort v ((o - 0x50100) / 8))
  else if o < 0x50200 then 0
  else if o < 0x502C0 then portStatus (getPort v ((o - 0x50200) / 8))
  else if o < 0x51000 then 0
  else if o < 0x52000 then readGroup (getGroup v ((o - 0x51000) / 16)) (o % 16 / 8)
  else if o < 0x54000 then routeReg (getRoute v ((o - 0x52000) / 8))
  else if o < 0x58000 then readMember v ((o - 0x54000) / 16) (o % 16 / 8)
  else if o < 0x60000 then 0
  else if o < 0x60030 then readMould v.mould ((o - 0x60000) / 8)
  else if o < 0x60100 then 0
  else if o < 0x60180 then readPair (getPair v ((o - 0x60100) / 0x20)) false (o % 0x20 / 8)
  else if o < 0x60200 then 0
  else if o < 0x60220 then readPair (getPair v 4) true (o % 0x20 / 8)
  else if o < 0x70000 then 0
  else if o < 0x70018 then readCtr v.ctr ((o - 0x70000) / 8)
  else if o < 0x70100 then 0
  else if o < 0x70500 then readMirror (getMirror v ((o - 0x70100) / 16)) (o % 16 / 8)
  else if o < 0x80000 then 0
  else if o < 0x80040 then readTrc v.trc ((o - 0x80000) / 8)
  else if o < 0x90000 then 0
  else if o < 0x90070 then readArm v.arm ((o - 0x90000) / 8)
  else if 0xA0000 ≤ o ∧ o < 0xA00D8 then readSns v.sns ((o - 0xA0000) / 8)
  else if 0xF0000 ≤ o ∧ o < 0x100000 then pairReg ((compWord v.cxl (o - 0xF0000)).setWidth 64) ((compWord v.cxl (o - 0xF0000 + 4)).setWidth 64)
  else 0

/-- The 32-bit word of BAR0 at an offset that is a multiple of 4. -/
def readWord (v : Dev) (o : Nat) : W32 :=
  let g := readGran v (o - o % 8)
  if o % 8 = 0 then g.setWidth 32 else (g >>> 32).setWidth 32

/-- The 32-bit words in whose span a field map names a field (R496); every other offset is reserved. -/
def namedWord (o : Nat) : Bool :=
  if o < 0x1000 then [0x0, 0x4, 0x8, 0xC, 0x10, 0x18, 0x1C, 0x20, 0x28, 0x30, 0x34].contains o
  else if o < 0x2000 then
    (decide (o ≤ 0x1018)) || [0x1020, 0x1024, 0x1028, 0x102C, 0x1040, 0x1044, 0x1048, 0x104C].contains o
  else if o < 0x3000 then decide (o ≤ 0x2010)
  else if o < 0x4000 then decide (o < 0x3020)
  else if o < 0x10000 then false
  else if o < 0x11000 then o % 0x40 ≠ 0x34
  else if o < 0x20000 then false
  else if o < 0x48000 then true
  else if o < 0x50000 then [0x48000, 0x48008, 0x4800C, 0x48010, 0x48014, 0x48018, 0x4801C, 0x48020].contains o
  else if o < 0x50100 then decide (o < 0x50018)
  else if o < 0x50200 then decide (o < 0x501C0) && o % 8 = 0
  else if o < 0x51000 then decide (o < 0x502C0)
  else if o < 0x58000 then true
  else if o < 0x60000 then false
  else if o < 0x60100 then decide (o < 0x60030) && o ≠ 0x60014
  else if o < 0x60200 then decide (o < 0x60180) && o % 0x20 ≠ 0xC && o % 0x20 ≠ 0x1C
  else if o < 0x70000 then [0x60200, 0x60204, 0x60208].contains o
  else if o < 0x70100 then [0x70000, 0x70008, 0x7000C, 0x70010].contains o
  else if o < 0x80000 then decide (o < 0x70500) && o % 16 ≠ 0xC
  else if o < 0x90000 then decide (o < 0x80040) && !([0x8000C, 0x80014, 0x8001C, 0x80034].contains o)
  else if o < 0xA0000 then
    [0x90000, 0x90004, 0x90008, 0x90010, 0x90014, 0x90018, 0x90020, 0x90024, 0x90028, 0x90030].contains o ||
      (decide (0x90040 ≤ o) && decide (o < 0x90070))
  else if o < 0xB0000 then
    let s := o - 0xA0000
    decide (s < 0x20) || (decide (0x40 ≤ s) && decide (s < 0x68)) || [0x80, 0x84, 0x90, 0x94].contains s ||
      (decide (0xA0 ≤ s) && decide (s < 0xBC)) || (decide (0xC0 ≤ s) && decide (s < 0xD8))
  else decide (0xF0000 ≤ o) && compNamed (o - 0xF0000)

end Sys2Proof.Machine
end

