-- ==== Sys2Proof/Machine/Regs.lean ====
section
/-! DEFINITION. Writes of BAR0 by any offset, and the management views: recovery loads, I3C, JTAG and the debug port (R42, R271,
R281, R282, R445, R480, R489, R490, R504). -/

namespace Sys2Proof.Machine

open Sys2Proof

/-! ### Writes, block by block -/

/-- DEV_SCRATCH is the block's one field that is written (R499). -/
def writeDev (g : Nat) (b : Bar) (v : Dev) : Dev :=
  if g = 6 then { v with blk := { v.blk with scratch := b.merge v.blk.scratch } } else v

/-- PACE_CTRL (R45). -/
def paceCtrl (x : W64) (v : Dev) : Dev :=
  let m : BitVec 2 := fld 2 0 x
  { v with pace := { v.pace with mode := if m.toNat ≤ 1 then m else v.pace.mode, attnEn := bitAt 2 x } }

/-- PACE_PSTATE (R480): REFUSED is cleared first, then PARK_REQ acts. -/
def pstateWrite (x : W64) (v : Dev) : Dev :=
  let v := { v with pace := { v.pace with parkRefused := v.pace.parkRefused && !bitAt 4 x } }
  if bitAt 0 x then parkEnter v else parkLeave v

/-- The PACE_ block (R45 to R48, R480). -/
def writePace (g : Nat) (b : Bar) (v : Dev) : Dev :=
  let set (f : Pace → Pace) (v : Dev) : Dev := { v with pace := f v.pace }
  let lo := fld 32 0 b.val
  let hi := fld 32 32 b.val
  if g = 0 then
    let v := if b.lo then paceCtrl b.val v else v
    if b.hi then set (fun p => { p with target := clampW 550 1350 (hi.setWidth 16) }) v else v
  else if g = 1 then
    let v := if b.lo then set (fun p => { p with cap := clampW 1000 4000 (lo.setWidth 13) }) v else v
    if b.hi then set (fun p => { p with tjLimit := clampW 60 100 (hi.setWidth 7) }) v else v
  else if g = 2 then
    (if b.lo then set (fun p => { p with vcoreSet := BitVec.ofNat 10 (clampNat 500 800 (lo.setWidth 10).toNat / 5 * 5) }) v else v)
  else if g = 4 then
    (if b.lo then set (fun p => { p with
      targetMissed := p.targetMissed && !bitAt 3 b.val, capGated := p.capGated && !bitAt 4 b.val }) v else v)
  else if g = 9 then
    let v := if b.lo then set (fun p => { p with tbLost := p.tbLost && !bitAt 16 b.val }) v else v
    if b.hi then pstateWrite (b.val >>> 32) v else v
  else v

/-- The DEV_CXL_ block (R296, R298). -/
def writeCxl (g : Nat) (b : Bar) (v : Dev) : Dev :=
  if g = 0 && b.lo then setCxl (fun c => { c with ideReq := bitAt 0 b.val }) v
  else if g = 1 && b.lo then setCxl (fun c => { c with errValid := c.errValid && !bitAt 0 b.val }) v
  else v

/-- The ARB_ block (R264, R273, R274). -/
def writeArb (g : Nat) (b : Bar) (v : Dev) : Dev :=
  let lo := fld 32 0 b.val
  let hi := fld 32 32 b.val
  if g < 2 then
    let v := if b.lo then writeClass (2 * g) (lo.setWidth 18) v else v
    if b.hi then writeClass (2 * g + 1) (hi.setWidth 18) v else v
  else if g < 4 then
    let q (x : W32) : Nat := x.toNat % 256
    let win (x : W32) : Nat := x.toNat / 256 % 65536
    let v := if b.lo then writeQuota (2 * (g - 2)) (q lo) (win lo) v else v
    if b.hi then writeQuota (2 * (g - 2) + 1) (q hi) (win hi) v else v
  else v

/-- A recovery load (R445): the image that came back from host memory checked and started, in WAIT_RECOVERY only. -/
def recover (img : List Byte) (readOk : Bool) (w : Work) : Work :=
  if !starting 2 w.dev then w
  else recoverWith img (readOk && w.dev.cxl.busMaster && decide (img.length = w.dev.arm.recovBytes.toNat)) w

/-- The read requests of a recovery load: CXL.io memory reads of BYTES bytes from the host physical address ARM_RECOV_ADDR,
without ATS, of at most 4,096 bytes each (R288, R445). -/
def recovAsks (v : Dev) : Dev :=
  { v with out := v.out ++ hostPieces true false v.arm.recovAddr.toNat v.arm.recovBytes.toNat 4096 }

/-- ARM_RECOV_CTRL (R459): BYTES, and with GO the load of the image that `img` answers to the reads (R445). -/
def recovWrite (x : W64) (img : Work → List Byte × Bool) (w : Work) : Work :=
  let w := onDev (fun v => { v with arm := { v.arm with recovBytes := fld 25 0 x } }) w
  if bitAt 31 x then
    let r := if w.dev.cxl.busMaster then img w else ([], false)
    recover r.1 r.2 (if starting 2 w.dev && w.dev.cxl.busMaster then onDev recovAsks w else w)
  else w

/-- The bytes of host memory, as the host has given them (log 6), that a recovery load reads (R445). -/
def recovImage (w : Work) : List Byte × Bool := (peeks .host w.dev.arm.recovAddr.toNat w.dev.arm.recovBytes.toNat w, true)

/-- The ARM_ block (R459, R489): UNLOCK is cleared by no write. -/
def writeArm (g : Nat) (b : Bar) (w : Work) : Work :=
  if g = 4 then onDev (fun v => { v with arm := { v.arm with recovAddr := b.merge v.arm.recovAddr } }) w
  else if g = 5 && b.lo then recovWrite b.val recovImage w
  else if g = 6 && b.lo then
    onDev (fun v => { v with arm := { v.arm with debugUnlock := v.arm.debugUnlock || bitAt 0 b.val } }) w
  else w

/-- A word of one HDM decoder's registers written: BASE, a multiple of 256 MiB, or the commit bit (R283; log 79, 103). -/
def decoderSet (o : Nat) (x : W32) (d : Decoder) : Decoder :=
  if o = 0x00 then { d with base := (d.base &&& 0xFFFFFFFF00000000) ||| (x &&& 0xF0000000).setWidth 64 }
  else if o = 0x04 then { d with base := (d.base &&& 0xFFFFFFFF) ||| (x.setWidth 64 <<< 32) }
  else if o = 0x10 then { d with committed := x.getLsbD 9 }
  else d

/-- A word of the CXL component registers written, by its offset in the block (log 103). -/
def compSet (o : Nat) (x : W32) (c : Cxl) : Cxl :=
  let k := c.component
  if o = 0x1100 then { c with component := { k with rasCleared := if x.getLsbD 14 then c.rasInternal else k.rasCleared } }
  else if o = 0x1104 then { c with component := { k with ueMask := x &&& 0x1CFFF } }
  else if o = 0x1108 then { c with component := { k with ueSeverity := x &&& 0x1CFFF } }
  else if o = 0x1110 then { c with component := { k with ceMask := x &&& 0x7F } }
  else if o = 0x1188 then { c with component := { k with linkControl := x &&& 6 } }
  else if o = 0x1204 then { c with component := { k with hdmControl := x &&& 3 } }
  else if 0x1210 ≤ o ∧ o < 0x1230 then { c with dec0 := decoderSet (o - 0x1210) x c.dec0 }
  else if 0x1230 ≤ o ∧ o < 0x1250 then { c with dec1 := decoderSet (o - 0x1230) x c.dec1 }
  else if o = 0x1284 then { c with component := { k with ideControl := x &&& 3 } }
  else if o = 0x128C then { c with component := { k with ideCleared := if x.getLsbD 0 then c.ideFailures else k.ideCleared } }
  else c

/-- A granule of the CXL component registers written. -/
def compWrite (o : Nat) (b : Bar) (v : Dev) : Dev :=
  let v := if b.lo then setCxl (compSet o (b.val.setWidth 32)) v else v
  if b.hi then setCxl (compSet (o + 4) ((b.val >>> 32).setWidth 32)) v else v

/-- A write of one granule of BAR0 (R281, R496); the lower of two registers acts first. -/
def writeGran (o : Nat) (b : Bar) (w : Work) : Work :=
  if o < 0x1000 then onDev (writeDev (o / 8) b) w
  else if o < 0x2000 then onDev (writePace ((o - 0x1000) / 8) b) w
  else if o < 0x3000 then onDev (writeCxl ((o - 0x2000) / 8) b) w
  else if o < 0x4000 then onDev (writeArb ((o - 0x3000) / 8) b) w
  else if o < 0x10000 then w
  else if o < 0x11000 then onDev (ctxWrite ((o - 0x10000) / 0x40) (o % 0x40 / 8) b) w
  else if o < 0x20000 then w
  else if o < 0x40000 then ringWrite ((o - 0x20000) / 0x20) (o % 0x20 / 8) b w
  else if o < 0x48000 then onDev (dbWrite ((o - 0x40000) / 8) b) w
  else if o < 0x48028 then onDev (attnWrite ((o - 0x48000) / 8) b) w
  else if o < 0x50000 then w
  else if o < 0x50008 then onDev (fabWrite b) w
  else if o < 0x50100 then w
  else if o < 0x501C0 then portWrite ((o - 0x50100) / 8) b w
  else if o < 0x51000 then w
  else if o < 0x52000 then groupWrite ((o - 0x51000) / 16) (o % 16 / 8) b w
  else if o < 0x54000 then routeWrite ((o - 0x52000) / 8) b w
  else if o < 0x60000 then w
  else if o < 0x60030 then onDev (mouldWrite ((o - 0x60000) / 8) b) w
  else if o < 0x60100 then w
  else if o < 0x60180 then pairWrite ((o - 0x60100) / 0x20) (o % 0x20 / 8) b w
  else if o < 0x60200 then w
  else if o < 0x60220 then pairWrite 4 (o % 0x20 / 8) b w
  else if o < 0x70000 then w
  else if o < 0x70018 then ctrWrite ((o - 0x70000) / 8) b w
  else if o < 0x70100 then w
  else if o < 0x70500 then onDev (mirrorWrite ((o - 0x70100) / 16) (o % 16 / 8) b) w
  else if o < 0x80000 then w
  else if o < 0x80040 then trcWrite ((o - 0x80000) / 8) b w
  else if 0x90000 ≤ o ∧ o < 0x90070 then writeArm ((o - 0x90000) / 8) b w
  else if 0xF0000 ≤ o ∧ o < 0x100000 then onDev (compWrite (o - 0xF0000) b) w
  else w

/-! ### Host writes (R281 to R283, R445) -/

/-- The 32-bit words an access reaches. -/
def reached (off : Nat) (wide : Bool) : List Nat := if wide then [off, off + 4] else [off]

/-- An access of a legal size is aligned to it (R281). -/
def aligned (off : Nat) (wide : Bool) : Bool := off % (if wide then 8 else 4) = 0

/-- An access answered with Unsupported Request, which AER's uncorrectable error status shows (R275, R281; bit 20, log 102). -/
def unsupported (v : Dev) : Dev :=
  emit .unsupportedRequest (setCxl (fun c => { c with config := { c.config with
    aerUncorrectable := c.config.aerUncorrectable ||| (1#32 <<< 20) } }) v)

/-- A write of BAR0: ignored where nothing it reaches is live and named, refused and counted once outside the IDE stream when
IDE_REQ is 1, and otherwise applied (R281, R282). -/
def barWrite (off : Nat) (wide : Bool) (hw : HostWrite) (w : Work) : Work :=
  if !aligned off wide then onDev unsupported w
  else if !((reached off wide).any namedWord) || !blockLive w.dev off then w
  else if ideRefused w.dev hw.ide then onDev (ctrAdd 0x3FF 0 1) w
  else writeGran (off - off % 8) (barOf off wide hw.value) w

/-- A write of a standard HDM decoder: BASE, a multiple of 256 MiB, and whether it is committed (R283). -/
def decoderWrite (n : Nat) (commit : Bool) (hw : HostWrite) (v : Dev) : Dev :=
  if ideRefused v hw.ide then ctrAdd 0x3FF 0 1 v
  else
    let d : Decoder := { base := hw.value &&& ~~~0xFFFFFFF, committed := commit }
    setCxl (fun c => if n = 0 then { c with dec0 := d } else { c with dec1 := d }) v

/-- A write of the mode of CXL.cachemem IDE (R282, R291). -/
def ideModeWrite (skid : Bool) (hw : HostWrite) (v : Dev) : Dev :=
  if ideRefused v hw.ide then ctrAdd 0x3FF 0 1 v
  else setCxl (fun c => { c with config := { c.config with ideSkid := skid } }) v

/-- A write of the host, once its requests are answered. -/
def hostWrite (t : HostTarget) (wide : Bool) (hw : HostWrite) (w : Work) : Work :=
  if !barReached w.dev then w
  else
    match t with
    | .bar0 off => barWrite off wide hw w
    | .decoder n commit => onDev (decoderWrite n.val commit hw) w
    | .busMaster on => onDev (setCxl (fun c => { c with busMaster := on })) w
    | .ideMode skid => onDev (ideModeWrite skid hw) w

/-- An access of a size other than 4 and 8, or not aligned to its size (R281). -/
def unsupportedAccess (off size : Nat) (v : Dev) : Dev :=
  if barReached v && !((size = 4 || size = 8) && off % size = 0) then unsupported v else v

/-! ### The time base read in halves (R42) -/

/-- The high word latched for a reader. -/
def latchTime (who : TimeReader) (v : Dev) : Dev :=
  { v with pace := { v.pace with
      shadows := v.pace.shadows.filter (fun c => c.1 ≠ who) ++ [(who, (v.pace.time >>> 32).setWidth 32)] } }

/-- A reader's high word: its shadow, which the read uses up, or the live one. -/
def highWord (who : TimeReader) (v : Dev) : W32 × Dev :=
  match v.pace.shadows.find? (fun c => c.1 = who) with
  | some c => (c.2, { v with pace := { v.pace with shadows := v.pace.shadows.filter (fun d => d.1 ≠ who) } })
  | none => ((v.pace.time >>> 32).setWidth 32, v)

/-- A reader that the device answers. -/
def timeReader (who : TimeReader) (v : Dev) : Bool :=
  match who with
  | .host => barReached v
  | .debug => v.arm.debugUnlock && v.power.state ≠ .off

/-- A read of PACE_TIME: zero while its block is not live (R281), else a half or, untorn, the whole (R42). -/
def timeRead (who : TimeReader) (part : TimePart) (v : Dev) : Dev :=
  if !timeReader who v then v
  else if !blockLive v 0x1040 then emit (.barData 0) v
  else
    match part with
    | .low => emit (.barData (v.pace.time &&& 0xFFFFFFFF)) (latchTime who v)
    | .high =>
      let (x, v) := highWord who v
      emit (.barData (x.setWidth 64)) v
    | .whole => emit (.barData v.pace.time) v

/-! ### I3C (R490, R504) -/

/-- A word of the management view: its BAR0 value, or zero for an offset outside the table. -/
def i3cWord (v : Dev) (o : Nat) : W32 :=
  let ok := o % 4 = 0 &&
    ((decide (0xA0000 ≤ o) && decide (o < 0xA00D8)) || [0x0, 0x4, 0x28, 0x1018, 0x1020, 0x90000].contains o ||
      (o = 0x50000 && v.power.strapsLatched))
  if ok then readWord v o else 0

/-- The I3C target answers: the always-on rail is up, and VIO18, which an input fault takes from its pins (R477, R478, R490). -/
def i3cUp (v : Dev) : Bool := v.power.vaon && v.power.state ≠ .off

/-- A private write of four bytes sets the offset. -/
def i3cSet (off : W32) (v : Dev) : Dev :=
  if !i3cUp v then v else { v with mgmt := { v.mgmt with i3cOffset := off } }

/-- A private read of 4 or 8 bytes. -/
def i3cGet (wide : Bool) (v : Dev) : Dev :=
  if !i3cUp v then v
  else
    let o := v.mgmt.i3cOffset.toNat
    let bs := leBytes 4 (i3cWord v o).toNat ++ (if wide then leBytes 4 (i3cWord v (o + 4)).toNat else [])
    freeNext (emit (.i3cData bs) v)

/-! ### JTAG (R489) -/

/-- An instruction of the JTAG port taken, where VIO18 is up, which a trip leaves on (R478, R479): every one but EXTEST leaves the
pins to the device. -/
def jtagTake (i : JtagInstr) (f : Dev → Dev) (v : Dev) : Dev :=
  if v.power.state = .off then v else f { v with mgmt := { v.mgmt with jtag := i, pinsDriven := i = .extest } }

/-- BYPASS: one bit shifted through the one-bit register, which captures 0 as the instruction comes into force. -/
def jtagBypass (tdi : Bool) (v : Dev) : Dev :=
  let old := v.mgmt.jtag = .bypass && v.mgmt.bypassBit
  jtagTake .bypass (fun v => emit (.jtagBit old) { v with mgmt := { v.mgmt with bypassBit := tdi } }) v

/-- SAMPLE/PRELOAD: the pins' levels, which the spec does not give, come out as the boundary register is loaded. -/
def jtagSample (bits : List Bool) (v : Dev) : Dev :=
  jtagTake .samplePreload (fun v =>
    let seen := (upto bits.length).map (fun i => (Config.freeWord (v.free + i)).getLsbD 0)
    emit (.jtagPins seen) { v with mgmt := { v.mgmt with boundary := bits }, free := v.free + bits.length }) v

/-- EXTEST: the boundary register drives the pins while PERST_L is low. -/
def jtagExtest (v : Dev) : Dev :=
  if v.power.perstLow then jtagTake .extest (fun v => emit (.jtagPins v.mgmt.boundary) v) v else v

/-! ### The debug port (R239, R260, R270, R271, R489) -/

/-- The arbiter instance of a memory access, and the beat it moves: its base and its bytes (R237, R243, R259). -/
def debugBeat (a : Nat) (write : Bool) : Nat × Nat × Nat :=
  if a < cstoreBase then (32 * stackOf a + channelOf a, a / 64 * 64, 64)
  else (640 + 128 * storeCore a + 2 * (a / 128 % 64) + b2n write, a / 128 * 128, 128)

/-- A debug write's byte: none in a word or granule that is uncorrectable and written in part (R505). -/
def debugByte (lo hi : Nat) (w : Work) (a : Nat) (b : Byte) : Work :=
  let g := granuleBase a
  if isUe w.dev g && !(decide (lo ≤ g) && decide (g + granule a ≤ hi)) then w
  else poke .dev a b w

/-- Uncorrectable words and granules that a write from `lo` to `hi` covers whole are good again (R257). -/
def debugHeal (lo hi : Nat) (v : Dev) : Dev :=
  { v with ue := v.ue.filter (fun g => !(decide (lo ≤ g) && decide (g + granule g ≤ hi))) }

/-- The lines of a beat that a range of bytes touches, each held back by the directory (R285). -/
def debugGates (lo n : Nat) (write : Bool) : Acc Unit := do
  for l in (upto (n / 64 + 1)).map (fun i => (lo + 64 * i) / 64) do
    if l * 64 < lo + n then snoopGate (l * 64) write

/-- One beat read: whole, or an uncorrectable error. -/
def debugRead (base n : Nat) : Acc (List Byte) := (upto n).mapM (fun i => readPhys 0 (base + i))

/-- Bytes of one beat written. -/
def debugStore (a : Nat) (bs : List Byte) : Acc Unit := do
  debugGates a bs.length true
  let hi := a + bs.length
  let w ← get
  let bad := w.dev.ue.find? (fun g => decide (g < hi) && decide (a < g + granule g) && !(decide (a ≤ g) && decide (g + granule g ≤ hi)))
  set (onDev (debugHeal a hi) ((bs.zipIdx).foldl (fun w c => debugByte a hi w (a + c.2) c.1) w))
  match bad with
  | some g => do
    modify (onDev (meetUe 0 g))
    throw (.fail stMemoryUe 0)
  | none => pure ()

/-- One access of the debug port to memory: it takes the resource as an emergency requester, when `moved` beats of the grant it
revokes have moved, moves one beat, and gives the resource back. -/
def debugMem (a : Nat) (write : Bool) (moved : Nat) (body : Nat → Nat → Acc (List Byte)) (w : Work) : Work :=
  let (i, base, n) := debugBeat a write
  let w1 := onDev (emergencyRevoke i .debug moved) w
  if !w.dev.power.railsUp || !populated a || (getArb w1.dev i).emergency ≠ some .debug then w
  else
    match (body base n).run w1 with
    | (.ok bs, w2) => onDev (fun v => emergencyEnd i (emit (.debugData bs) v)) (snoopsUsed w2)
    | (.error (.fail _ _), w2) => onDev (emergencyEnd i) (snoopsUsed w2)
    | (.error .wait, _) => w

/-- A 32-bit register read by the debug port: the high word of PACE_TIME after its low word gives the shadow (R42). -/
def debugReg (o : Nat) (v : Dev) : Dev :=
  let x := if blockLive v o then readWord v o else 0
  let out (y : W32) (v : Dev) : Dev := freeNext (emit (.debugData (leBytes 4 y.toNat)) v)
  if o = 0x1040 && blockLive v o then out x (latchTime .debug v)
  else if o = 0x1044 && blockLive v o then
    let (y, v) := highWord .debug v
    out y v
  else out x v

/-- A debug instruction, accepted only while UNLOCK is 1 (R489); with the rails off nothing that it reaches runs (R479). -/
def debugAccess (t : DebugTarget) (w : Work) : Work :=
  let w1 := onDev (jtagTake .debug (fun v => v)) w
  if !w.dev.arm.debugUnlock || !w.dev.power.railsUp then w
  else
    match t with
    | .readMem a moved => debugMem a false moved (fun base n => debugRead base n) w1
    | .writeMem a bs moved =>
      debugMem a true moved (fun base n => do
        if bs.length ≠ 0 && base + n < a + bs.length then throw .wait
        debugStore a bs
        pure []) w1
    | .readReg o => if o % 4 = 0 then onDev (debugReg o) w1 else w1
    | .writeReg o x =>
      if o % 4 = 0 && blockLive w1.dev o then writeGran (o - o % 8) (barOf o false (x.setWidth 64)) w1 else w1

/-! ### Meanings -/

/-- RECOVERY_LOAD (R445): a 32-bit write of ARM_RECOV_CTRL with GO = 1, and the image that came back. -/
def execRecoveryLoad (hw : HostWrite) (img : List Byte) (readOk : Bool) (s : State) : Host.Outcome State Fault Refusal :=
  runWork (guarded 0x90028 hw.ide (recovWrite (hw.value ||| placeB 31 true) (fun _ => (img, readOk)))) s
/-- BAR0_WRITE (R281, R282). -/
def execBar0Write (t : HostTarget) (wide : Bool) (hw : HostWrite) (s : State) : Host.Outcome State Fault Refusal :=
  runWork (hostWrite t wide hw) s
/-- BAR0_UNSUPPORTED_ACCESS (R281): a read or a write alike. -/
def execBar0UnsupportedAccess (off size : Nat) (_write : Bool) (s : State) : Host.Outcome State Fault Refusal :=
  runDev (unsupportedAccess off size) s
/-- I3C_SET_OFFSET (R504). -/
def execI3cSetOffset (off : W32) (s : State) : Host.Outcome State Fault Refusal := runDev (i3cSet off) s
/-- I3C_READ (R504). -/
def execI3cRead (wide : Bool) (s : State) : Host.Outcome State Fault Refusal := runDev (i3cGet wide) s
/-- JTAG_BYPASS (R489). -/
def execJtagBypass (tdi : Bool) (s : State) : Host.Outcome State Fault Refusal := runDev (jtagBypass tdi) s
/-- JTAG_IDCODE (R489). -/
def execJtagIdcode (s : State) : Host.Outcome State Fault Refusal :=
  runDev (jtagTake .idcode (emit (.jtagIdcode 0x07720967))) s
/-- JTAG_SAMPLE_PRELOAD (R489). -/
def execJtagSamplePreload (bits : List Bool) (s : State) : Host.Outcome State Fault Refusal := runDev (jtagSample bits) s
/-- JTAG_EXTEST (R489). -/
def execJtagExtest (s : State) : Host.Outcome State Fault Refusal := runDev jtagExtest s
/-- DEBUG_ACCESS (R271, R489). -/
def execDebugAccess (t : DebugTarget) (s : State) : Host.Outcome State Fault Refusal :=
  runWork (debugAccess t) s
/-- PARK_ENTER (R480): a 32-bit write of PACE_PSTATE with PARK_REQ = 1. -/
def execParkEnter (hw : HostWrite) (s : State) : Host.Outcome State Fault Refusal :=
  runWork (guarded 0x104C hw.ide (onDev (pstateWrite (hw.value ||| 1)))) s
/-- PARK_LEAVE (R480): a 32-bit write of PACE_PSTATE with PARK_REQ = 0; the fetch that also leaves park is DESCRIPTOR_FETCH. -/
def execParkLeave (hw : HostWrite) (s : State) : Host.Outcome State Fault Refusal :=
  runWork (guarded 0x104C hw.ide (onDev (pstateWrite (hw.value &&& ~~~1)))) s
/-- PACE_TIME_LOW_READ (R42): with the reads of the high word and of both that go with it. -/
def execPaceTimeLowRead (r : TimeRead) (s : State) : Host.Outcome State Fault Refusal :=
  runDev (timeRead r.who r.part) s

end Sys2Proof.Machine
end

