-- ==== Sys2Proof/Machine/Dispatch.lean ====
section
/-! DEFINITION. exec: one arm per command, in the order of the table of operations and events. -/

namespace Sys2Proof.Machine

open Sys2Proof

def exec (i : Instr) (s : State) : Host.Outcome State Fault Refusal :=
  match i with
  | .powerUp straps refclkOk => Sys2Proof.Machine.execPowerUp straps refclkOk s
  | .inputFaultTurnOff => Sys2Proof.Machine.execInputFaultTurnOff s
  | .inputRestored straps refclkOk => Sys2Proof.Machine.execInputRestored straps refclkOk s
  | .perstLAssert => Sys2Proof.Machine.execPerstLAssert s
  | .perstLRelease => Sys2Proof.Machine.execPerstLRelease s
  | .romStart puf flashOk => Sys2Proof.Machine.execRomStart puf flashOk s
  | .memoryInitDone => Sys2Proof.Machine.execMemoryInitDone s
  | .startupSelfTest failedCores failedStacks => Sys2Proof.Machine.execStartupSelfTest failedCores failedStacks s
  | .recoveryLoad w image readOk => Sys2Proof.Machine.execRecoveryLoad w image readOk s
  | .flashUpdate kind w privileged => Sys2Proof.Machine.execFlashUpdate kind w privileged s
  | .watchdogExpiry => Sys2Proof.Machine.execWatchdogExpiry s
  | .cxlLinkUp rate x16 flit256 => Sys2Proof.Machine.execCxlLinkUp rate x16 flit256 s
  | .linkReset => Sys2Proof.Machine.execLinkReset s
  | .cxlEnable => Sys2Proof.Machine.execCxlEnable s
  | .ideMacFailure => Sys2Proof.Machine.execIdeMacFailure s
  | .hdmRead addr => Sys2Proof.Machine.execHdmRead addr s
  | .hdmWrite addr line mask poison => Sys2Proof.Machine.execHdmWrite addr line mask poison s
  | .backInvalidate line write => Sys2Proof.Machine.execBackInvalidate line write s
  | .atsInvalidation pasid base sizeLog2 tag => Sys2Proof.Machine.execAtsInvalidation pasid base sizeLog2 tag s
  | .atsInvalidationComplete tag => Sys2Proof.Machine.execAtsInvalidationComplete tag s
  | .atsTranslation d p pasid addr va answer => Sys2Proof.Machine.execAtsTranslation d p pasid addr va answer s
  | .hostReadData d p addr va bytes outcome => Sys2Proof.Machine.execHostReadData d p addr va bytes outcome s
  | .doeObject mailbox o => Sys2Proof.Machine.execDoeObject mailbox o s
  | .doeAbort mailbox => Sys2Proof.Machine.execDoeAbort mailbox s
  | .doeDiscovery mailbox => Sys2Proof.Machine.execDoeDiscovery mailbox s
  | .cdatTableAccess => Sys2Proof.Machine.execCdatTableAccess s
  | .getVersion => Sys2Proof.Machine.execGetVersion s
  | .getCapabilities => Sys2Proof.Machine.execGetCapabilities s
  | .negotiateAlgorithms => Sys2Proof.Machine.execNegotiateAlgorithms s
  | .getDigests => Sys2Proof.Machine.execGetDigests s
  | .getCertificate => Sys2Proof.Machine.execGetCertificate s
  | .challenge => Sys2Proof.Machine.execChallenge s
  | .getMeasurements => Sys2Proof.Machine.execGetMeasurements s
  | .keyExchange => Sys2Proof.Machine.execKeyExchange s
  | .finish => Sys2Proof.Machine.execFinish s
  | .keyUpdate => Sys2Proof.Machine.execKeyUpdate s
  | .spdmHeartbeat => Sys2Proof.Machine.execSpdmHeartbeat s
  | .endSession => Sys2Proof.Machine.execEndSession s
  | .chunkSend => Sys2Proof.Machine.execChunkSend s
  | .chunkGet => Sys2Proof.Machine.execChunkGet s
  | .bar0Write t wide w => Sys2Proof.Machine.execBar0Write t wide w s
  | .bar0UnsupportedAccess off size write => Sys2Proof.Machine.execBar0UnsupportedAccess off size write s
  | .i3cSetOffset off => Sys2Proof.Machine.execI3cSetOffset off s
  | .i3cRead wide => Sys2Proof.Machine.execI3cRead wide s
  | .jtagBypass tdi => Sys2Proof.Machine.execJtagBypass tdi s
  | .jtagIdcode => Sys2Proof.Machine.execJtagIdcode s
  | .jtagSamplePreload preload => Sys2Proof.Machine.execJtagSamplePreload preload s
  | .jtagExtest => Sys2Proof.Machine.execJtagExtest s
  | .debugAccess t => Sys2Proof.Machine.execDebugAccess t s
  | .refclockLost => Sys2Proof.Machine.execRefclockLost s
  | .refclockRestored => Sys2Proof.Machine.execRefclockRestored s
  | .paceMonitorWindow f0 f1 f2 f3 => Sys2Proof.Machine.execPaceMonitorWindow f0 f1 f2 f3 s
  | .paceMonitorCalibration => Sys2Proof.Machine.execPaceMonitorCalibration s
  | .governorDecision power aim => Sys2Proof.Machine.execGovernorDecision power aim s
  | .issueGating power => Sys2Proof.Machine.execIssueGating power s
  | .sensorUpdate r => Sys2Proof.Machine.execSensorUpdate r s
  | .sensorCalibration failed => Sys2Proof.Machine.execSensorCalibration failed s
  | .thermalTrip src => Sys2Proof.Machine.execThermalTrip src s
  | .parkEnter w => Sys2Proof.Machine.execParkEnter w s
  | .parkEntered => Sys2Proof.Machine.execParkEntered s
  | .parkLeave w => Sys2Proof.Machine.execParkLeave w s
  | .parkLeft => Sys2Proof.Machine.execParkLeft s
  | .refreshDue ch => Sys2Proof.Machine.execRefreshDue ch s
  | .refreshDone ch => Sys2Proof.Machine.execRefreshDone ch s
  | .patrolScrub addr r => Sys2Proof.Machine.execPatrolScrub addr r s
  | .memoryUe d p word => Sys2Proof.Machine.execMemoryUe d p word s
  | .partialWriteUe d p at_ => Sys2Proof.Machine.execPartialWriteUe d p at_ s
  | .arbDecision inst raised withdrawn => Sys2Proof.Machine.execArbDecision inst raised withdrawn s
  | .backoffEnd inst r => Sys2Proof.Machine.execBackoffEnd inst r s
  | .quotaWindowStart inst => Sys2Proof.Machine.execQuotaWindowStart inst s
  | .emergencyRevoke inst by_ => Sys2Proof.Machine.execEmergencyRevoke inst by_ s
  | .emergencyEnd inst => Sys2Proof.Machine.execEmergencyEnd inst s
  | .ctxEnable x w => Sys2Proof.Machine.execCtxEnable x w s
  | .ctxDisable x w => Sys2Proof.Machine.execCtxDisable x w s
  | .ctxInval x ide => Sys2Proof.Machine.execCtxInval x ide s
  | .ctxInvalDone => Sys2Proof.Machine.execCtxInvalDone s
  | .ringEnable r ide => Sys2Proof.Machine.execRingEnable r ide s
  | .ringDisable r ide => Sys2Proof.Machine.execRingDisable r ide s
  | .replayStart r ide => Sys2Proof.Machine.execReplayStart r ide s
  | .dbLineRegister i0 w => Sys2Proof.Machine.execDbLineRegister i0 w s
  | .dbLineRelease i0 ide => Sys2Proof.Machine.execDbLineRelease i0 ide s
  | .doorbellSnoop i0 => Sys2Proof.Machine.execDoorbellSnoop i0 s
  | .doorbellData i0 line ok => Sys2Proof.Machine.execDoorbellData i0 line ok s
  | .doorbellPoll i0 line ok => Sys2Proof.Machine.execDoorbellPoll i0 line ok s
  | .descriptorFetch r => Sys2Proof.Machine.execDescriptorFetch r s
  | .partComplete d p => Sys2Proof.Machine.execPartComplete d p s
  | .descriptorComplete d => Sys2Proof.Machine.execDescriptorComplete d s
  | .fence d => Sys2Proof.Machine.execFence d s
  | .wait d => Sys2Proof.Machine.execWait d s
  | .waitTimeout d => Sys2Proof.Machine.execWaitTimeout d s
  | .signal d => Sys2Proof.Machine.execSignal d s
  | .stepBoundary r => Sys2Proof.Machine.execStepBoundary r s
  | .abortNoticeReceived group => Sys2Proof.Machine.execAbortNoticeReceived group s
  | .attnRecordWrite => Sys2Proof.Machine.execAttnRecordWrite s
  | .attnEnable w => Sys2Proof.Machine.execAttnEnable w s
  | .attnHeadWrite w => Sys2Proof.Machine.execAttnHeadWrite w s
  | .attnPulseStart => Sys2Proof.Machine.execAttnPulseStart s
  | .attnPulseEnd => Sys2Proof.Machine.execAttnPulseEnd s
  | .mmProduct d => Sys2Proof.Machine.execMmProduct d s
  | .mmBackwardPair d => Sys2Proof.Machine.execMmBackwardPair d s
  | .mmKeep d => Sys2Proof.Machine.execMmKeep d s
  | .mmDrainOnly d => Sys2Proof.Machine.execMmDrainOnly d s
  | .passBoundary e => Sys2Proof.Machine.execPassBoundary e s
  | .shadowExchange e => Sys2Proof.Machine.execShadowExchange e s
  | .bankClose e b => Sys2Proof.Machine.execBankClose e b s
  | .treeEmpty e b => Sys2Proof.Machine.execTreeEmpty e b s
  | .drainComplete e b => Sys2Proof.Machine.execDrainComplete e b s
  | .mov d p => Sys2Proof.Machine.execMov d p s
  | .conv d p => Sys2Proof.Machine.execConv d p s
  | .neg d p => Sys2Proof.Machine.execNeg d p s
  | .abs d p => Sys2Proof.Machine.execAbs d p s
  | .add d p => Sys2Proof.Machine.execAdd d p s
  | .sub d p => Sys2Proof.Machine.execSub d p s
  | .mul d p => Sys2Proof.Machine.execMul d p s
  | .fma d p => Sys2Proof.Machine.execFma d p s
  | .axpby d p => Sys2Proof.Machine.execAxpby d p s
  | .div d p => Sys2Proof.Machine.execDiv d p s
  | .recip d p => Sys2Proof.Machine.execRecip d p s
  | .sqrt d p => Sys2Proof.Machine.execSqrt d p s
  | .rsqrt d p => Sys2Proof.Machine.execRsqrt d p s
  | .max d p => Sys2Proof.Machine.execMax d p s
  | .min d p => Sys2Proof.Machine.execMin d p s
  | .select d p => Sys2Proof.Machine.execSelect d p s
  | .cmpgt d p => Sys2Proof.Machine.execCmpgt d p s
  | .vopGather d p => Sys2Proof.Machine.execVopGather d p s
  | .exp d p => Sys2Proof.Machine.execExp d p s
  | .log d p => Sys2Proof.Machine.execLog d p s
  | .tanh d p => Sys2Proof.Machine.execTanh d p s
  | .sigmoid d p => Sys2Proof.Machine.execSigmoid d p s
  | .softplus d p => Sys2Proof.Machine.execSoftplus d p s
  | .relu d p => Sys2Proof.Machine.execRelu d p s
  | .gelu d p => Sys2Proof.Machine.execGelu d p s
  | .silu d p => Sys2Proof.Machine.execSilu d p s
  | .dsigmoid d p => Sys2Proof.Machine.execDsigmoid d p s
  | .dtanh d p => Sys2Proof.Machine.execDtanh d p s
  | .drelu d p => Sys2Proof.Machine.execDrelu d p s
  | .dexp d p => Sys2Proof.Machine.execDexp d p s
  | .dsoftplus d p => Sys2Proof.Machine.execDsoftplus d p s
  | .dgelu d p => Sys2Proof.Machine.execDgelu d p s
  | .dsilu d p => Sys2Proof.Machine.execDsilu d p s
  | .rsum d p => Sys2Proof.Machine.execRsum d p s
  | .rsumsq d p => Sys2Proof.Machine.execRsumsq d p s
  | .rmax d p => Sys2Proof.Machine.execRmax d p s
  | .rmin d p => Sys2Proof.Machine.execRmin d p s
  | .rcount d p => Sys2Proof.Machine.execRcount d p s
  | .rwelf d p => Sys2Proof.Machine.execRwelf d p s
  | .amax d p => Sys2Proof.Machine.execAmax d p s
  | .runder d p => Sys2Proof.Machine.execRunder d p s
  | .cmbRowstat d p => Sys2Proof.Machine.execCmbRowstat d p s
  | .cmbSumsq d p => Sys2Proof.Machine.execCmbSumsq d p s
  | .cmbWelford d p => Sys2Proof.Machine.execCmbWelford d p s
  | .softmaxNorm d p => Sys2Proof.Machine.execSoftmaxNorm d p s
  | .kernel d => Sys2Proof.Machine.execKernel d s
  | .kernelPartStart d cluster => Sys2Proof.Machine.execKernelPartStart d cluster s
  | .chiselInstruction i0 => Sys2Proof.Machine.execChiselInstruction i0 s
  | .dlaunch i0 => Sys2Proof.Machine.execDlaunch i0 s
  | .dwait i0 => Sys2Proof.Machine.execDwait i0 s
  | .dpoll i0 => Sys2Proof.Machine.execDpoll i0 s
  | .cbar i0 => Sys2Proof.Machine.execCbar i0 s
  | .ecall i0 => Sys2Proof.Machine.execEcall i0 s
  | .kernelTimeout d => Sys2Proof.Machine.execKernelTimeout d s
  | .subDescriptorComplete d => Sys2Proof.Machine.execSubDescriptorComplete d s
  | .statGather d => Sys2Proof.Machine.execStatGather d s
  | .gatherPromote d => Sys2Proof.Machine.execGatherPromote d s
  | .fold d p => Sys2Proof.Machine.execFold d p s
  | .norm d p => Sys2Proof.Machine.execNorm d p s
  | .root d p => Sys2Proof.Machine.execRoot d p s
  | .apply d p => Sys2Proof.Machine.execApply d p s
  | .solve d p => Sys2Proof.Machine.execSolve d p s
  | .allreduce d => Sys2Proof.Machine.execAllreduce d s
  | .reducescatter d => Sys2Proof.Machine.execReducescatter d s
  | .allgather d => Sys2Proof.Machine.execAllgather d s
  | .broadcast d => Sys2Proof.Machine.execBroadcast d s
  | .permute d => Sys2Proof.Machine.execPermute d s
  | .collHeaderFrame f group rank h => Sys2Proof.Machine.execCollHeaderFrame f group rank h s
  | .creditGrant group rank c => Sys2Proof.Machine.execCreditGrant group rank c s
  | .collTimeout d => Sys2Proof.Machine.execCollTimeout d s
  | .copy d p => Sys2Proof.Machine.execCopy d p s
  | .castmarkRecord d => Sys2Proof.Machine.execCastmarkRecord d s
  | .castmarkClose d => Sys2Proof.Machine.execCastmarkClose d s
  | .fingerprint d p => Sys2Proof.Machine.execFingerprint d p s
  | .point d => Sys2Proof.Machine.execPoint d s
  | .losscmp d => Sys2Proof.Machine.execLosscmp d s
  | .testEngine t fail detail => Sys2Proof.Machine.execTestEngine t fail detail s
  | .testCstoreBank t fail detail => Sys2Proof.Machine.execTestCstoreBank t fail detail s
  | .testTidy t fail detail => Sys2Proof.Machine.execTestTidy t fail detail s
  | .testDramChannel t fail detail => Sys2Proof.Machine.execTestDramChannel t fail detail s
  | .testPort t fail detail => Sys2Proof.Machine.execTestPort t fail detail s
  | .testSensors t failed detail => Sys2Proof.Machine.execTestSensors t failed detail s
  | .testDevice t failedCores failedStacks => Sys2Proof.Machine.execTestDevice t failedCores failedStacks s
  | .portEnable p w => Sys2Proof.Machine.execPortEnable p w s
  | .lanesTrained p low high => Sys2Proof.Machine.execLanesTrained p low high s
  | .identityFrame f i0 => Sys2Proof.Machine.execIdentityFrame f i0 s
  | .portRetrain p => Sys2Proof.Machine.execPortRetrain p s
  | .frameReceived p src msg frame m crcOk => Sys2Proof.Machine.execFrameReceived p src msg frame m crcOk s
  | .frameAckTimeout p msg frame => Sys2Proof.Machine.execFrameAckTimeout p msg frame s
  | .frameForward p dest src msg frame m => Sys2Proof.Machine.execFrameForward p dest src msg frame m s
  | .heartbeatSend p => Sys2Proof.Machine.execHeartbeatSend p s
  | .neighbourLost node twin => Sys2Proof.Machine.execNeighbourLost node twin s
  | .announceSend => Sys2Proof.Machine.execAnnounceSend s
  | .announceReceived f hops m => Sys2Proof.Machine.execAnnounceReceived f hops m s
  | .announceTimeout node => Sys2Proof.Machine.execAnnounceTimeout node s
  | .leave w => Sys2Proof.Machine.execLeave w s
  | .groupEnable g w => Sys2Proof.Machine.execGroupEnable g w s
  | .groupDisable g w => Sys2Proof.Machine.execGroupDisable g w s
  | .mouldRoleWrite w => Sys2Proof.Machine.execMouldRoleWrite w s
  | .chargeEnable slot w => Sys2Proof.Machine.execChargeEnable slot w s
  | .chargeDisable slot w => Sys2Proof.Machine.execChargeDisable slot w s
  | .pairingFrame slot m => Sys2Proof.Machine.execPairingFrame slot m s
  | .persistedWrite slot value ide => Sys2Proof.Machine.execPersistedWrite slot value ide s
  | .streamRingEnable w => Sys2Proof.Machine.execStreamRingEnable w s
  | .streamForward => Sys2Proof.Machine.execStreamForward s
  | .ctrSample set ide => Sys2Proof.Machine.execCtrSample set ide s
  | .ctrReset set ide => Sys2Proof.Machine.execCtrReset set ide s
  | .ctrSampleReset set ide => Sys2Proof.Machine.execCtrSampleReset set ide s
  | .mirrorSample x => Sys2Proof.Machine.execMirrorSample x s
  | .pcSample u stall => Sys2Proof.Machine.execPcSample u stall s
  | .traceRecordAccept q => Sys2Proof.Machine.execTraceRecordAccept q s
  | .traceTrigger cause => Sys2Proof.Machine.execTraceTrigger cause s
  | .trcFire w => Sys2Proof.Machine.execTrcFire w s
  | .trcArm w => Sys2Proof.Machine.execTrcArm w s
  | .trcDump w => Sys2Proof.Machine.execTrcDump w s
  | .traceSpillDrain => Sys2Proof.Machine.execTraceSpillDrain s
  | .stitchLineFault line => Sys2Proof.Machine.execStitchLineFault line s
  | .mismatchNotice group rank seq => Sys2Proof.Machine.execMismatchNotice group rank seq s
  | .paceTimeLowRead r => Sys2Proof.Machine.execPaceTimeLowRead r s
  | .birspReceived line => Sys2Proof.Machine.execBirspReceived line s

end Sys2Proof.Machine
end

