-- ==== Sys2Proof/Safety.lean ====
section
/-! DEFINITION. The terms the statements use: a command that runs, bytes as they read, and what a write over the link
needs. -/

namespace Sys2Proof

open Sys2Proof.Machine

/-- A command runs: it answers a next state. -/
def Completes (c : Instr) (s : State) : Prop := ∃ t, exec c s = .next t

/-- A step does not stop the machine. -/
def StepRuns (s : State) : Prop := ∃ t, step s = .next t

/-- A byte of device memory, by device physical address: an open value where the memory has lost its contents (log 25). -/
def memByte (s : State) (a : Nat) : Byte := devByte s.dev s.mem a

/-- A byte of host memory. -/
def hostByte (s : State) (a : Nat) : Byte := tabGet hostDefault s.host a

/-- A byte of flash. -/
def flashByte (s : State) (a : Nat) : Byte := tabGet flashDefault s.flash a

/-- A BAR0 write to a register at an offset arrives over the link, in a block that is live, and IDE_REQ does not refuse
it (R281, R282). -/
def WriteLands (s : State) (off : Nat) (ide : Bool) : Prop :=
  barReached s.dev = true ∧ blockLive s.dev off = true ∧ ideRefused s.dev ide = false

/-- No counter command, mirror write, DUMP or arrived frame of a COPY waits for a snoop, a translation or the link (R26, R335,
R466, R467, R473). -/
def NothingWaits (v : Dev) : Prop :=
  v.ctr.queue = [] ∧ v.ctr.mirrorWaits = [] ∧ v.trc.dumpWaits = false ∧ v.fab.rxWaits = []

/-- The sparse tables of the device are in their canonical form: keys strictly rising, and no entry equal to what an unlisted one
reads as, so that equal contents are equal data. -/
structure TablesWf (v : Dev) : Prop where
  arbs : tabWf {} v.arbs = true
  chans : tabWf {} v.chans = true
  ctxs : tabWf {} v.ctxs = true
  rings : tabWf {} v.rings = true
  engines : tabWf {} v.engines = true
  chisels : tabWf {} v.chisels = true
  ports : tabWf {} v.ports = true
  members : tabWf {} v.members = true
  groups : tabWf {} v.groups = true
  values : tabWf 0 v.ctr.values = true
  epochs : tabWf 0 v.ctr.epochs = true
  samples : tabWf 0 v.ctr.samples = true
  dbLines : tabWf {} v.dbLines = true
  routes : tabWf {} v.routes = true
  timers : tabWf 0 v.timers = true
  mirrors : tabWf {} v.ctr.mirrors = true
  ueTimes : tabWf [] v.ueTimes = true
  scrubbed : tabWf none v.scrubbed = true

/-- Every byte of the three memories reads as the latest of a command's stores to it, and as before where the command
stores nothing. -/
def StoredBy (s t : State) (l : List Store) : Prop :=
  (∀ a, memByte t a = (storeAt .dev a l).getD (memByte s a)) ∧
  (∀ a, hostByte t a = (storeAt .host a l).getD (hostByte s a)) ∧
  (∀ a, flashByte t a = (storeAt .flash a l).getD (flashByte s a))

/-- Part `p` of descriptor `d` has ended with a status, the flags it raised joined to those it had, and every other part
and descriptor, every context, ring, engine, group and port, and the attention ring are as before. -/
def PartEnded (v v' : Dev) (d p : Nat) (st : Byte) (f : Flags) : Prop :=
  (∀ x q, getDesc v d = some x → x.parts[p]? = some q → ∃ q', getDesc v' d = some { x with parts := x.parts.set p q' } ∧
    q'.state = .ended ∧ q'.status = st ∧ q'.flags = Flags.join q.flags f ∧ q'.unit = q.unit ∧ q'.exitCode = q.exitCode) ∧
  (∀ e, e ≠ d → getDesc v' e = getDesc v e) ∧ v'.ctxs = v.ctxs ∧ v'.rings = v.rings ∧ v'.engines = v.engines ∧
  v'.groups = v.groups ∧ v'.ports = v.ports ∧ v'.attn = v.attn

/-- A command runs a part as a whole. Where the part's computation succeeds, its stores take effect, and the part ends with
SUCCESS and the flags raised; where it fails with a status, its destinations become free and the part ends with that status;
where it has to wait, the command changes nothing. Said for device memory that holds its contents (R26, R76, R309, R310). -/
def RunsPart (c : Instr) (d p : Nat) (m : Acc Unit) (s : State) : Prop :=
  (∀ w, m.run (onDev (startPart d p) (workOf s)) = (.ok (), w) → w.wiped = .none → s.dev.power.lost = .none →
    w.dev.power = s.dev.power →
    ∃ t, exec c s = .next t ∧ StoredBy s t w.stores ∧ PartEnded w.dev t.dev d p stSuccess w.flags) ∧
  (∀ w st a, m.run (onDev (startPart d p) (workOf s)) = (.error (.fail st a), w) → st ≠ stMemoryUe →
    (freeDest w).wiped = .none → s.dev.power.lost = .none → w.dev.power = s.dev.power →
    ∃ t, exec c s = .next t ∧ StoredBy s t (freeDest w).stores ∧
      PartEnded (freeDest w).dev t.dev d p st
        (if st = stVersionRetired then { w.flags with versionRetired := true } else w.flags)) ∧
  (∀ w, m.run (onDev (startPart d p) (workOf s)) = (.error .wait, w) → exec c s = .next s)

/-- A command whose part's turn has come: the part ends with FENCED on a fenced core; waits, counted once, where its stream table
has no entry for it; and else runs as a whole (R25, R240, R462). -/
def PartTurn (c : Instr) (d p : Nat) (m : Acc Unit) (s : State) : Prop :=
  (onFenced s.dev d p = true →
    ∃ t, exec c s = .next t ∧ PartEnded s.dev t.dev d p stFenced {} ∧ t.mem = s.mem ∧ t.host = s.host) ∧
  (onFenced s.dev d p = false → ∀ k, stabBlocked s.dev d p = some k →
    (StabIssuer.part d p ∈ s.dev.stabWaits → exec c s = .next s) ∧
    (StabIssuer.part d p ∉ s.dev.stabWaits → exec c s = .next { s with
      dev := ctrAdd (0x100 + k) 4 1 { s.dev with stabWaits := s.dev.stabWaits ++ [.part d p] } })) ∧
  (onFenced s.dev d p = false → stabBlocked s.dev d p = none → RunsPart c d p m s)

/-- The functions of a VOP descriptor and the commands that run their parts (R151, R153, R154, R155, R157). -/
def vopCommands : List (Nat × (Nat → Nat → Instr)) :=
  [(0x00, .mov), (0x01, .neg), (0x02, .abs), (0x03, .add), (0x04, .sub), (0x05, .mul), (0x06, .fma), (0x07, .axpby), (0x08, .div),
   (0x09, .recip), (0x0A, .sqrt), (0x0B, .rsqrt), (0x0C, .max), (0x0D, .min), (0x0E, .select), (0x0F, .cmpgt)] ++
  [(0x10, .vopGather), (0x20, .exp), (0x21, .log), (0x22, .tanh), (0x23, .sigmoid), (0x24, .softplus), (0x25, .relu),
   (0x26, .gelu), (0x27, .silu), (0x30, .dsigmoid), (0x31, .dtanh), (0x32, .drelu), (0x33, .dexp), (0x34, .dsoftplus),
   (0x35, .dgelu), (0x36, .dsilu)] ++
  [(0x40, .rsum), (0x41, .rsumsq), (0x42, .rmax), (0x43, .rmin), (0x44, .rcount), (0x45, .rwelf), (0x46, .amax), (0x47, .runder),
   (0x50, .cmbRowstat), (0x51, .cmbSumsq), (0x52, .cmbWelford), (0x53, .softmaxNorm)]

/-- The rational number that a finite value is. -/
def ratOf : Val → ℚ
  | .num n m e => (sgn n m : ℚ) * (2 : ℚ) ^ e
  | _ => 0

end Sys2Proof
end

