-- ==== Sys2Proof/Certificates/Slice0/Obligations.lean ====
section
/-! DEFINITION. The statements about the model, for the provers. -/

section

open Sys2Proof Sys2Proof.Machine

/-! ### The queue, the memories and reset -/

/-- A step takes the command at the front of the queue and answers what it answers on the state with the rest of the
queue; on an empty queue the time base counts one unit while it runs and nothing else changes (DESIGN CHOICE, log 15). -/
def Obligations.StepRunsTheFrontCommand : Prop :=
  (∀ (c : Instr) (rest : List Instr) (s : State), s.pending = c :: rest → step s = exec c { s with pending := rest }) ∧
  (∀ s : State, s.pending = [] → s.dev.pace.running = true →
    step s = .next { s with dev := { s.dev with pace := { s.dev.pace with time := s.dev.pace.time + 1 } } }) ∧
  (∀ s : State, s.pending = [] → s.dev.pace.running = false → step s = .next s)

/-- Every step keeps the three memories in their canonical form: addresses strictly rising, and no byte listed that equals
what an unlisted address reads as. -/
def Obligations.EveryStepKeepsMemoriesCanonical : Prop :=
  ∀ s t : State, Memory.wf s = true → step s = .next t → Memory.wf t = true

/-- Every step keeps the sparse tables of the device in their canonical form: those of arbiter instances, DRAM channels,
contexts, rings, doorbell lines, engines, chisel cores, ports, members, groups, routes, timers, counters and their
mirrors, and of the times of uncorrectable errors and of scrubs. Their keys rise strictly, and no entry equals what an
unlisted one reads as. -/
def Obligations.EveryStepKeepsTablesCanonical : Prop :=
  ∀ s t : State, TablesWf s.dev → step s = .next t → TablesWf t.dev

/-- Reset has canonical memories and tables with nothing listed, device memory without contents, an empty queue, no power,
and the registers at the reset values of their maps: here DEV_STATE, PACE_CTRL, PACE_TARGET, PACE_CAP and PACE_LIMIT,
ARM_WDT, FAB_CTRL and TRC; and IDE_REQ 0 until a configuration is applied (DESIGN CHOICE, log 2). Where the model chose:
log 1, 2. -/
def Obligations.ResetValues : Prop :=
  Memory.wf State.reset = true ∧ TablesWf State.reset.dev ∧ State.reset.pending = [] ∧ State.reset.dev.power.state = .off ∧
  State.reset.dev.blk.ready = false ∧ State.reset.dev.blk.live = false ∧ State.reset.dev.blk.busyCause = 1 ∧
  State.reset.dev.pace.mode = 0 ∧ State.reset.dev.pace.attnEn = true ∧
  State.reset.dev.trc.mode = 0 ∧ State.reset.dev.trc.pre = 8 ∧ State.reset.dev.trc.running = false ∧
  State.reset.dev.trc.triggered = false ∧ State.reset.dev.trc.dumped = false ∧ State.reset.dev.trc.buffer = [] ∧
  State.reset.dev.trc.queues = [{}, {}, {}, {}, {}] ∧ State.reset.dev.trc.interval = 1000 ∧
  State.reset.dev.pace.target = 940 ∧ State.reset.dev.pace.cap = 3300 ∧ State.reset.dev.pace.tjLimit = 95 ∧
  State.reset.dev.arm.wdtTimeout = 1000 ∧ State.reset.dev.cxl.ideReq = false ∧
  State.reset.dev.fab.announceMs = 10 ∧ State.reset.dev.fab.hbLostUs = 1000 ∧
  State.reset.dev.ctxs = [] ∧ State.reset.dev.rings = [] ∧ State.reset.dev.descs = [] ∧ State.reset.dev.stab = [] ∧
  State.reset.mem = [] ∧ State.reset.host = [] ∧ State.reset.flash = [] ∧ State.reset.dev.power.lost = .all

/-- Every command answers a next state in every state, for the device reports an error in a status, a register field, an
attention event or an ignored write (R305, R309, R324, R496); and no command touches the queue of the commands that wait
behind it. -/
def Obligations.CommandsLeaveTheQueue : Prop :=
  (∀ (c : Instr) (s : State), ∃ t, exec c s = .next t) ∧
  (∀ (c : Instr) (s t : State), exec c s = .next t → t.pending = s.pending)

/-! ### Power, reset and start-up -/

/-- POWER_UP and INPUT_RESTORED, on a module that is off, latch the straps and begin start-up with every register at its
reset value, the rails up unless a sensor was still hot when last read; the time base takes the reference clock, or the
oscillator where that is absent, and counts where PERST_L is high (R437, R483, R487, R40, R39). No memory is written, and
those on the die are marked as holding no contents, whose bytes are then open. Where the model chose: log 1, 25, 37, 39.
-/
def Obligations.PowerUpBeginsStartUp : Prop :=
  ∀ (st : Straps) (refclk : Bool) (s : State), s.dev.power.state = .off →
    let v : Dev :=
      { power := { state := .start, perstLow := s.dev.power.perstLow, rbHigh := false, vaon := true, railsUp := !s.dev.power.hot, straps := st
                   strapsLatched := true, setpoint := 620, lost := if s.dev.power.lost = .all then .all else .onDie
                   hot := s.dev.power.hot, busySince := if s.dev.power.perstLow then none else some 0 }
        pace := { tbSource := !refclk, running := !s.dev.power.perstLow }
        out := s.dev.out, free := s.dev.free, ue := s.dev.ue, torn := s.dev.torn }
    (∃ t, exec (.powerUp st refclk) s = .next t ∧ t.dev = v ∧ t.mem = s.mem ∧ t.host = s.host ∧ t.flash = s.flash) ∧
    (∃ t, exec (.inputRestored st refclk) s = .next t ∧ t.dev = v ∧ t.mem = s.mem ∧ t.host = s.host ∧ t.flash = s.flash)

/-- INPUT_FAULT_TURN_OFF on a powered module removes every rail but the always-on rail, drives RB_L low and clears every
register; the straps are latched again only at the next power-up, and DRAM alone keeps its bytes (R477, R479, R487).
PERST_L driven low clears all device state and keeps the straps, with RB_L low; released, on a module that is powered, the
time base and the numbers of attention events count from 0 and start-up goes on, with the rails up unless a trip took them
off and a sensor was still hot when last read (R293, R294, R39, R321, R483). A module that is off or tripped stays off or
tripped under the assertion. Where the model chose: log 1, 25, 39. -/
def Obligations.FaultAndPerstClearTheDevice : Prop :=
  (∀ s : State, s.dev.power.state ≠ .off → ∃ t, exec .inputFaultTurnOff s = .next t ∧
    t.dev =
      { power := { state := .off, perstLow := s.dev.power.perstLow, rbHigh := false, vaon := s.dev.power.vaon, railsUp := false
                   strapsLatched := false, lost := if s.dev.power.lost = .all then .all else .onDie
                   hot := s.dev.power.hot }
        pace := { tbSource := s.dev.pace.tbSource }, out := s.dev.out, free := s.dev.free
        ue := s.dev.ue.filter (fun a => decide (a < 0x8000000000)), torn := s.dev.torn } ∧
    (∀ a < 0x7800000000, memByte t a = memByte s a) ∧
    (∀ a, 0x8000000000 ≤ a → memByte t a = Config.lostByte t.dev.free a) ∧ t.host = s.host ∧ t.flash = s.flash) ∧
  (∀ s : State, s.dev.power.perstLow = false → ∃ t, exec .perstLAssert s = .next t ∧
    t.dev = { power := { s.dev.power with
                perstLow := true, rbHigh := false, setpoint := 620, busySince := none
                state := match s.dev.power.state with
                  | .off => .off | .tripped => .tripped | .start => .start | .active => .start | .park => .start }
              pace := { tbSource := s.dev.pace.tbSource }, out := s.dev.out, free := s.dev.free, ue := s.dev.ue
              torn := s.dev.torn } ∧
    t.mem = s.mem ∧ t.host = s.host ∧ t.flash = s.flash) ∧
  (∀ s : State, s.dev.power.perstLow = true → s.dev.power.state ≠ .off →
    exec .perstLRelease s = .next { s with dev := { s.dev with
      power := { s.dev.power with perstLow := false, state := .start, railsUp := s.dev.power.railsUp || !s.dev.power.hot }
      mgmt := { s.dev.mgmt with pinsDriven := false }
      attn := {}
      pace := { s.dev.pace with time := 0, running := true } } })

/-- ROM_START on a module in start-up, no working sensor of which read its warning threshold or more when last sampled,
draws an incarnation other than the one it had and reads the image from flash. An image that fails the checks of R443, or
flash that cannot be read, leaves the ROM waiting for a recovery load with the code in IMG_ERR; one that passes is
measured and starts the firmware with the watchdog armed. Flash that an interrupted update left torn fails one of the
checks (R339, R437, R443, R445, R446, R450, R452, R483). No byte of memory changes. RECOVERY_LOAD, a write of
ARM_RECOV_CTRL with GO that lands while the ROM waits for it, starts the firmware from an image of the length written that
passes the checks, with SOURCE 1, and else records why it does not (R445). Where the model chose: log 26, 39, 83. -/
def Obligations.ImagesAreCheckedBeforeTheyStart : Prop :=
  (∀ (puf : List Byte) (flashOk : Bool) (s : State),
    s.dev.power.state = .start → s.dev.power.perstLow = false → s.dev.power.railsUp = true →
    s.dev.arm.romPending = true → s.dev.power.hot = false →
    let img := peeks .flash 0 16777216 (workOf s)
    let err := if flashOk then imageCheck img 16777216 else 5
    ∃ t, exec (.romStart puf flashOk) s = .next t ∧ t.mem = s.mem ∧ t.host = s.host ∧ t.flash = s.flash ∧
      t.dev.fab.incarn ≠ s.dev.fab.incarn ∧ t.dev.arm.pufOk = (pufSecret puf (workOf s)).isSome ∧ t.dev.cxl.configLive = true ∧
      t.dev.ctxs = s.dev.ctxs ∧ t.dev.rings = s.dev.rings ∧ t.dev.descs = s.dev.descs ∧ t.dev.torn = s.dev.torn ∧
      (s.dev.torn ≠ [] → t.dev.arm.stage = 2 ∧ t.dev.blk.busyCause = 2 ∧
        (if flashOk then 1 ≤ t.dev.arm.imgErr.toNat ∧ t.dev.arm.imgErr.toNat ≤ 4 else t.dev.arm.imgErr = 5)) ∧
      (s.dev.torn = [] → err ≠ 0 →
        t.dev.arm.stage = 2 ∧ t.dev.arm.imgErr = BitVec.ofNat 4 err ∧ t.dev.blk.busyCause = 2) ∧
      (s.dev.torn = [] → err = 0 →
        t.dev.arm.stage = 5 ∧ t.dev.arm.imgErr = 0 ∧ t.dev.arm.firmware = true ∧ t.dev.arm.wdtArmed = true ∧
        t.dev.arm.secret = none ∧ t.dev.arm.meas = digestOf (imageDigest img) ∧
        t.dev.arm.fwVersion = BitVec.ofNat 32 (leAt img 20 4) ∧ t.dev.arm.fwSvn = BitVec.ofNat 32 (leAt img 24 4))) ∧
  (∀ (w : HostWrite) (img : List Byte) (readOk : Bool) (s : State),
    WriteLands s 0x90028 w.ide → s.dev.power.state = .start → s.dev.power.railsUp = true → s.dev.arm.stage = 2 → s.dev.cxl.busMaster = true → img.length = (w.value.setWidth 25).toNat →
    let err := if readOk then imageCheck img img.length else 5
    ∃ t, exec (.recoveryLoad w img readOk) s = .next t ∧ t.mem = s.mem ∧ t.host = s.host ∧ t.flash = s.flash ∧
      t.dev.ctxs = s.dev.ctxs ∧ t.dev.rings = s.dev.rings ∧
      (err ≠ 0 → t.dev.arm.stage = 2 ∧ t.dev.arm.imgErr = BitVec.ofNat 4 err ∧ t.dev.blk.busyCause = 2) ∧
      (err = 0 → t.dev.arm.stage = 5 ∧ t.dev.arm.source = true ∧ t.dev.arm.firmware = true ∧ t.dev.arm.wdtArmed = true ∧
        t.dev.arm.meas = digestOf (imageDigest img)))

/-- MEMORY_INIT_DONE writes every byte of device memory with zero and makes every word good, once the host holds no line
of device memory, and no chisel core waits to launch any more (R240, R285); STARTUP_SELF_TEST then, once the busy period
has lasted its 10,000 units, records the failed cores and stacks, makes the module ready and active, with Memory_Active 1,
and fences exactly the failed cores beside those fenced before (R325, R438, R439). Host memory and flash are unchanged. -/
def Obligations.StartUpClearsMemoryAndTests : Prop :=
  (∀ s : State, s.dev.cxl.directory ≠ [] → exec .memoryInitDone s = .next s) ∧
  (∀ s : State, s.dev.power.state = .start → s.dev.power.railsUp = true → s.dev.arm.stage = 5 → s.dev.cxl.directory = [] →
    ∃ t, exec .memoryInitDone s = .next t ∧ t.mem = [] ∧ (∀ a, memByte t a = 0) ∧
    (∀ k, k ∈ t.dev.stabWaits ↔ k ∈ s.dev.stabWaits ∧ ∀ i, k ≠ .launch i) ∧
    t.dev.ue = [] ∧ t.dev.arm = { s.dev.arm with memoryInit := true, stage := 6 } ∧ t.host = s.host ∧ t.flash = s.flash ∧
    t.dev.power = { s.dev.power with lost := .none } ∧ t.dev.cxl = s.dev.cxl ∧ t.dev.ctxs = s.dev.ctxs ∧ t.dev.rings = s.dev.rings) ∧
  (∀ (cores : W32) (stks : BitVec 20) (s : State),
    s.dev.power.state = .start → s.dev.power.railsUp = true → s.dev.arm.stage = 6 → busyLong s.dev = true →
    ∃ t, exec (.startupSelfTest cores stks) s = .next t ∧
      t.dev.arm = { s.dev.arm with postCores := cores, postStacks := stks, stage := 7 } ∧
      t.dev.power = { s.dev.power with state := .active, rbHigh := true, busySince := none } ∧
      t.dev.blk = { s.dev.blk with ready := true, busyCause := 0, live := true } ∧
      t.dev.cxl = { s.dev.cxl with memoryActive := true } ∧
      (∀ c < 32, t.dev.fenced.getLsbD c = (s.dev.fenced.getLsbD c || cores.getLsbD c)) ∧
      t.dev.ctxs = s.dev.ctxs ∧ t.dev.rings = s.dev.rings ∧ t.dev.pace = s.dev.pace ∧
      t.mem = s.mem ∧ t.host = s.host ∧ t.flash = s.flash)

/-- FLASH_UPDATE by a privileged request while the firmware runs stores an image that passes its checks from byte 0, a
configuration block that passes its checks from 0x0100_0000 and an owner key record of 48 bytes from 0x0100_2000, byte for
byte, and no other byte of flash or memory changes; one interrupted after some of its bytes stores those and leaves its
slot torn until it is written whole; a request that is not privileged, or does not pass, stores nothing (R441, R446).
Where the model chose: log 4, 26. -/
def Obligations.FlashUpdateStoresWhatPasses : Prop :=
  ∀ (k : FlashKind) (bs : List Byte) (priv : Bool) (cut : Option Nat) (s : State),
    Memory.wf s = true → s.dev.arm.firmware = true →
    let base := match k with
      | .image => 0
      | .configBlock => 0x01000000
      | .ownerKey => 0x01002000
    let n := cut.getD bs.length
    let acts := priv = true ∧ (cut = none ∨ n < bs.length) ∧ (match k with
      | .image => bs.length ≤ 16777216 ∧ imageCheck bs bs.length = 0
      | .configBlock => bs.length = 8192 ∧ configCheck bs (ownerRecord (workOf s)) = 0
      | .ownerKey => bs.length = 48)
    ∃ t, exec (.flashUpdate k ⟨bs, cut⟩ priv) s = .next t ∧ t.mem = s.mem ∧ t.host = s.host ∧
      (acts → (∀ i < n, flashByte t (base + i) = bs.getD i 0) ∧
        (∀ a, a < base ∨ base + n ≤ a → flashByte t a = flashByte s a) ∧
        t.dev = { s.dev with torn := s.dev.torn.filter (fun c => c ≠ k) ++ (if cut = none then [] else [k]) }) ∧
      (¬ acts → t.dev = s.dev ∧ ∀ a, flashByte t a = flashByte s a)

/-- WATCHDOG_EXPIRY with the watchdog armed counts a restart, saturating at 255, drives RB_L low, and leaves the ROM to
start again; every port that is enabled goes down, and the time base, the memories and configuration space stay, and park
is left, PARK_REQ as it was. Said for a module with no enabled group and no TEST, whose parts end as well (R428, R452,
R494). Where the model chose: log 14, 69, 90. -/
def Obligations.WatchdogRestarts : Prop :=
  ∀ s : State, s.dev.arm.wdtArmed = true → (∀ c ∈ s.dev.groups, c.2.enable = false) → (∀ x ∈ s.dev.descs, x.cls ≠ 0xD) →
    ∃ t, exec .watchdogExpiry s = .next t ∧
    t.dev.arm = { s.dev.arm with
      wdtRestarts := if s.dev.arm.wdtRestarts.toNat + 1 < 255 then s.dev.arm.wdtRestarts + 1 else 255
      wdtArmed := false, firmware := false, memoryInit := false, stage := 0, romPending := true } ∧
    t.dev.power = { s.dev.power with rbHigh := false, state := .start, busySince := some s.dev.pace.time } ∧
    t.dev.blk = { s.dev.blk with ready := false, busyCause := 3 } ∧
    t.dev.pace = { s.dev.pace with parkState := 0, leaveAsked := false } ∧
    t.dev.cxl = { s.dev.cxl with memoryActive := false } ∧
    (∀ c ∈ t.dev.ports, c.2.state = if c.2.enable then 5 else 0) ∧
    t.mem = s.mem ∧ t.host = s.host ∧ t.flash = s.flash

/-! ### The CXL link -/

/-- CXL_LINK_UP with the link down and the device out of reset brings the link up at the rate and width trained; without
256-byte flits CXL_MODE reads 0 (R279, R297). What waited for the link is tried again, and nothing else changes where
nothing waits (R295). Every registered doorbell line is asked for again, with RdShared or by a poll that is due at once,
and its tails are to be read once; with the last line read, or at once where none is registered, LINK_RESETS counts the
link reset and the LINK_RESET attention event of R295 is raised, and not before. LINK_RESET takes the link down with
configuration space, the decoders, the IDE keys and streams, the ATC and the mailboxes; doorbell lines are no longer held,
a snoop whose answer was lost is due again, and everything else stays, rings, contexts and memory among it (R293).
IDE_MAC_FAILURE in an active stream is logged and does the same (R291). Where the model chose: log 34, 70. -/
def Obligations.LinkComesUpAndResets : Prop :=
  (∀ (rate : CxlRate) (x16 flit : Bool) (s : State),
    s.dev.cxl.linkUp = false → s.dev.cxl.configLive = true → s.dev.power.perstLow = false → s.dev.power.railsUp = true →
    let lines := (s.dev.dbLines.filter (fun c => c.2.valid)).map (fun c => c.1)
    let up : Cxl := { s.dev.cxl with
      linkUp := true, linkWasReset := false, cxlMode := flit, rereads := lines
      resetsDue := s.dev.cxl.resetsDue + if s.dev.cxl.linkWasReset then 1 else 0
      rate := match rate with
        | .gt16 => 1
        | .gt32 => 2
        | .gt64 => 3
      width := if x16 then 2 else 1 }
    (∃ timers, (tabWf 0 s.dev.timers = true → tabWf {} s.dev.dbLines = true → s.dev.cxl.cacheEn = false → ∀ i ∈ lines,
          (getDb s.dev i).held = false → tabGet 0 timers (5000 + i) = s.dev.pace.time - s.dev.attn.pollInterval.setWidth 64) ∧
        (∀ k, (∀ i ∈ lines, k ≠ 5000 + i) → tabGet 0 timers k = tabGet 0 s.dev.timers k) ∧
        (s.dev.cxl.cacheEn = true ∨ lines = [] → timers = s.dev.timers) ∧
      let v : Dev := { s.dev with
        timers := timers
        out := s.dev.out ++ if s.dev.cxl.cacheEn then
          (s.dev.dbLines.filter (fun c => c.2.valid && !c.2.held)).map (fun c => Out.rdShared c.1) else []
        cxl := up }
      (lines ≠ [] ∨ up.resetsDue = 0 → exec (.cxlLinkUp rate x16 flit) s = runWork waitsDrain { s with dev := v } ∧
        (NothingWaits s.dev → exec (.cxlLinkUp rate x16 flit) s = .next { s with dev := v }))) ∧
    (lines = [] → up.resetsDue = 1 → NothingWaits s.dev → ∃ t, exec (.cxlLinkUp rate x16 flit) s = .next t ∧
      t.dev.cxl = { up with resetsDue := 0, linkResets := satAdd s.dev.cxl.linkResets 1 } ∧
      t.dev.attn.seq = s.dev.attn.seq + 1 ∧
      (attnHeld s.dev.attn < 64 → t.dev.attn.held = s.dev.attn.held ++
        [⟨s.dev.pace.time, 0x0005, 0, s.dev.attn.seq, [satAdd s.dev.cxl.linkResets 1]⟩]) ∧
      t.dev.rings = s.dev.rings ∧ t.dev.ctxs = s.dev.ctxs ∧ t.dev.descs = s.dev.descs ∧ t.mem = s.mem ∧ t.host = s.host)) ∧
  (∀ s : State, s.dev.cxl.linkUp = true →
    let down (n : Nat) : State := { s with dev := { s.dev with
      dbLines := tabMap {} (fun _ l => { l with held := false }) s.dev.dbLines
      cxl := { s.dev.cxl with
        linkUp := false, rate := 0, width := 0, cxlMode := false, cacheEn := false, memEn := false, ideCm := false
        ideIo := false, busMaster := false, linkWasReset := true, dec0 := {}, dec1 := {}, atc := [], invals := []
        config := {}, ideKeys := false, mailboxes := [{}, {}, {}]
        directory := s.dev.cxl.directory.map (fun e => { e with snoop := .idle })
        ideFailures := s.dev.cxl.ideFailures + n } } }
    exec .linkReset s = .next (down 0) ∧
    ((s.dev.cxl.ideCm || s.dev.cxl.ideIo) = true → exec .ideMacFailure s = .next (down 1)))

/-- CXL_ENABLE on a link in CXL mode, with Memory_Active 1, lets CXL.cache and CXL.mem take traffic, and every registered
doorbell line that is not held is asked for with RdShared, in order (R294, R316). BACK_INVALIDATE of a line of the
directory sends BISnpData before a device read and BISnpInv before a write and notes the snoop; the BIRSP_RECEIVED that
follows lets the read go on, or removes the entry so that the write does (R285). Nothing else changes. Where the model
chose: log 33. -/
def Obligations.CacheLinesAreAcquiredAndReleased : Prop :=
  (∀ s : State, s.dev.cxl.linkUp = true → s.dev.cxl.cxlMode = true → s.dev.cxl.memoryActive = true → s.dev.arm.firmware = true →
    exec .cxlEnable s = .next { s with dev := { s.dev with
      cxl := { s.dev.cxl with cacheEn := true, memEn := true }
      out := s.dev.out ++ (s.dev.dbLines.filter (fun c => c.2.valid && !c.2.held)).map (fun c => Out.rdShared c.1) } }) ∧
  (∀ (line : Nat) (write : Bool) (e : DirEntry) (s : State), s.dev.cxl.linkUp = true → dirEntry s.dev line = some e →
    (e.snoop = .idle → exec (.backInvalidate line write) s = .next { s with dev := { s.dev with
      out := s.dev.out ++ [.bisnp line write]
      cxl := { s.dev.cxl with directory := s.dev.cxl.directory.map (fun x =>
        if x.line = line then { x with snoop := if write then .invSent else .dataSent } else x) } } }) ∧
    (NothingWaits s.dev → e.snoop = .dataSent → exec (.birspReceived line) s = .next { s with dev := { s.dev with
      cxl := { s.dev.cxl with directory := s.dev.cxl.directory.map (fun x =>
        if x.line = line then { x with snoop := .dataDone } else x) } } }) ∧
    (NothingWaits s.dev → e.snoop = .invSent → exec (.birspReceived line) s = .next { s with dev := { s.dev with
      cxl := { s.dev.cxl with directory := s.dev.cxl.directory.filter (fun x => x.line ≠ line) } } }))

/-! ### Host access to device memory -/

/-- HDM_READ of a line below the reserved top of a store, whose words are all good, answers the line's 64 bytes and puts
it in the directory, unless it stands there already; no memory changes (R283, R285). Where the model chose: log 33. -/
def Obligations.HdmReadAnswersTheLine : Prop :=
  ∀ (h a : Nat) (s : State), s.dev.cxl.linkUp = true → s.dev.cxl.memEn = true → s.dev.cxl.memoryActive = true →
    hdmDecode s.dev h = some a → reservedTop a = false → (∀ u ∈ lineUnits a, isUe s.dev u = false) →
    ∃ t, exec (.hdmRead h) s = .next t ∧
      t.dev.out.getLast? = some (.hdmData h ((upto 64).map (fun i => memByte s (a + i)))) ∧
      (∃ e ∈ t.dev.cxl.directory, e.line = a / 64 ∧ e.snoop = .idle) ∧
      t.mem = s.mem ∧ t.host = s.host ∧ t.flash = s.flash ∧ t.dev.ue = s.dev.ue ∧ t.dev.attn = s.dev.attn ∧
      t.dev.rings = s.dev.rings ∧ t.dev.ctxs = s.dev.ctxs ∧ t.dev.descs = s.dev.descs

/-- A host access through decoder 1 to the reserved top of a core store completes: a read returns 0xFF in every byte and a
write, poisoned or not, stores nothing; RSVD_ACCESS counts each (R284). -/
def Obligations.ReservedTopIsClosedToTheHost : Prop :=
  ∀ (h a : Nat) (line : List Byte) (mask : W64) (s : State),
    s.dev.cxl.linkUp = true → s.dev.cxl.memEn = true → s.dev.cxl.memoryActive = true →
    hdmDecode s.dev h = some a → reservedTop a = true →
    (∃ t, exec (.hdmRead h) s = .next t ∧ t.dev.out = s.dev.out ++ [.hdmData h (List.replicate 64 0xFF)] ∧
      t.dev.cxl = { s.dev.cxl with rsvdAccess := satAdd s.dev.cxl.rsvdAccess 1 } ∧ t.mem = s.mem ∧ t.host = s.host) ∧
    (∀ poison : Bool, ∃ t, exec (.hdmWrite h line mask poison) s = .next t ∧ t.dev.out = s.dev.out ++ [.hdmDone h] ∧
      t.dev.cxl = { s.dev.cxl with
        rsvdAccess := satAdd s.dev.cxl.rsvdAccess 1
        poisonDropped := if poison then satAdd s.dev.cxl.poisonDropped 1 else s.dev.cxl.poisonDropped } ∧
      t.mem = s.mem ∧ t.host = s.host)

/-- HDM_WRITE of a line of good words without poison stores the bytes its mask names, and completes: each byte of the line
reads as written where the mask names it, and every other byte of device memory as before (R283, R286). Said for memory
that has not lost its contents (R480). -/
def Obligations.HdmWriteStoresTheMaskedBytes : Prop :=
  ∀ (h a : Nat) (line : List Byte) (mask : W64) (s : State), Memory.wf s = true →
    s.dev.cxl.linkUp = true → s.dev.cxl.memEn = true → s.dev.cxl.memoryActive = true →
    hdmDecode s.dev h = some a → reservedTop a = false → a % 64 = 0 → (∀ u ∈ lineUnits a, isUe s.dev u = false) →
    memLost s.dev.power.lost a = false →
    ∃ t, exec (.hdmWrite h line mask false) s = .next t ∧ t.dev.out = s.dev.out ++ [.hdmDone h] ∧
      (∀ i < 64, memByte t (a + i) = if mask.getLsbD i then line.getD i 0 else memByte s (a + i)) ∧
      (∀ x, x < a ∨ a + 64 ≤ x → memByte t x = memByte s x) ∧
      t.host = s.host ∧ t.flash = s.flash ∧ t.dev.cxl = s.dev.cxl ∧ t.dev.ue = s.dev.ue ∧ t.dev.attn = s.dev.attn ∧
      t.dev.rings = s.dev.rings ∧ t.dev.ctxs = s.dev.ctxs ∧ t.dev.descs = s.dev.descs

/-! ### Address translation services and data of the host -/

/-- ATS_INVALIDATION drops at once every entry of the PASID that overlaps the range, and ATS_INVALIDATION_COMPLETE answers
it; no entry of another PASID goes and nothing else changes (R290). ATS_TRANSLATION with the translation granted keeps it
in the ATC, aligned to its page, behind at most 8,191 that were there, and fails no part; a denial, for ring traffic of
the edge's own, is kept as an entry that denies, the model's own way to hand it to what waits for it (DESIGN CHOICE, log
122; R289 says only that it fails the part). HOST_READ_DATA answers a read of host memory with the bytes read, at most
4,096 (R288, R289); coming back good, the model keeps them in a table of host bytes from their address up, which is the
model's own way to hand them to what reads them and no rule of the spec (DESIGN CHOICE, log 6), and nothing else changes.
Where the model chose: log 6, 35, 122. -/
def Obligations.AtsAndHostAnswersAreKept : Prop :=
  (∀ (pasid : BitVec 20) (base n tag : Nat) (s : State), s.dev.cxl.linkUp = true →
    ∃ t, exec (.atsInvalidation pasid base n tag) s = .next t ∧
      t = { s with dev := { s.dev with cxl := { s.dev.cxl with
        atc := t.dev.cxl.atc, invals := s.dev.cxl.invals ++ [⟨tag, pasid, base, n⟩] } } } ∧
      (∀ e : AtcEntry, e ∈ t.dev.cxl.atc ↔ e ∈ s.dev.cxl.atc ∧
        ¬(e.pasid = pasid ∧ ∃ x, base ≤ x ∧ x < base + 2 ^ n ∧ e.base ≤ x ∧ x < e.base + 2 ^ e.sizeLog2))) ∧
  (∀ (tag : Nat) (s : State), s.dev.cxl.linkUp = true → (∃ i ∈ s.dev.cxl.invals, i.tag = tag) →
    exec (.atsInvalidationComplete tag) s = .next { s with dev := { s.dev with
      out := s.dev.out ++ [.atsInvalCompletion tag]
      cxl := { s.dev.cxl with invals := s.dev.cxl.invals.filter (fun i => i.tag ≠ tag) } } }) ∧
  (∀ (d p : Nat) (pasid : BitVec 20) (addr : Nat) (va : W64) (host n : Nat) (wr : Bool) (s : State),
    s.dev.cxl.linkUp = true → 12 ≤ n → NothingWaits s.dev →
    ∃ t old, exec (.atsTranslation d p pasid addr va (.granted host n wr)) s = .next t ∧
      t = { s with dev := { s.dev with
        out := s.dev.out ++ [.atsRequest pasid addr]
        cxl := { s.dev.cxl with atc := old ++ [⟨pasid, addr / 2 ^ n * 2 ^ n, n, host / 2 ^ n * 2 ^ n, wr, false⟩] } } } ∧
      (∀ e ∈ old, e ∈ s.dev.cxl.atc) ∧ (s.dev.cxl.atc.length ≤ 8192 → old.length ≤ 8191)) ∧
  (∀ (d p : Nat) (pasid : BitVec 20) (addr : Nat) (va : W64) (s : State),
    s.dev.cxl.linkUp = true → getDesc s.dev d = none → NothingWaits s.dev →
    ∃ t, exec (.atsTranslation d p pasid addr va .denied) s = .next t ∧ t.mem = s.mem ∧ t.host = s.host ∧
      t.dev.descs = s.dev.descs ∧ t.dev.cxl.atc.getLast? = some ⟨pasid, addr / 4096 * 4096, 12, 0, false, true⟩) ∧
  (∀ (d p addr : Nat) (va : W64) (bs : List Byte) (s : State), Memory.wf s = true → s.dev.cxl.linkUp = true →
    bs.length ≤ 4096 → ∃ t, exec (.hostReadData d p addr va bs .ok) s = .next t ∧ t.dev = s.dev ∧ t.mem = s.mem ∧ t.flash = s.flash ∧
      (∀ i < bs.length, hostByte t (addr + i) = bs.getD i 0) ∧
      (∀ a, a < addr ∨ addr + bs.length ≤ a → hostByte t a = hostByte s a))

/-! ### Mailboxes -/

/-- DOE_OBJECT of a kind with a row of its own makes its mailbox Busy with it, and is discarded while it is Busy or where
it is longer than 16 KiB in mailbox 0 and 4 KiB in the others; DOE_ABORT empties the mailbox; DOE_DISCOVERY answers the
type at the index asked and the next index, 0 after the last; and CDAT_TABLE_ACCESS answers one entry for each of the two
decoder ranges (R292; the types and the index protocol of discovery: PRESUMED, log 40). Where the model chose: log 40. -/
def Obligations.MailboxesTakeAndAnswer : Prop :=
  (∀ (m : Fin 3) (o : DoeObject) (size : Nat) (s : State), configUp s.dev = true → objectWaits m.val o = true →
    exec (.doeObject m ⟨o, size⟩) s = .next
      (if (getMailbox s.dev m.val).busy ∨ (if m.val = 0 then 16384 else 4096) < size then s else
      { s with dev := { s.dev with cxl := { s.dev.cxl with
        mailboxes := s.dev.cxl.mailboxes.set m.val { busy := true, object := some o } } } })) ∧
  (∀ (m : Fin 3) (s : State), configUp s.dev = true →
    exec (.doeAbort m) s = .next { s with dev := { s.dev with cxl := { s.dev.cxl with
      mailboxes := s.dev.cxl.mailboxes.set m.val {} } } }) ∧
  (∀ (m : Fin 3) (i : Nat) (s : State), configUp s.dev = true → (getMailbox s.dev m.val).object = some (.discovery i) →
    exec (.doeDiscovery m) s = .next { s with dev := { s.dev with
      cxl := { s.dev.cxl with mailboxes := s.dev.cxl.mailboxes.set m.val {} }
      out := s.dev.out ++ [.doeDiscovery m.val ((doeTypes m.val)[i]?.toList)
        (if i + 1 < (doeTypes m.val).length then i + 1 else 0)] } }) ∧
  (∀ (i : Nat) (s : State), configUp s.dev = true → (getMailbox s.dev 1).object = some (.cdat i) →
    exec .cdatTableAccess s = .next { s with dev := { s.dev with
      cxl := { s.dev.cxl with mailboxes := s.dev.cxl.mailboxes.set 1 {} }
      out := s.dev.out ++ [.cdat [⟨0, 0x7800000000, 400, 121⟩, ⟨0x8000000000, 0x100000000, 300, 121⟩]] } })

/-! ### SPDM -/

/-- A request of the connection's set-up, sent outside a session, is answered in turn: GET_VERSION with version 1.3, which
begins a new connection, GET_CAPABILITIES of that version, and NEGOTIATE_ALGORITHMS with the one algorithm of each kind
that both sides have (R451; the codes of the version and of the algorithms: PRESUMED, log 40). CHUNK_SEND takes the chunks
of one large request in order, keeping their bytes; after the last the request they make up stands in the mailbox as one
sent whole; and CHUNK_GET gives a large response in chunks of at most 16,368 bytes, in order (R451, R292; that size:
PRESUMED, log 40). Where the model chose: log 36, 40. -/
def Obligations.SpdmSetsTheConnectionUp : Prop :=
  (∀ s : State, configUp s.dev = true →
    let said (r : SpdmRsp) (c : Spdm) : State := { s with dev := { s.dev with
      out := s.dev.out ++ [.spdm none r]
      cxl := { s.dev.cxl with mailboxes := s.dev.cxl.mailboxes.set 0 {}, spdm := c } } }
    let asked (r : SpdmReq) : Prop := (getMailbox s.dev 0).object = some (.spdm r)
    (asked .getVersion → exec .getVersion s = .next (said (.version [0x13])
      { s.dev.cxl.spdm with version := true, capabilities := false, algorithms := false, keyAlgs := false, sessions := [] })) ∧
    (∀ f, s.dev.cxl.spdm.version = true → asked (.getCapabilities 0x13 f) → exec .getCapabilities s = .next
      (said .capabilities { s.dev.cxl.spdm with capabilities := true })) ∧
    (∀ a h d e, s.dev.cxl.spdm.capabilities = true → asked (.negotiateAlgorithms a h d e) →
      exec .negotiateAlgorithms s = .next (said
        (.algorithms (if a.testBit 7 then 128 else 0) (if h.testBit 1 then 2 else 0) (if d.testBit 4 then 16 else 0)
          (if e.testBit 1 then 2 else 0))
        { s.dev.cxl.spdm with algorithms := a.testBit 7 && h.testBit 1, keyAlgs := d.testBit 4 && e.testBit 1 }))) ∧
  (∀ (s : State) (h : Byte) (n : Nat), configUp s.dev = true → s.dev.cxl.spdm.capabilities = true →
    let spdm := s.dev.cxl.spdm
    let said (r : SpdmRsp) (c : Spdm) : State := { s with dev := { s.dev with
      out := s.dev.out ++ [.spdm none r], cxl := { s.dev.cxl with mailboxes := s.dev.cxl.mailboxes.set 0 {}, spdm := c } } }
    (∀ last size bs r, (n = 0 ∨ spdm.sendHandle = some h ∧ spdm.sendSeq = n) →
      (getMailbox s.dev 0).object = some (.spdm (.chunkSend h n last size bs r)) →
      let t := said (.chunkSendAck h n) { spdm with
        sendHandle := if last then none else some h, sendSeq := n + 1
        sendBytes := if n = 0 then bs else spdm.sendBytes ++ bs }
      (last = false → exec .chunkSend s = .next t) ∧
      (last = true → objectWaits 0 (.spdm r) = true → (∀ a b c d e f, r ≠ .chunkSend a b c d e f) → (∀ a b, r ≠ .chunkGet a b) →
        exec .chunkSend s = .next { t with dev := { t.dev with cxl := { t.dev.cxl with
          mailboxes := s.dev.cxl.mailboxes.set 0 { busy := true, object := some (.spdm r) } } } })) ∧
    (spdm.getBytes ≠ [] → spdm.getHandle = h → spdm.getSeq = n →
      (getMailbox s.dev 0).object = some (.spdm (.chunkGet h n)) →
      exec .chunkGet s = .next (said (.chunkResponse h n (decide (spdm.getBytes.length ≤ 16368)) (spdm.getBytes.take 16368))
        { spdm with getBytes := spdm.getBytes.drop 16368, getSeq := n + 1 })))

/-- With the connection set up, GET_DIGESTS answers the SHA-384 digest of slot 0's chain, GET_CERTIFICATE the portion
asked where it fits an object, or an error where it begins beyond the chain; GET_MEASUREMENTS answers the measurement
block of the index asked, all eight for index 255, their count for index 0, and an error for any other; and CHALLENGE and
a signed GET_MEASUREMENTS add a signature with the alias key, or are answered with ERROR Unspecified where PUF_OK is 0
(R450, R451; error codes, the chunk size and what is signed: PRESUMED, log 36, 40). Where the model chose: log 26, 36, 40.
-/
def Obligations.SpdmAnswersForTheDevice : Prop :=
  ∀ s : State, configUp s.dev = true → s.dev.cxl.spdm.algorithms = true →
    let said (r : SpdmRsp) (n : Nat) : State := { s with dev := { s.dev with
      out := s.dev.out ++ [.spdm none r], free := s.dev.free + n
      cxl := { s.dev.cxl with mailboxes := s.dev.cxl.mailboxes.set 0 {} } } }
    let asked (r : SpdmReq) : Prop := (getMailbox s.dev 0).object = some (.spdm r)
    let chain := chainOf (workOf s)
    let able := s.dev.arm.pufOk = true ∧ s.dev.arm.firmware = true
    (asked .getDigests → exec .getDigests s = .next (said (.digests (sha384 chain)) 0)) ∧
    (∀ off len, len ≤ 16368 → asked (.getCertificate 0 off len) → exec .getCertificate s = .next (said
      (if off < chain.length then .certificate ((chain.drop off).take len) (chain.length - off - ((chain.drop off).take len).length)
        else .error 0x01) 0)) ∧
    let sign (text : List Byte) : BitVec 768 := Config.aliasSignature s.dev.arm.aliasKey text s.dev.free
    (∀ nonce, asked (.challenge 0 nonce) →
      (able → exec .challenge s = .next (said
        (.challengeAuth (sha384 chain).toNat ((Config.exchangeValue s.dev.free).toNat % 2 ^ 256)
          (sign (leBytes 1 0 ++ leBytes 32 nonce.toNat))) 1)) ∧
      (¬ able → exec .challenge s = .next (said (.error 0x05) 0))) ∧
    (∀ (i : Byte) (sig : Bool) nonce, asked (.getMeasurements i sig nonce) →
      let blocks := if i = 0 then [(8, 0, [])] else if i = 0xFF then measurements s.dev
        else (measurements s.dev).filter (fun b => b.1 = i.toNat)
      ((8 < i.toNat ∧ i ≠ 0xFF) → exec .getMeasurements s = .next (said (.error 0x01) 0)) ∧
      ((i.toNat ≤ 8 ∨ i = 0xFF) → sig = false → exec .getMeasurements s = .next (said (.measurements blocks none) 0)) ∧
      ((i.toNat ≤ 8 ∨ i = 0xFF) → sig = true →
        (able → exec .getMeasurements s = .next (said (.measurements blocks (some (sign
          (leBytes 32 nonce.toNat ++ blocks.flatMap (fun b => leBytes 1 b.1 ++ leBytes 1 b.2.1 ++ b.2.2))))) 1)) ∧
        (¬ able → exec .getMeasurements s = .next (said (.error 0x05) 0))))

/-- A session: KEY_EXCHANGE, the group and the AEAD suite agreed, begins one under the requester's half and the device's
next half of its number, FINISH completes it when the MAC verifies, KEY_UPDATE moves its key generations, HEARTBEAT counts
and END_SESSION removes it (R451). Where the model chose: log 26, 36, 40. -/
def Obligations.SpdmSessionsBeginAndEnd : Prop :=
  ∀ s : State, configUp s.dev = true → s.dev.cxl.spdm.algorithms = true →
    let said (sess : Option W32) (r : SpdmRsp) (c : Spdm) (n : Nat) : State := { s with dev := { s.dev with
      out := s.dev.out ++ [.spdm sess r], free := s.dev.free + n
      cxl := { s.dev.cxl with mailboxes := s.dev.cxl.mailboxes.set 0 {}, spdm := c } } }
    let spdm := s.dev.cxl.spdm
    let change (id : W32) (f : SpdmSession → SpdmSession) : Spdm :=
      { spdm with sessions := spdm.sessions.map (fun x => if x.id = id then f x else x) }
    (∀ (rid : W16) x, spdm.keyAlgs = true → s.dev.arm.pufOk = true → s.dev.arm.firmware = true →
      (getMailbox s.dev 0).object = some (.spdm (.keyExchange rid x)) →
      let id : W32 := rid.setWidth 32 ||| (spdm.nextSession.setWidth 32 <<< 16)
      ∃ y sig, exec .keyExchange s = .next (said none (.keyExchangeRsp id y sig)
        { spdm with
          sessions := spdm.sessions ++ [{ id := id, established := false, reqGen := 0, rspGen := 0, beats := 0 }]
          nextSession := spdm.nextSession + 1 } 1)) ∧
    (∀ id : W32, (∃ x ∈ spdm.sessions, x.id = id ∧ x.established = false) →
      (getMailbox s.dev 0).object = some (.secured id (.finish id true)) →
      exec .finish s = .next (said (some id) .finishRsp (change id (fun x => { x with established := true })) 0)) ∧
    (∀ id : W32, (∃ x ∈ spdm.sessions, x.id = id ∧ x.established = true) →
      (∀ tag, (getMailbox s.dev 0).object = some (.secured id (.keyUpdate id 2 tag)) →
        exec .keyUpdate s = .next (said (some id) (.keyUpdateAck 2 tag)
          (change id (fun x => { x with reqGen := x.reqGen + 1, rspGen := x.rspGen + 1 })) 0)) ∧
      ((getMailbox s.dev 0).object = some (.secured id (.heartbeat id)) →
        exec .spdmHeartbeat s = .next (said (some id) .heartbeatAck (change id (fun x => { x with beats := x.beats + 1 })) 0)) ∧
      ((getMailbox s.dev 0).object = some (.secured id (.endSession id)) →
        exec .endSession s = .next (said (some id) .endSessionAck
          { spdm with sessions := spdm.sessions.filter (fun x => x.id ≠ id) } 0)))

/-! ### BAR0, I3C, JTAG and the debug port -/

/-- Under IDE_REQ a BAR0 write of a named register in a live block that comes outside the CXL.io IDE stream changes
nothing and is counted once; a host access that is not of 4 or 8 bytes or not aligned to its size is answered with
Unsupported Request, which AER's status shows, and changes nothing else; and a write to a reserved offset or to a block
that is not live is ignored. Of writes that land, DEV_SCRATCH keeps what is put there, whole or in either half;
PACE_TARGET, PACE_POWER_CAP, PACE_TJ_LIMIT, PACE_VCORE_SET and the four quota registers keep the nearer end of a field's
range for a value outside it; a class register takes each class written for a source type that makes requests at its kind,
but for the reserved class, which leaves it, and reads zero in the others; a bit of PACE_STATUS or PACE_TB_STATUS that is
cleared by writing 1 is, and only by that; the registers of the DEV_ and PACE_ blocks that are read only change by none;
and the set-up registers of a ring and of a context that is enabled change by none, while those that hold one whole
address or seed take what is written to them before (R10, R46, R47, R48, R261, R273, R274, R281, R282, R299, R302, R492,
R499). Where the model chose: log 2, 102, 103. -/
def Obligations.BarWritesLandOrAreRefused : Prop :=
  (∀ (off : Nat) (wide ide : Bool) (x : W64) (s : State), barReached s.dev = true → blockLive s.dev off = true →
    aligned off wide = true → ((reached off wide).any namedWord) = true → s.dev.cxl.ideReq = true →
    ide = false ∨ s.dev.cxl.ideIo = false →
    exec (.bar0Write (.bar0 off) wide ⟨x, ide⟩) s = .next { s with dev := ctrAdd 0x3FF 0 1 s.dev }) ∧
  (∀ (x : W64) (ide : Bool) (s : State), WriteLands s 0x30 ide →
    exec (.bar0Write (.bar0 0x30) true ⟨x, ide⟩) s = .next { s with dev := { s.dev with blk := { s.dev.blk with scratch := x } } } ∧
    exec (.bar0Write (.bar0 0x30) false ⟨x, ide⟩) s = .next { s with dev := { s.dev with blk := { s.dev.blk with
      scratch := (s.dev.blk.scratch &&& 0xFFFFFFFF00000000) ||| (x &&& 0xFFFFFFFF) } } } ∧
    exec (.bar0Write (.bar0 0x34) false ⟨x, ide⟩) s = .next { s with dev := { s.dev with blk := { s.dev.blk with
      scratch := (s.dev.blk.scratch &&& 0xFFFFFFFF) ||| (x <<< 32) } } }) ∧
  (∀ (x : W64) (ide : Bool) (s : State),
    let wrote (off : Nat) (p : Pace) : Prop := WriteLands s off ide →
      exec (.bar0Write (.bar0 off) false ⟨x, ide⟩) s = .next { s with dev := { s.dev with pace := p } }
    wrote 0x1004 { s.dev.pace with target := BitVec.ofNat 16 (Nat.max 550 (Nat.min 1350 (x.toNat % 65536))) } ∧
    wrote 0x1008 { s.dev.pace with cap := BitVec.ofNat 13 (Nat.max 1000 (Nat.min 4000 (x.toNat % 8192))) } ∧
    wrote 0x100C { s.dev.pace with tjLimit := BitVec.ofNat 7 (Nat.max 60 (Nat.min 100 (x.toNat % 128))) } ∧
    wrote 0x1010 { s.dev.pace with vcoreSet := BitVec.ofNat 10 (Nat.max 500 (Nat.min 800 (x.toNat % 1024)) / 5 * 5) } ∧
    wrote 0x1020 { s.dev.pace with
      targetMissed := s.dev.pace.targetMissed && !x.getLsbD 3, capGated := s.dev.pace.capGated && !x.getLsbD 4 } ∧
    wrote 0x1048 { s.dev.pace with tbLost := s.dev.pace.tbLost && !x.getLsbD 16 } ∧
    ∀ off ∈ [0x0, 0x4, 0x8, 0xC, 0x10, 0x18, 0x1C, 0x20, 0x28, 0x1014, 0x1018, 0x1024, 0x1028, 0x102C, 0x1040, 0x1044],
      wrote off s.dev.pace) ∧
  (∀ (k : Fin 4) (x : W64) (ide : Bool) (s : State), WriteLands s (0x3010 + 4 * k.val) ide →
    exec (.bar0Write (.bar0 (0x3010 + 4 * k.val)) false ⟨x, ide⟩) s = .next { s with dev := { s.dev with
      arbRegs := s.dev.arbRegs.set k.val { s.dev.arbRegs.getD k.val {} with
        quota := BitVec.ofNat 8 (Nat.max 1 (x.toNat % 256)), window := BitVec.ofNat 16 (Nat.max 16 (x.toNat / 256 % 65536)) } } }) ∧
  (∀ (k : Fin 4) (x : W64) (ide : Bool) (s : State), WriteLands s (0x3000 + 4 * k.val) ide →
    let old := s.dev.arbRegs.getD k.val {}
    let asked : List (List Nat) := [[2, 3, 4, 5, 6, 7], [0, 1, 2, 3, 4, 5, 6, 7], [3, 4, 7, 8], [2, 3, 4, 6, 7]]
    ∃ (cls : BitVec 18) (arbs : Tab ArbInst),
      exec (.bar0Write (.bar0 (0x3000 + 4 * k.val)) false ⟨x, ide⟩) s = .next { s with dev := { s.dev with
        arbRegs := s.dev.arbRegs.set k.val { old with cls := cls }, arbs := arbs } } ∧
      (∀ f < 9, classField cls f =
        if f ∉ asked.getD k.val [] then 0
        else if classField (x.setWidth 18) f = 3 then classField old.cls f else classField (x.setWidth 18) f) ∧
      ((∀ f < 9, classField cls f = classField old.cls f) → arbs = s.dev.arbs)) ∧
  (∀ (c : Fin 64) (off : Nat) (wide ide : Bool) (x : W64) (s : State), off ∈ [0x00, 0x08, 0x10, 0x18, 0x20, 0x28, 0x38] →
    let at_ := 0x10000 + 0x40 * c.val + off
    WriteLands s at_ ide →
    ((getCtx s.dev c.val).enable = true → off ≠ 0x20 ∨ x.getLsbD 31 = true →
      exec (.bar0Write (.bar0 at_) wide ⟨x, ide⟩) s = .next s ∧
      exec (.bar0Write (.bar0 (at_ + 4)) false ⟨x, ide⟩) s = .next s) ∧
    ((getCtx s.dev c.val).enable = false → wide = true →
      let old := getCtx s.dev c.val
      let took (y : Ctx) : Prop := exec (.bar0Write (.bar0 at_) wide ⟨x, ide⟩) s = .next { s with dev := setCtx c.val y s.dev }
      (off = 0x00 → took { old with ptRoot := (x >>> 12).setWidth 40 }) ∧ (off = 0x08 → took { old with seed := x }) ∧
      (off = 0x10 → took { old with stepRec := x }) ∧ (off = 0x18 → took { old with epochAddr := x }) ∧
      (off = 0x28 → took { old with stride := x }) ∧ (off = 0x38 → took { old with stride2 := x }))) ∧
  (∀ (r : Fin 4096) (off : Nat) (wide ide : Bool) (x : W64) (s : State), off ∈ [0x00, 0x08, 0x10] →
    let at_ := 0x20000 + 0x20 * r.val + off
    WriteLands s at_ ide →
    ((getRing s.dev r.val).enable = true → exec (.bar0Write (.bar0 at_) wide ⟨x, ide⟩) s = .next s ∧
      exec (.bar0Write (.bar0 (at_ + 4)) false ⟨x, ide⟩) s = .next s) ∧
    ((getRing s.dev r.val).enable = false → wide = true →
      let old := getRing s.dev r.val
      (off = 0x00 → exec (.bar0Write (.bar0 at_) wide ⟨x, ide⟩) s = .next { s with dev := setRing r.val { old with base := x } s.dev }) ∧
      (off = 0x08 → exec (.bar0Write (.bar0 at_) wide ⟨x, ide⟩) s = .next { s with dev := setRing r.val { old with cqBase := x } s.dev }))) ∧
  (∀ (off : Nat) (wide ide : Bool) (x : W64) (s : State), barReached s.dev = true → aligned off wide = true →
    (reached off wide).any namedWord = false ∨ blockLive s.dev off = false →
    exec (.bar0Write (.bar0 off) wide ⟨x, ide⟩) s = .next s) ∧
  (∀ (off size : Nat) (wr : Bool) (s : State), barReached s.dev = true → ¬((size = 4 ∨ size = 8) ∧ off % size = 0) →
    exec (.bar0UnsupportedAccess off size wr) s = .next { s with dev := { s.dev with
      out := s.dev.out ++ [.unsupportedRequest]
      cxl := { s.dev.cxl with config := { s.dev.cxl.config with
        aerUncorrectable := s.dev.cxl.config.aerUncorrectable ||| (1#32 <<< 20) } } } })

/-- The I3C target, while the always-on rail has power and the module is not OFF, takes an offset and answers 4 or 8 bytes
of the management view at it, little-endian. Without that rail, or in OFF, where VIO18 does not feed its pins, it answers
neither (R477, R478, R490, R504). The JTAG port, in every state but OFF: BYPASS shifts one bit through its one-bit
register; IDCODE gives 0x0772_0967; SAMPLE/PRELOAD loads the boundary register and gives as many bits; EXTEST drives the
pins from the boundary register while PERST_L is low, and not while it is high. While the module is OFF no instruction
changes anything (R489; where the port has power: DEDUCED, log 81). Where the model chose: log 10, 81. -/
def Obligations.ManagementPortsAnswer : Prop :=
  (∀ (off : W32) (s : State), s.dev.power.vaon = true → s.dev.power.state ≠ .off →
    exec (.i3cSetOffset off) s = .next { s with dev := { s.dev with mgmt := { s.dev.mgmt with i3cOffset := off } } }) ∧
  (∀ (wide : Bool) (s : State), s.dev.power.vaon = true → s.dev.power.state ≠ .off →
    exec (.i3cRead wide) s = .next { s with dev := { s.dev with
      free := s.dev.free + 1
      out := s.dev.out ++ [.i3cData (leBytes 4 (i3cWord s.dev s.dev.mgmt.i3cOffset.toNat).toNat ++ if wide then
        leBytes 4 (i3cWord s.dev (s.dev.mgmt.i3cOffset.toNat + 4)).toNat else [])] } }) ∧
  (∀ (off : W32) (wide : Bool) (s : State), s.dev.power.vaon = false ∨ s.dev.power.state = .off →
    exec (.i3cSetOffset off) s = .next s ∧ exec (.i3cRead wide) s = .next s) ∧
  (∀ s : State, s.dev.power.state ≠ .off →
    (∀ tdi, exec (.jtagBypass tdi) s = .next { s with dev := { s.dev with
      mgmt := { s.dev.mgmt with jtag := .bypass, pinsDriven := false, bypassBit := tdi }
      out := s.dev.out ++ [.jtagBit (decide (s.dev.mgmt.jtag = .bypass) && s.dev.mgmt.bypassBit)] } }) ∧
    (exec .jtagIdcode s = .next { s with dev := { s.dev with
      mgmt := { s.dev.mgmt with jtag := .idcode, pinsDriven := false }, out := s.dev.out ++ [.jtagIdcode 0x07720967] } }) ∧
    (∀ bits, ∃ seen : List Bool, seen.length = bits.length ∧ exec (.jtagSamplePreload bits) s = .next { s with dev := { s.dev with
      mgmt := { s.dev.mgmt with jtag := .samplePreload, pinsDriven := false, boundary := bits }
      out := s.dev.out ++ [.jtagPins seen], free := s.dev.free + bits.length } }) ∧
    (s.dev.power.perstLow = true → exec .jtagExtest s = .next { s with dev := { s.dev with
      mgmt := { s.dev.mgmt with jtag := .extest, pinsDriven := true }, out := s.dev.out ++ [.jtagPins s.dev.mgmt.boundary] } }) ∧
    (s.dev.power.perstLow = false → exec .jtagExtest s = .next s)) ∧
  (∀ (tdi : Bool) (bits : List Bool) (s : State), s.dev.power.state = .off →
    exec (.jtagBypass tdi) s = .next s ∧ exec .jtagIdcode s = .next s ∧ exec (.jtagSamplePreload bits) s = .next s ∧
    exec .jtagExtest s = .next s)

/-- A debug access is accepted only while UNLOCK is 1: locked, nothing changes. Unlocked, a read of DEV_SCRATCH's low word
answers it, and a write of that word in a live block stores it (R489). Where the model chose: log 82. -/
def Obligations.DebugPortNeedsUnlock : Prop :=
  (∀ (tg : DebugTarget) (s : State), s.dev.arm.debugUnlock = false → exec (.debugAccess tg) s = .next s) ∧
  (∀ (x : W32) (s : State), s.dev.arm.debugUnlock = true → s.dev.power.state ≠ .off → s.dev.power.railsUp = true →
    (exec (.debugAccess (.readReg 0x30)) s = .next { s with dev := { s.dev with
      mgmt := { s.dev.mgmt with jtag := .debug, pinsDriven := false }, free := s.dev.free + 1
      out := s.dev.out ++ [.debugData (leBytes 4 (s.dev.blk.scratch.toNat % 2 ^ 32))] } }) ∧
    (exec (.debugAccess (.writeReg 0x30 x)) s = .next { s with dev := { s.dev with
      mgmt := { s.dev.mgmt with jtag := .debug, pinsDriven := false }
      blk := { s.dev.blk with scratch := x.setWidth 64 ||| (s.dev.blk.scratch &&& 0xFFFFFFFF00000000) } } }))

/-! ### The time base and pace -/

/-- REFCLOCK_LOST moves the time base to the oscillator, counts the switch, sets LOST and raises TIME_SOURCE;
REFCLOCK_RESTORED moves it back and counts, at least 1,000,000 units after the loss (R40). A host read of PACE_TIME's low
word answers it and latches the high word, which its next read of the high word answers and uses up; without a latched one
the high word answers the live one, a read of both the whole count, and each answers zero while the block is not live
(R42, R281). The time base's value, the contexts, rings, parts and memories are as before. Where the model chose: log 80.
-/
def Obligations.ClockSwitchesAndReads : Prop :=
  (∀ s : State, s.dev.power.state ≠ .off → s.dev.power.perstLow = false → s.dev.pace.tbSource = false →
    ∃ t, exec .refclockLost s = .next t ∧
    t.dev.pace = { s.dev.pace with
      tbSource := true, tbSwitches := satAdd s.dev.pace.tbSwitches 1, tbLost := true, tbSince := s.dev.pace.time } ∧
    t.dev.attn.seq = s.dev.attn.seq + 1 ∧
    (attnHeld s.dev.attn < 64 →
      t.dev.attn.held = s.dev.attn.held ++ [⟨s.dev.pace.time, 0x0003, 0, s.dev.attn.seq, [1]⟩]) ∧
    t.dev.ctxs = s.dev.ctxs ∧ t.dev.rings = s.dev.rings ∧ t.dev.descs = s.dev.descs ∧ t.mem = s.mem ∧ t.host = s.host) ∧
  (∀ s : State, s.dev.power.state ≠ .off → s.dev.power.perstLow = false → s.dev.pace.tbSource = true →
    ((s.dev.pace.time - s.dev.pace.tbSince).toNat < 1000000 → exec .refclockRestored s = .next s) ∧
    (1000000 ≤ (s.dev.pace.time - s.dev.pace.tbSince).toNat → ∃ t, exec .refclockRestored s = .next t ∧
      t.dev.pace = { s.dev.pace with
        tbSource := false, tbSwitches := satAdd s.dev.pace.tbSwitches 1, tbSince := s.dev.pace.time } ∧
      t.dev.attn = s.dev.attn ∧
      t.dev.ctxs = s.dev.ctxs ∧ t.dev.rings = s.dev.rings ∧ t.dev.descs = s.dev.descs ∧ t.mem = s.mem ∧ t.host = s.host)) ∧
  (∀ s : State, barReached s.dev = true → s.dev.blk.live = true →
    let read (part : TimePart) := exec (.paceTimeLowRead ⟨.host, part⟩) s
    let said (x : W64) (l : List (TimeReader × W32)) : State := { s with dev := { s.dev with
      pace := { s.dev.pace with shadows := l }, out := s.dev.out ++ [.barData x] } }
    let old := s.dev.pace.shadows
    let high : W32 := BitVec.ofNat 32 (s.dev.pace.time.toNat / 2 ^ 32)
    (∃ l, read .low = .next (said (BitVec.ofNat 64 (s.dev.pace.time.toNat % 2 ^ 32)) l) ∧ (TimeReader.host, high) ∈ l ∧
      (∀ c ∈ l, c.1 = .host → c.2 = high) ∧ (∀ c, c.1 ≠ .host → (c ∈ l ↔ c ∈ old))) ∧
    (∀ x, old.find? (fun c => c.1 = .host) = some (.host, x) →
      read .high = .next (said (x.setWidth 64) (old.filter (fun c => c.1 ≠ .host)))) ∧
    ((∀ c ∈ old, c.1 ≠ .host) → read .high = .next (said (high.setWidth 64) old)) ∧
    read .whole = .next (said s.dev.pace.time old)) ∧
  (∀ (part : TimePart) (s : State), barReached s.dev = true → blockLive s.dev 0x1040 = false →
    exec (.paceTimeLowRead ⟨.host, part⟩) s = .next { s with dev := { s.dev with out := s.dev.out ++ [.barData 0] } })

/-- The pace monitors report every 10,000 units: PACE_FIELD the four fields and PACE_MEASURED the slowest of them, so the
pace of the device is that of its slowest field (R32, R34); and they calibrate every 1,000,000 units, which software sees
nothing of (R33). Nothing else changes but the timers and that the next announce is due. Where the model chose: log 13,
90, 91. -/
def Obligations.PaceIsTheSlowestField : Prop :=
  (∀ (f0 f1 f2 f3 : W16) (s : State), s.dev.power.state = .active → timerDue s.dev tmMonitor 10000 = true →
    windowFits f0 f1 f2 f3 s.dev = true →
    ∃ t, exec (.paceMonitorWindow f0 f1 f2 f3) s = .next t ∧
      t.dev.pace.fields = [f0, f1, f2, f3] ∧
      t.dev.pace.measured.toNat = Nat.min (Nat.min f0.toNat f1.toNat) (Nat.min f2.toNat f3.toNat) ∧
      t = { s with dev := { s.dev with
        timers := t.dev.timers, fab := { s.dev.fab with changed := t.dev.fab.changed }
        pace := { s.dev.pace with
          fields := t.dev.pace.fields, measured := t.dev.pace.measured, settled := t.dev.pace.settled
          windowsSince := if s.dev.power.setpoint = vcoreNow s.dev then s.dev.pace.windowsSince + 1 else 0 } } }) ∧
  (∀ (f0 f1 f2 f3 : W16) (s : State), timerDue s.dev tmMonitor 10000 = false →
    exec (.paceMonitorWindow f0 f1 f2 f3) s = .next s) ∧
  (∀ s : State, s.dev.power.state = .active → timerDue s.dev tmCalibrate 1000000 = true →
    ∃ t, exec .paceMonitorCalibration s = .next t ∧
      t = { s with dev := { s.dev with
        timers := t.dev.timers, pace := { s.dev.pace with calibrations := s.dev.pace.calibrations + 1 } } })

/-- A governor decision reports the power it read, and holds the setpoint within 500 to 800 mV where it was. Over the cap,
or with the hottest field above TJ_LIMIT, the setpoint falls by 5 mV, but not below 500 mV, and LIMIT says CAP or TJ;
FLOOR and CEILING are reported only with VCORE there (R35, R38, R47). ISSUE_GATING over the cap as the governor last read
it gates issue, sets CAP_GATED and is counted once (R36). A pace that a field cannot have at its VCORE and temperature is
not reported (R30, R31, R33). Where the model chose: log 37, 91, 92. -/
def Obligations.GovernorKeepsTheCap : Prop :=
  (∀ (power : BitVec 13) (aim : Nat) (s : State), s.dev.power.state = .active → timerDue s.dev tmGovernor 10000 = true →
    500 ≤ s.dev.power.setpoint → s.dev.power.setpoint ≤ 800 → 500 ≤ s.dev.pace.vcoreSet.toNat → s.dev.pace.vcoreSet.toNat ≤ 800 →
    ∃ t, exec (.governorDecision power aim) s = .next t ∧ t.dev.pace.inputPower = power ∧
      500 ≤ t.dev.power.setpoint ∧ t.dev.power.setpoint ≤ 800 ∧
      (s.dev.pace.cap.toNat < power.toNat →
        t.dev.power.setpoint = Nat.max 500 (s.dev.power.setpoint - 5) ∧ t.dev.pace.limit = 1) ∧
      (power.toNat ≤ s.dev.pace.cap.toNat → (16 * s.dev.pace.tjLimit.toNat : Int) < s.dev.sns.hotTemp.toInt →
        t.dev.power.setpoint = Nat.max 500 (s.dev.power.setpoint - 5) ∧ t.dev.pace.limit = 2) ∧
      (t.dev.pace.limit = 3 → s.dev.power.setpoint = 800 ∧ vcoreNow s.dev = 800) ∧
      (t.dev.pace.limit = 4 → s.dev.power.setpoint = 500 ∧ vcoreNow s.dev = 500) ∧ t.dev.pace.capRead = s.dev.pace.cap ∧
      t.dev.pace.target = s.dev.pace.target ∧ t.dev.pace.cap = s.dev.pace.cap ∧ t.dev.pace.mode = s.dev.pace.mode ∧
      t.dev.pace.time = s.dev.pace.time ∧ t.dev.ctxs = s.dev.ctxs ∧ t.dev.rings = s.dev.rings ∧ t.dev.descs = s.dev.descs ∧
      t.mem = s.mem ∧ t.host = s.host) ∧
  (∀ (power : BitVec 13) (s : State), s.dev.power.state = .active → s.dev.pace.capRead.toNat < power.toNat →
    s.dev.pace.gating = false →
    let gated : Dev := { s.dev with pace := { s.dev.pace with gating := true, capGated := true } }
    exec (.issueGating power) s = .next { s with dev := ctrAdd 0x3FF 1 1 gated }) ∧
  (∀ (f0 f1 f2 f3 : W16) (s : State), windowFits f0 f1 f2 f3 s.dev = false → exec (.paceMonitorWindow f0 f1 f2 f3) s = .next s)

/-! ### Sensors and park -/

/-- SENSOR_UPDATE gives every working sensor its reading and every failed one 0x8000, of all 38, and stamps SNS_UPDATE; a
field, a stack or a power stage with a working sensor is warned once it reaches its warning threshold, and clear again,
below the threshold, with the first update at which every working source that is warned, or reaches its threshold with it,
has fallen 5 °C below its own; between them as before, and each bit that changes raises a THERMAL event of kind WARN or
CLEAR with its source and temperature (R482, R484, R501, R502). Once every working sensor reads below its warning
threshold a start that waits for that has its rails (R483). SENSOR_CALIBRATION adds the sensors that failed to SNS_FAILED
and warns a stack whose sensor failed; readings stand until the next update, from which each of the 38 that failed reads
0x8000 (R458, R501, R502). Where the model chose: log 39. -/
def Obligations.SensorsReportAndWarn : Prop :=
  (∀ (r : Readings) (s : State), s.dev.power.state ≠ .off → timerDue s.dev tmSensor 10000 = true →
    ∃ t, exec (.sensorUpdate r) s = .next t ∧ t.dev.sns.update = s.dev.pace.time ∧ t.dev.sns.failed = s.dev.sns.failed ∧
      (∀ i < 16, t.dev.sns.tj[i]? = some (if s.dev.sns.failed.getLsbD i then 0x8000 else r.tj.getD i 0)) ∧
      (∀ i < 20, t.dev.sns.tstack[i]? = some (if s.dev.sns.failed.getLsbD (16 + i) then 0x8000 else r.tstack.getD i 0)) ∧
      (∀ i < 2, t.dev.sns.tpwr[i]? = some (if s.dev.sns.failed.getLsbD (36 + i) then 0x8000 else r.tpwr.getD i 0)) ∧
      (let fell : Prop := ∀ c ∈ warnSources t.dev.sns, ∀ T, c.2.2 = some T →
         warnBit s.dev.sns c.1 = true ∨ c.2.1 ≤ T → T ≤ c.2.1 - 80
       let warns (thr T : Int) (old new_ : Bool) : Prop :=
        (thr ≤ T → new_ = true) ∧ (T < thr → fell → new_ = false) ∧ (T < thr → ¬ fell → new_ = old)
       (∀ f < 4, ∀ T, fieldTemp t.dev.sns f = some T →
         warns 1680 T (s.dev.sns.warnField.getLsbD f) (t.dev.sns.warnField.getLsbD f)) ∧
       (∀ i < 20, s.dev.sns.failed.getLsbD (16 + i) = false →
         warns 1600 (r.tstack.getD i 0).toInt (s.dev.sns.warnStack.getLsbD i) (t.dev.sns.warnStack.getLsbD i)) ∧
       (∀ i < 2, s.dev.sns.failed.getLsbD (36 + i) = false →
         warns 1840 (r.tpwr.getD i 0).toInt (s.dev.sns.warnPwr.getLsbD i) (t.dev.sns.warnPwr.getLsbD i))) ∧
      (attnHeld s.dev.attn + 26 ≤ 64 → ∀ c ∈ warnSources t.dev.sns, ∀ T, c.2.2 = some T →
        warnBit t.dev.sns c.1 ≠ warnBit s.dev.sns c.1 → ∃ e ∈ t.dev.attn.held, e.code = 0x0016 ∧
          e.payload = leBytes 1 (if warnBit t.dev.sns c.1 then 0 else 1) ++ leBytes 1 c.1 ++ leBytes 2 (reading T).toNat) ∧
      t.dev.power = { s.dev.power with
        hot := !allCool t.dev.sns
        railsUp := s.dev.power.railsUp ||
          (decide (s.dev.power.state = .start) && !s.dev.power.perstLow && allCool t.dev.sns) } ∧
      t.dev.ctxs = s.dev.ctxs ∧ t.dev.rings = s.dev.rings ∧ t.dev.descs = s.dev.descs ∧ t.mem = s.mem ∧ t.host = s.host) ∧
  (∀ (failed : BitVec 38) (s : State), s.dev.power.state ≠ .off → timerDue s.dev tmSensorCal 1000000 = true →
    ∃ t, exec (.sensorCalibration failed) s = .next t ∧
      t.dev.sns = { s.dev.sns with
        failed := s.dev.sns.failed ||| failed
        warnStack := s.dev.sns.warnStack ||| ((s.dev.sns.failed ||| failed) >>> 16).setWidth 20 } ∧
      t = { s with dev := { s.dev with sns := t.dev.sns, timers := t.dev.timers } })

/-- THERMAL_TRIP by a source at its trip threshold, or by a rail fault, removes the rails and drives RB_L low: the module
is TRIPPED, every port that is enabled and the link are down, READY is 0, no descriptor, engine work or memory contents
are left, every byte of device memory reads an open value, and the rings keep their registers and fetch nothing. A trip of
a sensor raises one THERMAL event unless PERST_L is low, and its record reaches host memory where the attention ring has
room. With the rails off no refresh, scrub, arbiter decision, sample, trace record, attention record or stream record
happens (R321, R479, R483, R484, R494, R499). Where the model chose: log 25, 39, 78. -/
def Obligations.ThermalTripStopsTheModule : Prop :=
  (∀ (src : TripSource) (s : State), s.dev.power.state ≠ .off → s.dev.power.state ≠ .tripped → tripHolds s.dev.sns src = true →
    ∃ t, exec (.thermalTrip src) s = .next t ∧
      t.dev.power.state = .tripped ∧ t.dev.power.rbHigh = false ∧ t.dev.power.railsUp = false ∧ t.dev.power.lost = .all ∧
      t.dev.blk.ready = false ∧ t.dev.blk.busyCause = 1 ∧ t.dev.cxl.memoryActive = false ∧ t.dev.cxl.linkUp = false ∧
      t.dev.descs = [] ∧ t.dev.engines = [] ∧ t.dev.chisels = [] ∧ t.dev.stab = [] ∧
      (∀ c ∈ t.dev.ports, c.2.state = if c.2.enable then 5 else 0) ∧ t.mem = [] ∧
      (∀ a, memByte t a = Config.lostByte t.dev.free a) ∧
      (attnRoom s.dev.attn = 0 →
        t.dev.power = { s.dev.power with
          state := .tripped, rbHigh := false, railsUp := false, lost := .all, hot := !allCool s.dev.sns } ∧
        t.dev.rings = tabMap {} (fun _ r => { r with
          state := if r.state = 3 then 3 else 0, boundaryHeld := false, waiting := none, reserved := 0 }) s.dev.rings ∧
        t.dev.ctxs = s.dev.ctxs ∧ t.dev.groups = s.dev.groups ∧ t.dev.sns = s.dev.sns ∧ t.dev.pace = s.dev.pace ∧
        t.host = s.host ∧ t.flash = s.flash ∧
        ((s.dev.power.perstLow = true ∨ ∃ r, src = .rail r) → t.dev.attn.seq = s.dev.attn.seq) ∧
        (∀ c, s.dev.power.perstLow = false → tripPayload s.dev.sns src = some c → t.dev.attn.seq = s.dev.attn.seq + 1 ∧
          (s.dev.attn.held.length < 64 → t.dev.attn.held = s.dev.attn.held ++
            [⟨s.dev.pace.time, 0x0016, 0, s.dev.attn.seq, [2] ++ leBytes 1 c.1 ++ leBytes 2 c.2.toNat⟩]))) ∧
      (∀ c w, Memory.wf s = true → s.dev.power.perstLow = false → tripPayload s.dev.sns src = some c → s.dev.attn.held = [] →
        attnRoom s.dev.attn ≠ 0 →
        let a := s.dev.attn
        let len := 2 ^ a.sizeLog2.toNat
        let e : AttnEvent := ⟨s.dev.pace.time, 0x0016, 0, a.seq, [2] ++ leBytes 1 c.1 ++ leBytes 2 c.2.toNat⟩
        (attnPut (a.base + BitVec.ofNat 64 (64 * (a.tail.toNat % len)))
          (attnBytes e a.droppedSince.toNat (phaseOf a.tail.toNat len))).run
            { workOf s with dev := raiseThermal 2 c.1 c.2 s.dev } = (.ok (), w) →
        (∀ x, hostByte t x = (storeAt .host x w.stores).getD (hostByte s x)) ∧ t.dev.attn.held = [] ∧
        t.dev.attn.tail = a.tail + 1)) ∧
  (∀ s : State, s.dev.power.railsUp = false →
    (∀ ch, exec (.refreshDue ch) s = .next s ∧ exec (.refreshDone ch) s = .next s) ∧ (∀ a r, exec (.patrolScrub a r) s = .next s) ∧
    (∀ i l m, exec (.arbDecision i l m) s = .next s) ∧ (∀ i r, exec (.backoffEnd i r) s = .next s) ∧
    (∀ i r, exec (.emergencyRevoke i r) s = .next s) ∧
    (∀ i, exec (.quotaWindowStart i) s = .next s ∧ exec (.emergencyEnd i) s = .next s) ∧
    (∀ x, exec (.mirrorSample x) s = .next s) ∧ (∀ u c, exec (.pcSample u c) s = .next s) ∧
    (∀ q, exec (.traceRecordAccept q) s = .next s) ∧ (∀ c, exec (.traceTrigger c) s = .next s) ∧
    exec .traceSpillDrain s = .next s ∧ exec .attnRecordWrite s = .next s ∧ exec .streamForward s = .next s)

/-- PARK_ENTER that lands on a quiescent module with every port disabled asks for park, and on another sets REFUSED;
PARK_ENTERED makes the module parked and the core stores lose their bytes, whose values are then open, and goes on to
leave where that has been asked; PARK_LEAVE begins to leave, or asks for it while park is being entered; and PARK_LEFT,
once the host holds no line of a core store, makes the module active with the core stores at zero, every word of the die
good and no chisel core waiting to launch. DRAM keeps its bytes throughout (R240, R285, R480, R481). Where the model
chose: log 25, 38, 90. -/
def Obligations.ParkEntersAndLeaves : Prop :=
  (∀ (w : HostWrite) (s : State), WriteLands s 0x104C w.ide → bitAt 4 w.value = false →
    (s.dev.pace.parkState = 0 → quiescent none s.dev = true → (∀ c ∈ s.dev.ports, c.2.enable = false) →
      exec (.parkEnter w) s = .next { s with dev := { s.dev with pace := { s.dev.pace with
        parkReq := true, parkState := 1, leaveAsked := false } } }) ∧
    ((quiescent none s.dev = false ∨ ∃ c ∈ s.dev.ports, c.2.enable = true) →
      exec (.parkEnter w) s = .next { s with dev := { s.dev with pace := { s.dev.pace with
        parkRefused := true, parkReq := false } } })) ∧
  (∀ s : State, Memory.wf s = true → s.dev.power.state = .active → s.dev.pace.parkState = 1 →
    ∃ t, exec .parkEntered s = .next t ∧
      t.dev = { s.dev with
        power := { s.dev.power with state := .park, lost := if s.dev.power.lost = .all then .all else .onDie }
        pace := if s.dev.pace.leaveAsked then
            { s.dev.pace with parkState := 3, gating := false, parkReq := false, leaveAsked := false }
          else { s.dev.pace with parkState := 2, gating := false } } ∧
      (∀ a, memByte t a = if a < 0x8000000000 then memByte s a else Config.lostByte s.dev.free a) ∧
      t.host = s.host ∧ t.flash = s.flash) ∧
  (∀ (w : HostWrite) (s : State), WriteLands s 0x104C w.ide → bitAt 4 w.value = false →
    (s.dev.pace.parkState = 2 → exec (.parkLeave w) s = .next { s with dev := { s.dev with pace := { s.dev.pace with
      parkReq := false, parkState := 3, leaveAsked := false } } }) ∧
    (s.dev.pace.parkState = 1 → exec (.parkLeave w) s = .next { s with dev := { s.dev with pace := { s.dev.pace with
      leaveAsked := true } } })) ∧
  (∀ s : State, (∃ e ∈ s.dev.cxl.directory, 0x8000000000 ≤ 64 * e.line) → exec .parkLeft s = .next s) ∧
  (∀ s : State, Memory.wf s = true → s.dev.power.state = .park → s.dev.pace.parkState = 3 → s.dev.power.lost ≠ .all →
    (∀ e ∈ s.dev.cxl.directory, 64 * e.line < 0x8000000000) →
    ∃ t, exec .parkLeft s = .next t ∧ (∀ k, k ∈ t.dev.stabWaits ↔ k ∈ s.dev.stabWaits ∧ ∀ i, k ≠ .launch i) ∧
    t.dev = { s.dev with
      stabWaits := t.dev.stabWaits
      power := { s.dev.power with state := .active, lost := .none }
      pace := { s.dev.pace with parkState := if s.dev.pace.parkReq then 1 else 0, leaveAsked := false }
      engines := [], chisels := [], ue := s.dev.ue.filter (fun a => decide (a < 0x8000000000)) } ∧
    (∀ a, memByte t a = if a < 0x8000000000 then memByte s a else 0) ∧ t.host = s.host ∧ t.flash = s.flash)

/-! ### DRAM, scrubs and arbitration -/

/-- REFRESH_DUE after REFI on a powered module that is not parked adds one owed refresh, never beyond eight; REFI is 3,900
units at 85 °C or below, 1,950 up to 105 °C, and 975 above or where the stack's sensor has failed (R482, R502). In park,
with DRAM in self-refresh and the die off, no refresh is owed or taken, nothing is scrubbed and no instance decides
(R479). REFRESH_DONE of a refresh that began 120 units ago or more takes one off and gives the channel to the transfer it
revoked; a refresh still owed asks again where the channel has no other request (R246, R247, R270). PATROL_SCRUB of DRAM,
due once in its period, counts a corrected error of a good granule in its stack's set; one that finds an uncorrectable
granule records it, raises MEM_UE with its address and leaves its bytes (R255, R256). STITCH_LINE_FAULT marks its line
(R24). A part of the engines, the vector units, FOLD, NORM, APPLY, ROOT or SOLVE whose read meets an uncorrectable word or
granule, or whose write covers a part of one, ends with MEMORY_UE (and one whose error is corrected goes on, the error
counted) and the address, and MEM_UE is raised (R256, R505). Where the model chose: log 39, 89. -/
def Obligations.RefreshAndMemoryErrors : Prop :=
  (∀ (ch : Fin 640) (s : State), tabWf {} s.dev.chans = true → tabWf {} s.dev.arbs = true → s.dev.power.railsUp = true →
    s.dev.power.state ≠ .park →
    let temp : Int := (s.dev.sns.tstack.getD (ch.val / 32) 0).toInt
    let units : Nat := if s.dev.sns.failed.getLsbD (16 + ch.val / 32) then 975
      else if temp ≤ 1360 then 3900 else if temp ≤ 1680 then 1950 else 975
    (timerDue s.dev (tmRefreshOf ch.val) units = false → exec (.refreshDue ch) s = .next s) ∧
    (timerDue s.dev (tmRefreshOf ch.val) units = true →
    ∃ t, exec (.refreshDue ch) s = .next t ∧
      getChan t.dev ch.val = { getChan s.dev ch.val with owed := Nat.min ((getChan s.dev ch.val).owed + 1) 8 } ∧
      (∀ k, k ≠ ch.val → getChan t.dev k = getChan s.dev k ∧ getArb t.dev k = getArb s.dev k) ∧
      t.mem = s.mem ∧ t.dev.descs = s.dev.descs)) ∧
  (∀ s : State, s.dev.power.state = .park →
    (∀ ch, exec (.refreshDue ch) s = .next s) ∧ (∀ a r, exec (.patrolScrub a r) s = .next s) ∧
    (∀ i l m, exec (.arbDecision i l m) s = .next s) ∧ (∀ i n, exec (.emergencyRevoke i ⟨.refresh, n⟩) s = .next s)) ∧
  (∀ (ch : Fin 640) (at_ : W64) (s : State), tabWf {} s.dev.chans = true → tabWf {} s.dev.arbs = true → s.dev.power.railsUp = true →
    (getChan s.dev ch.val).since = some at_ → 120 ≤ (s.dev.pace.time - at_).toNat →
    ∃ t, exec (.refreshDone ch) s = .next t ∧
      getChan t.dev ch.val = { owed := (getChan s.dev ch.val).owed - 1, since := none } ∧
      (getArb t.dev ch.val).emergency = none ∧ (getArb t.dev ch.val).current = (getArb s.dev ch.val).replay.head? ∧
      (getArb t.dev ch.val).replay = (getArb s.dev ch.val).replay.tail ∧
      (2 ≤ (getChan s.dev ch.val).owed → (getChan s.dev ch.val).owed ≤ 8 → (getArb s.dev ch.val).raised = [] →
        (getArb s.dev ch.val).decided = none → (getArb s.dev ch.val).backoff = [] →
        (getArb t.dev ch.val).raised = [⟨⟨.refresh, 0⟩, .other, 1⟩]) ∧
      (∀ k, k ≠ ch.val → getChan t.dev k = getChan s.dev k ∧ getArb t.dev k = getArb s.dev k) ∧
      t.mem = s.mem ∧ t.dev.descs = s.dev.descs) ∧
  (∀ (a : Nat) (s : State), a < 0x7800000000 → s.dev.power.railsUp = true → s.dev.arm.memoryInit = true →
    s.dev.power.state ≠ .park → scrubDue s.dev a = true →
    (isUe s.dev a = false → ∃ t, exec (.patrolScrub a .corrected) s = .next t ∧
      t = { s with dev := ctrAdd (0x200 + a / 256 % 20) 0 1 { s.dev with scrubbed := t.dev.scrubbed } }) ∧
    ∃ t, exec (.patrolScrub a .uncorrectable) s = .next t ∧ isUe t.dev a = true ∧ t.mem = s.mem ∧ t.host = s.host ∧
      (∀ u, u ∈ s.dev.ue → u < 0x8000000000 → u ∈ t.dev.ue) ∧
      (attnHeld s.dev.attn < 64 → ∃ e ∈ t.dev.attn.held, e.code = 0x0004 ∧ e.payload = leBytes 8 (a - a % 32) ++ [0])) ∧
  (∀ (l : Fin 4) (s : State), exec (.stitchLineFault l) s = .next { s with dev := { s.dev with fab := { s.dev.fab with
    stitchFaults := s.dev.fab.stitchFaults ||| (1#4 <<< l.val) } } }) ∧
  (∀ (d p a : Nat) (x : Desc) (q : Part) (s : State), livePart s.dev d p = some (x, q) → x.cls ≤ 5 →
    isKernel x = false → populated a = true →
    (isUe s.dev a = false → exec (.memoryUe d p ⟨.mem a, .corrected⟩) s = .next { s with dev := countCorrected a s.dev }) ∧
    (∃ t x' q', exec (.memoryUe d p ⟨.mem a, .uncorrectable⟩) s = .next t ∧ isUe t.dev a = true ∧ getDesc t.dev d = some x' ∧ x'.bytes = x.bytes ∧
      x'.parts[p]? = some q' ∧ q'.state = .ended ∧ q'.status = stMemoryUe ∧ q'.faultAddr = BitVec.ofNat 64 (granuleBase a) ∧
      (attnHeld s.dev.attn < 64 →
        ∃ e ∈ t.dev.attn.held, e.code = 0x0004 ∧ e.payload = leBytes 8 (granuleBase a) ++ [0])) ∧
    (isUe s.dev a = true → ∃ t x' q', exec (.partialWriteUe d p (.mem a)) s = .next t ∧ isUe t.dev a = true ∧
      getDesc t.dev d = some x' ∧ x'.bytes = x.bytes ∧
      x'.parts[p]? = some q' ∧ q'.state = .ended ∧ q'.status = stMemoryUe ∧ q'.faultAddr = BitVec.ofNat 64 (granuleBase a) ∧
      (attnHeld s.dev.attn < 64 →
        ∃ e ∈ t.dev.attn.held, e.code = 0x0004 ∧ e.payload = leBytes 8 (granuleBase a) ++ [0])))

/-- The contest of one decision at an instance with nothing to replay, no grant decided and no emergency use or refresh:
with an unmasked high-class request raised, the grant goes to one of them; else with a normal one raised, to a normal one;
else to a low one; and else to a masked high one. The winner's request is withdrawn, it stands last in the ranking, its
grant is charged to its quota only on the first line; every loser of the contest in normal service sits out, one in
waiting service stays raised, and so does a masked one, which is no part of a contest that others are in (R262, R265,
R267, R268). No other instance changes. Where the model chose: log 39, 41. -/
def Obligations.ArbiterDecidesByClass : Prop :=
  ∀ (i : Fin 4792) (s : State), tabWf {} s.dev.arbs = true → s.dev.power.railsUp = true → s.dev.power.state ≠ .park →
    let a := getArb s.dev i.val
    let cls (r : ArbRequest) : Nat := srcClass s.dev (arbKind i.val) r.req.src
    let open_ (r : ArbRequest) : Prop := winCount a r.req < (s.dev.arbRegs.getD (arbKind i.val) {}).quota.toNat
    let out (r : ArbRequest) : Prop := cls r = 1 ∧ ¬ open_ r
    a.raised ≠ [] → a.replay = [] → a.decided = none → a.backoff = [] → a.emergency = none →
    (i.val < 640 → (getChan s.dev i.val).since = none ∧ (getChan s.dev i.val).owed < 8) →
    (∀ r ∈ a.raised, cls r ≤ 2) → a.winPos < (s.dev.arbRegs.getD (arbKind i.val) {}).window.toNat →
    (∀ r ∈ a.raised, ∀ q ∈ a.raised, r.req = q.req → r = q) →
    ∃ t win b, exec (.arbDecision i [] []) s = .next t ∧ getArb t.dev i.val = b ∧
      win ∈ a.raised ∧ b.decided = some ⟨win.req, win.beats⟩ ∧ b.current = none ∧ b.decision = a.decision + 1 ∧
      b.rank.getLast? = some win.req ∧ (∀ r ∈ b.raised, r.req ≠ win.req) ∧
      ((∃ r ∈ a.raised, cls r = 1 ∧ open_ r) → cls win = 1 ∧ open_ win ∧ winCount b win.req = winCount a win.req + 1) ∧
      ((¬ ∃ r ∈ a.raised, cls r = 1 ∧ open_ r) → b.counts = a.counts ∧
        ((∃ r ∈ a.raised, cls r = 0) → cls win = 0) ∧
        ((¬ ∃ r ∈ a.raised, cls r = 0) → (∃ r ∈ a.raised, cls r = 2) → cls win = 2)) ∧
      (∀ r ∈ a.raised, r.req ≠ win.req → (¬ out r ∨ out win) → waitingService s.dev r = false →
        ∃ k ∈ b.backoff, k.req = r.req ∧ k.k = 1 ∧ k.until_ = a.decision + 2 ∧ k.held = some r) ∧
      (∀ r ∈ a.raised, r.req ≠ win.req → waitingService s.dev r = true ∨ (out r ∧ ¬ out win) → r ∈ b.raised) ∧
      (∀ k, k ≠ i.val → getArb t.dev k = getArb s.dev k) ∧ t.mem = s.mem ∧ t.dev.descs = s.dev.descs

/-- BACKOFF_END of a loser whose rounds have run out raises its request again; QUOTA_WINDOW_START after W rounds clears
every charge; EMERGENCY_REVOKE by a channel that owes eight refreshes takes the resource and keeps the beats left of the
transfer it revokes for replay; and EMERGENCY_END of the debug port's use issues the replay ahead of every other grant
(R265, R268, R270). Where the model chose: log 39, 41. -/
def Obligations.ArbiterBacksOffAndReplays : Prop :=
  (∀ (i : Fin 4792) (r : Requester) (b : Backoff) (q : ArbRequest) (s : State), s.dev.power.railsUp = true →
    backoffOf (getArb s.dev i.val) r = b → b.held = some q → b.until_ ≤ (getArb s.dev i.val).decision →
    ∃ a, exec (.backoffEnd i r) s = .next { s with dev := { s.dev with arbs := tabPut {} s.dev.arbs i.val a } } ∧
      a.raised = (getArb s.dev i.val).raised ++ [q] ∧ (backoffOf a r).held = none) ∧
  (∀ (i : Fin 4792) (s : State), s.dev.power.railsUp = true →
    (s.dev.arbRegs.getD (arbKind i.val) {}).window.toNat ≤ (getArb s.dev i.val).winPos →
    exec (.quotaWindowStart i) s = .next { s with dev := { s.dev with
      arbs := tabPut {} s.dev.arbs i.val { getArb s.dev i.val with winPos := 0, counts := [] } } }) ∧
  (∀ (i : Fin 4792) (g : Grant) (moved : Nat) (s : State), tabWf {} s.dev.arbs = true → s.dev.power.railsUp = true → s.dev.power.state ≠ .park → i.val < 640 →
    8 ≤ (getChan s.dev i.val).owed → (getChan s.dev i.val).since = none →
    (getArb s.dev i.val).emergency = none → (getArb s.dev i.val).current = some g → 1 ≤ moved → moved < g.beats →
    ∃ t, exec (.emergencyRevoke i ⟨.refresh, moved⟩) s = .next t ∧
      getArb t.dev i.val = { getArb s.dev i.val with
        emergency := some .refresh, current := none
        replay := ⟨g.req, g.beats - moved⟩ :: (getArb s.dev i.val).replay } ∧
      t.mem = s.mem ∧ t.dev.descs = s.dev.descs) ∧
  (∀ (i : Fin 4792) (s : State), s.dev.power.railsUp = true → (getArb s.dev i.val).emergency = some .debug →
    (i.val < 640 → (getChan s.dev i.val).owed < 8) →
    let a : Sys2Proof.Machine.ArbInst := { getArb s.dev i.val with
      emergency := none
      current := (getArb s.dev i.val).replay.head?.or (getArb s.dev i.val).current
      replay := (getArb s.dev i.val).replay.tail }
    exec (.emergencyEnd i) s = .next { s with dev := { s.dev with arbs := tabPut {} s.dev.arbs i.val a } })

/-! ### Vector parts -/

/-- Each command of the vector functions, MOV to SILU, their derivatives, the reductions, the record folds, SOFTMAX_NORM,
and CONV, runs the part it names, where the part is ready on a core that is not fenced and has room in its stream table,
and its descriptor has the command's function; a part that finds no room waits, which is counted once; one on a fenced
core ends with FENCED; and the command changes nothing where the part is not ready or has another function (R25, R148 to
R157, R240, R309). Where the model chose: log 27, 30, 31. -/
def Obligations.VectorCommandsRunTheirPart : Prop :=
  (∀ fc ∈ vopCommands, ∀ (d p : Nat) (s : State), Memory.wf s = true →
    (∀ x q, ready s.dev d p 1 = some (x, q) → (vopOf x.bytes).func = fc.1 → PartTurn (fc.2 d p) d p (vopBody x q p) s) ∧
    (∀ x q, ready s.dev d p 1 = some (x, q) → (vopOf x.bytes).func ≠ fc.1 → exec (fc.2 d p) s = .next s) ∧
    (ready s.dev d p 1 = none → exec (fc.2 d p) s = .next s)) ∧
  (∀ (d p : Nat) (s : State), Memory.wf s = true →
    (∀ x q, ready s.dev d p 2 = some (x, q) → PartTurn (.conv d p) d p (vopBody x q p) s) ∧
    (ready s.dev d p 2 = none → exec (.conv d p) s = .next s))

/-- A vector command, on a module that holds no uncorrectable word, changes no register, queue or memory but through its
part: contexts, rings, engines, groups, ports, membership, power, pace, sensors and attention are as before, so is every
other descriptor and every other part of its own, and flash; and in device and host memory exactly the bytes that its part
stores change, or its destinations where the part fails (R148, R151, R310). -/
def Obligations.VectorCommandsTouchOnlyTheirPart : Prop :=
  ∀ fc ∈ (0x100, Instr.conv) :: vopCommands, ∀ (d p : Nat) (s t : State),
    s.dev.ue = [] → exec (fc.2 d p) s = .next t →
    t.dev.ctxs = s.dev.ctxs ∧ t.dev.rings = s.dev.rings ∧ t.dev.engines = s.dev.engines ∧ t.dev.groups = s.dev.groups ∧
    t.dev.ports = s.dev.ports ∧ t.dev.members = s.dev.members ∧ t.dev.routes = s.dev.routes ∧ t.dev.mould = s.dev.mould ∧
    t.dev.power = s.dev.power ∧ t.dev.pace = s.dev.pace ∧ t.dev.sns = s.dev.sns ∧ t.dev.arm = s.dev.arm ∧
    t.dev.attn = s.dev.attn ∧ t.dev.fenced = s.dev.fenced ∧ t.dev.dbLines = s.dev.dbLines ∧ t.pending = s.pending ∧
    (∀ a, flashByte t a = flashByte s a) ∧
    (∀ e, e ≠ d → getDesc t.dev e = getDesc s.dev e) ∧
    (∀ x x', getDesc s.dev d = some x → getDesc t.dev d = some x' →
      x'.bytes = x.bytes ∧ ∀ r, r ≠ p → x'.parts[r]? = x.parts[r]?) ∧
    (let cls := if fc.1 = 0x100 then 2 else 1
     let goes (x : Desc) (q : Part) : Prop := ready s.dev d p cls = some (x, q) ∧ (cls = 2 ∨ (vopOf x.bytes).func = fc.1) ∧
       onFenced s.dev d p = false ∧ stabBlocked s.dev d p = none
     (∀ x q w, Memory.wf s = true → s.dev.power.lost = .none → goes x q →
       ((vopBody x q p).run (onDev (startPart d p) (workOf s)) = (.ok (), w) → StoredBy s t w.stores) ∧
       (∀ st a, (vopBody x q p).run (onDev (startPart d p) (workOf s)) = (.error (.fail st a), w) →
         StoredBy s t (freeDest w).stores) ∧
       ((vopBody x q p).run (onDev (startPart d p) (workOf s)) = (.error .wait, w) → t = s)) ∧
     ((¬ ∃ x q, goes x q) → t.mem = s.mem ∧ t.host = s.host))

/-! ### Numbers -/

/-- Every code of a floating-point format but its NaNs, read and converted back in any rounding mode, is that code, with
no flag; and so is every code of a two's complement fixed-point format (R50, R51, R52, R60, R69). -/
def Obligations.FormatsReadBackExactly : Prop :=
  (∀ f ∈ [fFP32, fBF16, fFP16, fE4M3, fE5M2, fE3M2, fE2M3, fE2M1], ∀ c < 2 ^ f.bits, ∀ (rd : Rnd) (ieee : Bool),
    (f.decode c).isNan = false → f.convert rd ieee (f.decode c) = (c, fNone)) ∧
  (∀ (w frac c : Nat) (rd : Rnd), 1 ≤ w → c < 2 ^ w → fixConvert w frac rd (fixDecode w frac c) = (c, fNone))

/-- The element functions on finite values: ADD, SUB, MUL, FMA and AXPBY are exact before the one rounding of the
destination; DIV is within 2^-600 of the quotient; NEG, ABS, MAX, MIN, RELU, CMPGT and SELECT are what they are of
rational numbers; and a NaN operand of any of the two-operand ones gives a NaN (R151, R152). Where the model chose: log
28, 29. -/
def Obligations.ElementFunctionsAreExact : Prop :=
  (∀ (a b c : Val) (i j : Nat), a.isFinite = true → b.isFinite = true → c.isFinite = true →
    (f32 i).isFinite = true → (f32 j).isFinite = true →
    let f (n : Nat) : Val := elemFn n a b c i j
    let x : ℚ := ratOf a
    let y : ℚ := ratOf b
    ratOf (f 0x00) = x ∧ ratOf (f 0x01) = -x ∧ ratOf (f 0x02) = |x| ∧ ratOf (f 0x03) = x + y ∧ ratOf (f 0x04) = x - y ∧
    ratOf (f 0x05) = x * y ∧ ratOf (f 0x06) = x * y + ratOf c ∧ ratOf (f 0x07) = x * ratOf (f32 i) + y * ratOf (f32 j) ∧
    (y ≠ 0 → |ratOf (f 0x08) - x / y| ≤ |x / y| / 2 ^ 600) ∧
    ratOf (f 0x0C) = max x y ∧ ratOf (f 0x0D) = min x y ∧ ratOf (f 0x0E) = (if ratOf c = 0 then y else x) ∧
    ratOf (f 0x0F) = (if y < x then 1 else 0) ∧ ratOf (f 0x25) = max x 0 ∧
    (∀ n ∈ [0x00, 0x01, 0x02, 0x03, 0x04, 0x05, 0x06, 0x07, 0x0C, 0x0D, 0x0E, 0x0F, 0x25], (f n).isFinite = true)) ∧
  (∀ (a b c : Val) (i j : Nat), (a.isNan || b.isNan) = true →
    ∀ n ∈ [0x03, 0x04, 0x05, 0x06, 0x07, 0x08, 0x0C, 0x0D, 0x0E, 0x0F], (elemFn n a b c i j).isNan = true)

/-! ### Contexts and rings -/

/-- CTX_ENABLE of a context that is off gives it the fields of the word and makes it RUNNING, with every cached
translation of it dropped; CTX_DISABLE turns it off where no ring of it is enabled, releases the banks it holds, leaves
those a pass of its own still fills to be released with that pass, and is refused where one is; RING_CTX_INVAL with BUSY 1
and CTX_INVAL_DONE drop the translations of one context (R88, R251, R299). -/
def Obligations.ContextsTurnOnAndOff : Prop :=
  (∀ (x : Fin 64) (w : HostWrite) (s : State), WriteLands s 0x10000 w.ide → tabWf {} s.dev.ctxs = true →
    (getCtx s.dev x.val).enable = false → (x.val = 0 ∨ s.dev.pace.parkState = 0) →
    ∃ t, exec (.ctxEnable x w) s = .next t ∧
      getCtx t.dev x.val = { getCtx s.dev x.val with
        pasid := w.value.setWidth 20
        cls := if ((w.value >>> 20).setWidth 3 : BitVec 3).toNat ≤ 2 then (w.value >>> 20).setWidth 3 else (getCtx s.dev x.val).cls
        stepSlots := clampW 1 65535 ((w.value >>> 32).setWidth 16 : W16)
        stepSlots2 := clampW 1 65535 ((w.value >>> 48).setWidth 16 : W16), enable := true, state := 1 } ∧
      (∀ y, y ≠ x.val → getCtx t.dev y = getCtx s.dev y) ∧
      t = { s with dev := { s.dev with ctxs := t.dev.ctxs, tlb := s.dev.tlb.filter (fun e => e.ctx ≠ x.val) } }) ∧
  (∀ (x : Fin 64) (w : HostWrite) (s : State), WriteLands s 0x10000 w.ide → tabWf {} s.dev.ctxs = true →
    tabWf {} s.dev.engines = true → (getCtx s.dev x.val).enable = true →
    (ctxBusy s.dev x.val = true → exec (.ctxDisable x w) s = .next s) ∧
    (ctxBusy s.dev x.val = false → (∀ c ∈ s.dev.groups, ¬(c.2.enable = true ∧ c.2.ctx.toNat = x.val)) →
      ∃ t, exec (.ctxDisable x w) s = .next t ∧
        getCtx t.dev x.val = { getCtx s.dev x.val with enable := false, state := 0 } ∧
        (∀ y, y ≠ x.val → getCtx t.dev y = getCtx s.dev y) ∧
        (∀ e b, let k := getBank (getEngine s.dev e) b
          getBank (getEngine t.dev e) b = if k.phase = .held ∧ k.ctx = x.val then { order := k.order }
            else if k.phase = .filling ∧ k.ctx = x.val then { k with drop := true } else k) ∧
        (∀ u < bankBase, u ∈ t.dev.ue ↔ u ∈ s.dev.ue) ∧
        t = { s with dev := { s.dev with ctxs := t.dev.ctxs, engines := t.dev.engines, ue := t.dev.ue } })) ∧
  (∀ (x : Fin 64) (ide : Bool) (s : State), WriteLands s 0x48020 ide → s.dev.attn.invalBusy = false →
    exec (.ctxInval x ide) s = .next { s with dev := { s.dev with attn := { s.dev.attn with
      invalCtx := BitVec.ofNat 6 x.val, invalBusy := true } } }) ∧
  (∀ s : State, s.dev.attn.invalBusy = true → exec .ctxInvalDone s = .next { s with dev := { s.dev with
    attn := { s.dev.attn with invalBusy := false }
    tlb := s.dev.tlb.filter (fun e => e.ctx ≠ s.dev.attn.invalCtx.toNat) } })

/-- RING_ENABLE of a ring that is off starts it at its first unit with nothing reserved, and parts its descriptors of an
earlier life from it; where R302 refuses it, ERR is 2 and it stays off. RING_DISABLE turns it off and completes with
ABORTED its parts that have not started. REPLAY_START of an idle replay ring whose step state record passes R223 begins a
pass at unit 0, unless the link runs without 256-byte flits; it does nothing where REPLAY_LEFT is 0; and a record that
does not pass puts the context on the failure path (R223, R279, R302, R309, R331). No other ring changes. Where the model
chose: log 43, 101. -/
def Obligations.RingsStartAndStop : Prop :=
  (∀ (r : Fin 4096) (ide : Bool) (s : State), WriteLands s 0x20000 ide → tabWf {} s.dev.rings = true →
    (getRing s.dev r.val).enable = false →
    (ringRefused s.dev (getRing s.dev r.val) = true → ∃ t, exec (.ringEnable r ide) s = .next t ∧
      getRing t.dev r.val = { getRing s.dev r.val with err := 2 } ∧
      (∀ q, q ≠ r.val → getRing t.dev q = getRing s.dev q) ∧ t = { s with dev := { s.dev with rings := t.dev.rings } }) ∧
    (ringRefused s.dev (getRing s.dev r.val) = false →
      ((getRing s.dev r.val).mode = 1 ∨ (getDb s.dev (getRing s.dev r.val).dbLine.toNat).held = false) →
      ∃ t, exec (.ringEnable r ide) s = .next t ∧
        getRing t.dev r.val = { getRing s.dev r.val with
          enable := true, err := 0, state := 0, head := 0, tail := 0, cqHead := 0, cqWritten := 0, reserved := 0, waiting := none
          passFlags := {}, passSkipped := false, passRead := false, passSum := false, boundaryHeld := false } ∧
        (∀ q, q ≠ r.val → getRing t.dev q = getRing s.dev q) ∧
        t = { s with dev := { s.dev with
          rings := t.dev.rings
          descs := s.dev.descs.map (fun d => if d.ring = r.val then { d with orphan := true } else d) } })) ∧
  (∀ (r : Fin 4096) (ide : Bool) (s : State), WriteLands s 0x20000 ide → tabWf {} s.dev.rings = true →
    (getRing s.dev r.val).enable = true → ∃ t, exec (.ringDisable r ide) s = .next t ∧
      getRing t.dev r.val = { getRing s.dev r.val with enable := false, state := 0, waiting := none, boundaryHeld := false } ∧
      (∀ q, q ≠ r.val → getRing t.dev q = getRing s.dev q) ∧
      t.dev.descs = s.dev.descs.map (fun d => if d.ring = r.val ∧ d.sub = none ∧ d.orphan = false then
        { d with parts := d.parts.map (fun p => if p.state = .queued then { p with state := .done, status := stAborted } else p) }
        else d) ∧
      t = { s with dev := { s.dev with
        rings := t.dev.rings, descs := t.dev.descs, engines := t.dev.engines, trc := t.dev.trc, stab := t.dev.stab
        ue := t.dev.ue, stabWaits := s.dev.stabWaits.filter (fun k => k ≠ .fetch r.val) } }) ∧
  (∀ (r : Fin 4096) (ide : Bool) (bs : List Byte) (w : Work) (s : State), WriteLands s 0x20000 ide →
    tabWf {} s.dev.rings = true → tabWf {} s.dev.ctxs = true →
    let x := getRing s.dev r.val
    let c := getCtx s.dev x.ctx.toNat
    x.enable = true → x.mode = 1 → x.state = 0 → c.stepRec ≠ 0 → ringsBarred s.dev = false →
    (readBytes (edge x.ctx.toNat) c.stepRec 64).run (workOf s) = (.ok bs, w) →
    (leAt bs 28 4 = 0 → ∃ t, exec (.replayStart r ide) s = .next t ∧ t.dev.rings = s.dev.rings ∧ t.dev.ctxs = s.dev.ctxs ∧
      t.mem = s.mem ∧ t.host = s.host) ∧
    (leAt bs 28 4 ≠ 0 → recordOk bs = false → c.state = 1 → ∃ t, exec (.replayStart r ide) s = .next t ∧
      (getCtx t.dev x.ctx.toNat).state = 2 ∧ t.dev.attn.seq = s.dev.attn.seq + 1 ∧ t.mem = s.mem ∧ t.host = s.host) ∧
    (∀ w', leAt bs 28 4 ≠ 0 → recordOk bs = true → Memory.wf s = true → w'.wiped = .none → s.dev.power.lost = .none →
      (do
        let eta ← negEta x.ctx.toNat bs (leAt bs 0 4)
        writeNat (edge x.ctx.toNat) (c.stepRec + 8) 4 (fdiv f32One (leAt bs 4 4))
        writeNat (edge x.ctx.toNat) (c.stepRec + 44) 4 eta : Acc Unit).run w = (.ok (), w') →
      ∃ t, exec (.replayStart r ide) s = .next t ∧ StoredBy s t w'.stores ∧
        getRing t.dev r.val = { x with state := 4, head := 0, passFlags := {}, passSkipped := false, passRead := false, passSum := false, boundaryHeld := false } ∧
        (∀ q, q ≠ r.val → getRing t.dev q = getRing s.dev q) ∧ t.dev.ctxs = s.dev.ctxs))

/-- A doorbell line that is registered while CXL.cache runs is asked for with RdShared; released, where no ring names it,
it is evicted if it was held; snooped, it is given up, the snoop answered, the line asked for again, and the snoop
counted. Its data, and those of a poll, are compared with the slot of every enabled host-fed ring that names it: a ring
whose slot is in range takes TAIL and CQ_HEAD and fetches while units are left, and one whose slot is out of range stops
with ERR 1 and raises RING_ERROR. A refused line is polled (R304, R305, R316 to R319). Where the model chose: log 44. -/
def Obligations.DoorbellsMoveTheTails : Prop :=
  (∀ (i : Fin 4096) (w : HostWrite) (s : State), WriteLands s 0x40000 w.ide → (getDb s.dev i.val).valid = false →
    s.dev.cxl.cacheEn = true → s.dev.cxl.linkUp = true →
    exec (.dbLineRegister i w) s = .next { s with dev := { s.dev with
      dbLines := tabPut {} s.dev.dbLines i.val { getDb s.dev i.val with
        addr := (w.value >>> 6).setWidth 46, valid := true, held := false, polled := false }
      out := s.dev.out ++ [.rdShared i.val] } }) ∧
  (∀ (i : Fin 4096) (ide : Bool) (s : State), WriteLands s 0x40000 ide → (getDb s.dev i.val).valid = true →
    (∀ c ∈ s.dev.rings, ¬(c.2.enable = true ∧ c.2.mode = 0 ∧ c.2.dbLine.toNat = i.val)) →
    let v := lineReread i.val { s.dev with
      dbLines := tabPut {} s.dev.dbLines i.val { getDb s.dev i.val with valid := false, held := false, polled := false, data := 0 } }
    exec (.dbLineRelease i ide) s = .next { s with dev := { v with
      out := v.out ++ if (getDb s.dev i.val).held then [.cleanEvict i.val] else [] } }) ∧
  (∀ (i r : Fin 4096) (line : BitVec 512) (s : State), tabWf {} s.dev.rings = true → (getDb s.dev i.val).valid = true →
    (getDb s.dev i.val).held = false → s.dev.cxl.cacheEn = true → s.dev.cxl.linkUp = true →
    let x := getRing s.dev r.val
    let named (y : Ring) : Prop := y.enable = true ∧ y.mode = 0 ∧ y.dbLine.toNat = i.val
    named x → x.state ≠ 3 → (∀ q, named (getRing s.dev q) → q = r.val) →
    (2 ^ x.sizeLog2.toNat < (slotTail line x.dbSlot.toNat - x.head).toNat ∨
      2 ^ x.cqLog2.toNat < (x.cqWritten - slotCqHead line x.dbSlot.toNat).toNat) →
    ∃ t, exec (.doorbellData i line true) s = .next t ∧ getRing t.dev r.val = { x with state := 3, err := 1 } ∧
      (∀ q, q ≠ r.val → getRing t.dev q = getRing s.dev q) ∧
      t = { s with dev := lineReread i.val (raise 0x0006 x.ctx.toNat (leBytes 2 r.val ++ leBytes 1 1) { s.dev with
        rings := t.dev.rings, stabWaits := s.dev.stabWaits.filter (fun k => k ≠ .fetch r.val)
        dbLines := tabPut {} s.dev.dbLines i.val { getDb s.dev i.val with held := true, polled := false, data := line } }) }) ∧
  (∀ (i : Fin 4096) (s : State), (getDb s.dev i.val).valid = true → (getDb s.dev i.val).held = true →
    s.dev.cxl.cacheEn = true → s.dev.cxl.linkUp = true → ∃ t, exec (.doorbellSnoop i) s = .next t ∧
      t = { s with dev := { s.dev with
        dbLines := tabPut {} s.dev.dbLines i.val { getDb s.dev i.val with held := false }
        out := s.dev.out ++ [.snoopAnswer i.val, .rdShared i.val], ctr := t.dev.ctr } }) ∧
  (∀ (i : Fin 4096) (line : BitVec 512) (s : State), tabWf {} s.dev.rings = true → (getDb s.dev i.val).valid = true →
    s.dev.cxl.linkUp = true →
    let mine (x : Ring) : Prop := x.enable = true ∧ x.mode = 0 ∧ x.dbLine.toNat = i.val
    let inRange (x : Ring) : Prop := (slotTail line x.dbSlot.toNat - x.head).toNat ≤ 2 ^ x.sizeLog2.toNat ∧
      (x.cqWritten - slotCqHead line x.dbSlot.toNat).toNat ≤ 2 ^ x.cqLog2.toNat
    let took (t : State) : Prop := ∀ r, (¬ mine (getRing s.dev r) → getRing t.dev r = getRing s.dev r) ∧
      (mine (getRing s.dev r) → getRing t.dev r = settle { getRing s.dev r with
        tail := slotTail line (getRing s.dev r).dbSlot.toNat, cqHead := slotCqHead line (getRing s.dev r).dbSlot.toNat })
    let told (t : State) : Prop :=
      ((∃ j ∈ s.dev.cxl.rereads, j ≠ i.val) → t.dev.attn = s.dev.attn ∧
        t.dev.cxl = { s.dev.cxl with rereads := s.dev.cxl.rereads.filter (fun j => j ≠ i.val) }) ∧
      (s.dev.cxl.rereads = [i.val] → s.dev.cxl.resetsDue = 1 → t.dev.attn.seq = s.dev.attn.seq + 1 ∧
        t.dev.cxl = { s.dev.cxl with rereads := [], resetsDue := 0, linkResets := satAdd s.dev.cxl.linkResets 1 } ∧
        (attnHeld s.dev.attn < 64 → t.dev.attn.held = s.dev.attn.held ++
          [⟨s.dev.pace.time, 0x0005, 0, s.dev.attn.seq, [satAdd s.dev.cxl.linkResets 1]⟩]))
    (∀ c ∈ s.dev.rings, mine c.2 → inRange c.2) →
    ((getDb s.dev i.val).held = false → s.dev.cxl.cacheEn = true →
      ∃ t, exec (.doorbellData i line true) s = .next t ∧ took t ∧ told t ∧
        t = { s with dev := lineReread i.val { s.dev with
          rings := t.dev.rings
          dbLines := tabPut {} s.dev.dbLines i.val { getDb s.dev i.val with held := true, polled := false, data := line } } }) ∧
    (s.dev.cxl.cacheEn = false → timerDue s.dev (tmPoll i.val) s.dev.attn.pollInterval.toNat = true →
      ∃ t, exec (.doorbellPoll i line true) s = .next t ∧ took t ∧ told t ∧
        t = { s with dev := lineReread i.val { ctrAdd 0x3FF 4 1 s.dev with
          rings := t.dev.rings, timers := tabPut 0 s.dev.timers (tmPoll i.val) s.dev.pace.time
          out := s.dev.out ++ [.dbRead i.val] } })) ∧
  (∀ (i : Fin 4096) (line : BitVec 512) (s : State), (getDb s.dev i.val).valid = true → (getDb s.dev i.val).held = false →
    s.dev.cxl.cacheEn = true → s.dev.cxl.linkUp = true →
    exec (.doorbellData i line false) s = .next { s with dev := { s.dev with
      dbLines := tabPut {} s.dev.dbLines i.val { getDb s.dev i.val with polled := true } } })

/-- DESCRIPTOR_FETCH of a ring that may fetch, where its core's stream table has an entry free, the units at its HEAD can
be read and the completion queue has room, reads as many units as SIZE of the first says, the step count and what the
checks of the class read, and puts one descriptor into staging, newest last: its bytes are those of the units,
step-indexed where the header is good, its parts are queued on the units of its plan, or one that ended MALFORMED, and it
has the ring's context, the index of its first unit and the time. HEAD moves on by its units, the slots of its record are
reserved, and a good WAIT holds the ring. A ring whose TAIL stands within the descriptor, or whose completion queue has no
room, waits; so does one with no stream table entry, which is counted once. Where the ring does not translate it stops
with ERR 3, and a ring that may not fetch does nothing; and where a check of the descriptor meets an uncorrectable word,
its context is on the failure path and its parts do not wait (R240, R256, R301, R304 to R306, R308, R314, R330, R416).
Where the model chose: log 16, 45. -/
def Obligations.FetchStagesOneDescriptor : Prop :=
  ∀ (r : Fin 4096) (s : State), tabWf {} s.dev.rings = true →
    let x := getRing s.dev r.val
    let ctx := x.ctx.toNat
    (mayFetch s.dev r.val = false → exec (.descriptorFetch r) s = .next s) ∧
    (mayFetch s.dev r.val = true → stabFree s.dev (fetchCore r.val) = none →
      exec (.descriptorFetch r) s = .next { s with dev := stabWait (fetchCore r.val) (.fetch r.val) s.dev }) ∧
    (mayFetch s.dev r.val = true → (stabFree s.dev (fetchCore r.val)).isSome = true →
      (∀ first w1, (ringUnit x x.head.toNat).run (workOf s) = (.ok first, w1) →
        let n := sizeUnits (leAt first 0 1)
        (x.mode = 0 → (x.tail - x.head).toNat < n → exec (.descriptorFetch r) s = .next s) ∧
        (∀ more w2 step w3 units w4, (x.mode = 0 → n ≤ (x.tail - x.head).toNat) →
          (((upto n).drop 1).mapM (fun k => ringUnit x (x.head.toNat + k))).run w1 = (.ok more, w2) →
          (readStep ctx).run w2 = (.ok step, w3) →
          let raw := first ++ more.flatten
          let good := headerOk raw (decide (x.mode ≠ 0))
          let y : Desc :=
            { id := s.dev.nextDesc, ring := r.val, ctx := ctx, unitIndex := x.head, step := BitVec.ofNat 32 step
              time := s.dev.pace.time, bytes := if good then stepIndexed (getCtx s.dev ctx) step raw else raw
              cls := leAt raw 0 1 % 16, hostFed := decide (x.mode = 0) }
          (if good then planOf y else pure none).run w3 = (.ok units, w4) →
          let z := withParts y units
          let need := recordSlots z.parts.length
          (queueRoom x < need → exec (.descriptorFetch r) s = .next s) ∧
          (need ≤ queueRoom x → (getCtx w4.dev ctx).state = 1 → ∃ t run, exec (.descriptorFetch r) s = .next t ∧
            t.dev.descs = s.dev.descs ++ [{ z with slots := need, coll := run }] ∧ (y.cls ≠ 6 → run = none) ∧
            t.dev.nextDesc = s.dev.nextDesc + 1 ∧
            (let held := decide (y.cls = 9) && units.isSome
             getRing t.dev r.val = settle { x with
              head := x.head + BitVec.ofNat 32 n, reserved := x.reserved + need
              waiting := if held then some s.dev.nextDesc else x.waiting, state := if held then 2 else x.state }) ∧
            (∀ q, q ≠ r.val → getRing t.dev q = getRing s.dev q) ∧ t.dev.ctxs = s.dev.ctxs ∧ t.dev.engines = s.dev.engines ∧
            t.dev.attn = s.dev.attn ∧ t.mem = s.mem ∧ t.host = s.host) ∧
          (need ≤ queueRoom x → (getCtx w4.dev ctx).state ≠ 1 →
            ∃ t u, exec (.descriptorFetch r) s = .next t ∧ u ∈ t.dev.descs ∧ u.id = s.dev.nextDesc ∧ u.ring = r.val ∧
              (∀ p ∈ u.parts, p.state ≠ .queued) ∧ (getCtx t.dev ctx).state ≠ 1))) ∧
      (∀ a w, (stage r.val).run (workOf s) = (.error (.fail stTranslation a), w) → ∃ t, exec (.descriptorFetch r) s = .next t ∧
        (getRing t.dev r.val).state = 3 ∧ (getRing t.dev r.val).err = 3 ∧ (∀ q, q ≠ r.val → getRing t.dev q = getRing s.dev q) ∧
        t.dev.attn.seq = s.dev.attn.seq + 1 ∧ t.dev.descs = s.dev.descs ∧ t.mem = s.mem ∧ t.host = s.host))

/-- PART_COMPLETE of a part that has ended with no error, and with none of its sub-descriptors open, makes it done and
changes nothing else but the trace; of a part of a running replay that has ended with an error, it takes the context into
the failure path too, whose parts that have not started are done with ABORTED and whose event names the descriptor, the
ring and the status, and no other context changes; DESCRIPTOR_COMPLETE of a descriptor whose parts are all done takes it
out of staging, with its version, its signal and the record it is due, and changes nothing while one is not done. Every
slot of a completion record is 64 bytes, and PHASE is its last byte's low bit (R234, R309, R311 to R315, R416). Where the
model chose: log 46. -/
def Obligations.PartsAndDescriptorsComplete : Prop :=
  (∀ (d p : Nat) (x : Desc) (q : Part) (s : State), getDesc s.dev d = some x → x.parts[p]? = some q → q.state = .ended →
    subsOpen s.dev d p = false → q.status.toNat < 0x10 → ∃ t, exec (.partComplete d p) s = .next t ∧
      getDesc t.dev d = some { x with parts := x.parts.set p { q with state := .done } } ∧
      (∀ e, e ≠ d → getDesc t.dev e = getDesc s.dev e) ∧
      t = { s with dev := { s.dev with descs := t.dev.descs, trc := t.dev.trc } }) ∧
  (∀ (d p : Nat) (x : Desc) (q : Part) (s : State), tabWf {} s.dev.ctxs = true → getDesc s.dev d = some x →
    x.parts[p]? = some q → q.state = .ended → subsOpen s.dev d p = false → 0x10 ≤ q.status.toNat → q.status ≠ stFenced →
    x.sub = none → x.orphan = false → (getRing s.dev x.ring).enable = true → (getRing s.dev x.ring).mode = 1 →
    (getCtx s.dev x.ctx).state = 1 →
    let off (q : Part) : Part := if q.state = .queued then { q with state := .done, status := stAborted } else q
    ∃ t, exec (.partComplete d p) s = .next t ∧ getCtx t.dev x.ctx = { getCtx s.dev x.ctx with state := 2 } ∧
      (∀ y, y ≠ x.ctx → getCtx t.dev y = getCtx s.dev y) ∧
      getDesc t.dev d = some { x with parts := (x.parts.set p { q with state := .done }).map off } ∧
      (∀ e y, e ≠ d → getDesc s.dev e = some y →
        getDesc t.dev e = some (if y.ctx = x.ctx then { y with parts := y.parts.map off } else y)) ∧
      t.dev.attn.seq = s.dev.attn.seq + 1 ∧
      (attnHeld s.dev.attn < 64 → ∃ e, t.dev.attn.held = s.dev.attn.held ++ [e] ∧ e.code = 8 ∧
        e.payload = leBytes 8 (userTag x) ++ leBytes 2 x.ring ++ leBytes 1 q.status.toNat) ∧
      t.mem = s.mem ∧ t.host = s.host) ∧
  (∀ (d : Nat) (x : Desc) (s : State), getDesc s.dev d = some x → x.sub = none →
    (allDone x = false → exec (.descriptorComplete d) s = .next s) ∧
    (∀ w, allDone x = true → (completeBody x).run (workOf s) = (.ok (), w) →
      ∃ t, exec (.descriptorComplete d) s = .next t ∧ getDesc t.dev d = none ∧
        (Memory.wf s = true → w.wiped = .none → s.dev.power.lost = .none → w.dev.power = s.dev.power → StoredBy s t w.stores) ∧
        (s.dev.ue = [] → (∀ e, e ≠ d → getDesc t.dev e = getDesc s.dev e) ∧ t.dev.ctxs = s.dev.ctxs ∧
          t.dev.engines = s.dev.engines ∧ t.dev.groups = s.dev.groups))) ∧
  (∀ (v : Dev) (x : Desc) (phase k : Nat), phase < 2 →
    (recordHeader v x phase).length = 64 ∧ (recordCont x k phase).length = 64 ∧
    ((recordHeader v x phase).getD 63 0).toNat % 2 = phase ∧ ((recordCont x k phase).getD 63 0).toNat % 2 = phase)

/-! ### Ordering -/

/-- FENCE and SIGNAL run when every earlier descriptor of their ring has completed, SIGNAL adding its value to its epoch
counter; WAIT completes once its counter has reached its value and lets its ring fetch on, and till then changes nothing;
WAIT_TIMEOUT after its time, with the counter short of the value, ends it with TIMEOUT and stops its ring with ERR 4, and
changes nothing where the counter has reached it; a ring that an error has stopped keeps its ERR (R305, R328, R329, R330).
Where the model chose: log 46, 48. -/
def Obligations.OrderingCommandsRun : Prop :=
  (∀ (d : Nat) (x : Desc) (q : Part) (s : State), Memory.wf s = true → startable s.dev d 0 8 = some (x, q) →
    (earlierGone s.dev x = true → RunsPart (.fence d) d 0 (pure ()) s) ∧
    (earlierGone s.dev x = false → exec (.fence d) s = .next s)) ∧
  (∀ (d : Nat) (x : Desc) (q : Part) (s : State), Memory.wf s = true → startable s.dev d 0 10 = some (x, q) →
    (earlierGone s.dev x = true → RunsPart (.signal d) d 0 (addEpoch x.ctx (fieldOf x 16 1) (fieldOf x 24 8)) s) ∧
    (earlierGone s.dev x = false → exec (.signal d) s = .next s)) ∧
  (∀ (d n : Nat) (x : Desc) (q : Part) (w : Work) (s : State), startable s.dev d 0 9 = some (x, q) →
    (getRing s.dev x.ring).waiting = some d →
    (readEpoch x.ctx (fieldOf x 16 1)).run (onDev (startPart d 0) (workOf s)) = (.ok n, w) →
    (n < waitValue x → exec (.wait d) s = .next s) ∧
    (waitValue x ≤ n → ∃ t, exec (.wait d) s = .next t ∧ PartEnded (waitOver x.ring w.dev) t.dev d 0 stSuccess w.flags ∧
      t.mem = s.mem ∧ t.host = s.host)) ∧
  (∀ (d n : Nat) (x : Desc) (q : Part) (w : Work) (s : State), tabWf {} s.dev.rings = true →
    startable s.dev d 0 9 = some (x, q) → (getRing s.dev x.ring).waiting = some d → (getRing s.dev x.ring).enable = true →
    fieldOf x 40 8 ≠ 0 → fieldOf x 40 8 ≤ (s.dev.pace.time - x.time).toNat →
    (readEpoch x.ctx (fieldOf x 16 1)).run (workOf s) = (.ok n, w) →
    ∃ t, exec (.waitTimeout d) s = .next t ∧ (∀ r, r ≠ x.ring → getRing t.dev r = getRing s.dev r) ∧
      (∀ e, e ≠ d → getDesc t.dev e = getDesc s.dev e) ∧ t.dev.ctxs = s.dev.ctxs ∧ t.mem = s.mem ∧ t.host = s.host ∧
      (waitValue x ≤ n → t.dev.rings = s.dev.rings ∧ t.dev.descs = s.dev.descs ∧ t.dev.attn = s.dev.attn) ∧
      (n < waitValue x →
        (∃ q', getDesc t.dev d = some { x with parts := x.parts.set 0 q' } ∧ q'.state = .ended ∧ q'.status = stTimeout) ∧
        ((getRing s.dev x.ring).state ≠ 3 → t.dev.attn.seq = s.dev.attn.seq + 1 ∧
          getRing t.dev x.ring = { getRing s.dev x.ring with state := 3, err := 4, waiting := none }) ∧
        ((getRing s.dev x.ring).state = 3 → t.dev.attn = s.dev.attn ∧
          getRing t.dev x.ring = { getRing s.dev x.ring with waiting := none })))

/-- STEP_BOUNDARY, when every descriptor of the pass has completed and the record can be used, writes the record and
begins the next pass at unit 0; with REPLAY_LEFT 0 or STOP_REQ the ring is idle and REPLAY_STOPPED is raised instead. An
abort notice for a group of a running context, with no collective or copy of the group under way, puts that context on the
failure path with REMOTE_FAILURE and completes with ABORTED its parts that have not started (R232, R331, R416, R417).
Where the model chose: log 43, 47. -/
def Obligations.BoundariesAndAbortNotices : Prop :=
  (∀ (r : Fin 4096) (step left : Nat) (stop : Bool) (w : Work) (s : State), Memory.wf s = true → tabWf {} s.dev.rings = true →
    let x := getRing s.dev r.val
    x.boundaryHeld = false → x.enable = true → x.mode = 1 → x.state = 4 → x.progLen.toNat ≤ x.head.toNat →
    (outstanding s.dev r.val) = [] → (getMirror s.dev x.ctx.toNat).stepEn = false → w.wiped = .none →
    s.dev.power.lost = .none → w.dev.power = s.dev.power →
    (boundaryRecord r.val x.ctx.toNat (getCtx s.dev x.ctx.toNat).stepRec).run (workOf s) = (.ok (step, left, stop), w) →
    ∃ t, exec (.stepBoundary r) s = .next t ∧ StoredBy s t w.stores ∧ t.dev.ctxs = s.dev.ctxs ∧ t.dev.descs = s.dev.descs ∧
      (∀ q, q ≠ r.val → getRing t.dev q = getRing s.dev q) ∧
      ((left = 0 ∨ stop = true) → getRing t.dev r.val = { x with state := 0 } ∧ t.dev.attn.seq = s.dev.attn.seq + 1 ∧
        (attnHeld s.dev.attn < 64 → ∃ e n, t.dev.attn.held = s.dev.attn.held ++ [e] ∧ e.code = 7 ∧ e.ctx = x.ctx ∧
          e.payload = leBytes 4 step ++ leBytes 1 n ∧ n ≤ 1 ∧ (left ≠ 0 → n = 1) ∧ (stop = false → n = 0))) ∧
      (left ≠ 0 → stop = false → castHeld s.dev x.ctx.toNat step = false →
        getRing t.dev r.val = { x with state := 4, head := 0, passFlags := {}, passSkipped := false, passRead := false, passSum := false, boundaryHeld := false } ∧
        t.dev.attn = s.dev.attn) ∧
      (left ≠ 0 → stop = false → castHeld s.dev x.ctx.toNat step = true →
        getRing t.dev r.val = { x with boundaryHeld := true } ∧ t.dev.attn = s.dev.attn)) ∧
  (∀ (g : Byte) (s : State), tabWf {} s.dev.ctxs = true →
    let x := (getGroup s.dev g.toNat).ctx.toNat
    (((getGroup s.dev g.toNat).enable = false ∨ (getCtx s.dev x).state ≠ 1) → exec (.abortNoticeReceived g) s = .next s) ∧
    ((getGroup s.dev g.toNat).enable = true → (getCtx s.dev x).state = 1 → (∀ y ∈ s.dev.descs, y.cls ≠ 6 ∧ y.cls ≠ 7) →
      ∃ t, exec (.abortNoticeReceived g) s = .next t ∧ getCtx t.dev x = { getCtx s.dev x with state := 2 } ∧
        (∀ y, y ≠ x → getCtx t.dev y = getCtx s.dev y) ∧
        t.dev.descs = s.dev.descs.map (fun y => if y.ctx = x then
          { y with parts := y.parts.map (fun p => if p.state = .queued then { p with state := .done, status := stAborted } else p) }
          else y) ∧
        t.dev.attn.seq = s.dev.attn.seq + 1 ∧
        (attnHeld s.dev.attn < 64 → ∃ e, t.dev.attn.held = s.dev.attn.held ++ [e] ∧ e.code = 8 ∧
          e.payload = leBytes 8 0 ++ leBytes 2 0xFFFF ++ leBytes 1 stRemote.toNat) ∧
        t.mem = s.mem ∧ t.host = s.host))

/-! ### Attention -/

/-- ATTN_RECORD_WRITE writes the first held event at TAIL where the ring has room, and advances TAIL; a write that does
not translate, or fails on the link, disables the ring with FAULT set, and an uncorrectable word there puts context 0 on
the failure path as well; with nothing held or no room nothing happens. ATTN_ENABLE, where context 0 is enabled, starts
the ring empty; ATTN_HEAD_WRITE sets HEAD, and ATTN_HELD_HW follows the number then held; and a pulse starts on a ready
module 4,000 units or more after the last one, lasts 1,000 units or more, and ends (R256, R320 to R326, R333, R462, R505).
Where the model chose: log 16, 42. -/
def Obligations.AttentionRecordsAndPulses : Prop :=
  (∀ s : State, (s.dev.attn.held = [] ∨ attnRoom s.dev.attn = 0) → exec .attnRecordWrite s = .next s) ∧
  (∀ (e : AttnEvent) (rest : List AttnEvent) (s : State), Memory.wf s = true → s.dev.power.railsUp = true →
    s.dev.attn.held = e :: rest → attnRoom s.dev.attn ≠ 0 →
    let a := s.dev.attn
    let len := 2 ^ a.sizeLog2.toNat
    let write := attnPut (a.base + BitVec.ofNat 64 (64 * (a.tail.toNat % len)))
      (attnBytes e a.droppedSince.toNat (phaseOf a.tail.toNat len))
    (∀ w, write.run (workOf s) = (.ok (), w) → w.wiped = .none → s.dev.power.lost = .none → w.dev.power = s.dev.power →
      ∃ t, exec .attnRecordWrite s = .next t ∧ StoredBy s t w.stores ∧ t.dev.attn = { a with
        held := rest, tail := a.tail + 1, droppedSince := 0, pulseDue := a.pulseDue || a.pulseEn } ∧
      t.dev.ctxs = s.dev.ctxs ∧ t.dev.rings = s.dev.rings ∧ t.dev.descs = s.dev.descs) ∧
    (∀ st b w, write.run (workOf s) = (.error (.fail st b), w) → st ≠ stMemoryUe → ∃ t, exec .attnRecordWrite s = .next t ∧
      t.dev.attn.enable = false ∧ t.dev.attn.fault = true ∧ t.dev.attn.seq = a.seq ∧ t.dev.attn.tail = a.tail ∧
      t.dev.ctxs = s.dev.ctxs ∧ t.dev.rings = s.dev.rings ∧ t.dev.descs = s.dev.descs) ∧
    (∀ b w, tabWf {} s.dev.ctxs = true → write.run (workOf s) = (.error (.fail stMemoryUe b), w) →
      ∃ t, exec .attnRecordWrite s = .next t ∧ t.dev.attn.enable = false ∧ t.dev.attn.fault = true ∧ (getCtx t.dev 0).state ≠ 1)) ∧
  (∀ (w : HostWrite) (s : State), WriteLands s 0x48010 w.ide → (getCtx s.dev 0).enable = true → s.dev.attn.enable = false →
    exec (.attnEnable w) s = .next { s with dev := { s.dev with attn := { s.dev.attn with
      sizeLog2 := clampW 6 16 (w.value.setWidth 5 : BitVec 5), pulseEn := w.value.getLsbD 9, enable := true, head := 0, tail := 0 } } }) ∧
  (∀ (w : HostWrite) (s : State), WriteLands s 0x48014 w.ide →
    exec (.attnHeadWrite w) s = .next { s with dev := heldHigh { s.dev with attn := { s.dev.attn with head := w.value.setWidth 32 } } }) ∧
  (∀ s : State, s.dev.attn.pulseDue = true → s.dev.power.rbHigh = true → s.dev.attn.pulseLow = false →
    (∀ u, s.dev.attn.gapFrom = some u → 4000 ≤ (s.dev.pace.time - u).toNat) →
    exec .attnPulseStart s = .next { s with dev := { s.dev with attn := { s.dev.attn with
      pulseLow := true, pulseDue := false, pulseStart := s.dev.pace.time } } }) ∧
  (∀ s : State, s.dev.attn.pulseLow = true → 1000 ≤ (s.dev.pace.time - s.dev.attn.pulseStart).toNat →
    exec .attnPulseEnd s = .next { s with dev := { s.dev with attn := { s.dev.attn with
      pulseLow := false, gapFrom := some s.dev.pace.time } } })

/-- While the attention ring is disabled or full, an event is held behind those already held, up to 64 of them, and a
further one is dropped, which counts in ATTN_STATUS.DROPPED and in the DROPPED field due to the next record; either way
SEQ advances by one. Once there is room, ATTN_RECORD_WRITE writes the first held event, with the count of the dropped in
bytes 56 to 59 of its record, and leaves the rest in their order with nothing due (R323). -/
def Obligations.AttentionEventsAreHeldInOrder : Prop :=
  (∀ (code ctx : Nat) (payload : List Byte) (v : Dev), attnRoom v.attn = 0 →
    let a := v.attn
    let e : AttnEvent := ⟨v.pace.time, BitVec.ofNat 16 code, BitVec.ofNat 6 ctx, a.seq, payload⟩
    (a.held.length < 64 → (raise code ctx payload v).attn = { a with held := a.held ++ [e], seq := a.seq + 1 }) ∧
    (64 ≤ a.held.length → (raise code ctx payload v).attn =
      { a with dropped := satAdd a.dropped 1, droppedSince := a.droppedSince + 1, seq := a.seq + 1 })) ∧
  (∀ (e : AttnEvent) (n phase : Nat), ((attnBytes e n phase).drop 56).take 4 = leBytes 4 n ∧ (attnBytes e n phase).length = 64) ∧
  (∀ (e : AttnEvent) (rest : List AttnEvent) (w : Work) (s : State), Memory.wf s = true → s.dev.power.railsUp = true →
    s.dev.power.lost = .none → s.dev.attn.held = e :: rest → attnRoom s.dev.attn ≠ 0 →
    let a := s.dev.attn
    let len := 2 ^ a.sizeLog2.toNat
    (attnPut (a.base + BitVec.ofNat 64 (64 * (a.tail.toNat % len)))
      (attnBytes e a.droppedSince.toNat (phaseOf a.tail.toNat len))).run (workOf s) = (.ok (), w) →
    w.wiped = .none → w.dev.power = s.dev.power →
    ∃ t, exec .attnRecordWrite s = .next t ∧ StoredBy s t w.stores ∧ t.dev.attn.held = rest ∧ t.dev.attn.droppedSince = 0 ∧
      t.dev.attn.seq = a.seq ∧ t.dev.attn.dropped = a.dropped)

/-! ### Matrix engines -/

/-- MM_PRODUCT, MM_BACKWARD_PAIR, MM_KEEP and STAT_GATHER put every part of their descriptor last into the queue of its
engine, where the engine has a free slot, its core is not fenced, the part has a block, and no earlier part of the issuer
is still outside; MM_DRAIN_ONLY puts its part there as a drain where its context holds the bank it names, and ends it
malformed where the context neither holds it nor is filling it in keep mode, whoever else does (R86, R87, R94, R167,
R211). Where the model chose: log 51, 85, 100. -/
def Obligations.EnginePartsEnterTheirQueues : Prop :=
  (∀ c ∈ ([(.mmProduct, fun x => x.cls = 0 && (mmOf x.bytes).op = 0 && bankModeOf x = 0),
           (.mmBackwardPair, fun x => x.cls = 0 && (mmOf x.bytes).op = 1), (.mmKeep, fun x => x.cls = 0 && bankModeOf x = 1),
           (.statGather, fun x => x.cls = 3 && onEngine x)] : List ((Nat → Instr) × (Desc → Bool))),
    ∀ (d : Nat) (x : Desc) (s : State), tabWf {} s.dev.engines = true → getDesc s.dev d = some x → c.2 x = true →
      mayStart s.dev x = true →
      (∀ p q, x.parts[p]? = some q → q.state = .queued ∧ findPart (getEngine s.dev q.unit) d p = none ∧
        isFenced s.dev (q.unit / 4) = false ∧ blockCount x p ≠ 0 ∧ queuedOf (getEngine s.dev q.unit) false < 8 ∧
        earlierOutside s.dev x q.unit = false) →
      (∀ (p k : Nat) (q r : Part), x.parts[p]? = some q → x.parts[k]? = some r → q.unit = r.unit → p = k) →
      ∃ t, exec (c.1 d) s = .next t ∧
        (∀ p q, x.parts[p]? = some q → getEngine t.dev q.unit =
          { getEngine s.dev q.unit with queue := (getEngine s.dev q.unit).queue ++ [{ d := d, p := p }] }) ∧
        (∀ e, (∀ q ∈ x.parts, q.unit ≠ e) → getEngine t.dev e = getEngine s.dev e) ∧
        t = { s with dev := { s.dev with engines := t.dev.engines, ctr := t.dev.ctr } }) ∧
  (∀ (d : Nat) (x : Desc) (q : Part) (s : State), tabWf {} s.dev.engines = true → getDesc s.dev d = some x →
    x.parts[0]? = some q → x.cls = 0 → (mmOf x.bytes).bankMode = 2 → q.state = .queued →
    findPart (getEngine s.dev q.unit) d 0 = none → mayStart s.dev x = true → isFenced s.dev (q.unit / 4) = false →
    (mmOf x.bytes).m ≠ 0 → (mmOf x.bytes).n ≠ 0 →
    let b := getBank (getEngine s.dev q.unit) (mmOf x.bytes).bankSel
    (b.phase = .held → b.ctx = x.ctx → queuedOf (getEngine s.dev q.unit) true = 0 →
      let g : Engine := { getEngine s.dev q.unit with
        queue := (getEngine s.dev q.unit).queue ++ [{ d := d, p := 0, drain := true }] }
      ∃ t, exec (.mmDrainOnly d) s = .next t ∧
        t = { s with dev := { s.dev with engines := tabPut {} s.dev.engines q.unit g, ctr := t.dev.ctr } }) ∧
    (¬(b.phase = .held ∧ b.ctx = x.ctx) → keepFilling s.dev b x.ctx = false → ∃ t, exec (.mmDrainOnly d) s = .next t ∧
      PartEnded s.dev t.dev d 0 stMalformed {} ∧ t.mem = s.mem ∧ t.host = s.host))

/-- PASS_BOUNDARY loads the next stationary tile of the part that takes it, in full where the engine has run another part
before (R380), which becomes the engine's part, and a new block takes its bank, clear but for a bank held in keep mode
without CLEAR; SHADOW_EXCHANGE, once the banks whose blocks are complete have closed, runs the loaded tile's pass, after
which its set is the active one, the bank holds the pass's sums, and the part is at the second pass of a backward pair, at
its next tile or at its next block; after the last tile in keep mode its bank is held, or released where its context has
been turned off or has failed meanwhile, and the part leaves the queue and ends with SUCCESS; that second pass runs over
the active set at a PASS_BOUNDARY of its own. None stores to memory but for the weight pass of a backward pair, and no
other engine changes (R83, R84, R86, R88, R101, R110, R211, R379). BANK_CLOSE of a block that has had its last pass, with
no earlier block of its part still to close, makes its bank closed, the next in the engine's order of closes, and takes a
part whose last block it holds out of the queue; TREE_EMPTY starts the earliest closed bank draining where the other does
not drain; DRAIN_COMPLETE writes the block, clears and frees the bank, and the part whose last block it was ends with
SUCCESS; GATHER_PROMOTE moves a gather's parts behind those waiting once its deadline has passed (R108 to R111, R165,
R168). Where the model chose: log 49, 50, 52, 53, 85, 88, 100. -/
def Obligations.EnginesPassCloseAndDrain : Prop :=
  (let went (x : Desc) (b tiles : Nat) (q : EngPart) : EngPart :=
    if isPair x = true ∧ q.second = false then { q with second := true }
    else if q.tile + 1 < tiles then { q with tile := q.tile + 1, second := false }
    else { q with block := q.block + 1, tile := 0, bank := none, lastBank := some b, second := false }
  (∀ (e : Fin 128) (s : State), pickPart s.dev e.val (getEngine s.dev e.val) = none → exec (.passBoundary e) s = .next s) ∧
  (∀ (e : Fin 128) (q : EngPart) (x : Desc) (b : Nat) (st : StatSet) (sa sb : W32) (w : Work) (s : State), Memory.wf s = true →
    tabWf {} s.dev.engines = true → w.wiped = .none → s.dev.power.lost = .none → w.dev.power = s.dev.power →
    let g := getEngine s.dev e.val
    pickPart s.dev e.val g = some q → getDesc s.dev q.d = some x → q.bank = none → bankFor s.dev g x q = some b → b < 2 →
    mustWait s.dev q = none → findPart g q.d q.p = some q →
    (loadBody e.val x q).run (onDev (begun e.val q) (workOf s)) = (.ok (st, sa, sb), w) → st.loaded = true →
    (∀ u, (loadBody e.val x q).run (workOf s) ≠ (.error .wait, u)) →
    w.stores = [] ∧ ∃ t, exec (.passBoundary e) s = .next t ∧ StoredBy s t [] ∧
      let g' := getEngine t.dev e.val
      g'.current = some (q.d, q.p) ∧ g'.shadow = { st with full := decide (g.current ≠ some (q.d, q.p)) } ∧
      g'.active = g.active ∧ g'.closes = g.closes ∧
      findPart g' q.d q.p = some { q with started := true, bank := some b, tile := 0, scaleA := sa, scaleB := sb } ∧
      (getBank g' b).phase = .filling ∧ (getBank g' b).owner = some (q.d, q.p) ∧ (getBank g' b).ctx = x.ctx ∧
      (getBank g' b).block = q.block ∧ (getBank g' b).drop = false ∧
      (getBank g' b).cells = (if bankModeOf x = 1 ∧ (mmOf x.bytes).clear = false ∧ (getBank g b).phase = .held then
        (getBank g b).cells else []) ∧
      getBank g' (1 - b) = getBank g (1 - b) ∧ (∀ k, k ≠ e.val → getEngine t.dev k = getEngine s.dev k) ∧
      t.dev.rings = s.dev.rings ∧ t.dev.ctxs = s.dev.ctxs) ∧
  (∀ (e : Fin 128) (q : EngPart) (x : Desc) (b : Nat) (j : Job) (blk : Blk) (k : Bank) (w : Work) (s : State),
    Memory.wf s = true → tabWf {} s.dev.engines = true → w.wiped = .none → s.dev.power.lost = .none →
    w.dev.power = s.dev.power → b < 2 →
    let g := getEngine s.dev e.val
    let st := g.shadow
    st.loaded = true → findPart g st.d st.p = some q → getDesc s.dev st.d = some x → q.bank = some b →
    g.current = some (st.d, st.p) → q.block = st.block → q.tile = st.tile → closeDue g 0 = false → closeDue g 1 = false →
    (passBody e.val b x q st true (getBank g b)).run (workOf s) = (.ok (some (j, blk, k)), w) →
    (q.second = false → w.stores = []) ∧
    (q.tile + 1 < j.tiles blk ∨ bankModeOf x ≠ 1 →
    ∃ t, exec (.shadowExchange e) s = .next t ∧ StoredBy s t w.stores ∧
      let g' := getEngine t.dev e.val
      g'.active = st ∧ g'.shadow = {} ∧ g'.current = g.current ∧ getBank g' b = k ∧ getBank g' (1 - b) = getBank g (1 - b) ∧
      findPart g' st.d st.p = some (went x b (j.tiles blk) q) ∧
      (∀ i, i ≠ e.val → getEngine t.dev i = getEngine s.dev i) ∧ t.dev.rings = s.dev.rings ∧ t.dev.ctxs = s.dev.ctxs) ∧
    (∀ r, j.tiles blk ≤ q.tile + 1 → bankModeOf x = 1 → isPair x = false → q.second = false → x.parts[st.p]? = some r →
    ∃ t r', exec (.shadowExchange e) s = .next t ∧ StoredBy s t [] ∧
      let g' := getEngine t.dev e.val
      g'.active = st ∧ g'.shadow = {} ∧ g'.current = none ∧
      getBank g' b = (if k.drop = true then { order := k.order } else { k with phase := .held }) ∧
      getBank g' (1 - b) = getBank g (1 - b) ∧ g'.queue = g.queue.filter (fun y => !(y.d = st.d && y.p = st.p)) ∧
      getDesc t.dev st.d = some { x with parts := x.parts.set st.p r' } ∧ r'.state = .ended ∧ r'.status = stSuccess ∧
      r'.flags = Flags.join r.flags w.flags ∧
      (∀ i, i ≠ e.val → getEngine t.dev i = getEngine s.dev i) ∧ t.dev.rings = s.dev.rings ∧ t.dev.ctxs = s.dev.ctxs)) ∧
  (∀ (e : Fin 128) (q : EngPart) (x : Desc) (b : Nat) (j : Job) (blk : Blk) (k : Bank) (w : Work) (s : State),
    Memory.wf s = true → tabWf {} s.dev.engines = true → w.wiped = .none → s.dev.power.lost = .none →
    w.dev.power = s.dev.power → b < 2 →
    let g := getEngine s.dev e.val
    pickPart s.dev e.val g = some q → findPart g q.d q.p = some q → getDesc s.dev q.d = some x → q.bank = some b →
    q.started = true → q.second = true → holdsTile g.active q = true →
    (passBody e.val b x q g.active false (getBank g b)).run
      (onDev (modEngine e.val (fun g => { g with current := some (q.d, q.p) })) (workOf s)) = (.ok (some (j, blk, k)), w) →
    (q.tile + 1 < j.tiles blk ∨ bankModeOf x ≠ 1) →
    ∃ t, exec (.passBoundary e) s = .next t ∧ StoredBy s t w.stores ∧
      let g' := getEngine t.dev e.val
      g'.active = g.active ∧ g'.shadow = {} ∧ g'.current = some (q.d, q.p) ∧ getBank g' b = k ∧
      getBank g' (1 - b) = getBank g (1 - b) ∧ findPart g' q.d q.p = some (went x b (j.tiles blk) q) ∧
      (∀ i, i ≠ e.val → getEngine t.dev i = getEngine s.dev i) ∧ t.dev.rings = s.dev.rings ∧ t.dev.ctxs = s.dev.ctxs)) ∧
  (∀ (e : Fin 128) (b : Fin 2) (d p : Nat) (q : EngPart) (x : Desc) (s : State), tabWf {} s.dev.engines = true →
    let g := getEngine s.dev e.val
    let k := getBank g b.val
    k.phase = .filling → k.owner = some (d, p) → findPart g d p = some q → getDesc s.dev d = some x → k.block < q.block →
    closesLater g b.val = false →
    ∃ t, exec (.bankClose e b) s = .next t ∧ t = { s with dev := { s.dev with engines := t.dev.engines } } ∧
      let g' := getEngine t.dev e.val
      getBank g' b.val = { k with phase := .closed, order := g.closes } ∧ getBank g' (1 - b.val) = getBank g (1 - b.val) ∧
      g'.closes = g.closes + 1 ∧
      g'.queue = (if blockCount x p ≤ k.block + 1 then g.queue.filter (fun r => !(r.d = d && r.p = p)) else g.queue) ∧
      (∀ i, i ≠ e.val → getEngine t.dev i = getEngine s.dev i)) ∧
  (∀ (e : Fin 128) (b : Fin 2) (s : State),
    let g := getEngine s.dev e.val
    let k := getBank g b.val
    let o := getBank g (1 - b.val)
    k.phase = .closed → o.phase ≠ .draining → ¬(o.phase = .closed ∧ o.order < k.order) →
    let g' : Engine := setBank b.val { k with phase := .draining } g
    exec (.treeEmpty e b) s = .next { s with dev := { s.dev with engines := tabPut {} s.dev.engines e.val g' } }) ∧
  (∀ (e : Fin 128) (b : Fin 2) (d p : Nat) (x : Desc) (q : Part) (w : Work) (s : State), Memory.wf s = true →
    tabWf {} s.dev.engines = true → w.wiped = .none → s.dev.power.lost = .none → w.dev.power = s.dev.power →
    let g := getEngine s.dev e.val
    let k := getBank g b.val
    k.phase = .draining → k.owner = some (d, p) → getDesc s.dev d = some x → x.parts[p]? = some q →
    (drainBody e.val b.val x p k).run (workOf s) = (.ok (), w) →
    ∃ t q', exec (.drainComplete e b) s = .next t ∧ StoredBy s t w.stores ∧
      getBank (getEngine t.dev e.val) b.val = { order := k.order } ∧
      getBank (getEngine t.dev e.val) (1 - b.val) = getBank g (1 - b.val) ∧
      (∀ i, i ≠ e.val → getEngine t.dev i = getEngine s.dev i) ∧
      getDesc t.dev d = some { x with parts := x.parts.set p q' } ∧ q'.progress = q.progress + 1 ∧
      (q.progress + 1 < blockCount x p → q'.state = q.state ∧ q'.status = q.status) ∧
      (blockCount x p ≤ q.progress + 1 → q'.state = .ended ∧ q'.status = stSuccess) ∧
      (∀ i, i ≠ d → getDesc t.dev i = getDesc s.dev i) ∧ t.dev.rings = s.dev.rings ∧ t.dev.ctxs = s.dev.ctxs) ∧
  (∀ (d : Nat) (x : Desc) (s : State), tabWf {} s.dev.engines = true → getDesc s.dev d = some x → x.cls = 3 → onEngine x = true →
    x.promoted = false → fieldOf x 64 8 ≤ (s.dev.pace.time - x.time).toNat →
    ∃ t, exec (.gatherPromote d) s = .next t ∧ getDesc t.dev d = some { x with promoted := true } ∧
      (∀ i, i ≠ d → getDesc t.dev i = getDesc s.dev i) ∧
      (∀ e, getEngine t.dev e = { getEngine s.dev e with
        queue := (getEngine s.dev e).queue.filter (fun q => q.d ≠ d) ++ (getEngine s.dev e).queue.filter (fun q => q.d = d) }) ∧
      t = { s with dev := { s.dev with descs := t.dev.descs, engines := t.dev.engines } })

/-! ### Kernels -/

/-- KERNEL and KERNEL_PART_START, with room in the core's stream table, start the parts of a kernel on a cluster together,
each on its chisel core at ENTRY with ARG, the cluster and the core's number in its registers; a kernel's time limit stops
every chisel core that still runs a part of it; and a chisel core's instruction that traps ends its part and frees the
core, while one that has to wait, for the fetch of its word or for what it does, changes nothing and is fetched again
(R26, R129 to R134, R240). Where the model chose: log 59. -/
def Obligations.KernelsStartAndStop : Prop :=
  (∀ (d : Nat) (x : Desc) (s : State), tabWf {} s.dev.chisels = true → getDesc s.dev d = some x →
    (∀ p k, partChisel x p = partChisel x k → p < x.parts.length → k < x.parts.length → p = k) →
    let started (c : Nat) (t : State) : Prop := ∀ p ∈ clusterParts x c, (x.parts.getD p {}).state = .queued ∧
      getChisel t.dev (partChisel x p) = chiselStart x p (partChisel x p) ∧
      ∃ y q, getDesc t.dev d = some y ∧ y.parts[p]? = some q ∧ q.state = .running
    (∀ c : Fin 32, kernelReady s.dev x c.val = true → isFenced s.dev c.val = false →
      stabLacks s.dev x (clusterParts x c.val) = none →
      ∃ t, exec (.kernelPartStart d c) s = .next t ∧ started c.val t ∧
        (∀ i, (∀ p ∈ clusterParts x c.val, partChisel x p ≠ i) → getChisel t.dev i = getChisel s.dev i) ∧
        (∀ e, e ≠ d → getDesc t.dev e = getDesc s.dev e) ∧
        t = { s with dev := { s.dev with
          chisels := t.dev.chisels, descs := t.dev.descs, trc := t.dev.trc, ctr := t.dev.ctr, stab := t.dev.stab
          stabWaits := t.dev.stabWaits, ue := t.dev.ue } }) ∧
    ((∀ c < 32, clusterParts x c ≠ [] → kernelReady s.dev x c = true ∧ isFenced s.dev c = false ∧
        stabLacks s.dev x (clusterParts x c) = none) →
      ∃ t, exec (.kernel d) s = .next t ∧ (∀ c < 32, started c t) ∧ (∀ e, e ≠ d → getDesc t.dev e = getDesc s.dev e) ∧
        t = { s with dev := { s.dev with
          chisels := t.dev.chisels, descs := t.dev.descs, trc := t.dev.trc, ctr := t.dev.ctr, stab := t.dev.stab
          stabWaits := t.dev.stabWaits, ue := t.dev.ue } })) ∧
  (∀ (x : Desc) (p i : Nat), (chiselStart x p i).pc = BitVec.ofNat 64 (fieldOf x 16 8) ∧
    xreg (chiselStart x p i) 10 = BitVec.ofNat 64 (fieldOf x 24 8) ∧ xreg (chiselStart x p i) 11 = BitVec.ofNat 64 (i / 8) ∧
    xreg (chiselStart x p i) 12 = BitVec.ofNat 64 (i % 8) ∧
    (∀ r, r ≠ 10 → r ≠ 11 → r ≠ 12 → xreg (chiselStart x p i) r = 0)) ∧
  (∀ (d : Nat) (x : Desc) (u : W64) (s : State), tabWf {} s.dev.chisels = true → getDesc s.dev d = some x → isKernel x = true →
    fieldOf x 32 8 ≠ 0 → x.startedAt = some u → fieldOf x 32 8 ≤ (s.dev.pace.time - u).toNat →
    ∃ t, exec (.kernelTimeout d) s = .next t ∧ t.mem = s.mem ∧ t.host = s.host ∧
      (∀ i < 256, (getChisel s.dev i).run ≠ .idle → (getChisel s.dev i).d = d → (getChisel t.dev i).run = .idle)) ∧
  (∀ (i : Fin 256) (h : Chisel) (x : Desc) (a : W64) (w : Work) (s : State), chiselOn s.dev i.val = some (h, x) →
    tabWf {} s.dev.chisels = true → h.handles = List.replicate 16 {} → h.p < x.parts.length → Memory.wf s = true →
    (fetchInstr i.val x.ctx).run (workOf s) = (.error (.fail stKernelFault a), w) →
    ∃ t y q, exec (.chiselInstruction i) s = .next t ∧ (getChisel t.dev i.val).run = .idle ∧
      getDesc t.dev h.d = some y ∧ y.parts[h.p]? = some q ∧ q.state = .ended ∧ q.status = stKernelFault ∧ q.progress = 1 ∧
      (∀ e, e ≠ h.d → getDesc t.dev e = getDesc s.dev e) ∧ t.mem = s.mem ∧ t.host = s.host) ∧
  (∀ (i : Fin 256) (h : Chisel) (x : Desc) (w : Work) (s : State), Memory.wf s = true → chiselOn s.dev i.val = some (h, x) →
    ((fetchInstr i.val x.ctx).run (workOf s) = (.error .wait, w) → exec (.chiselInstruction i) s = .next s) ∧
    (∀ word len w', (fetchInstr i.val x.ctx).run (workOf s) = (.ok (word, len), w) → customOf word = none →
      isEcall word = false → (execute i.val x h word len).run w = (.error .wait, w') →
      exec (.chiselInstruction i) s = .next s))

/-- A chisel core that fetches an instruction word runs it: an ordinary one writes its register and goes on to the next pc
with INSTRET counted; DLAUNCH, in a running context with room in the core's stream table, stages its sub-descriptor under
the lowest free handle, and answers all ones with no handle free, waits while one of sixteen runs, and waits, counted
once, where the table has no room; DWAIT and DPOLL answer a complete handle's word and free it, an unused one MALFORMED,
and for a running one wait or answer 0; CBAR holds the core until every running core of its kernel on the cluster has
come, and then all go on; ECALL ends the part with SUCCESS or KERNEL_ERROR by a0; and a sub-descriptor that completes
reaches its handle (R124, R132, R135 to R139, R240, R462). A sub-descriptor that does not begin at a multiple of 64 bytes,
of which R136 says only that it must, takes its handle and ends MALFORMED (DESIGN CHOICE, log 109). Where the model chose:
log 57, 58, 109. -/
def Obligations.ChiselCoresRunInstructions : Prop :=
  (∀ (i : Fin 256) (h : Chisel) (x : Desc) (word len : Nat) (w : Work) (s : State), tabWf {} s.dev.chisels = true →
    Memory.wf s = true → chiselOn s.dev i.val = some (h, x) → (fetchInstr i.val x.ctx).run (workOf s) = (.ok (word, len), w) →
    let own (t : State) : Chisel := getChisel t.dev i.val
    let retires (c : Instr) (v : W64) (hs : List Handle) : Prop := ∃ t, exec c s = .next t ∧
      (own t).pc = h.pc + 4 ∧ (own t).instret = h.instret + 1 ∧ (own t).regs = (setX (iRd word) v h).regs ∧
      (own t).handles = hs ∧ (own t).run = .running ∧ (∀ k, k ≠ i.val → getChisel t.dev k = getChisel s.dev k) ∧
      t.mem = s.mem ∧ t.host = s.host ∧ t.dev.rings = s.dev.rings ∧ t.dev.ctxs = s.dev.ctxs
    let a := xreg h (iRs1 word)
    (customOf word = none → isEcall word = false → ∀ (r : Retire) (w' : Work), (execute i.val x h word len).run w = (.ok r, w') →
      w'.wiped = .none → s.dev.power.lost = .none → w'.dev.power = s.dev.power → ∃ t, exec (.chiselInstruction i) s = .next t ∧ StoredBy s t w'.stores ∧ (own t).pc = r.pc ∧
        (own t).instret = (getChisel w'.dev i.val).instret + 1 ∧
        (own t).regs = (setX r.rd r.val (getChisel w'.dev i.val)).regs ∧ (own t).run = (getChisel w'.dev i.val).run ∧
        t.dev.descs = w'.dev.descs ∧ t.dev.rings = w'.dev.rings) ∧
    (customOf word = some 0 →
      (h.handles.findIdx? (fun k => k.desc.isNone) = none →
        (h.handles.any (fun k => k.word.isNone) = true → exec (.dlaunch i) s = .next s) ∧
        (h.handles.any (fun k => k.word.isNone) = false → retires (.dlaunch i) (BitVec.allOnes 64) h.handles)) ∧
      (∀ hd, h.handles.findIdx? (fun k => k.desc.isNone) = some hd → stabFree w.dev (i.val / 8) = none →
        ∃ t, exec (.dlaunch i) s = .next t ∧ own t = getChisel w.dev i.val ∧ t.dev.descs = w.dev.descs ∧
          t.dev.stabWaits = (if StabIssuer.launch i.val ∈ w.dev.stabWaits then w.dev.stabWaits
            else w.dev.stabWaits ++ [.launch i.val]) ∧
          (StabIssuer.launch i.val ∉ w.dev.stabWaits → t.dev.ctr = (ctrAdd (0x100 + i.val / 8) 4 1 w.dev).ctr) ∧
          t.mem = s.mem ∧ t.host = s.host) ∧
      (∀ hd, h.handles.findIdx? (fun k => k.desc.isNone) = some hd → a.toNat % 64 ≠ 0 →
        (getCtx s.dev x.ctx).state = 1 → stabFree w.dev (i.val / 8) ≠ none →
        retires (.dlaunch i) (BitVec.ofNat 64 hd) (h.handles.set hd { desc := some s.dev.nextDesc }) ∧
        ∃ t y, exec (.dlaunch i) s = .next t ∧ t.dev.descs = s.dev.descs ++ [y] ∧ y.id = s.dev.nextDesc ∧
          y.sub = some (i.val, hd) ∧ y.parent = some (h.d, h.p) ∧ y.parts = [{ state := .ended, status := stMalformed }]) ∧
      (∀ hd k bs w1 w2 w3, h.handles.findIdx? (fun k => k.desc.isNone) = some hd → a.toNat % 64 = 0 →
        (getCtx s.dev x.ctx).state = 1 → stabFree w.dev (i.val / 8) ≠ none →
        (atomicTarget i.val x.ctx a false).run w = (.ok (k, true), w1) → (subBytes i.val x.ctx a).run w1 = (.ok bs, w2) →
        (subEnter i.val h x hd bs true).run w2 = (.ok (), w3) → (getCtx w3.dev x.ctx).state = 1 →
        retires (.dlaunch i) (BitVec.ofNat 64 hd) (h.handles.set hd { desc := some s.dev.nextDesc }) ∧
        ∃ t y, exec (.dlaunch i) s = .next t ∧ t.dev.descs = s.dev.descs ++ [y] ∧ y.id = s.dev.nextDesc ∧
          y.sub = some (i.val, hd) ∧ y.parent = some (h.d, h.p) ∧ y.ctx = x.ctx)) ∧
    (∀ n c, (n, c) ∈ [(1, Instr.dwait i), (2, Instr.dpoll i)] → customOf word = some n →
      (handleOf h a = none → retires c (statusWord stMalformed {}) h.handles) ∧
      (∀ k v, handleOf h a = some k → k.word = some v → retires c v (h.handles.set a.toNat {})) ∧
      (∀ k, handleOf h a = some k → k.word = none →
        (n = 1 → exec c s = .next s) ∧ (n = 2 → retires c 0 h.handles))) ∧
    (customOf word = some 3 →
      ((∃ k ∈ kernelCores s.dev h.d (i.val / 8), k ≠ i.val ∧ (getChisel s.dev k).run ≠ .atCbar) →
        ∃ t, exec (.cbar i) s = .next t ∧ (own t).run = .atCbar ∧ (own t).barrierRd = iRd word ∧ (own t).pc = h.pc ∧
          (∀ k, k ≠ i.val → getChisel t.dev k = getChisel s.dev k) ∧ t.mem = s.mem) ∧
      ((∀ k ∈ kernelCores s.dev h.d (i.val / 8), k ≠ i.val → (getChisel s.dev k).run = .atCbar) →
        ∃ t, exec (.cbar i) s = .next t ∧ (∀ k ∈ kernelCores s.dev h.d (i.val / 8),
          (getChisel t.dev k).run = .running ∧ (getChisel t.dev k).pc = (getChisel s.dev k).pc + 4 ∧
          (getChisel t.dev k).instret = (getChisel s.dev k).instret + 1) ∧ t.mem = s.mem)) ∧
    (isEcall word = true → h.p < x.parts.length →
      (h.handles.any (fun k => k.desc.isSome && k.word.isNone) = true → exec (.ecall i) s = .next s) ∧
      (h.handles = List.replicate 16 {} → ∃ t y q, exec (.ecall i) s = .next t ∧ (own t).run = .idle ∧
        getDesc t.dev h.d = some y ∧ y.parts[h.p]? = some q ∧ q.state = .ended ∧ q.exitCode = (xreg h 10).setWidth 16 ∧
        q.status = (if xreg h 10 = 0 then stSuccess else stKernelError) ∧
        (∀ e, e ≠ h.d → getDesc t.dev e = getDesc s.dev e) ∧ t.mem = s.mem))) ∧
  (∀ (d i hd e p : Nat) (x : Desc) (w : Work) (s : State), tabWf {} s.dev.chisels = true → Memory.wf s = true →
    getDesc s.dev d = some x → x.sub = some (i, hd) → x.parent = some (e, p) → allDone x = true → hd < 16 →
    (getChisel s.dev i).handles.length = 16 → (getChisel s.dev i).run ≠ .idle →
    ((getChisel s.dev i).handles.getD hd {}).desc = some d →
    (completeEffects x).run (workOf s) = (.ok (), w) → w.wiped = .none → s.dev.power.lost = .none →
    w.dev.power = s.dev.power → ∃ t, exec (.subDescriptorComplete d) s = .next t ∧ StoredBy s t w.stores ∧ getDesc t.dev d = none ∧
      (getChisel t.dev i).handles.getD hd {} =
        { desc := some d, word := some (statusWord (overallStatus x) (overallFlags x))
          addr := BitVec.ofNat 64 (faultAddrOf x) } ∧
      (∀ k, k ≠ i → (getChisel t.dev k).run = (getChisel s.dev k).run ∧ (getChisel t.dev k).handles = (getChisel s.dev k).handles))

/-! ### Curvature, roots, copies, castmarks, checks and tests -/

/-- FOLD and NORM run the part they name where it is ready; ROOT, APPLY and SOLVE theirs where it is ready and no engine
it uses is under TEST or promised to one; a local COPY and a CASTMARK of either operation theirs where it may start;
FINGERPRINT, POINT and LOSSCMP theirs where it may start on a cluster that is not under TEST or promised to one. A part
that finds no room in its core's stream table waits, counted once, and one on a fenced core ends with FENCED. A peer COPY
sends its request and leaves its part running until it is answered. Of each command, a part that is not ready is left as
it is (R169, R173, R184, R192, R200, R240, R366, R367, R402, R430, R432, R435, R454). Where the model chose: log 20, 21,
55, 56, 66, 68. -/
def Obligations.PartCommandsRunTheirPart : Prop :=
  (∀ (d p : Nat) (x : Desc) (q : Part) (s : State), Memory.wf s = true →
    (ready s.dev d p 3 = some (x, q) → statOp x.bytes = 1 → PartTurn (.fold d p) d p (foldBody x q p) s) ∧
    (ready s.dev d p 3 = some (x, q) → statOp x.bytes = 2 → PartTurn (.norm d p) d p (normBody x q p) s) ∧
    (ready s.dev d p 4 = some (x, q) → enginesHeld s.dev x q p = false → (rtOf x.bytes).op = 0 →
      PartTurn (.root d p) d p (rootBody false x q p) s) ∧
    (ready s.dev d p 4 = some (x, q) → enginesHeld s.dev x q p = false → (rtOf x.bytes).op = 1 →
      PartTurn (.apply d p) d p (applyBody x q p) s) ∧
    (ready s.dev d p 5 = some (x, q) → enginesHeld s.dev x q p = false → (rtOf x.bytes).op = 0 →
      PartTurn (.solve d p) d p (rootBody true x q p) s) ∧
    (startable s.dev d p 7 = some (x, q) → copyDir x.bytes = 0 → (copySpan x p).2 ≠ 0 →
      PartTurn (.copy d p) d p (copyLocal x q p) s) ∧
    (startable s.dev d p 12 = some (x, q) → underTest s.dev 3 q.unit = false → testBefore s.dev x 3 q.unit = false →
      (checkOp x.bytes = 0 → PartTurn (.fingerprint d p) d p (printBody x q p) s) ∧
      (checkOp x.bytes = 1 → p = 0 → PartTurn (.point d) d 0 (pointBody x) s) ∧
      (checkOp x.bytes = 2 → p = 0 → PartTurn (.losscmp d) d 0 (lossBody x) s)) ∧
    (startable s.dev d 0 11 = some (x, q) → p = 0 →
      ((castOf x.bytes).close = false → PartTurn (.castmarkRecord d) d 0 (castBody x) s) ∧
      ((castOf x.bytes).close = true → PartTurn (.castmarkClose d) d 0 (castBody x) s))) ∧
  (∀ (d p : Nat) (x : Desc) (q : Part) (w : Work) (s : State), startable s.dev d p 7 = some (x, q) → copyDir x.bytes ≠ 0 →
    (copySpan x p).2 ≠ 0 → copyGroupOk s.dev x.ctx x.bytes = true → onFenced s.dev d p = false → stabBlocked s.dev d p = none →
    (copyAsk x q p).run (workOf s) = (.ok (), w) →
    ∃ t, exec (.copy d p) s = .next t ∧ getDesc t.dev d = some { x with parts := x.parts.set p { q with state := .running } } ∧
      (∀ e, e ≠ d → getDesc t.dev e = getDesc s.dev e) ∧ t.dev.out = w.dev.out ∧ t.dev.fab = w.dev.fab ∧
      t.mem = s.mem ∧ t.host = s.host ∧ t.dev.rings = s.dev.rings ∧ t.dev.ctxs = s.dev.ctxs) ∧
  (∀ (d p : Nat) (s : State),
    (ready s.dev d p 3 = none → exec (.fold d p) s = .next s ∧ exec (.norm d p) s = .next s) ∧
    ((∀ x q, ready s.dev d p 4 = some (x, q) → enginesHeld s.dev x q p = true) →
      exec (.root d p) s = .next s ∧ exec (.apply d p) s = .next s) ∧
    ((∀ x q, ready s.dev d p 5 = some (x, q) → enginesHeld s.dev x q p = true) → exec (.solve d p) s = .next s) ∧
    (startable s.dev d p 7 = none → exec (.copy d p) s = .next s) ∧
    ((∀ x q, startable s.dev d p 12 = some (x, q) → (underTest s.dev 3 q.unit || testBefore s.dev x 3 q.unit) = true) →
      exec (.fingerprint d p) s = .next s ∧ (p = 0 → exec (.point d) s = .next s ∧ exec (.losscmp d) s = .next s)) ∧
    (startable s.dev d 0 11 = none → exec (.castmarkRecord d) s = .next s ∧ exec (.castmarkClose d) s = .next s))

/-- TEST of an engine, a bank, a tidy cluster, a channel or a port that is idle and whose turn has come writes its record,
raises TEST_DONE and ends its part, in one command or by a beginning that holds the unit and an end; a channel fails also
where a granule of it is uncorrectable, and a failure with FENCE fences the unit's core or declares its stack faulty. TEST
of the sensors calibrates them and the pace monitors first. TEST of the device, while it is quiescent or parked, writes
every word of device memory with zero beside its record; and ends with BUSY where it is not quiescent. A test that a
watchdog restart ends writes its record with RESULT ENDED, ends with ABORTED and takes its context through the failure
path (R452 to R458; phases: DESIGN CHOICE, log 69). Where the model chose: log 69. -/
def Obligations.TestsRecordAndFence : Prop :=
  (∀ k ∈ ([(1, .testEngine), (2, .testCstoreBank), (3, .testTidy), (4, .testDramChannel), (5, .testPort)] :
      List (Nat × (TestOf → Bool → W32 → Instr))),
    ∀ (d : Nat) (fail : Bool) (detail : W32) (x : Desc) (s : State), Memory.wf s = true → s.dev.power.lost = .none →
      let bad := fail || (k.1 = 4 && channelBad s.dev (testUnit x.bytes))
      let fences := bad = true ∧ natBit (leAt x.bytes 17 1) 0 = true
      (testReady s.dev k.1 d = true → onFenced s.dev d 0 = false → stabBlocked s.dev d 0 = none →
        getDesc (startPart d 0 s.dev) d = some x →
        exec (k.2 ⟨d, .begin_⟩ fail detail) s = .next { s with dev := startPart d 0 s.dev } ∧
        (¬ fences → RunsPart (k.2 ⟨d, .whole⟩ fail detail) d 0 (testReport x (b2n bad) detail.toNat) s) ∧
        (fences → ∀ w, (testReport x 1 detail.toNat).run (onDev (startPart d 0) (workOf s)) = (.ok (), w) → w.wiped = .none →
          w.dev.power = s.dev.power → ∃ t, exec (k.2 ⟨d, .whole⟩ fail detail) s = .next t ∧ StoredBy s t w.stores ∧
            (∀ c, testCore k.1 (testUnit x.bytes) = some c → c < 32 → t.dev.fenced.getLsbD c = true) ∧
            (k.1 = 4 → testUnit x.bytes < 640 →
              t.dev.stackFault.getLsbD (testUnit x.bytes / 32) = true ∧ t.dev.retired = true))) ∧
      (testRuns s.dev k.1 d = true → getDesc s.dev d = some x → ¬ fences →
        ∀ w, (testReport x (b2n bad) detail.toNat).run (workOf s) = (.ok (), w) → w.wiped = .none → w.dev.power = s.dev.power →
        ∃ t, exec (k.2 ⟨d, .finish⟩ fail detail) s = .next t ∧ StoredBy s t w.stores ∧ PartEnded w.dev t.dev d 0 stSuccess w.flags)) ∧
  (∀ (d : Nat) (failed : BitVec 38) (detail : W32) (x : Desc) (w : Work) (s : State), Memory.wf s = true →
    testReady s.dev 6 d = true → getDesc (startPart d 0 s.dev) d = some x → w.wiped = .none → s.dev.power.lost = .none →
    w.dev.power = s.dev.power →
    (testReport x (b2n (decide (failed ≠ 0))) detail.toNat).run
      (onDev (sensorsNow failed) (onDev (startPart d 0) (workOf s))) = (.ok (), w) →
    ∃ t, exec (.testSensors ⟨d, .whole⟩ failed detail) s = .next t ∧ StoredBy s t w.stores ∧
      PartEnded w.dev t.dev d 0 stSuccess w.flags ∧ t.dev.sns.failed = s.dev.sns.failed ||| failed ∧
      t.dev.pace.calibrations = s.dev.pace.calibrations + 1) ∧
  (∀ (d : Nat) (cores : W32) (stks : BitVec 20) (x : Desc) (q : Part) (s : State), Memory.wf s = true →
    getDesc s.dev d = some x → x.cls = 0xD → testKind x.bytes = 0x0F → (getCtx s.dev x.ctx).state = 1 →
    fencesPassed s.dev x = true → x.parts[0]? = some q → q.state = .queued →
    ((s.dev.pace.parkState = 2 ∨ s.dev.pace.parkState = 0 ∧ quiescent (some d) s.dev = true) → x.ctx = 0 →
      ∀ w, (deviceBody x cores stks).run (onDev deviceOpen (onDev (startPart d 0) (workOf s))) = (.ok (), w) → ∃ t,
        exec (.testDevice ⟨d, .whole⟩ cores stks) s = .next t ∧
        (∀ a, memLost t.dev.power.lost a = false → memByte t a = (storeAt .dev a w.stores).getD 0) ∧ t.dev.ue = [] ∧
        t.dev.arm.postCores = cores ∧ t.dev.arm.postStacks = stks ∧
        (∀ c < 32, cores.getLsbD c = true → t.dev.fenced.getLsbD c = true)) ∧
    (s.dev.pace.parkState = 0 → ¬(x.ctx = 0 ∧ quiescent (some d) s.dev = true) →
      ∃ t, exec (.testDevice ⟨d, .whole⟩ cores stks) s = .next t ∧ PartEnded (startPart d 0 s.dev) t.dev d 0 stBusy {} ∧
        t.mem = s.mem ∧ t.host = s.host)) ∧
  (∀ (x : Desc) (q : Part) (w : Work) (s : State), Memory.wf s = true → tabWf {} s.dev.ctxs = true →
    s.dev.arm.wdtArmed = true → (∀ c ∈ s.dev.groups, c.2.enable = false) → s.dev.descs = [x] → x.cls = 0xD → x.parts = [q] →
    q.state = .running → (getCtx s.dev x.ctx).state = 1 → (testReport x 2 0).run (workOf s) = (.ok (), w) → w.wiped = .none →
    s.dev.power.lost = .none → w.dev.power = s.dev.power →
    ∃ t y q', exec .watchdogExpiry s = .next t ∧ StoredBy s t w.stores ∧ getDesc t.dev x.id = some y ∧
      y.parts[0]? = some q' ∧ q'.state = .ended ∧ q'.status = stAborted ∧ (getCtx t.dev x.ctx).state = 2)

/-! ### Collectives -/

/-- ALLREDUCE, REDUCESCATTER, ALLGATHER, BROADCAST and PERMUTE, under way with the headers that have come agreeing, end
every part that has not failed with SUCCESS in the step in which the last bytes and acknowledgements they need are here,
and till then leave their parts as they are. A header frame is acknowledged, and it and a credit of another rank are kept
for their sequence; a mismatch notice ends the running collective it names with MALFORMED, or is kept until it starts; and
TIMEOUT ends the unfinished parts with REMOTE_FAILURE, those with nothing left to exchange with SUCCESS. The sum of a
reduction is the fixed tree of R354, and a gathered FP32 or INT32 contribution is written as it came (R335, R349, R352,
R353, R354, R359, R364). Where the model chose: log 55, 60, 61, 62. -/
def Obligations.CollectivesMeetAndEnd : Prop :=
  (∀ k ∈ ([(0, .allreduce), (1, .reducescatter), (2, .allgather), (3, .broadcast), (4, .permute)] : List (Nat × (Nat → Instr))),
    ∀ (d : Nat) (x : Desc) (c : CollRun) (w : Work) (s : State), Memory.wf s = true → getDesc s.dev d = some x → x.cls = 6 →
      (collOf x.bytes).op = k.1 → x.coll = some c → c.stage ≠ 0 → x.parts.any (fun p => p.state = .running) = true →
      let w2 := collCheck x (workOf s)
      getDesc w2.dev d = some x → w2.stores = [] → w2.dest = [] → w2.snooped = [] → w2.flags = {} → w.wiped = .none →
      s.dev.power.lost = .none → w.dev.power = s.dev.power →
      ((collGo x c).run w2 = (.ok true, w) → ∃ t, exec (k.2 d) s = .next t ∧ StoredBy s t w.stores ∧
        (∀ (y : Desc) (p : Nat) (q : Part), getDesc w.dev d = some y → y.parts[p]? = some q →
          (q.state = .queued ∨ q.state = .running) →
          ∃ y' q', getDesc t.dev d = some y' ∧ y'.parts[p]? = some q' ∧ q'.state = .ended ∧ q'.status = stSuccess) ∧
        (∀ e, e ≠ d → getDesc t.dev e = getDesc w.dev e) ∧ t.dev.rings = w.dev.rings ∧ t.dev.ctxs = w.dev.ctxs ∧
        t.dev.out = w.dev.out) ∧
      ((collGo x c).run w2 = (.ok false, w) → ∃ t, exec (k.2 d) s = .next t ∧ StoredBy s t w.stores ∧
        t.dev.descs = w.dev.descs ∧ t.dev.groups = w.dev.groups ∧ t.dev.rings = w.dev.rings ∧ t.dev.out = w.dev.out)) ∧
  (∀ (p : Fin 24) (src : BitVec 10) (msg frame : Nat) (g : Byte) (rank : Nat) (h : CollHeader) (s : State),
    portUp (getPort s.dev p.val) = true → groupLive s.dev g.toNat = true →
    (getGroup s.dev g.toNat).kind = (getPort s.dev p.val).sideLink → s.dev.fab.seen.contains (src.toNat, msg, frame) = false →
    (otherRanks (getGroup s.dev g.toNat)).contains rank = true → seqOpen s.dev g.toNat h.seq = true →
    (∀ y ∈ (getGroup s.dev g.toNat).headers, ¬(y.1 = rank ∧ y.2.seq = h.seq)) → collFind s.dev g.toNat h.seq = none →
    ∃ t, exec (.collHeaderFrame ⟨p, src, msg, frame⟩ g rank h) s = .next t ∧ t.mem = s.mem ∧ t.host = s.host ∧
      t.dev.groups = tabPut {} s.dev.groups g.toNat
        { getGroup s.dev g.toNat with headers := (getGroup s.dev g.toNat).headers ++ [(rank, h)] } ∧
      t.dev.descs = s.dev.descs ∧ t.dev.rings = s.dev.rings ∧ t.dev.ctxs = s.dev.ctxs ∧
      t.dev.fab.seen.contains (src.toNat, msg, frame) = true ∧
      Out.frame p.val s.dev.fab.nodeId src msg frame (.ack msg frame) ∈ t.dev.out) ∧
  (∀ (g : Byte) (rank seq : Nat) (s : State), groupLive s.dev g.toNat = true →
    (otherRanks (getGroup s.dev g.toNat)).contains rank = true → seqOpen s.dev g.toNat seq = true →
    (∀ seg, (getGroup s.dev g.toNat).credits.contains (rank, seq, seg) = false →
      let g' : Group := { getGroup s.dev g.toNat with credits := (getGroup s.dev g.toNat).credits ++ [(rank, seq, seg)] }
      exec (.creditGrant g rank ⟨seq, seg⟩) s = .next { s with dev := { s.dev with groups := tabPut {} s.dev.groups g.toNat g' } }) ∧
    (collFind s.dev g.toNat seq = none →
      let g' : Group := { getGroup s.dev g.toNat with mismatches := setAdd (getGroup s.dev g.toNat).mismatches seq }
      exec (.mismatchNotice g rank seq) s = .next { s with dev := { s.dev with groups := tabPut {} s.dev.groups g.toNat g' } }) ∧
    (∀ x, collFind s.dev g.toNat seq = some x → getDesc s.dev x.id = some x → x.parts.any (fun p => p.state = .running) = true →
      ∃ t, exec (.mismatchNotice g rank seq) s = .next t ∧ t.mem = s.mem ∧ t.host = s.host ∧ t.dev.rings = s.dev.rings ∧
        t.dev.ctxs = s.dev.ctxs ∧ (∀ e, e ≠ x.id → getDesc t.dev e = getDesc s.dev e) ∧
        (∀ (p : Nat) (q : Part), x.parts[p]? = some q → (q.state = .queued ∨ q.state = .running) →
          ∃ y q', getDesc t.dev x.id = some y ∧ y.parts[p]? = some q' ∧ q'.state = .ended ∧ q'.status = stMalformed))) ∧
  (∀ (d : Nat) (x : Desc) (s : State), getDesc s.dev d = some x → x.cls = 6 → (collOf x.bytes).timeout ≠ 0 →
    (collOf x.bytes).timeout ≤ (s.dev.pace.time - x.time).toNat →
    x.parts.any (fun p => p.state = .queued || p.state = .running) = true →
    ∃ t, exec (.collTimeout d) s = .next t ∧ t.dev.rings = s.dev.rings ∧ t.dev.ctxs = s.dev.ctxs ∧
      (∀ e, e ≠ d → getDesc t.dev e = getDesc s.dev e) ∧
      (∀ (p : Nat) (q : Part), x.parts[p]? = some q → (q.state = .queued ∨ q.state = .running) →
        ∃ y q', getDesc t.dev d = some y ∧ y.parts[p]? = some q' ∧ q'.state = .ended ∧
          q'.status = if x.coll.any (fun c => partDone s.dev x c p) then stSuccess else stRemote)) ∧
  (∀ a b c e f, foldAll [[a]] = [a] ∧ foldAll [[a], [b]] = [fadd a b] ∧ foldAll [[a], [b], [c]] = [fadd (fadd a b) c] ∧
    foldAll [[a], [b], [c], [e]] = [fadd (fadd a b) (fadd c e)] ∧
    foldAll [[a], [b], [c], [e], [f]] = [fadd (fadd (fadd a b) (fadd c e)) f]) ∧
  (∀ (o : Coll) (codes scales : List Byte), ccFmt o.cc = o.fmt → o.fmt ≠ 0x01 → widened o codes scales = (codes, fNone))

/-! ### The fabric -/

/-- PORT_ENABLE starts a port's training, out of park; LANES_TRAINED with a complete set of four lanes or all eight sends
this module's identity, and with fewer refuses the port with 6; IDENTITY_FRAME is acknowledged, counts as heard from its
sender, and admits the port or refuses it with the first reason that holds; and PORT_RETRAIN trains a port that has gone
down, and one whose training since has brought it no partner or too few lanes, again every 10,000,000 units (R335, R337,
R338, R346). At the side link's admission the twin is PRESENT (R368; that the admission says so: DEDUCED, log 75), and
with a new incarnation the frame numbers seen of its node are dropped (DEDUCED, log 24). Where the model chose: log 24,
75, 76. -/
def Obligations.PortsTrainAndAdmit : Prop :=
  (∀ (p : Fin 24) (w : HostWrite) (s : State), WriteLands s 0x50100 w.ide → tabWf {} s.dev.ports = true →
    (getPort s.dev p.val).enable = false → s.dev.pace.parkState = 0 → (s.dev.arm.cfgState ≠ 3 ∨ s.dev.arm.nodeIdWritten = true) →
    ∃ t, exec (.portEnable p w) s = .next t ∧ getPort t.dev p.val = { getPort s.dev p.val with
        sideLink := w.value.getLsbD 1, enable := true, state := 1, lanes := 0, refuse := 0, lastTrain := s.dev.pace.time, fell := false } ∧
      (∀ k, k ≠ p.val → getPort t.dev k = getPort s.dev k) ∧ t = { s with dev := { s.dev with ports := t.dev.ports } }) ∧
  (∀ (p : Fin 24) (low high : Bool) (s : State), (getPort s.dev p.val).enable = true → (getPort s.dev p.val).state = 1 →
    s.dev.arm.firmware = true →
    let id : Identity := {
      node := s.dev.fab.nodeId, incarn := s.dev.fab.incarn, straps := s.dev.power.straps, port := BitVec.ofNat 5 p.val
      sideLink := (getPort s.dev p.val).sideLink }
    ((low || high) = true → ∃ t, exec (.lanesTrained p low high) s = .next t ∧ t = { s with dev := { s.dev with
      ports := tabPut {} s.dev.ports p.val { getPort s.dev p.val with lanes := if low && high then 8 else 4 }
      fab := { s.dev.fab with nextMsg := s.dev.fab.nextMsg + 1, tx := s.dev.fab.tx ++ [{
        port := p.val, dest := 0, msg := s.dev.fab.nextMsg, frame := 0, body := .identity id, mask := 0, sends := 1
        sentAt := s.dev.pace.time }] }
      out := s.dev.out ++ [.frame p.val s.dev.fab.nodeId 0 s.dev.fab.nextMsg 0 (.identity id)], ctr := t.dev.ctr } }) ∧
    (low = false → high = false → exec (.lanesTrained p low high) s = .next { s with dev := { s.dev with
      ports := tabPut {} s.dev.ports p.val { getPort s.dev p.val with state := 4, refuse := 6, lanes := 0 } } })) ∧
  (∀ (p : Fin 24) (msg : Nat) (i : Identity) (s : State), tabWf {} s.dev.members = true →
    (getPort s.dev p.val).enable = true → (getPort s.dev p.val).lanes ≠ 0 →
    ((getPort s.dev p.val).state = 1 ∨ (getPort s.dev p.val).state = 4) →
    let q := getPort s.dev p.val
    let r := identityRefusal s.dev q i
    let e := getMember s.dev i.node.toNat
    let heard := if q.sideLink || i.node = s.dev.fab.nodeId then s.dev.members else
      tabPut {} s.dev.members i.node.toNat { e with lastSeen := s.dev.pace.time, lastFrame := s.dev.pace.time }
    let sent := s.dev.out ++ [Out.frame p.val s.dev.fab.nodeId i.node msg 0 (.ack msg 0)]
    (r ≠ 0 → exec (.identityFrame ⟨p, msg⟩ i) s = .next { s with dev := { s.dev with
      ports := tabPut {} s.dev.ports p.val { q with
        state := 4, refuse := BitVec.ofNat 4 r, partner := i.node, partnerPort := i.port, partnerSide := i.straps.side }
      members := heard, out := sent
      fab := if q.sideLink = true ∧ i.node = s.dev.fab.nodeId ∧ i.incarn = s.dev.fab.twinIncarn then
        { s.dev.fab with twinSeen := s.dev.pace.time } else s.dev.fab } }) ∧
    (r = 0 → q.sideLink = false → exec (.identityFrame ⟨p, msg⟩ i) s = .next { s with dev := { s.dev with
        ports := tabPut {} s.dev.ports p.val { q with
          state := if q.lanes = 8 then 2 else 3, refuse := 0, fell := false
          partner := i.node, partnerPort := i.port, partnerSide := i.straps.side }
        members := heard, out := sent
        fab := { s.dev.fab with changed := true, seen :=
          if e.incarn = i.incarn then s.dev.fab.seen else s.dev.fab.seen.filter (fun k => k.1 ≠ i.node.toNat) } } }) ∧
    (r = 0 → q.sideLink = true → ∃ t, exec (.identityFrame ⟨p, msg⟩ i) s = .next t ∧ t.dev.fab.twinState = 2 ∧
      t.dev.fab.twinIncarn = i.incarn ∧ t.dev.fab.twinSeen = s.dev.pace.time ∧ t.dev.out = sent ∧ t.dev.members = s.dev.members) ∧
    (i.straps.side ≠ s.dev.power.straps.side → q.sideLink = false → r = 1) ∧
    (i.straps.side = s.dev.power.straps.side → q.sideLink = false → i.sideLink = true → r = 2)) ∧
  (∀ (p : Fin 24) (s : State), s.dev.arm.firmware = true →
    let q := getPort s.dev p.val
    q.enable = true → (q.state = 5 ∨ q.fell = true ∧ (q.state = 1 ∨ q.state = 4 ∧ q.refuse = 6)) →
    (10000000 ≤ (s.dev.pace.time - q.lastTrain).toNat →
      exec (.portRetrain p) s = .next { s with dev := { s.dev with ports := tabPut {} s.dev.ports p.val { q with
        state := 1, lanes := 0, refuse := 0, retrains := satAdd q.retrains 1, lastTrain := s.dev.pace.time } } }) ∧
    ((s.dev.pace.time - q.lastTrain).toNat < 10000000 → exec (.portRetrain p) s = .next s))

/-- A frame with a good CRC on an up port is acknowledged, and committed once: seen again it is acknowledged and nothing
else; a bad one is dropped without an answer. An acknowledgement ends the resending of its frame; a frame not acknowledged
in 2,000 units is sent again and counted, and after eight sends its port is down and carries no frame. A frame for another
node goes on by the route of its node, which asks for that port's egress, and heartbeats go out every 100,000 units (R335,
R339, R344, R345, R346). Where the model chose: log 24, 76. -/
def Obligations.FramesAreCarriedOnce : Prop :=
  (∀ (p : Fin 24) (src : BitVec 10) (msg frame : Nat) (m : FabMsg) (crcOk : Bool) (s : State),
    (crcOk = false → exec (.frameReceived p src msg frame m crcOk) s = .next s) ∧
    (portUp (getPort s.dev p.val) = false → (∀ i, m ≠ .identity i) → (∀ a b, m ≠ .ack a b) →
      exec (.frameReceived p src msg frame m crcOk) s = .next s) ∧
    (crcOk = true → portUp (getPort s.dev p.val) = true → (getPort s.dev p.val).sideLink = false →
      (∀ a b, m = .ack a b → ∃ t, exec (.frameReceived p src msg frame m crcOk) s = .next t ∧
        t.dev.fab = { s.dev.fab with tx := s.dev.fab.tx.filter (fun x =>
          !(x.msg = a && x.frame = b && (if linkMessage x.body then x.port = p.val else x.dest = src))) } ∧
        t = { s with dev := { s.dev with fab := t.dev.fab, members := t.dev.members } }) ∧
      ((∀ a b, m ≠ .ack a b) → (∀ i, m ≠ .identity i) → isFlood m = false →
        s.dev.fab.seen.contains (src.toNat, msg, frame) = true →
        ∃ t, exec (.frameReceived p src msg frame m crcOk) s = .next t ∧
          t = { s with dev := { s.dev with
            out := s.dev.out ++ [.frame p.val s.dev.fab.nodeId src msg frame (.ack msg frame)]
            ctr := t.dev.ctr, members := t.dev.members } }) ∧
      (∀ g rank seq phase off bs, m = .collData g rank seq phase off bs →
        s.dev.fab.seen.contains (src.toNat, msg, frame) = false → groupLive s.dev g.toNat = true →
        (getGroup s.dev g.toNat).kind = false → (otherRanks (getGroup s.dev g.toNat)).contains rank = true →
        seqOpen s.dev g.toNat seq = true → tabWf {} s.dev.groups = true → trcOn 7 s.dev = false →
        ∃ t, exec (.frameReceived p src msg frame m crcOk) s = .next t ∧
          t.dev.out = s.dev.out ++ [.frame p.val s.dev.fab.nodeId src msg frame (.ack msg frame)] ∧
          t.dev.fab = { s.dev.fab with seen := s.dev.fab.seen ++ [(src.toNat, msg, frame)] } ∧
          getGroup t.dev g.toNat = { getGroup s.dev g.toNat with
            rx := (getGroup s.dev g.toNat).rx ++ [⟨rank, seq, phase, off, bs, p.val⟩] } ∧
          (∀ k, k ≠ g.toNat → getGroup t.dev k = getGroup s.dev k) ∧ t.dev.descs = s.dev.descs ∧ t.dev.rings = s.dev.rings ∧
          t.mem = s.mem ∧ t.host = s.host))) ∧
  (∀ (p : Fin 24) (msg frame : Nat) (x : TxFrame) (s : State),
    s.dev.fab.tx.find? (fun t => t.port = p.val && t.msg = msg && t.frame = frame) = some x →
    ((s.dev.pace.time - x.sentAt).toNat < 2000 → exec (.frameAckTimeout p msg frame) s = .next s) ∧
    (2000 ≤ (s.dev.pace.time - x.sentAt).toNat → x.sends < 8 → ∃ t, exec (.frameAckTimeout p msg frame) s = .next t ∧
      t.dev.fab = { s.dev.fab with tx := s.dev.fab.tx.map (fun y =>
        if y = x then { x with sends := x.sends + 1, sentAt := s.dev.pace.time } else y) } ∧
      t.dev.out = s.dev.out ++ [if isFlood x.body then .flood [p.val] x.hops msg x.body
        else .frame p.val s.dev.fab.nodeId x.dest msg frame x.body] ∧
      t.dev.ports = tabPut {} s.dev.ports p.val { getPort s.dev p.val with retries := satAdd (getPort s.dev p.val).retries 1 } ∧
      t = { s with dev := { s.dev with fab := t.dev.fab, out := t.dev.out, ports := t.dev.ports, ctr := t.dev.ctr } }) ∧
    (2000 ≤ (s.dev.pace.time - x.sentAt).toNat → 8 ≤ x.sends → tabWf {} s.dev.ports = true →
      (∀ c ∈ s.dev.groups, c.2.enable = false) → ∃ t, exec (.frameAckTimeout p msg frame) s = .next t ∧
      getPort t.dev p.val = { getPort s.dev p.val with state := 5, lanes := 0, lastTrain := s.dev.pace.time, fell := true } ∧
      (∀ k, k ≠ p.val → getPort t.dev k = getPort s.dev k) ∧ (∀ y ∈ t.dev.fab.tx, y.port ≠ p.val) ∧
      t.dev.descs = s.dev.descs ∧ t.mem = s.mem ∧ t.host = s.host)) ∧
  (∀ (p : Fin 24) (dest src : BitVec 10) (msg frame k : Nat) (ps : List Nat) (m : FabMsg) (s : State),
    portUp (getPort s.dev p.val) = true → (getPort s.dev p.val).sideLink = false → dest ≠ s.dev.fab.nodeId →
    portsTo s.dev dest.toNat 0 = k :: ps →
    let o := (k :: ps).getD (frame / 16 % (ps.length + 1)) k
    ∃ t, exec (.frameForward p dest src msg frame m) s = .next t ∧
      t = { s with dev := { s.dev with
        out := s.dev.out ++ [.frame o src dest msg frame m]
        arbs := tabPut {} s.dev.arbs (4736 + o) (raiseAll 2 [⟨⟨.coll, p.val⟩, .other, 1⟩] [] (getArb s.dev (4736 + o)))
        ctr := t.dev.ctr, members := t.dev.members } }) ∧
  (∀ (p : Fin 24) (s : State), portUp (getPort s.dev p.val) = true → timerDue s.dev (tmHeartbeat p.val) 100000 = true →
    floodTraced s.dev 8 = false → ∃ t, exec (.heartbeatSend p) s = .next t ∧
      t.dev.out = s.dev.out ++ [.frame p.val s.dev.fab.nodeId (getPort s.dev p.val).partner s.dev.fab.nextMsg 0 .heartbeat] ∧
      t.dev.fab.nextMsg = s.dev.fab.nextMsg + 1 ∧ t.dev.fab.tx.length = s.dev.fab.tx.length + 1 ∧
      t = { s with dev := { s.dev with fab := t.dev.fab, out := t.dev.out, ctr := t.dev.ctr, timers := t.dev.timers } })

/-- An announce of another node is acknowledged, makes it JOINING or PRESENT with what it says, and goes on once to the
other ordinary ports, one hop more; silence of three announce periods, or of a neighbour for HB_LOST_US, makes it LOST
with PEER_LOST, and a neighbour's loss is flooded; silence of the twin makes it LOST. This module announces itself when it
has changed, and LEAVE floods a leave announce; what it floods is kept until each port has acknowledged it (R335, R339 to
R341, R368, R391, R436). Where the model chose: log 24, 74, 75. -/
def Obligations.MembershipFollowsAnnounces : Prop :=
  (∀ (p : Fin 24) (hops : BitVec 4) (msg : Nat) (node : BitVec 10) (incarn : W32) (feed : BitVec 4) (module_ : BitVec 8)
      (role : BitVec 3) (busy : Bool) (pace : W16) (seq : W32) (s : State), tabWf {} s.dev.members = true →
    let m : FabMsg := .announce node incarn feed module_ role busy pace seq
    let e := getMember s.dev node.toNat
    let q := getPort s.dev p.val
    portUp q = true → q.sideLink = false → node ≠ s.dev.fab.nodeId →
    s.dev.fab.seen.contains (q.partner.toNat, msg, 0) = false →
    trcOn 7 s.dev = false → ¬((e.state = 1 ∨ e.state = 2) ∧ e.incarn ≠ incarn) →
    ∃ t, exec (.announceReceived ⟨p, msg⟩ hops m) s = .next t ∧ getMember t.dev node.toNat = { e with
        state := if busy then 1 else 2, hops := hops, feedId := feed, moduleId := module_, role := role, busy := busy
        incarn := incarn, lastSeen := s.dev.pace.time, lastAnnounce := s.dev.pace.time
        lastFrame := if q.partner = node then s.dev.pace.time else e.lastFrame } ∧
      (∀ k, k ≠ node.toNat → k ≠ q.partner.toNat → getMember t.dev k = getMember s.dev k) ∧
      t.dev.out = s.dev.out ++ [.frame p.val s.dev.fab.nodeId q.partner msg 0 (.ack msg 0)] ++
        (if s.dev.fab.forwarded.contains (node.toNat, seq.toNat) then [] else
        [.flood ((ordinaryPorts s.dev).filter (fun i => i ≠ p.val)) (satAdd hops 1) s.dev.fab.nextMsg m]) ∧
      t.dev.mould = (if e.incarn = incarn then s.dev.mould else { s.dev.mould with pairs := s.dev.mould.pairs.map (fun c =>
        if c.state = 2 ∧ c.node = node then { c with state := 4 } else c) }) ∧
      t.dev.ports = s.dev.ports ∧ t.dev.groups = s.dev.groups ∧ t.dev.descs = s.dev.descs ∧ t.mem = s.mem) ∧
  (∀ (node : BitVec 10) (s : State), tabWf {} s.dev.members = true → (∀ c ∈ s.dev.groups, c.2.enable = false) →
    attnHeld s.dev.attn < 63 →
    let e := getMember s.dev node.toNat
    let lost (t : State) : Prop := getMember t.dev node.toNat = { e with state := 3 } ∧
      (∀ k, k ≠ node.toNat → getMember t.dev k = getMember s.dev k) ∧
      (∃ a ∈ t.dev.attn.held, a.code = 0x11 ∧ a.payload =
        leBytes 2 node.toNat ++ leBytes 1 e.role.toNat ++ leBytes 1 0 ++ leBytes 4 e.incarn.toNat) ∧
      t.dev.ports = s.dev.ports ∧ t.dev.groups = s.dev.groups ∧ t.dev.descs = s.dev.descs ∧ t.mem = s.mem ∧ t.host = s.host
    (e.state = 1 ∨ e.state = 2 ∨ e.state = 4) →
    (3000000 * s.dev.fab.announceMs.toNat ≤ (s.dev.pace.time - e.lastAnnounce).toNat →
      ∃ t, exec (.announceTimeout node) s = .next t ∧ lost t ∧ t.dev.out = s.dev.out) ∧
    (wasNeighbour s.dev node = true → 1000 * s.dev.fab.hbLostUs.toNat ≤ (s.dev.pace.time - e.lastFrame).toNat →
      ∃ t, exec (.neighbourLost node false) s = .next t ∧ lost t ∧ t.dev.fab.annSeq = s.dev.fab.annSeq + 1 ∧
        t.dev.out = s.dev.out ++
          [.flood (ordinaryPorts s.dev) 1 s.dev.fab.nextMsg (.lossAnnounce node e.incarn s.dev.fab.annSeq s.dev.fab.nodeId)])) ∧
  (∀ (node : BitVec 10) (s : State), (∀ c ∈ s.dev.groups, c.2.enable = false) →
    (s.dev.fab.twinState = 1 ∨ s.dev.fab.twinState = 2 ∨ s.dev.fab.twinState = 4) →
    1000 * s.dev.fab.hbLostUs.toNat ≤ (s.dev.pace.time - s.dev.fab.twinSeen).toNat →
    ∃ t, exec (.neighbourLost node true) s = .next t ∧ t.dev.fab = { s.dev.fab with twinState := 3 } ∧
      t.dev.members = s.dev.members ∧ t.dev.ports = s.dev.ports ∧ t.dev.descs = s.dev.descs ∧ t.mem = s.mem) ∧
  (∀ s : State, floodTraced s.dev 9 = false →
    let held (ports : List Nat) (m : FabMsg) : List TxFrame := s.dev.fab.tx ++ ports.map (fun p => {
      port := p, dest := (getPort s.dev p).partner, msg := s.dev.fab.nextMsg, frame := 0, body := m, mask := 0, sends := 1
      sentAt := s.dev.pace.time, hops := 1 })
    (s.dev.arm.firmware = true → s.dev.fab.changed = true →
      let m : FabMsg := .announce s.dev.fab.nodeId s.dev.fab.incarn s.dev.power.straps.feedId s.dev.power.straps.moduleId
        s.dev.mould.role (!s.dev.power.rbHigh) s.dev.pace.measured s.dev.fab.annSeq
      ∃ t, exec .announceSend s = .next t ∧ t = { s with dev := { s.dev with
        timers := t.dev.timers
        fab := { s.dev.fab with
          annSeq := s.dev.fab.annSeq + 1, changed := false, nextMsg := s.dev.fab.nextMsg + 1, tx := held (ordinaryPorts s.dev) m }
        out := s.dev.out ++ [.flood (ordinaryPorts s.dev) 1 s.dev.fab.nextMsg m] } }) ∧
    (∀ w : HostWrite, WriteLands s 0x50004 w.ide →
      let m : FabMsg := .leaveAnnounce s.dev.fab.nodeId s.dev.fab.incarn s.dev.fab.annSeq
      let ports := ordinaryPorts s.dev ++ sidePorts s.dev
      exec (.leave w) s = .next { s with dev := { s.dev with
        fab := { s.dev.fab with
          announceMs := clampW 1 100 (w.value.setWidth 8 : Byte), hbLostUs := clampW 200 50000 ((w.value >>> 8).setWidth 16 : W16)
          attnEn := w.value.getLsbD 24, annSeq := s.dev.fab.annSeq + 1, nextMsg := s.dev.fab.nextMsg + 1, tx := held ports m }
        out := s.dev.out ++ [.flood ports 1 s.dev.fab.nextMsg m] } }))

/-! ### Groups and moulds -/

/-- GROUP_ENABLE reads the group's record at its address: a record that fails a check refuses the group with the lowest
reason, and one that passes enables it, one generation on, with nothing left of its earlier life. GROUP_DISABLE disables
it where no COLL or COPY that names it runs, and else does nothing (R347, R348, R350, R364). No other group changes. Where
the model chose: log 63, 77. -/
def Obligations.GroupsEnableAndDisable : Prop :=
  (∀ (g : Fin 256) (w : HostWrite) (bs es : List Byte) (w1 w2 : Work) (s : State), WriteLands s 0x51000 w.ide →
    tabWf {} s.dev.groups = true → (getGroup s.dev g.val).enable = false →
    let q : Group := { getGroup s.dev g.val with kind := w.value.getLsbD 1, ctx := (w.value >>> 8).setWidth 6 }
    let v : Dev := setGroup g.val q s.dev
    (readBytes (edge 0) q.addr 64).run { workOf s with dev := v } = (.ok bs, w1) →
    membersOk q.kind (leAt bs 0 2) = true → (readBytes (edge 0) (q.addr + 64) (8 * leAt bs 0 2)).run w1 = (.ok es, w2) →
    let r := recordOf bs es
    let k := groupRefusal v q r
    ∃ t, exec (.groupEnable g w) s = .next t ∧ t.mem = s.mem ∧ t.host = s.host ∧ t.dev.descs = s.dev.descs ∧
      t.dev.rings = s.dev.rings ∧ t.dev.ctxs = s.dev.ctxs ∧ (∀ i, i ≠ g.val → getGroup t.dev i = getGroup s.dev i) ∧
      (k ≠ 0 → getGroup t.dev g.val = { q with err := BitVec.ofNat 3 k }) ∧
      (k = 0 → getGroup t.dev g.val = { q with
        enable := true, err := 0, gen := q.gen + 1, record := r, nextSeq := 0, headers := [], credits := [], mismatches := []
        lost := [], rx := [] }) ∧
      ((getCtx s.dev q.ctx.toNat).enable = false → k ≠ 0)) ∧
  (∀ (g : Fin 256) (w : HostWrite) (s : State), WriteLands s 0x51000 w.ide → (getGroup s.dev g.val).enable = true →
    (groupRunning s.dev g.val = true → exec (.groupDisable g w) s = .next s) ∧
    (groupRunning s.dev g.val = false → (∀ h ∈ (getGroup s.dev g.val).headers, h.2.seq < (getGroup s.dev g.val).nextSeq) →
      exec (.groupDisable g w) s = .next { s with dev := { s.dev with
        groups := tabPut {} s.dev.groups g.val { getGroup s.dev g.val with enable := false } } }))

/-- MOULD_ROLE takes a role below 4 while no pairing is enabled, and with a failed stack only role 0. CHARGE_ENABLE
refuses a pairing with its reason, and tells the partner where the feeds are equal, or makes it WAITING and tells the
partner, and CHARGE_DISABLE turns it off; a pairing frame of the partner makes it PAIRED, or refuses it, at both ends; and
one of a node whose side here names another partner or another group is answered with a refusal, at once or when that side
is enabled. PERSISTED within (CAST, LAST_CLOSE] moves the cast there. The stream ring starts empty, and STREAM_FORWARD
copies the record at the head of the queue and then the tail, over the link in CXL.io requests of at most 4,096 bytes read
and 512 written (R288, R386 to R391, R404, R405, R409). Where the model chose: log 67, 125. -/
def Obligations.MouldsPairAndForward : Prop :=
  (∀ (w : HostWrite) (s : State), WriteLands s 0x60000 w.ide →
    let x : BitVec 3 := w.value.setWidth 3
    ((4 ≤ x.toNat ∨ (∃ q ∈ s.dev.mould.pairs, q.enable = true) ∨ (s.dev.arm.postStacks ≠ 0 ∧ x ≠ 0)) →
      exec (.mouldRoleWrite w) s = .next s) ∧
    (x.toNat < 4 → (∀ q ∈ s.dev.mould.pairs, q.enable = false) → (s.dev.arm.postStacks = 0 ∨ x = 0) →
      exec (.mouldRoleWrite w) s = .next { s with dev := { s.dev with
        mould := { s.dev.mould with role := x }, fab := { s.dev.fab with changed := true } } })) ∧
  (∀ (k : Fin 5) (w : HostWrite) (s : State), WriteLands s 0x60100 w.ide → s.dev.mould.pairs.length = 5 →
    let q : Pair := { getPair s.dev k.val with override := w.value.getLsbD 1 }
    let e := pairRefusal (setPair k.val q s.dev) k.val q
    ((getPair s.dev k.val).enable = false → e ≠ 0 →
      let v := setPair k.val { q with state := 3, err := BitVec.ofNat 3 e } s.dev
      ∃ t, exec (.chargeEnable k w) s = .next t ∧ t.dev.mould = v.mould ∧ ((e ≠ 3 ∨ pairGroupOk v k.val q = false) → t = { s with dev := v }) ∧
        (e = 3 → pairGroupOk v k.val q = true → t.dev = sendPairing q true v) ∧
        t.dev.descs = s.dev.descs ∧ t.dev.rings = s.dev.rings ∧ t.dev.groups = s.dev.groups ∧ t.mem = s.mem ∧ t.host = s.host) ∧
    ((getPair s.dev k.val).enable = false → e = 0 → ∃ t, exec (.chargeEnable k w) s = .next t ∧
      (let on : Pair := { q with enable := true, state := 1, err := 0, unprot := false }
       let v := sendPairing on false (setPair k.val on s.dev)
       (s.dev.mould.asked = [] → t.dev = v ∧ v.mould = (setPair k.val on s.dev).mould) ∧
       (∀ g node, s.dev.mould.asked = [(g, node)] → mayAnswer v g node = true → sideOf v g node = some k.val →
        (g ≠ on.group ∨ node ≠ on.node) →
        t.dev.mould = { (setPair k.val (if node = on.node then { on with state := 3, err := 7 } else on) s.dev).mould with asked := [] } ∧
        t.dev = sendPairing { on with group := g, node := node } true { v with mould := t.dev.mould })) ∧
      t.dev.descs = s.dev.descs ∧ t.dev.rings = s.dev.rings ∧ t.dev.groups = s.dev.groups ∧ t.mem = s.mem ∧ t.host = s.host) ∧
    ((getPair s.dev k.val).enable = true → exec (.chargeDisable k w) s = .next { s with dev := setPair k.val { getPair s.dev k.val with enable := false, state := 0, err := 0, unprot := false } s.dev })) ∧
  (∀ (k : Fin 5) (g : Byte) (node names : BitVec 10) (feed : BitVec 4) (ov refuse : Bool) (s : State),
    let q := getPair s.dev k.val
    q.state = 1 → g = q.group → node = q.node →
    (refuse = true → exec (.pairingFrame k (.pairing g node names feed ov refuse)) s = .next { s with dev := setPair k.val { q with state := 3, err := 7 } s.dev }) ∧
    (refuse = false → (names ≠ s.dev.fab.nodeId ∨ (feed = s.dev.power.straps.feedId ∧ ¬(ov = true ∧ q.override = true))) →
      ∃ t, exec (.pairingFrame k (.pairing g node names feed ov refuse)) s = .next t ∧
        t.dev = sendPairing q true (setPair k.val { q with state := 3, err := 7 } s.dev) ∧ t.mem = s.mem ∧ t.host = s.host) ∧
    (refuse = false → names = s.dev.fab.nodeId → (feed ≠ s.dev.power.straps.feedId ∨ ov = true ∧ q.override = true) →
      ∃ t, exec (.pairingFrame k (.pairing g node names feed ov refuse)) s = .next t ∧
        t.dev.mould = (setPair k.val { q with state := 2, unprot := ov || q.override } s.dev).mould ∧
        t.dev.descs = s.dev.descs ∧ t.dev.groups = s.dev.groups ∧ t.mem = s.mem ∧ t.host = s.host)) ∧
  (∀ (k : Fin 5) (g : Byte) (node names : BitVec 10) (feed : BitVec 4) (ov : Bool) (s : State),
    let m (refuse : Bool) : FabMsg := .pairing g node names feed ov refuse
    (g ≠ (getPair s.dev k.val).group ∨ node ≠ (getPair s.dev k.val).node) →
    exec (.pairingFrame k (m true)) s = .next s ∧
    (mayAnswer s.dev g node = false → exec (.pairingFrame k (m false)) s = .next s) ∧
    (mayAnswer s.dev g node = true → sideOf s.dev g node = none → (g, node) ∉ s.dev.mould.asked →
      exec (.pairingFrame k (m false)) s = .next { s with dev := { s.dev with
        mould := { s.dev.mould with asked := s.dev.mould.asked ++ [(g, node)] } } }) ∧
    (∀ j, mayAnswer s.dev g node = true → sideOf s.dev g node = some j →
      let o := getPair s.dev j
      (g ≠ o.group ∨ node ≠ o.node) →
      let v := if node = o.node ∧ o.state = 1 then setPair j { o with state := 3, err := 7 } s.dev else s.dev
      exec (.pairingFrame k (m false)) s = .next { s with dev := sendPairing { o with group := g, node := node } true v })) ∧
  (∀ (k : Fin 4) (p : W32) (ide : Bool) (s : State), WriteLands s 0x60100 ide → (∀ c ∈ s.dev.rings, c.2.boundaryHeld = false) →
    let q := getPair s.dev k.val
    (¬(q.cast.toNat < p.toNat ∧ p.toNat ≤ q.lastClose.toNat) → exec (.persistedWrite k p ide) s = .next { s with dev := setPair k.val { q with persisted := p } s.dev }) ∧
    (q.cast.toNat < p.toNat → p.toNat ≤ q.lastClose.toNat → ∃ t, exec (.persistedWrite k p ide) s = .next t ∧
      t.dev.mould = (setPair k.val { q with persisted := p, cast := p } s.dev).mould ∧
      (s.dev.mould.attnEn = false → t.dev.attn = s.dev.attn) ∧
      (s.dev.mould.attnEn = true → t.dev.attn.seq = s.dev.attn.seq + 1) ∧
      t.dev.rings = s.dev.rings ∧ t.dev.descs = s.dev.descs ∧ t.mem = s.mem ∧ t.host = s.host)) ∧
  (∀ (w : HostWrite) (s : State), WriteLands s 0x60010 w.ide → s.dev.mould.ssEnable = false →
    exec (.streamRingEnable w) s = .next { s with dev := { s.dev with mould := { s.dev.mould with
      ssSize := clampW 20 40 (w.value.setWidth 6 : BitVec 6), ssEnable := true, ssHead := 0, ssTail := 0 } } }) ∧
  (∀ (it : StreamItem) (rest : List StreamItem) (w : Work) (s : State), Memory.wf s = true → s.dev.power.railsUp = true → w.wiped = .none →
    s.dev.power.lost = .none → w.dev.power = s.dev.power →
    let m := s.dev.mould
    m.queue = it :: rest → m.ssEnable = true → (m.ssTail - m.ssHead).toNat + it.bytes ≤ 2 ^ m.ssSize.toNat →
    (do
      hostAsks true false (edge it.ctx) it.addr it.bytes 4096
      let bs ← readBytes (edge it.ctx) it.addr it.bytes
      streamWrite m.ssBase (2 ^ m.ssSize.toNat) m.ssTail.toNat bs
      bulkWrite m.ssTailPtr (leBytes 8 (m.ssTail + BitVec.ofNat 64 it.bytes).toNat) : Acc Unit).run (workOf s) = (.ok (), w) →
    ∃ t, exec .streamForward s = .next t ∧ StoredBy s t w.stores ∧ t.dev.mould.queue = rest ∧
      t.dev.mould.ssTail = m.ssTail + BitVec.ofNat 64 it.bytes ∧ t.dev.mould.role = m.role ∧ t.dev.mould.ssHead = m.ssHead ∧
      t.dev.mould.pairs = (match it.closeStep with
        | some c => m.pairs.set it.slot { getPair s.dev it.slot with lastClose := c }
        | none => m.pairs) ∧
      t.dev.out = w.dev.out ∧ t.dev.rings = s.dev.rings ∧ t.dev.descs = s.dev.descs ∧ t.dev.ctxs = s.dev.ctxs)

/-! ### Counters and trace -/

/-- CTR_RESET clears every counter of its set and advances its epoch; CTR_SAMPLE and CTR_SAMPLE_RESET write the set's
record at CTR_CMD_ADDR and count it, the latter with the counters cleared as it is taken, so that they hold only what the
record's own write counts; and a set that is not listed changes nothing. A mirror's sample is latched when its period has
run and then written; one that has to wait is kept, and one that does not translate is counted. A sample record is 32
bytes and the counters (R460 to R467). Where the model chose: log 70, 71. -/
def Obligations.CountersResetAndSample : Prop :=
  (∀ (set : BitVec 12) (ide : Bool) (s : State), WriteLands s 0x70000 ide → s.dev.ctr.queue = [] →
    tabWf 0 s.dev.ctr.values = true → tabWf 0 s.dev.ctr.epochs = true → tabWf 0 s.dev.ctr.samples = true →
    s.dev.power.lost = .none →
    let k := set.toNat
    (setCount k = none → exec (.ctrReset set ide) s = .next s ∧ exec (.ctrSample set ide) s = .next s ∧
      exec (.ctrSampleReset set ide) s = .next s) ∧
    (∀ n, setCount k = some n →
      (∃ t, exec (.ctrReset set ide) s = .next t ∧ (∀ i < 4096, ctrGet t.dev k i = 0) ∧ ctrEpoch t.dev k = ctrEpoch s.dev k + 1 ∧
        (∀ j i, j ≠ k → i < 4096 → ctrGet t.dev j i = ctrGet s.dev j i) ∧ (∀ j, j ≠ k → ctrEpoch t.dev j = ctrEpoch s.dev j) ∧
        t = { s with dev := { s.dev with ctr := t.dev.ctr } }) ∧
      (∀ w, Memory.wf s = true → w.wiped = .none → w.dev.power = s.dev.power →
        (takeSample 0 k n 0 false s.dev.ctr.cmdAddr).run (workOf s) = (.ok (), w) →
        ∃ t, exec (.ctrSample set ide) s = .next t ∧ StoredBy s t w.stores ∧ ctrEpoch t.dev k = ctrEpoch s.dev k ∧
          tabGet 0 t.dev.ctr.samples k = tabGet 0 s.dev.ctr.samples k + 1 ∧ t.dev.ctr.queue = [] ∧
          t.dev.rings = s.dev.rings ∧ t.dev.descs = s.dev.descs ∧ t.dev.ctxs = s.dev.ctxs ∧ t.dev.attn = s.dev.attn) ∧
      (∀ w, Memory.wf s = true → w.wiped = .none → w.dev.power = s.dev.power →
        let v := ctrCountSample k (ctrReset k s.dev)
        (writeSample 0 s.dev.ctr.cmdAddr (tabGet 0 v.ctr.samples k).toNat (sampleBody s.dev k n 0 (ctrEpoch s.dev k + 1))).run
          { workOf s with dev := v } = (.ok (), w) →
        (∀ i < 4096, ctrGet v k i = 0) ∧ ∃ t, exec (.ctrSampleReset set ide) s = .next t ∧ StoredBy s t w.stores ∧
          (∀ i < 4096, ctrGet t.dev k i = ctrGet w.dev k i) ∧
          ctrEpoch t.dev k = ctrEpoch s.dev k + 1 ∧ tabGet 0 t.dev.ctr.samples k = tabGet 0 s.dev.ctr.samples k + 1 ∧
          t.dev.ctr.queue = [] ∧ t.dev.rings = s.dev.rings ∧ t.dev.descs = s.dev.descs ∧ t.dev.ctxs = s.dev.ctxs))) ∧
  (∀ (x : Fin 64) (s : State),
    let m := getMirror s.dev x.val
    let body := sampleBody s.dev x.val 19 1 (ctrEpoch s.dev x.val)
    let v := ctrCountSample x.val (timerMark (tmMirror x.val) s.dev)
    let n := (tabGet 0 v.ctr.samples x.val).toNat
    let run := (writeSample x.val m.addr n body).run { workOf s with dev := v }
    s.dev.power.railsUp = true → m.period ≠ 0 → m.addr ≠ 0 → timerDue s.dev (tmMirror x.val) (1000 * m.period.toNat) = true →
    (∀ w, Memory.wf s = true → w.wiped = .none → s.dev.power.lost = .none → w.dev.power = s.dev.power → run = (.ok (), w) →
      ∃ t, exec (.mirrorSample x) s = .next t ∧ StoredBy s t w.stores ∧ t.dev.ctr = w.dev.ctr ∧ t.dev.rings = s.dev.rings ∧
        t.dev.descs = s.dev.descs ∧ t.dev.ctxs = s.dev.ctxs) ∧
    (∀ a w, run = (.error (.fail stTranslation a), w) →
      ∃ t, exec (.mirrorSample x) s = .next t ∧ t.dev.ctr.mirrorFaults = satAdd s.dev.ctr.mirrorFaults 1 ∧
        t.dev.rings = s.dev.rings ∧ t.dev.descs = s.dev.descs) ∧
    (∀ w, run = (.error .wait, w) →
      ∃ t, exec (.mirrorSample x) s = .next t ∧ t.dev.ctr.mirrorWaits = s.dev.ctr.mirrorWaits ++ [⟨x.val, m.addr, n, body⟩] ∧
        t.mem = s.mem ∧ t.host = s.host ∧ t.dev.rings = s.dev.rings ∧ t.dev.descs = s.dev.descs)) ∧
  (∀ (v : Dev) (set n cause : Nat) (e : W32), (sampleBody v set n cause e).length = 24 + 8 * n)

/-- A PC sample of a selected unit goes last into its port's queue when its interval has run, with a DROPPED record ahead
of it where some were lost, and a full queue counts it lost. A record accepted by a running buffer is taken from its
queue's head: the oldest gives way in a full wrapping buffer, and one that stops when full stops with its last record; a
stopped buffer drops and counts it, but keeps a DROPPED record waiting. The first trigger since ARM writes its record;
FIRE notes its cause; ARM clears and starts the buffer; DUMP copies a stopped buffer to the spill region, or waits to; and
a drain writes the records there in order (R468 to R475). Where the model chose: log 22, 72, 73. -/
def Obligations.TraceCapturesInOrder : Prop :=
  (∀ (u : SampleUnit) (stall : Byte) (s : State),
    let q := (sampleSource u).2.1
    let k := s.dev.trc.queues.getD q {}
    s.dev.power.railsUp = true → trcOn (sampleSource u).2.2 s.dev = true → timerDue s.dev (tmPcs (sampleSource u).1) s.dev.trc.interval.toNat = true →
    q < s.dev.trc.queues.length →
    ∃ t r, exec (.pcSample u stall) s = .next t ∧
      (k.records.length < 64 → k.drops = 0 → (t.dev.trc.queues.getD q {}).records = k.records ++ [r]) ∧
      (k.records.length < 64 → k.drops ≠ 0 → ∃ m, (t.dev.trc.queues.getD q {}).records = k.records ++ [m, r] ∧
        (t.dev.trc.queues.getD q {}).drops = 0 ∧ m.type = 7 ∧ m.payload = leBytes 4 k.drops ++ leBytes 1 q) ∧
      (64 ≤ k.records.length → t.dev.trc.queues.getD q {} = { k with drops := k.drops + 1 }) ∧
      r.type = 1 ∧ r.source = BitVec.ofNat 16 (sampleSource u).1 ∧ r.time = s.dev.pace.time ∧
      (∀ j, j ≠ q → t.dev.trc.queues.getD j {} = s.dev.trc.queues.getD j {}) ∧ t.dev.trc.buffer = s.dev.trc.buffer ∧
      t = { s with dev := { s.dev with timers := t.dev.timers, trc := t.dev.trc } }) ∧
  (∀ (q : Fin 5) (r : TraceRec) (rest : List TraceRec) (s : State),
    let k := s.dev.trc.queues.getD q.val {}
    let c := s.dev.trc
    let taken := c.queues.set q.val { k with records := rest }
    s.dev.power.railsUp = true → k.records = r :: rest → c.queues.length = 5 →
    (c.running = false → r.type = 7 → exec (.traceRecordAccept q) s = .next s) ∧
    (c.running = false → r.type ≠ 7 → exec (.traceRecordAccept q) s = .next { s with dev := { s.dev with trc := { c with
      queues := taken, droppedFull := satAdd c.droppedFull 1 } } }) ∧
    (c.running = true → c.spillEnable = false → c.mode = 1 → c.buffer.length ≤ trcCap →
      exec (.traceRecordAccept q) s = .next { s with dev := { s.dev with trc := { c with
        queues := taken, buffer := if c.buffer.length < trcCap then c.buffer ++ [r] else (c.buffer ++ [r]).drop 1 } } }) ∧
    (c.running = true → c.spillEnable = false → c.mode = 0 → c.buffer.length < trcCap →
      exec (.traceRecordAccept q) s = .next { s with dev := { s.dev with trc := { c with
        queues := taken, buffer := c.buffer ++ [r], running := decide (c.buffer.length + 1 < trcCap) } } })) ∧
  (∀ (cause : Fin 4) (rest : List Nat) (s : State), s.dev.power.railsUp = true → s.dev.trc.causes = cause.val :: rest → s.dev.trc.running = true →
    (s.dev.trc.triggered = true → exec (.traceTrigger cause) s = .next { s with dev := { s.dev with
      trc := { s.dev.trc with causes := rest } } }) ∧
    (s.dev.trc.triggered = false → s.dev.trc.spillEnable = false → s.dev.trc.mode = 1 →
      s.dev.trc.buffer.length < trcCap → exec (.traceTrigger cause) s = .next { s with dev := { s.dev with
        trc := { s.dev.trc with
          causes := [], triggered := true
          buffer := s.dev.trc.buffer ++ [⟨s.dev.pace.time, 0x06, 0, 0x3FF, [BitVec.ofNat 8 cause.val]⟩] } } })) ∧
  (∀ (w : HostWrite) (s : State), WriteLands s 0x80008 w.ide → w.value.getLsbD 0 = true →
    exec (.trcFire w) s = .next { s with dev := { s.dev with trc := { s.dev.trc with
      trigEn := w.value.setWidth 4, trigCtx := (w.value >>> 5).setWidth 6, trigStall := (w.value >>> 11).setWidth 8
      trigCode := (w.value >>> 19).setWidth 13, causes := s.dev.trc.causes ++ [0] } } }) ∧
  (∀ (w : HostWrite) (s : State), WriteLands s 0x80000 w.ide → w.value.getLsbD 7 = false → (w.value.setWidth 2 : BitVec 2) ≠ 3 →
    exec (.trcArm w) s = .next { s with dev := { s.dev with trc := { s.dev.trc with
      mode := w.value.setWidth 2, pre := (w.value >>> 2).setWidth 4, buffer := [], running := true, triggered := false, causes := []
      stopAt := none, dumpWaits := false, armBase := s.dev.trc.drained } } }) ∧
  (∀ (w : HostWrite) (u : Work) (s : State), Memory.wf s = true → WriteLands s 0x80000 w.ide → w.value.getLsbD 6 = false →
    (w.value.setWidth 2 : BitVec 2) ≠ 3 → s.dev.trc.spillEnable = false → u.wiped = .none →
    let c : Trc := { s.dev.trc with mode := w.value.setWidth 2, pre := (w.value >>> 2).setWidth 4 }
    (s.dev.trc.running = true → exec (.trcDump w) s = .next { s with dev := { s.dev with trc := c } }) ∧
    (s.dev.trc.running = false → s.dev.power.lost = .none → u.dev.power = s.dev.power →
      let run := (writeBytes (edge 0) c.spillBase ((c.buffer.take (spillBytes c / 32)).flatMap traceBytes)).run
        { workOf s with dev := { s.dev with trc := { c with dumpWaits := false } } }
      (run = (.ok (), u) →
        ∃ t, exec (.trcDump w) s = .next t ∧ StoredBy s t u.stores ∧ t.dev.trc = { c with dumped := true, dumpWaits := false } ∧
          t.dev.rings = s.dev.rings ∧ t.dev.descs = s.dev.descs ∧ t.dev.ctxs = s.dev.ctxs) ∧
      (run = (.error .wait, u) → exec (.trcDump w) s = .next { s with dev := { s.dev with trc := { c with dumpWaits := true } } }))) ∧
  (∀ (r : TraceRec) (u : Work) (s : State), Memory.wf s = true → u.wiped = .none →
    s.dev.power.lost = .none → u.dev.power = s.dev.power →
    let c := s.dev.trc
    (c.spillEnable = false → exec .traceSpillDrain s = .next s) ∧
    (s.dev.power.railsUp = true → c.spillEnable = true → c.buffer = [r] →
      (writeBytes (edge 0) (c.spillBase + BitVec.ofNat 64 (c.drained.toNat % spillBytes c)) (traceBytes r)).run (workOf s) =
        (.ok (), u) →
      ∃ t, exec .traceSpillDrain s = .next t ∧ StoredBy s t u.stores ∧ t.dev.trc.buffer = [] ∧
        t.dev.trc.drained = c.drained + 32 ∧ t.dev.trc.spillEnable = true ∧ t.dev.trc.queues = c.queues ∧
        t.dev.rings = s.dev.rings ∧ t.dev.descs = s.dev.descs ∧ t.dev.ctxs = s.dev.ctxs))

end
end

