-- ==== Sys2Proof/Laws/Tab.lean ====
section
/-! SUPPORT. Laws of sparse tables: reading after writing, and the canonical form kept by every operation on one. -/

namespace Sys2Proof

variable {α : Type}

@[simp] theorem tabGet_nil (d : α) (i : Nat) : tabGet d [] i = d := rfl

theorem tabGet_cons (d : α) (k : Nat) (v : α) (t : Tab α) (i : Nat) :
    tabGet d ((k, v) :: t) i = if i = k then v else tabGet d t i := rfl

variable [DecidableEq α]

/-- A table whose keys start above `i` lists nothing at `i`. -/
theorem tabGet_below (d : α) : ∀ (t : Tab α) (lo i : Nat), tabWfFrom d lo t = true → i < lo → tabGet d t i = d
  | [], _, _, _, _ => rfl
  | (k, v) :: t, lo, i, h, hi => by
    simp only [tabWfFrom, Bool.and_eq_true, decide_eq_true_eq] at h
    have hk : i ≠ k := by omega
    rw [tabGet_cons, if_neg hk]
    exact tabGet_below d t (k + 1) i h.2 (by omega)

/-- The canonical form from a lower key on. -/
theorem tabWfFrom_mono (d : α) (t : Tab α) (lo lo' : Nat) (h : tabWfFrom d lo t = true) (hl : lo' ≤ lo) :
    tabWfFrom d lo' t = true := by
  cases t with
  | nil => rfl
  | cons c t =>
    simp only [tabWfFrom, Bool.and_eq_true, decide_eq_true_eq] at h ⊢
    exact ⟨⟨by omega, h.1.2⟩, h.2⟩

/-- A write keeps the canonical form. -/
theorem tabPut_wfFrom (d : α) (v : α) : ∀ (t : Tab α) (lo i : Nat), tabWfFrom d lo t = true → lo ≤ i →
    tabWfFrom d lo (tabPut d t i v) = true
  | [], lo, i, _, hi => by
    unfold tabPut
    split <;> simp_all [tabWfFrom]
  | (k, w) :: t, lo, i, h, hi => by
    have h' := h
    simp only [tabWfFrom, Bool.and_eq_true, decide_eq_true_eq] at h
    obtain ⟨⟨hk, hw⟩, ht⟩ := h
    unfold tabPut
    split
    · next hik =>
      split
      · exact h'
      · next hv =>
        simp only [tabWfFrom, Bool.and_eq_true, decide_eq_true_eq]
        exact ⟨⟨hi, hv⟩, ⟨by omega, hw⟩, ht⟩
    · next hik =>
      split
      · next heq =>
        subst heq
        split
        · exact tabWfFrom_mono d t _ _ ht (by omega)
        · next hv =>
          simp only [tabWfFrom, Bool.and_eq_true, decide_eq_true_eq]
          exact ⟨⟨hi, hv⟩, ht⟩
      · next hne =>
        simp only [tabWfFrom, Bool.and_eq_true, decide_eq_true_eq]
        exact ⟨⟨hk, hw⟩, tabPut_wfFrom d v t (k + 1) i ht (by omega)⟩

theorem tabPut_wf (d : α) (t : Tab α) (i : Nat) (v : α) (h : tabWf d t = true) : tabWf d (tabPut d t i v) = true :=
  tabPut_wfFrom d v t 0 i h (Nat.zero_le i)

/-- A read after a write in a canonical table. -/
theorem tabGet_tabPut_from (d : α) (v : α) : ∀ (t : Tab α) (lo i j : Nat), tabWfFrom d lo t = true →
    tabGet d (tabPut d t i v) j = if j = i then v else tabGet d t j
  | [], lo, i, j, _ => by
    unfold tabPut
    split
    · next hv => subst hv; simp
    · simp [tabGet]
  | (k, w) :: t, lo, i, j, h => by
    have h' := h
    simp only [tabWfFrom, Bool.and_eq_true, decide_eq_true_eq] at h
    obtain ⟨⟨hk, hw⟩, ht⟩ := h
    unfold tabPut
    split
    · next hik =>
      split
      · next hv =>
        subst hv
        split
        · next hji =>
          subst hji
          rw [tabGet_cons, if_neg (by omega)]
          exact tabGet_below v t (k + 1) j ht (by omega)
        · rfl
      · rw [tabGet_cons]
    · next hik =>
      split
      · next heq =>
        subst heq
        split
        · next hv =>
          subst hv
          split
          · next hji => subst hji; exact tabGet_below v t (j + 1) j ht (by omega)
          · next hji => rw [tabGet_cons, if_neg hji]
        · simp only [tabGet_cons]
          split <;> rfl
      · next hne =>
        simp only [tabGet_cons]
        rw [tabGet_tabPut_from d v t (k + 1) i j ht]
        split
        · next hjk => rw [if_neg (by omega)]
        · rfl

theorem tabGet_tabPut (d : α) (t : Tab α) (i j : Nat) (v : α) (h : tabWf d t = true) :
    tabGet d (tabPut d t i v) j = if j = i then v else tabGet d t j :=
  tabGet_tabPut_from d v t 0 i j h

theorem tabGet_tabPut_same (d : α) (t : Tab α) (i : Nat) (v : α) (h : tabWf d t = true) : tabGet d (tabPut d t i v) i = v := by
  rw [tabGet_tabPut d t i i v h, if_pos rfl]

/-- Reading elsewhere than where a write went needs no canonical form. -/
theorem tabGet_tabPut_other (d : α) (v : α) : ∀ (t : Tab α) (i j : Nat), j ≠ i →
    tabGet d (tabPut d t i v) j = tabGet d t j
  | [], i, j, h => by
    unfold tabPut
    split <;> simp [tabGet, h]
  | (k, w) :: t, i, j, h => by
    unfold tabPut
    split
    · split
      · rfl
      · rw [tabGet_cons, if_neg h]
    · split
      · next heq =>
        subst heq
        split
        · rw [tabGet_cons, if_neg h]
        · simp only [tabGet_cons, if_neg h]
      · simp only [tabGet_cons]
        rw [tabGet_tabPut_other d v t i j h]

/-- Entries that a test keeps stay in the canonical form. -/
theorem tabFilter_wfFrom (d : α) (p : Nat × α → Bool) : ∀ (t : Tab α) (lo : Nat), tabWfFrom d lo t = true →
    tabWfFrom d lo (t.filter p) = true
  | [], _, _ => rfl
  | (k, v) :: t, lo, h => by
    simp only [tabWfFrom, Bool.and_eq_true, decide_eq_true_eq] at h
    have ih := tabFilter_wfFrom d p t (k + 1) h.2
    rw [List.filter_cons]
    split
    · simp only [tabWfFrom, Bool.and_eq_true, decide_eq_true_eq]
      exact ⟨h.1, ih⟩
    · exact tabWfFrom_mono d _ _ _ ih (by omega)

theorem tabFilter_wf (d : α) (p : Nat × α → Bool) (t : Tab α) (h : tabWf d t = true) : tabWf d (t.filter p) = true :=
  tabFilter_wfFrom d p t 0 h

/-- Every entry changed keeps the canonical form. -/
theorem tabMap_wfFrom (d : α) (f : Nat → α → α) : ∀ (t : Tab α) (lo : Nat), tabWfFrom d lo t = true →
    tabWfFrom d lo (tabMap d f t) = true
  | [], _, _ => rfl
  | (k, v) :: t, lo, h => by
    simp only [tabWfFrom, Bool.and_eq_true, decide_eq_true_eq] at h
    have ih : tabWfFrom d (k + 1) (tabMap d f t) = true := tabMap_wfFrom d f t (k + 1) h.2
    unfold tabMap at ih ⊢
    rw [List.map_cons, List.filter_cons]
    split
    · next hv =>
      simp only [tabWfFrom, Bool.and_eq_true, decide_eq_true_eq]
      exact ⟨⟨h.1.1, of_decide_eq_true hv⟩, ih⟩
    · exact tabWfFrom_mono d _ _ _ ih (by omega)

theorem tabMap_wf (d : α) (f : Nat → α → α) (t : Tab α) (h : tabWf d t = true) : tabWf d (tabMap d f t) = true :=
  tabMap_wfFrom d f t 0 h

/-- Reading a table every entry of which was changed by a function that keeps the default. -/
theorem tabGet_tabMap (d : α) (f : Nat → α → α) (hf : ∀ i, f i d = d) : ∀ (t : Tab α) (lo i : Nat),
    tabWfFrom d lo t = true → tabGet d (tabMap d f t) i = f i (tabGet d t i)
  | [], _, i, _ => by simp [tabMap, hf]
  | (k, v) :: t, lo, i, h => by
    simp only [tabWfFrom, Bool.and_eq_true, decide_eq_true_eq] at h
    have ih := tabGet_tabMap d f hf t (k + 1) i h.2
    unfold tabMap at ih ⊢
    rw [List.map_cons, List.filter_cons]
    split
    · simp only [tabGet_cons]
      split
      · next hik => subst hik; rfl
      · exact ih
    · next hv =>
      have hv : f k v = d := Decidable.byContradiction (fun c => hv (decide_eq_true c))
      rw [ih, tabGet_cons]
      split
      · next hik =>
        subst hik
        rw [tabGet_below d t (i + 1) i h.2 (by omega), hf, hv]
      · rfl

end Sys2Proof
end

