-- ==== Sys2Proof/Laws/State.lean ====
section
/-! SUPPORT. One lemma for each field of the device under each named update, and the reads of what an update wrote. -/

namespace Sys2Proof.Machine

open Sys2Proof


/-! ### setCtx -/

@[simp] theorem setCtx_power (x : Nat) (c : Ctx) (v : Dev) : (setCtx x c v).power = v.power := rfl
@[simp] theorem setCtx_arm (x : Nat) (c : Ctx) (v : Dev) : (setCtx x c v).arm = v.arm := rfl
@[simp] theorem setCtx_blk (x : Nat) (c : Ctx) (v : Dev) : (setCtx x c v).blk = v.blk := rfl
@[simp] theorem setCtx_pace (x : Nat) (c : Ctx) (v : Dev) : (setCtx x c v).pace = v.pace := rfl
@[simp] theorem setCtx_sns (x : Nat) (c : Ctx) (v : Dev) : (setCtx x c v).sns = v.sns := rfl
@[simp] theorem setCtx_cxl (x : Nat) (c : Ctx) (v : Dev) : (setCtx x c v).cxl = v.cxl := rfl
@[simp] theorem setCtx_arbRegs (x : Nat) (c : Ctx) (v : Dev) : (setCtx x c v).arbRegs = v.arbRegs := rfl
@[simp] theorem setCtx_arbs (x : Nat) (c : Ctx) (v : Dev) : (setCtx x c v).arbs = v.arbs := rfl
@[simp] theorem setCtx_chans (x : Nat) (c : Ctx) (v : Dev) : (setCtx x c v).chans = v.chans := rfl
@[simp] theorem setCtx_ctxs (x : Nat) (c : Ctx) (v : Dev) : (setCtx x c v).ctxs = tabPut {} v.ctxs x c := rfl
@[simp] theorem setCtx_rings (x : Nat) (c : Ctx) (v : Dev) : (setCtx x c v).rings = v.rings := rfl
@[simp] theorem setCtx_dbLines (x : Nat) (c : Ctx) (v : Dev) : (setCtx x c v).dbLines = v.dbLines := rfl
@[simp] theorem setCtx_attn (x : Nat) (c : Ctx) (v : Dev) : (setCtx x c v).attn = v.attn := rfl
@[simp] theorem setCtx_tlb (x : Nat) (c : Ctx) (v : Dev) : (setCtx x c v).tlb = v.tlb := rfl
@[simp] theorem setCtx_descs (x : Nat) (c : Ctx) (v : Dev) : (setCtx x c v).descs = v.descs := rfl
@[simp] theorem setCtx_nextDesc (x : Nat) (c : Ctx) (v : Dev) : (setCtx x c v).nextDesc = v.nextDesc := rfl
@[simp] theorem setCtx_engines (x : Nat) (c : Ctx) (v : Dev) : (setCtx x c v).engines = v.engines := rfl
@[simp] theorem setCtx_chisels (x : Nat) (c : Ctx) (v : Dev) : (setCtx x c v).chisels = v.chisels := rfl
@[simp] theorem setCtx_stab (x : Nat) (c : Ctx) (v : Dev) : (setCtx x c v).stab = v.stab := rfl
@[simp] theorem setCtx_stabWaits (x : Nat) (c : Ctx) (v : Dev) : (setCtx x c v).stabWaits = v.stabWaits := rfl
@[simp] theorem setCtx_fenced (x : Nat) (c : Ctx) (v : Dev) : (setCtx x c v).fenced = v.fenced := rfl
@[simp] theorem setCtx_ue (x : Nat) (c : Ctx) (v : Dev) : (setCtx x c v).ue = v.ue := rfl
@[simp] theorem setCtx_ueTimes (x : Nat) (c : Ctx) (v : Dev) : (setCtx x c v).ueTimes = v.ueTimes := rfl
@[simp] theorem setCtx_stackFault (x : Nat) (c : Ctx) (v : Dev) : (setCtx x c v).stackFault = v.stackFault := rfl
@[simp] theorem setCtx_retired (x : Nat) (c : Ctx) (v : Dev) : (setCtx x c v).retired = v.retired := rfl
@[simp] theorem setCtx_ports (x : Nat) (c : Ctx) (v : Dev) : (setCtx x c v).ports = v.ports := rfl
@[simp] theorem setCtx_fab (x : Nat) (c : Ctx) (v : Dev) : (setCtx x c v).fab = v.fab := rfl
@[simp] theorem setCtx_members (x : Nat) (c : Ctx) (v : Dev) : (setCtx x c v).members = v.members := rfl
@[simp] theorem setCtx_groups (x : Nat) (c : Ctx) (v : Dev) : (setCtx x c v).groups = v.groups := rfl
@[simp] theorem setCtx_routes (x : Nat) (c : Ctx) (v : Dev) : (setCtx x c v).routes = v.routes := rfl
@[simp] theorem setCtx_mould (x : Nat) (c : Ctx) (v : Dev) : (setCtx x c v).mould = v.mould := rfl
@[simp] theorem setCtx_ctr (x : Nat) (c : Ctx) (v : Dev) : (setCtx x c v).ctr = v.ctr := rfl
@[simp] theorem setCtx_trc (x : Nat) (c : Ctx) (v : Dev) : (setCtx x c v).trc = v.trc := rfl
@[simp] theorem setCtx_mgmt (x : Nat) (c : Ctx) (v : Dev) : (setCtx x c v).mgmt = v.mgmt := rfl
@[simp] theorem setCtx_torn (x : Nat) (c : Ctx) (v : Dev) : (setCtx x c v).torn = v.torn := rfl
@[simp] theorem setCtx_out (x : Nat) (c : Ctx) (v : Dev) : (setCtx x c v).out = v.out := rfl
@[simp] theorem setCtx_free (x : Nat) (c : Ctx) (v : Dev) : (setCtx x c v).free = v.free := rfl
@[simp] theorem setCtx_timers (x : Nat) (c : Ctx) (v : Dev) : (setCtx x c v).timers = v.timers := rfl
@[simp] theorem setCtx_scrubbed (x : Nat) (c : Ctx) (v : Dev) : (setCtx x c v).scrubbed = v.scrubbed := rfl

/-! ### setRing -/

@[simp] theorem setRing_power (r : Nat) (x : Ring) (v : Dev) : (setRing r x v).power = v.power := rfl
@[simp] theorem setRing_arm (r : Nat) (x : Ring) (v : Dev) : (setRing r x v).arm = v.arm := rfl
@[simp] theorem setRing_blk (r : Nat) (x : Ring) (v : Dev) : (setRing r x v).blk = v.blk := rfl
@[simp] theorem setRing_pace (r : Nat) (x : Ring) (v : Dev) : (setRing r x v).pace = v.pace := rfl
@[simp] theorem setRing_sns (r : Nat) (x : Ring) (v : Dev) : (setRing r x v).sns = v.sns := rfl
@[simp] theorem setRing_cxl (r : Nat) (x : Ring) (v : Dev) : (setRing r x v).cxl = v.cxl := rfl
@[simp] theorem setRing_arbRegs (r : Nat) (x : Ring) (v : Dev) : (setRing r x v).arbRegs = v.arbRegs := rfl
@[simp] theorem setRing_arbs (r : Nat) (x : Ring) (v : Dev) : (setRing r x v).arbs = v.arbs := rfl
@[simp] theorem setRing_chans (r : Nat) (x : Ring) (v : Dev) : (setRing r x v).chans = v.chans := rfl
@[simp] theorem setRing_ctxs (r : Nat) (x : Ring) (v : Dev) : (setRing r x v).ctxs = v.ctxs := rfl
@[simp] theorem setRing_rings (r : Nat) (x : Ring) (v : Dev) : (setRing r x v).rings = tabPut {} v.rings r x := rfl
@[simp] theorem setRing_dbLines (r : Nat) (x : Ring) (v : Dev) : (setRing r x v).dbLines = v.dbLines := rfl
@[simp] theorem setRing_attn (r : Nat) (x : Ring) (v : Dev) : (setRing r x v).attn = v.attn := rfl
@[simp] theorem setRing_tlb (r : Nat) (x : Ring) (v : Dev) : (setRing r x v).tlb = v.tlb := rfl
@[simp] theorem setRing_descs (r : Nat) (x : Ring) (v : Dev) : (setRing r x v).descs = v.descs := rfl
@[simp] theorem setRing_nextDesc (r : Nat) (x : Ring) (v : Dev) : (setRing r x v).nextDesc = v.nextDesc := rfl
@[simp] theorem setRing_engines (r : Nat) (x : Ring) (v : Dev) : (setRing r x v).engines = v.engines := rfl
@[simp] theorem setRing_chisels (r : Nat) (x : Ring) (v : Dev) : (setRing r x v).chisels = v.chisels := rfl
@[simp] theorem setRing_stab (r : Nat) (x : Ring) (v : Dev) : (setRing r x v).stab = v.stab := rfl
@[simp] theorem setRing_stabWaits (r : Nat) (x : Ring) (v : Dev) : (setRing r x v).stabWaits = v.stabWaits := rfl
@[simp] theorem setRing_fenced (r : Nat) (x : Ring) (v : Dev) : (setRing r x v).fenced = v.fenced := rfl
@[simp] theorem setRing_ue (r : Nat) (x : Ring) (v : Dev) : (setRing r x v).ue = v.ue := rfl
@[simp] theorem setRing_ueTimes (r : Nat) (x : Ring) (v : Dev) : (setRing r x v).ueTimes = v.ueTimes := rfl
@[simp] theorem setRing_stackFault (r : Nat) (x : Ring) (v : Dev) : (setRing r x v).stackFault = v.stackFault := rfl
@[simp] theorem setRing_retired (r : Nat) (x : Ring) (v : Dev) : (setRing r x v).retired = v.retired := rfl
@[simp] theorem setRing_ports (r : Nat) (x : Ring) (v : Dev) : (setRing r x v).ports = v.ports := rfl
@[simp] theorem setRing_fab (r : Nat) (x : Ring) (v : Dev) : (setRing r x v).fab = v.fab := rfl
@[simp] theorem setRing_members (r : Nat) (x : Ring) (v : Dev) : (setRing r x v).members = v.members := rfl
@[simp] theorem setRing_groups (r : Nat) (x : Ring) (v : Dev) : (setRing r x v).groups = v.groups := rfl
@[simp] theorem setRing_routes (r : Nat) (x : Ring) (v : Dev) : (setRing r x v).routes = v.routes := rfl
@[simp] theorem setRing_mould (r : Nat) (x : Ring) (v : Dev) : (setRing r x v).mould = v.mould := rfl
@[simp] theorem setRing_ctr (r : Nat) (x : Ring) (v : Dev) : (setRing r x v).ctr = v.ctr := rfl
@[simp] theorem setRing_trc (r : Nat) (x : Ring) (v : Dev) : (setRing r x v).trc = v.trc := rfl
@[simp] theorem setRing_mgmt (r : Nat) (x : Ring) (v : Dev) : (setRing r x v).mgmt = v.mgmt := rfl
@[simp] theorem setRing_torn (r : Nat) (x : Ring) (v : Dev) : (setRing r x v).torn = v.torn := rfl
@[simp] theorem setRing_out (r : Nat) (x : Ring) (v : Dev) : (setRing r x v).out = v.out := rfl
@[simp] theorem setRing_free (r : Nat) (x : Ring) (v : Dev) : (setRing r x v).free = v.free := rfl
@[simp] theorem setRing_timers (r : Nat) (x : Ring) (v : Dev) : (setRing r x v).timers = v.timers := rfl
@[simp] theorem setRing_scrubbed (r : Nat) (x : Ring) (v : Dev) : (setRing r x v).scrubbed = v.scrubbed := rfl

/-! ### setDb -/

@[simp] theorem setDb_power (i : Nat) (x : DbLine) (v : Dev) : (setDb i x v).power = v.power := rfl
@[simp] theorem setDb_arm (i : Nat) (x : DbLine) (v : Dev) : (setDb i x v).arm = v.arm := rfl
@[simp] theorem setDb_blk (i : Nat) (x : DbLine) (v : Dev) : (setDb i x v).blk = v.blk := rfl
@[simp] theorem setDb_pace (i : Nat) (x : DbLine) (v : Dev) : (setDb i x v).pace = v.pace := rfl
@[simp] theorem setDb_sns (i : Nat) (x : DbLine) (v : Dev) : (setDb i x v).sns = v.sns := rfl
@[simp] theorem setDb_cxl (i : Nat) (x : DbLine) (v : Dev) : (setDb i x v).cxl = v.cxl := rfl
@[simp] theorem setDb_arbRegs (i : Nat) (x : DbLine) (v : Dev) : (setDb i x v).arbRegs = v.arbRegs := rfl
@[simp] theorem setDb_arbs (i : Nat) (x : DbLine) (v : Dev) : (setDb i x v).arbs = v.arbs := rfl
@[simp] theorem setDb_chans (i : Nat) (x : DbLine) (v : Dev) : (setDb i x v).chans = v.chans := rfl
@[simp] theorem setDb_ctxs (i : Nat) (x : DbLine) (v : Dev) : (setDb i x v).ctxs = v.ctxs := rfl
@[simp] theorem setDb_rings (i : Nat) (x : DbLine) (v : Dev) : (setDb i x v).rings = v.rings := rfl
@[simp] theorem setDb_dbLines (i : Nat) (x : DbLine) (v : Dev) : (setDb i x v).dbLines = tabPut {} v.dbLines i x := rfl
@[simp] theorem setDb_attn (i : Nat) (x : DbLine) (v : Dev) : (setDb i x v).attn = v.attn := rfl
@[simp] theorem setDb_tlb (i : Nat) (x : DbLine) (v : Dev) : (setDb i x v).tlb = v.tlb := rfl
@[simp] theorem setDb_descs (i : Nat) (x : DbLine) (v : Dev) : (setDb i x v).descs = v.descs := rfl
@[simp] theorem setDb_nextDesc (i : Nat) (x : DbLine) (v : Dev) : (setDb i x v).nextDesc = v.nextDesc := rfl
@[simp] theorem setDb_engines (i : Nat) (x : DbLine) (v : Dev) : (setDb i x v).engines = v.engines := rfl
@[simp] theorem setDb_chisels (i : Nat) (x : DbLine) (v : Dev) : (setDb i x v).chisels = v.chisels := rfl
@[simp] theorem setDb_stab (i : Nat) (x : DbLine) (v : Dev) : (setDb i x v).stab = v.stab := rfl
@[simp] theorem setDb_stabWaits (i : Nat) (x : DbLine) (v : Dev) : (setDb i x v).stabWaits = v.stabWaits := rfl
@[simp] theorem setDb_fenced (i : Nat) (x : DbLine) (v : Dev) : (setDb i x v).fenced = v.fenced := rfl
@[simp] theorem setDb_ue (i : Nat) (x : DbLine) (v : Dev) : (setDb i x v).ue = v.ue := rfl
@[simp] theorem setDb_ueTimes (i : Nat) (x : DbLine) (v : Dev) : (setDb i x v).ueTimes = v.ueTimes := rfl
@[simp] theorem setDb_stackFault (i : Nat) (x : DbLine) (v : Dev) : (setDb i x v).stackFault = v.stackFault := rfl
@[simp] theorem setDb_retired (i : Nat) (x : DbLine) (v : Dev) : (setDb i x v).retired = v.retired := rfl
@[simp] theorem setDb_ports (i : Nat) (x : DbLine) (v : Dev) : (setDb i x v).ports = v.ports := rfl
@[simp] theorem setDb_fab (i : Nat) (x : DbLine) (v : Dev) : (setDb i x v).fab = v.fab := rfl
@[simp] theorem setDb_members (i : Nat) (x : DbLine) (v : Dev) : (setDb i x v).members = v.members := rfl
@[simp] theorem setDb_groups (i : Nat) (x : DbLine) (v : Dev) : (setDb i x v).groups = v.groups := rfl
@[simp] theorem setDb_routes (i : Nat) (x : DbLine) (v : Dev) : (setDb i x v).routes = v.routes := rfl
@[simp] theorem setDb_mould (i : Nat) (x : DbLine) (v : Dev) : (setDb i x v).mould = v.mould := rfl
@[simp] theorem setDb_ctr (i : Nat) (x : DbLine) (v : Dev) : (setDb i x v).ctr = v.ctr := rfl
@[simp] theorem setDb_trc (i : Nat) (x : DbLine) (v : Dev) : (setDb i x v).trc = v.trc := rfl
@[simp] theorem setDb_mgmt (i : Nat) (x : DbLine) (v : Dev) : (setDb i x v).mgmt = v.mgmt := rfl
@[simp] theorem setDb_torn (i : Nat) (x : DbLine) (v : Dev) : (setDb i x v).torn = v.torn := rfl
@[simp] theorem setDb_out (i : Nat) (x : DbLine) (v : Dev) : (setDb i x v).out = v.out := rfl
@[simp] theorem setDb_free (i : Nat) (x : DbLine) (v : Dev) : (setDb i x v).free = v.free := rfl
@[simp] theorem setDb_timers (i : Nat) (x : DbLine) (v : Dev) : (setDb i x v).timers = v.timers := rfl
@[simp] theorem setDb_scrubbed (i : Nat) (x : DbLine) (v : Dev) : (setDb i x v).scrubbed = v.scrubbed := rfl

/-! ### setEngine -/

@[simp] theorem setEngine_power (e : Nat) (x : Engine) (v : Dev) : (setEngine e x v).power = v.power := rfl
@[simp] theorem setEngine_arm (e : Nat) (x : Engine) (v : Dev) : (setEngine e x v).arm = v.arm := rfl
@[simp] theorem setEngine_blk (e : Nat) (x : Engine) (v : Dev) : (setEngine e x v).blk = v.blk := rfl
@[simp] theorem setEngine_pace (e : Nat) (x : Engine) (v : Dev) : (setEngine e x v).pace = v.pace := rfl
@[simp] theorem setEngine_sns (e : Nat) (x : Engine) (v : Dev) : (setEngine e x v).sns = v.sns := rfl
@[simp] theorem setEngine_cxl (e : Nat) (x : Engine) (v : Dev) : (setEngine e x v).cxl = v.cxl := rfl
@[simp] theorem setEngine_arbRegs (e : Nat) (x : Engine) (v : Dev) : (setEngine e x v).arbRegs = v.arbRegs := rfl
@[simp] theorem setEngine_arbs (e : Nat) (x : Engine) (v : Dev) : (setEngine e x v).arbs = v.arbs := rfl
@[simp] theorem setEngine_chans (e : Nat) (x : Engine) (v : Dev) : (setEngine e x v).chans = v.chans := rfl
@[simp] theorem setEngine_ctxs (e : Nat) (x : Engine) (v : Dev) : (setEngine e x v).ctxs = v.ctxs := rfl
@[simp] theorem setEngine_rings (e : Nat) (x : Engine) (v : Dev) : (setEngine e x v).rings = v.rings := rfl
@[simp] theorem setEngine_dbLines (e : Nat) (x : Engine) (v : Dev) : (setEngine e x v).dbLines = v.dbLines := rfl
@[simp] theorem setEngine_attn (e : Nat) (x : Engine) (v : Dev) : (setEngine e x v).attn = v.attn := rfl
@[simp] theorem setEngine_tlb (e : Nat) (x : Engine) (v : Dev) : (setEngine e x v).tlb = v.tlb := rfl
@[simp] theorem setEngine_descs (e : Nat) (x : Engine) (v : Dev) : (setEngine e x v).descs = v.descs := rfl
@[simp] theorem setEngine_nextDesc (e : Nat) (x : Engine) (v : Dev) : (setEngine e x v).nextDesc = v.nextDesc := rfl
@[simp] theorem setEngine_engines (e : Nat) (x : Engine) (v : Dev) : (setEngine e x v).engines = tabPut {} v.engines e x := rfl
@[simp] theorem setEngine_chisels (e : Nat) (x : Engine) (v : Dev) : (setEngine e x v).chisels = v.chisels := rfl
@[simp] theorem setEngine_stab (e : Nat) (x : Engine) (v : Dev) : (setEngine e x v).stab = v.stab := rfl
@[simp] theorem setEngine_stabWaits (e : Nat) (x : Engine) (v : Dev) : (setEngine e x v).stabWaits = v.stabWaits := rfl
@[simp] theorem setEngine_fenced (e : Nat) (x : Engine) (v : Dev) : (setEngine e x v).fenced = v.fenced := rfl
@[simp] theorem setEngine_ue (e : Nat) (x : Engine) (v : Dev) : (setEngine e x v).ue = v.ue := rfl
@[simp] theorem setEngine_ueTimes (e : Nat) (x : Engine) (v : Dev) : (setEngine e x v).ueTimes = v.ueTimes := rfl
@[simp] theorem setEngine_stackFault (e : Nat) (x : Engine) (v : Dev) : (setEngine e x v).stackFault = v.stackFault := rfl
@[simp] theorem setEngine_retired (e : Nat) (x : Engine) (v : Dev) : (setEngine e x v).retired = v.retired := rfl
@[simp] theorem setEngine_ports (e : Nat) (x : Engine) (v : Dev) : (setEngine e x v).ports = v.ports := rfl
@[simp] theorem setEngine_fab (e : Nat) (x : Engine) (v : Dev) : (setEngine e x v).fab = v.fab := rfl
@[simp] theorem setEngine_members (e : Nat) (x : Engine) (v : Dev) : (setEngine e x v).members = v.members := rfl
@[simp] theorem setEngine_groups (e : Nat) (x : Engine) (v : Dev) : (setEngine e x v).groups = v.groups := rfl
@[simp] theorem setEngine_routes (e : Nat) (x : Engine) (v : Dev) : (setEngine e x v).routes = v.routes := rfl
@[simp] theorem setEngine_mould (e : Nat) (x : Engine) (v : Dev) : (setEngine e x v).mould = v.mould := rfl
@[simp] theorem setEngine_ctr (e : Nat) (x : Engine) (v : Dev) : (setEngine e x v).ctr = v.ctr := rfl
@[simp] theorem setEngine_trc (e : Nat) (x : Engine) (v : Dev) : (setEngine e x v).trc = v.trc := rfl
@[simp] theorem setEngine_mgmt (e : Nat) (x : Engine) (v : Dev) : (setEngine e x v).mgmt = v.mgmt := rfl
@[simp] theorem setEngine_torn (e : Nat) (x : Engine) (v : Dev) : (setEngine e x v).torn = v.torn := rfl
@[simp] theorem setEngine_out (e : Nat) (x : Engine) (v : Dev) : (setEngine e x v).out = v.out := rfl
@[simp] theorem setEngine_free (e : Nat) (x : Engine) (v : Dev) : (setEngine e x v).free = v.free := rfl
@[simp] theorem setEngine_timers (e : Nat) (x : Engine) (v : Dev) : (setEngine e x v).timers = v.timers := rfl
@[simp] theorem setEngine_scrubbed (e : Nat) (x : Engine) (v : Dev) : (setEngine e x v).scrubbed = v.scrubbed := rfl

/-! ### setChisel -/

@[simp] theorem setChisel_power (i : Nat) (x : Chisel) (v : Dev) : (setChisel i x v).power = v.power := rfl
@[simp] theorem setChisel_arm (i : Nat) (x : Chisel) (v : Dev) : (setChisel i x v).arm = v.arm := rfl
@[simp] theorem setChisel_blk (i : Nat) (x : Chisel) (v : Dev) : (setChisel i x v).blk = v.blk := rfl
@[simp] theorem setChisel_pace (i : Nat) (x : Chisel) (v : Dev) : (setChisel i x v).pace = v.pace := rfl
@[simp] theorem setChisel_sns (i : Nat) (x : Chisel) (v : Dev) : (setChisel i x v).sns = v.sns := rfl
@[simp] theorem setChisel_cxl (i : Nat) (x : Chisel) (v : Dev) : (setChisel i x v).cxl = v.cxl := rfl
@[simp] theorem setChisel_arbRegs (i : Nat) (x : Chisel) (v : Dev) : (setChisel i x v).arbRegs = v.arbRegs := rfl
@[simp] theorem setChisel_arbs (i : Nat) (x : Chisel) (v : Dev) : (setChisel i x v).arbs = v.arbs := rfl
@[simp] theorem setChisel_chans (i : Nat) (x : Chisel) (v : Dev) : (setChisel i x v).chans = v.chans := rfl
@[simp] theorem setChisel_ctxs (i : Nat) (x : Chisel) (v : Dev) : (setChisel i x v).ctxs = v.ctxs := rfl
@[simp] theorem setChisel_rings (i : Nat) (x : Chisel) (v : Dev) : (setChisel i x v).rings = v.rings := rfl
@[simp] theorem setChisel_dbLines (i : Nat) (x : Chisel) (v : Dev) : (setChisel i x v).dbLines = v.dbLines := rfl
@[simp] theorem setChisel_attn (i : Nat) (x : Chisel) (v : Dev) : (setChisel i x v).attn = v.attn := rfl
@[simp] theorem setChisel_tlb (i : Nat) (x : Chisel) (v : Dev) : (setChisel i x v).tlb = v.tlb := rfl
@[simp] theorem setChisel_descs (i : Nat) (x : Chisel) (v : Dev) : (setChisel i x v).descs = v.descs := rfl
@[simp] theorem setChisel_nextDesc (i : Nat) (x : Chisel) (v : Dev) : (setChisel i x v).nextDesc = v.nextDesc := rfl
@[simp] theorem setChisel_engines (i : Nat) (x : Chisel) (v : Dev) : (setChisel i x v).engines = v.engines := rfl
@[simp] theorem setChisel_chisels (i : Nat) (x : Chisel) (v : Dev) : (setChisel i x v).chisels = tabPut {} v.chisels i x := rfl
@[simp] theorem setChisel_stab (i : Nat) (x : Chisel) (v : Dev) : (setChisel i x v).stab = v.stab := rfl
@[simp] theorem setChisel_stabWaits (i : Nat) (x : Chisel) (v : Dev) : (setChisel i x v).stabWaits = v.stabWaits := rfl
@[simp] theorem setChisel_fenced (i : Nat) (x : Chisel) (v : Dev) : (setChisel i x v).fenced = v.fenced := rfl
@[simp] theorem setChisel_ue (i : Nat) (x : Chisel) (v : Dev) : (setChisel i x v).ue = v.ue := rfl
@[simp] theorem setChisel_ueTimes (i : Nat) (x : Chisel) (v : Dev) : (setChisel i x v).ueTimes = v.ueTimes := rfl
@[simp] theorem setChisel_stackFault (i : Nat) (x : Chisel) (v : Dev) : (setChisel i x v).stackFault = v.stackFault := rfl
@[simp] theorem setChisel_retired (i : Nat) (x : Chisel) (v : Dev) : (setChisel i x v).retired = v.retired := rfl
@[simp] theorem setChisel_ports (i : Nat) (x : Chisel) (v : Dev) : (setChisel i x v).ports = v.ports := rfl
@[simp] theorem setChisel_fab (i : Nat) (x : Chisel) (v : Dev) : (setChisel i x v).fab = v.fab := rfl
@[simp] theorem setChisel_members (i : Nat) (x : Chisel) (v : Dev) : (setChisel i x v).members = v.members := rfl
@[simp] theorem setChisel_groups (i : Nat) (x : Chisel) (v : Dev) : (setChisel i x v).groups = v.groups := rfl
@[simp] theorem setChisel_routes (i : Nat) (x : Chisel) (v : Dev) : (setChisel i x v).routes = v.routes := rfl
@[simp] theorem setChisel_mould (i : Nat) (x : Chisel) (v : Dev) : (setChisel i x v).mould = v.mould := rfl
@[simp] theorem setChisel_ctr (i : Nat) (x : Chisel) (v : Dev) : (setChisel i x v).ctr = v.ctr := rfl
@[simp] theorem setChisel_trc (i : Nat) (x : Chisel) (v : Dev) : (setChisel i x v).trc = v.trc := rfl
@[simp] theorem setChisel_mgmt (i : Nat) (x : Chisel) (v : Dev) : (setChisel i x v).mgmt = v.mgmt := rfl
@[simp] theorem setChisel_torn (i : Nat) (x : Chisel) (v : Dev) : (setChisel i x v).torn = v.torn := rfl
@[simp] theorem setChisel_out (i : Nat) (x : Chisel) (v : Dev) : (setChisel i x v).out = v.out := rfl
@[simp] theorem setChisel_free (i : Nat) (x : Chisel) (v : Dev) : (setChisel i x v).free = v.free := rfl
@[simp] theorem setChisel_timers (i : Nat) (x : Chisel) (v : Dev) : (setChisel i x v).timers = v.timers := rfl
@[simp] theorem setChisel_scrubbed (i : Nat) (x : Chisel) (v : Dev) : (setChisel i x v).scrubbed = v.scrubbed := rfl

/-! ### setPort -/

@[simp] theorem setPort_power (p : Nat) (x : Port) (v : Dev) : (setPort p x v).power = v.power := rfl
@[simp] theorem setPort_arm (p : Nat) (x : Port) (v : Dev) : (setPort p x v).arm = v.arm := rfl
@[simp] theorem setPort_blk (p : Nat) (x : Port) (v : Dev) : (setPort p x v).blk = v.blk := rfl
@[simp] theorem setPort_pace (p : Nat) (x : Port) (v : Dev) : (setPort p x v).pace = v.pace := rfl
@[simp] theorem setPort_sns (p : Nat) (x : Port) (v : Dev) : (setPort p x v).sns = v.sns := rfl
@[simp] theorem setPort_cxl (p : Nat) (x : Port) (v : Dev) : (setPort p x v).cxl = v.cxl := rfl
@[simp] theorem setPort_arbRegs (p : Nat) (x : Port) (v : Dev) : (setPort p x v).arbRegs = v.arbRegs := rfl
@[simp] theorem setPort_arbs (p : Nat) (x : Port) (v : Dev) : (setPort p x v).arbs = v.arbs := rfl
@[simp] theorem setPort_chans (p : Nat) (x : Port) (v : Dev) : (setPort p x v).chans = v.chans := rfl
@[simp] theorem setPort_ctxs (p : Nat) (x : Port) (v : Dev) : (setPort p x v).ctxs = v.ctxs := rfl
@[simp] theorem setPort_rings (p : Nat) (x : Port) (v : Dev) : (setPort p x v).rings = v.rings := rfl
@[simp] theorem setPort_dbLines (p : Nat) (x : Port) (v : Dev) : (setPort p x v).dbLines = v.dbLines := rfl
@[simp] theorem setPort_attn (p : Nat) (x : Port) (v : Dev) : (setPort p x v).attn = v.attn := rfl
@[simp] theorem setPort_tlb (p : Nat) (x : Port) (v : Dev) : (setPort p x v).tlb = v.tlb := rfl
@[simp] theorem setPort_descs (p : Nat) (x : Port) (v : Dev) : (setPort p x v).descs = v.descs := rfl
@[simp] theorem setPort_nextDesc (p : Nat) (x : Port) (v : Dev) : (setPort p x v).nextDesc = v.nextDesc := rfl
@[simp] theorem setPort_engines (p : Nat) (x : Port) (v : Dev) : (setPort p x v).engines = v.engines := rfl
@[simp] theorem setPort_chisels (p : Nat) (x : Port) (v : Dev) : (setPort p x v).chisels = v.chisels := rfl
@[simp] theorem setPort_stab (p : Nat) (x : Port) (v : Dev) : (setPort p x v).stab = v.stab := rfl
@[simp] theorem setPort_stabWaits (p : Nat) (x : Port) (v : Dev) : (setPort p x v).stabWaits = v.stabWaits := rfl
@[simp] theorem setPort_fenced (p : Nat) (x : Port) (v : Dev) : (setPort p x v).fenced = v.fenced := rfl
@[simp] theorem setPort_ue (p : Nat) (x : Port) (v : Dev) : (setPort p x v).ue = v.ue := rfl
@[simp] theorem setPort_ueTimes (p : Nat) (x : Port) (v : Dev) : (setPort p x v).ueTimes = v.ueTimes := rfl
@[simp] theorem setPort_stackFault (p : Nat) (x : Port) (v : Dev) : (setPort p x v).stackFault = v.stackFault := rfl
@[simp] theorem setPort_retired (p : Nat) (x : Port) (v : Dev) : (setPort p x v).retired = v.retired := rfl
@[simp] theorem setPort_ports (p : Nat) (x : Port) (v : Dev) : (setPort p x v).ports = tabPut {} v.ports p x := rfl
@[simp] theorem setPort_fab (p : Nat) (x : Port) (v : Dev) : (setPort p x v).fab = v.fab := rfl
@[simp] theorem setPort_members (p : Nat) (x : Port) (v : Dev) : (setPort p x v).members = v.members := rfl
@[simp] theorem setPort_groups (p : Nat) (x : Port) (v : Dev) : (setPort p x v).groups = v.groups := rfl
@[simp] theorem setPort_routes (p : Nat) (x : Port) (v : Dev) : (setPort p x v).routes = v.routes := rfl
@[simp] theorem setPort_mould (p : Nat) (x : Port) (v : Dev) : (setPort p x v).mould = v.mould := rfl
@[simp] theorem setPort_ctr (p : Nat) (x : Port) (v : Dev) : (setPort p x v).ctr = v.ctr := rfl
@[simp] theorem setPort_trc (p : Nat) (x : Port) (v : Dev) : (setPort p x v).trc = v.trc := rfl
@[simp] theorem setPort_mgmt (p : Nat) (x : Port) (v : Dev) : (setPort p x v).mgmt = v.mgmt := rfl
@[simp] theorem setPort_torn (p : Nat) (x : Port) (v : Dev) : (setPort p x v).torn = v.torn := rfl
@[simp] theorem setPort_out (p : Nat) (x : Port) (v : Dev) : (setPort p x v).out = v.out := rfl
@[simp] theorem setPort_free (p : Nat) (x : Port) (v : Dev) : (setPort p x v).free = v.free := rfl
@[simp] theorem setPort_timers (p : Nat) (x : Port) (v : Dev) : (setPort p x v).timers = v.timers := rfl
@[simp] theorem setPort_scrubbed (p : Nat) (x : Port) (v : Dev) : (setPort p x v).scrubbed = v.scrubbed := rfl

/-! ### setMember -/

@[simp] theorem setMember_power (n : Nat) (x : Member) (v : Dev) : (setMember n x v).power = v.power := rfl
@[simp] theorem setMember_arm (n : Nat) (x : Member) (v : Dev) : (setMember n x v).arm = v.arm := rfl
@[simp] theorem setMember_blk (n : Nat) (x : Member) (v : Dev) : (setMember n x v).blk = v.blk := rfl
@[simp] theorem setMember_pace (n : Nat) (x : Member) (v : Dev) : (setMember n x v).pace = v.pace := rfl
@[simp] theorem setMember_sns (n : Nat) (x : Member) (v : Dev) : (setMember n x v).sns = v.sns := rfl
@[simp] theorem setMember_cxl (n : Nat) (x : Member) (v : Dev) : (setMember n x v).cxl = v.cxl := rfl
@[simp] theorem setMember_arbRegs (n : Nat) (x : Member) (v : Dev) : (setMember n x v).arbRegs = v.arbRegs := rfl
@[simp] theorem setMember_arbs (n : Nat) (x : Member) (v : Dev) : (setMember n x v).arbs = v.arbs := rfl
@[simp] theorem setMember_chans (n : Nat) (x : Member) (v : Dev) : (setMember n x v).chans = v.chans := rfl
@[simp] theorem setMember_ctxs (n : Nat) (x : Member) (v : Dev) : (setMember n x v).ctxs = v.ctxs := rfl
@[simp] theorem setMember_rings (n : Nat) (x : Member) (v : Dev) : (setMember n x v).rings = v.rings := rfl
@[simp] theorem setMember_dbLines (n : Nat) (x : Member) (v : Dev) : (setMember n x v).dbLines = v.dbLines := rfl
@[simp] theorem setMember_attn (n : Nat) (x : Member) (v : Dev) : (setMember n x v).attn = v.attn := rfl
@[simp] theorem setMember_tlb (n : Nat) (x : Member) (v : Dev) : (setMember n x v).tlb = v.tlb := rfl
@[simp] theorem setMember_descs (n : Nat) (x : Member) (v : Dev) : (setMember n x v).descs = v.descs := rfl
@[simp] theorem setMember_nextDesc (n : Nat) (x : Member) (v : Dev) : (setMember n x v).nextDesc = v.nextDesc := rfl
@[simp] theorem setMember_engines (n : Nat) (x : Member) (v : Dev) : (setMember n x v).engines = v.engines := rfl
@[simp] theorem setMember_chisels (n : Nat) (x : Member) (v : Dev) : (setMember n x v).chisels = v.chisels := rfl
@[simp] theorem setMember_stab (n : Nat) (x : Member) (v : Dev) : (setMember n x v).stab = v.stab := rfl
@[simp] theorem setMember_stabWaits (n : Nat) (x : Member) (v : Dev) : (setMember n x v).stabWaits = v.stabWaits := rfl
@[simp] theorem setMember_fenced (n : Nat) (x : Member) (v : Dev) : (setMember n x v).fenced = v.fenced := rfl
@[simp] theorem setMember_ue (n : Nat) (x : Member) (v : Dev) : (setMember n x v).ue = v.ue := rfl
@[simp] theorem setMember_ueTimes (n : Nat) (x : Member) (v : Dev) : (setMember n x v).ueTimes = v.ueTimes := rfl
@[simp] theorem setMember_stackFault (n : Nat) (x : Member) (v : Dev) : (setMember n x v).stackFault = v.stackFault := rfl
@[simp] theorem setMember_retired (n : Nat) (x : Member) (v : Dev) : (setMember n x v).retired = v.retired := rfl
@[simp] theorem setMember_ports (n : Nat) (x : Member) (v : Dev) : (setMember n x v).ports = v.ports := rfl
@[simp] theorem setMember_fab (n : Nat) (x : Member) (v : Dev) : (setMember n x v).fab = v.fab := rfl
@[simp] theorem setMember_members (n : Nat) (x : Member) (v : Dev) : (setMember n x v).members = tabPut {} v.members n x := rfl
@[simp] theorem setMember_groups (n : Nat) (x : Member) (v : Dev) : (setMember n x v).groups = v.groups := rfl
@[simp] theorem setMember_routes (n : Nat) (x : Member) (v : Dev) : (setMember n x v).routes = v.routes := rfl
@[simp] theorem setMember_mould (n : Nat) (x : Member) (v : Dev) : (setMember n x v).mould = v.mould := rfl
@[simp] theorem setMember_ctr (n : Nat) (x : Member) (v : Dev) : (setMember n x v).ctr = v.ctr := rfl
@[simp] theorem setMember_trc (n : Nat) (x : Member) (v : Dev) : (setMember n x v).trc = v.trc := rfl
@[simp] theorem setMember_mgmt (n : Nat) (x : Member) (v : Dev) : (setMember n x v).mgmt = v.mgmt := rfl
@[simp] theorem setMember_torn (n : Nat) (x : Member) (v : Dev) : (setMember n x v).torn = v.torn := rfl
@[simp] theorem setMember_out (n : Nat) (x : Member) (v : Dev) : (setMember n x v).out = v.out := rfl
@[simp] theorem setMember_free (n : Nat) (x : Member) (v : Dev) : (setMember n x v).free = v.free := rfl
@[simp] theorem setMember_timers (n : Nat) (x : Member) (v : Dev) : (setMember n x v).timers = v.timers := rfl
@[simp] theorem setMember_scrubbed (n : Nat) (x : Member) (v : Dev) : (setMember n x v).scrubbed = v.scrubbed := rfl

/-! ### setGroup -/

@[simp] theorem setGroup_power (g : Nat) (x : Group) (v : Dev) : (setGroup g x v).power = v.power := rfl
@[simp] theorem setGroup_arm (g : Nat) (x : Group) (v : Dev) : (setGroup g x v).arm = v.arm := rfl
@[simp] theorem setGroup_blk (g : Nat) (x : Group) (v : Dev) : (setGroup g x v).blk = v.blk := rfl
@[simp] theorem setGroup_pace (g : Nat) (x : Group) (v : Dev) : (setGroup g x v).pace = v.pace := rfl
@[simp] theorem setGroup_sns (g : Nat) (x : Group) (v : Dev) : (setGroup g x v).sns = v.sns := rfl
@[simp] theorem setGroup_cxl (g : Nat) (x : Group) (v : Dev) : (setGroup g x v).cxl = v.cxl := rfl
@[simp] theorem setGroup_arbRegs (g : Nat) (x : Group) (v : Dev) : (setGroup g x v).arbRegs = v.arbRegs := rfl
@[simp] theorem setGroup_arbs (g : Nat) (x : Group) (v : Dev) : (setGroup g x v).arbs = v.arbs := rfl
@[simp] theorem setGroup_chans (g : Nat) (x : Group) (v : Dev) : (setGroup g x v).chans = v.chans := rfl
@[simp] theorem setGroup_ctxs (g : Nat) (x : Group) (v : Dev) : (setGroup g x v).ctxs = v.ctxs := rfl
@[simp] theorem setGroup_rings (g : Nat) (x : Group) (v : Dev) : (setGroup g x v).rings = v.rings := rfl
@[simp] theorem setGroup_dbLines (g : Nat) (x : Group) (v : Dev) : (setGroup g x v).dbLines = v.dbLines := rfl
@[simp] theorem setGroup_attn (g : Nat) (x : Group) (v : Dev) : (setGroup g x v).attn = v.attn := rfl
@[simp] theorem setGroup_tlb (g : Nat) (x : Group) (v : Dev) : (setGroup g x v).tlb = v.tlb := rfl
@[simp] theorem setGroup_descs (g : Nat) (x : Group) (v : Dev) : (setGroup g x v).descs = v.descs := rfl
@[simp] theorem setGroup_nextDesc (g : Nat) (x : Group) (v : Dev) : (setGroup g x v).nextDesc = v.nextDesc := rfl
@[simp] theorem setGroup_engines (g : Nat) (x : Group) (v : Dev) : (setGroup g x v).engines = v.engines := rfl
@[simp] theorem setGroup_chisels (g : Nat) (x : Group) (v : Dev) : (setGroup g x v).chisels = v.chisels := rfl
@[simp] theorem setGroup_stab (g : Nat) (x : Group) (v : Dev) : (setGroup g x v).stab = v.stab := rfl
@[simp] theorem setGroup_stabWaits (g : Nat) (x : Group) (v : Dev) : (setGroup g x v).stabWaits = v.stabWaits := rfl
@[simp] theorem setGroup_fenced (g : Nat) (x : Group) (v : Dev) : (setGroup g x v).fenced = v.fenced := rfl
@[simp] theorem setGroup_ue (g : Nat) (x : Group) (v : Dev) : (setGroup g x v).ue = v.ue := rfl
@[simp] theorem setGroup_ueTimes (g : Nat) (x : Group) (v : Dev) : (setGroup g x v).ueTimes = v.ueTimes := rfl
@[simp] theorem setGroup_stackFault (g : Nat) (x : Group) (v : Dev) : (setGroup g x v).stackFault = v.stackFault := rfl
@[simp] theorem setGroup_retired (g : Nat) (x : Group) (v : Dev) : (setGroup g x v).retired = v.retired := rfl
@[simp] theorem setGroup_ports (g : Nat) (x : Group) (v : Dev) : (setGroup g x v).ports = v.ports := rfl
@[simp] theorem setGroup_fab (g : Nat) (x : Group) (v : Dev) : (setGroup g x v).fab = v.fab := rfl
@[simp] theorem setGroup_members (g : Nat) (x : Group) (v : Dev) : (setGroup g x v).members = v.members := rfl
@[simp] theorem setGroup_groups (g : Nat) (x : Group) (v : Dev) : (setGroup g x v).groups = tabPut {} v.groups g x := rfl
@[simp] theorem setGroup_routes (g : Nat) (x : Group) (v : Dev) : (setGroup g x v).routes = v.routes := rfl
@[simp] theorem setGroup_mould (g : Nat) (x : Group) (v : Dev) : (setGroup g x v).mould = v.mould := rfl
@[simp] theorem setGroup_ctr (g : Nat) (x : Group) (v : Dev) : (setGroup g x v).ctr = v.ctr := rfl
@[simp] theorem setGroup_trc (g : Nat) (x : Group) (v : Dev) : (setGroup g x v).trc = v.trc := rfl
@[simp] theorem setGroup_mgmt (g : Nat) (x : Group) (v : Dev) : (setGroup g x v).mgmt = v.mgmt := rfl
@[simp] theorem setGroup_torn (g : Nat) (x : Group) (v : Dev) : (setGroup g x v).torn = v.torn := rfl
@[simp] theorem setGroup_out (g : Nat) (x : Group) (v : Dev) : (setGroup g x v).out = v.out := rfl
@[simp] theorem setGroup_free (g : Nat) (x : Group) (v : Dev) : (setGroup g x v).free = v.free := rfl
@[simp] theorem setGroup_timers (g : Nat) (x : Group) (v : Dev) : (setGroup g x v).timers = v.timers := rfl
@[simp] theorem setGroup_scrubbed (g : Nat) (x : Group) (v : Dev) : (setGroup g x v).scrubbed = v.scrubbed := rfl

/-! ### setArb -/

@[simp] theorem setArb_power (i : Nat) (x : ArbInst) (v : Dev) : (setArb i x v).power = v.power := rfl
@[simp] theorem setArb_arm (i : Nat) (x : ArbInst) (v : Dev) : (setArb i x v).arm = v.arm := rfl
@[simp] theorem setArb_blk (i : Nat) (x : ArbInst) (v : Dev) : (setArb i x v).blk = v.blk := rfl
@[simp] theorem setArb_pace (i : Nat) (x : ArbInst) (v : Dev) : (setArb i x v).pace = v.pace := rfl
@[simp] theorem setArb_sns (i : Nat) (x : ArbInst) (v : Dev) : (setArb i x v).sns = v.sns := rfl
@[simp] theorem setArb_cxl (i : Nat) (x : ArbInst) (v : Dev) : (setArb i x v).cxl = v.cxl := rfl
@[simp] theorem setArb_arbRegs (i : Nat) (x : ArbInst) (v : Dev) : (setArb i x v).arbRegs = v.arbRegs := rfl
@[simp] theorem setArb_arbs (i : Nat) (x : ArbInst) (v : Dev) : (setArb i x v).arbs = tabPut {} v.arbs i x := rfl
@[simp] theorem setArb_chans (i : Nat) (x : ArbInst) (v : Dev) : (setArb i x v).chans = v.chans := rfl
@[simp] theorem setArb_ctxs (i : Nat) (x : ArbInst) (v : Dev) : (setArb i x v).ctxs = v.ctxs := rfl
@[simp] theorem setArb_rings (i : Nat) (x : ArbInst) (v : Dev) : (setArb i x v).rings = v.rings := rfl
@[simp] theorem setArb_dbLines (i : Nat) (x : ArbInst) (v : Dev) : (setArb i x v).dbLines = v.dbLines := rfl
@[simp] theorem setArb_attn (i : Nat) (x : ArbInst) (v : Dev) : (setArb i x v).attn = v.attn := rfl
@[simp] theorem setArb_tlb (i : Nat) (x : ArbInst) (v : Dev) : (setArb i x v).tlb = v.tlb := rfl
@[simp] theorem setArb_descs (i : Nat) (x : ArbInst) (v : Dev) : (setArb i x v).descs = v.descs := rfl
@[simp] theorem setArb_nextDesc (i : Nat) (x : ArbInst) (v : Dev) : (setArb i x v).nextDesc = v.nextDesc := rfl
@[simp] theorem setArb_engines (i : Nat) (x : ArbInst) (v : Dev) : (setArb i x v).engines = v.engines := rfl
@[simp] theorem setArb_chisels (i : Nat) (x : ArbInst) (v : Dev) : (setArb i x v).chisels = v.chisels := rfl
@[simp] theorem setArb_stab (i : Nat) (x : ArbInst) (v : Dev) : (setArb i x v).stab = v.stab := rfl
@[simp] theorem setArb_stabWaits (i : Nat) (x : ArbInst) (v : Dev) : (setArb i x v).stabWaits = v.stabWaits := rfl
@[simp] theorem setArb_fenced (i : Nat) (x : ArbInst) (v : Dev) : (setArb i x v).fenced = v.fenced := rfl
@[simp] theorem setArb_ue (i : Nat) (x : ArbInst) (v : Dev) : (setArb i x v).ue = v.ue := rfl
@[simp] theorem setArb_ueTimes (i : Nat) (x : ArbInst) (v : Dev) : (setArb i x v).ueTimes = v.ueTimes := rfl
@[simp] theorem setArb_stackFault (i : Nat) (x : ArbInst) (v : Dev) : (setArb i x v).stackFault = v.stackFault := rfl
@[simp] theorem setArb_retired (i : Nat) (x : ArbInst) (v : Dev) : (setArb i x v).retired = v.retired := rfl
@[simp] theorem setArb_ports (i : Nat) (x : ArbInst) (v : Dev) : (setArb i x v).ports = v.ports := rfl
@[simp] theorem setArb_fab (i : Nat) (x : ArbInst) (v : Dev) : (setArb i x v).fab = v.fab := rfl
@[simp] theorem setArb_members (i : Nat) (x : ArbInst) (v : Dev) : (setArb i x v).members = v.members := rfl
@[simp] theorem setArb_groups (i : Nat) (x : ArbInst) (v : Dev) : (setArb i x v).groups = v.groups := rfl
@[simp] theorem setArb_routes (i : Nat) (x : ArbInst) (v : Dev) : (setArb i x v).routes = v.routes := rfl
@[simp] theorem setArb_mould (i : Nat) (x : ArbInst) (v : Dev) : (setArb i x v).mould = v.mould := rfl
@[simp] theorem setArb_ctr (i : Nat) (x : ArbInst) (v : Dev) : (setArb i x v).ctr = v.ctr := rfl
@[simp] theorem setArb_trc (i : Nat) (x : ArbInst) (v : Dev) : (setArb i x v).trc = v.trc := rfl
@[simp] theorem setArb_mgmt (i : Nat) (x : ArbInst) (v : Dev) : (setArb i x v).mgmt = v.mgmt := rfl
@[simp] theorem setArb_torn (i : Nat) (x : ArbInst) (v : Dev) : (setArb i x v).torn = v.torn := rfl
@[simp] theorem setArb_out (i : Nat) (x : ArbInst) (v : Dev) : (setArb i x v).out = v.out := rfl
@[simp] theorem setArb_free (i : Nat) (x : ArbInst) (v : Dev) : (setArb i x v).free = v.free := rfl
@[simp] theorem setArb_timers (i : Nat) (x : ArbInst) (v : Dev) : (setArb i x v).timers = v.timers := rfl
@[simp] theorem setArb_scrubbed (i : Nat) (x : ArbInst) (v : Dev) : (setArb i x v).scrubbed = v.scrubbed := rfl

/-! ### setChan -/

@[simp] theorem setChan_power (i : Nat) (x : DramChan) (v : Dev) : (setChan i x v).power = v.power := rfl
@[simp] theorem setChan_arm (i : Nat) (x : DramChan) (v : Dev) : (setChan i x v).arm = v.arm := rfl
@[simp] theorem setChan_blk (i : Nat) (x : DramChan) (v : Dev) : (setChan i x v).blk = v.blk := rfl
@[simp] theorem setChan_pace (i : Nat) (x : DramChan) (v : Dev) : (setChan i x v).pace = v.pace := rfl
@[simp] theorem setChan_sns (i : Nat) (x : DramChan) (v : Dev) : (setChan i x v).sns = v.sns := rfl
@[simp] theorem setChan_cxl (i : Nat) (x : DramChan) (v : Dev) : (setChan i x v).cxl = v.cxl := rfl
@[simp] theorem setChan_arbRegs (i : Nat) (x : DramChan) (v : Dev) : (setChan i x v).arbRegs = v.arbRegs := rfl
@[simp] theorem setChan_arbs (i : Nat) (x : DramChan) (v : Dev) : (setChan i x v).arbs = v.arbs := rfl
@[simp] theorem setChan_chans (i : Nat) (x : DramChan) (v : Dev) : (setChan i x v).chans = tabPut {} v.chans i x := rfl
@[simp] theorem setChan_ctxs (i : Nat) (x : DramChan) (v : Dev) : (setChan i x v).ctxs = v.ctxs := rfl
@[simp] theorem setChan_rings (i : Nat) (x : DramChan) (v : Dev) : (setChan i x v).rings = v.rings := rfl
@[simp] theorem setChan_dbLines (i : Nat) (x : DramChan) (v : Dev) : (setChan i x v).dbLines = v.dbLines := rfl
@[simp] theorem setChan_attn (i : Nat) (x : DramChan) (v : Dev) : (setChan i x v).attn = v.attn := rfl
@[simp] theorem setChan_tlb (i : Nat) (x : DramChan) (v : Dev) : (setChan i x v).tlb = v.tlb := rfl
@[simp] theorem setChan_descs (i : Nat) (x : DramChan) (v : Dev) : (setChan i x v).descs = v.descs := rfl
@[simp] theorem setChan_nextDesc (i : Nat) (x : DramChan) (v : Dev) : (setChan i x v).nextDesc = v.nextDesc := rfl
@[simp] theorem setChan_engines (i : Nat) (x : DramChan) (v : Dev) : (setChan i x v).engines = v.engines := rfl
@[simp] theorem setChan_chisels (i : Nat) (x : DramChan) (v : Dev) : (setChan i x v).chisels = v.chisels := rfl
@[simp] theorem setChan_stab (i : Nat) (x : DramChan) (v : Dev) : (setChan i x v).stab = v.stab := rfl
@[simp] theorem setChan_stabWaits (i : Nat) (x : DramChan) (v : Dev) : (setChan i x v).stabWaits = v.stabWaits := rfl
@[simp] theorem setChan_fenced (i : Nat) (x : DramChan) (v : Dev) : (setChan i x v).fenced = v.fenced := rfl
@[simp] theorem setChan_ue (i : Nat) (x : DramChan) (v : Dev) : (setChan i x v).ue = v.ue := rfl
@[simp] theorem setChan_ueTimes (i : Nat) (x : DramChan) (v : Dev) : (setChan i x v).ueTimes = v.ueTimes := rfl
@[simp] theorem setChan_stackFault (i : Nat) (x : DramChan) (v : Dev) : (setChan i x v).stackFault = v.stackFault := rfl
@[simp] theorem setChan_retired (i : Nat) (x : DramChan) (v : Dev) : (setChan i x v).retired = v.retired := rfl
@[simp] theorem setChan_ports (i : Nat) (x : DramChan) (v : Dev) : (setChan i x v).ports = v.ports := rfl
@[simp] theorem setChan_fab (i : Nat) (x : DramChan) (v : Dev) : (setChan i x v).fab = v.fab := rfl
@[simp] theorem setChan_members (i : Nat) (x : DramChan) (v : Dev) : (setChan i x v).members = v.members := rfl
@[simp] theorem setChan_groups (i : Nat) (x : DramChan) (v : Dev) : (setChan i x v).groups = v.groups := rfl
@[simp] theorem setChan_routes (i : Nat) (x : DramChan) (v : Dev) : (setChan i x v).routes = v.routes := rfl
@[simp] theorem setChan_mould (i : Nat) (x : DramChan) (v : Dev) : (setChan i x v).mould = v.mould := rfl
@[simp] theorem setChan_ctr (i : Nat) (x : DramChan) (v : Dev) : (setChan i x v).ctr = v.ctr := rfl
@[simp] theorem setChan_trc (i : Nat) (x : DramChan) (v : Dev) : (setChan i x v).trc = v.trc := rfl
@[simp] theorem setChan_mgmt (i : Nat) (x : DramChan) (v : Dev) : (setChan i x v).mgmt = v.mgmt := rfl
@[simp] theorem setChan_torn (i : Nat) (x : DramChan) (v : Dev) : (setChan i x v).torn = v.torn := rfl
@[simp] theorem setChan_out (i : Nat) (x : DramChan) (v : Dev) : (setChan i x v).out = v.out := rfl
@[simp] theorem setChan_free (i : Nat) (x : DramChan) (v : Dev) : (setChan i x v).free = v.free := rfl
@[simp] theorem setChan_timers (i : Nat) (x : DramChan) (v : Dev) : (setChan i x v).timers = v.timers := rfl
@[simp] theorem setChan_scrubbed (i : Nat) (x : DramChan) (v : Dev) : (setChan i x v).scrubbed = v.scrubbed := rfl

/-! ### setPair -/

@[simp] theorem setPair_power (k : Nat) (x : Pair) (v : Dev) : (setPair k x v).power = v.power := rfl
@[simp] theorem setPair_arm (k : Nat) (x : Pair) (v : Dev) : (setPair k x v).arm = v.arm := rfl
@[simp] theorem setPair_blk (k : Nat) (x : Pair) (v : Dev) : (setPair k x v).blk = v.blk := rfl
@[simp] theorem setPair_pace (k : Nat) (x : Pair) (v : Dev) : (setPair k x v).pace = v.pace := rfl
@[simp] theorem setPair_sns (k : Nat) (x : Pair) (v : Dev) : (setPair k x v).sns = v.sns := rfl
@[simp] theorem setPair_cxl (k : Nat) (x : Pair) (v : Dev) : (setPair k x v).cxl = v.cxl := rfl
@[simp] theorem setPair_arbRegs (k : Nat) (x : Pair) (v : Dev) : (setPair k x v).arbRegs = v.arbRegs := rfl
@[simp] theorem setPair_arbs (k : Nat) (x : Pair) (v : Dev) : (setPair k x v).arbs = v.arbs := rfl
@[simp] theorem setPair_chans (k : Nat) (x : Pair) (v : Dev) : (setPair k x v).chans = v.chans := rfl
@[simp] theorem setPair_ctxs (k : Nat) (x : Pair) (v : Dev) : (setPair k x v).ctxs = v.ctxs := rfl
@[simp] theorem setPair_rings (k : Nat) (x : Pair) (v : Dev) : (setPair k x v).rings = v.rings := rfl
@[simp] theorem setPair_dbLines (k : Nat) (x : Pair) (v : Dev) : (setPair k x v).dbLines = v.dbLines := rfl
@[simp] theorem setPair_attn (k : Nat) (x : Pair) (v : Dev) : (setPair k x v).attn = v.attn := rfl
@[simp] theorem setPair_tlb (k : Nat) (x : Pair) (v : Dev) : (setPair k x v).tlb = v.tlb := rfl
@[simp] theorem setPair_descs (k : Nat) (x : Pair) (v : Dev) : (setPair k x v).descs = v.descs := rfl
@[simp] theorem setPair_nextDesc (k : Nat) (x : Pair) (v : Dev) : (setPair k x v).nextDesc = v.nextDesc := rfl
@[simp] theorem setPair_engines (k : Nat) (x : Pair) (v : Dev) : (setPair k x v).engines = v.engines := rfl
@[simp] theorem setPair_chisels (k : Nat) (x : Pair) (v : Dev) : (setPair k x v).chisels = v.chisels := rfl
@[simp] theorem setPair_stab (k : Nat) (x : Pair) (v : Dev) : (setPair k x v).stab = v.stab := rfl
@[simp] theorem setPair_stabWaits (k : Nat) (x : Pair) (v : Dev) : (setPair k x v).stabWaits = v.stabWaits := rfl
@[simp] theorem setPair_fenced (k : Nat) (x : Pair) (v : Dev) : (setPair k x v).fenced = v.fenced := rfl
@[simp] theorem setPair_ue (k : Nat) (x : Pair) (v : Dev) : (setPair k x v).ue = v.ue := rfl
@[simp] theorem setPair_ueTimes (k : Nat) (x : Pair) (v : Dev) : (setPair k x v).ueTimes = v.ueTimes := rfl
@[simp] theorem setPair_stackFault (k : Nat) (x : Pair) (v : Dev) : (setPair k x v).stackFault = v.stackFault := rfl
@[simp] theorem setPair_retired (k : Nat) (x : Pair) (v : Dev) : (setPair k x v).retired = v.retired := rfl
@[simp] theorem setPair_ports (k : Nat) (x : Pair) (v : Dev) : (setPair k x v).ports = v.ports := rfl
@[simp] theorem setPair_fab (k : Nat) (x : Pair) (v : Dev) : (setPair k x v).fab = v.fab := rfl
@[simp] theorem setPair_members (k : Nat) (x : Pair) (v : Dev) : (setPair k x v).members = v.members := rfl
@[simp] theorem setPair_groups (k : Nat) (x : Pair) (v : Dev) : (setPair k x v).groups = v.groups := rfl
@[simp] theorem setPair_routes (k : Nat) (x : Pair) (v : Dev) : (setPair k x v).routes = v.routes := rfl
@[simp] theorem setPair_ctr (k : Nat) (x : Pair) (v : Dev) : (setPair k x v).ctr = v.ctr := rfl
@[simp] theorem setPair_trc (k : Nat) (x : Pair) (v : Dev) : (setPair k x v).trc = v.trc := rfl
@[simp] theorem setPair_mgmt (k : Nat) (x : Pair) (v : Dev) : (setPair k x v).mgmt = v.mgmt := rfl
@[simp] theorem setPair_torn (k : Nat) (x : Pair) (v : Dev) : (setPair k x v).torn = v.torn := rfl
@[simp] theorem setPair_out (k : Nat) (x : Pair) (v : Dev) : (setPair k x v).out = v.out := rfl
@[simp] theorem setPair_free (k : Nat) (x : Pair) (v : Dev) : (setPair k x v).free = v.free := rfl
@[simp] theorem setPair_timers (k : Nat) (x : Pair) (v : Dev) : (setPair k x v).timers = v.timers := rfl
@[simp] theorem setPair_scrubbed (k : Nat) (x : Pair) (v : Dev) : (setPair k x v).scrubbed = v.scrubbed := rfl

/-! ### modDesc -/

@[simp] theorem modDesc_power (d : Nat) (f : Desc → Desc) (v : Dev) : (modDesc d f v).power = v.power := rfl
@[simp] theorem modDesc_arm (d : Nat) (f : Desc → Desc) (v : Dev) : (modDesc d f v).arm = v.arm := rfl
@[simp] theorem modDesc_blk (d : Nat) (f : Desc → Desc) (v : Dev) : (modDesc d f v).blk = v.blk := rfl
@[simp] theorem modDesc_pace (d : Nat) (f : Desc → Desc) (v : Dev) : (modDesc d f v).pace = v.pace := rfl
@[simp] theorem modDesc_sns (d : Nat) (f : Desc → Desc) (v : Dev) : (modDesc d f v).sns = v.sns := rfl
@[simp] theorem modDesc_cxl (d : Nat) (f : Desc → Desc) (v : Dev) : (modDesc d f v).cxl = v.cxl := rfl
@[simp] theorem modDesc_arbRegs (d : Nat) (f : Desc → Desc) (v : Dev) : (modDesc d f v).arbRegs = v.arbRegs := rfl
@[simp] theorem modDesc_arbs (d : Nat) (f : Desc → Desc) (v : Dev) : (modDesc d f v).arbs = v.arbs := rfl
@[simp] theorem modDesc_chans (d : Nat) (f : Desc → Desc) (v : Dev) : (modDesc d f v).chans = v.chans := rfl
@[simp] theorem modDesc_ctxs (d : Nat) (f : Desc → Desc) (v : Dev) : (modDesc d f v).ctxs = v.ctxs := rfl
@[simp] theorem modDesc_rings (d : Nat) (f : Desc → Desc) (v : Dev) : (modDesc d f v).rings = v.rings := rfl
@[simp] theorem modDesc_dbLines (d : Nat) (f : Desc → Desc) (v : Dev) : (modDesc d f v).dbLines = v.dbLines := rfl
@[simp] theorem modDesc_attn (d : Nat) (f : Desc → Desc) (v : Dev) : (modDesc d f v).attn = v.attn := rfl
@[simp] theorem modDesc_tlb (d : Nat) (f : Desc → Desc) (v : Dev) : (modDesc d f v).tlb = v.tlb := rfl
@[simp] theorem modDesc_descs (d : Nat) (f : Desc → Desc) (v : Dev) : (modDesc d f v).descs = v.descs.map (fun x => if x.id = d then f x else x) := rfl
@[simp] theorem modDesc_nextDesc (d : Nat) (f : Desc → Desc) (v : Dev) : (modDesc d f v).nextDesc = v.nextDesc := rfl
@[simp] theorem modDesc_engines (d : Nat) (f : Desc → Desc) (v : Dev) : (modDesc d f v).engines = v.engines := rfl
@[simp] theorem modDesc_chisels (d : Nat) (f : Desc → Desc) (v : Dev) : (modDesc d f v).chisels = v.chisels := rfl
@[simp] theorem modDesc_stab (d : Nat) (f : Desc → Desc) (v : Dev) : (modDesc d f v).stab = v.stab := rfl
@[simp] theorem modDesc_stabWaits (d : Nat) (f : Desc → Desc) (v : Dev) : (modDesc d f v).stabWaits = v.stabWaits := rfl
@[simp] theorem modDesc_fenced (d : Nat) (f : Desc → Desc) (v : Dev) : (modDesc d f v).fenced = v.fenced := rfl
@[simp] theorem modDesc_ue (d : Nat) (f : Desc → Desc) (v : Dev) : (modDesc d f v).ue = v.ue := rfl
@[simp] theorem modDesc_ueTimes (d : Nat) (f : Desc → Desc) (v : Dev) : (modDesc d f v).ueTimes = v.ueTimes := rfl
@[simp] theorem modDesc_stackFault (d : Nat) (f : Desc → Desc) (v : Dev) : (modDesc d f v).stackFault = v.stackFault := rfl
@[simp] theorem modDesc_retired (d : Nat) (f : Desc → Desc) (v : Dev) : (modDesc d f v).retired = v.retired := rfl
@[simp] theorem modDesc_ports (d : Nat) (f : Desc → Desc) (v : Dev) : (modDesc d f v).ports = v.ports := rfl
@[simp] theorem modDesc_fab (d : Nat) (f : Desc → Desc) (v : Dev) : (modDesc d f v).fab = v.fab := rfl
@[simp] theorem modDesc_members (d : Nat) (f : Desc → Desc) (v : Dev) : (modDesc d f v).members = v.members := rfl
@[simp] theorem modDesc_groups (d : Nat) (f : Desc → Desc) (v : Dev) : (modDesc d f v).groups = v.groups := rfl
@[simp] theorem modDesc_routes (d : Nat) (f : Desc → Desc) (v : Dev) : (modDesc d f v).routes = v.routes := rfl
@[simp] theorem modDesc_mould (d : Nat) (f : Desc → Desc) (v : Dev) : (modDesc d f v).mould = v.mould := rfl
@[simp] theorem modDesc_ctr (d : Nat) (f : Desc → Desc) (v : Dev) : (modDesc d f v).ctr = v.ctr := rfl
@[simp] theorem modDesc_trc (d : Nat) (f : Desc → Desc) (v : Dev) : (modDesc d f v).trc = v.trc := rfl
@[simp] theorem modDesc_mgmt (d : Nat) (f : Desc → Desc) (v : Dev) : (modDesc d f v).mgmt = v.mgmt := rfl
@[simp] theorem modDesc_torn (d : Nat) (f : Desc → Desc) (v : Dev) : (modDesc d f v).torn = v.torn := rfl
@[simp] theorem modDesc_out (d : Nat) (f : Desc → Desc) (v : Dev) : (modDesc d f v).out = v.out := rfl
@[simp] theorem modDesc_free (d : Nat) (f : Desc → Desc) (v : Dev) : (modDesc d f v).free = v.free := rfl
@[simp] theorem modDesc_timers (d : Nat) (f : Desc → Desc) (v : Dev) : (modDesc d f v).timers = v.timers := rfl
@[simp] theorem modDesc_scrubbed (d : Nat) (f : Desc → Desc) (v : Dev) : (modDesc d f v).scrubbed = v.scrubbed := rfl

/-! ### modPart -/

@[simp] theorem modPart_power (d p : Nat) (f : Part → Part) (v : Dev) : (modPart d p f v).power = v.power := rfl
@[simp] theorem modPart_arm (d p : Nat) (f : Part → Part) (v : Dev) : (modPart d p f v).arm = v.arm := rfl
@[simp] theorem modPart_blk (d p : Nat) (f : Part → Part) (v : Dev) : (modPart d p f v).blk = v.blk := rfl
@[simp] theorem modPart_pace (d p : Nat) (f : Part → Part) (v : Dev) : (modPart d p f v).pace = v.pace := rfl
@[simp] theorem modPart_sns (d p : Nat) (f : Part → Part) (v : Dev) : (modPart d p f v).sns = v.sns := rfl
@[simp] theorem modPart_cxl (d p : Nat) (f : Part → Part) (v : Dev) : (modPart d p f v).cxl = v.cxl := rfl
@[simp] theorem modPart_arbRegs (d p : Nat) (f : Part → Part) (v : Dev) : (modPart d p f v).arbRegs = v.arbRegs := rfl
@[simp] theorem modPart_arbs (d p : Nat) (f : Part → Part) (v : Dev) : (modPart d p f v).arbs = v.arbs := rfl
@[simp] theorem modPart_chans (d p : Nat) (f : Part → Part) (v : Dev) : (modPart d p f v).chans = v.chans := rfl
@[simp] theorem modPart_ctxs (d p : Nat) (f : Part → Part) (v : Dev) : (modPart d p f v).ctxs = v.ctxs := rfl
@[simp] theorem modPart_rings (d p : Nat) (f : Part → Part) (v : Dev) : (modPart d p f v).rings = v.rings := rfl
@[simp] theorem modPart_dbLines (d p : Nat) (f : Part → Part) (v : Dev) : (modPart d p f v).dbLines = v.dbLines := rfl
@[simp] theorem modPart_attn (d p : Nat) (f : Part → Part) (v : Dev) : (modPart d p f v).attn = v.attn := rfl
@[simp] theorem modPart_tlb (d p : Nat) (f : Part → Part) (v : Dev) : (modPart d p f v).tlb = v.tlb := rfl
@[simp] theorem modPart_nextDesc (d p : Nat) (f : Part → Part) (v : Dev) : (modPart d p f v).nextDesc = v.nextDesc := rfl
@[simp] theorem modPart_engines (d p : Nat) (f : Part → Part) (v : Dev) : (modPart d p f v).engines = v.engines := rfl
@[simp] theorem modPart_chisels (d p : Nat) (f : Part → Part) (v : Dev) : (modPart d p f v).chisels = v.chisels := rfl
@[simp] theorem modPart_stab (d p : Nat) (f : Part → Part) (v : Dev) : (modPart d p f v).stab = v.stab := rfl
@[simp] theorem modPart_stabWaits (d p : Nat) (f : Part → Part) (v : Dev) : (modPart d p f v).stabWaits = v.stabWaits := rfl
@[simp] theorem modPart_fenced (d p : Nat) (f : Part → Part) (v : Dev) : (modPart d p f v).fenced = v.fenced := rfl
@[simp] theorem modPart_ue (d p : Nat) (f : Part → Part) (v : Dev) : (modPart d p f v).ue = v.ue := rfl
@[simp] theorem modPart_ueTimes (d p : Nat) (f : Part → Part) (v : Dev) : (modPart d p f v).ueTimes = v.ueTimes := rfl
@[simp] theorem modPart_stackFault (d p : Nat) (f : Part → Part) (v : Dev) : (modPart d p f v).stackFault = v.stackFault := rfl
@[simp] theorem modPart_retired (d p : Nat) (f : Part → Part) (v : Dev) : (modPart d p f v).retired = v.retired := rfl
@[simp] theorem modPart_ports (d p : Nat) (f : Part → Part) (v : Dev) : (modPart d p f v).ports = v.ports := rfl
@[simp] theorem modPart_fab (d p : Nat) (f : Part → Part) (v : Dev) : (modPart d p f v).fab = v.fab := rfl
@[simp] theorem modPart_members (d p : Nat) (f : Part → Part) (v : Dev) : (modPart d p f v).members = v.members := rfl
@[simp] theorem modPart_groups (d p : Nat) (f : Part → Part) (v : Dev) : (modPart d p f v).groups = v.groups := rfl
@[simp] theorem modPart_routes (d p : Nat) (f : Part → Part) (v : Dev) : (modPart d p f v).routes = v.routes := rfl
@[simp] theorem modPart_mould (d p : Nat) (f : Part → Part) (v : Dev) : (modPart d p f v).mould = v.mould := rfl
@[simp] theorem modPart_ctr (d p : Nat) (f : Part → Part) (v : Dev) : (modPart d p f v).ctr = v.ctr := rfl
@[simp] theorem modPart_trc (d p : Nat) (f : Part → Part) (v : Dev) : (modPart d p f v).trc = v.trc := rfl
@[simp] theorem modPart_mgmt (d p : Nat) (f : Part → Part) (v : Dev) : (modPart d p f v).mgmt = v.mgmt := rfl
@[simp] theorem modPart_torn (d p : Nat) (f : Part → Part) (v : Dev) : (modPart d p f v).torn = v.torn := rfl
@[simp] theorem modPart_out (d p : Nat) (f : Part → Part) (v : Dev) : (modPart d p f v).out = v.out := rfl
@[simp] theorem modPart_free (d p : Nat) (f : Part → Part) (v : Dev) : (modPart d p f v).free = v.free := rfl
@[simp] theorem modPart_timers (d p : Nat) (f : Part → Part) (v : Dev) : (modPart d p f v).timers = v.timers := rfl
@[simp] theorem modPart_scrubbed (d p : Nat) (f : Part → Part) (v : Dev) : (modPart d p f v).scrubbed = v.scrubbed := rfl

/-! ### emit -/

@[simp] theorem emit_power (o : Out) (v : Dev) : (emit o v).power = v.power := rfl
@[simp] theorem emit_arm (o : Out) (v : Dev) : (emit o v).arm = v.arm := rfl
@[simp] theorem emit_blk (o : Out) (v : Dev) : (emit o v).blk = v.blk := rfl
@[simp] theorem emit_pace (o : Out) (v : Dev) : (emit o v).pace = v.pace := rfl
@[simp] theorem emit_sns (o : Out) (v : Dev) : (emit o v).sns = v.sns := rfl
@[simp] theorem emit_cxl (o : Out) (v : Dev) : (emit o v).cxl = v.cxl := rfl
@[simp] theorem emit_arbRegs (o : Out) (v : Dev) : (emit o v).arbRegs = v.arbRegs := rfl
@[simp] theorem emit_arbs (o : Out) (v : Dev) : (emit o v).arbs = v.arbs := rfl
@[simp] theorem emit_chans (o : Out) (v : Dev) : (emit o v).chans = v.chans := rfl
@[simp] theorem emit_ctxs (o : Out) (v : Dev) : (emit o v).ctxs = v.ctxs := rfl
@[simp] theorem emit_rings (o : Out) (v : Dev) : (emit o v).rings = v.rings := rfl
@[simp] theorem emit_dbLines (o : Out) (v : Dev) : (emit o v).dbLines = v.dbLines := rfl
@[simp] theorem emit_attn (o : Out) (v : Dev) : (emit o v).attn = v.attn := rfl
@[simp] theorem emit_tlb (o : Out) (v : Dev) : (emit o v).tlb = v.tlb := rfl
@[simp] theorem emit_descs (o : Out) (v : Dev) : (emit o v).descs = v.descs := rfl
@[simp] theorem emit_nextDesc (o : Out) (v : Dev) : (emit o v).nextDesc = v.nextDesc := rfl
@[simp] theorem emit_engines (o : Out) (v : Dev) : (emit o v).engines = v.engines := rfl
@[simp] theorem emit_chisels (o : Out) (v : Dev) : (emit o v).chisels = v.chisels := rfl
@[simp] theorem emit_stab (o : Out) (v : Dev) : (emit o v).stab = v.stab := rfl
@[simp] theorem emit_stabWaits (o : Out) (v : Dev) : (emit o v).stabWaits = v.stabWaits := rfl
@[simp] theorem emit_fenced (o : Out) (v : Dev) : (emit o v).fenced = v.fenced := rfl
@[simp] theorem emit_ue (o : Out) (v : Dev) : (emit o v).ue = v.ue := rfl
@[simp] theorem emit_ueTimes (o : Out) (v : Dev) : (emit o v).ueTimes = v.ueTimes := rfl
@[simp] theorem emit_stackFault (o : Out) (v : Dev) : (emit o v).stackFault = v.stackFault := rfl
@[simp] theorem emit_retired (o : Out) (v : Dev) : (emit o v).retired = v.retired := rfl
@[simp] theorem emit_ports (o : Out) (v : Dev) : (emit o v).ports = v.ports := rfl
@[simp] theorem emit_fab (o : Out) (v : Dev) : (emit o v).fab = v.fab := rfl
@[simp] theorem emit_members (o : Out) (v : Dev) : (emit o v).members = v.members := rfl
@[simp] theorem emit_groups (o : Out) (v : Dev) : (emit o v).groups = v.groups := rfl
@[simp] theorem emit_routes (o : Out) (v : Dev) : (emit o v).routes = v.routes := rfl
@[simp] theorem emit_mould (o : Out) (v : Dev) : (emit o v).mould = v.mould := rfl
@[simp] theorem emit_ctr (o : Out) (v : Dev) : (emit o v).ctr = v.ctr := rfl
@[simp] theorem emit_trc (o : Out) (v : Dev) : (emit o v).trc = v.trc := rfl
@[simp] theorem emit_mgmt (o : Out) (v : Dev) : (emit o v).mgmt = v.mgmt := rfl
@[simp] theorem emit_torn (o : Out) (v : Dev) : (emit o v).torn = v.torn := rfl
@[simp] theorem emit_out (o : Out) (v : Dev) : (emit o v).out = v.out ++ [o] := rfl
@[simp] theorem emit_free (o : Out) (v : Dev) : (emit o v).free = v.free := rfl
@[simp] theorem emit_timers (o : Out) (v : Dev) : (emit o v).timers = v.timers := rfl
@[simp] theorem emit_scrubbed (o : Out) (v : Dev) : (emit o v).scrubbed = v.scrubbed := rfl

/-! ### freeNext -/

@[simp] theorem freeNext_power (v : Dev) : (freeNext v).power = v.power := rfl
@[simp] theorem freeNext_arm (v : Dev) : (freeNext v).arm = v.arm := rfl
@[simp] theorem freeNext_blk (v : Dev) : (freeNext v).blk = v.blk := rfl
@[simp] theorem freeNext_pace (v : Dev) : (freeNext v).pace = v.pace := rfl
@[simp] theorem freeNext_sns (v : Dev) : (freeNext v).sns = v.sns := rfl
@[simp] theorem freeNext_cxl (v : Dev) : (freeNext v).cxl = v.cxl := rfl
@[simp] theorem freeNext_arbRegs (v : Dev) : (freeNext v).arbRegs = v.arbRegs := rfl
@[simp] theorem freeNext_arbs (v : Dev) : (freeNext v).arbs = v.arbs := rfl
@[simp] theorem freeNext_chans (v : Dev) : (freeNext v).chans = v.chans := rfl
@[simp] theorem freeNext_ctxs (v : Dev) : (freeNext v).ctxs = v.ctxs := rfl
@[simp] theorem freeNext_rings (v : Dev) : (freeNext v).rings = v.rings := rfl
@[simp] theorem freeNext_dbLines (v : Dev) : (freeNext v).dbLines = v.dbLines := rfl
@[simp] theorem freeNext_attn (v : Dev) : (freeNext v).attn = v.attn := rfl
@[simp] theorem freeNext_tlb (v : Dev) : (freeNext v).tlb = v.tlb := rfl
@[simp] theorem freeNext_descs (v : Dev) : (freeNext v).descs = v.descs := rfl
@[simp] theorem freeNext_nextDesc (v : Dev) : (freeNext v).nextDesc = v.nextDesc := rfl
@[simp] theorem freeNext_engines (v : Dev) : (freeNext v).engines = v.engines := rfl
@[simp] theorem freeNext_chisels (v : Dev) : (freeNext v).chisels = v.chisels := rfl
@[simp] theorem freeNext_stab (v : Dev) : (freeNext v).stab = v.stab := rfl
@[simp] theorem freeNext_stabWaits (v : Dev) : (freeNext v).stabWaits = v.stabWaits := rfl
@[simp] theorem freeNext_fenced (v : Dev) : (freeNext v).fenced = v.fenced := rfl
@[simp] theorem freeNext_ue (v : Dev) : (freeNext v).ue = v.ue := rfl
@[simp] theorem freeNext_ueTimes (v : Dev) : (freeNext v).ueTimes = v.ueTimes := rfl
@[simp] theorem freeNext_stackFault (v : Dev) : (freeNext v).stackFault = v.stackFault := rfl
@[simp] theorem freeNext_retired (v : Dev) : (freeNext v).retired = v.retired := rfl
@[simp] theorem freeNext_ports (v : Dev) : (freeNext v).ports = v.ports := rfl
@[simp] theorem freeNext_fab (v : Dev) : (freeNext v).fab = v.fab := rfl
@[simp] theorem freeNext_members (v : Dev) : (freeNext v).members = v.members := rfl
@[simp] theorem freeNext_groups (v : Dev) : (freeNext v).groups = v.groups := rfl
@[simp] theorem freeNext_routes (v : Dev) : (freeNext v).routes = v.routes := rfl
@[simp] theorem freeNext_mould (v : Dev) : (freeNext v).mould = v.mould := rfl
@[simp] theorem freeNext_ctr (v : Dev) : (freeNext v).ctr = v.ctr := rfl
@[simp] theorem freeNext_trc (v : Dev) : (freeNext v).trc = v.trc := rfl
@[simp] theorem freeNext_mgmt (v : Dev) : (freeNext v).mgmt = v.mgmt := rfl
@[simp] theorem freeNext_torn (v : Dev) : (freeNext v).torn = v.torn := rfl
@[simp] theorem freeNext_out (v : Dev) : (freeNext v).out = v.out := rfl
@[simp] theorem freeNext_free (v : Dev) : (freeNext v).free = v.free + 1 := rfl
@[simp] theorem freeNext_timers (v : Dev) : (freeNext v).timers = v.timers := rfl
@[simp] theorem freeNext_scrubbed (v : Dev) : (freeNext v).scrubbed = v.scrubbed := rfl

/-! ### timerMark -/

@[simp] theorem timerMark_power (k : Nat) (v : Dev) : (timerMark k v).power = v.power := rfl
@[simp] theorem timerMark_arm (k : Nat) (v : Dev) : (timerMark k v).arm = v.arm := rfl
@[simp] theorem timerMark_blk (k : Nat) (v : Dev) : (timerMark k v).blk = v.blk := rfl
@[simp] theorem timerMark_pace (k : Nat) (v : Dev) : (timerMark k v).pace = v.pace := rfl
@[simp] theorem timerMark_sns (k : Nat) (v : Dev) : (timerMark k v).sns = v.sns := rfl
@[simp] theorem timerMark_cxl (k : Nat) (v : Dev) : (timerMark k v).cxl = v.cxl := rfl
@[simp] theorem timerMark_arbRegs (k : Nat) (v : Dev) : (timerMark k v).arbRegs = v.arbRegs := rfl
@[simp] theorem timerMark_arbs (k : Nat) (v : Dev) : (timerMark k v).arbs = v.arbs := rfl
@[simp] theorem timerMark_chans (k : Nat) (v : Dev) : (timerMark k v).chans = v.chans := rfl
@[simp] theorem timerMark_ctxs (k : Nat) (v : Dev) : (timerMark k v).ctxs = v.ctxs := rfl
@[simp] theorem timerMark_rings (k : Nat) (v : Dev) : (timerMark k v).rings = v.rings := rfl
@[simp] theorem timerMark_dbLines (k : Nat) (v : Dev) : (timerMark k v).dbLines = v.dbLines := rfl
@[simp] theorem timerMark_attn (k : Nat) (v : Dev) : (timerMark k v).attn = v.attn := rfl
@[simp] theorem timerMark_tlb (k : Nat) (v : Dev) : (timerMark k v).tlb = v.tlb := rfl
@[simp] theorem timerMark_descs (k : Nat) (v : Dev) : (timerMark k v).descs = v.descs := rfl
@[simp] theorem timerMark_nextDesc (k : Nat) (v : Dev) : (timerMark k v).nextDesc = v.nextDesc := rfl
@[simp] theorem timerMark_engines (k : Nat) (v : Dev) : (timerMark k v).engines = v.engines := rfl
@[simp] theorem timerMark_chisels (k : Nat) (v : Dev) : (timerMark k v).chisels = v.chisels := rfl
@[simp] theorem timerMark_stab (k : Nat) (v : Dev) : (timerMark k v).stab = v.stab := rfl
@[simp] theorem timerMark_stabWaits (k : Nat) (v : Dev) : (timerMark k v).stabWaits = v.stabWaits := rfl
@[simp] theorem timerMark_fenced (k : Nat) (v : Dev) : (timerMark k v).fenced = v.fenced := rfl
@[simp] theorem timerMark_ue (k : Nat) (v : Dev) : (timerMark k v).ue = v.ue := rfl
@[simp] theorem timerMark_ueTimes (k : Nat) (v : Dev) : (timerMark k v).ueTimes = v.ueTimes := rfl
@[simp] theorem timerMark_stackFault (k : Nat) (v : Dev) : (timerMark k v).stackFault = v.stackFault := rfl
@[simp] theorem timerMark_retired (k : Nat) (v : Dev) : (timerMark k v).retired = v.retired := rfl
@[simp] theorem timerMark_ports (k : Nat) (v : Dev) : (timerMark k v).ports = v.ports := rfl
@[simp] theorem timerMark_fab (k : Nat) (v : Dev) : (timerMark k v).fab = v.fab := rfl
@[simp] theorem timerMark_members (k : Nat) (v : Dev) : (timerMark k v).members = v.members := rfl
@[simp] theorem timerMark_groups (k : Nat) (v : Dev) : (timerMark k v).groups = v.groups := rfl
@[simp] theorem timerMark_routes (k : Nat) (v : Dev) : (timerMark k v).routes = v.routes := rfl
@[simp] theorem timerMark_mould (k : Nat) (v : Dev) : (timerMark k v).mould = v.mould := rfl
@[simp] theorem timerMark_ctr (k : Nat) (v : Dev) : (timerMark k v).ctr = v.ctr := rfl
@[simp] theorem timerMark_trc (k : Nat) (v : Dev) : (timerMark k v).trc = v.trc := rfl
@[simp] theorem timerMark_mgmt (k : Nat) (v : Dev) : (timerMark k v).mgmt = v.mgmt := rfl
@[simp] theorem timerMark_torn (k : Nat) (v : Dev) : (timerMark k v).torn = v.torn := rfl
@[simp] theorem timerMark_out (k : Nat) (v : Dev) : (timerMark k v).out = v.out := rfl
@[simp] theorem timerMark_free (k : Nat) (v : Dev) : (timerMark k v).free = v.free := rfl
@[simp] theorem timerMark_timers (k : Nat) (v : Dev) : (timerMark k v).timers = tabPut 0 v.timers k (now v) := rfl
@[simp] theorem timerMark_scrubbed (k : Nat) (v : Dev) : (timerMark k v).scrubbed = v.scrubbed := rfl

/-! ### setCxl -/

@[simp] theorem setCxl_power (f : Cxl → Cxl) (v : Dev) : (setCxl f v).power = v.power := rfl
@[simp] theorem setCxl_arm (f : Cxl → Cxl) (v : Dev) : (setCxl f v).arm = v.arm := rfl
@[simp] theorem setCxl_blk (f : Cxl → Cxl) (v : Dev) : (setCxl f v).blk = v.blk := rfl
@[simp] theorem setCxl_pace (f : Cxl → Cxl) (v : Dev) : (setCxl f v).pace = v.pace := rfl
@[simp] theorem setCxl_sns (f : Cxl → Cxl) (v : Dev) : (setCxl f v).sns = v.sns := rfl
@[simp] theorem setCxl_cxl (f : Cxl → Cxl) (v : Dev) : (setCxl f v).cxl = f v.cxl := rfl
@[simp] theorem setCxl_arbRegs (f : Cxl → Cxl) (v : Dev) : (setCxl f v).arbRegs = v.arbRegs := rfl
@[simp] theorem setCxl_arbs (f : Cxl → Cxl) (v : Dev) : (setCxl f v).arbs = v.arbs := rfl
@[simp] theorem setCxl_chans (f : Cxl → Cxl) (v : Dev) : (setCxl f v).chans = v.chans := rfl
@[simp] theorem setCxl_ctxs (f : Cxl → Cxl) (v : Dev) : (setCxl f v).ctxs = v.ctxs := rfl
@[simp] theorem setCxl_rings (f : Cxl → Cxl) (v : Dev) : (setCxl f v).rings = v.rings := rfl
@[simp] theorem setCxl_dbLines (f : Cxl → Cxl) (v : Dev) : (setCxl f v).dbLines = v.dbLines := rfl
@[simp] theorem setCxl_attn (f : Cxl → Cxl) (v : Dev) : (setCxl f v).attn = v.attn := rfl
@[simp] theorem setCxl_tlb (f : Cxl → Cxl) (v : Dev) : (setCxl f v).tlb = v.tlb := rfl
@[simp] theorem setCxl_descs (f : Cxl → Cxl) (v : Dev) : (setCxl f v).descs = v.descs := rfl
@[simp] theorem setCxl_nextDesc (f : Cxl → Cxl) (v : Dev) : (setCxl f v).nextDesc = v.nextDesc := rfl
@[simp] theorem setCxl_engines (f : Cxl → Cxl) (v : Dev) : (setCxl f v).engines = v.engines := rfl
@[simp] theorem setCxl_chisels (f : Cxl → Cxl) (v : Dev) : (setCxl f v).chisels = v.chisels := rfl
@[simp] theorem setCxl_stab (f : Cxl → Cxl) (v : Dev) : (setCxl f v).stab = v.stab := rfl
@[simp] theorem setCxl_stabWaits (f : Cxl → Cxl) (v : Dev) : (setCxl f v).stabWaits = v.stabWaits := rfl
@[simp] theorem setCxl_fenced (f : Cxl → Cxl) (v : Dev) : (setCxl f v).fenced = v.fenced := rfl
@[simp] theorem setCxl_ue (f : Cxl → Cxl) (v : Dev) : (setCxl f v).ue = v.ue := rfl
@[simp] theorem setCxl_ueTimes (f : Cxl → Cxl) (v : Dev) : (setCxl f v).ueTimes = v.ueTimes := rfl
@[simp] theorem setCxl_stackFault (f : Cxl → Cxl) (v : Dev) : (setCxl f v).stackFault = v.stackFault := rfl
@[simp] theorem setCxl_retired (f : Cxl → Cxl) (v : Dev) : (setCxl f v).retired = v.retired := rfl
@[simp] theorem setCxl_ports (f : Cxl → Cxl) (v : Dev) : (setCxl f v).ports = v.ports := rfl
@[simp] theorem setCxl_fab (f : Cxl → Cxl) (v : Dev) : (setCxl f v).fab = v.fab := rfl
@[simp] theorem setCxl_members (f : Cxl → Cxl) (v : Dev) : (setCxl f v).members = v.members := rfl
@[simp] theorem setCxl_groups (f : Cxl → Cxl) (v : Dev) : (setCxl f v).groups = v.groups := rfl
@[simp] theorem setCxl_routes (f : Cxl → Cxl) (v : Dev) : (setCxl f v).routes = v.routes := rfl
@[simp] theorem setCxl_mould (f : Cxl → Cxl) (v : Dev) : (setCxl f v).mould = v.mould := rfl
@[simp] theorem setCxl_ctr (f : Cxl → Cxl) (v : Dev) : (setCxl f v).ctr = v.ctr := rfl
@[simp] theorem setCxl_trc (f : Cxl → Cxl) (v : Dev) : (setCxl f v).trc = v.trc := rfl
@[simp] theorem setCxl_mgmt (f : Cxl → Cxl) (v : Dev) : (setCxl f v).mgmt = v.mgmt := rfl
@[simp] theorem setCxl_torn (f : Cxl → Cxl) (v : Dev) : (setCxl f v).torn = v.torn := rfl
@[simp] theorem setCxl_out (f : Cxl → Cxl) (v : Dev) : (setCxl f v).out = v.out := rfl
@[simp] theorem setCxl_free (f : Cxl → Cxl) (v : Dev) : (setCxl f v).free = v.free := rfl
@[simp] theorem setCxl_timers (f : Cxl → Cxl) (v : Dev) : (setCxl f v).timers = v.timers := rfl
@[simp] theorem setCxl_scrubbed (f : Cxl → Cxl) (v : Dev) : (setCxl f v).scrubbed = v.scrubbed := rfl

/-! ### traceTo -/

@[simp] theorem traceTo_power (q : Nat) (r : TraceRec) (v : Dev) : (traceTo q r v).power = v.power := rfl
@[simp] theorem traceTo_arm (q : Nat) (r : TraceRec) (v : Dev) : (traceTo q r v).arm = v.arm := rfl
@[simp] theorem traceTo_blk (q : Nat) (r : TraceRec) (v : Dev) : (traceTo q r v).blk = v.blk := rfl
@[simp] theorem traceTo_pace (q : Nat) (r : TraceRec) (v : Dev) : (traceTo q r v).pace = v.pace := rfl
@[simp] theorem traceTo_sns (q : Nat) (r : TraceRec) (v : Dev) : (traceTo q r v).sns = v.sns := rfl
@[simp] theorem traceTo_cxl (q : Nat) (r : TraceRec) (v : Dev) : (traceTo q r v).cxl = v.cxl := rfl
@[simp] theorem traceTo_arbRegs (q : Nat) (r : TraceRec) (v : Dev) : (traceTo q r v).arbRegs = v.arbRegs := rfl
@[simp] theorem traceTo_arbs (q : Nat) (r : TraceRec) (v : Dev) : (traceTo q r v).arbs = v.arbs := rfl
@[simp] theorem traceTo_chans (q : Nat) (r : TraceRec) (v : Dev) : (traceTo q r v).chans = v.chans := rfl
@[simp] theorem traceTo_ctxs (q : Nat) (r : TraceRec) (v : Dev) : (traceTo q r v).ctxs = v.ctxs := rfl
@[simp] theorem traceTo_rings (q : Nat) (r : TraceRec) (v : Dev) : (traceTo q r v).rings = v.rings := rfl
@[simp] theorem traceTo_dbLines (q : Nat) (r : TraceRec) (v : Dev) : (traceTo q r v).dbLines = v.dbLines := rfl
@[simp] theorem traceTo_attn (q : Nat) (r : TraceRec) (v : Dev) : (traceTo q r v).attn = v.attn := rfl
@[simp] theorem traceTo_tlb (q : Nat) (r : TraceRec) (v : Dev) : (traceTo q r v).tlb = v.tlb := rfl
@[simp] theorem traceTo_descs (q : Nat) (r : TraceRec) (v : Dev) : (traceTo q r v).descs = v.descs := rfl
@[simp] theorem traceTo_nextDesc (q : Nat) (r : TraceRec) (v : Dev) : (traceTo q r v).nextDesc = v.nextDesc := rfl
@[simp] theorem traceTo_engines (q : Nat) (r : TraceRec) (v : Dev) : (traceTo q r v).engines = v.engines := rfl
@[simp] theorem traceTo_chisels (q : Nat) (r : TraceRec) (v : Dev) : (traceTo q r v).chisels = v.chisels := rfl
@[simp] theorem traceTo_stab (q : Nat) (r : TraceRec) (v : Dev) : (traceTo q r v).stab = v.stab := rfl
@[simp] theorem traceTo_stabWaits (q : Nat) (r : TraceRec) (v : Dev) : (traceTo q r v).stabWaits = v.stabWaits := rfl
@[simp] theorem traceTo_fenced (q : Nat) (r : TraceRec) (v : Dev) : (traceTo q r v).fenced = v.fenced := rfl
@[simp] theorem traceTo_ue (q : Nat) (r : TraceRec) (v : Dev) : (traceTo q r v).ue = v.ue := rfl
@[simp] theorem traceTo_ueTimes (q : Nat) (r : TraceRec) (v : Dev) : (traceTo q r v).ueTimes = v.ueTimes := rfl
@[simp] theorem traceTo_stackFault (q : Nat) (r : TraceRec) (v : Dev) : (traceTo q r v).stackFault = v.stackFault := rfl
@[simp] theorem traceTo_retired (q : Nat) (r : TraceRec) (v : Dev) : (traceTo q r v).retired = v.retired := rfl
@[simp] theorem traceTo_ports (q : Nat) (r : TraceRec) (v : Dev) : (traceTo q r v).ports = v.ports := rfl
@[simp] theorem traceTo_fab (q : Nat) (r : TraceRec) (v : Dev) : (traceTo q r v).fab = v.fab := rfl
@[simp] theorem traceTo_members (q : Nat) (r : TraceRec) (v : Dev) : (traceTo q r v).members = v.members := rfl
@[simp] theorem traceTo_groups (q : Nat) (r : TraceRec) (v : Dev) : (traceTo q r v).groups = v.groups := rfl
@[simp] theorem traceTo_routes (q : Nat) (r : TraceRec) (v : Dev) : (traceTo q r v).routes = v.routes := rfl
@[simp] theorem traceTo_mould (q : Nat) (r : TraceRec) (v : Dev) : (traceTo q r v).mould = v.mould := rfl
@[simp] theorem traceTo_ctr (q : Nat) (r : TraceRec) (v : Dev) : (traceTo q r v).ctr = v.ctr := rfl
@[simp] theorem traceTo_mgmt (q : Nat) (r : TraceRec) (v : Dev) : (traceTo q r v).mgmt = v.mgmt := rfl
@[simp] theorem traceTo_torn (q : Nat) (r : TraceRec) (v : Dev) : (traceTo q r v).torn = v.torn := rfl
@[simp] theorem traceTo_out (q : Nat) (r : TraceRec) (v : Dev) : (traceTo q r v).out = v.out := rfl
@[simp] theorem traceTo_free (q : Nat) (r : TraceRec) (v : Dev) : (traceTo q r v).free = v.free := rfl
@[simp] theorem traceTo_timers (q : Nat) (r : TraceRec) (v : Dev) : (traceTo q r v).timers = v.timers := rfl
@[simp] theorem traceTo_scrubbed (q : Nat) (r : TraceRec) (v : Dev) : (traceTo q r v).scrubbed = v.scrubbed := rfl

/-! ### ctrAdd -/

@[simp] theorem ctrAdd_power (set idx n : Nat) (v : Dev) : (ctrAdd set idx n v).power = v.power := rfl
@[simp] theorem ctrAdd_arm (set idx n : Nat) (v : Dev) : (ctrAdd set idx n v).arm = v.arm := rfl
@[simp] theorem ctrAdd_blk (set idx n : Nat) (v : Dev) : (ctrAdd set idx n v).blk = v.blk := rfl
@[simp] theorem ctrAdd_pace (set idx n : Nat) (v : Dev) : (ctrAdd set idx n v).pace = v.pace := rfl
@[simp] theorem ctrAdd_sns (set idx n : Nat) (v : Dev) : (ctrAdd set idx n v).sns = v.sns := rfl
@[simp] theorem ctrAdd_cxl (set idx n : Nat) (v : Dev) : (ctrAdd set idx n v).cxl = v.cxl := rfl
@[simp] theorem ctrAdd_arbRegs (set idx n : Nat) (v : Dev) : (ctrAdd set idx n v).arbRegs = v.arbRegs := rfl
@[simp] theorem ctrAdd_arbs (set idx n : Nat) (v : Dev) : (ctrAdd set idx n v).arbs = v.arbs := rfl
@[simp] theorem ctrAdd_chans (set idx n : Nat) (v : Dev) : (ctrAdd set idx n v).chans = v.chans := rfl
@[simp] theorem ctrAdd_ctxs (set idx n : Nat) (v : Dev) : (ctrAdd set idx n v).ctxs = v.ctxs := rfl
@[simp] theorem ctrAdd_rings (set idx n : Nat) (v : Dev) : (ctrAdd set idx n v).rings = v.rings := rfl
@[simp] theorem ctrAdd_dbLines (set idx n : Nat) (v : Dev) : (ctrAdd set idx n v).dbLines = v.dbLines := rfl
@[simp] theorem ctrAdd_attn (set idx n : Nat) (v : Dev) : (ctrAdd set idx n v).attn = v.attn := rfl
@[simp] theorem ctrAdd_tlb (set idx n : Nat) (v : Dev) : (ctrAdd set idx n v).tlb = v.tlb := rfl
@[simp] theorem ctrAdd_descs (set idx n : Nat) (v : Dev) : (ctrAdd set idx n v).descs = v.descs := rfl
@[simp] theorem ctrAdd_nextDesc (set idx n : Nat) (v : Dev) : (ctrAdd set idx n v).nextDesc = v.nextDesc := rfl
@[simp] theorem ctrAdd_engines (set idx n : Nat) (v : Dev) : (ctrAdd set idx n v).engines = v.engines := rfl
@[simp] theorem ctrAdd_chisels (set idx n : Nat) (v : Dev) : (ctrAdd set idx n v).chisels = v.chisels := rfl
@[simp] theorem ctrAdd_stab (set idx n : Nat) (v : Dev) : (ctrAdd set idx n v).stab = v.stab := rfl
@[simp] theorem ctrAdd_stabWaits (set idx n : Nat) (v : Dev) : (ctrAdd set idx n v).stabWaits = v.stabWaits := rfl
@[simp] theorem ctrAdd_fenced (set idx n : Nat) (v : Dev) : (ctrAdd set idx n v).fenced = v.fenced := rfl
@[simp] theorem ctrAdd_ue (set idx n : Nat) (v : Dev) : (ctrAdd set idx n v).ue = v.ue := rfl
@[simp] theorem ctrAdd_ueTimes (set idx n : Nat) (v : Dev) : (ctrAdd set idx n v).ueTimes = v.ueTimes := rfl
@[simp] theorem ctrAdd_stackFault (set idx n : Nat) (v : Dev) : (ctrAdd set idx n v).stackFault = v.stackFault := rfl
@[simp] theorem ctrAdd_retired (set idx n : Nat) (v : Dev) : (ctrAdd set idx n v).retired = v.retired := rfl
@[simp] theorem ctrAdd_ports (set idx n : Nat) (v : Dev) : (ctrAdd set idx n v).ports = v.ports := rfl
@[simp] theorem ctrAdd_fab (set idx n : Nat) (v : Dev) : (ctrAdd set idx n v).fab = v.fab := rfl
@[simp] theorem ctrAdd_members (set idx n : Nat) (v : Dev) : (ctrAdd set idx n v).members = v.members := rfl
@[simp] theorem ctrAdd_groups (set idx n : Nat) (v : Dev) : (ctrAdd set idx n v).groups = v.groups := rfl
@[simp] theorem ctrAdd_routes (set idx n : Nat) (v : Dev) : (ctrAdd set idx n v).routes = v.routes := rfl
@[simp] theorem ctrAdd_mould (set idx n : Nat) (v : Dev) : (ctrAdd set idx n v).mould = v.mould := rfl
@[simp] theorem ctrAdd_trc (set idx n : Nat) (v : Dev) : (ctrAdd set idx n v).trc = v.trc := rfl
@[simp] theorem ctrAdd_mgmt (set idx n : Nat) (v : Dev) : (ctrAdd set idx n v).mgmt = v.mgmt := rfl
@[simp] theorem ctrAdd_torn (set idx n : Nat) (v : Dev) : (ctrAdd set idx n v).torn = v.torn := rfl
@[simp] theorem ctrAdd_out (set idx n : Nat) (v : Dev) : (ctrAdd set idx n v).out = v.out := rfl
@[simp] theorem ctrAdd_free (set idx n : Nat) (v : Dev) : (ctrAdd set idx n v).free = v.free := rfl
@[simp] theorem ctrAdd_timers (set idx n : Nat) (v : Dev) : (ctrAdd set idx n v).timers = v.timers := rfl
@[simp] theorem ctrAdd_scrubbed (set idx n : Nat) (v : Dev) : (ctrAdd set idx n v).scrubbed = v.scrubbed := rfl

/-! ### Work -/

@[simp] theorem onDev_dev (f : Dev → Dev) (w : Work) : (onDev f w).dev = f w.dev := rfl
@[simp] theorem onDev_mem (f : Dev → Dev) (w : Work) : (onDev f w).mem = w.mem := rfl
@[simp] theorem onDev_host (f : Dev → Dev) (w : Work) : (onDev f w).host = w.host := rfl
@[simp] theorem onDev_flash (f : Dev → Dev) (w : Work) : (onDev f w).flash = w.flash := rfl
@[simp] theorem onDev_stores (f : Dev → Dev) (w : Work) : (onDev f w).stores = w.stores := rfl
@[simp] theorem onDev_wiped (f : Dev → Dev) (w : Work) : (onDev f w).wiped = w.wiped := rfl
@[simp] theorem onDev_dest (f : Dev → Dev) (w : Work) : (onDev f w).dest = w.dest := rfl
@[simp] theorem onDev_snooped (f : Dev → Dev) (w : Work) : (onDev f w).snooped = w.snooped := rfl
@[simp] theorem onDev_flags (f : Dev → Dev) (w : Work) : (onDev f w).flags = w.flags := rfl
@[simp] theorem poke_dev (sp : Space) (a : Nat) (b : Byte) (w : Work) : (poke sp a b w).dev = w.dev := rfl
@[simp] theorem poke_mem (sp : Space) (a : Nat) (b : Byte) (w : Work) : (poke sp a b w).mem = w.mem := rfl
@[simp] theorem poke_host (sp : Space) (a : Nat) (b : Byte) (w : Work) : (poke sp a b w).host = w.host := rfl
@[simp] theorem poke_flash (sp : Space) (a : Nat) (b : Byte) (w : Work) : (poke sp a b w).flash = w.flash := rfl
@[simp] theorem poke_wiped (sp : Space) (a : Nat) (b : Byte) (w : Work) : (poke sp a b w).wiped = w.wiped := rfl
@[simp] theorem poke_stores (sp : Space) (a : Nat) (b : Byte) (w : Work) : (poke sp a b w).stores = ⟨sp, a, b⟩ :: w.stores := rfl
@[simp] theorem workOf_dev (s : State) : (workOf s).dev = s.dev := rfl
@[simp] theorem workOf_mem (s : State) : (workOf s).mem = s.mem := rfl
@[simp] theorem workOf_host (s : State) : (workOf s).host = s.host := rfl
@[simp] theorem workOf_flash (s : State) : (workOf s).flash = s.flash := rfl
@[simp] theorem workOf_stores (s : State) : (workOf s).stores = [] := rfl
@[simp] theorem workOf_wiped (s : State) : (workOf s).wiped = .none := rfl
@[simp] theorem workOf_flags (s : State) : (workOf s).flags = {} := rfl
@[simp] theorem workOf_dest (s : State) : (workOf s).dest = [] := rfl
@[simp] theorem workOf_snooped (s : State) : (workOf s).snooped = [] := rfl

/-! ### State -/

@[simp] theorem commit_dev (s : State) (w : Work) : (commit s w).dev = breakReserved w.stores w.dev := rfl
@[simp] theorem commit_pending (s : State) (w : Work) : (commit s w).pending = s.pending := rfl

/-! ### Reads of what an update wrote -/

@[simp] theorem getCtx_setCtx_same (x : Nat) (c : Ctx) (v : Dev) (h : tabWf {} v.ctxs = true) : getCtx (setCtx x c v) x = c :=
  tabGet_tabPut_same _ _ _ _ h
@[simp] theorem getRing_setRing_same (r : Nat) (x : Ring) (v : Dev) (h : tabWf {} v.rings = true) : getRing (setRing r x v) r = x :=
  tabGet_tabPut_same _ _ _ _ h
@[simp] theorem getDb_setDb_same (i : Nat) (x : DbLine) (v : Dev) (h : tabWf {} v.dbLines = true) : getDb (setDb i x v) i = x :=
  tabGet_tabPut_same _ _ _ _ h
@[simp] theorem getEngine_setEngine_same (e : Nat) (x : Engine) (v : Dev) (h : tabWf {} v.engines = true) :
    getEngine (setEngine e x v) e = x :=
  tabGet_tabPut_same _ _ _ _ h
@[simp] theorem getChisel_setChisel_same (i : Nat) (x : Chisel) (v : Dev) (h : tabWf {} v.chisels = true) :
    getChisel (setChisel i x v) i = x :=
  tabGet_tabPut_same _ _ _ _ h
@[simp] theorem getPort_setPort_same (p : Nat) (x : Port) (v : Dev) (h : tabWf {} v.ports = true) : getPort (setPort p x v) p = x :=
  tabGet_tabPut_same _ _ _ _ h
@[simp] theorem getMember_setMember_same (n : Nat) (x : Member) (v : Dev) (h : tabWf {} v.members = true) :
    getMember (setMember n x v) n = x :=
  tabGet_tabPut_same _ _ _ _ h
@[simp] theorem getGroup_setGroup_same (g : Nat) (x : Group) (v : Dev) (h : tabWf {} v.groups = true) :
    getGroup (setGroup g x v) g = x :=
  tabGet_tabPut_same _ _ _ _ h
@[simp] theorem getArb_setArb_same (i : Nat) (x : ArbInst) (v : Dev) (h : tabWf {} v.arbs = true) : getArb (setArb i x v) i = x :=
  tabGet_tabPut_same _ _ _ _ h
@[simp] theorem getChan_setChan_same (i : Nat) (x : DramChan) (v : Dev) (h : tabWf {} v.chans = true) : getChan (setChan i x v) i = x :=
  tabGet_tabPut_same _ _ _ _ h

theorem getCtx_setCtx_other (x y : Nat) (c : Ctx) (v : Dev) (h : y ≠ x) : getCtx (setCtx x c v) y = getCtx v y :=
  tabGet_tabPut_other _ _ _ _ _ h
theorem getRing_setRing_other (r y : Nat) (x : Ring) (v : Dev) (h : y ≠ r) : getRing (setRing r x v) y = getRing v y :=
  tabGet_tabPut_other _ _ _ _ _ h
theorem getDb_setDb_other (i y : Nat) (x : DbLine) (v : Dev) (h : y ≠ i) : getDb (setDb i x v) y = getDb v y :=
  tabGet_tabPut_other _ _ _ _ _ h
theorem getEngine_setEngine_other (e y : Nat) (x : Engine) (v : Dev) (h : y ≠ e) : getEngine (setEngine e x v) y = getEngine v y :=
  tabGet_tabPut_other _ _ _ _ _ h
theorem getChisel_setChisel_other (i y : Nat) (x : Chisel) (v : Dev) (h : y ≠ i) : getChisel (setChisel i x v) y = getChisel v y :=
  tabGet_tabPut_other _ _ _ _ _ h
theorem getPort_setPort_other (p y : Nat) (x : Port) (v : Dev) (h : y ≠ p) : getPort (setPort p x v) y = getPort v y :=
  tabGet_tabPut_other _ _ _ _ _ h
theorem getMember_setMember_other (n y : Nat) (x : Member) (v : Dev) (h : y ≠ n) : getMember (setMember n x v) y = getMember v y :=
  tabGet_tabPut_other _ _ _ _ _ h
theorem getGroup_setGroup_other (g y : Nat) (x : Group) (v : Dev) (h : y ≠ g) : getGroup (setGroup g x v) y = getGroup v y :=
  tabGet_tabPut_other _ _ _ _ _ h
theorem getArb_setArb_other (i y : Nat) (x : ArbInst) (v : Dev) (h : y ≠ i) : getArb (setArb i x v) y = getArb v y :=
  tabGet_tabPut_other _ _ _ _ _ h
theorem getChan_setChan_other (i y : Nat) (x : DramChan) (v : Dev) (h : y ≠ i) : getChan (setChan i x v) y = getChan v y :=
  tabGet_tabPut_other _ _ _ _ _ h

end Sys2Proof.Machine
end

