-- ==== Sys2Proof/Laws/Ops.lean ====
section
/-! SUPPORT. What the shared operations do: stores and the memories a command leaves, the two ways a meaning runs, BAR0
writes, events, counters and traces. -/

namespace Sys2Proof.Machine

open Sys2Proof

/-! ### Stores -/

@[simp] theorem storeAt_nil (sp : Space) (a : Nat) : storeAt sp a [] = none := rfl

theorem storeAt_cons (sp : Space) (a : Nat) (x : Store) (l : List Store) :
    storeAt sp a (x :: l) = if x.space = sp ∧ x.addr = a then some x.byte else storeAt sp a l := rfl

@[simp] theorem applyStores_nil (sp : Space) (d : Byte) (m : List Host.Cell) : applyStores sp d m [] = m := rfl

/-- Stores keep a memory's canonical form. -/
theorem applyStores_wf (sp : Space) (d : Byte) (m : List Host.Cell) (h : tabWf d m = true) :
    ∀ l : List Store, tabWf d (applyStores sp d m l) = true
  | [] => h
  | x :: l => by
    unfold applyStores
    split
    · exact tabPut_wf d _ _ _ (applyStores_wf sp d m h l)
    · exact applyStores_wf sp d m h l

/-- A byte after a command's stores: the latest store to its address, else what it was. -/
theorem tabGet_applyStores (sp : Space) (d : Byte) (m : List Host.Cell) (h : tabWf d m = true) (a : Nat) :
    ∀ l : List Store, tabGet d (applyStores sp d m l) a = (storeAt sp a l).getD (tabGet d m a)
  | [] => rfl
  | x :: l => by
    have ih := tabGet_applyStores sp d m h a l
    unfold applyStores
    split
    · next hs =>
      rw [tabGet_tabPut d _ _ _ _ (applyStores_wf sp d m h l), storeAt_cons, ih]
      by_cases ha : a = x.addr
      · subst ha; rw [if_pos rfl, if_pos ⟨hs, rfl⟩]; rfl
      · rw [if_neg ha, if_neg (fun c => ha c.2.symm)]
    · next hs => rw [ih, storeAt_cons, if_neg (fun c => hs c.1)]

/-- Stores to other spaces and addresses change nothing at an address, in any table. -/
theorem tabGet_applyStores_other (sp : Space) (d : Byte) (m : List Host.Cell) (a : Nat) :
    ∀ l : List Store, storeAt sp a l = none → tabGet d (applyStores sp d m l) a = tabGet d m a
  | [], _ => rfl
  | x :: l, h => by
    rw [storeAt_cons] at h
    split at h
    · cases h
    · next hs =>
      have ih := tabGet_applyStores_other sp d m a l h
      unfold applyStores
      split
      · next he => rw [tabGet_tabPut_other d _ _ _ _ (fun c => hs ⟨he, c.symm⟩), ih]
      · exact ih

theorem wipeMem_wf (k : Wipe) (m : List Host.Cell) (h : tabWf memDefault m = true) : tabWf memDefault (wipeMem k m) = true := by
  cases k with
  | none => exact h
  | onDie => exact tabFilter_wf memDefault _ m h
  | all => rfl

/-! ### The state a command leaves -/

@[simp] theorem commit_mem (s : State) (w : Work) :
    (commit s w).mem = applyStores .dev memDefault (wipeMem w.wiped s.mem) w.stores := rfl
@[simp] theorem commit_host (s : State) (w : Work) : (commit s w).host = applyStores .host hostDefault s.host w.stores := rfl
@[simp] theorem commit_flash (s : State) (w : Work) : (commit s w).flash = applyStores .flash flashDefault s.flash w.stores := rfl

/-- Every command's work keeps the canonical form of the three memories. -/
theorem commit_wf (s : State) (w : Work) (h : Memory.wf s = true) : Memory.wf (commit s w) = true := by
  simp only [Memory.wf, Bool.and_eq_true] at h ⊢
  exact ⟨⟨applyStores_wf _ _ _ (wipeMem_wf _ _ h.1.1) _, applyStores_wf _ _ _ h.1.2 _⟩, applyStores_wf _ _ _ h.2 _⟩

@[simp] theorem breakReserved_nil (v : Dev) : breakReserved [] v = v := by
  have h : ∀ l : List (Nat × Chisel), l.any (fun c => reservedHit [] c.2) = false := by
    intro l
    induction l with
    | nil => rfl
    | cons c t ih =>
      have hc : reservedHit [] c.2 = false := by
        unfold reservedHit
        cases c.2.reserved <;> rfl
      rw [List.any_cons, ih, hc]; rfl
  unfold breakReserved
  rw [h]; rfl

/-- Work that stores nothing leaves the memories as they were. -/
theorem commit_noStores (s : State) (w : Work) (h : w.stores = []) (hw : w.wiped = .none) :
    commit s w = { s with dev := w.dev } := by
  unfold commit
  rw [h, hw, breakReserved_nil]; rfl

theorem commit_workOf (s : State) (v : Dev) : commit s { (workOf s) with dev := v } = { s with dev := v } :=
  commit_noStores s _ rfl rfl

/-- A memory that has kept its contents reads as it is listed (log 25). -/
theorem devByte_kept (v : Dev) (m : List Host.Cell) (a : Nat) (h : v.power.lost = .none) : devByte v m a = tabGet memDefault m a := by
  unfold devByte
  rw [h]; rfl

theorem breakReserved_power (l : List Store) (v : Dev) : (breakReserved l v).power = v.power := by
  unfold breakReserved
  split <;> rfl

/-- A byte of device memory after a command. -/
theorem devByte_commit (s : State) (w : Work) (a : Nat) (h : Memory.wf s = true) (hw : w.wiped = .none)
    (hl : w.dev.power.lost = .none) :
    devByte (commit s w).dev (commit s w).mem a = (storeAt .dev a w.stores).getD (tabGet memDefault s.mem a) := by
  simp only [Memory.wf, Bool.and_eq_true] at h
  rw [devByte_kept _ _ _ (by simp only [commit, breakReserved_power, hl])]
  simp only [commit_mem, hw]
  exact tabGet_applyStores _ _ _ h.1.1 _ _

theorem hostByte_commit (s : State) (w : Work) (a : Nat) (h : Memory.wf s = true) :
    hostByte (commit s w) a = (storeAt .host a w.stores).getD (hostByte s a) := by
  simp only [Memory.wf, Bool.and_eq_true] at h
  exact tabGet_applyStores _ _ _ h.1.2 _ _

theorem flashByte_commit (s : State) (w : Work) (a : Nat) (h : Memory.wf s = true) :
    flashByte (commit s w) a = (storeAt .flash a w.stores).getD (flashByte s a) := by
  simp only [Memory.wf, Bool.and_eq_true] at h
  exact tabGet_applyStores _ _ _ h.2 _ _

/-! ### Reads during a command -/

theorem peek_workOf_dev (s : State) (a : Nat) : peek .dev a (workOf s) = devByte s.dev s.mem a := rfl
theorem peek_workOf_host (s : State) (a : Nat) : peek .host a (workOf s) = hostByte s a := rfl
theorem peek_workOf_flash (s : State) (a : Nat) : peek .flash a (workOf s) = flashByte s a := rfl

theorem peek_poke_same (sp : Space) (a : Nat) (b : Byte) (w : Work) : peek sp a (poke sp a b w) = b := by
  simp [peek, poke, storeAt_cons]

theorem peek_poke_other (sp sp' : Space) (a a' : Nat) (b : Byte) (w : Work) (h : ¬(sp = sp' ∧ a = a')) :
    peek sp' a' (poke sp a b w) = peek sp' a' w := by
  simp only [peek, poke, storeAt_cons]
  rw [if_neg h]

/-- A change of the device leaves what every byte reads as, where it leaves what memory has lost and the free values. -/
theorem peek_onDev (sp : Space) (a : Nat) (f : Dev → Dev) (w : Work) (hp : (f w.dev).power = w.dev.power)
    (hf : (f w.dev).free = w.dev.free) : peek sp a (onDev f w) = peek sp a w := by
  unfold peek onDev
  dsimp only
  split
  · rfl
  · cases sp
    · unfold devByte
      dsimp only
      rw [hp, hf]
    · rfl
    · rfl

theorem peeks_length (sp : Space) : ∀ (n a : Nat) (w : Work), (peeks sp a n w).length = n
  | 0, _, _ => rfl
  | n + 1, a, w => by rw [peeks, List.length_cons, peeks_length sp n]

@[simp] theorem pokes_dev (sp : Space) : ∀ (bs : List Byte) (a : Nat) (w : Work), (pokes sp a bs w).dev = w.dev
  | [], _, _ => rfl
  | _ :: bs, a, w => by rw [pokes, pokes_dev sp bs]; rfl

@[simp] theorem pokes_wiped (sp : Space) : ∀ (bs : List Byte) (a : Nat) (w : Work), (pokes sp a bs w).wiped = w.wiped
  | [], _, _ => rfl
  | _ :: bs, a, w => by rw [pokes, pokes_wiped sp bs]; rfl

/-- The store that bytes written from `a` up leave at an address. -/
theorem storeAt_pokes (sp : Space) (i : Nat) : ∀ (bs : List Byte) (a : Nat) (w : Work),
    storeAt sp i (pokes sp a bs w).stores =
      if a ≤ i ∧ i < a + bs.length then bs[i - a]? else storeAt sp i w.stores
  | [], a, w => by
    rw [if_neg (by simp only [List.length_nil]; omega)]; rfl
  | b :: bs, a, w => by
    rw [pokes, storeAt_pokes sp i bs (a + 1) (poke sp a b w), poke_stores, storeAt_cons]
    by_cases h : a + 1 ≤ i ∧ i < a + 1 + bs.length
    · rw [if_pos h, if_pos (by rw [List.length_cons]; omega)]
      obtain ⟨k, hk⟩ : ∃ k, i - a = k + 1 := ⟨i - a - 1, by omega⟩
      rw [hk, List.getElem?_cons_succ, show i - (a + 1) = k by omega]
    · rw [if_neg h]
      by_cases hi : a = i
      · subst hi
        rw [if_pos ⟨rfl, rfl⟩, if_pos (by rw [List.length_cons]; omega), Nat.sub_self]; rfl
      · rw [if_neg (fun c => hi c.2), if_neg (by rw [List.length_cons]; omega)]

/-! ### The two ways a meaning runs -/

theorem runWork_next (f : Work → Work) (s : State) : runWork f s = .next (commit s (f (workOf s))) := rfl
theorem runDev_next (f : Dev → Dev) (s : State) : runDev f s = .next { s with dev := f s.dev } := rfl

/-- A meaning that works on the device and stores nothing. -/
theorem runWork_onDev (f : Dev → Dev) (s : State) : runWork (onDev f) s = .next { s with dev := f s.dev } :=
  congrArg Host.Outcome.next (commit_workOf s (f s.dev))

/-- Everything a meaning that works may do to the rest of the state. -/
theorem runWork_frame (f : Work → Work) (s t : State) (h : runWork f s = .next t) :
    t.pending = s.pending ∧ (Memory.wf s = true → Memory.wf t = true) := by
  rw [runWork_next] at h
  cases h
  exact ⟨rfl, commit_wf s _⟩

theorem runDev_frame (f : Dev → Dev) (s t : State) (h : runDev f s = .next t) :
    t.pending = s.pending ∧ t.mem = s.mem ∧ t.host = s.host ∧ t.flash = s.flash := by
  rw [runDev_next] at h
  cases h
  exact ⟨rfl, rfl, rfl, rfl⟩

/-! ### BAR0 writes with a row of their own (R281, R282) -/

theorem guarded_dead (off : Nat) (ide : Bool) (act : Work → Work) (w : Work)
    (h : (barReached w.dev && blockLive w.dev off) = false) : guarded off ide act w = w := by
  unfold guarded
  rw [if_pos]
  revert h
  cases barReached w.dev <;> cases blockLive w.dev off <;> simp

theorem guarded_refused (off : Nat) (ide : Bool) (act : Work → Work) (w : Work)
    (hb : barReached w.dev = true) (hl : blockLive w.dev off = true) (hi : ideRefused w.dev ide = true) :
    guarded off ide act w = onDev (ctrAdd 0x3FF 0 1) w := by
  unfold guarded
  simp [hb, hl, hi]

theorem guarded_open (off : Nat) (ide : Bool) (act : Work → Work) (w : Work)
    (hb : barReached w.dev = true) (hl : blockLive w.dev off = true) (hi : ideRefused w.dev ide = false) :
    guarded off ide act w = act w := by
  unfold guarded
  simp [hb, hl, hi]

/-! ### Events, counters and traces -/

/-- A trigger cause changes the trace registers only. -/
theorem trcCause_only (c : Nat) (v : Dev) : trcCause c v = { v with trc := (trcCause c v).trc } := by
  unfold trcCause
  split <;> rfl

theorem ctrHigh_only (set idx n : Nat) (v : Dev) : ctrHigh set idx n v = { v with ctr := (ctrHigh set idx n v).ctr } := by
  rfl

/-- Steps of work change the counters and draw free values, and nothing else (log 88). -/
theorem ctrSteps_only (set idx : Nat) (v : Dev) :
    ctrSteps set idx v = { v with ctr := (ctrSteps set idx v).ctr, free := v.free + 1 } := rfl

theorem ctrAdd_draw {k : Nat} {v w : Dev} (set idx n : Nat) (h : ∃ c, w = { v with ctr := c, free := v.free + k }) :
    ∃ c, ctrAdd set idx n w = { v with ctr := c, free := v.free + k } := by
  obtain ⟨c, rfl⟩ := h
  exact ⟨_, rfl⟩

theorem freeNext_draw {k : Nat} {v w : Dev} (h : ∃ c, w = { v with ctr := c, free := v.free + k }) :
    ∃ c, freeNext w = { v with ctr := c, free := v.free + (k + 1) } := by
  obtain ⟨c, rfl⟩ := h
  exact ⟨_, rfl⟩

/-- A pass changes the counters and draws two free values, and nothing else (log 88). -/
theorem ctrPass_only (ctx core n prime : Nat) (v : Dev) :
    ∃ c, ctrPass ctx core n prime v = { v with ctr := c, free := v.free + 2 } := by
  have start : ∃ c, v = { v with ctr := c, free := v.free + 0 } := ⟨v.ctr, rfl⟩
  have one (a b q : Nat) := freeNext_draw (ctrAdd_draw (0x100 + core) 0 q (freeNext_draw (ctrAdd_draw ctx 1 b (ctrAdd_draw ctx 0 a start))))
  unfold ctrPass
  dsimp only
  split
  · exact ctrAdd_draw _ _ _ (one _ _ _)
  · exact one _ _ _

/-- An entry of a core's stream table held changes the table, its high-water mark and the list of
those that wait, and nothing else (R240, R462). -/
theorem stabHold_only (core d p : Nat) (v : Dev) :
    stabHold core d p v = { v with
      stab := (stabHold core d p v).stab, stabWaits := (stabHold core d p v).stabWaits, ctr := (stabHold core d p v).ctr } := by
  unfold stabHold ctrHigh
  dsimp only
  repeat' split
  all_goals rfl

/-- A part that the table tracks already takes no second entry. -/
theorem stabHold_held (core d p : Nat) (v : Dev) (h : v.stab.any (fun e => e.d = d && e.p = p) = true) : stabHold core d p v = v := by
  unfold stabHold
  rw [if_pos h]

/-- An event changes the attention ring, the counters and the trace, and nothing else (R321). -/
theorem raise_only (code ctx : Nat) (payload : List Byte) (v : Dev) :
    raise code ctx payload v =
      { v with
        attn := (raise code ctx payload v).attn
        ctr := (raise code ctx payload v).ctr
        trc := (raise code ctx payload v).trc } := by
  unfold raise ctrHigh trcCause
  dsimp only
  repeat' split
  all_goals rfl

/-- The event itself: one record held, its sequence number taken (R321, R323). -/
theorem raise_attn (code ctx : Nat) (payload : List Byte) (v : Dev) (h : attnHeld v.attn < 64) :
    (raise code ctx payload v).attn =
      { v.attn with
        held := v.attn.held ++ [⟨now v, BitVec.ofNat 16 code, BitVec.ofNat 6 ctx, v.attn.seq, payload⟩]
        seq := v.attn.seq + 1 } := by
  unfold raise ctrHigh trcCause
  dsimp only
  rw [if_pos h]
  repeat' split
  all_goals rfl

end Sys2Proof.Machine
end

