-- ==== Sys2Proof/Laws/Access.lean ====
section
/-! SUPPORT. How a stage of a command runs: the equations of Acc, and what reads of device memory and stores do. -/

namespace Sys2Proof.Machine

open Sys2Proof

/-! ### Stages -/

@[simp] theorem acc_pure {α : Type} (a : α) (w : Work) : (pure a : Acc α).run w = (.ok a, w) := rfl
@[simp] theorem acc_throw {α : Type} (e : Stop) (w : Work) : (throw e : Acc α).run w = (.error e, w) := rfl
@[simp] theorem acc_get (w : Work) : (get : Acc Work).run w = (.ok w, w) := rfl
@[simp] theorem acc_set (u w : Work) : (set u : Acc PUnit).run w = (.ok ⟨⟩, u) := rfl
@[simp] theorem acc_modify (f : Work → Work) (w : Work) : (modify f : Acc PUnit).run w = (.ok ⟨⟩, f w) := rfl

/-- A stage followed by another: the second runs on what the first leaves, unless the first stops. -/
theorem acc_bind {α β : Type} (m : Acc α) (f : α → Acc β) (w : Work) :
    (m >>= f).run w = match m.run w with
      | (.ok a, u) => (f a).run u
      | (.error e, u) => (.error e, u) := by
  have h : (m >>= f).run w = (ExceptT.bindCont f (m.run w).1) (m.run w).2 := rfl
  rw [h]
  cases hm : m.run w with
  | mk x u => cases x <;> rfl

theorem acc_bind_ok {α β : Type} {m : Acc α} {f : α → Acc β} {w u : Work} {a : α} (h : m.run w = (.ok a, u)) :
    (m >>= f).run w = (f a).run u := by
  rw [acc_bind, h]

theorem acc_bind_error {α β : Type} {m : Acc α} {f : α → Acc β} {w u : Work} {e : Stop} (h : m.run w = (.error e, u)) :
    (m >>= f).run w = (.error e, u) := by
  rw [acc_bind, h]

/-! ### Bytes of device memory -/

/-- The line of an address is not in the directory. -/
theorem snoopGate_free (a : Nat) (write : Bool) (w : Work) (h : dirEntry w.dev (a / 64) = none) :
    (snoopGate a write).run w = (.ok (), w) := by
  unfold snoopGate
  rw [acc_bind_ok (acc_get w)]
  simp only [h]
  rfl

/-- A line that the host may hold makes a write wait until its snoop is done (R285). -/
theorem snoopGate_waits (a : Nat) (w : Work) (e : DirEntry) (h : dirEntry w.dev (a / 64) = some e) :
    (snoopGate a true).run w = (.error .wait, w) := by
  unfold snoopGate
  rw [acc_bind_ok (acc_get w)]
  simp only [h]
  rfl

/-- A read of device memory that no snoop holds back: the byte that stands there, and nothing changed, where the byte's unit
is correctable; MEMORY_UE where it is not (R254, R256). -/
theorem readPhys_free (ctx a : Nat) (w : Work) (h : dirEntry w.dev (a / 64) = none) :
    (isUe w.dev a = false → (readPhys ctx a).run w = (.ok (peek .dev a w), w)) ∧
    (isUe w.dev a = true → (readPhys ctx a).run w =
      (.error (.fail stMemoryUe (ueFault w.dev a)), { w with dev := meetUe ctx a w.dev })) := by
  unfold readPhys
  rw [acc_bind_ok (snoopGate_free a false w h), acc_bind_ok (acc_get w)]
  constructor <;> intro hu <;> simp only [hu]
  · rfl
  · rfl

/-- Stages that read and change nothing, one after another. -/
theorem acc_mapM_reads {α β : Type} (f : α → Acc β) (g : α → β) (w : Work) :
    ∀ l : List α, (∀ a ∈ l, (f a).run w = (.ok (g a), w)) → (l.mapM f).run w = (.ok (l.map g), w)
  | [], _ => by simp
  | a :: l, h => by
    rw [List.mapM_cons, acc_bind_ok (h a (List.mem_cons_self ..)),
      acc_bind_ok (acc_mapM_reads f g w l (fun b hb => h b (List.mem_cons_of_mem _ hb)))]
    rfl

/-- Eight bytes of device memory that may all be read. -/
theorem readPhys64_free (ctx a : Nat) (w : Work)
    (h : ∀ i < 8, dirEntry w.dev ((a + i) / 64) = none ∧ isUe w.dev (a + i) = false) :
    (readPhys64 ctx a).run w = (.ok (leNat ((upto 8).map (fun i => peek .dev (a + i) w))), w) := by
  have hr := acc_mapM_reads (fun i => readPhys ctx (a + i)) (fun i => peek .dev (a + i) w) w (upto 8)
    (fun i hi => ((readPhys_free ctx (a + i) w (h i (List.mem_range.mp hi)).1).1 (h i (List.mem_range.mp hi)).2))
  unfold readPhys64
  rw [acc_bind_ok hr]
  rfl

/-- A byte written to device memory that no snoop holds back and whose unit is correctable (R256, R285). -/
theorem writeRaw_dev (r : Requestor) (lo hi a : Nat) (va : W64) (b : Byte) (w u : Work)
    (ht : (translate r va true).run w = (.ok (.dev a), u)) (hd : dirEntry u.dev (a / 64) = none) (hu : isUe u.dev a = false) :
    (writeRaw r lo hi va b).run w = (.ok none, poke .dev a b (onDev (countBytes r.ctx (.dev a)) u)) := by
  have hc : (countBytes r.ctx (.dev a) u.dev).cxl = u.dev.cxl ∧ (countBytes r.ctx (.dev a) u.dev).ue = u.dev.ue := by
    unfold countBytes
    dsimp only
    split <;> exact ⟨rfl, rfl⟩
  have hd' : dirEntry (onDev (countBytes r.ctx (.dev a)) u).dev (a / 64) = none := by
    unfold dirEntry
    simp only [onDev, hc.1]
    exact hd
  have hu' : isUe (onDev (countBytes r.ctx (.dev a)) u).dev a = false := by
    unfold isUe
    simp only [onDev, hc.2]
    exact hu
  unfold writeRaw
  rw [acc_bind_ok ht, acc_bind_ok (acc_modify _ u)]
  dsimp only
  rw [acc_bind_ok (snoopGate_free a true _ hd'), acc_bind_ok (acc_get _)]
  simp only [hu']
  rfl

/-- Without a version pair a write of a byte is one store (R226, R228). -/
theorem writeByteIn_plain (r : Requestor) (lo hi : Nat) (va : W64) (b : Byte) (w : Work) (h : r.ver = none) :
    (writeByteIn r lo hi va b).run w = (writeRaw r lo hi va b).run w := by
  unfold writeByteIn clearTag
  rw [h]
  exact acc_bind_ok (acc_pure () w)

/-- Bytes written one after another, where each of them succeeds and keeps what the next needs: `I` says what they keep. -/
theorem writeBytesIn_all (r : Requestor) (lo hi : Nat) (I : Work → Prop)
    (step : ∀ (va : W64) (b : Byte) (w : Work), lo ≤ va.toNat → va.toNat < hi → I w →
      ∃ u, (writeByteIn r lo hi va b).run w = (.ok none, u) ∧ I u) :
    ∀ (bs : List Byte) (va : W64) (w : Work), lo ≤ va.toNat → va.toNat + bs.length ≤ hi → hi < 2 ^ 64 → I w →
      ∃ u, (writeBytesIn r lo hi va bs).run w = (.ok none, u) ∧ I u
  | [], _, w, _, _, _, hw => ⟨w, rfl, hw⟩
  | b :: bs, va, w, h1, h2, h3, hw => by
    rw [List.length_cons] at h2
    obtain ⟨u, hu, hI⟩ := step va b w h1 (by omega) hw
    have hn : (va + 1).toNat = va.toNat + 1 := by
      rw [BitVec.toNat_add, show BitVec.toNat (1 : W64) = 1 from rfl]; omega
    obtain ⟨u', hu', hI'⟩ := writeBytesIn_all r lo hi I step bs (va + 1) u (by omega) (by omega) h3 hI
    refine ⟨u', ?_, hI'⟩
    unfold writeBytesIn
    rw [acc_bind_ok hu, acc_bind_ok hu']
    rfl

end Sys2Proof.Machine
end

