-- ==== Sys2Proof/Laws/Tables.lean ====
section
/-! SUPPORT. The device's sparse tables stay in their canonical form: the setters, and how a command's work is put together. -/

namespace Sys2Proof.Machine

open Sys2Proof

/-- A change of the device keeps its tables canonical. -/
def KeepsTables (f : Dev → Dev) : Prop := ∀ v, TablesWf v → TablesWf (f v)

/-- A stage of a command keeps the tables canonical, however it ends. -/
def AccKeepsTables {α : Type} (m : Acc α) : Prop := ∀ w, TablesWf w.dev → TablesWf (m.run w).2.dev

/-! ### Changes of the device -/

/-- A change that touches no table. -/
theorem tablesWf_congr {v u : Dev} (h : TablesWf v) (h1 : u.arbs = v.arbs) (h2 : u.chans = v.chans) (h3 : u.ctxs = v.ctxs)
    (h4 : u.rings = v.rings) (h5 : u.engines = v.engines) (h6 : u.chisels = v.chisels) (h7 : u.ports = v.ports)
    (h8 : u.members = v.members) (h9 : u.groups = v.groups) (h10 : u.ctr.values = v.ctr.values)
    (h11 : u.ctr.epochs = v.ctr.epochs) (h12 : u.ctr.samples = v.ctr.samples) (h13 : u.dbLines = v.dbLines)
    (h14 : u.routes = v.routes) (h15 : u.timers = v.timers) (h16 : u.ctr.mirrors = v.ctr.mirrors)
    (h17 : u.ueTimes = v.ueTimes) (h18 : u.scrubbed = v.scrubbed) : TablesWf u :=
  ⟨h1 ▸ h.arbs, h2 ▸ h.chans, h3 ▸ h.ctxs, h4 ▸ h.rings, h5 ▸ h.engines, h6 ▸ h.chisels, h7 ▸ h.ports, h8 ▸ h.members,
   h9 ▸ h.groups, h10 ▸ h.values, h11 ▸ h.epochs, h12 ▸ h.samples, h13 ▸ h.dbLines, h14 ▸ h.routes, h15 ▸ h.timers,
   h16 ▸ h.mirrors, h17 ▸ h.ueTimes, h18 ▸ h.scrubbed⟩

theorem setCtx_tables {v : Dev} (x : Nat) (c : Ctx) (h : TablesWf v) : TablesWf (setCtx x c v) :=
  { h with ctxs := tabPut_wf _ _ _ _ h.ctxs }
theorem setRing_tables {v : Dev} (r : Nat) (x : Ring) (h : TablesWf v) : TablesWf (setRing r x v) :=
  { h with rings := tabPut_wf _ _ _ _ h.rings }
theorem setDb_tables {v : Dev} (i : Nat) (x : DbLine) (h : TablesWf v) : TablesWf (setDb i x v) :=
  { h with dbLines := tabPut_wf _ _ _ _ h.dbLines }
theorem setEngine_tables {v : Dev} (e : Nat) (x : Engine) (h : TablesWf v) : TablesWf (setEngine e x v) :=
  { h with engines := tabPut_wf _ _ _ _ h.engines }
theorem setChisel_tables {v : Dev} (i : Nat) (x : Chisel) (h : TablesWf v) : TablesWf (setChisel i x v) :=
  { h with chisels := tabPut_wf _ _ _ _ h.chisels }
theorem setPort_tables {v : Dev} (p : Nat) (x : Port) (h : TablesWf v) : TablesWf (setPort p x v) :=
  { h with ports := tabPut_wf _ _ _ _ h.ports }
theorem setMember_tables {v : Dev} (n : Nat) (x : Member) (h : TablesWf v) : TablesWf (setMember n x v) :=
  { h with members := tabPut_wf _ _ _ _ h.members }
theorem setGroup_tables {v : Dev} (g : Nat) (x : Group) (h : TablesWf v) : TablesWf (setGroup g x v) :=
  { h with groups := tabPut_wf _ _ _ _ h.groups }
theorem setArb_tables {v : Dev} (i : Nat) (x : ArbInst) (h : TablesWf v) : TablesWf (setArb i x v) :=
  { h with arbs := tabPut_wf _ _ _ _ h.arbs }
theorem setChan_tables {v : Dev} (i : Nat) (x : DramChan) (h : TablesWf v) : TablesWf (setChan i x v) :=
  { h with chans := tabPut_wf _ _ _ _ h.chans }
theorem setPair_tables {v : Dev} (k : Nat) (x : Pair) (h : TablesWf v) : TablesWf (setPair k x v) := { h with }
theorem modDesc_tables {v : Dev} (d : Nat) (f : Desc → Desc) (h : TablesWf v) : TablesWf (modDesc d f v) := { h with }

theorem timerMark_tables {v : Dev} (k : Nat) (h : TablesWf v) : TablesWf (timerMark k v) :=
  { h with timers := tabPut_wf _ _ _ _ h.timers }

theorem ctrAdd_tables {v : Dev} (set idx n : Nat) (h : TablesWf v) : TablesWf (ctrAdd set idx n v) :=
  { h with values := tabPut_wf _ _ _ _ h.values }

theorem ctrHigh_tables {v : Dev} (set idx n : Nat) (h : TablesWf v) : TablesWf (ctrHigh set idx n v) :=
  { h with
    values := by
      unfold ctrHigh
      dsimp only
      split
      · exact tabPut_wf _ _ _ _ h.values
      · exact h.values }

/-- One change after another, for each element of a list. -/
theorem foldl_tables {α : Type} (f : Dev → α → Dev) (hf : ∀ v a, TablesWf v → TablesWf (f v a)) :
    ∀ (l : List α) (v : Dev), TablesWf v → TablesWf (l.foldl f v)
  | [], _, h => h
  | a :: l, v, h => foldl_tables f hf l (f v a) (hf v a h)

/-! ### Stages of a command -/

theorem acc_pure_tables {α : Type} (a : α) : AccKeepsTables (pure a : Acc α) := fun _ h => h
theorem acc_throw_tables {α : Type} (e : Stop) : AccKeepsTables (throw e : Acc α) := fun _ h => h
theorem acc_get_tables : AccKeepsTables (get : Acc Work) := fun _ h => h

theorem acc_onDev_tables {f : Dev → Dev} (hf : KeepsTables f) : AccKeepsTables (modify (onDev f) : Acc PUnit) :=
  fun w h => hf w.dev h

theorem acc_bind_tables {α β : Type} {m : Acc α} {f : α → Acc β} (hm : AccKeepsTables m) (hf : ∀ a, AccKeepsTables (f a)) :
    AccKeepsTables (m >>= f) := by
  intro w h
  have h1 := hm w h
  rw [acc_bind]
  split
  · next a u e => rw [e] at h1; exact hf a u h1
  · next x u e => rw [e] at h1; exact h1

theorem acc_mapM_tables {α β : Type} {f : α → Acc β} (hf : ∀ a, AccKeepsTables (f a)) :
    ∀ l : List α, AccKeepsTables (l.mapM f)
  | [] => by rw [List.mapM_nil]; exact acc_pure_tables _
  | a :: l => by
    rw [List.mapM_cons]
    exact acc_bind_tables (hf a) (fun _ => acc_bind_tables (acc_mapM_tables hf l) (fun _ => acc_pure_tables _))

/-! ### A command's end -/

theorem snoopsUsed_tables {w : Work} (h : TablesWf w.dev) : TablesWf (snoopsUsed w).dev := { h with }

theorem breakReserved_tables (l : List Store) {v : Dev} (h : TablesWf v) : TablesWf (breakReserved l v) := by
  unfold breakReserved
  split
  · exact { h with
      chisels := by
        dsimp only
        exact tabMap_wf _ _ _ h.chisels }
  · exact h

/-- A command's work that keeps the tables canonical leaves a state whose tables are. -/
theorem commit_tables (s : State) {w : Work} (h : TablesWf w.dev) : TablesWf (commit s w).dev := breakReserved_tables _ h

theorem runWork_tables (f : Work → Work) (s t : State) (hf : TablesWf (f (workOf s)).dev) (h : runWork f s = .next t) :
    TablesWf t.dev := by
  rw [runWork_next] at h
  cases h
  exact commit_tables s hf

theorem runDev_tables {f : Dev → Dev} (hf : KeepsTables f) (s t : State) (hs : TablesWf s.dev) (h : runDev f s = .next t) :
    TablesWf t.dev := by
  rw [runDev_next] at h
  cases h
  exact hf s.dev hs

end Sys2Proof.Machine
end

