-- ==== Sys2Proof/Tests/Slice0.lean ====
section
/-! SUPPORT. Tests: ill-formed commands, a state and operands that meet the hypotheses of each statement, and single
commands whose results the spec gives. -/

namespace Sys2Proof.Tests

open Sys2Proof Sys2Proof.Machine

set_option Elab.async false

/-! ### Ill-formed commands, one for each check of WellFormed -/

def w0 : HostWrite := ⟨0, true⟩
theorem test_wf_bar0_range : (Instr.bar0Write (.bar0 0x100000) false w0).wf = false := by decide
theorem test_wf_bar0_aligned : (Instr.bar0Write (.bar0 4) true w0).wf = false := by decide
theorem test_wf_bar0_value : (Instr.bar0Write (.bar0 4) false ⟨0x100000000, true⟩).wf = false := by decide
theorem test_wf_bar0_decoder : (Instr.bar0Write (.decoder 0 true) true w0).wf = true := by decide
theorem test_wf_recovery_value : (Instr.recoveryLoad ⟨0x100000000, true⟩ [] true).wf = false := by decide
theorem test_wf_hdm_line : (Instr.hdmRead 32).wf = false := by decide
theorem test_wf_hdm_range : (Instr.hdmRead (2 ^ 64)).wf = false := by decide
theorem test_wf_hdm_bytes : (Instr.hdmWrite 64 [0] 1 false).wf = false := by decide
theorem test_wf_ats_small : (Instr.atsInvalidation 0 0 11 0).wf = false := by decide
theorem test_wf_ats_aligned : (Instr.atsTranslation 0 0 0 0 0 (.granted 0x1000 13 true)).wf = false := by decide
theorem test_wf_host_data : (Instr.hostReadData 0 0 0 0 (List.replicate 4097 0) .ok).wf = false := by
  decide +kernel
theorem test_wf_scratch : (Instr.memoryUe 0 0 ⟨.scratch 0 65536, .clean⟩).wf = false := by decide
theorem test_wf_debug_read : (Instr.debugAccess (.readReg 2)).wf = false := by decide
theorem test_wf_debug_write : (Instr.debugAccess (.writeReg 0x100000 0)).wf = false := by decide
theorem test_wf_readings : (Instr.sensorUpdate { tj := [], tstack := [], tpwr := [], vin := 0, iin := 0, rails := [] }).wf = false := by
  decide
theorem test_wf_arb : (Instr.arbDecision 0 [⟨⟨.load, 0⟩, .other, 0⟩] []).wf = false := by decide
theorem test_wf_ctr : (Instr.ctrSample 0x400 true).wf = false ∧ (Instr.ctrReset 0x3FF true).wf = true := by decide

/-! ### States to start from -/

/-- A page table in DRAM: the root at 0x1000 leads to the table at 0x2000, whose first leaf maps the first GiB of device
memory to itself, writable, and whose second maps the next GiB of addresses to the first core stores. -/
def pages : List Host.Cell := [(0x1000, 0x03), (0x1001, 0x20), (0x2000, 0x07), (0x2008, 7), (0x200C, 0x80)]

/-- A module that runs, with its link up and contexts 0 and 1 enabled on the page table above. -/
def devUp : Dev :=
  { power := { state := .active, perstLow := false, rbHigh := true, vaon := true, railsUp := true, strapsLatched := true }
    arm := { stage := 7, firmware := true, memoryInit := true, romPending := false, wdtArmed := true, pufOk := true }
    blk := { ready := true, busyCause := 0, live := true }
    pace := { time := 0x10000000000, running := true }
    cxl := { linkUp := true, configLive := true, cxlMode := true, cacheEn := true, memEn := true, busMaster := true
             memoryActive := true, ideIo := true, rate := 3, width := 2 }
    ctxs := [(0, { ptRoot := 1, enable := true, state := 1 }), (1, { ptRoot := 1, enable := true, state := 1 })] }

def up : State := { dev := devUp, mem := pages }

/-- A state that differs from `up` in its device. -/
def upDev (f : Dev → Dev) : State := { up with dev := f devUp }

/-- What a stage answered, without the work it left. -/
def ranOk {α : Type} (m : Acc α) (w : Work) : Bool :=
  match m.run w with
  | (.ok _, _) => true
  | _ => false

theorem ranOk_some {α : Type} (m : Acc α) (w : Work) (h : ranOk m w = true) : ∃ a u, m.run w = (.ok a, u) := by
  unfold ranOk at h
  split at h
  · next a u e => exact ⟨a, u, e⟩
  · cases h

/-! ### The queue, start-up, flash -/

theorem wit_queue : ∃ (s : State) (c : Instr) (rest : List Instr), s.pending = c :: rest := ⟨{ up with pending := [.linkReset] }, .linkReset, [], rfl⟩
theorem wit_idle : up.pending = [] ∧ up.dev.pace.running = true ∧ State.reset.pending = [] ∧ State.reset.dev.pace.running = false := by
  decide
theorem wit_canonical : Memory.wf up = true ∧ ∃ t, step up = .next t := ⟨by decide, _, rfl⟩
theorem reset_tables : TablesWf State.reset.dev := by constructor <;> decide
theorem wit_tables : TablesWf up.dev ∧ ∃ t, step up = .next t := ⟨by constructor <;> decide, _, rfl⟩
theorem wit_exec_next : ∃ t, exec .linkReset up = .next t := ⟨_, rfl⟩
theorem wit_off : State.reset.dev.power.state = .off ∧ State.reset.dev.power.hot = false := ⟨rfl, rfl⟩
/-- A module turned off while a sensor was hot. -/
def sOffHot : State := { dev := { power := { hot := true } } }
theorem wit_off_hot : sOffHot.dev.power.state = .off ∧ sOffHot.dev.power.hot = true := ⟨rfl, rfl⟩
theorem wit_perst_assert : up.dev.power.state ≠ .off ∧ up.dev.power.perstLow = false := by decide
def sHeld : State := upDev fun v => { v with power := { v.power with perstLow := true, rbHigh := false, state := .start } }
theorem wit_perst_release : sHeld.dev.power.perstLow = true ∧ sHeld.dev.power.state ≠ .off := by decide
def sRom : State := { dev := { power := { state := .start, perstLow := false, railsUp := true }, pace := { running := true } } }
def sTorn : State := { sRom with dev := { sRom.dev with torn := [.image] } }
theorem wit_rom_torn : sTorn.dev.torn ≠ [] ∧ sTorn.dev.power.state = .start ∧ sRom.dev.torn = [] := by decide
theorem wit_rom : sRom.dev.power.state = .start ∧ sRom.dev.power.perstLow = false ∧
    sRom.dev.power.railsUp = true ∧ sRom.dev.arm.romPending = true ∧ sRom.dev.power.hot = false := by decide
def sStage (n : BitVec 4) : State := upDev fun v => { v with
  arm := { v.arm with stage := n }, blk := {}
  power := { v.power with state := .start, rbHigh := false, busySince := some (v.pace.time - 10000) } }
theorem wit_memory_init : (sStage 5).dev.power.state = .start ∧ (sStage 5).dev.power.railsUp = true ∧ (sStage 5).dev.arm.stage = 5 ∧
    (sStage 5).dev.cxl.directory = [] ∧ (sStage 6).dev.arm.stage = 6 ∧ busyLong (sStage 6).dev = true := by decide
theorem wit_recovery : WriteLands (sStage 2) 0x90028 true ∧ (sStage 2).dev.arm.stage = 2 ∧ (sStage 2).dev.power.state = .start ∧
    (sStage 2).dev.cxl.busMaster = true ∧
    (List.replicate 4 (0 : Byte)).length = ((4 : W64).setWidth 25).toNat := ⟨⟨by decide, by decide, by decide⟩, by decide⟩
theorem wit_flash : Memory.wf up = true ∧ up.dev.arm.firmware = true ∧ (List.replicate 48 (7 : Byte)).length = 48 ∧ 5 < 48 := by decide
theorem wit_watchdog : up.dev.arm.wdtArmed = true ∧ (∀ c ∈ up.dev.groups, c.2.enable = false) ∧ (∀ x ∈ up.dev.descs, x.cls ≠ 0xD) := by
  decide

/-! ### The CXL edge -/

def sDown : State := upDev fun v => { v with cxl := { v.cxl with linkUp := false, linkWasReset := true } }
theorem wit_link_up : sDown.dev.cxl.linkUp = false ∧ sDown.dev.cxl.configLive = true ∧ sDown.dev.power.perstLow = false ∧
    sDown.dev.power.railsUp = true ∧ sDown.dev.dbLines = [] ∧ sDown.dev.cxl.resetsDue = 0 ∧ sDown.dev.cxl.linkWasReset = true := by decide
/-- The link down with a doorbell line registered, and a mirror's sample that waits. -/
def sDownLine : State := { sDown with dev := { sDown.dev with
  cxl := { sDown.dev.cxl with cacheEn := false }, dbLines := [(2, { valid := true, addr := 5 })], ctr := { mirrorWaits := [⟨0, 0, 0, []⟩] } } }
theorem wit_link_up_lines : (sDownLine.dev.dbLines.filter (fun c => c.2.valid)).map (fun c => c.1) = [2] ∧ (getDb sDownLine.dev 2).held = false ∧
    tabWf 0 sDownLine.dev.timers = true ∧ tabWf {} sDownLine.dev.dbLines = true ∧ sDownLine.dev.cxl.linkUp = false ∧
    sDownLine.dev.cxl.configLive = true ∧ ¬ NothingWaits sDownLine.dev := by
  refine ⟨by decide +kernel, by decide +kernel, by decide +kernel, by decide +kernel, rfl, rfl, fun h => ?_⟩
  exact absurd h.2.1 (by decide)
theorem wit_link_up_first : (upDev fun v => { v with cxl := { v.cxl with linkUp := false } }).dev.cxl.linkWasReset = false := by decide
def sDirLine (line : Nat) : State := upDev fun v => { v with cxl := { v.cxl with directory := [{ line := line }] } }
def sIde : State := upDev fun v => { v with cxl := { v.cxl with ideCm := true } }
theorem wit_link_reset : sIde.dev.cxl.linkUp = true ∧ (sIde.dev.cxl.ideCm || sIde.dev.cxl.ideIo) = true := by decide
theorem wit_cxl_enable : up.dev.cxl.linkUp = true ∧ up.dev.cxl.cxlMode = true ∧ up.dev.cxl.memoryActive = true ∧
    up.dev.arm.firmware = true := by decide
theorem wit_directory_waits : (sDirLine 0).dev.cxl.directory ≠ [] ∧ (∃ e ∈ (sDirLine 0x200000000).dev.cxl.directory, 0x8000000000 ≤ 64 * e.line) ∧
    (∀ e ∈ (sDirLine 7).dev.cxl.directory, 64 * e.line < 0x8000000000) := by decide
/-- Decoder 0 at 0x10_0000_0000 and decoder 1 at 0x1_0000_0000_0000. -/
def sHdm : State := upDev fun v => { v with cxl := { v.cxl with
  dec0 := { base := 0x1000000000, committed := true }, dec1 := { base := 0x1000000000000, committed := true } } }
theorem wit_hdm : Memory.wf sHdm = true ∧ sHdm.dev.cxl.linkUp = true ∧ sHdm.dev.cxl.memEn = true ∧ sHdm.dev.cxl.memoryActive = true ∧
    hdmDecode sHdm.dev 0x1000001000 = some 0x1000 ∧ reservedTop 0x1000 = false ∧ 0x1000 % 64 = 0 ∧
    (∀ u ∈ lineUnits 0x1000, isUe sHdm.dev u = false) ∧ memLost sHdm.dev.power.lost 0x1000 = false := by decide
theorem wit_hdm_first_and_last : hdmDecode sHdm.dev 0x1000000000 = some 0 ∧
    hdmDecode sHdm.dev (0x1000000000 + 0x7800000000 - 64) = some 0x77FFFFFFC0 ∧ hdmDecode sHdm.dev 0x8800000000 = none := by decide
theorem wit_hdm_reserved : hdmDecode sHdm.dev 0x1000007F00000 = some 0x8007F00000 ∧ reservedTop 0x8007F00000 = true ∧
    reservedTop 0x8007EFFFC0 = false := by decide
def sDir (k : SnoopState) : State := upDev fun v => { v with cxl := { v.cxl with directory := [{ line := 7, snoop := k }] } }
theorem wit_directory : ∀ k ∈ [SnoopState.idle, .dataSent, .invSent], (sDir k).dev.cxl.linkUp = true ∧
    dirEntry (sDir k).dev 7 = some { line := 7, snoop := k } ∧ (sDir k).dev.ctr.queue = [] := by decide
theorem wit_ats : up.dev.cxl.linkUp = true ∧ 12 ≤ 12 ∧ up.dev.ctr.queue = [] ∧ getDesc up.dev 0 = none ∧
    up.dev.cxl.atc.length ≤ 8192 ∧ Memory.wf up = true := by decide
def sInval : State := upDev fun v => { v with cxl := { v.cxl with invals := [⟨3, 1, 0, 12⟩] } }
theorem wit_nothing_waits : NothingWaits up.dev ∧ NothingWaits sDown.dev ∧ ∀ k, NothingWaits (sDir k).dev :=
  ⟨⟨rfl, rfl, rfl, rfl⟩, ⟨rfl, rfl, rfl, rfl⟩, fun _ => ⟨rfl, rfl, rfl, rfl⟩⟩
theorem wit_ats_complete : sInval.dev.cxl.linkUp = true ∧ ∃ i ∈ sInval.dev.cxl.invals, i.tag = 3 := by decide

/-- An object waits in a mailbox. -/
def sAsked (m : Nat) (o : DoeObject) (c : Spdm) : State := upDev fun v => { v with cxl := { v.cxl with
  spdm := c, mailboxes := v.cxl.mailboxes.set m { busy := true, object := some o } } }
def spdmUp : Spdm := { version := true, capabilities := true, algorithms := true, keyAlgs := true }
theorem wit_doe : configUp up.dev = true ∧ objectWaits 0 (.discovery 0) = true ∧
    (getMailbox (sAsked 2 (.discovery 0) {}).dev 2).object = some (.discovery 0) ∧
    configUp (sAsked 1 (.cdat 0) {}).dev = true ∧ (getMailbox (sAsked 1 (.cdat 0) {}).dev 1).object = some (.cdat 0) := by decide
theorem wit_spdm_setup : configUp (sAsked 0 (.spdm .getVersion) {}).dev = true ∧
    (getMailbox (sAsked 0 (.spdm .getVersion) {}).dev 0).object = some (.spdm .getVersion) ∧
    (getMailbox (sAsked 0 (.spdm (.getCapabilities 0x13 0)) { version := true }).dev 0).object = some (.spdm (.getCapabilities 0x13 0)) ∧
    (getMailbox (sAsked 0 (.spdm (.negotiateAlgorithms 128 2 16 2)) spdmUp).dev 0).object =
      some (.spdm (.negotiateAlgorithms 128 2 16 2)) ∧ spdmUp.version = true ∧ spdmUp.capabilities = true := by decide
theorem wit_spdm_chunks : (getMailbox (sAsked 0 (.spdm (.chunkSend 5 0 true 2 [1, 2] .getDigests)) spdmUp).dev 0).object =
      some (.spdm (.chunkSend 5 0 true 2 [1, 2] .getDigests)) ∧
    (getMailbox (sAsked 0 (.spdm (.chunkGet 5 0)) { spdmUp with getHandle := 5, getBytes := [1] }).dev 0).object =
      some (.spdm (.chunkGet 5 0)) := by decide
theorem wit_spdm_chunk_whole : objectWaits 0 (.spdm .getDigests) = true ∧ spdmUp.capabilities = true := by decide
theorem wit_spdm_answers : ∀ q ∈ [SpdmReq.getDigests, .getCertificate 0 0 16368, .challenge 0 0, .getMeasurements 1 false 0, .getMeasurements 8 false 0, .getMeasurements 8 true 0],
    let s := sAsked 0 (.spdm q) spdmUp
    configUp s.dev = true ∧ s.dev.cxl.spdm.algorithms = true ∧ (getMailbox s.dev 0).object = some (.spdm q) ∧
      s.dev.arm.pufOk = true ∧ s.dev.arm.firmware = true := by decide
def sSession (e : Bool) (q : SpdmReq) : State := sAsked 0 (.secured 0x10005 q)
  { spdmUp with sessions := [{ id := 0x10005, established := e, reqGen := 0, rspGen := 0, beats := 0 }] }
theorem wit_spdm_sessions : (∃ x ∈ (sSession false (.finish 0x10005 true)).dev.cxl.spdm.sessions, x.id = 0x10005 ∧ x.established = false) ∧
    (∀ q ∈ [SpdmReq.keyUpdate 0x10005 2 9, .heartbeat 0x10005, .endSession 0x10005],
      configUp (sSession true q).dev = true ∧ (sSession true q).dev.cxl.spdm.algorithms = true ∧
      (getMailbox (sSession true q).dev 0).object = some (.secured 0x10005 q) ∧
      (∃ x ∈ (sSession true q).dev.cxl.spdm.sessions, x.id = 0x10005 ∧ x.established = true)) := by decide
theorem wit_key_exchange : (getMailbox (sAsked 0 (.spdm (.keyExchange 5 0)) spdmUp).dev 0).object = some (.spdm (.keyExchange 5 0)) := rfl

/-! ### Registers, management, pace, sensors, park -/

def sIdeReq : State := upDev fun v => { v with cxl := { v.cxl with ideReq := true } }
theorem wit_bar_refused : barReached sIdeReq.dev = true ∧ blockLive sIdeReq.dev 0x30 = true ∧ aligned 0x30 true = true ∧
    ((reached 0x30 true).any namedWord) = true ∧ sIdeReq.dev.cxl.ideReq = true := by decide
theorem wit_bar_scratch : WriteLands up 0x30 true := ⟨by decide, by decide, by decide⟩
theorem wit_bar_registers : ∀ off ∈ [0x1004, 0x1008, 0x100C, 0x1010, 0x1020, 0x1048, 0x0, 0x4, 0x8, 0xC, 0x10, 0x18, 0x1C, 0x20, 0x28, 0x1014,
    0x1018, 0x1024, 0x1028, 0x102C, 0x1040, 0x1044, 0x3000, 0x3004, 0x3008, 0x300C, 0x3010, 0x3014, 0x3018, 0x301C], WriteLands up off true := by
  intro off h
  constructor <;> revert off <;> decide
/-- The set-up registers of the first and the last context and ring, enabled and not. -/
theorem wit_bar_setup : ∀ off ∈ [0x10000, 0x10020, 0x10FC0, 0x10FF8, 0x20000, 0x20010, 0x3FFE0, 0x3FFF0], WriteLands up off true := by
  intro off h
  constructor <;> revert off <;> decide
theorem wit_bar_enabled : (getCtx up.dev 1).enable = true ∧ (getCtx up.dev 63).enable = false ∧ (0x80000000 : W64).getLsbD 31 = true ∧
    (getRing (upDev fun v => { v with rings := [(4095, { enable := true })] }).dev 4095).enable = true ∧ (getRing up.dev 0).enable = false := by
  decide
/-- Classes at DRAM channels: LOAD asks for none there, TIDY becomes high, and COPY is given the reserved value. -/
theorem test_class_register : ∃ t, exec (.bar0Write (.bar0 0x3000) false ⟨0xD1, true⟩) up = .next t ∧
    (t.dev.arbRegs.getD 0 {}).cls = 0x10 := ⟨_, rfl, by decide +kernel⟩
/-- Offsets with no register, and a register of a module that is not ready. -/
theorem wit_bar_ignored : barReached up.dev = true ∧ aligned 0x4000 true = true ∧ (reached 0x4000 true).any namedWord = false ∧
    aligned 0x2C false = true ∧ (reached 0x2C false).any namedWord = false ∧
    barReached (sStage 2).dev = true ∧ aligned 0x1004 false = true ∧ blockLive (sStage 2).dev 0x1004 = false := by decide
theorem wit_bar_unsupported : ¬((2 = 4 ∨ 2 = 8) ∧ 0 % 2 = 0) ∧ ¬((8 = 4 ∨ 8 = 8) ∧ 4 % 8 = 0) := by decide
theorem wit_i3c : up.dev.power.vaon = true ∧ up.dev.power.state ≠ .off ∧ State.reset.dev.power.vaon = false ∧
    ({ vaon := true } : Power).state = .off := by decide
theorem wit_jtag : up.dev.power.state ≠ .off ∧ State.reset.dev.power.state = .off ∧ up.dev.power.perstLow = false ∧ sHeld.dev.power.perstLow = true := by decide
def sUnlocked : State := upDev fun v => { v with arm := { v.arm with debugUnlock := true } }
theorem wit_debug : up.dev.arm.debugUnlock = false ∧ sUnlocked.dev.arm.debugUnlock = true ∧ sUnlocked.dev.power.state ≠ .off := by decide
def sOsc : State := upDev fun v => { v with pace := { v.pace with tbSource := true, tbSince := v.pace.time - 999999 } }
def sOscLong : State := upDev fun v => { v with pace := { v.pace with tbSource := true, tbSince := v.pace.time - 1000000 } }
def sRead : State := upDev fun v => { v with pace := { v.pace with shadows := [(.host, 5)] } }
theorem wit_clock : up.dev.pace.tbSource = false ∧ sOsc.dev.pace.tbSource = true ∧ attnHeld up.dev.attn < 64 ∧
    barReached up.dev = true ∧ up.dev.blk.live = true ∧
    (sOsc.dev.pace.time - sOsc.dev.pace.tbSince).toNat < 1000000 ∧
    1000000 ≤ (sOscLong.dev.pace.time - sOscLong.dev.pace.tbSince).toNat ∧
    sRead.dev.pace.shadows.find? (fun c => c.1 = .host) = some (.host, 5) ∧ (∀ c ∈ up.dev.pace.shadows, c.1 ≠ .host) := by decide
theorem wit_clock_early : barReached (sStage 2).dev = true ∧ blockLive (sStage 2).dev 0x1040 = false := by decide
theorem wit_pace : up.dev.power.state = .active ∧ timerDue up.dev tmMonitor 10000 = true ∧
    timerDue up.dev tmCalibrate 1000000 = true ∧ timerDue State.reset.dev tmMonitor 10000 = false := by decide
theorem wit_governor : timerDue up.dev tmGovernor 10000 = true ∧ 500 ≤ up.dev.power.setpoint ∧ up.dev.power.setpoint ≤ 800 ∧
    500 ≤ up.dev.pace.vcoreSet.toNat ∧ up.dev.pace.vcoreSet.toNat ≤ 800 ∧ up.dev.pace.cap.toNat < (3301 : BitVec 13).toNat ∧
    (3300 : BitVec 13).toNat ≤ up.dev.pace.cap.toNat ∧ up.dev.pace.gating = false := by decide
def sWarm : State := upDev fun v => { v with
  sns := { v.sns with update := 1, tj := List.replicate 16 880 }, pace := { v.pace with windowsSince := 1 } }
theorem wit_window : windowFits 940 940 940 925 sWarm.dev = true ∧ windowFits 940 940 940 924 sWarm.dev = false ∧
    sWarm.dev.power.state = .active ∧ timerDue sWarm.dev tmMonitor 10000 = true := by decide
def sHot : State := upDev fun v => { v with sns := { v.sns with hotTemp := 1521 } }
theorem wit_governor_hot : (16 * sHot.dev.pace.tjLimit.toNat : Int) < sHot.dev.sns.hotTemp.toInt := by decide
theorem wit_sensors : timerDue up.dev tmSensor 10000 = true ∧ timerDue up.dev tmSensorCal 1000000 = true ∧
    up.dev.sns.failed.getLsbD 16 = false ∧ 1600 ≤ (1600 : W16).toInt ∧ (1520 : W16).toInt ≤ 1520 ∧ 1520 < (1599 : W16).toInt := by
  decide
/-- A field, a stack and a power stage between their thresholds and at them, with room for every event. -/
theorem wit_sensors_warn : attnHeld up.dev.attn + 26 ≤ 64 ∧ (1840 : Int) - 80 < (1761 : W16).toInt ∧ (1761 : W16).toInt < 1840 ∧
    up.dev.sns.failed.getLsbD 36 = false ∧ (∀ f < 4, (fieldTemp up.dev.sns f).isSome = true) ∧
    (∃ c ∈ warnSources up.dev.sns, c.2.2.isSome = true) := by decide +kernel
/-- Stack 3 warned: it has fallen 5 °C below its threshold, or has not. -/
def sWarned (T : W16) : Sns := { warnStack := 8, tstack := List.replicate 20 T }
theorem wit_sensors_fell : ∀ c ∈ warnSources (sWarned 1520), ∀ T, c.2.2 = some T → warnBit (sWarned 0) c.1 = true ∨ c.2.1 ≤ T → T ≤ c.2.1 - 80 := by
  decide +kernel
theorem wit_sensors_not_fallen : ¬ ∀ c ∈ warnSources (sWarned 1521), ∀ T, c.2.2 = some T →
    warnBit (sWarned 0) c.1 = true ∨ c.2.1 ≤ T → T ≤ c.2.1 - 80 := by
  decide +kernel
/-- Stack 3 has fallen, and stack 4 reaches its threshold. -/
theorem wit_sensors_reached : ¬ ∀ c ∈ warnSources { sWarned 1520 with tstack := List.replicate 4 1520 ++ [1600] ++ List.replicate 15 1520 }, ∀ T,
    c.2.2 = some T → warnBit (sWarned 0) c.1 = true ∨ c.2.1 ≤ T → T ≤ c.2.1 - 80 := by decide +kernel
def sTrip : State := upDev fun v => { v with sns := { v.sns with tstack := List.replicate 20 1760 } }
theorem wit_trip : sTrip.dev.power.state ≠ .off ∧ sTrip.dev.power.state ≠ .tripped ∧ tripHolds sTrip.dev.sns (.stack 19) = true := by decide
/-- A trip with its record still to write, with the attention ring in core store 0, and without one. -/
def sTripRing : State := { sTrip with dev := { sTrip.dev with attn := { sTrip.dev.attn with enable := true, base := 0x40050000 } } }
theorem wit_trip_record : attnRoom sTrip.dev.attn = 0 ∧ (tripPayload sTrip.dev.sns (.stack 19)).isSome = true ∧ sTrip.dev.attn.held.length < 64 ∧
    Memory.wf sTripRing = true ∧ sTripRing.dev.power.perstLow = false ∧ sTripRing.dev.attn.held = [] ∧ attnRoom sTripRing.dev.attn ≠ 0 ∧
    (match tripPayload sTripRing.dev.sns (.stack 19) with
     | some c => ranOk (attnPut 0x40050000 (attnBytes ⟨sTripRing.dev.pace.time, 0x0016, 0, 0, [2] ++ leBytes 1 c.1 ++ leBytes 2 c.2.toNat⟩ 0 1))
         { workOf sTripRing with dev := raiseThermal 2 c.1 c.2 sTripRing.dev }
     | none => false) = true := by decide +kernel
def sQuiet (k : BitVec 3) : State := upDev fun v => { v with
  ctxs := [(0, { ptRoot := 1, enable := true, state := 1 })], pace := { v.pace with parkState := k } }
theorem wit_park_enter : WriteLands (sQuiet 0) 0x104C true ∧ WriteLands up 0x104C true ∧ (sQuiet 0).dev.pace.parkState = 0 ∧
    bitAt 4 (1 : W64) = false ∧ (sQuiet 0).dev.power.state = .active ∧ quiescent none (sQuiet 0).dev = true ∧
    (∀ c ∈ (sQuiet 0).dev.ports, c.2.enable = false) ∧ quiescent none up.dev = false ∧ up.dev.pace.parkState = 0 :=
  ⟨⟨by decide, by decide, by decide⟩, ⟨by decide, by decide, by decide⟩, by decide⟩
def sPortOn : State := { sQuiet 0 with dev := { (sQuiet 0).dev with ports := [(3, { enable := true })] } }
theorem wit_park_port : WriteLands sPortOn 0x104C true ∧ quiescent none sPortOn.dev = true ∧ (∃ c ∈ sPortOn.dev.ports, c.2.enable = true) :=
  ⟨⟨by decide, by decide, by decide⟩, by decide⟩
def sParked : State := { sQuiet 3 with dev := { (sQuiet 3).dev with power := { (sQuiet 3).dev.power with state := .park, lost := .onDie } } }
theorem wit_park : Memory.wf (sQuiet 1) = true ∧ (sQuiet 1).dev.pace.parkState = 1 ∧ (sQuiet 1).dev.pace.leaveAsked = false ∧
    (sQuiet 1).dev.power.state = .active ∧ (sQuiet 2).dev.pace.parkState = 2 ∧ bitAt 4 (0 : W64) = false ∧
    Memory.wf sParked = true ∧ sParked.dev.power.state = .park ∧ sParked.dev.pace.parkState = 3 ∧ sParked.dev.power.lost ≠ .all ∧
    (∀ e ∈ sParked.dev.cxl.directory, 64 * e.line < 0x8000000000) := by
  decide
theorem wit_park_leave : WriteLands (sQuiet 2) 0x104C true := ⟨by decide, by decide, by decide⟩

/-! ### DRAM, memory errors, arbitration -/

theorem wit_refresh_due : tabWf ({} : DramChan) up.dev.chans = true ∧ up.dev.power.railsUp = true ∧
    up.dev.sns.failed.getLsbD (16 + 639 / 32) = false ∧ timerDue up.dev (tmRefreshOf 639) 3900 = true ∧
    (up.dev.sns.tstack.getD (639 / 32) 0).toInt ≤ 1360 := by decide
theorem wit_refresh_hot : 1360 < (1680 : W16).toInt ∧ (1680 : W16).toInt ≤ 1680 ∧ ¬(1681 : W16).toInt ≤ 1680 ∧
    up.dev.power.state ≠ .park ∧ sParked.dev.power.state = .park ∧ timerDue { up.dev with pace := { up.dev.pace with time := 974 } } (tmRefreshOf 0) 975 = false := by
  decide
def sRef : State := upDev fun v => { v with
  chans := [(5, { owed := 1, since := some (v.pace.time - 120) })]
  arbs := [(5, { emergency := some .refresh, replay := [⟨⟨.load, 0⟩, 3⟩] })] }
theorem wit_refresh_done : tabWf {} sRef.dev.chans = true ∧ tabWf {} sRef.dev.arbs = true ∧
    (getChan sRef.dev 5).since = some (sRef.dev.pace.time - 120) ∧ 120 ≤ (sRef.dev.pace.time - (sRef.dev.pace.time - 120)).toNat := by
  decide
theorem wit_scrub : 0x77FFFFFFFF < 0x7800000000 ∧ up.dev.arm.memoryInit = true ∧ attnHeld up.dev.attn < 64 ∧ scrubDue up.dev 0x77FFFFFFFF = true ∧
    isUe up.dev 0x77FFFFFFFF = false := by decide
/-- One descriptor with one part in staging. -/
def one (cls : Nat) (bs : List Byte) (q : Part) : Desc := { id := 0, ring := 0, ctx := 1, bytes := bs, cls := cls, parts := [q] }
def sOne (x : Desc) : State := upDev fun v => { v with descs := [x], nextDesc := 1, ue := [0x4000] }
theorem wit_memory_ue : livePart (sOne (one 1 [] {})).dev 0 0 = some (one 1 [] {}, {}) ∧ (one 1 [] {}).cls ≤ 5 ∧
    isKernel (one 1 [] {}) = false ∧ populated 0x4001 = true ∧ isUe (sOne (one 1 [] {})).dev 0x4001 = true := by decide
def sArb (l : List ArbRequest) : State := upDev fun v => { v with arbs := [(7, { raised := l })] }
def reqs (a b : ArbSource) : List ArbRequest := [⟨⟨a, 0⟩, .other, 1⟩, ⟨⟨b, 1⟩, .test, 2⟩]
theorem wit_arb : ∀ l ∈ [reqs .load .drain, reqs .load .tidy, reqs .tidy .patrol, reqs .patrol .patrol],
    let a := getArb (sArb l).dev 7
    tabWf {} (sArb l).dev.arbs = true ∧ a.raised ≠ [] ∧ a.replay = [] ∧ a.decided = none ∧ a.backoff = [] ∧ a.emergency = none ∧ (getChan (sArb l).dev 7).since = none ∧ (getChan (sArb l).dev 7).owed < 8 ∧
    (∀ r ∈ a.raised, srcClass (sArb l).dev (arbKind 7) r.req.src ≤ 2) ∧
    a.winPos < ((sArb l).dev.arbRegs.getD (arbKind 7) {}).window.toNat ∧
    (∀ r ∈ a.raised, ∀ q ∈ a.raised, r.req = q.req → r = q) := by decide
def sBack : State := upDev fun v => { v with
  chans := [(7, { owed := 8 })]
  arbs := [(7, { decision := 2, winPos := 256, counts := [(⟨.load, 0⟩, 3)], current := some ⟨⟨.load, 0⟩, 2⟩
                 backoff := [{ req := ⟨.copy, 0⟩, k := 1, until_ := 2, held := some ⟨⟨.copy, 0⟩, .other, 1⟩ }] })] }
theorem wit_backoff : (backoffOf (getArb sBack.dev 7) ⟨.copy, 0⟩).held = some ⟨⟨.copy, 0⟩, .other, 1⟩ ∧
    (backoffOf (getArb sBack.dev 7) ⟨.copy, 0⟩).until_ ≤ (getArb sBack.dev 7).decision ∧
    (sBack.dev.arbRegs.getD (arbKind 7) {}).window.toNat ≤ (getArb sBack.dev 7).winPos := by decide
theorem wit_revoke : tabWf {} sBack.dev.arbs = true ∧ 8 ≤ (getChan sBack.dev 7).owed ∧ (getArb sBack.dev 7).emergency = none ∧
    (getArb sBack.dev 7).current = some ⟨⟨.load, 0⟩, 2⟩ := by decide
def sDebug : State := upDev fun v => { v with arbs := [(7, { emergency := some .debug, replay := [⟨⟨.load, 0⟩, 2⟩] })] }
theorem wit_emergency_end : (getArb sDebug.dev 7).emergency = some .debug ∧ (getChan sDebug.dev 7).owed < 8 := by decide

/-! ### Vector parts and numbers -/

/-- A descriptor's bytes: 256 of them, zero but for the fields given as (offset, size, value). -/
def fieldsOf (l : List (Nat × Nat × Nat)) : List Byte :=
  l.foldl (fun bs f => (bs.take f.1) ++ leBytes f.2.1 f.2.2 ++ bs.drop (f.1 + f.2.1)) (List.replicate 256 0)
/-- A vector descriptor over one FP32 element from 0x10000 to 0x20000. -/
def vopBytes (func src : Nat) : List Byte :=
  fieldsOf [(16, 8, src), (24, 8, 0x10004), (40, 8, 0x20000), (88, 4, 1), (92, 4, 1), (96, 4, 1), (100, 4, 1), (104, 4, 1),
    (176, 1, func), (185, 1, 1)]
def vopDesc (cls func src : Nat) : Desc := one cls (vopBytes func src) {}
/-- 1.5 at 0x10000 and 2.0 at 0x10004. -/
def operands : List Host.Cell := pages ++ [(0x10002, 0xC0), (0x10003, 0x3F), (0x10007, 0x40)]
def sVop (cls func src : Nat) : State := { dev := { devUp with descs := [vopDesc cls func src], nextDesc := 1 }, mem := operands }
theorem wit_vop : ∀ fc ∈ vopCommands, ready (sVop 1 fc.1 0x10000).dev 0 0 1 = some (vopDesc 1 fc.1 0x10000, {}) ∧
    (vopOf (vopDesc 1 fc.1 0x10000).bytes).func = fc.1 ∧ onFenced (sVop 1 fc.1 0x10000).dev 0 0 = false ∧
    stabBlocked (sVop 1 fc.1 0x10000).dev 0 0 = none := by decide +kernel
theorem wit_vop_state : ∀ n < 256, Memory.wf (sVop 1 n 0x10000) = true ∧ (sVop 1 n 0x10000).dev.ue = [] ∧ ready (sVop 1 n 0x10000).dev 1 0 1 = none :=
  fun _ _ => ⟨rfl, rfl, rfl⟩
theorem wit_conv : ready (sVop 2 0 0x10000).dev 0 0 2 = some (vopDesc 2 0 0x10000, {}) ∧ onFenced (sVop 2 0 0x10000).dev 0 0 = false ∧
    stabBlocked (sVop 2 0 0x10000).dev 0 0 = none := by decide +kernel
/-- The stream table of core 0 full of another part's entries. -/
def sFull (cls : Nat) (l : List StabIssuer) : State := { sVop cls 0 0x10000 with dev := { (sVop cls 0 0x10000).dev with
  stab := List.replicate 32768 ⟨0, 0, 7, 0⟩, stabWaits := l } }
theorem full_table (v : Dev) (e : StabEntry) (h : e.core = 0) (hs : v.stab = List.replicate 32768 e) : stabFree v 0 = none := by
  have f (n : Nat) : (List.replicate n e).filter (fun e => e.core = 0) = List.replicate n e := by simp [h]
  have l (n : Nat) : (List.replicate n e).length = n := by simp
  unfold stabFree stabHeld
  rw [hs, f]
  simp only [l, show ¬(32768 : Nat) < stabRoom by decide, if_false]
theorem wit_vop_blocked : ∀ cls ∈ [1, 2], ∀ l, stabBlocked (sFull cls l).dev 0 0 = some 0 := by
  intro cls hc l'
  have a (n : Nat) : (List.replicate n (⟨0, 0, 7, 0⟩ : StabEntry)).any (fun e => e.d = 0 && e.p = 0) = false := by
    simp [List.any_replicate]
  have f : stabFree (sFull cls l').dev 0 = none := full_table _ ⟨0, 0, 7, 0⟩ rfl rfl
  have g : getDesc (sFull cls l').dev 0 = some (vopDesc cls 0 0x10000) := rfl
  have c : ∀ cls ∈ [1, 2], stabCore (vopDesc cls 0 0x10000) 0 = some 0 := by decide +kernel
  have e : (sFull cls l').dev.stab.any (fun e => e.d = 0 && e.p = 0) = false := a stabRoom
  unfold stabBlocked
  rw [g]
  dsimp only
  rw [c cls hc]
  dsimp only
  rw [f, e]
  rfl
/-- It has been counted, or has not; and the core is fenced. -/
theorem wit_vop_counted : StabIssuer.part 0 0 ∈ (sFull 1 [.part 0 0]).dev.stabWaits ∧ StabIssuer.part 0 0 ∉ (sFull 1 []).dev.stabWaits :=
  ⟨List.mem_cons_self .., fun h => by cases h⟩
def sFenced (cls : Nat) : State := { sVop cls 0 0x10000 with dev := { (sVop cls 0 0x10000).dev with fenced := 1 } }
theorem wit_vop_fenced : ∀ cls ∈ [1, 2], ready (sFenced cls).dev 0 0 cls = some (vopDesc cls 0 0x10000, {}) ∧ onFenced (sFenced cls).dev 0 0 = true := by
  decide +kernel
/-- The part's computation succeeds, fails with TRANSLATION beyond the mapped GiB, and waits for a line the host holds. -/
theorem wit_vop_runs : ranOk (vopBody (vopDesc 1 0 0x10000) {} 0) (onDev (startPart 0 0) (workOf (sVop 1 0 0x10000))) = true := by
  decide +kernel
def stopOf {α : Type} (m : Acc α) (w : Work) : Option Stop :=
  match m.run w with
  | (.error e, _) => some e
  | _ => none
theorem wit_vop_fails : stopOf (vopBody (vopDesc 1 0 0x80000000) {} 0) (onDev (startPart 0 0) (workOf (sVop 1 0 0x80000000))) =
    some (.fail stTranslation 0x80000000) := by decide +kernel
def sVopDir : State := { sVop 1 0 0x10000 with dev := { (sVop 1 0 0x10000).dev with cxl := { devUp.cxl with directory := [{ line := 0x400 }] } } }
theorem wit_vop_waits : stopOf (vopBody (vopDesc 1 0 0x10000) {} 0) (onDev (startPart 0 0) (workOf sVopDir)) = some .wait := by
  decide +kernel
theorem wit_formats : 0x7E < 2 ^ fE4M3.bits ∧ (fE4M3.decode 0x7E).isNan = false ∧ 1 ≤ 1 ∧ 0xFF < 2 ^ 8 := by decide
theorem wit_elements : (f32 0x3F800000).isFinite = true ∧ (Val.num true 3 (-1)).isFinite = true ∧ ((Val.nan false).isNan || (f32 0).isNan) = true := by
  decide

/-! ### Contexts, rings, doorbells -/

theorem up_lands (off : Nat) : WriteLands up off true := ⟨rfl, rfl, rfl⟩
theorem wit_ctx_enable : tabWf {} up.dev.ctxs = true ∧ (getCtx up.dev 63).enable = false ∧ up.dev.pace.parkState = 0 := by decide
def sCtx (busy : Bool) : State := upDev fun v => { v with
  rings := if busy then [(0, { enable := true, ctx := 1 })] else []
  engines := [(3, { bank1 := { phase := .held, ctx := 1 } }), (4, { bank0 := { phase := .held, ctx := 2 } }),
    (5, { bank0 := { phase := .filling, ctx := 1 } })] }
theorem wit_ctx_disable : ∀ b, WriteLands (sCtx b) 0x10000 true ∧ tabWf {} (sCtx b).dev.ctxs = true ∧
    tabWf {} (sCtx b).dev.engines = true ∧ (getCtx (sCtx b).dev 1).enable = true ∧ ctxBusy (sCtx b).dev 1 = b ∧
    (∀ c ∈ (sCtx b).dev.groups, ¬(c.2.enable = true ∧ c.2.ctx.toNat = 1)) := by
  intro b; cases b <;> exact ⟨⟨by decide, by decide, by decide⟩, by decide⟩
def sInvalCtx : State := upDev fun v => { v with attn := { v.attn with invalCtx := 1, invalBusy := true }, tlb := [⟨0, 1, 0, 12, 0, false, true⟩] }
theorem wit_ctx_inval : up.dev.attn.invalBusy = false ∧ sInvalCtx.dev.attn.invalBusy = true := by decide

def ring0 : Ring := { base := 0x100000, cqBase := 0x40110000, ctx := 1, dbLine := 2, dbSlot := 3 }
def sRing (x : Ring) : State := upDev fun v => { v with
  rings := [(0, x)], descs := [one 0 [] {}], nextDesc := 1, dbLines := [(2, { valid := true, addr := 5 })] }
theorem ring_lands (x : Ring) : WriteLands (sRing x) 0x20000 true := ⟨rfl, rfl, rfl⟩
theorem wit_ring_enable : tabWf {} (sRing ring0).dev.rings = true ∧ (getRing (sRing ring0).dev 0).enable = false ∧
    ringRefused (sRing ring0).dev (getRing (sRing ring0).dev 0) = false ∧
    (getDb (sRing ring0).dev (getRing (sRing ring0).dev 0).dbLine.toNat).held = false ∧
    ringRefused (sRing { ring0 with ctx := 2 }).dev (getRing (sRing { ring0 with ctx := 2 }).dev 0) = true := by decide
theorem wit_ring_disable : tabWf {} (sRing { ring0 with enable := true }).dev.rings = true ∧
    (getRing (sRing { ring0 with enable := true }).dev 0).enable = true := by decide
/-- The step state record of context 1 at 0x4003_0000: STEP 1, REPLAY_LEFT as given, LOSS_SCALE 1.0, or 0 where it does not
pass, between LS_MIN and LS_MAX of 1.0, and one schedule entry, 0.5. -/
def stepRecord (left : Byte) (ok : Bool) : List Host.Cell :=
  [(0x8000030000, 1)] ++ (if ok then [(0x8000030006, 0x80), (0x8000030007, 0x3F)] else []) ++
    [(0x8000030016, 0x80), (0x8000030017, 0x3F), (0x800003001A, 0x80), (0x800003001B, 0x3F)] ++ (if left = 0 then [] else [(0x800003001C, left)]) ++
    [(0x8000030030, 0x40), (0x8000030032, 3), (0x8000030038, 1), (0x8000030043, 0x3F)]
def replayCtxs : Tab Ctx :=
  [(0, { ptRoot := 1, enable := true, state := 1 }), (1, { ptRoot := 1, enable := true, state := 1, stepRec := 0x40030000 })]
/-- A replay ring of context 1 with that record. -/
def sReplay (left : Byte) (ok : Bool) : State :=
  { dev := { devUp with ctxs := replayCtxs, rings := [(0, { ring0 with enable := true, mode := 1, progLen := 4 })] }
    mem := pages ++ stepRecord left ok }
def recordAt (s : State) : List Byte :=
  match (readBytes (edge 1) 0x40030000 64).run (workOf s) with
  | (.ok bs, _) => bs
  | _ => []
theorem wit_replay : ∀ s ∈ [sReplay 0 true, sReplay 3 false, sReplay 3 true],
    let x := getRing s.dev 0
    let c := getCtx s.dev x.ctx.toNat
    tabWf {} s.dev.rings = true ∧ tabWf {} s.dev.ctxs = true ∧ x.enable = true ∧ x.mode = 1 ∧ x.state = 0 ∧ c.state = 1 ∧ c.stepRec ≠ 0 ∧ ringsBarred s.dev = false ∧
    ranOk (readBytes (edge x.ctx.toNat) c.stepRec 64) (workOf s) = true := by decide +kernel
theorem wit_replay_records : leAt (recordAt (sReplay 0 true)) 28 4 = 0 ∧ leAt (recordAt (sReplay 3 false)) 28 4 ≠ 0 ∧
    recordOk (recordAt (sReplay 3 false)) = false ∧ leAt (recordAt (sReplay 3 true)) 28 4 ≠ 0 ∧
    recordOk (recordAt (sReplay 3 true)) = true ∧ Memory.wf (sReplay 3 true) = true := by decide +kernel
/-- The first writes of a pass, after a record read. -/
def passWrites (bs : List Byte) (c : Ctx) : Acc Unit := do
  let eta ← negEta 1 bs (leAt bs 0 4)
  writeNat (edge 1) (c.stepRec + 8) 4 (fdiv f32One (leAt bs 4 4))
  writeNat (edge 1) (c.stepRec + 44) 4 eta
theorem wit_replay_pass :
    let w := ((readBytes (edge 1) 0x40030000 64).run (workOf (sReplay 3 true))).2
    ranOk (passWrites (recordAt (sReplay 3 true)) (getCtx (sReplay 3 true).dev 1)) w = true ∧
      ((passWrites (recordAt (sReplay 3 true)) (getCtx (sReplay 3 true).dev 1)).run w).2.wiped = .none := by decide +kernel

def sLine (x : DbLine) (rs : Tab Ring) (cache : Bool) : State := upDev fun v => { v with
  dbLines := if x = {} then [] else [(2, x)], rings := rs, cxl := { v.cxl with cacheEn := cache } }
theorem line_lands (x : DbLine) (rs : Tab Ring) (b : Bool) : WriteLands (sLine x rs b) 0x40000 true := ⟨rfl, rfl, rfl⟩
def valid : DbLine := { valid := true, addr := 5 }
theorem wit_line_register : (getDb (sLine {} [] true).dev 2).valid = false ∧ (sLine {} [] true).dev.cxl.cacheEn = true ∧
    (sLine {} [] true).dev.cxl.linkUp = true := by decide +kernel
theorem wit_line_release : (getDb (sLine { valid with held := true } [] true).dev 2).valid = true ∧
    (∀ c ∈ (sLine { valid with held := true } [] true).dev.rings, ¬(c.2.enable = true ∧ c.2.mode = 0 ∧ c.2.dbLine.toNat = 2)) := by decide +kernel
theorem wit_line_snoop : (getDb (sLine { valid with held := true } [] true).dev 2).held = true := by decide +kernel
/-- Slot 3 of a doorbell line with TAIL 1 and CQ_HEAD 0. -/
def line1 : BitVec 512 := 1 <<< 192
theorem wit_line_data : ∀ b, let s := sLine valid [(0, { ring0 with enable := true })] b
    tabWf {} s.dev.rings = true ∧ (getDb s.dev 2).valid = true ∧ s.dev.cxl.linkUp = true ∧ (getDb s.dev 2).held = false ∧
    s.dev.cxl.cacheEn = b ∧ timerDue s.dev (tmPoll 2) s.dev.attn.pollInterval.toNat = true := by decide +kernel
/-- A link reset whose count waits for this line's tails, and for another line's too. -/
def sReread (l : List Nat) : State :=
  let s := sLine valid [(0, { ring0 with enable := true })] true
  { s with dev := { s.dev with cxl := { s.dev.cxl with rereads := l, resetsDue := 1 } } }
theorem wit_line_reread : (sReread [2]).dev.cxl.rereads = [2] ∧ (sReread [2]).dev.cxl.resetsDue = 1 ∧ attnHeld (sReread [2]).dev.attn < 64 ∧
    (∃ j ∈ (sReread [2, 3]).dev.cxl.rereads, j ≠ 2) := by decide +kernel
theorem test_link_reset_told : ∀ c ∈ [([2], (1 : Byte)), ([2, 3], 0)],
    ∃ t, exec (.doorbellData 2 line1 true) (sReread c.1) = .next t ∧ t.dev.cxl.linkResets = c.2 := by
  intro c h
  refine ⟨_, rfl, ?_⟩
  revert c
  decide +kernel
theorem wit_line_slot : slotTail line1 3 = 1 ∧ slotCqHead line1 3 = 0 ∧ (slotTail line1 3 - 0).toNat ≤ 2 ^ 6 := by decide +kernel
/-- A slot beyond the ring's 64 units, and one beyond the 64 slots of its queue. -/
theorem wit_line_out_of_range : let s := sLine valid [(0, { ring0 with enable := true })] true
    let x := getRing s.dev 0
    x.enable = true ∧ x.mode = 0 ∧ x.dbLine = 2 ∧ x.state ≠ 3 ∧ (∀ c ∈ s.dev.rings, c.1 = 0) ∧
    2 ^ x.sizeLog2.toNat < (slotTail (65 <<< 192) 3 - x.head).toNat ∧ 2 ^ x.cqLog2.toNat < (x.cqWritten - slotCqHead (1 <<< 224) 3).toNat := by
  decide +kernel

/-! ### Fetch, completion, ordering, attention -/

/-- Ring 0 of context 1 holds one FENCE at its base and its tail is 1. -/
def sFetch (base : W64) : State :=
  { dev := { devUp with rings := [(0, { ring0 with base := base, enable := true, tail := 1, state := 1 })] }, mem := pages ++ [(0x100000, 8)] }
/-- What the reads of a fetch from ring 0 find: the descriptor's units, the slots of its record, whether its header is good, and the
state they leave its context in. -/
def fetchOf0 (s : State) : Option (Nat × Nat × Bool × BitVec 2) :=
  let x := getRing s.dev 0
  match (ringUnit x x.head.toNat).run (workOf s) with
  | (.ok first, w1) =>
    let n := sizeUnits (leAt first 0 1)
    match (do
      let more ← ((upto n).drop 1).mapM (fun k => ringUnit x (x.head.toNat + k))
      let step ← readStep x.ctx.toNat
      pure (more, step) : Acc (List (List Byte) × Nat)).run w1 with
    | (.ok (more, step), w3) =>
      let raw := first ++ more.flatten
      let good := headerOk raw (decide (x.mode ≠ 0))
      let y : Desc :=
        { id := s.dev.nextDesc, ring := 0, ctx := x.ctx.toNat, unitIndex := x.head, step := BitVec.ofNat 32 step, time := s.dev.pace.time
          bytes := if good then stepIndexed (getCtx s.dev x.ctx.toNat) step raw else raw, cls := leAt raw 0 1 % 16, hostFed := decide (x.mode = 0) }
      match (if good then planOf y else pure none).run w3 with
      | (.ok units, w4) => some (n, recordSlots (withParts y units).parts.length, good, (getCtx w4.dev x.ctx.toNat).state)
      | _ => none
    | _ => none
  | _ => none
/-- A ring that may fetch a good FENCE of one unit; one whose queue has no room; and one of whose two units only one has come. -/
theorem wit_fetch : tabWf {} (sFetch 0x100000).dev.rings = true ∧ mayFetch (sFetch 0x100000).dev 0 = true ∧ mayFetch up.dev 0 = false ∧
    (stabFree (sFetch 0x100000).dev (fetchCore 0)).isSome = true ∧ fetchOf0 (sFetch 0x100000) = some (1, 1, true, 1) ∧
    1 ≤ queueRoom (getRing (sFetch 0x100000).dev 0) ∧
    1 ≤ ((getRing (sFetch 0x100000).dev 0).tail - (getRing (sFetch 0x100000).dev 0).head).toNat := by decide +kernel
def sFetchFull : State := { sFetch 0x100000 with dev := { (sFetch 0x100000).dev with
  rings := [(0, { getRing (sFetch 0x100000).dev 0 with reserved := 64 })], stab := List.replicate 32768 ⟨0, 0, 7, 0⟩ } }
theorem wit_fetch_full : queueRoom (getRing sFetchFull.dev 0) < 1 ∧ mayFetch sFetchFull.dev 0 = true :=
  ⟨by decide +kernel, by decide +kernel⟩
theorem wit_fetch_no_entry : stabFree sFetchFull.dev (fetchCore 0) = none := full_table _ ⟨0, 0, 7, 0⟩ rfl rfl
theorem wit_fetch_short : let s : State := { dev := (sFetch 0x100000).dev, mem := pages ++ [(0x100000, 0x18)] }
    mayFetch s.dev 0 = true ∧ (fetchOf0 s).map (·.1) = some 2 ∧ ((getRing s.dev 0).tail - (getRing s.dev 0).head).toNat < 2 := by decide +kernel
theorem wit_fetch_fails : mayFetch (sFetch 0x80000000).dev 0 = true ∧
    stopOf (stage 0) (workOf (sFetch 0x80000000)) = some (.fail stTranslation 0x80000000) := by decide +kernel
/-- A FOLD with its factors at 4 GiB, whose page table entry is an uncorrectable word. -/
def foldBytes : List Byte :=
  fieldsOf [(0, 1, 0x13), (32, 8, 0x40050000), (40, 8, 0x100000000), (80, 4, 4), (110, 1, 1), (113, 1, 1)]
def sFetchUe : State :=
  { dev := { devUp with rings := [(0, { ring0 with enable := true, tail := 2, state := 1 })], ue := [0x2020] }
    mem := pages ++ ((foldBytes.take 128).zipIdx.map (fun c => (0x100000 + c.2, c.1))).filter (fun c => decide (c.2 ≠ 0)) }
theorem wit_fetch_contexts : tabWf {} sFetchUe.dev.rings = true ∧ mayFetch sFetchUe.dev 0 = true ∧
    fetchOf0 sFetchUe = some (2, 1, true, 2) := ⟨by decide, by decide, by decide +kernel⟩
theorem wit_part_complete : getDesc (sOne (one 1 [] { state := .ended })).dev 0 = some (one 1 [] { state := .ended }) ∧
    (one 1 [] { state := .ended }).parts[0]? = some { state := .ended } ∧ subsOpen (sOne (one 1 [] { state := .ended })).dev 0 0 = false := by
  decide
/-- A failed part of a running replay, with another part of its context waiting. -/
def sFailed : State := upDev fun v => { v with
  descs := [one 1 [] { state := .ended, status := stMalformed }, { one 1 [] {} with id := 1 }], nextDesc := 2
  rings := [(0, { ring0 with enable := true, mode := 1, state := 4 })] }
theorem wit_part_failed : let x := one 1 [] { state := .ended, status := stMalformed }
    tabWf {} sFailed.dev.ctxs = true ∧ getDesc sFailed.dev 0 = some x ∧ subsOpen sFailed.dev 0 0 = false ∧ 0x10 ≤ stMalformed.toNat ∧
    stMalformed ≠ stFenced ∧ x.sub = none ∧ x.orphan = false ∧ (getRing sFailed.dev x.ring).enable = true ∧
    (getRing sFailed.dev x.ring).mode = 1 ∧ (getCtx sFailed.dev x.ctx).state = 1 ∧ attnHeld sFailed.dev.attn < 64 := by decide
theorem wit_desc_complete : allDone (one 8 [] {}) = false ∧ (one 8 [] { state := .done }).sub = none ∧
    allDone (one 8 [] { state := .done }) = true ∧ Memory.wf (sOne (one 8 [] { state := .done })) = true ∧
    ranOk (completeBody (one 8 [] { state := .done })) (workOf (sOne (one 8 [] { state := .done }))) = true := by decide +kernel
/-- A descriptor with a completion record to write. -/
def recorded : Desc := { one 8 [] { state := .done } with slots := 1 }
def sRecorded : State := { dev := { devUp with descs := [recorded], nextDesc := 1, rings := [(0, { ring0 with enable := true, reserved := 1 })] }, mem := pages }
theorem wit_desc_record : getDesc sRecorded.dev 0 = some recorded ∧ sRecorded.dev.ue = [] ∧ Memory.wf sRecorded = true ∧
    ranOk (completeBody recorded) (workOf sRecorded) = true := by decide +kernel

/-- Two descriptors of ring 0: the second is the one asked about. -/
def sTwo (cls : Nat) (bs : List Byte) (alone : Bool) : State := { dev := { devUp with
    ctxs := [(0, { ptRoot := 1, enable := true, state := 1 }), (1, { ptRoot := 1, enable := true, state := 1, epochAddr := 0x30000 })]
    rings := [(0, { ring0 with enable := true, waiting := some 1, state := 2 })]
    descs := (if alone then [] else [one 1 [] {}]) ++ [{ one cls bs {} with id := 1 }], nextDesc := 2 }, mem := pages }
theorem wit_fence : ∀ b, Memory.wf (sTwo 8 [] b) = true ∧ startable (sTwo 8 [] b).dev 1 0 8 = some ({ one 8 [] {} with id := 1 }, {}) ∧
    earlierGone (sTwo 8 [] b).dev { one 8 [] {} with id := 1 } = b := by decide
def epochBytes (v t : Nat) : List Byte := fieldsOf [(24, 8, v), (40, 8, t)]
theorem wit_signal : ∀ b, startable (sTwo 10 (epochBytes 5 0) b).dev 1 0 10 = some ({ one 10 (epochBytes 5 0) {} with id := 1 }, {}) ∧
    earlierGone (sTwo 10 (epochBytes 5 0) b).dev { one 10 (epochBytes 5 0) {} with id := 1 } = b := by decide +kernel
theorem wit_signal_runs : ranOk (addEpoch 1 0 5) (onDev (startPart 1 0) (workOf (sTwo 10 (epochBytes 5 0) true))) = true := by
  decide +kernel
theorem wit_wait : ∀ v ∈ [0, 1], startable (sTwo 9 (epochBytes v 0) true).dev 1 0 9 = some ({ one 9 (epochBytes v 0) {} with id := 1 }, {}) ∧
    (getRing (sTwo 9 (epochBytes v 0) true).dev 0).waiting = some 1 ∧
    (match (readEpoch 1 (fieldOf { one 9 (epochBytes v 0) {} with id := 1 } 16 1)).run
        (onDev (startPart 1 0) (workOf (sTwo 9 (epochBytes v 0) true))) with
      | (.ok n, _) => decide (n = 0)
      | _ => false) = true ∧ waitValue { one 9 (epochBytes v 0) {} with id := 1 } = v := by decide +kernel
theorem wit_wait_timeout : fieldOf { one 9 (epochBytes 1 7) {} with id := 1 } 40 8 = 7 ∧
    startable (sTwo 9 (epochBytes 1 7) true).dev 1 0 9 = some ({ one 9 (epochBytes 1 7) {} with id := 1 }, {}) ∧
    7 ≤ ((sTwo 9 (epochBytes 1 7) true).dev.pace.time - 0).toNat ∧
    (∀ v ∈ [0, 1], ((readEpoch 1 0).run (workOf (sTwo 9 (epochBytes v 7) true))).1.toOption = some 0) := by decide +kernel
/-- The same WAIT on a ring that an error has stopped. -/
def sStopped : State := { sTwo 9 (epochBytes 1 7) true with dev := { (sTwo 9 (epochBytes 1 7) true).dev with
  rings := [(0, { ring0 with enable := true, waiting := some 1, state := 3, err := 1 })] } }
theorem wit_wait_stopped : startable sStopped.dev 1 0 9 = some ({ one 9 (epochBytes 1 7) {} with id := 1 }, {}) ∧
    (getRing sStopped.dev 0).waiting = some 1 ∧ (getRing sStopped.dev 0).enable = true ∧ (getRing sStopped.dev 0).state = 3 ∧
    tabWf {} sStopped.dev.rings = true ∧ ((readEpoch 1 0).run (workOf sStopped)).1.toOption = some 0 := by decide +kernel

/-- The replay ring at the end of its pass, as REPLAY_LEFT stands. -/
def sBoundary (left : Byte) : State :=
  { dev := { devUp with ctxs := replayCtxs, rings := [(0, { ring0 with enable := true, mode := 1, progLen := 4, state := 4, head := 4 })] }
    mem := pages ++ stepRecord left true }
theorem wit_boundary : ∀ l ∈ [(1 : Byte), 2], let s := sBoundary l
    let x := getRing s.dev 0
    Memory.wf s = true ∧ tabWf {} s.dev.rings = true ∧ x.boundaryHeld = false ∧ x.enable = true ∧ x.mode = 1 ∧ x.state = 4 ∧
    x.progLen.toNat ≤ x.head.toNat ∧ outstanding s.dev 0 = [] ∧ (getMirror s.dev x.ctx.toNat).stepEn = false ∧
    (match (boundaryRecord 0 1 (getCtx s.dev 1).stepRec).run (workOf s) with
      | (.ok (step, left, stop), w) => decide (step = 2 ∧ left + 1 = l.toNat ∧ stop = false ∧ w.wiped = .none)
      | _ => false) = true ∧ castHeld s.dev 1 2 = false := by decide +kernel
def sGroupOf (on : Bool) : State := upDev fun v => { v with groups := [(3, { enable := on, ctx := 1 })] }
theorem wit_abort : tabWf {} (sGroupOf true).dev.ctxs = true ∧ (getGroup (sGroupOf true).dev 3).enable = true ∧
    (getCtx (sGroupOf true).dev 1).state = 1 ∧ (∀ y ∈ (sGroupOf true).dev.descs, y.cls ≠ 6 ∧ y.cls ≠ 7) ∧
    (getGroup (sGroupOf false).dev 3).enable = false ∧ attnHeld (sGroupOf true).dev.attn < 64 := by decide

def event : AttnEvent := ⟨1, 8, 1, 0, [1]⟩
def sAttn (base : W64) : State := upDev fun v => { v with attn := { v.attn with enable := true, base := base, held := [event] } }
theorem wit_attn : up.dev.attn.held = [] ∧ Memory.wf (sAttn 0x40050000) = true ∧ (sAttn 0x40050000).dev.attn.held = event :: [] ∧
    attnRoom (sAttn 0x40050000).dev.attn ≠ 0 ∧ (sAttn 0x40050000).dev.power.railsUp = true ∧ (sAttn 0x40050000).dev.power.lost = .none := by decide
theorem wit_attn_held : attnRoom up.dev.attn = 0 ∧ up.dev.attn.held.length < 64 ∧ 64 ≤ (List.replicate 64 event).length ∧
    attnRoom { (sAttn 0).dev.attn with tail := 64 } = 0 := by decide
def attnWriteOf (s : State) : Acc Unit := attnPut (s.dev.attn.base + BitVec.ofNat 64 (64 * (s.dev.attn.tail.toNat % 64))) (attnBytes event 0 1)
theorem wit_attn_write : ranOk (attnWriteOf (sAttn 0x40050000)) (workOf (sAttn 0x40050000)) = true ∧
    stopOf (attnWriteOf (sAttn 0x80000000)) (workOf (sAttn 0x80000000)) = some (.fail stTranslation 0x80000000) ∧
    phaseOf (sAttn 0x40050000).dev.attn.tail.toNat 64 = 1 := by decide +kernel
/-- The ring's page table entry is an uncorrectable word. -/
def sAttnUe : State := { sAttn 0x100000000 with dev := { (sAttn 0x100000000).dev with ue := [0x2020] } }
theorem wit_attn_ue : Memory.wf sAttnUe = true ∧ sAttnUe.dev.power.railsUp = true ∧ tabWf {} sAttnUe.dev.ctxs = true ∧ sAttnUe.dev.attn.held = event :: [] ∧
    (stopOf (attnWriteOf sAttnUe) (workOf sAttnUe)).any (fun e => match e with | .fail st _ => decide (st = stMemoryUe) | _ => false) = true := by
  decide +kernel
theorem wit_attn_enable : WriteLands up 0x48010 true ∧ (getCtx up.dev 0).enable = true ∧ up.dev.attn.enable = false :=
  ⟨up_lands _, by decide⟩
def sPulse (low : Bool) : State := upDev fun v => { v with attn := { v.attn with
  pulseDue := true, pulseLow := low, pulseStart := v.pace.time - 1000, gapFrom := some (v.pace.time - 4000) } }
theorem wit_pulse : (sPulse false).dev.attn.pulseDue = true ∧ (sPulse false).dev.power.rbHigh = true ∧ (sPulse false).dev.attn.pulseLow = false ∧
    (∀ u, (sPulse false).dev.attn.gapFrom = some u → 4000 ≤ ((sPulse false).dev.pace.time - u).toNat) ∧
    (sPulse true).dev.attn.pulseLow = true ∧ 1000 ≤ ((sPulse true).dev.pace.time - (sPulse true).dev.attn.pulseStart).toNat :=
  ⟨rfl, rfl, rfl, fun u h => by cases h; decide, rfl, by decide⟩

/-! ### Engines -/

/-- An MM descriptor of one 1 × 1 × 1 product of FP32 elements in core store 0, on engine 0; `bank` is its BANK field. -/
def mmBytes (bank op : Nat) : List Byte :=
  fieldsOf [(16, 8, 0x40010000), (24, 8, 0x40020000), (32, 8, 0x40030000), (40, 8, 0x40040000), (48, 8, 0x40050000),
    (72, 4, 1), (76, 4, 1), (80, 4, 1), (84, 4, 4), (88, 4, 4),
    (92, 4, 4), (100, 2, 1), (107, 1, 16 * op), (109, 1, bank), (125, 1, 1)]
def mmDesc (bank op : Nat) : Desc := one 0 (mmBytes bank op) {}
/-- 1.5 and 2.0 as A and B. -/
def sMm (x : Desc) (es : Tab Engine) : State := { dev := { devUp with descs := [x], nextDesc := 1, engines := es }, mem := pages ++
  [(0x8000010002, 0xC0), (0x8000010003, 0x3F), (0x8000020003, 0x40)] }
def nextOf (c : Instr) (s : State) : State :=
  match exec c s with
  | .next t => t
  | _ => s
def gatherBytes : List Byte := fieldsOf [(72, 4, 1), (76, 4, 1), (80, 4, 1), (84, 4, 4), (92, 4, 4), (125, 1, 1)]
def gatherDesc : Desc := one 3 gatherBytes {}
def engineTest (x : Desc) : Bool :=
  let s := sMm x []
  mayStart s.dev x && x.parts.zipIdx.all (fun c => c.1.state = .queued && (findPart (getEngine s.dev c.1.unit) 0 c.2).isNone &&
    !isFenced s.dev (c.1.unit / 4) && blockCount x c.2 ≠ 0 && decide (queuedOf (getEngine s.dev c.1.unit) false < 8) &&
    !earlierOutside s.dev x c.1.unit)
theorem wit_engine_queues : engineTest (mmDesc 0 0) = true ∧ engineTest (mmDesc 0 1) = true ∧ engineTest (mmDesc 1 0) = true ∧
    engineTest gatherDesc = true ∧ bankModeOf (mmDesc 0 0) = 0 ∧ (mmOf (mmDesc 0 0).bytes).op = 0 ∧ (mmOf (mmDesc 0 1).bytes).op = 1 ∧
    bankModeOf (mmDesc 1 0) = 1 ∧ onEngine gatherDesc = true := by decide +kernel
/-- A drain-only part, with its bank as given. -/
def sDrain (ph : BankPhase) : State := sMm (mmDesc 2 0) [(0, { bank0 := { phase := ph, ctx := 1 }, closes := 1 })]
theorem wit_drain : ∀ ph ∈ [BankPhase.held, .free], let s := sDrain ph
    tabWf {} s.dev.engines = true ∧ (mmOf (mmDesc 2 0).bytes).bankMode = 2 ∧ findPart (getEngine s.dev 0) 0 0 = none ∧
    mayStart s.dev (mmDesc 2 0) = true ∧ isFenced s.dev 0 = false ∧ (mmOf (mmDesc 2 0).bytes).m ≠ 0 ∧ (mmOf (mmDesc 2 0).bytes).n ≠ 0 ∧
    (getBank (getEngine s.dev 0) (mmOf (mmDesc 2 0).bytes).bankSel).phase = ph ∧ queuedOf (getEngine s.dev 0) true = 0 := by decide +kernel
/-- The bank named is held by another context, or filled by one, or by this one not in keep mode. -/
def sOther (ph : BankPhase) (ctx : Nat) : State :=
  sMm (mmDesc 2 0) [(0, { bank0 := { phase := ph, ctx := ctx, owner := some (7, 0) }, closes := 1 })]
theorem wit_drain_other : ∀ c ∈ [(BankPhase.held, 2), (.filling, 2), (.filling, 1)],
    let b := getBank (getEngine (sOther c.1 c.2).dev 0) (mmOf (mmDesc 2 0).bytes).bankSel
    ¬(b.phase = .held ∧ b.ctx = 1) ∧ keepFilling (sOther c.1 c.2).dev b 1 = false := by decide +kernel
def sQueued : State := sMm (mmDesc 0 0) [(0, { queue := [{ d := 0, p := 0 }] })]
/-- One part from its first pass boundary on: loaded, exchanged, closed, draining. -/
def sLoaded : State := nextOf (.passBoundary 0) sQueued
def sPassed : State := nextOf (.shadowExchange 0) sLoaded
def sClosed : State := nextOf (.bankClose 0 0) sPassed
def sDraining : State := nextOf (.treeEmpty 0 0) sClosed
theorem wit_pass_idle : pickPart up.dev 127 (getEngine up.dev 127) = none := rfl
theorem wit_pass : Memory.wf sQueued = true ∧ tabWf {} sQueued.dev.engines = true ∧
    pickPart sQueued.dev 0 (getEngine sQueued.dev 0) = some { d := 0, p := 0 } ∧
    bankFor sQueued.dev (getEngine sQueued.dev 0) (mmDesc 0 0) { d := 0, p := 0 } = some 0 ∧
    findPart (getEngine sQueued.dev 0) 0 0 = some { d := 0, p := 0 } ∧ mustWait sQueued.dev { d := 0, p := 0 } = none ∧
    (match (loadBody 0 (mmDesc 0 0) { d := 0, p := 0 }).run (onDev (begun 0 { d := 0, p := 0 }) (workOf sQueued)) with
      | (.ok (st, _, _), w) => st.loaded && decide (w.wiped = .none)
      | _ => false) = true := by decide +kernel
theorem wit_exchange : let g := getEngine sLoaded.dev 0
    Memory.wf sLoaded = true ∧ g.shadow.loaded = true ∧ (findPart g 0 0).isSome = true ∧ g.current = some (0, 0) ∧
    closeDue g 0 = false ∧ closeDue g 1 = false ∧
    (match findPart g 0 0, getDesc sLoaded.dev 0 with
      | some q, some x => decide (q.bank = some 0) && decide (q.block = g.shadow.block ∧ q.tile = g.shadow.tile) &&
          (match (passBody 0 0 x q g.shadow true (getBank g 0)).run (workOf sLoaded) with
            | (.ok (some _), w) => decide (w.wiped = .none ∧ bankModeOf x ≠ 1)
            | _ => false)
      | _, _ => false) = true := by decide +kernel
/-- A part in keep mode before its last pass, in a context that is on. -/
def sKeep : State := nextOf (.passBoundary 0) (sMm (mmDesc 1 0) [(0, { queue := [{ d := 0, p := 0 }] })])
theorem wit_keep_pass : let g := getEngine sKeep.dev 0
    Memory.wf sKeep = true ∧ tabWf {} sKeep.dev.engines = true ∧ g.shadow.loaded = true ∧ g.current = some (0, 0) ∧
    closeDue g 0 = false ∧ closeDue g 1 = false ∧
    (match findPart g 0 0, getDesc sKeep.dev 0 with
      | some q, some x => decide (q.bank = some 0 ∧ q.second = false ∧ q.block = g.shadow.block ∧ q.tile = g.shadow.tile ∧
            bankModeOf x = 1 ∧ isPair x = false ∧ x.parts.length = 1) &&
          (match (passBody 0 0 x q g.shadow true (getBank g 0)).run (workOf sKeep) with
            | (.ok (some (j, blk, _)), w) => decide (w.wiped = .none ∧ j.tiles blk ≤ q.tile + 1)
            | _ => false)
      | _, _ => false) = true := by decide +kernel
/-- A backward pair after its first pass. -/
def sPair : State :=
  nextOf (.shadowExchange 0) (nextOf (.passBoundary 0) (sMm (mmDesc 0 1) [(0, { queue := [{ d := 0, p := 0 }] })]))
def pairSecond (q : EngPart) (x : Desc) : Bool :=
  let g := getEngine sPair.dev 0
  let w : Work := onDev (modEngine 0 (fun g => { g with current := some (q.d, q.p) })) (workOf sPair)
  q.second && q.started && decide (q.bank = some 0 ∧ findPart g q.d q.p = some q ∧ bankModeOf x ≠ 1) && holdsTile g.active q &&
    (match (passBody 0 0 x q g.active false (getBank g 0)).run w with
      | (.ok (some _), u) => decide (u.wiped = Wipe.none)
      | _ => false)
theorem wit_second_pass : Memory.wf sPair = true ∧
    (match pickPart sPair.dev 0 (getEngine sPair.dev 0), getDesc sPair.dev 0 with
      | some q, some x => pairSecond q x
      | _, _ => false) = true := by decide +kernel
theorem wit_close : let g := getEngine sPassed.dev 0
    (getBank g 0).phase = .filling ∧ (getBank g 0).owner = some (0, 0) ∧ (findPart g 0 0).isSome = true ∧
    (getDesc sPassed.dev 0).isSome = true ∧ closesLater g 0 = false ∧ (getBank g 0).block < ((findPart g 0 0).getD { d := 0, p := 0 }).block := by decide +kernel
theorem wit_tree_empty : let g := getEngine sClosed.dev 0
    (getBank g 0).phase = .closed ∧ (getBank g 1).phase ≠ .draining ∧ ¬((getBank g 1).phase = .closed ∧ (getBank g 1).order < (getBank g 0).order) := by
  decide +kernel
theorem wit_drain_complete : let g := getEngine sDraining.dev 0
    (getBank g 0).phase = .draining ∧ (getBank g 0).owner = some (0, 0) ∧
    (match getDesc sDraining.dev 0 with
      | some x => ranOk (drainBody 0 0 x 0 (getBank g 0)) (workOf sDraining) && decide (x.parts.length = 1)
      | none => false) = true := by decide +kernel
theorem wit_promote : gatherDesc.promoted = false ∧ onEngine gatherDesc = true ∧
    fieldOf gatherDesc 64 8 ≤ ((sMm gatherDesc []).dev.pace.time - gatherDesc.time).toNat := by decide +kernel

/-! ### Kernels and chisel cores -/

/-- A kernel on chisel cores 0 and 1 of cluster 0, entered at 0x60000 with ARG 7 and a time limit of 5 units. -/
def kernelBytes : List Byte := fieldsOf [(16, 8, 0x60000), (24, 8, 7), (32, 8, 5), (40, 1, 3), (176, 1, 0xF0), (185, 1, 1)]
def kernelDesc (st : PartState) : Desc := { one 1 kernelBytes { state := st } with
  parts := [{ state := st }, { state := st }], startedAt := if st = .running then some 0 else none }
def sKernel : State := upDev fun v => { v with descs := [kernelDesc .queued], nextDesc := 1 }
theorem wit_kernel : tabWf {} sKernel.dev.chisels = true ∧ getDesc sKernel.dev 0 = some (kernelDesc .queued) ∧
    partChisel (kernelDesc .queued) 0 = 0 ∧ partChisel (kernelDesc .queued) 1 = 1 ∧
    kernelReady sKernel.dev (kernelDesc .queued) 0 = true ∧ isFenced sKernel.dev 0 = false ∧
    stabLacks sKernel.dev (kernelDesc .queued) (clusterParts (kernelDesc .queued) 0) = none ∧
    (∀ c < 32, clusterParts (kernelDesc .queued) c ≠ [] → kernelReady sKernel.dev (kernelDesc .queued) c = true ∧
      isFenced sKernel.dev c = false ∧ stabLacks sKernel.dev (kernelDesc .queued) (clusterParts (kernelDesc .queued) c) = none) := by
  decide +kernel
/-- Chisel core 0 runs the word at 0x60000, and core 1 is as given. -/
def sChisel (word : Nat) (h : Chisel) (other : RunState) : State :=
  { dev := { devUp with descs := [kernelDesc .running], nextDesc := 1, chisels :=
      [(0, { h with run := .running, pc := 0x60000, regs := [(5, 0x60040), (10, 7)] })] ++
      (if other = .idle then [] else [(1, { run := other, p := 1, pc := 0x61000 })]) }
    mem := pages ++ (((upto 4).map (fun i => (0x60000 + i, natByte word i))).filter (fun c => decide (c.2 ≠ 0))) }
def coreOf (s : State) : Chisel := getChisel s.dev 0
def fetches (word : Nat) (s : State) : Bool :=
  tabWf {} s.dev.chisels && Memory.wf s && decide (chiselOn s.dev 0 = some (coreOf s, kernelDesc .running)) &&
    (match (fetchInstr 0 1).run (workOf s) with
     | (.ok c, _) => decide (c = (word, 4))
     | _ => false)
/-- addi x6, x5, 1; dlaunch x6, x5; dwait x6, x5; dpoll x6, x5; cbar x6; ecall. -/
theorem wit_chisel_fetch : ∀ w ∈ [0x00128313, 0x0002830B, 0x0002930B, 0x0002A30B, 0x0000330B, 0x00000073],
    fetches w (sChisel w {} .idle) = true := by decide +kernel
theorem wit_chisel_words : customOf 0x00128313 = none ∧ isEcall 0x00128313 = false ∧ customOf 0x0002830B = some 0 ∧
    customOf 0x0002930B = some 1 ∧ customOf 0x0002A30B = some 2 ∧ customOf 0x0000330B = some 3 ∧ isEcall 0x00000073 = true := by decide
theorem wit_chisel_execute : let s := sChisel 0x00128313 {} .idle
    ranOk (execute 0 (kernelDesc .running) (coreOf s) 0x00128313 4) ((fetchInstr 0 1).run (workOf s)).2 = true := by decide +kernel
/-- Handles: all held and running, all held and complete, and one held as given. -/
def full (v : Option W64) : Chisel := { handles := List.replicate 16 { desc := some 9, word := v } }
theorem wit_dlaunch_full : (full none).handles.findIdx? (fun k => k.desc.isNone) = none ∧
    (full none).handles.any (fun k => k.word.isNone) = true ∧ (full (some 0)).handles.any (fun k => k.word.isNone) = false := by decide
theorem wit_dlaunch : ({} : Chisel).handles.findIdx? (fun k => k.desc.isNone) = some 0 ∧ xreg (coreOf (sChisel 0x0002830B {} .idle)) 5 = 0x60040 ∧
    xreg (coreOf (sChisel 0x0005030B {} .idle)) 10 = 7 ∧ (7 : W64).toNat % 64 ≠ 0 ∧ (0x60040 : W64).toNat % 64 = 0 ∧
    (getCtx (sChisel 0x0002830B {} .idle).dev 1).state = 1 := by decide
/-- A sub-descriptor that lies in DRAM is not where R136 wants it; one in core store 0 is. -/
def sLaunch : State :=
  { dev := { devUp with descs := [kernelDesc .running], nextDesc := 1, chisels :=
      [(0, { run := .running, pc := 0x60000, regs := [(5, 0x40000040)] })] }
    mem := pages ++ [(0x60000, 0x0B), (0x60001, 0x83), (0x60002, 0x02)] }
def launchWork : Work := ((fetchInstr 0 1).run (workOf sLaunch)).2
theorem wit_dlaunch_store : fetches 0x0002830B sLaunch = true ∧ (stabFree launchWork.dev 0).isSome = true ∧
    (match (atomicTarget 0 1 0x40000040 false).run launchWork with
     | (.ok (_, true), w1) => (match (subBytes 0 1 0x40000040).run w1 with
       | (.ok bs, w2) => (match (subEnter 0 (coreOf sLaunch) (kernelDesc .running) 0 bs true).run w2 with
         | (.ok _, w3) => decide ((getCtx w3.dev 1).state = 1)
         | _ => false)
       | _ => false)
     | _ => false) = true := by decide +kernel
theorem wit_handles : handleOf ({} : Chisel) 7 = none ∧ handleOf (full (some 3)) 15 = some { desc := some 9, word := some 3 } ∧
    handleOf (full none) 0 = some { desc := some 9, word := none } ∧ handleOf (full none) 16 = none := by decide
theorem wit_cbar : (∃ k ∈ kernelCores (sChisel 0x0000330B {} .running).dev 0 0, k ≠ 0 ∧ (getChisel (sChisel 0x0000330B {} .running).dev k).run ≠ .atCbar) ∧
    (∀ k ∈ kernelCores (sChisel 0x0000330B {} .atCbar).dev 0 0, k ≠ 0 → (getChisel (sChisel 0x0000330B {} .atCbar).dev k).run = .atCbar) := by
  decide +kernel
theorem wit_ecall : (coreOf (sChisel 0x73 {} .idle)).p < (kernelDesc .running).parts.length ∧
    (coreOf (sChisel 0x73 {} .idle)).handles = List.replicate 16 {} ∧
    (coreOf (sChisel 0x73 (full none) .idle)).handles.any (fun k => k.desc.isSome && k.word.isNone) = true := by decide +kernel
theorem wit_chisel_trap : fetches 0 (sChisel 0 {} .idle) = false ∧
    stopOf (fetchInstr 0 1) (workOf (sChisel 0 {} .idle)) = some (.fail stKernelFault 0) := by decide +kernel
/-- The word's line, and that of what `lw x6, 0(x5)` loads, stand in the directory. -/
def sChiselDir (line : Nat) : State :=
  { sChisel 0x0002A303 {} .idle with dev := { (sChisel 0x0002A303 {} .idle).dev with cxl := { devUp.cxl with directory := [{ line := line }] } } }
theorem wit_chisel_waits : stopOf (fetchInstr 0 1) (workOf (sChiselDir 0x1800)) = some .wait ∧ fetches 0x0002A303 (sChiselDir 0x1801) = true ∧
    customOf 0x0002A303 = none ∧ isEcall 0x0002A303 = false ∧
    stopOf (execute 0 (kernelDesc .running) (coreOf (sChiselDir 0x1801)) 0x0002A303 4) ((fetchInstr 0 1).run (workOf (sChiselDir 0x1801))).2 =
      some .wait := by decide +kernel
theorem wit_kernel_timeout : let s := sChisel 0x13 {} .running
    getDesc s.dev 0 = some (kernelDesc .running) ∧ isKernel (kernelDesc .running) = true ∧ fieldOf (kernelDesc .running) 32 8 = 5 ∧
    (kernelDesc .running).startedAt = some 0 ∧ 5 ≤ (s.dev.pace.time - 0).toNat ∧ (getChisel s.dev 1).run ≠ .idle := by decide +kernel
def subDesc : Desc := { one 8 (fieldsOf [(1, 1, 0xFF)]) { state := .done } with id := 1, sub := some (0, 2), parent := some (0, 0) }
def sSub : State := upDev fun v => { v with descs := [kernelDesc .running, subDesc], nextDesc := 2, chisels :=
  [(0, { run := .running, handles := (List.replicate 16 {}).set 2 { desc := some 1 } })] }
theorem wit_sub_complete : tabWf {} sSub.dev.chisels = true ∧ getDesc sSub.dev 1 = some subDesc ∧ allDone subDesc = true ∧
    (getChisel sSub.dev 0).handles.length = 16 ∧ (getChisel sSub.dev 0).run ≠ .idle ∧
    ((getChisel sSub.dev 0).handles.getD 2 {}).desc = some 1 ∧ ranOk (completeEffects subDesc) (workOf sSub) = true ∧
    ((completeEffects subDesc).run (workOf sSub)).2.wiped = .none := by decide +kernel
/-- The same core with its word fetched before, and the stream table of core 0 full. -/
def fetchedCore : Chisel := { run := .running, pc := 0x60000, regs := [(5, 0x40000040)], fetched := [(0x30000, some 0x830B), (0x30001, some 2)] }
def sLaunchFull : State := { sLaunch with dev := { sLaunch.dev with stab := List.replicate 32768 ⟨0, 0, 7, 0⟩, chisels := [(0, fetchedCore)] } }
theorem parcel_fetched (i ctx : Nat) (a : W64) (h : W16) (w : Work) (e : tabGet none (getChisel w.dev i).fetched (a.toNat / 2) = some h) :
    (fetchParcel i ctx a).run w = (.ok h.toNat, w) := by
  unfold fetchParcel
  refine (acc_bind_ok (acc_get w)).trans ?_
  dsimp only
  rw [e]
  rfl
theorem wit_dlaunch_waits : (fetchInstr 0 1).run (workOf sLaunchFull) = (.ok (0x0002830B, 4), workOf sLaunchFull) ∧
    stabFree sLaunchFull.dev 0 = none ∧ chiselOn sLaunchFull.dev 0 = some (fetchedCore, kernelDesc .running) := by
  have g : getChisel sLaunchFull.dev 0 = fetchedCore := rfl
  refine ⟨?_, full_table _ ⟨0, 0, 7, 0⟩ rfl rfl, by rfl⟩
  unfold fetchInstr
  refine (acc_bind_ok (acc_get _)).trans ?_
  dsimp only
  refine (acc_bind_ok (parcel_fetched 0 1 _ 0x830B _ (by decide))).trans ?_
  exact acc_bind_ok (parcel_fetched 0 1 _ 2 _ (by decide))

/-! ### Parts that run as a whole, and tests -/

/-- A descriptor of a class with fields, and what its part's computation answers from a state of its own. -/
def partDesc (cls : Nat) (l : List (Nat × Nat × Nat)) : Desc := one cls (fieldsOf l) {}
def sPart (cls : Nat) (l : List (Nat × Nat × Nat)) : State :=
  { dev := { devUp with descs := [partDesc cls l], nextDesc := 1 }, mem := operands }
def partRan (cls : Nat) (l : List (Nat × Nat × Nat)) (body : Desc → Part → Nat → Acc Unit) : Bool :=
  let s := sPart cls l
  ranOk (body (partDesc cls l) {} 0) (onDev (startPart 0 0) (workOf s)) && Memory.wf s && !onFenced s.dev 0 0 && (stabBlocked s.dev 0 0).isNone &&
    (if cls = 3 ∨ cls = 4 ∨ cls = 5 then decide (ready s.dev 0 0 cls = some (partDesc cls l, {}))
     else decide (startable s.dev 0 0 cls = some (partDesc cls l, {}))) &&
    !enginesHeld s.dev (partDesc cls l) {} 0 && !underTest s.dev 3 0 && !testBefore s.dev (partDesc cls l) 3 0
theorem wit_fold : statOp (partDesc 3 [(110, 1, 1)]).bytes = 1 ∧ partRan 3 [(110, 1, 1)] foldBody = true := by decide +kernel
theorem wit_norm : statOp (partDesc 3 [(110, 1, 2)]).bytes = 2 ∧ partRan 3 [(110, 1, 2)] normBody = true := by decide +kernel
theorem wit_root : (rtOf (partDesc 4 []).bytes).op = 0 ∧ partRan 4 [] (rootBody false) = true := by decide +kernel
theorem wit_apply : (rtOf (partDesc 4 [(100, 1, 1)]).bytes).op = 1 ∧ partRan 4 [(100, 1, 1)] applyBody = true := by decide +kernel
theorem wit_solve : (rtOf (partDesc 5 []).bytes).op = 0 ∧ partRan 5 [] (rootBody true) = true := by decide +kernel
/-- A COPY of four bytes from 0x10000 to 0x20000. -/
def copyFields : List (Nat × Nat × Nat) := [(16, 8, 0x10000), (24, 8, 0x20000), (32, 4, 4)]
theorem wit_copy : copyDir (partDesc 7 copyFields).bytes = 0 ∧ (copySpan (partDesc 7 copyFields) 0).2 = 4 ∧
    partRan 7 copyFields copyLocal = true := by decide +kernel
theorem wit_check : checkOp (partDesc 12 [(62, 1, 0), (32, 8, 0x20000), (3, 1, 0)]).bytes = 0 ∧ isFenced devUp 0 = false ∧
    partRan 12 [(62, 1, 0), (32, 8, 0x20000), (3, 1, 0)] printBody = true := by decide +kernel
def lossFields : List (Nat × Nat × Nat) := [(16, 8, 0x10000), (32, 8, 0x20000), (62, 1, 2)]
theorem wit_losscmp : checkOp (partDesc 12 lossFields).bytes = 2 ∧ partRan 12 lossFields (fun x _ _ => lossBody x) = true := by
  decide +kernel
def pointFields : List (Nat × Nat × Nat) := [(16, 8, 0x30000), (32, 8, 0x20000), (48, 4, 1), (58, 2, 1), (62, 1, 1)]
theorem wit_point : checkOp (partDesc 12 pointFields).bytes = 1 ∧ partRan 12 pointFields (fun x _ _ => pointBody x) = true := by
  decide +kernel

/-- A CASTMARK on a mould whose slot 0 is paired for context 1: a CLOSE, or a RECORD of one plane of one BF16 element. -/
def castFields (close : Bool) : List (Nat × Nat × Nat) :=
  [(16, 8, 0x40030000), (24, 8, 0x40020000), (40, 4, 128), (47, 1, if close then 1 else 0), (48, 2, if close then 0 else 1), (50, 2, 1)]
def castDesc (close : Bool) : Desc := partDesc 11 (castFields close)
def sCast (close : Bool) : State :=
  { dev := { devUp with descs := [castDesc close], nextDesc := 1, mould := { devUp.mould with role := 2, pairs := [{ state := 2, ctx := 1 }, {}, {}, {}, {}] } }
    mem := pages ++ [(0x8000010000, 5), (0x8000030002, 1), (0x8000030003, 0x40), (0x8000030009, 1), (0x800003000A, 1), (0x800003000B, 0x40), (0x8000030010, 1), (0x8000030014, 2), (0x8000030015, 1)] }
theorem wit_castmark : ∀ close, let s := sCast close
    Memory.wf s = true ∧ startable s.dev 0 0 11 = some (castDesc close, {}) ∧ (castOf (castDesc close).bytes).close = close ∧
    castRoleOk s.dev 1 (castDesc close).bytes = true := by decide +kernel
theorem wit_castmark_record : ranOk (castBody (castDesc false)) (onDev (startPart 0 0) (workOf (sCast false))) = true := by decide +kernel
theorem wit_castmark_close : ranOk (castBody (castDesc true)) (onDev (startPart 0 0) (workOf (sCast true))) = true := by decide +kernel
/-- A module of two: port 0 leads to node 5, rank 1 of group 3, of which this module is rank 0. -/
def duo : GroupRec := { members := 2, ownRank := 0, portMask := 1, entries := [⟨0, 1, 3, 0⟩, ⟨5, 1, 3, 9⟩] }
def devDuo (l : List Desc) : Dev :=
  { devUp with descs := l, nextDesc := l.length, ports := [(0, { enable := true, state := 2, lanes := 8, partner := 5 })]
               members := [(5, { state := 2, incarn := 9 })], routes := [(5, { ports := 1, valid := true })]
               groups := [(3, { enable := true, ctx := 1, record := duo })] }
def copyPeer (dir : Nat) : Desc := partDesc 7 (copyFields ++ [(36, 1, 3), (37, 1, dir), (38, 2, 1)])
theorem wit_copy_peer : ∀ dir ∈ [1, 2], let x := copyPeer dir
    let s : State := { dev := devDuo [x], mem := operands }
    startable s.dev 0 0 7 = some (x, {}) ∧ copyDir x.bytes = dir ∧ (copySpan x 0).2 = 4 ∧ copyGroupOk s.dev x.ctx x.bytes = true ∧
      ranOk (copyAsk x {} 0) (workOf s) = true := by decide +kernel
theorem wit_part_not_ready : (∀ cls ∈ [3, 4, 5], ready up.dev 0 0 cls = none) ∧ ∀ cls ∈ [7, 11, 12], startable up.dev 0 0 cls = none := by
  decide

/-- A TEST of a kind, with FENCE or without, whose record goes to 0x4002_0000. -/
def testFields (kind unit : Nat) (fence : Bool) : List (Nat × Nat × Nat) :=
  [(16, 1, kind), (17, 1, if fence then 1 else 0), (18, 2, unit), (24, 8, 0x40020000)]
def testDesc (kind unit : Nat) (fence : Bool) : Desc := partDesc 13 (testFields kind unit fence)
def sTest (kind unit : Nat) (fence : Bool) : State := { dev := { devUp with descs := [testDesc kind unit fence], nextDesc := 1 }, mem := pages }
theorem wit_test : ∀ k ∈ [(1, 127), (2, 2047), (3, 31), (4, 639), (5, 23)], ∀ fence ∈ [false, true],
    let s := sTest k.1 k.2 fence
    Memory.wf s = true ∧ testReady s.dev k.1 0 = true ∧ onFenced s.dev 0 0 = false ∧ stabBlocked s.dev 0 0 = none ∧
    (getDesc (startPart 0 0 s.dev) 0).isSome = true ∧ testUnit (testDesc k.1 k.2 fence).bytes = k.2 ∧
    channelBad s.dev k.2 = false ∧ natBit (leAt (testDesc k.1 k.2 fence).bytes 17 1) 0 = fence := by decide +kernel
/-- An APPLY on engine 0 and a FINGERPRINT on cluster 0, each beside a TEST of its unit that runs. -/
def sHeldBy (x : Desc) (kind : Nat) : State :=
  upDev fun v => { v with descs := [{ testDesc kind 0 false with id := 1, parts := [{ state := .running }] }, x], nextDesc := 2 }
def applyOn0 : Desc := partDesc 4 [(100, 1, 1), (104, 1, 1)]
def printOn0 : Desc := partDesc 12 [(62, 1, 0)]
theorem wit_part_held : ready (sHeldBy applyOn0 1).dev 0 0 4 = some (applyOn0, {}) ∧ enginesHeld (sHeldBy applyOn0 1).dev applyOn0 {} 0 = true ∧
    startable (sHeldBy printOn0 3).dev 0 0 12 = some (printOn0, {}) ∧ underTest (sHeldBy printOn0 3).dev 3 0 = true := by decide +kernel
theorem wit_test_runs : ∀ k ∈ [(1, 127), (2, 2047), (3, 31), (4, 639), (5, 23)], ∀ fail ∈ [0, 1],
    ranOk (testReport (testDesc k.1 k.2 true) fail 7) (onDev (startPart 0 0) (workOf (sTest k.1 k.2 true))) = true := by decide +kernel
/-- The same tests once they have begun. -/
def sTesting (kind unit : Nat) : State := nextOf (if kind = 1 then .testEngine ⟨0, .begin_⟩ false 0 else if kind = 2 then
  .testCstoreBank ⟨0, .begin_⟩ false 0 else if kind = 3 then .testTidy ⟨0, .begin_⟩ false 0 else if kind = 4 then
  .testDramChannel ⟨0, .begin_⟩ false 0 else .testPort ⟨0, .begin_⟩ false 0) (sTest kind unit true)
theorem wit_test_begun : ∀ k ∈ [(1, 127), (2, 2047), (3, 31), (4, 639), (5, 23)],
    testRuns (sTesting k.1 k.2).dev k.1 0 = true ∧
    (match getDesc (sTesting k.1 k.2).dev 0 with
     | some x => ranOk (testReport x 0 7) (workOf (sTesting k.1 k.2))
     | none => false) = true := by decide +kernel
/-- A watchdog restart meets a test that runs. -/
theorem wit_test_watchdog : let s := sTesting 3 31
    Memory.wf s = true ∧ tabWf {} s.dev.ctxs = true ∧ s.dev.arm.wdtArmed = true ∧ (∀ c ∈ s.dev.groups, c.2.enable = false) ∧
    s.dev.power.lost = .none ∧
    (match s.dev.descs with
     | [x] => decide (x.cls = 0xD ∧ x.parts.length = 1 ∧ (getCtx s.dev x.ctx).state = 1) && x.parts.all (fun q => q.state = .running) &&
         ranOk (testReport x 2 0) (workOf s)
     | _ => false) = true := by decide +kernel
theorem wit_test_fenced : testCore 1 127 = some 31 ∧ testCore 2 2047 = some 31 ∧ testCore 3 31 = some 31 ∧ testCore 4 639 = none := by decide
theorem wit_test_sensors : let s := sTest 6 0 false
    Memory.wf s = true ∧ testReady s.dev 6 0 = true ∧
    (match getDesc (startPart 0 0 s.dev) 0 with
     | some x => ranOk (testReport x 1 1) (onDev (sensorsNow 1) (onDev (startPart 0 0) (workOf s)))
     | none => false) = true := by decide +kernel
/-- DEVICE from context 0, with the device quiescent but for it, in a park state; from context 1 it is not. -/
def deviceDesc (ctx : Nat) : Desc := { testDesc 15 0 false with ctx := ctx }
def sDevice (ctx : Nat) (park : BitVec 3) : State :=
  { dev := { devUp with descs := [deviceDesc ctx], nextDesc := 1, pace := { devUp.pace with parkState := park }, ctxs := if ctx = 0 then [(0, { ptRoot := 1, enable := true, state := 1 })] else devUp.ctxs }
    mem := pages }
theorem wit_test_device : ∀ c ∈ [(0, 0), (0, 2), (1, 0)], let s := sDevice c.1 (BitVec.ofNat 3 c.2)
    Memory.wf s = true ∧ getDesc s.dev 0 = some (deviceDesc c.1) ∧ (deviceDesc c.1).cls = 0xD ∧ testKind (deviceDesc c.1).bytes = 15 ∧
    (getCtx s.dev c.1).state = 1 ∧ fencesPassed s.dev (deviceDesc c.1) = true ∧ (deviceDesc c.1).parts[0]?.any (fun q => q.state = .queued) = true ∧
    quiescent (some 0) s.dev = decide (c.1 = 0) ∧
    (c.1 = 0 → ranOk (deviceBody (deviceDesc 0) 5 0) (onDev deviceOpen (onDev (startPart 0 0) (workOf s))) = true) := by decide +kernel

/-! ### Collectives -/

def collBytes (op cnt : Nat) : List Byte :=
  fieldsOf ([(16, 8, 0x10000), (24, 8, if op = 4 then 0x10000 else 0x20000), (64, 8, 5), (72, 4, cnt), (84, 1, op), (85, 1, 3)] ++
    (if op = 4 then [(48, 8, 0x30000), (76, 4, 1), (80, 2, 1)] else if op < 2 then [(40, 8, 0x40000)] else []))
def collDesc (op cnt : Nat) (c : CollRun) : Desc :=
  { one 6 (collBytes op cnt) { state := if c.stage = 0 then .queued else .running } with coll := some c }
/-- A run at a stage that has sent some segments and has written others. -/
def runOf (stage : Nat) (sent got : List (Nat × Nat)) : CollRun :=
  { seq := 0, ports := [0], stage := stage, opened := 1, sent := sent.map (fun e => ⟨e.1, 1, e.2, 0⟩), got := got }
/-- The header of a collective as this module would send it. -/
def headerOf (x : Desc) (s : State) : CollHeader :=
  match (ownHeader x duo3 0).run (workOf s) with
  | (.ok h, _) => h
  | _ => ⟨0, 0, 0, 0, 0, false, 0, 0⟩
where duo3 : Group := { record := duo }
/-- A collective under way whose peer's header and credit are here, and what has come from the peer; the permutation table
is the identity. -/
def sColl (x : Desc) (rx : List CollRx) : State :=
  let s : State := { dev := devDuo [x], mem := operands ++ [(0x30004, 1)] }
  { s with dev := { s.dev with groups := [(3, { enable := true, ctx := 1, record := duo, nextSeq := 1, headers := [(1, headerOf x s)]
                                                credits := [(1, 0, none), (1, 0, some 0)], rx := rx })] } }
def collRuns (op cnt : Nat) (c : CollRun) (rx : List CollRx) (ends : Bool) : Bool :=
  let x := collDesc op cnt c
  let s := sColl x rx
  let w2 := collCheck x (workOf s)
  Memory.wf s && decide (getDesc s.dev 0 = some x) && decide ((collOf x.bytes).op = op) && decide (getDesc w2.dev 0 = some x) &&
    decide (w2.stores = [] ∧ w2.dest = [] ∧ w2.snooped = [] ∧ w2.flags = {}) && decide (s.dev.power.lost = .none) &&
    (match (collGo x c).run w2 with
     | (.ok out, w) => out == ends && decide (w.wiped = .none ∧ w.dev.power = s.dev.power)
     | _ => false)
def rxOf (phase n : Nat) : CollRx := ⟨1, 0, phase, 0, List.replicate n 0, 0⟩
theorem wit_allreduce : collRuns 0 2 (runOf 2 [(0, 0), (3, 0)] [(0, 0)]) [rxOf 3 4] true = true ∧
    collRuns 0 2 (runOf 2 [(0, 0), (3, 0)] [(0, 0)]) [] false = true := by decide +kernel
theorem wit_reducescatter : collRuns 1 2 (runOf 2 [(0, 0)] [(0, 0)]) [] true = true ∧
    collRuns 1 2 (runOf 2 [] [(0, 0)]) [] false = true := by decide +kernel
theorem wit_allgather : collRuns 2 1 (runOf 2 [(0, 0)] [(0, 0)]) [rxOf 0 4] true = true ∧
    collRuns 2 1 (runOf 1 [] []) [] false = true := by decide +kernel
theorem wit_broadcast : collRuns 3 1 (runOf 2 [(0, 0)] []) [] true = true ∧ collRuns 3 1 (runOf 1 [] []) [] false = true := by
  decide +kernel
theorem wit_permute : collRuns 4 64 (runOf 1 [] []) [] true = true := by decide +kernel
theorem wit_coll_arrivals : let s : State := { dev := devDuo [] }
    portUp (getPort s.dev 0) = true ∧ groupLive s.dev 3 = true ∧ (otherRanks (getGroup s.dev 3)).contains 1 = true ∧ seqOpen s.dev 3 0 = true ∧
    (getGroup s.dev 3).headers = [] ∧ (getGroup s.dev 3).credits = [] ∧ collFind s.dev 3 0 = none ∧
    (getGroup s.dev 3).kind = (getPort s.dev 0).sideLink ∧ s.dev.fab.seen.contains (5, 9, 0) = false := by decide
def gathering : Desc := collDesc 2 1 (runOf 1 [] [])
theorem wit_mismatch : let s := sColl gathering []
    groupLive s.dev 3 = true ∧ (otherRanks (getGroup s.dev 3)).contains 1 = true ∧ seqOpen s.dev 3 0 = true ∧
    collFind s.dev 3 0 = some gathering ∧ gathering.parts.any (fun p => p.state = .running) = true := by decide +kernel
theorem wit_coll_timeout : let s := sColl gathering []
    (collOf gathering.bytes).timeout = 5 ∧ 5 ≤ (s.dev.pace.time - gathering.time).toNat := by decide +kernel
theorem wit_gather_same : ccFmt (collOf (collBytes 2 1)).cc = (collOf (collBytes 2 1)).fmt ∧ (collOf (collBytes 2 1)).fmt ≠ 0x01 := by
  decide +kernel

/-! ### The fabric -/

def sPort (q : Port) : State := upDev fun v => { v with ports := if q = {} then [] else [(0, q)], fab := { v.fab with nodeId := 1 } }
theorem wit_port_enable : WriteLands (sPort {}) 0x50100 true ∧ tabWf {} (sPort {}).dev.ports = true ∧
    (getPort (sPort {}).dev 0).enable = false ∧ (sPort {}).dev.pace.parkState = 0 ∧ (sPort {}).dev.arm.cfgState ≠ 3 :=
  ⟨⟨by decide, by decide, by decide⟩, by decide⟩
def training : Port := { enable := true, state := 1, lanes := 8 }
theorem wit_lanes : (getPort (sPort training).dev 0).enable = true ∧ (getPort (sPort training).dev 0).state = 1 ∧
    (sPort training).dev.arm.firmware = true ∧ (getPort (sPort training).dev 0).lanes ≠ 0 ∧
    tabWf {} (sPort training).dev.members = true := by decide
def who (side : BitVec 1) (link : Bool) : Identity := { node := 5, incarn := 9, straps := { side := side }, port := 2, sideLink := link }
theorem wit_identity : identityRefusal (sPort training).dev (getPort (sPort training).dev 0) (who 0 false) = 0 ∧
    identityRefusal (sPort training).dev (getPort (sPort training).dev 0) (who 1 false) = 1 ∧
    identityRefusal (sPort training).dev (getPort (sPort training).dev 0) (who 0 true) = 2 ∧ training.sideLink = false := by decide
theorem wit_identity_side : let s := sPort { training with sideLink := true }
    identityRefusal s.dev (getPort s.dev 0) { who 1 true with node := 1 } = 0 ∧ (getPort s.dev 0).sideLink = true ∧
    identityRefusal s.dev (getPort s.dev 0) { who 0 true with node := 1, incarn := 0 } ≠ 0 ∧ s.dev.fab.twinIncarn = 0 := by decide
theorem wit_retrain : ∀ q ∈ ([{ enable := true, state := 5 }, { enable := true, state := 1, fell := true },
      { enable := true, state := 4, refuse := 6, fell := true }] : List Port), let s := sPort q
    getPort s.dev 0 = q ∧ (q.state = 5 ∨ q.fell = true ∧ (q.state = 1 ∨ q.state = 4 ∧ q.refuse = 6)) ∧ s.dev.arm.firmware = true ∧
    10000000 ≤ (s.dev.pace.time - q.lastTrain).toNat ∧ (s.dev.pace.time - (0x10000000000 : W64)).toNat < 10000000 := by decide

def sTx (sends : Nat) (sent : W64) : State :=
  { dev := { devDuo [] with
      fab := { nodeId := 0, tx := [{ port := 0, dest := 5, msg := 4, frame := 0, body := .heartbeat, mask := 0, sends := sends, sentAt := sent }], seen := [(5, 7, 0)] }
      groups := if sends = 8 then [] else (devDuo []).groups } }
theorem wit_frames : let s := sTx 1 0
    portUp (getPort s.dev 0) = true ∧ (getPort s.dev 0).sideLink = false ∧ portUp (getPort s.dev 1) = false ∧
    s.dev.fab.seen.contains (5, 7, 0) = true ∧ s.dev.fab.seen.contains (5, 8, 0) = false ∧ groupLive s.dev 3 = true ∧
    (getGroup s.dev 3).kind = false ∧ (otherRanks (getGroup s.dev 3)).contains 1 = true ∧ seqOpen s.dev 3 0 = true ∧
    tabWf {} s.dev.groups = true ∧ trcOn 7 s.dev = false := by decide
theorem wit_ack_timeout : ∀ c ∈ [(1, 0), (8, 0), (1, 0x10000000000)], let s := sTx c.1 c.2
    (s.dev.fab.tx.find? (fun t => t.port = 0 && t.msg = 4 && t.frame = 0)).any (fun x => x.sends = c.1 && x.sentAt = c.2) = true ∧
    (c.1 = 8 → s.dev.groups = [] ∧ tabWf {} s.dev.ports = true) ∧
    ((s.dev.pace.time - c.2).toNat < 2000 ↔ c.2 = 0x10000000000) := by decide
theorem wit_forward : portsTo (sTx 1 0).dev 5 0 = [0] ∧ (5 : BitVec 10) ≠ (sTx 1 0).dev.fab.nodeId := by decide
theorem wit_heartbeat : timerDue (sTx 1 0).dev (tmHeartbeat 0) 100000 = true ∧ floodTraced (sTx 1 0).dev 8 = false := by decide

def sMember (st : BitVec 3) : State :=
  { dev := { devDuo [] with groups := [], members := [(5, { state := st, incarn := 9, lastFrame := 1 })], fab := { twinState := st, changed := true } } }
theorem wit_announce : ∀ st ∈ ([0, 2] : List (BitVec 3)), let s := sMember st
    tabWf {} s.dev.members = true ∧ portUp (getPort s.dev 0) = true ∧ (getPort s.dev 0).sideLink = false ∧ (5 : BitVec 10) ≠ s.dev.fab.nodeId ∧
    s.dev.fab.seen.contains ((getPort s.dev 0).partner.toNat, 4, 0) = false ∧
    trcOn 7 s.dev = false ∧ (getMember s.dev 5).incarn = 9 ∧ (getMember s.dev 5).state = st := by decide
/-- A node that comes with another incarnation. -/
theorem wit_announce_anew : (getMember (sMember 0).dev 5).incarn ≠ 8 ∧
    ¬(((getMember (sMember 0).dev 5).state = 1 ∨ (getMember (sMember 0).dev 5).state = 2) ∧ (getMember (sMember 0).dev 5).incarn ≠ 8) := by decide
theorem wit_lost : ∀ st ∈ ([1, 2, 4] : List (BitVec 3)), let s := sMember st
    s.dev.groups = [] ∧ attnHeld s.dev.attn < 63 ∧ 3000000 * s.dev.fab.announceMs.toNat ≤ (s.dev.pace.time - (getMember s.dev 5).lastAnnounce).toNat ∧
    wasNeighbour s.dev 5 = true ∧ 1000 * s.dev.fab.hbLostUs.toNat ≤ (s.dev.pace.time - (getMember s.dev 5).lastFrame).toNat ∧
    1000 * s.dev.fab.hbLostUs.toNat ≤ (s.dev.pace.time - s.dev.fab.twinSeen).toNat ∧ s.dev.fab.twinState = st ∧ (getMember s.dev 5).state = st := by decide
theorem wit_announce_send : (sMember 2).dev.arm.firmware = true ∧ (sMember 2).dev.fab.changed = true ∧ floodTraced (sMember 2).dev 9 = false := by decide
theorem wit_leave : WriteLands (sMember 2) 0x50004 true := ⟨by decide, by decide, by decide⟩

/-! ### Groups and moulds -/

/-- The group record of `duo` at 0x30000, for this module and node 5. -/
def groupMem : List Host.Cell :=
  pages ++ [(0x30000, 2), (0x30004, 1), (0x30042, 1), (0x30043, 3), (0x30048, 5), (0x3004A, 1), (0x3004B, 3), (0x3004C, 9)]
def sEnable (st : BitVec 3) : State :=
  { dev := { devDuo [] with groups := [(3, { addr := 0x30000, nextSeq := 6 })], members := [(5, { state := st, incarn := 9 })] }, mem := groupMem }
/-- A value of FAB_GROUP that names context 1. -/
def groupVal : HostWrite := ⟨0x100, true⟩
theorem wit_group_enable : ∀ st ∈ ([2, 0] : List (BitVec 3)), let s := sEnable st
    let q : Group := { getGroup s.dev 3 with kind := false, ctx := 1 }
    let v := setGroup 3 q s.dev
    tabWf {} s.dev.groups = true ∧ (getGroup s.dev 3).enable = false ∧
    (match (readBytes (edge 0) q.addr 64).run { workOf s with dev := v } with
     | (.ok bs, w1) => membersOk false (leAt bs 0 2) && (match (readBytes (edge 0) (q.addr + 64) (8 * leAt bs 0 2)).run w1 with
       | (.ok es, _) => decide (recordOf bs es = duo) && decide (groupRefusal v q (recordOf bs es) = if st = 2 then 0 else 3)
       | _ => false)
     | _ => false) = true := by decide +kernel
theorem wit_group_lands (st : BitVec 3) : WriteLands (sEnable st) 0x51000 true := ⟨rfl, rfl, rfl⟩
theorem wit_group_disable : groupRunning (sColl gathering []).dev 3 = true ∧ (getGroup (sColl gathering []).dev 3).enable = true ∧
    groupRunning (devDuo []) 3 = false ∧ (getGroup (devDuo []) 3).enable = true ∧ (getGroup (devDuo []) 3).headers = [] := by decide +kernel

def sMould (q : Pair) : State :=
  { dev := { devDuo [] with mould := { role := 2, pairs := [q, {}, {}, {}, {}], ssEnable := false } } }
def sRole (failed : BitVec 20) (on : Bool) : State :=
  upDev fun v => { v with arm := { v.arm with postStacks := failed }, mould := { v.mould with pairs := [{ enable := on }, {}, {}, {}, {}] } }
theorem wit_role : WriteLands (sRole 0 false) 0x60000 true ∧ (sRole 1 false).dev.arm.postStacks ≠ 0 ∧
    (∃ q ∈ (sRole 0 true).dev.mould.pairs, q.enable = true) ∧ (∀ q ∈ (sRole 0 false).dev.mould.pairs, q.enable = false) :=
  ⟨⟨by decide, by decide, by decide⟩, by decide +kernel⟩
/-- Node 5 as the charge of slot 0: a mould of role 2 is rank 1 of the pair group. -/
def pairOf5 : Pair := { node := 5, ctx := 1, group := 3, incarn := 9, override := true }
def sCharge (q : Pair) : State :=
  { dev := { devDuo [] with
      mould := { role := 2, attnEn := true, pairs := [q, {}, {}, {}, {}] }
      ctxs := [(0, { ptRoot := 1, enable := true, state := 1 }), (1, { ptRoot := 1, enable := true, state := 1, cls := 1 })]
      groups := [(3, { enable := true, ctx := 1, record := { duo with ownRank := 1, entries := [⟨5, 1, 3, 9⟩, ⟨0, 1, 3, 0⟩] } })] } }
theorem wit_charge_lands (q : Pair) : WriteLands (sCharge q) 0x60100 true := ⟨rfl, rfl, rfl⟩
theorem wit_charge_refused : pairGroupOk (sCharge pairOf5).dev 0 pairOf5 = true ∧
    pairGroupOk { (sCharge pairOf5).dev with groups := [] } 0 pairOf5 = false := by decide +kernel
theorem wit_charge : (sCharge pairOf5).dev.mould.pairs.length = 5 ∧ (getPair (sCharge pairOf5).dev 0).enable = false ∧
    pairRefusal (sCharge pairOf5).dev 0 pairOf5 = 0 ∧ pairRefusal (sCharge pairOf5).dev 0 { pairOf5 with override := false } = 3 ∧
    (getPair (sCharge { pairOf5 with enable := true }).dev 0).enable = true := by decide +kernel
theorem wit_pairing_frame : let q := getPair (sCharge { pairOf5 with enable := true, state := 1 }).dev 0
    q.state = 1 ∧ q.group = 3 ∧ q.node = 5 ∧ q.override = true ∧ (sCharge pairOf5).dev.fab.nodeId = 0 := by decide +kernel
/-- A pairing frame of node 5 where slot 0 names node 6 and waits; one that no slot has been enabled for; and one kept before. -/
theorem wit_pairing_other : let s := sCharge { pairOf5 with node := 6, enable := true, state := 1 }
    mayAnswer s.dev 3 5 = true ∧ (5 : BitVec 10) ≠ (getPair s.dev 0).node ∧ sideOf s.dev 3 5 = none ∧ (3, 5) ∉ s.dev.mould.asked ∧
    mayAnswer s.dev 4 5 = false := by decide +kernel
theorem wit_pairing_refused : let s := sCharge { pairOf5 with group := 4, enable := true, state := 1 }
    mayAnswer s.dev 3 5 = true ∧ sideOf s.dev 3 5 = some 0 ∧ (3 : Byte) ≠ (getPair s.dev 0).group := by decide +kernel
def sAsked5 : State :=
  let s := sCharge { pairOf5 with group := 3 }
  { s with dev := { s.dev with
    mould := { s.dev.mould with asked := [(7, 5)] }
    groups := s.dev.groups ++ [(7, { enable := true, ctx := 1, record := { duo with ownRank := 1, entries := [⟨5, 1, 3, 9⟩, ⟨0, 1, 3, 0⟩] } })] } }
theorem wit_pairing_asked : let on : Pair := { pairOf5 with enable := true, state := 1 }
    let v := sendPairing on false (setPair 0 on sAsked5.dev)
    pairRefusal sAsked5.dev 0 pairOf5 = 0 ∧ mayAnswer v 7 5 = true ∧ sideOf v 7 5 = some 0 ∧ (7 : Byte) ≠ on.group := by decide +kernel
theorem wit_persisted : let q := getPair (sCharge { pairOf5 with cast := 1, lastClose := 3 }).dev 0
    q.cast.toNat < (2 : W32).toNat ∧ (3 : W32).toNat ≤ q.lastClose.toNat ∧ ¬(4 : W32).toNat ≤ q.lastClose.toNat ∧ ¬q.cast.toNat < (1 : W32).toNat := by
  decide
theorem wit_persisted_rings (q : Pair) : (sCharge q).dev.rings = [] := rfl
theorem wit_stream_ring : WriteLands up 0x60010 true ∧ up.dev.mould.ssEnable = false := ⟨⟨by decide, by decide, by decide⟩, by decide +kernel⟩
/-- Four bytes at 0x10000 queued for the stream ring at 0x50000, the close of step 6 in slot 0. -/
def item : StreamItem := ⟨1, 0x10000, 4, 0, some 6⟩
def sStream : State :=
  { dev := { devUp with mould := { ssBase := 0x50000, ssSize := 20, ssEnable := true, ssTailPtr := 0x40000, queue := [item] } }, mem := operands }
theorem wit_stream_forward : let m := sStream.dev.mould
    Memory.wf sStream = true ∧ m.queue = item :: [] ∧ m.ssEnable = true ∧ (m.ssTail - m.ssHead).toNat + item.bytes ≤ 2 ^ m.ssSize.toNat ∧
    ranOk (do
      hostAsks true false (edge item.ctx) item.addr item.bytes 4096
      let bs ← readBytes (edge item.ctx) item.addr item.bytes
      streamWrite m.ssBase (2 ^ m.ssSize.toNat) m.ssTail.toNat bs
      bulkWrite m.ssTailPtr (leBytes 8 (m.ssTail + BitVec.ofNat 64 item.bytes).toNat) : Acc Unit) (workOf sStream) = true := by decide +kernel

/-! ### Writes into core store 0 through `pages` -/

/-- A device without directory entries or memory errors, whose context `x` uses the page tables at 0x1000 and 0x2000, with no
store to them. -/
structure Plain (x : Nat) (w : Work) : Prop where
  dir : w.dev.cxl.directory = []
  ue : w.dev.ue = []
  wiped : w.wiped = .none
  power : w.dev.power = devUp.power
  mem : w.mem = pages
  root : (getCtx w.dev x).ptRoot = 1
  stores : ∀ y ∈ w.stores, 0x3000 ≤ y.addr
theorem storeAt_high (a : Nat) (h : a < 0x3000) : ∀ l : List Store, (∀ x ∈ l, 0x3000 ≤ x.addr) → storeAt .dev a l = none
  | [], _ => rfl
  | x :: t, hl => by
    have hx := hl x (List.mem_cons_self ..)
    unfold storeAt
    rw [if_neg (by omega)]
    exact storeAt_high a h t (fun y hy => hl y (List.mem_cons_of_mem _ hy))
theorem entry_plain (x : Nat) (w : Work) (hw : Plain x w) (ctx a : Nat) (h : a + 8 ≤ 0x3000) :
    (readPhys64 ctx a).run w = (.ok (leNat ((upto 8).map (fun i => tabGet 0 pages (a + i)))), w) := by
  rw [readPhys64_free ctx a w (fun i hi => ⟨by unfold dirEntry; rw [hw.dir]; rfl, by unfold isUe; rw [hw.ue]; rfl⟩)]
  have : ∀ i ∈ upto 8, peek .dev (a + i) w = tabGet 0 pages (a + i) := by
    intro i hi
    have hi := List.mem_range.mp hi
    unfold peek
    rw [storeAt_high (a + i) (by omega) _ hw.stores, hw.mem, hw.wiped]
    show devByte w.dev pages (a + i) = _
    unfold devByte
    rw [hw.power]
    rfl
  rw [List.map_congr_left this]
theorem plain_canonical : ∀ i < 256, canonicalVa (BitVec.ofNat 64 (0x40020000 + i)) = true := by decide +kernel
theorem translate_plain (x : Nat) (w : Work) (hw : Plain x w) (i : Nat) (hi : i < 256) :
    (translate (edge x) (BitVec.ofNat 64 (0x40020000 + i)) true).run w = (.ok (.dev (0x8000020000 + i)), w) := by
  have hn : (BitVec.ofNat 64 (0x40020000 + i)).toNat = 0x40020000 + i := by rw [BitVec.toNat_ofNat]; omega
  have w3 : (walkEntry (edge x) (BitVec.ofNat 64 (0x40020000 + i)) 3 0x1000 true).run w = (.ok (.inr (0x2000, true)), w) := by
    unfold walkEntry
    rw [hn, show (0x40020000 + i) / 2 ^ (12 + 9 * 3) % 512 = 0 by omega]
    rw [if_neg (by decide)]
    refine (acc_bind_ok (entry_plain x w hw x (0x1000 + 8 * 0) (by decide))).trans ?_
    rw [show leNat ((upto 8).map (fun i => tabGet 0 pages (0x1000 + 8 * 0 + i))) = 0x2003 by decide +kernel]
    rfl
  have w2 : (walkEntry (edge x) (BitVec.ofNat 64 (0x40020000 + i)) 2 0x2000 true).run w =
      (.ok (.inl ⟨0x8000000000, 30, false, true⟩), w) := by
    unfold walkEntry
    rw [hn, show (0x40020000 + i) / 2 ^ (12 + 9 * 2) % 512 = 1 by omega]
    rw [if_neg (by decide)]
    refine (acc_bind_ok (entry_plain x w hw x (0x2000 + 8 * 1) (by decide))).trans ?_
    rw [show leNat ((upto 8).map (fun i => tabGet 0 pages (0x2000 + 8 * 1 + i))) = 0x8000000007 by decide +kernel]
    rfl
  have hwalk : (walk (edge x) (BitVec.ofNat 64 (0x40020000 + i)) 3 0x1000 true).run w = (.ok ⟨0x8000000000, 30, false, true⟩, w) := by
    unfold walk
    rw [acc_bind_ok w3]
    unfold walk
    exact acc_bind_ok w2
  unfold Machine.translate
  rw [plain_canonical i hi, if_neg (by decide)]
  refine (acc_bind_ok (acc_get w)).trans ?_
  have hr : (getCtx w.dev (edge x).ctx).ptRoot.toNat * 4096 = 0x1000 := by
    rw [show (edge x).ctx = x from rfl, hw.root]; rfl
  simp only [show (edge x).core = none from rfl, Option.bind_none, hr, pure_bind]
  refine (acc_bind_ok hwalk).trans ?_
  have ha : 0x8000000000 + (BitVec.ofNat 64 (0x40020000 + i)).toNat % 2 ^ 48 % 2 ^ 30 = 0x8000020000 + i := by rw [hn]; omega
  have hp : populated (0x8000020000 + i) = true := by
    unfold populated
    simp only [Bool.or_eq_true, Bool.and_eq_true, decide_eq_true_iff]
    right
    unfold cstoreBase
    omega
  simp only [ha, hp]
  rfl
theorem plain_write (i : Nat) (b : Byte) (x : Nat) (w : Work) (hw : Plain x w) (hi : i < 256) (lo hi' : Nat) :
    ∃ u, (writeByteIn (edge x) lo hi' (BitVec.ofNat 64 (0x40020000 + i)) b).run w = (.ok none, u) ∧ Plain x u := by
  have ht := translate_plain x w hw i hi
  have hd : dirEntry w.dev ((0x8000020000 + i) / 64) = none := by unfold dirEntry; rw [hw.dir]; rfl
  have hu : isUe w.dev (0x8000020000 + i) = false := by unfold isUe; rw [hw.ue]; rfl
  have hc : countBytes (edge x).ctx (.dev (0x8000020000 + i)) w.dev = w.dev := by
    unfold countBytes
    exact if_neg (by unfold cstoreBase; omega)
  refine ⟨_, (writeByteIn_plain _ _ _ _ _ _ rfl).trans (writeRaw_dev _ _ _ _ _ _ _ _ ht hd hu), ?_⟩
  unfold onDev
  rw [hc]
  refine ⟨hw.dir, hw.ue, hw.wiped, hw.power, hw.mem, hw.root, ?_⟩
  intro y hy
  rcases List.mem_cons.mp hy with h | h
  · subst h; show 0x3000 ≤ 0x8000020000 + i; omega
  · exact hw.stores y h
/-- Up to 256 bytes written there succeed. -/
theorem plain_writes (j : Nat) (bs : List Byte) (x : Nat) (w : Work) (hj : j + bs.length ≤ 256) (hw : Plain x w) :
    ∃ u, (writeBytes (edge x) (BitVec.ofNat 64 (0x40020000 + j)) bs).run w = (.ok (), u) ∧ Plain x u := by
  have hn : (BitVec.ofNat 64 (0x40020000 + j)).toNat = 0x40020000 + j := by rw [BitVec.toNat_ofNat]; omega
  obtain ⟨u, hu, hp⟩ := writeBytesIn_all (edge x) (0x40020000 + j) (0x40020000 + j + bs.length) (Plain x)
    (fun va b w h1 h2 h => by
      have hv : va = BitVec.ofNat 64 (0x40020000 + (va.toNat - 0x40020000)) := by
        rw [show 0x40020000 + (va.toNat - 0x40020000) = va.toNat by omega, BitVec.ofNat_toNat, BitVec.setWidth_eq]
      rw [hv]
      exact plain_write _ b x w h (by omega) _ _) bs (BitVec.ofNat 64 (0x40020000 + j)) w (by omega) (by omega) (by omega) hw
  refine ⟨u, ?_, hp⟩
  unfold writeBytes
  rw [hn]
  exact (acc_bind_ok hu).trans rfl
theorem sampleBody_length (v : Dev) (set n cause : Nat) (e : W32) : (sampleBody v set n cause e).length = 24 + 8 * n := by
  have h8 : ∀ l : List Nat, (l.flatMap (fun i => leBytes 8 (ctrGet v set i).toNat)).length = 8 * l.length := by
    intro l
    induction l with
    | nil => rfl
    | cons a t ih => rw [List.flatMap_cons, List.length_append, ih, List.length_cons]; simp [leBytes]; omega
  unfold sampleBody
  rw [List.length_append, h8]
  simp [leBytes, upto]
/-- A sample record of up to 232 bytes there is written. -/
theorem plain_record (n : Nat) (body : List Byte) (x : Nat) (w : Work) (hb : body.length ≤ 248) (hw : Plain x w) :
    ∃ u, (writeSample x 0x40020000 n body).run w = (.ok (), u) ∧ Plain x u := by
  obtain ⟨u1, h1, p1⟩ := plain_writes 0 (leBytes 8 0) x w (by decide) hw
  obtain ⟨u2, h2, p2⟩ := plain_writes 8 body x u1 (by omega) p1
  obtain ⟨u3, h3, p3⟩ := plain_writes 0 (leBytes 8 n) x u2 (by rw [show ∀ k, (leBytes 8 k).length = 8 from fun _ => rfl]; decide) p2
  exact ⟨u3, (acc_bind_ok h1).trans ((acc_bind_ok h2).trans h3), p3⟩
theorem plain_sample (set n cause : Nat) (reset : Bool) (x : Nat) (w : Work) (hn : n ≤ 25) (hw : Plain x w) :
    ∃ u, (takeSample x set n cause reset 0x40020000).run w = (.ok (), u) ∧ Plain x u := by
  have hv : ∀ v' : Dev, v'.cxl = w.dev.cxl → v'.ue = w.dev.ue → v'.ctxs = w.dev.ctxs → v'.power = w.dev.power →
      Plain x (onDev (fun _ => v') w) := by
    intro v' h1 h2 h3 h4
    exact ⟨by show v'.cxl.directory = []; rw [h1]; exact hw.dir, by show v'.ue = []; rw [h2]; exact hw.ue, hw.wiped,
      by show v'.power = _; rw [h4]; exact hw.power, hw.mem, by show (tabGet {} v'.ctxs x).ptRoot = 1; rw [h3]; exact hw.root, hw.stores⟩
  unfold takeSample
  rw [acc_bind_ok (acc_get w)]
  dsimp only
  rw [acc_bind_ok (acc_modify _ w)]
  exact plain_record _ _ x _ (by rw [sampleBody_length]; omega)
    (hv _ (by cases reset <;> rfl) (by cases reset <;> rfl) (by cases reset <;> rfl) (by cases reset <;> rfl))

/-! ### Counters and trace -/

def sCtr (a : W64) : State :=
  { dev := { devUp with ctr := { values := [(4096, 7)], cmdAddr := a, mirrors := [(1, { addr := a, period := 3 })] } }, mem := pages }
theorem ctr_lands (a : W64) : WriteLands (sCtr a) 0x70000 true := ⟨rfl, rfl, rfl⟩
theorem ctr_plain (x : Nat) (hx : x < 2) (f : Dev → Dev) (h : ∀ v, (f v).cxl = v.cxl ∧ (f v).ue = v.ue ∧ (f v).ctxs = v.ctxs ∧ (f v).power = v.power) :
    Plain x (onDev f (workOf (sCtr 0x40020000))) := by
  obtain ⟨h1, h2, h3, h4⟩ := h (sCtr 0x40020000).dev
  refine ⟨(congrArg Cxl.directory h1).trans rfl, h2.trans rfl, rfl, h4.trans rfl, rfl, ?_, fun y hy => by cases hy⟩
  show (tabGet {} (f (sCtr 0x40020000).dev).ctxs x).ptRoot = 1
  rw [h3]
  match x, hx with
  | 0, _ => rfl
  | 1, _ => rfl
theorem wit_ctr : let s := sCtr 0x40020000
    s.dev.ctr.queue = [] ∧ tabWf 0 s.dev.ctr.values = true ∧ tabWf 0 s.dev.ctr.epochs = true ∧ tabWf 0 s.dev.ctr.samples = true ∧
    setCount 1 = some 19 ∧ setCount 0x3FE = none ∧ setCount 0x3FF = some 7 ∧ Memory.wf s = true ∧ s.dev.ctr.cmdAddr = 0x40020000 := by
  decide
theorem wit_ctr_sample : ∃ w, (takeSample 0 1 19 0 false 0x40020000).run (workOf (sCtr 0x40020000)) = (.ok (), w) ∧
    w.wiped = .none ∧ w.dev.power = (sCtr 0x40020000).dev.power ∧ (sCtr 0x40020000).dev.power.lost = .none := by
  obtain ⟨u, h, p⟩ := plain_sample 1 19 0 false 0 _ (by decide) (ctr_plain 0 (by decide) id (fun _ => ⟨rfl, rfl, rfl, rfl⟩))
  exact ⟨u, h, p.wiped, p.power, rfl⟩
theorem wit_ctr_sample_reset : let v := ctrCountSample 1 (ctrReset 1 (sCtr 0x40020000).dev)
    ∃ w, (writeSample 0 0x40020000 (tabGet 0 v.ctr.samples 1).toNat
        (sampleBody (sCtr 0x40020000).dev 1 19 0 (ctrEpoch (sCtr 0x40020000).dev 1 + 1))).run { workOf (sCtr 0x40020000) with dev := v } = (.ok (), w) ∧
      w.wiped = .none ∧ w.dev.power = (sCtr 0x40020000).dev.power := by
  intro v
  obtain ⟨u, h, p⟩ := plain_record (tabGet 0 v.ctr.samples 1).toNat
    (sampleBody (sCtr 0x40020000).dev 1 19 0 (ctrEpoch (sCtr 0x40020000).dev 1 + 1)) 0 _ (by rw [sampleBody_length]; decide)
    (ctr_plain 0 (by decide) (fun v => ctrCountSample 1 (ctrReset 1 v)) (fun _ => ⟨rfl, rfl, rfl, rfl⟩))
  exact ⟨u, h, p.wiped, p.power⟩
theorem wit_mirror : let s := sCtr 0x40020000
    let m := getMirror s.dev 1
    m.period ≠ 0 ∧ m.addr = 0x40020000 ∧ timerDue s.dev (tmMirror 1) (1000 * m.period.toNat) = true := by decide
/-- What MIRROR_SAMPLE of context 1 runs, at an address and in a state. -/
def mirrorRun (a : W64) (f : Dev → Dev) : Except Stop Unit × Work :=
  let s := sCtr a
  let v := f (ctrCountSample 1 (timerMark (tmMirror 1) s.dev))
  (writeSample 1 a (tabGet 0 v.ctr.samples 1).toNat (sampleBody s.dev 1 19 1 (ctrEpoch s.dev 1))).run { workOf s with dev := v }
theorem mirror_body : (sampleBody (sCtr 0x40020000).dev 1 19 1 (ctrEpoch (sCtr 0x40020000).dev 1)).length ≤ 248 :=
  Nat.le_trans (Nat.le_of_eq (sampleBody_length _ 1 19 1 _)) (by decide)
theorem mirror_plain : Plain 1 (onDev (fun v => id (ctrCountSample 1 (timerMark (tmMirror 1) v))) (workOf (sCtr 0x40020000))) :=
  ctr_plain 1 (by decide) _ (fun _ => ⟨rfl, rfl, rfl, rfl⟩)
theorem wit_mirror_sample : ∃ w, mirrorRun 0x40020000 id = (.ok (), w) ∧ w.wiped = .none ∧
    w.dev.power = (sCtr 0x40020000).dev.power := by
  have key : ∀ (n : Nat) (b : List Byte) (w : Work), b.length ≤ 248 → Plain 1 w →
      ∃ u, (writeSample 1 0x40020000 n b).run w = (.ok (), u) ∧ u.wiped = .none ∧ u.dev.power = devUp.power := by
    intro n b w hb hw
    obtain ⟨u, h, p⟩ := plain_record n b 1 w hb hw
    exact ⟨u, h, p.wiped, p.power⟩
  exact key _ _ _ mirror_body mirror_plain
def stopAnswer {α : Type} (r : Except Stop α × Work) : Option Stop :=
  match r.1 with
  | .error e => some e
  | _ => none
/-- It does not translate; and it waits for a line of the directory. -/
theorem wit_mirror_stops : stopAnswer (mirrorRun 0x80000000 id) = some (.fail stTranslation 0x80000000) ∧
    stopAnswer (mirrorRun 0x10000 (fun v => { v with cxl := { v.cxl with directory := [{ line := 0x400 }] } })) = some .wait := by
  decide +kernel

def sTrc (c : Trc) : State := { dev := { devUp with trc := c }, mem := pages }
def rec0 : TraceRec := ⟨1, 1, 0, 0, []⟩
theorem wit_pc_sample : ∀ u ∈ [SampleUnit.engine 127, .chisel 255, .vector 31, .solver 31, .port 23],
    let s := sTrc { src := 0x1F }
    trcOn (sampleSource u).2.2 s.dev = true ∧ timerDue s.dev (tmPcs (sampleSource u).1) s.dev.trc.interval.toNat = true ∧
    (sampleSource u).2.1 < s.dev.trc.queues.length ∧ (s.dev.trc.queues.getD (sampleSource u).2.1 {}).records.length < 64 ∧
    (s.dev.trc.queues.getD (sampleSource u).2.1 {}).drops = 0 := by decide +kernel
def sLate (n drops : Nat) : State := sTrc { src := 0x1F, queues := [{ records := List.replicate n rec0, drops := drops }, {}, {}, {}, {}] }
theorem wit_pc_sample_late : ((sLate 0 3).dev.trc.queues.getD 0 {}).drops ≠ 0 ∧ 64 ≤ ((sLate 64 0).dev.trc.queues.getD 0 {}).records.length := by
  decide +kernel
def trc0 (running : Bool) (drops : Nat) : Trc :=
  { mode := 1, running := running, causes := [2, 1], queues := [{}, {}, {}, {}, { records := [rec0], drops := drops }] }
theorem wit_trace_accept : ∀ r, ∀ n ∈ [0, 3], let c := (sTrc (trc0 r n)).dev.trc
    (c.queues.getD 4 {}).records = rec0 :: [] ∧ c.queues.length = 5 ∧ c.running = r ∧ c.spillEnable = false ∧ c.mode = 1 ∧
    c.buffer.length < trcCap ∧ rec0.type ≠ 7 ∧ (c.queues.getD 4 {}).drops = n ∧ c.causes = 2 :: [1] := by decide +kernel
theorem wit_trace_triggered : (trc0 true 0).triggered = false ∧ ({ trc0 true 0 with triggered := true } : Trc).triggered = true := by decide +kernel
def trcFull (mode : BitVec 2) (running : Bool) : Trc :=
  { mode := mode, running := running, queues := [{}, {}, {}, {}, { records := [{ rec0 with type := 7 }] }] }
theorem wit_trace_stop : let c := (sTrc (trcFull 0 true)).dev.trc
    c.mode = 0 ∧ c.running = true ∧ c.buffer.length < trcCap ∧
    (((sTrc (trcFull 0 false)).dev.trc.queues.getD 4 {}).records.map (·.type)) = [7] ∧ (sTrc (trcFull 0 false)).dev.trc.running = false := by
  decide +kernel
theorem trc_lands (c : Trc) : WriteLands (sTrc c) 0x80000 true ∧ WriteLands (sTrc c) 0x80008 true := ⟨⟨rfl, rfl, rfl⟩, ⟨rfl, rfl, rfl⟩⟩
theorem wit_trc_write : (1 : W64).getLsbD 0 = true ∧ (1 : W64).getLsbD 7 = false ∧ (1 : W64).getLsbD 6 = false ∧ ((1 : W64).setWidth 2 : BitVec 2) ≠ 3 := by decide +kernel
theorem wit_trc_dump : let s := sTrc { spillBase := 0x20000, buffer := [rec0] }
    Memory.wf s = true ∧ s.dev.trc.running = false ∧ s.dev.trc.spillEnable = false ∧
    ranOk (writeBytes (edge 0) 0x20000 ((s.dev.trc.buffer.take (spillBytes s.dev.trc / 32)).flatMap traceBytes)) (workOf s) = true := by
  decide +kernel
theorem wit_trc_dump_waits : let s := sTrc { spillBase := 0x20000, buffer := [rec0] }
    stopOf (writeBytes (edge 0) 0x20000 (traceBytes rec0)) (workOf { s with dev := { s.dev with cxl := { s.dev.cxl with
      directory := [{ line := 0x800 }] } } }) = some .wait := by decide +kernel
theorem wit_trc_drain : let s := sTrc { spillBase := 0x20000, spillEnable := true, running := true, buffer := [rec0] }
    Memory.wf s = true ∧ s.dev.trc.spillEnable = true ∧ s.dev.trc.buffer = [rec0] ∧
    ranOk (writeBytes (edge 0) (s.dev.trc.spillBase + BitVec.ofNat 64 (s.dev.trc.drained.toNat % spillBytes s.dev.trc)) (traceBytes rec0)) (workOf s) = true := by
  decide +kernel
/-- The rails are up where the witnesses need them, and off after a trip. -/
theorem wit_rails : (∀ s ∈ [up, sRef, sBack, sDebug, sStream, sCtr 0x40020000], s.dev.power.railsUp = true) ∧
    (∀ l, (sArb l).dev.power.railsUp = true) ∧ (∀ c, (sTrc c).dev.power.railsUp = true) := ⟨by decide, fun _ => rfl, fun _ => rfl⟩
theorem wit_rails_off : (upDev fun v => { v with power := { v.power with state := .tripped, railsUp := false } }).dev.power.railsUp = false := rfl

/-! ### Results by hand -/

/-- The FP32 word that a command leaves at an address of device memory. -/
def wordAt (o : Host.Outcome State Fault Refusal) (a : Nat) : Nat :=
  match o with
  | .next t => leNat ((upto 4).map (fun i => memByte t (a + i)))
  | _ => 2 ^ 32
/-- On 1.5 and 2.0: MOV, NEG, ADD, SUB, MUL, DIV, RECIP, MAX, MIN, CMPGT and RELU (R151, R154). -/
theorem test_vector_results : ∀ c ∈ ([(0x00, .mov, 0x3FC00000), (0x01, .neg, 0xBFC00000), (0x03, .add, 0x40600000), (0x04, .sub, 0xBF000000),
      (0x05, .mul, 0x40400000), (0x08, .div, 0x3F400000), (0x0C, .max, 0x40000000), (0x0D, .min, 0x3FC00000), (0x25, .relu, 0x3FC00000)] :
      List (Nat × (Nat → Nat → Instr) × Nat)),
    wordAt (exec (c.2.1 0 0) (sVop 1 c.1 0x10000)) 0x20000 = c.2.2 := by decide +kernel
/-- 1.5 × 2.0 drains as 3.0 (R82, R96, R112). -/
theorem test_mm_result : wordAt (exec (.drainComplete 0 0) sDraining) 0x8000030000 = 0x40400000 := by decide +kernel
/-- A COPY moves its four bytes (R366). -/
theorem test_copy_result : wordAt (exec (.copy 0 0) (sPart 7 copyFields)) 0x20000 = 0x3FC00000 := by decide +kernel
/-- addi x6, x5, 1 adds one and moves on by four bytes (R124). -/
theorem test_addi : (match exec (.chiselInstruction 0) (sChisel 0x00128313 {} .idle) with
    | .next t => decide (xreg (coreOf t) 6 = 0x60041 ∧ (coreOf t).pc = 0x60004)
    | _ => false) = true := by decide +kernel
/-- The check value of CRC-32C over the digits 1 to 9 (R334, R353). -/
theorem test_crc32c : crc32c [0x31, 0x32, 0x33, 0x34, 0x35, 0x36, 0x37, 0x38, 0x39] = 0xE3069283 := by decide +kernel
/-- Scalars of FP32 arithmetic: rounding to nearest even, a carry into the exponent, and an overflow (R65). -/
theorem test_fadd : fadd 0x3F800000 0x33800000 = 0x3F800000 ∧ fadd 0x3F800001 0x33800000 = 0x3F800002 ∧ fadd 0x7F7FFFFF 0x73800000 = 0x7F800000 := by
  decide +kernel

end Sys2Proof.Tests
end

section
/-! What a BAR0 write of the host does: the writes that land, are refused or are ignored, and the registers of the DEV_, PACE_,
ARB_, context and ring blocks (R46 to R48, R273, R274, R281, R282, R299, R302, R492, R499). -/

namespace Sys2Proof.Machine

open Sys2Proof

/-! ### The half of a granule that an access reaches (R492) -/

theorem barOf_wide (off : Nat) (x : W64) : barOf off true x = ⟨true, true, x⟩ := rfl

theorem barOf_low {off : Nat} (x : W64) (h : off % 8 = 0) : barOf off false x = ⟨true, false, x &&& 0xFFFFFFFF⟩ := by
  simp [barOf, h]

theorem barOf_high {off : Nat} (x : W64) (h : off % 8 ≠ 0) : barOf off false x = ⟨false, true, x <<< 32⟩ := by
  simp [barOf, h]

theorem and_lowMask (x : W64) : x &&& 0xFFFFFFFF = (x.setWidth 32).setWidth 64 := by
  apply BitVec.eq_of_toNat_eq
  have h := Nat.and_two_pow_sub_one_eq_mod x.toNat 32
  simp only [BitVec.toNat_and, BitVec.toNat_setWidth]
  change x.toNat &&& (2 ^ 32 - 1) = _
  omega

theorem shiftLeft_and_highMask (x : W64) : x <<< 32 &&& 0xFFFFFFFF00000000 = x <<< 32 := by
  have h := BitVec.shiftLeft_and_distrib x (BitVec.allOnes 64) 32
  rw [BitVec.and_allOnes] at h
  exact h.symm

theorem merge_wide (x old : W64) : Bar.merge ⟨true, true, x⟩ old = x :=
  (BitVec.and_or_distrib_left (x := x) (y := 0xFFFFFFFF) (z := 0xFFFFFFFF00000000)).symm.trans BitVec.and_allOnes

theorem merge_low (x old : W64) :
    Bar.merge ⟨true, false, x &&& 0xFFFFFFFF⟩ old = (old &&& 0xFFFFFFFF00000000) ||| (x &&& 0xFFFFFFFF) := by
  simp [Bar.merge, BitVec.and_assoc, BitVec.or_comm]

theorem merge_high (x old : W64) : Bar.merge ⟨false, true, x <<< 32⟩ old = (old &&& 0xFFFFFFFF) ||| (x <<< 32) :=
  congrArg ((old &&& 0xFFFFFFFF) ||| ·) (shiftLeft_and_highMask x)

@[simp] theorem fld_lowHalf (x : W64) : fld 32 0 (x &&& 0xFFFFFFFF#64) = x.setWidth 32 := by
  change fld 32 0 (x &&& 0xFFFFFFFF) = _
  rw [and_lowMask]
  unfold fld
  rw [BitVec.ushiftRight_zero, BitVec.setWidth_setWidth_of_le _ (by decide), BitVec.setWidth_eq]

@[simp] theorem fld_highHalf (x : W64) : fld 32 32 (x <<< 32) = x.setWidth 32 := by
  ext i h
  simp [fld, show 32 + i < 64 by omega, ← BitVec.getLsbD_eq_getElem]

/-- A bit of the low half as a write of that half gives it. -/
theorem bitAt_lowHalf (x : W64) {i : Nat} (h : i < 32) : bitAt i (x &&& 0xFFFFFFFF) = x.getLsbD i := by
  unfold bitAt
  rw [and_lowMask, BitVec.getLsbD_setWidth, BitVec.getLsbD_setWidth, decide_eq_true h, decide_eq_true (Nat.lt_trans h (by decide))]
  rfl

theorem clampNat_eq_max {lo hi v : Nat} (h : v ≤ hi) : clampNat lo hi v = Nat.max lo v := by
  simp only [clampNat, Nat.max_def]
  split_ifs <;> omega

/-- The nearer end of a range as a maximum and a minimum (R46). -/
theorem clampNat_eq_max_min {lo hi : Nat} (v : Nat) (h : lo ≤ hi) : clampNat lo hi v = Nat.max lo (Nat.min hi v) := by
  simp only [clampNat, Nat.max_def, Nat.min_def]
  split_ifs <;> omega

/-! ### Writes that land, are refused or are ignored (R281, R282) -/

/-- A BAR0 write whose work is a change of the device. -/
theorem exec_bar0Write_of_barWrite {s : State} {off : Nat} {wide : Bool} {hw : HostWrite} {f : Dev → Dev}
    (hb : barReached s.dev = true) (h : barWrite off wide hw (workOf s) = onDev f (workOf s)) :
    exec (.bar0Write (.bar0 off) wide hw) s = .next { s with dev := f s.dev } := by
  have hr : barReached (workOf s).dev = true := hb
  have hh : hostWrite (.bar0 off) wide hw (workOf s) = onDev f (workOf s) := by
    simp only [hostWrite, hr, h, Bool.not_true, Bool.false_eq_true, if_false]
  change runWork (hostWrite (.bar0 off) wide hw) s = _
  rw [runWork_next, hh, ← runWork_next (onDev f), runWork_onDev]

theorem barWrite_ignored {off : Nat} {wide : Bool} (hw : HostWrite) {w : Work} (ha : aligned off wide = true)
    (h : (reached off wide).any namedWord = false ∨ blockLive w.dev off = false) : barWrite off wide hw w = w := by
  unfold barWrite
  rcases h with h | h <;> simp [ha, h]

theorem barWrite_lands {off : Nat} {wide : Bool} {hw : HostWrite} {w : Work} (ha : aligned off wide = true)
    (hn : (reached off wide).any namedWord = true) (hl : blockLive w.dev off = true) (hi : ideRefused w.dev hw.ide = false) :
    barWrite off wide hw w = writeGran (off - off % 8) (barOf off wide hw.value) w := by
  simp [barWrite, ha, hn, hl, hi]

theorem barWrite_refused {off : Nat} {wide : Bool} {hw : HostWrite} {w : Work} (ha : aligned off wide = true)
    (hn : (reached off wide).any namedWord = true) (hl : blockLive w.dev off = true) (hi : ideRefused w.dev hw.ide = true) :
    barWrite off wide hw w = onDev (ctrAdd 0x3FF 0 1) w := by
  simp [barWrite, ha, hn, hl, hi]

section
variable {s : State} {off : Nat} {wide ide : Bool} {x : W64}

/-- A write that lands does to the device what the write of its granule does. -/
theorem exec_bar0Write_lands {f : Dev → Dev} (hs : WriteLands s off ide) (ha : aligned off wide = true)
    (hn : (reached off wide).any namedWord = true)
    (hg : writeGran (off - off % 8) (barOf off wide x) (workOf s) = onDev f (workOf s)) :
    exec (.bar0Write (.bar0 off) wide ⟨x, ide⟩) s = .next { s with dev := f s.dev } := by
  obtain ⟨hb, hl, hi⟩ := hs
  exact exec_bar0Write_of_barWrite hb ((barWrite_lands ha hn hl hi).trans hg)

/-- No name is asked of the word where its granule stays as it is anyway. -/
theorem exec_bar0Write_unchanged (hs : WriteLands s off ide) (ha : aligned off wide = true)
    (hg : writeGran (off - off % 8) (barOf off wide x) (workOf s) = workOf s) :
    exec (.bar0Write (.bar0 off) wide ⟨x, ide⟩) s = .next s := by
  obtain ⟨hb, hl, hi⟩ := hs
  refine exec_bar0Write_of_barWrite (f := id) hb ?_
  cases hn : (reached off wide).any namedWord with
  | false => exact barWrite_ignored _ ha (.inl hn)
  | true => exact (barWrite_lands ha hn hl hi).trans hg

end

theorem exec_bar0Write_refused (off : Nat) (wide ide : Bool) (x : W64) (s : State) (hb : barReached s.dev = true)
    (hl : blockLive s.dev off = true) (ha : aligned off wide = true) (hn : (reached off wide).any namedWord = true)
    (hq : s.dev.cxl.ideReq = true) (hi : ide = false ∨ s.dev.cxl.ideIo = false) :
    exec (.bar0Write (.bar0 off) wide ⟨x, ide⟩) s = .next { s with dev := ctrAdd 0x3FF 0 1 s.dev } := by
  have hr : ideRefused (workOf s).dev ide = true := by
    change (s.dev.cxl.ideReq && !(ide && s.dev.cxl.ideIo)) = true
    rcases hi with hi | hi <;> simp [hq, hi]
  exact exec_bar0Write_of_barWrite hb (barWrite_refused ha hn hl hr)

theorem exec_bar0Write_ignored (off : Nat) (wide ide : Bool) (x : W64) (s : State) (hb : barReached s.dev = true)
    (ha : aligned off wide = true) (h : (reached off wide).any namedWord = false ∨ blockLive s.dev off = false) :
    exec (.bar0Write (.bar0 off) wide ⟨x, ide⟩) s = .next s :=
  exec_bar0Write_of_barWrite (f := id) hb (barWrite_ignored _ ha h)

theorem exec_bar0UnsupportedAccess_answered (off size : Nat) (wr : Bool) (s : State) (hb : barReached s.dev = true)
    (h : ¬((size = 4 ∨ size = 8) ∧ off % size = 0)) :
    exec (.bar0UnsupportedAccess off size wr) s = .next { s with dev := unsupported s.dev } := by
  have ha : unsupportedAccess off size s.dev = unsupported s.dev := if_pos (by simpa [hb, imp_iff_not_or] using h)
  change runDev (unsupportedAccess off size) s = _
  rw [runDev_next, ha]

/-! ### The block of an offset (R496) -/

section
variable {o : Nat} (b : Bar) (w : Work)

theorem writeGran_dev (h : o < 0x1000) : writeGran o b w = onDev (writeDev (o / 8) b) w := by
  simp only [writeGran, if_pos h]

theorem writeGran_pace (h : 0x1000 ≤ o) (h' : o < 0x2000) : writeGran o b w = onDev (writePace ((o - 0x1000) / 8) b) w := by
  simp only [writeGran, if_neg (Nat.not_lt.mpr h), if_pos h']

theorem writeGran_arb (h : 0x3000 ≤ o) (h' : o < 0x4000) : writeGran o b w = onDev (writeArb ((o - 0x3000) / 8) b) w := by
  simp (disch := omega) only [writeGran, if_neg, if_pos h']

theorem writeGran_ctx (h : 0x10000 ≤ o) (h' : o < 0x11000) :
    writeGran o b w = onDev (ctxWrite ((o - 0x10000) / 0x40) (o % 0x40 / 8) b) w := by
  simp (disch := omega) only [writeGran, if_neg, if_pos h']

theorem writeGran_ring (h : 0x20000 ≤ o) (h' : o < 0x40000) :
    writeGran o b w = ringWrite ((o - 0x20000) / 0x20) (o % 0x20 / 8) b w := by
  simp (disch := omega) only [writeGran, if_neg, if_pos h']

end

theorem namedWord_ctx {o : Nat} (h : 0x10000 ≤ o) (h' : o < 0x11000) : namedWord o = decide (o % 0x40 ≠ 0x34) := by
  simp (disch := omega) only [namedWord, if_neg, if_pos h']

theorem namedWord_ring {o : Nat} (h : 0x20000 ≤ o) (h' : o < 0x40000) : namedWord o = true := by
  simp (disch := omega) only [namedWord, if_neg, if_pos (show o < 0x48000 by omega)]

/-! ### DEV_SCRATCH and the registers that are read only (R492, R499) -/

theorem exec_bar0Write_scratch {s : State} {off : Nat} {wide ide : Bool} {x : W64} (b : Bar) (hs : WriteLands s off ide)
    (hb : barOf off wide x = b) (ho : off - off % 8 = 0x30) (ha : aligned off wide = true)
    (hn : (reached off wide).any namedWord = true) :
    exec (.bar0Write (.bar0 off) wide ⟨x, ide⟩) s = .next { s with dev := { s.dev with blk := { s.dev.blk with
      scratch := b.merge s.dev.blk.scratch } } } := by
  rw [exec_bar0Write_lands hs ha hn (by rw [ho, hb, writeGran_dev b _ (by decide)])]
  rfl

theorem scratch_written (x : W64) (ide : Bool) (s : State) (hs : WriteLands s 0x30 ide) :
    exec (.bar0Write (.bar0 0x30) true ⟨x, ide⟩) s = .next { s with dev := { s.dev with blk := { s.dev.blk with scratch := x } } } ∧
    exec (.bar0Write (.bar0 0x30) false ⟨x, ide⟩) s = .next { s with dev := { s.dev with blk := { s.dev.blk with
      scratch := (s.dev.blk.scratch &&& 0xFFFFFFFF00000000) ||| (x &&& 0xFFFFFFFF) } } } ∧
    exec (.bar0Write (.bar0 0x34) false ⟨x, ide⟩) s = .next { s with dev := { s.dev with blk := { s.dev.blk with
      scratch := (s.dev.blk.scratch &&& 0xFFFFFFFF) ||| (x <<< 32) } } } := by
  have hs' : WriteLands s 0x34 ide := hs
  refine ⟨?_, ?_, ?_⟩
  · rw [exec_bar0Write_scratch _ hs (barOf_wide 0x30 x) rfl (by decide) (by decide), merge_wide]
  · rw [exec_bar0Write_scratch _ hs (barOf_low x (by decide)) rfl (by decide) (by decide), merge_low]
  · rw [exec_bar0Write_scratch _ hs' (barOf_high x (by decide)) rfl (by decide) (by decide), merge_high]

theorem writeDev_readOnly {g : Nat} (b : Bar) (v : Dev) (h : g ≠ 6) : writeDev g b v = v := if_neg h

/-- PACE_INPUT_POWER, PACE_FIELD and PACE_TIME have no half that is written, PACE_VCORE_SET and PACE_STATUS no high one. -/
theorem writePace_readOnly {g : Nat} {b : Bar} (v : Dev) (h : g ∈ [3, 5, 8] ∨ b.lo = false ∧ g ∈ [2, 4]) : writePace g b v = v := by
  simp only [List.mem_cons, List.not_mem_nil, or_false] at h
  rcases h with (rfl | rfl | rfl) | ⟨hb, rfl | rfl⟩
  · rfl
  · rfl
  · rfl
  · simp [writePace, hb]
  · simp [writePace, hb]

/-- The words of the DEV_ and PACE_ blocks that are read only, each written alone (R46, R48, R499). -/
theorem writeGran_readOnly {off : Nat} (x : W64) (w : Work)
    (h : off ∈ [0x0, 0x4, 0x8, 0xC, 0x10, 0x18, 0x1C, 0x20, 0x28, 0x1014, 0x1018, 0x1024, 0x1028, 0x102C, 0x1040, 0x1044]) :
    aligned off false = true ∧ writeGran (off - off % 8) (barOf off false x) w = w := by
  have places : ∀ o ∈ [0x0, 0x4, 0x8, 0xC, 0x10, 0x18, 0x1C, 0x20, 0x28, 0x1014, 0x1018, 0x1024, 0x1028, 0x102C, 0x1040, 0x1044],
      aligned o false = true ∧ (o - o % 8 < 0x1000 ∧ (o - o % 8) / 8 ≠ 6 ∨ (0x1000 ≤ o - o % 8 ∧ o - o % 8 < 0x2000) ∧
        ((o - o % 8 - 0x1000) / 8 ∈ [3, 5, 8] ∨ o % 8 ≠ 0 ∧ (o - o % 8 - 0x1000) / 8 ∈ [2, 4])) := by decide
  obtain ⟨ha, ⟨hdev, h6⟩ | ⟨⟨hlo, hhi⟩, hg⟩⟩ := places off h
  · refine ⟨ha, ?_⟩
    rw [writeGran_dev _ w hdev, onDev, writeDev_readOnly _ _ h6]
  · refine ⟨ha, ?_⟩
    rw [writeGran_pace _ w hlo hhi, onDev, writePace_readOnly _ (hg.imp id fun c => ⟨by rw [barOf_high x c.1], c.2⟩)]

/-! ### The PACE_ block (R46 to R48) -/

theorem exec_bar0Write_pace {s : State} {off : Nat} {ide : Bool} {x : W64} (g : Nat) (b : Bar) (p : Pace)
    (hs : WriteLands s off ide) (hb : barOf off false x = b) (ho : off - off % 8 = 0x1000 + 8 * g) (hg : g < 10)
    (ha : aligned off false = true) (hn : (reached off false).any namedWord = true)
    (hp : writePace g b s.dev = { s.dev with pace := p }) :
    exec (.bar0Write (.bar0 off) false ⟨x, ide⟩) s = .next { s with dev := { s.dev with pace := p } } := by
  have hi : (0x1000 + 8 * g - 0x1000) / 8 = g := by omega
  rw [exec_bar0Write_lands hs ha hn (by rw [ho, hb, writeGran_pace b _ (by omega) (by omega), hi]), hp]

section
variable (x : W64) (v : Dev)

theorem writePace_target : writePace 0 ⟨false, true, x <<< 32⟩ v =
    { v with pace := { v.pace with target := BitVec.ofNat 16 (Nat.max 550 (Nat.min 1350 (x.toNat % 65536))) } } := by
  simp [writePace, clampW, clampNat_eq_max_min]

theorem writePace_cap : writePace 1 ⟨true, false, x &&& 0xFFFFFFFF⟩ v =
    { v with pace := { v.pace with cap := BitVec.ofNat 13 (Nat.max 1000 (Nat.min 4000 (x.toNat % 8192))) } } := by
  simp [writePace, clampW, clampNat_eq_max_min]

theorem writePace_tjLimit : writePace 1 ⟨false, true, x <<< 32⟩ v =
    { v with pace := { v.pace with tjLimit := BitVec.ofNat 7 (Nat.max 60 (Nat.min 100 (x.toNat % 128))) } } := by
  simp [writePace, clampW, clampNat_eq_max_min]

theorem writePace_vcoreSet : writePace 2 ⟨true, false, x &&& 0xFFFFFFFF⟩ v =
    { v with pace := { v.pace with vcoreSet := BitVec.ofNat 10 (Nat.max 500 (Nat.min 800 (x.toNat % 1024)) / 5 * 5) } } := by
  simp [writePace, clampNat_eq_max_min]

theorem writePace_status : writePace 4 ⟨true, false, x &&& 0xFFFFFFFF⟩ v =
    { v with pace := { v.pace with
      targetMissed := v.pace.targetMissed && !x.getLsbD 3, capGated := v.pace.capGated && !x.getLsbD 4 } } := by
  rw [← bitAt_lowHalf x (i := 3) (by decide), ← bitAt_lowHalf x (i := 4) (by decide)]
  rfl

theorem writePace_tbStatus : writePace 9 ⟨true, false, x &&& 0xFFFFFFFF⟩ v =
    { v with pace := { v.pace with tbLost := v.pace.tbLost && !x.getLsbD 16 } } := by
  rw [← bitAt_lowHalf x (i := 16) (by decide)]
  rfl

end

theorem pace_registers_written (x : W64) (ide : Bool) (s : State) :
    let wrote (off : Nat) (p : Pace) : Prop := WriteLands s off ide →
      exec (.bar0Write (.bar0 off) false ⟨x, ide⟩) s = .next { s with dev := { s.dev with pace := p } }
    wrote 0x1004 { s.dev.pace with target := BitVec.ofNat 16 (Nat.max 550 (Nat.min 1350 (x.toNat % 65536))) } ∧
    wrote 0x1008 { s.dev.pace with cap := BitVec.ofNat 13 (Nat.max 1000 (Nat.min 4000 (x.toNat % 8192))) } ∧
    wrote 0x100C { s.dev.pace with tjLimit := BitVec.ofNat 7 (Nat.max 60 (Nat.min 100 (x.toNat % 128))) } ∧
    wrote 0x1010 { s.dev.pace with vcoreSet := BitVec.ofNat 10 (Nat.max 500 (Nat.min 800 (x.toNat % 1024)) / 5 * 5) } ∧
    wrote 0x1020 { s.dev.pace with
      targetMissed := s.dev.pace.targetMissed && !x.getLsbD 3, capGated := s.dev.pace.capGated && !x.getLsbD 4 } ∧
    wrote 0x1048 { s.dev.pace with tbLost := s.dev.pace.tbLost && !x.getLsbD 16 } ∧
    ∀ off ∈ [0x0, 0x4, 0x8, 0xC, 0x10, 0x18, 0x1C, 0x20, 0x28, 0x1014, 0x1018, 0x1024, 0x1028, 0x102C, 0x1040, 0x1044],
      wrote off s.dev.pace := by
  intro wrote
  have low {off g : Nat} {p : Pace} (h0 : off % 8 = 0) (ho : off - off % 8 = 0x1000 + 8 * g) (hg : g < 10)
      (ha : aligned off false = true) (hn : (reached off false).any namedWord = true)
      (hp : writePace g ⟨true, false, x &&& 0xFFFFFFFF⟩ s.dev = { s.dev with pace := p }) : wrote off p :=
    fun hs => exec_bar0Write_pace g _ p hs (barOf_low x h0) ho hg ha hn hp
  have high {off g : Nat} {p : Pace} (h0 : off % 8 ≠ 0) (ho : off - off % 8 = 0x1000 + 8 * g) (hg : g < 10)
      (ha : aligned off false = true) (hn : (reached off false).any namedWord = true)
      (hp : writePace g ⟨false, true, x <<< 32⟩ s.dev = { s.dev with pace := p }) : wrote off p :=
    fun hs => exec_bar0Write_pace g _ p hs (barOf_high x h0) ho hg ha hn hp
  refine ⟨?_, ?_, ?_, ?_, ?_, ?_, ?_⟩
  · exact high (g := 0) (by decide) rfl (by decide) (by decide) (by decide) (writePace_target x s.dev)
  · exact low (g := 1) (by decide) rfl (by decide) (by decide) (by decide) (writePace_cap x s.dev)
  · exact high (g := 1) (by decide) rfl (by decide) (by decide) (by decide) (writePace_tjLimit x s.dev)
  · exact low (g := 2) (by decide) rfl (by decide) (by decide) (by decide) (writePace_vcoreSet x s.dev)
  · exact low (g := 4) (by decide) rfl (by decide) (by decide) (by decide) (writePace_status x s.dev)
  · exact low (g := 9) (by decide) rfl (by decide) (by decide) (by decide) (writePace_tbStatus x s.dev)
  · intro off hm hs
    obtain ⟨ha, hg⟩ := writeGran_readOnly x (workOf s) hm
    exact exec_bar0Write_unchanged hs ha hg

/-! ### The ARB_ block (R273, R274) -/

theorem exec_bar0Write_arb {s : State} {off : Nat} {ide : Bool} {x : W64} (hs : WriteLands s off ide) (h : 0x3000 ≤ off)
    (h' : off < 0x3020) (h4 : off % 4 = 0) :
    exec (.bar0Write (.bar0 off) false ⟨x, ide⟩) s = .next { s with dev := writeArb ((off - 0x3000) / 8) (barOf off false x) s.dev } := by
  have hn : namedWord off = true := by
    simp (disch := omega) only [namedWord, if_neg, if_pos (show off < 0x4000 by omega), decide_eq_true h']
  have hi : (off - off % 8 - 0x3000) / 8 = (off - 0x3000) / 8 := by omega
  exact exec_bar0Write_lands hs (decide_eq_true h4) (by simp [reached, hn])
    (by rw [writeGran_arb _ _ (by omega) (by omega), hi])

theorem writeArb_quota (k : Fin 4) (x : W64) (v : Dev) :
    writeArb ((0x3010 + 4 * k.val - 0x3000) / 8) (barOf (0x3010 + 4 * k.val) false x) v =
      writeQuota k.val (x.toNat % 256) (x.toNat / 256 % 65536) v := by
  have hw : x.toNat % 4294967296 / 256 % 65536 = x.toNat / 256 % 65536 := by omega
  fin_cases k <;> simp [writeArb, barOf, hw]

theorem writeArb_class (k : Fin 4) (x : W64) (v : Dev) :
    writeArb ((0x3000 + 4 * k.val - 0x3000) / 8) (barOf (0x3000 + 4 * k.val) false x) v = writeClass k.val (x.setWidth 18) v := by
  fin_cases k <;> simp [writeArb, barOf]

theorem quota_written (k : Fin 4) (x : W64) (ide : Bool) (s : State) (hs : WriteLands s (0x3010 + 4 * k.val) ide) :
    exec (.bar0Write (.bar0 (0x3010 + 4 * k.val)) false ⟨x, ide⟩) s = .next { s with dev := { s.dev with
      arbRegs := s.dev.arbRegs.set k.val { s.dev.arbRegs.getD k.val {} with
        quota := BitVec.ofNat 8 (Nat.max 1 (x.toNat % 256)), window := BitVec.ofNat 16 (Nat.max 16 (x.toNat / 256 % 65536)) } } } := by
  have hk := k.isLt
  have hq : clampNat 1 255 (x.toNat % 256) = Nat.max 1 (x.toNat % 256) := clampNat_eq_max (by omega)
  have hw : clampNat 16 65535 (x.toNat / 256 % 65536) = Nat.max 16 (x.toNat / 256 % 65536) :=
    clampNat_eq_max (by omega)
  rw [exec_bar0Write_arb hs (by omega) (by omega) (by omega), writeArb_quota, writeQuota, hq, hw]

/-! ### A class register's fields (R273) -/

/-- The source types in the order of their fields (R273). -/
def classSources : List ArbSource := [.load, .drain, .tidy, .copy, .coll, .hostmem, .hostctl, .arm, .linkctl]

/-- One field of a class register after a write: the class written, unless it is reserved or the source asks for nothing here. -/
def mergedField (kind : Nat) (old x : BitVec 18) (c : ArbSource × Nat) : Nat :=
  let q := classField x c.2
  if srcAt kind c.1 && q ≠ 3 then q else if srcAt kind c.1 then classField old c.2 else 0

theorem classField_lt (x : BitVec 18) (f : Nat) : classField x f < 4 := Nat.mod_lt _ (by decide)

theorem mergedField_lt (kind : Nat) (old x : BitVec 18) (c : ArbSource × Nat) : mergedField kind old x c < 4 := by
  unfold mergedField
  dsimp only
  split
  · exact classField_lt x c.2
  · split
    · exact classField_lt old c.2
    · decide

/-- A sum of fields, each at its place, is the number whose base-4 digits they are. -/
theorem foldl_zipIdx_eq_ofDigits {α : Type} (g : α × Nat → Nat) : ∀ (l : List α) (k n : Nat),
    (l.zipIdx k).foldl (fun n c => n + g c * 4 ^ c.2) n = n + 4 ^ k * Nat.ofDigits 4 ((l.zipIdx k).map g)
  | [], k, n => by simp
  | a :: l, k, n => by
    rw [List.zipIdx_cons, List.foldl_cons, foldl_zipIdx_eq_ofDigits g l (k + 1), List.map_cons, Nat.ofDigits_cons]
    push_cast
    ring

theorem classMerge_eq_ofDigits (kind : Nat) (old x : BitVec 18) :
    classMerge kind old x = BitVec.ofNat 18 (Nat.ofDigits 4 (classSources.zipIdx.map (mergedField kind old x))) := by
  have h := foldl_zipIdx_eq_ofDigits (mergedField kind old x) classSources 0 0
  rw [pow_zero, one_mul, zero_add] at h
  rw [← h]
  rfl

/-- A digit of a number put together from digits. -/
theorem digit_ofDigits {b : Nat} (hb : 0 < b) (l : List Nat) (h : ∀ d ∈ l, d < b) (i : Nat) :
    Nat.ofDigits b l / b ^ i % b = l.getD i 0 := by
  rw [Nat.ofDigits_div_pow_eq_ofDigits_drop i hb l h, Nat.ofDigits_mod_eq_head!, List.head!_eq_head?_getD, List.head?_drop,
    Nat.default_eq_zero, ← List.getD_eq_getElem?_getD]
  apply Nat.mod_eq_of_lt
  rcases Nat.lt_or_ge i l.length with hi | hi
  · rw [List.getD_eq_getElem _ _ hi]
    exact h _ (List.getElem_mem hi)
  · rw [List.getD_eq_default _ _ hi]
    exact hb

theorem classField_classMerge (kind : Nat) (old x : BitVec 18) {f : Nat} (hf : f < 9) :
    classField (classMerge kind old x) f = mergedField kind old x (classSources.getD f .load, f) := by
  have hd : ∀ d ∈ classSources.zipIdx.map (mergedField kind old x), d < 4 := by
    intro d hd
    obtain ⟨c, -, rfl⟩ := List.mem_map.mp hd
    exact mergedField_lt kind old x c
  have hlt : Nat.ofDigits 4 (classSources.zipIdx.map (mergedField kind old x)) < 2 ^ 18 := by
    have h := Nat.ofDigits_lt_base_pow_length (by decide) hd
    rw [List.length_map, List.length_zipIdx] at h
    exact h
  rw [classMerge_eq_ofDigits, classField, BitVec.toNat_ofNat, Nat.mod_eq_of_lt hlt, digit_ofDigits (by decide) _ hd,
    List.getD_eq_getElem _ _ (by rw [List.length_map, List.length_zipIdx]; exact hf), List.getElem_map, List.getElem_zipIdx,
    Nat.zero_add, List.getD_eq_getElem _ _ hf]
  rfl

/-- The fields, for each kind of arbiter, of the source types that make requests there (R261). -/
def askedFields : List (List Nat) := [[2, 3, 4, 5, 6, 7], [0, 1, 2, 3, 4, 5, 6, 7], [3, 4, 7, 8], [2, 3, 4, 6, 7]]

theorem srcAt_classSources : ∀ (k : Fin 4), ∀ f < 9,
    srcAt k.val (classSources.getD f .load) = decide (f ∈ askedFields.getD k.val []) := by
  decide

theorem mergedField_eq (k : Fin 4) (old x : BitVec 18) {f : Nat} (hf : f < 9) :
    mergedField k.val old x (classSources.getD f .load, f) =
      if f ∉ askedFields.getD k.val [] then 0 else if classField x f = 3 then classField old f else classField x f := by
  unfold mergedField
  rw [srcAt_classSources k f hf]
  by_cases ha : f ∈ askedFields.getD k.val []
  · by_cases hq : classField x f = 3 <;> simp [ha, hq, -List.getD_eq_getElem?_getD]
  · simp [ha, -List.getD_eq_getElem?_getD]

/-- Arbiters changed one after another: nothing but their table changes. -/
theorem foldl_setArb_only (g : Nat → ArbInst → ArbInst) : ∀ (l : List Nat) (v : Dev),
    ∃ arbs, l.foldl (fun v i => setArb i (g i (getArb v i)) v) v = { v with arbs := arbs }
  | [], v => ⟨v.arbs, rfl⟩
  | i :: l, v => by
    obtain ⟨arbs, h⟩ := foldl_setArb_only g l (setArb i (g i (getArb v i)) v)
    exact ⟨arbs, h⟩

/-- A write of a class register sets the register, and moves requesters only where a field changed class (R262, R273). -/
theorem writeClass_only (kind : Nat) (x : BitVec 18) (v : Dev) :
    let old := v.arbRegs.getD kind {}
    let cls := classMerge kind old.cls x
    ∃ arbs, writeClass kind x v = { v with arbRegs := v.arbRegs.set kind { old with cls := cls }, arbs := arbs } ∧
      ((∀ f < 9, classField cls f = classField old.cls f) → arbs = v.arbs) := by
  intro old cls
  unfold writeClass
  dsimp only
  split
  · exact ⟨v.arbs, rfl, fun _ => rfl⟩
  · next hm =>
    obtain ⟨arbs, h⟩ := foldl_setArb_only (fun i a => List.foldl (fun a s => moveClass i s a) a _) (instancesOf kind)
      { v with arbRegs := v.arbRegs.set kind { old with cls := cls } }
    refine ⟨arbs, h, fun hsame => absurd ?_ hm⟩
    rw [List.isEmpty_iff, List.map_eq_nil_iff, List.filter_eq_nil_iff]
    intro c hc
    have hlt : c.2 < 9 := by simpa using (List.mem_zipIdx hc).2.1
    rw [decide_eq_true_eq]
    exact not_not_intro (hsame c.2 hlt)

theorem class_written (k : Fin 4) (x : W64) (ide : Bool) (s : State) (hs : WriteLands s (0x3000 + 4 * k.val) ide) :
    let old := s.dev.arbRegs.getD k.val {}
    let asked : List (List Nat) := [[2, 3, 4, 5, 6, 7], [0, 1, 2, 3, 4, 5, 6, 7], [3, 4, 7, 8], [2, 3, 4, 6, 7]]
    ∃ (cls : BitVec 18) (arbs : Tab ArbInst),
      exec (.bar0Write (.bar0 (0x3000 + 4 * k.val)) false ⟨x, ide⟩) s = .next { s with dev := { s.dev with
        arbRegs := s.dev.arbRegs.set k.val { old with cls := cls }, arbs := arbs } } ∧
      (∀ f < 9, classField cls f =
        if f ∉ asked.getD k.val [] then 0
        else if classField (x.setWidth 18) f = 3 then classField old.cls f else classField (x.setWidth 18) f) ∧
      ((∀ f < 9, classField cls f = classField old.cls f) → arbs = s.dev.arbs) := by
  intro old asked
  have hk := k.isLt
  obtain ⟨arbs, hw, hsame⟩ := writeClass_only k.val (x.setWidth 18) s.dev
  refine ⟨classMerge k.val old.cls (x.setWidth 18), arbs, ?_, ?_, hsame⟩
  · rw [exec_bar0Write_arb hs (by omega) (by omega) (by omega), writeArb_class, hw]
  · intro f hf
    exact (classField_classMerge _ _ _ hf).trans (mergedField_eq k _ _ hf)

/-! ### Set-up registers of a context and of a ring (R299, R302) -/

theorem aligned_low {off : Nat} (wide : Bool) (h : off % 8 = 0) : aligned off wide = true := by
  cases wide
  · exact decide_eq_true (show off % 4 = 0 by omega)
  · exact decide_eq_true h

/-- The bit of a register at 31 after a write that reaches its low half. -/
theorem merge_bit31 {b : Bar} (old : W64) (h : b.lo = true) : bitAt 31 (b.merge old) = b.val.getLsbD 31 := by
  simp [bitAt, Bar.merge, h]

/-- While a context is enabled, a write changes none of its registers, but for one that puts ENABLE = 0 (R299). -/
theorem ctxWrite_enabled {c g : Nat} {b : Bar} {v : Dev} (he : (getCtx v c).enable = true)
    (h : g = 4 → b.lo = true → b.val.getLsbD 31 = true) : ctxWrite c g b v = v := by
  unfold ctxWrite
  split
  · next hg =>
    simp only [ctxCfgWrite, he, if_true]
    refine if_neg fun hb => ?_
    rw [Bool.and_eq_true, Bool.not_eq_true'] at hb
    rw [merge_bit31 _ hb.1, h hg hb.1] at hb
    exact absurd hb.2 (by decide)
  · exact if_pos he

theorem ringWrite_enabled {r g : Nat} {b : Bar} {w : Work} (he : (getRing w.dev r).enable = true) (h : g ≠ 3) :
    ringWrite r g b w = w := by
  simp only [ringWrite, if_neg h, he, if_true]

theorem ringWrite_base {r : Nat} {x : W64} {w : Work} (hd : (getRing w.dev r).enable = false) :
    ringWrite r 0 ⟨true, true, x⟩ w = onDev (setRing r { getRing w.dev r with base := x }) w := by
  unfold ringWrite
  rw [if_neg (by decide), if_neg (Bool.eq_false_iff.mp hd), if_pos rfl, merge_wide]

theorem ringWrite_cqBase {r : Nat} {x : W64} {w : Work} (hd : (getRing w.dev r).enable = false) :
    ringWrite r 1 ⟨true, true, x⟩ w = onDev (setRing r { getRing w.dev r with cqBase := x }) w := by
  unfold ringWrite
  rw [if_neg (by decide), if_neg (Bool.eq_false_iff.mp hd), if_neg (by decide), if_pos rfl, merge_wide]

/-- The granule of a context's register, reached in either half. -/
theorem writeGran_ctxReg (c : Fin 64) {off o : Nat} (b : Bar) (w : Work) (h8 : off % 8 = 0) (h : off < 0x40)
    (ho : o / 8 = (0x10000 + 0x40 * c.val + off) / 8) : writeGran (o - o % 8) b w = onDev (ctxWrite c.val (off / 8) b) w := by
  have hc := c.isLt
  rw [writeGran_ctx b w (by omega) (by omega), show (o - o % 8 - 0x10000) / 0x40 = c.val by omega,
    show (o - o % 8) % 0x40 / 8 = off / 8 by omega]

/-- The granule of a ring's register, reached in either half. -/
theorem writeGran_ringReg (r : Fin 4096) {off o : Nat} (b : Bar) (w : Work) (h8 : off % 8 = 0) (h : off < 0x20)
    (ho : o / 8 = (0x20000 + 0x20 * r.val + off) / 8) : writeGran (o - o % 8) b w = ringWrite r.val (off / 8) b w := by
  have hr := r.isLt
  rw [writeGran_ring b w (by omega) (by omega), show (o - o % 8 - 0x20000) / 0x20 = r.val by omega,
    show (o - o % 8) % 0x20 / 8 = off / 8 by omega]

theorem writeLands_highHalf {s : State} {off : Nat} {ide : Bool} (hs : WriteLands s off ide) (h : 0x3000 ≤ off)
    (h' : off < 0x90000) : WriteLands s (off + 4) ide := by
  obtain ⟨hb, hl, hi⟩ := hs
  have early : earlyBlock off = false := by
    rw [Bool.eq_false_iff]
    simp only [earlyBlock, ne_eq, Bool.or_eq_true, Bool.and_eq_true, decide_eq_true_eq]
    omega
  refine ⟨hb, ?_, hi⟩
  rw [blockLive, early, Bool.or_false] at hl
  rw [blockLive, hl, Bool.true_or]

/-- A write of a register at a multiple of 8 whose granule it leaves as it is, and one of its high half, change nothing. -/
theorem exec_bar0Write_unchanged_halves {s : State} {o : Nat} {wide ide : Bool} {x : W64} (hs : WriteLands s o ide)
    (h : 0x3000 ≤ o) (h' : o < 0x90000) (h8 : o % 8 = 0)
    (hlow : writeGran (o - o % 8) (barOf o wide x) (workOf s) = workOf s)
    (hhigh : writeGran (o + 4 - (o + 4) % 8) ⟨false, true, x <<< 32⟩ (workOf s) = workOf s) :
    exec (.bar0Write (.bar0 o) wide ⟨x, ide⟩) s = .next s ∧ exec (.bar0Write (.bar0 (o + 4)) false ⟨x, ide⟩) s = .next s := by
  refine ⟨exec_bar0Write_unchanged hs (aligned_low wide h8) hlow, ?_⟩
  refine exec_bar0Write_unchanged (writeLands_highHalf hs h h') (decide_eq_true (show (o + 4) % 4 = 0 by omega)) ?_
  rw [barOf_high x (by omega), hhigh]

theorem ctx_setup_enabled (c : Fin 64) {off : Nat} {wide ide : Bool} {x : W64} {s : State} (h8 : off % 8 = 0) (h40 : off < 0x40)
    (hs : WriteLands s (0x10000 + 0x40 * c.val + off) ide) (he : (getCtx s.dev c.val).enable = true)
    (hx : off ≠ 0x20 ∨ x.getLsbD 31 = true) :
    exec (.bar0Write (.bar0 (0x10000 + 0x40 * c.val + off)) wide ⟨x, ide⟩) s = .next s ∧
    exec (.bar0Write (.bar0 (0x10000 + 0x40 * c.val + off + 4)) false ⟨x, ide⟩) s = .next s := by
  have hc := c.isLt
  have keeps {b : Bar} (hb : off / 8 = 4 → b.lo = true → b.val.getLsbD 31 = true) :
      onDev (ctxWrite c.val (off / 8) b) (workOf s) = workOf s :=
    congrArg (fun v => { workOf s with dev := v }) (ctxWrite_enabled he hb)
  refine exec_bar0Write_unchanged_halves hs (by omega) (by omega) (by omega) ?_ ?_
  · rw [writeGran_ctxReg c _ _ h8 h40 rfl]
    refine keeps fun hg _ => ?_
    have hx : x.getLsbD 31 = true := hx.resolve_left (by omega)
    cases wide
    · rw [barOf_low x (by omega), ← hx]
      exact bitAt_lowHalf x (by decide)
    · exact hx
  · rw [writeGran_ctxReg c _ _ h8 h40 (by omega)]
    exact keeps (by simp)

theorem ctx_setup_taken (c : Fin 64) {off : Nat} {ide : Bool} {x : W64} {s : State} (y : Ctx) (h8 : off % 8 = 0) (h40 : off < 0x40)
    (hs : WriteLands s (0x10000 + 0x40 * c.val + off) ide)
    (hy : ctxWrite c.val (off / 8) ⟨true, true, x⟩ s.dev = setCtx c.val y s.dev) :
    exec (.bar0Write (.bar0 (0x10000 + 0x40 * c.val + off)) true ⟨x, ide⟩) s = .next { s with dev := setCtx c.val y s.dev } := by
  have hc := c.isLt
  have hn : namedWord (0x10000 + 0x40 * c.val + off) = true := by
    rw [namedWord_ctx (by omega) (by omega)]
    exact decide_eq_true (by omega)
  rw [exec_bar0Write_lands hs (aligned_low true (by omega)) (by simp [reached, hn]) (writeGran_ctxReg c _ (workOf s) h8 h40 rfl), ← hy]
  rfl

theorem ctx_registers_written (c : Fin 64) (off : Nat) (wide ide : Bool) (x : W64) (s : State)
    (hoff : off ∈ [0x00, 0x08, 0x10, 0x18, 0x20, 0x28, 0x38]) :
    let at_ := 0x10000 + 0x40 * c.val + off
    WriteLands s at_ ide →
    ((getCtx s.dev c.val).enable = true → off ≠ 0x20 ∨ x.getLsbD 31 = true →
      exec (.bar0Write (.bar0 at_) wide ⟨x, ide⟩) s = .next s ∧
      exec (.bar0Write (.bar0 (at_ + 4)) false ⟨x, ide⟩) s = .next s) ∧
    ((getCtx s.dev c.val).enable = false → wide = true →
      let old := getCtx s.dev c.val
      let took (y : Ctx) : Prop := exec (.bar0Write (.bar0 at_) wide ⟨x, ide⟩) s = .next { s with dev := setCtx c.val y s.dev }
      (off = 0x00 → took { old with ptRoot := (x >>> 12).setWidth 40 }) ∧ (off = 0x08 → took { old with seed := x }) ∧
      (off = 0x10 → took { old with stepRec := x }) ∧ (off = 0x18 → took { old with epochAddr := x }) ∧
      (off = 0x28 → took { old with stride := x }) ∧ (off = 0x38 → took { old with stride2 := x })) := by
  have hset : ∀ o ∈ [0x00, 0x08, 0x10, 0x18, 0x20, 0x28, 0x38], o % 8 = 0 ∧ o < 0x40 := by decide
  obtain ⟨h8, h40⟩ := hset off hoff
  intro at_ hs
  refine ⟨fun he hx => ctx_setup_enabled c h8 h40 hs he hx, ?_⟩
  rintro hd rfl old took
  refine ⟨?_, ?_, ?_, ?_, ?_, ?_⟩ <;>
  · rintro rfl
    refine ctx_setup_taken c _ h8 h40 hs ?_
    simp [ctxWrite, hd, merge_wide, old, fld]

theorem ring_setup_enabled (r : Fin 4096) {off : Nat} {wide ide : Bool} {x : W64} {s : State} (h8 : off % 8 = 0) (h18 : off < 0x18)
    (hs : WriteLands s (0x20000 + 0x20 * r.val + off) ide) (he : (getRing s.dev r.val).enable = true) :
    exec (.bar0Write (.bar0 (0x20000 + 0x20 * r.val + off)) wide ⟨x, ide⟩) s = .next s ∧
    exec (.bar0Write (.bar0 (0x20000 + 0x20 * r.val + off + 4)) false ⟨x, ide⟩) s = .next s := by
  have hr := r.isLt
  refine exec_bar0Write_unchanged_halves hs (by omega) (by omega) (by omega) ?_ ?_
  · rw [writeGran_ringReg r _ _ h8 (by omega) rfl]
    exact ringWrite_enabled he (by omega)
  · rw [writeGran_ringReg r _ _ h8 (by omega) (by omega)]
    exact ringWrite_enabled he (by omega)

theorem ring_setup_taken (r : Fin 4096) {off : Nat} {ide : Bool} {x : W64} {s : State} (y : Ring) (h8 : off % 8 = 0)
    (h18 : off < 0x18) (hs : WriteLands s (0x20000 + 0x20 * r.val + off) ide)
    (hy : ringWrite r.val (off / 8) ⟨true, true, x⟩ (workOf s) = onDev (setRing r.val y) (workOf s)) :
    exec (.bar0Write (.bar0 (0x20000 + 0x20 * r.val + off)) true ⟨x, ide⟩) s = .next { s with dev := setRing r.val y s.dev } := by
  have hr := r.isLt
  have hn : namedWord (0x20000 + 0x20 * r.val + off) = true := namedWord_ring (by omega) (by omega)
  refine exec_bar0Write_lands hs (aligned_low true (by omega)) (by simp [reached, hn]) ?_
  rw [writeGran_ringReg r _ _ h8 (by omega) rfl]
  exact hy

theorem ring_registers_written (r : Fin 4096) (off : Nat) (wide ide : Bool) (x : W64) (s : State)
    (hoff : off ∈ [0x00, 0x08, 0x10]) :
    let at_ := 0x20000 + 0x20 * r.val + off
    WriteLands s at_ ide →
    ((getRing s.dev r.val).enable = true → exec (.bar0Write (.bar0 at_) wide ⟨x, ide⟩) s = .next s ∧
      exec (.bar0Write (.bar0 (at_ + 4)) false ⟨x, ide⟩) s = .next s) ∧
    ((getRing s.dev r.val).enable = false → wide = true →
      let old := getRing s.dev r.val
      (off = 0x00 → exec (.bar0Write (.bar0 at_) wide ⟨x, ide⟩) s = .next { s with dev := setRing r.val { old with base := x } s.dev }) ∧
      (off = 0x08 → exec (.bar0Write (.bar0 at_) wide ⟨x, ide⟩) s = .next { s with dev := setRing r.val { old with cqBase := x } s.dev })) := by
  have hset : ∀ o ∈ [0x00, 0x08, 0x10], o % 8 = 0 ∧ o < 0x18 := by decide
  obtain ⟨h8, h18⟩ := hset off hoff
  intro at_ hs
  refine ⟨fun he => ring_setup_enabled r h8 h18 hs he, ?_⟩
  rintro hd rfl old
  refine ⟨?_, ?_⟩
  · rintro rfl
    exact ring_setup_taken r _ h8 h18 hs (ringWrite_base hd)
  · rintro rfl
    exact ring_setup_taken r _ h8 h18 hs (ringWrite_cqBase hd)

/-- Settles O22: each clause is what the shared rules of a BAR0 write (landed, refused, ignored) give for its registers. -/
theorem barWritesLandOrAreRefused : Obligations.BarWritesLandOrAreRefused :=
  ⟨exec_bar0Write_refused, scratch_written, pace_registers_written, quota_written, class_written, ctx_registers_written,
    ring_registers_written, exec_bar0Write_ignored, exec_bar0UnsupportedAccess_answered⟩

end Sys2Proof.Machine
end

section
/-! What no failure of a part undoes: the rails, the uncorrectable words of memory, the events raised and the parts that have
ended (R256, R258, R310, R416); and how a part ends. -/

namespace Sys2Proof.Machine

open Sys2Proof

/-! ### What is kept -/

/-- A descriptor keeps its bytes and its parts, each as it is once it has ended. -/
structure DescKept (x y : Desc) : Prop where
  id : y.id = x.id
  bytes : y.bytes = x.bytes
  parts : ∀ (p : Nat) (q : Part), x.parts[p]? = some q → ∃ r, y.parts[p]? = some r ∧ (q.state = .ended → r = q)

/-- The rails stay as they are, no word or granule below the banks becomes good, and no event is lost. -/
structure Stands (v u : Dev) : Prop where
  power : u.power = v.power
  ue : ∀ a ∈ v.ue, a < bankBase → a ∈ u.ue
  held : ∀ e ∈ v.attn.held, e ∈ u.attn.held

/-- And every descriptor keeps its bytes and the parts that have ended. -/
structure Kept (v u : Dev) : Prop extends Stands v u where
  descs : ∀ d x, getDesc v d = some x → ∃ y, getDesc u d = some y ∧ DescKept x y

theorem DescKept.refl (x : Desc) : DescKept x x := ⟨rfl, rfl, fun _ q h => ⟨q, h, fun _ => rfl⟩⟩

theorem DescKept.trans {x y z : Desc} (h : DescKept x y) (k : DescKept y z) : DescKept x z where
  id := k.id.trans h.id
  bytes := k.bytes.trans h.bytes
  parts p q hq := by
    obtain ⟨r, hr, hrq⟩ := h.parts p q hq
    obtain ⟨t, ht, htr⟩ := k.parts p r hr
    refine ⟨t, ht, fun he => ?_⟩
    obtain rfl := hrq he
    exact htr he

theorem Stands.trans {v u t : Dev} (h : Stands v u) (k : Stands u t) : Stands v t where
  power := k.power.trans h.power
  ue a ha hb := k.ue a (h.ue a ha hb) hb
  held e he := k.held e (h.held e he)

/-- A change of other fields. -/
theorem Kept.of_same {v u : Dev} (hp : u.power = v.power) (hu : u.ue = v.ue) (ha : u.attn = v.attn) (hd : u.descs = v.descs) :
    Kept v u where
  power := hp
  ue _ h _ := hu ▸ h
  held _ h := ha ▸ h
  descs d x h := ⟨x, by unfold getDesc at h ⊢; rw [hd]; exact h, .refl x⟩

theorem Kept.refl (v : Dev) : Kept v v := .of_same rfl rfl rfl rfl

theorem Kept.trans {v u t : Dev} (h : Kept v u) (k : Kept u t) : Kept v t where
  toStands := h.toStands.trans k.toStands
  descs d x hx := by
    obtain ⟨y, hy, hxy⟩ := h.descs d x hx
    obtain ⟨z, hz, hyz⟩ := k.descs d y hy
    exact ⟨z, hz, hxy.trans hyz⟩

theorem Stands.isUe {v u : Dev} (h : Stands v u) {a : Nat} (ha : granuleBase a < bankBase) (hu : isUe v a = true) :
    isUe u a = true := by
  unfold Machine.isUe at hu ⊢
  rw [List.contains_iff_mem] at hu ⊢
  exact h.ue _ hu ha

theorem granuleBase_le (a : Nat) : granuleBase a ≤ a := Nat.sub_le _ _

/-- One change after another, for each element of a list. -/
theorem foldl_kept {α : Type} {f : Dev → α → Dev} (hf : ∀ v a, Kept v (f v a)) (l : List α) (v : Dev) :
    Kept v (l.foldl f v) :=
  List.foldlRecOn (motive := Kept v) l f (.refl v) fun u h a _ => h.trans (hf u a)

/-! ### Descriptors -/

/-- A descriptor looked up after a change of every one that keeps their numbers. -/
theorem getDesc_map (f : Desc → Desc) (hf : ∀ x, (f x).id = x.id) (v : Dev) (d : Nat) :
    getDesc { v with descs := v.descs.map f } d = (getDesc v d).map f := by
  unfold getDesc
  simp only [List.find?_map, Function.comp_def, hf]

theorem getDesc_id {v : Dev} {d : Nat} {x : Desc} (h : getDesc v d = some x) : x.id = d := by
  simpa using List.find?_some h

theorem getDesc_modDesc (d e : Nat) (f : Desc → Desc) (hf : ∀ x, (f x).id = x.id) (v : Dev) :
    getDesc (modDesc d f v) e = if e = d then (getDesc v e).map f else getDesc v e := by
  refine (getDesc_map (fun x => if x.id = d then f x else x) (fun x => by split <;> simp [hf]) v e).trans ?_
  cases hx : getDesc v e with
  | none => simp
  | some x =>
    rw [Option.map_some, getDesc_id hx, Option.map_some]
    split <;> rfl

theorem getDesc_modPart (d e p : Nat) (f : Part → Part) (v : Dev) :
    getDesc (modPart d p f v) e =
      if e = d then (getDesc v e).map (fun x => { x with parts := x.parts.modify p f }) else getDesc v e :=
  getDesc_modDesc d e (fun x => { x with parts := x.parts.modify p f }) (fun _ => rfl) v

/-- Descriptors changed one by one, each kept. -/
theorem Kept.of_map {v u : Dev} {f : Desc → Desc} (hf : ∀ x, DescKept x (f x)) (hp : u.power = v.power) (hu : u.ue = v.ue)
    (ha : u.attn = v.attn) (hd : u.descs = v.descs.map f) : Kept v u where
  power := hp
  ue _ h _ := hu ▸ h
  held _ h := ha ▸ h
  descs d x hx := by
    refine ⟨f x, ?_, hf x⟩
    have hm := getDesc_map f (fun x => (hf x).id) v d
    rw [hx] at hm
    unfold getDesc at hm ⊢
    rw [hd]
    exact hm

/-- Parts changed one by one, but those that have ended. -/
theorem DescKept.of_map (x : Desc) {f : Part → Part} (hf : ∀ q, q.state = .ended → f q = q) :
    DescKept x { x with parts := x.parts.map f } where
  id := rfl
  bytes := rfl
  parts p q hq := ⟨f q, by simp [hq], hf q⟩

/-! ### Events and traces -/

theorem raise_kept (code ctx : Nat) (payload : List Byte) (v : Dev) : Kept v (raise code ctx payload v) := by
  rw [raise_only]
  refine ⟨⟨rfl, fun _ h _ => h, fun e he => ?_⟩, fun _ x h => ⟨x, h, .refl x⟩⟩
  unfold raise ctrHigh trcCause
  dsimp only
  repeat' split
  all_goals simp [traceTo, he]

theorem raiseMemUe_kept (ctx a : Nat) (b : Bool) (v : Dev) : Kept v (raiseMemUe ctx a b v) := raise_kept ..

theorem ctrAdd_kept (set idx n : Nat) (v : Dev) : Kept v (ctrAdd set idx n v) := .of_same rfl rfl rfl rfl

theorem tracePart_kept (type : Nat) (x : Desc) (p : Nat) (extra : List Byte) (v : Dev) : Kept v (tracePart type x p extra v) := by
  unfold tracePart
  split
  · exact .of_same rfl rfl rfl rfl
  · exact .refl v

theorem traceEnd_kept (x : Desc) (p : Nat) (st : Byte) (v : Dev) : Kept v (traceEnd x p st v) := by
  refine (tracePart_kept 0x03 x p [st] v).trans ?_
  unfold traceEnd
  dsimp only
  split
  · rw [trcCause_only]
    exact .of_same rfl rfl rfl rfl
  · exact .refl _

theorem traceFab_kept (type ctx other seq port : Nat) (v : Dev) : Kept v (traceFab type ctx other seq port v) :=
  .of_same rfl rfl rfl rfl

theorem sendFrame_kept (port node msg : Nat) (mask : BitVec 24) (frame : Nat) (m : FabMsg) (v : Dev) :
    Kept v (sendFrame port node msg mask frame m v) := .of_same rfl rfl rfl rfl

theorem sendSegs_kept {grp node : Nat} {mask : BitVec 24} {begun : Option Nat} {seg : Nat} {bodies : List FabMsg} {v : Dev}
    {r : Nat × Dev} (h : sendSegs grp node mask begun seg bodies v = some r) : Kept v r.2 := by
  unfold sendSegs at h
  split at h
  · cases h
  · cases h
    refine Kept.trans ?_ (foldl_kept ?_ _ _)
    · repeat' split
      all_goals exact .of_same rfl rfl rfl rfl
    · exact fun _ _ => sendFrame_kept ..

theorem sendMsg_kept (grp node : Nat) (mask : BitVec 24) (bodies : List FabMsg) (v : Dev) :
    Kept v ((sendMsg grp node mask bodies v).getD v) := by
  unfold sendMsg
  cases h : sendSegs grp node mask none 0 bodies v with
  | none => exact .refl v
  | some r => exact sendSegs_kept h

theorem abortNotices_kept (x : Nat) (v : Dev) : Kept v (abortNotices x v) := by
  refine foldl_kept (fun u c => ?_) _ v
  refine foldl_kept (fun t e => ?_) _ u
  exact sendMsg_kept ..

theorem sendLeave_kept (v : Dev) : Kept v (sendLeave v) := by
  refine Kept.trans (u := if floodTraced v 9 then _ else v) ?_ (.of_same rfl rfl rfl rfl)
  split
  · refine foldl_kept (fun u p => ?_) _ v
    exact traceFab_kept ..
  · exact .refl v

/-! ### Banks and contexts -/

/-- Only words of banks become good when banks are free (R257). -/
theorem bankSweep_kept (v : Dev) : Kept v (bankSweep v) where
  power := rfl
  ue a ha hb := by simp [bankSweep, ha, Nat.not_le.mpr hb]
  held _ h := h
  descs _ x h := ⟨x, h, .refl x⟩

theorem dropEngineParts_kept (test : Nat → Nat → Bool) (v : Dev) : Kept v (dropEngineParts test v) := by
  unfold dropEngineParts
  extract_lets owned f
  refine Kept.trans ?_ (bankSweep_kept _)
  exact .of_same rfl rfl rfl rfl

theorem releaseCtxBanks_kept (x : Nat) (v : Dev) : Kept v (releaseCtxBanks x v) := by
  refine Kept.trans ?_ (bankSweep_kept _)
  exact .of_same rfl rfl rfl rfl

theorem stabRelease_kept (test : StabEntry → Bool) (v : Dev) : Kept v (stabRelease test v) := .of_same rfl rfl rfl rfl

theorem stabForget_kept (test : StabIssuer → Bool) (v : Dev) : Kept v (stabForget test v) := .of_same rfl rfl rfl rfl

theorem modCtx_kept (x : Nat) (f : Ctx → Ctx) (v : Dev) : Kept v (modCtx x f v) := .of_same rfl rfl rfl rfl

theorem modEngine_kept (e : Nat) (f : Engine → Engine) (v : Dev) : Kept v (modEngine e f v) := .of_same rfl rfl rfl rfl

theorem modChisel_kept (i : Nat) (f : Chisel → Chisel) (v : Dev) : Kept v (modChisel i f v) := .of_same rfl rfl rfl rfl

/-- Only parts that have not started are aborted (R416). -/
theorem abortParts_kept (test : Desc → Bool) (v : Dev) : Kept v (abortParts test v) := by
  unfold abortParts
  extract_lets hit gone u ended
  have hu : Kept v u := (dropEngineParts_kept gone v).trans (stabRelease_kept ..)
  refine hu.trans (Kept.trans ?_ (foldl_kept ?_ _ _))
  · refine .of_map (fun x => ?_) rfl rfl rfl rfl
    split
    · exact .of_map x fun q he => if_neg (by rw [he]; decide)
    · exact .refl x
  · exact fun _ c => traceEnd_kept ..

theorem failCtx_kept (x tag ring st : Nat) (v : Dev) : Kept v (failCtx x tag ring st v) := by
  unfold failCtx
  split
  · exact .refl v
  · extract_lets v1 v2 v3 idle v4 v5
    have h3 : Kept v v3 := ((modCtx_kept ..).trans (abortParts_kept ..)).trans ((releaseCtxBanks_kept ..).trans (stabForget_kept ..))
    have h4 : Kept v3 v4 := .of_same rfl rfl rfl rfl
    exact (h3.trans h4).trans ((raise_kept ..).trans (abortNotices_kept ..))

theorem failCtxBy_kept (x : Desc) (st : Byte) (v : Dev) : Kept v (failCtxBy x st v) := failCtx_kept ..

theorem retire_kept (v : Dev) : Kept v (retire v) := by
  unfold retire
  split
  · exact .refl v
  · extract_lets u t
    have hu : Kept v u := .of_same rfl rfl rfl rfl
    refine (hu.trans (foldl_kept (fun w x => ?_) _ _)).trans (sendLeave_kept t)
    refine Kept.trans ?_ (failCtx_kept ..)
    exact .of_same rfl rfl rfl rfl

theorem stackFaulty_kept (s : Nat) (v : Dev) : Kept v (stackFaulty s v) := by
  refine Kept.trans ?_ (retire_kept _)
  exact .of_same rfl rfl rfl rfl

/-- Only parts that are queued or running end with their core (R25). -/
theorem fenceCore_kept (c : Nat) (v : Dev) : Kept v (fenceCore c v) := by
  unfold fenceCore
  extract_lets onCore gone ended held v1 v2 v3 v4 v5 v6
  have h1 : Kept v v1 := .of_same rfl rfl rfl rfl
  have h2 : Kept v1 v2 := dropEngineParts_kept ..
  have h3 : Kept v2 v3 := (foldl_kept (fun _ _ => modEngine_kept ..) _ _).trans (bankSweep_kept _)
  have h4 : Kept v3 v4 := foldl_kept (fun _ _ => modChisel_kept ..) _ _
  have h6 : Kept v4 v6 := (stabForget_kept ..).trans (stabRelease_kept ..)
  refine (((h1.trans h2).trans (h3.trans h4)).trans h6).trans (.of_map (fun x => ?_) rfl rfl rfl rfl)
  exact .of_map x fun q he => if_neg (by simp [onCore, he])

/-! ### Uncorrectable errors (R256, R258) -/

theorem countUe_kept (a : Nat) (v : Dev) : Kept v (countUe a v) := by
  unfold countUe
  extract_lets isDram k u times t
  have hu : Kept v u := by
    change Kept v (if _ then _ else _)
    split <;> exact .of_same rfl rfl rfl rfl
  have ht : Kept u t := .of_same rfl rfl rfl rfl
  refine hu.trans ?_
  repeat' split
  · exact .refl u
  · exact ht.trans (stackFaulty_kept ..)
  · exact ht.trans (fenceCore_kept ..)
  · exact ht

theorem meetUe_kept (ctx a : Nat) (v : Dev) : Kept v (meetUe ctx a v) := by
  have hf : Kept v (freeNext v) := .of_same rfl rfl rfl rfl
  unfold meetUe
  split
  · exact hf.trans ((raiseMemUe_kept ..).trans (countUe_kept ..))
  · exact (raiseMemUe_kept ..).trans (countUe_kept ..)

/-- An uncorrectable word of memory met raises MEM_UE with its device physical address (R256). -/
theorem meetUe_event (ctx : Nat) {a : Nat} {v : Dev} (ha : a < scratchBase) (h : attnHeld v.attn < 64) :
    ∃ e ∈ (meetUe ctx a v).attn.held, e.code = 0x0004 ∧ e.payload = leBytes 8 (granuleBase a) ++ [0] := by
  unfold meetUe
  rw [if_neg (Nat.not_le.mpr ha)]
  refine ⟨⟨now v, 0x0004, BitVec.ofNat 6 ctx, v.attn.seq, leBytes 8 (granuleBase a) ++ [0]⟩,
    (countUe_kept a _).held _ ?_, rfl, rfl⟩
  unfold raiseMemUe
  rw [raise_attn _ _ _ _ h]
  exact List.mem_append_right _ (List.mem_singleton.mpr rfl)

/-! ### Stages that keep them where they succeed -/

/-- A stage that succeeds on some work keeps what its device held. -/
def OkKeepsAt {α : Type} (m : Acc α) (w : Work) : Prop := ∀ a u, m.run w = (.ok a, u) → Kept w.dev u.dev

/-- A stage that keeps it wherever it succeeds. -/
def OkKeeps {α : Type} (m : Acc α) : Prop := ∀ w, OkKeepsAt m w

theorem okKeeps_pure {α : Type} (a : α) : OkKeeps (pure a : Acc α) := by
  rintro w b u ⟨⟩
  exact .refl _

theorem okKeeps_throw {α : Type} (e : Stop) : OkKeeps (throw e : Acc α) := by
  rintro w b u ⟨⟩

theorem okKeepsAt_set {w u : Work} (h : Kept w.dev u.dev) : OkKeepsAt (set u : Acc PUnit) w := by
  rintro b t ⟨⟩
  exact h

theorem okKeeps_modify {f : Work → Work} (h : ∀ w, Kept w.dev (f w).dev) : OkKeeps (modify f : Acc PUnit) := by
  rintro w b u ⟨⟩
  exact h w

theorem okKeeps_onDev {f : Dev → Dev} (h : ∀ v, Kept v (f v)) : OkKeeps (modify (onDev f) : Acc PUnit) :=
  okKeeps_modify fun w => h w.dev

theorem okKeepsAt_bind {α β : Type} {m : Acc α} {f : α → Acc β} {w : Work} (hm : OkKeepsAt m w)
    (hf : ∀ a u, m.run w = (.ok a, u) → OkKeepsAt (f a) u) : OkKeepsAt (m >>= f) w := by
  intro b t h
  rw [acc_bind] at h
  split at h
  · next a u e => exact (hm a u e).trans (hf a u e b t h)
  · cases h

theorem okKeeps_bind {α β : Type} {m : Acc α} {f : α → Acc β} (hm : OkKeeps m) (hf : ∀ a, OkKeeps (f a)) : OkKeeps (m >>= f) :=
  fun w => okKeepsAt_bind (hm w) fun a u _ => hf a u

/-- A check that stops a stage before the rest of it. -/
theorem okKeeps_guard {α : Type} {c : Prop} {_ : Decidable c} {e : Stop} {f : PUnit → Acc α} (h : OkKeeps (f ⟨⟩)) :
    OkKeeps (if c then throw e >>= f else f ⟨⟩) := by
  split
  · rintro w b u ⟨⟩
  · exact h

theorem okKeeps_get_bind {α : Type} {f : Work → Acc α} (h : ∀ w, OkKeepsAt (f w) w) : OkKeeps (get >>= f) := by
  intro w b u hb
  rw [acc_bind_ok (acc_get w)] at hb
  exact h w b u hb

theorem okKeeps_mapM {α β : Type} {f : α → Acc β} (hf : ∀ a, OkKeeps (f a)) : ∀ l : List α, OkKeeps (l.mapM f)
  | [] => by rw [List.mapM_nil]; exact okKeeps_pure _
  | a :: l => by
    rw [List.mapM_cons]
    exact okKeeps_bind (hf a) fun _ => okKeeps_bind (okKeeps_mapM hf l) fun _ => okKeeps_pure _

end Sys2Proof.Machine
end

section
/-! The destinations of a failed part, and how a part ends (R309, R310). -/

namespace Sys2Proof.Machine

open Sys2Proof

/-! ### Access to memory, where it succeeds -/

theorem snoopGate_okKeeps (a : Nat) (write : Bool) : OkKeeps (snoopGate a write) := by
  refine okKeeps_get_bind fun w => ?_
  split
  · exact okKeeps_pure _ w
  · split
    · exact okKeeps_throw _ w
    · exact okKeepsAt_set (.refl _)

theorem readPhys_okKeeps (ctx a : Nat) : OkKeeps (readPhys ctx a) := by
  refine okKeeps_bind (snoopGate_okKeeps a false) fun _ => okKeeps_get_bind fun w => ?_
  split
  · exact okKeeps_get_bind (fun u => okKeeps_bind (okKeeps_onDev (meetUe_kept ctx a)) (fun _ => okKeeps_throw _) u) w
  · exact okKeeps_pure _ w

theorem readPhys64_okKeeps (ctx a : Nat) : OkKeeps (readPhys64 ctx a) :=
  okKeeps_bind (okKeeps_mapM (fun i => readPhys_okKeeps ctx (a + i)) (upto 8)) fun _ => okKeeps_pure _

theorem walkEntry_okKeeps (r : Requestor) (va : W64) (lvl table : Nat) (wOk : Bool) : OkKeeps (walkEntry r va lvl table wOk) := by
  unfold walkEntry
  extract_lets read
  refine okKeeps_guard ?_
  refine okKeeps_bind (readPhys64_okKeeps _ _) fun e => ?_
  extract_lets addr ok tgt leaf entry
  refine okKeeps_guard ?_
  change OkKeeps (if _ then _ else _)
  split
  · refine okKeeps_guard ?_
    exact okKeeps_pure _
  · exact okKeeps_pure _

theorem walk_okKeeps (r : Requestor) (va : W64) : ∀ (lvl table : Nat) (ok : Bool), OkKeeps (walk r va lvl table ok)
  | 0, table, ok => by
    refine okKeeps_bind (walkEntry_okKeeps r va 0 table ok) fun e => ?_
    split
    · exact okKeeps_pure _
    · exact okKeeps_throw _
  | l + 1, table, ok => by
    refine okKeeps_bind (walkEntry_okKeeps r va (l + 1) table ok) fun e => ?_
    split
    · exact okKeeps_pure _
    · exact walk_okKeeps r va l _ _

theorem atsTranslate_okKeeps (r : Requestor) (va : W64) (ha : Nat) (write : Bool) : OkKeeps (atsTranslate r va ha write) := by
  refine okKeeps_get_bind fun w => ?_
  split
  · exact okKeeps_throw _ w
  · split
    · exact okKeepsAt_bind (okKeepsAt_set (.of_same rfl rfl rfl rfl)) fun _ u _ => okKeeps_throw _ u
    · split
      · exact okKeeps_throw _ w
      · split
        · exact okKeeps_throw _ w
        · exact okKeeps_pure _ w

theorem tlbAdd_kept (t : TlbEntry) (v : Dev) : Kept v (tlbAdd t v) := .of_same rfl rfl rfl rfl

theorem translate_okKeeps (r : Requestor) (va : W64) (write : Bool) : OkKeeps (translate r va write) := by
  unfold translate
  extract_lets va48 found looked
  refine okKeeps_guard ?_
  refine okKeeps_get_bind fun w => ?_
  extract_lets hit walked
  have hfound : ∀ pg, OkKeeps (found pg) := by
    intro pg
    unfold found
    extract_lets a allowed
    refine okKeeps_guard ?_
    unfold allowed
    repeat' split
    · exact okKeeps_throw _
    · exact atsTranslate_okKeeps _ _ _ _
    · exact okKeeps_throw _
    · exact okKeeps_throw _
    · exact okKeeps_pure _
  have hwalked : OkKeeps (walked ()) := by
    refine okKeeps_bind (walk_okKeeps _ _ _ _ _) fun pg => ?_
    split
    · exact okKeeps_bind (okKeeps_onDev fun v => tlbAdd_kept _ v) fun _ => okKeeps_bind (okKeeps_pure _) hfound
    · exact okKeeps_bind (okKeeps_pure _) hfound
  clear_value hit
  cases hit with
  | some t => exact okKeeps_bind (okKeeps_pure _) hfound w
  | none =>
    cases r.core with
    | some c => exact okKeeps_bind (okKeeps_onDev fun v => ctrAdd_kept _ _ _ v) (fun _ => hwalked) w
    | none => exact hwalked w

theorem countBytes_kept (ctx : Nat) (t : Target) (v : Dev) : Kept v (countBytes ctx t v) := by
  unfold countBytes
  repeat' split
  all_goals exact .of_same rfl rfl rfl rfl

theorem readRaw_okKeeps (r : Requestor) (va : W64) : OkKeeps (readRaw r va) := by
  refine okKeeps_bind (translate_okKeeps r va false) fun t =>
    okKeeps_bind (okKeeps_onDev (countBytes_kept r.ctx t)) fun _ => ?_
  split
  · exact readPhys_okKeeps _ _
  · exact okKeeps_get_bind fun w => okKeeps_pure _ w

theorem granule_ge (a : Nat) : 8 ≤ granule a := by
  unfold granule
  split <;> decide

/-- A write of one byte covers no word or granule whole, so it makes none good (R257, R505). -/
theorem writeRaw_okKeeps (r : Requestor) {lo hi : Nat} (va : W64) (b : Byte) (h : hi ≤ lo + 1) :
    OkKeeps (writeRaw r lo hi va b) := by
  refine okKeeps_bind (translate_okKeeps r va true) fun t =>
    okKeeps_bind (okKeeps_onDev (countBytes_kept r.ctx t)) fun _ => ?_
  split
  · exact okKeeps_bind (okKeeps_modify fun w => .refl _) fun _ => okKeeps_pure _
  · next a =>
    refine okKeeps_bind (snoopGate_okKeeps a true) fun _ => okKeeps_get_bind fun w => ?_
    split
    · extract_lets g start
      split
      · next hc =>
        have hg : 8 ≤ g := granule_ge a
        omega
      · exact okKeeps_pure _ w
    · exact okKeepsAt_bind (okKeepsAt_set (.refl _)) fun _ u _ => okKeeps_pure _ u

theorem clearTag_okKeeps (r : Requestor) (va : W64) : OkKeeps (clearTag r va) := by
  unfold clearTag
  split
  · exact okKeeps_pure _
  · split
    · exact okKeeps_pure _
    · split
      · exact okKeeps_pure _
      · split
        · exact okKeeps_pure _
        · refine okKeeps_bind (readRaw_okKeeps _ _) fun b => ?_
          split
          · exact okKeeps_bind (writeRaw_okKeeps r _ _ le_rfl) fun _ => okKeeps_pure _
          · exact okKeeps_pure _

theorem freeDestByte_kept (r : Requestor) (va : W64) (w : Work) : Kept w.dev (freeDestByte r va w).dev := by
  unfold freeDestByte
  split
  · next u h =>
    have hk : OkKeeps (writeByteIn r va.toNat (va.toNat + 1) va ((freeVal w.dev).setWidth 8)) :=
      okKeeps_bind (clearTag_okKeeps r va) fun _ => writeRaw_okKeeps r va _ le_rfl
    exact (hk w _ u h).trans (.of_same rfl rfl rfl rfl)
  · exact .refl _

/-- Destinations made free keep what the device holds (R310). -/
theorem freeDest_kept (w : Work) : Kept w.dev (freeDest w).dev := by
  unfold freeDest
  refine List.foldlRecOn (motive := fun u : Work => Kept w.dev u.dev) _ _ (.refl _) fun u h c _ => ?_
  exact List.foldlRecOn (motive := fun u : Work => Kept w.dev u.dev) _ _ h fun t k i _ => k.trans (freeDestByte_kept _ _ t)

/-! ### The end of a part -/

/-- A part ended with a status, an address and the flags raised. -/
def endedPart (st : Byte) (a : W64) (f : Flags) (q : Part) : Part :=
  { q with state := .ended, status := st, faultAddr := a, flags := Flags.join q.flags f }

/-- The device with a part ended and its stream table entry released. -/
def withEnded (d p : Nat) (st : Byte) (a : W64) (f : Flags) (v : Dev) : Dev :=
  stabRelease (fun e => e.d = d && e.p = p)
    (modPart d p (endedPart st a f) v)

/-- An uncorrectable error puts the context on the failure path besides (R256). -/
theorem endPart_some {d : Nat} (p : Nat) (st : Byte) (a : W64) (f : Flags) {v : Dev} {x : Desc} (hx : getDesc v d = some x) :
    endPart d p st a f v = if st = stMemoryUe then failCtxBy x st (withEnded d p st a f v) else withEnded d p st a f v := by
  unfold endPart
  rw [hx]
  rfl

theorem endPart_none {d : Nat} (p : Nat) (st : Byte) (a : W64) (f : Flags) {v : Dev} (hx : getDesc v d = none) :
    endPart d p st a f v = v := by
  unfold endPart
  rw [hx]

section
variable (d p : Nat) (st : Byte) (a : W64) (f : Flags) (v : Dev)

theorem withEnded_stands : Stands v (withEnded d p st a f v) := ⟨rfl, fun _ h _ => h, fun _ h => h⟩

theorem getDesc_withEnded_other {e : Nat} (h : e ≠ d) : getDesc (withEnded d p st a f v) e = getDesc v e :=
  (getDesc_modPart d e p _ v).trans (if_neg h)

theorem getDesc_withEnded {x : Desc} {q : Part} (hx : getDesc v d = some x) (hq : x.parts[p]? = some q) :
    getDesc (withEnded d p st a f v) d = some { x with parts := x.parts.set p (endedPart st a f q) } := by
  refine (getDesc_modPart d d p _ v).trans ?_
  rw [if_pos rfl, hx, Option.map_some, List.modify_eq_set_getElem?, hq]
  rfl

theorem endPart_stands : Stands v (endPart d p st a f v) := by
  cases hx : getDesc v d with
  | none => rw [endPart_none p st a f hx]; exact (Kept.refl v).toStands
  | some x =>
    rw [endPart_some p st a f hx]
    split
    · exact (withEnded_stands ..).trans (failCtxBy_kept ..).toStands
    · exact withEnded_stands ..

end

/-- The part that ends, as its descriptor holds it, also where its context fails with it. -/
theorem endPart_part {d p : Nat} (st : Byte) (a : W64) (f : Flags) {v : Dev} {x : Desc} {q : Part} (hx : getDesc v d = some x)
    (hq : x.parts[p]? = some q) : ∃ y r, getDesc (endPart d p st a f v) d = some y ∧ y.bytes = x.bytes ∧
      y.parts[p]? = some r ∧ r.state = .ended ∧ r.status = st ∧ r.faultAddr = a := by
  have hw := getDesc_withEnded d p st a f v hx hq
  obtain ⟨hp, -⟩ := List.getElem?_eq_some_iff.mp hq
  rw [endPart_some p st a f hx]
  split
  · obtain ⟨y, hy, hk⟩ := (failCtxBy_kept x st (withEnded d p st a f v)).descs d _ hw
    obtain ⟨r, hr, he⟩ := hk.parts p _ (List.getElem?_set_self hp)
    obtain rfl := he rfl
    exact ⟨y, _, hy, hk.bytes, hr, rfl, rfl, rfl⟩
  · exact ⟨_, _, hw, rfl, List.getElem?_set_self hp, rfl, rfl, rfl⟩

/-- A part that ends with any other status changes nothing beside itself and its stream table entry. -/
theorem partEnded_endPart {d p : Nat} {st : Byte} (a : W64) (f : Flags) (v : Dev) (h : st ≠ stMemoryUe) :
    PartEnded v (endPart d p st a f v) d p st f := by
  cases hx : getDesc v d with
  | none =>
    rw [endPart_none p st a f hx]
    exact ⟨fun x q hs => (nomatch hx.symm.trans hs), fun _ _ => rfl, rfl, rfl, rfl, rfl, rfl, rfl⟩
  | some x =>
    rw [endPart_some p st a f hx, if_neg h]
    exact ⟨fun y q hy hq => ⟨_, getDesc_withEnded d p st a f v hy hq, rfl, rfl, rfl, rfl, rfl⟩,
      fun e he => getDesc_withEnded_other d p st a f v he, rfl, rfl, rfl, rfl, rfl, rfl⟩

theorem breakReserved_only (l : List Store) (v : Dev) : breakReserved l v = { v with chisels := (breakReserved l v).chisels } := by
  unfold breakReserved
  split <;> rfl

theorem breakReserved_kept (l : List Store) (v : Dev) : Kept v (breakReserved l v) := by
  rw [breakReserved_only]
  exact .of_same rfl rfl rfl rfl

theorem getDesc_breakReserved (l : List Store) (v : Dev) (d : Nat) : getDesc (breakReserved l v) d = getDesc v d := by
  rw [breakReserved_only]
  rfl

theorem partEnded_breakReserved {v u : Dev} {d p : Nat} {st : Byte} {f : Flags} (h : PartEnded v u d p st f) (l : List Store) :
    PartEnded v (breakReserved l u) d p st f := by
  rw [breakReserved_only]
  exact h

/-- What the memories read as after a command: its stores, where nothing is wiped and the memory keeps its contents. -/
theorem storedBy_commit {s : State} {w : Work} (hs : Memory.wf s = true) (hw : w.wiped = .none) (hl : s.dev.power.lost = .none)
    (hp : w.dev.power = s.dev.power) : StoredBy s (commit s w) w.stores := by
  refine ⟨fun a => ?_, fun a => hostByte_commit s w a hs, fun a => flashByte_commit s w a hs⟩
  refine (devByte_commit s w a hs hw (by rw [hp, hl])).trans ?_
  rw [memByte, devByte_kept _ _ _ hl]

/-! ### A part run as a whole -/

theorem runWork_eq {f : Work → Work} {s : State} {u : Work} (h : f (workOf s) = u) : runWork f s = .next (commit s u) := by
  rw [runWork_next, h]

/-- A meaning that leaves a command's work as it begins changes nothing. -/
theorem runWork_unchanged {f : Work → Work} {s : State} (h : f (workOf s) = workOf s) : runWork f s = .next s :=
  (runWork_eq h).trans (congrArg _ (commit_workOf s s.dev))

theorem stabWait_waiting {c : Nat} {who : StabIssuer} {v : Dev} (h : who ∈ v.stabWaits) : stabWait c who v = v :=
  if_pos (List.contains_iff_mem.mpr h)

theorem stabWait_new {c : Nat} {who : StabIssuer} {v : Dev} (h : who ∉ v.stabWaits) :
    stabWait c who v = ctrAdd (0x100 + c) 4 1 { v with stabWaits := v.stabWaits ++ [who] } :=
  if_neg (fun hm => h (List.contains_iff_mem.mp hm))

section
variable {d p : Nat} {body : Acc Unit} {w w1 u : Work}

theorem runPart_fenced (h : onFenced w.dev d p = true) : runPart d p body w = onDev (endPart d p stFenced 0 {}) w := if_pos h

theorem runPart_blocked {k : Nat} (h : onFenced w.dev d p = false) (hk : stabBlocked w.dev d p = some k) :
    runPart d p body w = onDev (stabWait k (.part d p)) w := by
  unfold runPart beginPart
  simp only [h, hk, Bool.false_eq_true, if_false]

theorem runPart_starts (h : onFenced w.dev d p = false) (hk : stabBlocked w.dev d p = none) :
    runPart d p body w = runBody d p body w (onDev (startPart d p) w) := by
  unfold runPart beginPart
  simp only [h, hk, Bool.false_eq_true, if_false]

theorem runBody_ok (h : body.run { w1 with dest := [], snooped := [], flags := {} } = (.ok (), u)) :
    runBody d p body w w1 = onDev (endPart d p stSuccess 0 u.flags) (snoopsUsed { u with dest := [] }) := by
  unfold runBody
  rw [h]

theorem runBody_fail {st : Byte} {a : W64}
    (h : body.run { w1 with dest := [], snooped := [], flags := {} } = (.error (.fail st a), u)) :
    runBody d p body w w1 =
      onDev (endPart d p st a (if st = stVersionRetired then { u.flags with versionRetired := true } else u.flags))
        (snoopsUsed (freeDest u)) := by
  unfold runBody
  rw [h]

theorem runBody_wait (h : body.run { w1 with dest := [], snooped := [], flags := {} } = (.error .wait, u)) :
    runBody d p body w w1 = w := by
  unfold runBody
  rw [h]

end

/-- What a part's end leaves: the stores of its work, and the part ended. -/
theorem commit_endPart {s : State} {w : Work} {d p : Nat} {st : Byte} (a : W64) (f : Flags) (hs : Memory.wf s = true)
    (hst : st ≠ stMemoryUe) (hw : w.wiped = .none) (hl : s.dev.power.lost = .none) (hp : w.dev.power = s.dev.power) :
    let t := commit s (onDev (endPart d p st a f) (snoopsUsed w))
    StoredBy s t w.stores ∧ PartEnded w.dev t.dev d p st f := by
  have he : PartEnded (snoopsUsed w).dev (endPart d p st a f (snoopsUsed w).dev) d p st f := partEnded_endPart a f _ hst
  exact ⟨storedBy_commit (w := onDev (endPart d p st a f) (snoopsUsed w)) hs hw hl ((endPart_stands ..).power.trans hp),
    partEnded_breakReserved he w.stores⟩

theorem runsPart_of_runBody {c : Instr} {d p : Nat} {body : Acc Unit} {s : State} (hs : Memory.wf s = true)
    (hc : exec c s = .next (commit s (runBody d p body (workOf s) (onDev (startPart d p) (workOf s))))) : RunsPart c d p body s := by
  refine ⟨fun w h hw hl hp => ?_, fun w st a h hst hw hl hp => ?_, fun w h => ?_⟩
  · rw [runBody_ok (u := w) h] at hc
    exact ⟨_, hc, commit_endPart 0 w.flags hs (by decide) hw hl hp⟩
  · rw [runBody_fail (u := w) h] at hc
    exact ⟨_, hc, commit_endPart a _ hs hst hw hl ((freeDest_kept w).power.trans hp)⟩
  · rw [runBody_wait (u := w) h] at hc
    exact hc.trans (congrArg _ (commit_workOf s s.dev))

/-- A command that runs a part gives it its turn. -/
theorem partTurn_of_runPart {c : Instr} {d p : Nat} {body : Acc Unit} {s : State} (hs : Memory.wf s = true)
    (hc : exec c s = runWork (runPart d p body) s) : PartTurn c d p body s := by
  rw [runWork_next] at hc
  refine ⟨fun hf => ?_, fun hf k hk => ?_, fun hf hk => ?_⟩
  · rw [runPart_fenced (w := workOf s) hf] at hc
    exact ⟨_, hc, partEnded_breakReserved (partEnded_endPart 0 {} s.dev (by decide)) [], rfl, rfl⟩
  · rw [runPart_blocked (w := workOf s) hf hk] at hc
    refine ⟨fun hm => hc.trans (congrArg _ ((commit_workOf s _).trans ?_)),
      fun hm => hc.trans (congrArg _ ((commit_workOf s _).trans ?_))⟩
    · rw [show (workOf s).dev = s.dev from rfl, stabWait_waiting hm]
    · rw [show (workOf s).dev = s.dev from rfl, stabWait_new hm]
  · rw [runPart_starts (w := workOf s) hf hk] at hc
    exact runsPart_of_runBody hs hc

end Sys2Proof.Machine
end

section
/-! Vector parts: each command of the vector functions runs the part it names (R25, R148 to R157, R240, R309). -/

namespace Sys2Proof.Machine

open Sys2Proof

/-- The command of a vector function runs a part of that function. -/
theorem exec_vopCommand {fc : Nat × (Nat → Nat → Instr)} (h : fc ∈ vopCommands) (d p : Nat) (s : State) :
    exec (fc.2 d p) s = runWork (vopRun fc.1 d p) s := by
  revert fc
  simp only [vopCommands, List.forall_mem_cons, List.cons_append, List.nil_append, List.not_mem_nil, false_implies, implies_true,
    and_true]
  repeat' apply And.intro
  all_goals rfl

theorem vopRun_runs {func d p : Nat} {w : Work} {x : Desc} {q : Part} (h : ready w.dev d p 1 = some (x, q))
    (hf : (vopOf x.bytes).func = func) : vopRun func d p w = runPart d p (vopBody x q p) w := by
  unfold vopRun
  simp only [h, hf, if_true]

theorem vopRun_otherFunction {func d p : Nat} {w : Work} {x : Desc} {q : Part} (h : ready w.dev d p 1 = some (x, q))
    (hf : (vopOf x.bytes).func ≠ func) : vopRun func d p w = w := by
  unfold vopRun
  simp only [h, hf, if_false]

theorem vopRun_notReady {func d p : Nat} {w : Work} (h : ready w.dev d p 1 = none) : vopRun func d p w = w := by
  unfold vopRun
  rw [h]

theorem convRun_runs {d p : Nat} {w : Work} {x : Desc} {q : Part} (h : ready w.dev d p 2 = some (x, q)) :
    convRun d p w = runPart d p (vopBody x q p) w := by
  unfold convRun
  rw [h]

theorem convRun_notReady {d p : Nat} {w : Work} (h : ready w.dev d p 2 = none) : convRun d p w = w := by
  unfold convRun
  rw [h]

/-- Settles O34: a vector command is the run of the part it names where that is ready and of its function, and else nothing. -/
theorem vectorCommandsRunTheirPart : Obligations.VectorCommandsRunTheirPart := by
  refine ⟨fun fc hfc d p s hs => ⟨fun x q hr hf => ?_, fun x q hr hf => ?_, fun hr => ?_⟩,
    fun d p s hs => ⟨fun x q hr => ?_, fun hr => ?_⟩⟩
  · exact partTurn_of_runPart hs ((exec_vopCommand hfc d p s).trans (runWork_eq (vopRun_runs (w := workOf s) hr hf)))
  · exact (exec_vopCommand hfc d p s).trans (runWork_unchanged (vopRun_otherFunction (w := workOf s) hr hf))
  · exact (exec_vopCommand hfc d p s).trans (runWork_unchanged (vopRun_notReady (w := workOf s) hr))
  · exact partTurn_of_runPart hs (runWork_eq (f := convRun d p) (convRun_runs (w := workOf s) hr))
  · exact runWork_unchanged (f := convRun d p) (convRun_notReady (w := workOf s) hr)

end Sys2Proof.Machine
end

section
/-! Refresh, scrubs and stitch lines (R24, R246, R247, R255, R270, R479, R502), and parts that meet an uncorrectable word or granule
(R256, R505). -/

namespace Sys2Proof.Machine

open Sys2Proof

/-! ### Commands that change the device alone -/

theorem runDev_unchanged {f : Dev → Dev} {s : State} (h : f s.dev = s.dev) : runDev f s = .next s := by
  rw [runDev_next, h]

theorem powered_on {v : Dev} (f : Dev → Dev) (h : v.power.railsUp = true) : powered f v = f v := if_pos h

theorem powered_unchanged {f : Dev → Dev} {v : Dev} (h : f v = v) : powered f v = v := by
  unfold powered
  rw [h, ite_self]

/-! ### Refresh requests (R246, R247) -/

/-- The request that a refresh owed makes. -/
def refreshRequest : ArbRequest := ⟨⟨.refresh, 0⟩, .other, 1⟩

theorem askRefresh_only (c : Nat) (v : Dev) : askRefresh c v = { v with arbs := (askRefresh c v).arbs } := by
  unfold askRefresh
  dsimp only
  split <;> rfl

theorem promoteRefresh_only (c : Nat) (v : Dev) : promoteRefresh c v = { v with arbs := (promoteRefresh c v).arbs } := by
  unfold promoteRefresh
  dsimp only
  split <;> rfl

@[simp] theorem getChan_askRefresh (c k : Nat) (v : Dev) : getChan (askRefresh c v) k = getChan v k := by
  rw [askRefresh_only]
  rfl

@[simp] theorem getChan_promoteRefresh (c k : Nat) (v : Dev) : getChan (promoteRefresh c v) k = getChan v k := by
  rw [promoteRefresh_only]
  rfl

@[simp] theorem descs_askRefresh (c : Nat) (v : Dev) : (askRefresh c v).descs = v.descs := by
  rw [askRefresh_only]

@[simp] theorem descs_promoteRefresh (c : Nat) (v : Dev) : (promoteRefresh c v).descs = v.descs := by
  rw [promoteRefresh_only]

theorem getArb_askRefresh_other {c k : Nat} (v : Dev) (h : k ≠ c) : getArb (askRefresh c v) k = getArb v k := by
  unfold askRefresh
  dsimp only
  split
  · exact getArb_setArb_other _ _ _ _ h
  · rfl

theorem getArb_promoteRefresh_other {c k : Nat} (v : Dev) (h : k ≠ c) : getArb (promoteRefresh c v) k = getArb v k := by
  unfold promoteRefresh
  dsimp only
  split
  · rfl
  · exact getArb_setArb_other _ _ _ _ h

/-- At its own channel an ask changes the requests raised and nothing else. -/
theorem getArb_askRefresh (c : Nat) {v : Dev} (hw : tabWf {} v.arbs = true) :
    ∃ l, getArb (askRefresh c v) c = { getArb v c with raised := l } := by
  unfold askRefresh
  dsimp only
  split
  · exact ⟨_, getArb_setArb_same _ _ _ hw⟩
  · exact ⟨_, rfl⟩

/-- A refresh owed asks where its channel has no request and no requester that sits out rounds (R247). -/
theorem getArb_askRefresh_asks {c : Nat} {v : Dev} (hw : tabWf {} v.arbs = true) (hc : c < 640) (h0 : (getChan v c).owed ≠ 0)
    (h8 : (getChan v c).owed < 8) (hs : (getChan v c).since = none) (hr : (getArb v c).raised = []) (hd : (getArb v c).decided = none)
    (hb : (getArb v c).backoff = []) : (getArb (askRefresh c v) c).raised = [refreshRequest] := by
  unfold askRefresh
  rw [if_pos (by simp [hc, h0, h8, hs, hr, hd, hb, backoffOf, sitsOut]), getArb_setArb_same _ _ _ hw]
  rfl

/-! ### REFRESH_DUE -/

theorem refreshDue_idle {c : Nat} {v : Dev}
    (h : v.power.railsUp = false ∨ v.power.state = .park ∨ timerDue v (tmRefreshOf c) (refi v (c / 32)) = false) :
    refreshDue c v = v := by
  unfold refreshDue
  rw [if_pos]
  rcases h with h | h | h <;> simp [h]

theorem refreshDue_owes {c : Nat} {v : Dev} (hr : v.power.railsUp = true) (hp : v.power.state ≠ .park)
    (ht : timerDue v (tmRefreshOf c) (refi v (c / 32)) = true) :
    refreshDue c v = askRefresh c (promoteRefresh c (timerMark (tmRefreshOf c)
      (setChan c { getChan v c with owed := Nat.min ((getChan v c).owed + 1) 8 } v))) := by
  unfold refreshDue
  rw [if_neg (by simp [hr, hp, ht])]

theorem refresh_due (ch : Fin 640) (s : State) (hc : tabWf {} s.dev.chans = true) (_ : tabWf {} s.dev.arbs = true)
    (hr : s.dev.power.railsUp = true) (hp : s.dev.power.state ≠ .park) :
    let units : Nat := refi s.dev (ch.val / 32)
    (timerDue s.dev (tmRefreshOf ch.val) units = false → exec (.refreshDue ch) s = .next s) ∧
    (timerDue s.dev (tmRefreshOf ch.val) units = true →
    ∃ t, exec (.refreshDue ch) s = .next t ∧
      getChan t.dev ch.val = { getChan s.dev ch.val with owed := Nat.min ((getChan s.dev ch.val).owed + 1) 8 } ∧
      (∀ k, k ≠ ch.val → getChan t.dev k = getChan s.dev k ∧ getArb t.dev k = getArb s.dev k) ∧
      t.mem = s.mem ∧ t.dev.descs = s.dev.descs) := by
  refine ⟨fun ht => runDev_unchanged (f := refreshDue ch.val) (refreshDue_idle (.inr (.inr ht))), fun ht => ⟨_, rfl, ?_⟩⟩
  dsimp only
  rw [refreshDue_owes hr hp ht]
  refine ⟨?_, fun k hk => ⟨?_, ?_⟩, rfl, by simp⟩
  · rw [getChan_askRefresh, getChan_promoteRefresh]
    exact getChan_setChan_same _ _ _ hc
  · rw [getChan_askRefresh, getChan_promoteRefresh]
    exact getChan_setChan_other _ _ _ _ hk
  · rw [getArb_askRefresh_other _ hk, getArb_promoteRefresh_other _ hk]
    rfl

/-! ### REFRESH_DONE -/

/-- A refresh that has run its 120 units gives its channel to the transfer it revoked (R246, R270). -/
theorem refreshDone_ends {c : Nat} {v : Dev} {at_ : W64} (h : (getChan v c).since = some at_) (ht : 120 ≤ since v at_) :
    refreshDone c v = askRefresh c
      (setArb c { getArb v c with
          emergency := none, current := (getArb v c).replay.head?, replay := (getArb v c).replay.tail }
        (setChan c { owed := (getChan v c).owed - 1, since := none } v)) := by
  unfold refreshDone
  simp only [h, if_neg (Nat.not_lt.mpr ht)]
  cases ha : getArb v c with
  | mk _ _ _ _ _ _ _ _ replay _ => cases replay <;> rfl

theorem refresh_done (ch : Fin 640) (at_ : W64) (s : State) (hc : tabWf {} s.dev.chans = true) (ha : tabWf {} s.dev.arbs = true)
    (hr : s.dev.power.railsUp = true) (hs : (getChan s.dev ch.val).since = some at_) (ht : 120 ≤ (s.dev.pace.time - at_).toNat) :
    ∃ t, exec (.refreshDone ch) s = .next t ∧
      getChan t.dev ch.val = { owed := (getChan s.dev ch.val).owed - 1, since := none } ∧
      (getArb t.dev ch.val).emergency = none ∧ (getArb t.dev ch.val).current = (getArb s.dev ch.val).replay.head? ∧
      (getArb t.dev ch.val).replay = (getArb s.dev ch.val).replay.tail ∧
      (2 ≤ (getChan s.dev ch.val).owed → (getChan s.dev ch.val).owed ≤ 8 → (getArb s.dev ch.val).raised = [] →
        (getArb s.dev ch.val).decided = none → (getArb s.dev ch.val).backoff = [] →
        (getArb t.dev ch.val).raised = [⟨⟨.refresh, 0⟩, .other, 1⟩]) ∧
      (∀ k, k ≠ ch.val → getChan t.dev k = getChan s.dev k ∧ getArb t.dev k = getArb s.dev k) ∧
      t.mem = s.mem ∧ t.dev.descs = s.dev.descs := by
  refine ⟨_, rfl, ?_⟩
  dsimp only
  rw [powered_on _ hr, refreshDone_ends hs ht]
  generalize hu : setChan ch.val { owed := (getChan s.dev ch.val).owed - 1, since := none } s.dev = u
  have huc : getChan u ch.val = { owed := (getChan s.dev ch.val).owed - 1, since := none } := hu ▸ getChan_setChan_same _ _ _ hc
  have hua : tabWf {} u.arbs = true := hu ▸ ha
  generalize hb : ({ getArb s.dev ch.val with
    emergency := none, current := (getArb s.dev ch.val).replay.head?, replay := (getArb s.dev ch.val).replay.tail } : ArbInst) = b
  have hwf : tabWf {} (setArb ch.val b u).arbs = true := tabPut_wf _ _ _ _ hua
  have hat : getArb (setArb ch.val b u) ch.val = b := getArb_setArb_same _ _ _ hua
  obtain ⟨l, hl⟩ := getArb_askRefresh ch.val hwf
  rw [hat] at hl
  refine ⟨(getChan_askRefresh _ _ _).trans huc, ?_, ?_, ?_, fun h2 h8 hr hd hk => ?_, fun k hk => ⟨?_, ?_⟩, rfl, ?_⟩
  · rw [hl, ← hb]
  · rw [hl, ← hb]
  · rw [hl, ← hb]
  · have hcu : getChan (setArb ch.val b u) ch.val = _ := huc
    refine getArb_askRefresh_asks hwf ch.isLt ?_ ?_ ?_ ?_ ?_ ?_
    · rw [hcu]; dsimp only; omega
    · rw [hcu]; dsimp only; omega
    · rw [hcu]
    · rw [hat, ← hb]; exact hr
    · rw [hat, ← hb]; exact hd
    · rw [hat, ← hb]; exact hk
  · rw [getChan_askRefresh, ← hu]
    exact getChan_setChan_other _ _ _ _ hk
  · rw [getArb_askRefresh_other _ hk, getArb_setArb_other _ _ _ _ hk, ← hu]
    rfl
  · rw [descs_askRefresh, ← hu]
    rfl

/-! ### In park (R479) -/

theorem patrolScrub_park {v : Dev} (a : Nat) (r : ReadResult) (h : v.power.state = .park) : patrolScrub a r v = v := by
  unfold patrolScrub
  rw [if_pos (by simp [h])]

theorem arbDecide_park {v : Dev} (i : Nat) (raised : List ArbRequest) (withdrawn : List Requester) (h : v.power.state = .park) :
    arbDecide i raised withdrawn v = v := by
  unfold arbDecide
  exact if_pos (by simp [h])

theorem emergencyRevoke_park {v : Dev} (i moved : Nat) (h : v.power.state = .park) : emergencyRevoke i .refresh moved v = v := by
  unfold emergencyRevoke
  exact if_pos (by simp [emergencyMay, h])

theorem park_rests (s : State) (h : s.dev.power.state = .park) :
    (∀ ch, exec (.refreshDue ch) s = .next s) ∧ (∀ a r, exec (.patrolScrub a r) s = .next s) ∧
    (∀ i l m, exec (.arbDecision i l m) s = .next s) ∧ (∀ i n, exec (.emergencyRevoke i ⟨.refresh, n⟩) s = .next s) :=
  ⟨fun ch => runDev_unchanged (f := refreshDue ch.val) (refreshDue_idle (.inr (.inl h))),
    fun a r => runDev_unchanged (f := powered (patrolScrub a r)) (powered_unchanged (patrolScrub_park a r h)),
    fun i l m => runDev_unchanged (f := powered (arbDecide i.val l m)) (powered_unchanged (arbDecide_park i.val l m h)),
    fun i n => runDev_unchanged (f := powered (emergencyRevoke i.val .refresh n))
      (powered_unchanged (emergencyRevoke_park i.val n h))⟩

/-! ### What a read finds (R253 to R256) -/

theorem mem_setAdd (i x : Nat) : ∀ l : List Nat, x ∈ setAdd l i ↔ x = i ∨ x ∈ l
  | [] => by simp [setAdd]
  | k :: t => by
    have ih := mem_setAdd i x t
    unfold setAdd
    split
    · simp
    · split
      · next h => simp [h]
      · simp only [List.mem_cons, ih]
        exact or_left_comm

/-- The device once a read has found the word or granule of an address uncorrectable. -/
def withUe (a : Nat) (v : Dev) : Dev := { v with ue := setAdd v.ue (granuleBase a) }

theorem isUe_withUe (a : Nat) (v : Dev) : isUe (withUe a v) a = true :=
  List.contains_iff_mem.mpr ((mem_setAdd _ _ _).mpr (.inl rfl))

theorem withUe_kept (a : Nat) (v : Dev) : Kept v (withUe a v) where
  power := rfl
  ue _ h _ := (mem_setAdd _ _ _).mpr (.inr h)
  held _ h := h
  descs _ x h := ⟨x, h, .refl x⟩

theorem readFound_corrected {a : Nat} {v : Dev} (h : isUe v a = false) : readFound a .corrected v = (countCorrected a v, true) := by
  unfold readFound
  simp [h]

theorem readFound_uncorrectable (a : Nat) (v : Dev) : readFound a .uncorrectable v = (withUe a v, false) := rfl

/-! ### Scrubs (R255) -/

/-- A word of DRAM whose scrub is due is read. -/
theorem patrolScrub_reads {a : Nat} {v : Dev} (r : ReadResult) (ha : a < 0x7800000000) (hi : v.arm.memoryInit = true)
    (hp : v.power.state ≠ .park) (hd : scrubDue v a = true) :
    patrolScrub a r v =
      let found := readFound a r { v with scrubbed := tabPut none v.scrubbed (granuleBase a) (some (now v)) }
      if found.2 then found.1 else meetUe 0 a found.1 := by
  unfold patrolScrub
  rw [if_neg (by simp [ha, hi, hp, hd])]

theorem countCorrected_dram {a : Nat} (v : Dev) (h : a < 0x7800000000) : countCorrected a v = ctrAdd (0x200 + a / 256 % 20) 0 1 v :=
  if_pos (h.trans (by decide))

theorem granuleBase_dram {a : Nat} (h : a < 0x7800000000) : granuleBase a = a - a % 32 := by
  unfold granuleBase granule
  rw [if_pos (h.trans (by decide))]

section
variable (a : Nat) (s : State) (ha : a < 0x7800000000) (hr : s.dev.power.railsUp = true) (hi : s.dev.arm.memoryInit = true)
  (hp : s.dev.power.state ≠ .park) (hd : scrubDue s.dev a = true)
include ha hr hi hp hd

theorem scrub_corrected (hu : isUe s.dev a = false) : ∃ t, exec (.patrolScrub a .corrected) s = .next t ∧
    t = { s with dev := ctrAdd (0x200 + a / 256 % 20) 0 1 { s.dev with scrubbed := t.dev.scrubbed } } := by
  refine ⟨_, rfl, ?_⟩
  have hf : readFound a .corrected { s.dev with scrubbed := tabPut none s.dev.scrubbed (granuleBase a) (some (now s.dev)) } = _ :=
    readFound_corrected hu
  rw [powered_on _ hr, patrolScrub_reads .corrected ha hi hp hd, hf, if_pos rfl, countCorrected_dram _ ha]
  rfl

theorem scrub_uncorrectable : ∃ t, exec (.patrolScrub a .uncorrectable) s = .next t ∧ isUe t.dev a = true ∧
    t.mem = s.mem ∧ t.host = s.host ∧ (∀ u, u ∈ s.dev.ue → u < 0x8000000000 → u ∈ t.dev.ue) ∧
    (attnHeld s.dev.attn < 64 → ∃ e ∈ t.dev.attn.held, e.code = 0x0004 ∧ e.payload = leBytes 8 (a - a % 32) ++ [0]) := by
  refine ⟨_, rfl, ?_⟩
  dsimp only
  rw [powered_on _ hr, patrolScrub_reads .uncorrectable ha hi hp hd, readFound_uncorrectable, if_neg (by simp)]
  have hm := meetUe_kept 0 a (withUe a { s.dev with scrubbed := tabPut none s.dev.scrubbed (granuleBase a) (some (now s.dev)) })
  refine ⟨hm.toStands.isUe ?_ (isUe_withUe a _), rfl, rfl, fun u hu hb => ?_, fun h => ?_⟩
  · exact (granuleBase_le a).trans_lt (ha.trans (by decide))
  · exact hm.ue u ((withUe_kept a _).ue u hu (hb.trans (by decide))) (hb.trans (by decide))
  · rw [← granuleBase_dram ha]
    exact meetUe_event 0 (ha.trans (by decide)) h

end

/-! ### Parts that meet an uncorrectable word or granule (R256, R310, R505) -/

theorem livePart_some {v : Dev} {d p : Nat} {x : Desc} {q : Part} (h : livePart v d p = some (x, q)) :
    getDesc v d = some x ∧ x.parts[p]? = some q := by
  unfold livePart at h
  split at h
  · cases h
  · next y hy =>
    split at h
    · next r hr =>
      split at h
      · cases h
        exact ⟨hy, hr⟩
      · cases h
    · cases h

theorem populated_lt {a : Nat} (h : populated a = true) : a < scratchBase := by
  unfold populated at h
  rw [Bool.or_eq_true, Bool.and_eq_true, decide_eq_true_eq, decide_eq_true_eq] at h
  unfold scratchBase
  omega

theorem ueFault_memory {a : Nat} (v : Dev) (h : a < scratchBase) : ueFault v a = BitVec.ofNat 64 (granuleBase a) :=
  if_neg (Nat.not_le.mpr h)

theorem keepFree_kept (e : Nat) (x : Desc) (q : EngPart) (v : Dev) : Kept v (keepFree e x q v) := by
  unfold keepFree
  dsimp only
  repeat' split
  all_goals exact .of_same rfl rfl rfl rfl

/-- A part fails on its engine as any other ends, once it has left the engine. -/
theorem failEng_ends (e d p : Nat) (st : Byte) (a : W64) (f : Flags) (v : Dev) :
    ∃ u g, Kept v u ∧ failEng e d p st a f v = endPart d p st a g u := by
  refine ⟨_, _, Kept.trans ?_ (dropEngineParts_kept _ _), rfl⟩
  split
  · exact keepFree_kept ..
  · exact .refl v

/-- A part of the engines, the vector units, FOLD, NORM, APPLY, ROOT or SOLVE that fails ends once its destinations are free. -/
theorem partFail_ends {x : Desc} (q : Part) (p : Nat) (st : Byte) (a : W64) (w : Work) (hc : x.cls ≤ 5) (hk : isKernel x = false) :
    ∃ u f, Kept w.dev u ∧ (partFail x q p st a w).dev = endPart x.id p st a f u := by
  have hd : Kept w.dev (freeDest { w with dest := destsOf x q p w }).dev := freeDest_kept { w with dest := destsOf x q p w }
  unfold partFail
  split
  · obtain ⟨u, f, hu, he⟩ := failEng_ends q.unit x.id p st a {} (freeDest { w with dest := destsOf x q p w }).dev
    exact ⟨u, f, hd.trans hu, he⟩
  · rw [if_neg (by simp [hk]), if_neg (by omega), if_neg (by simp; omega)]
    exact ⟨_, {}, hd, rfl⟩

/-- What is left of a part that met an uncorrectable word or granule of memory. -/
theorem partFail_ue {v : Dev} {w : Work} (s : State) {d p a : Nat} {x : Desc} {q : Part} (hl : livePart w.dev d p = some (x, q))
    (hc : x.cls ≤ 5) (hk : isKernel x = false) (ha : populated a = true) (hu : isUe w.dev a = true) :
    let t := commit s (partFail x q p stMemoryUe (ueFault v a) (onDev (meetUe x.ctx a) w))
    isUe t.dev a = true ∧ ∃ x' q', getDesc t.dev d = some x' ∧ x'.bytes = x.bytes ∧
      x'.parts[p]? = some q' ∧ q'.state = .ended ∧ q'.status = stMemoryUe ∧ q'.faultAddr = BitVec.ofNat 64 (granuleBase a) ∧
      (attnHeld w.dev.attn < 64 → ∃ e ∈ t.dev.attn.held, e.code = 0x0004 ∧ e.payload = leBytes 8 (granuleBase a) ++ [0]) := by
  intro t
  have hlt := populated_lt ha
  obtain ⟨hx, hq⟩ := livePart_some hl
  have hid := getDesc_id hx
  obtain ⟨u, f, hku, he⟩ := partFail_ends q p stMemoryUe (ueFault v a) (onDev (meetUe x.ctx a) w) hc hk
  have hm : Kept w.dev (meetUe x.ctx a w.dev) := meetUe_kept ..
  have hend : Stands (meetUe x.ctx a w.dev) t.dev := by
    refine hku.toStands.trans (Stands.trans ?_ (breakReserved_kept _ _).toStands)
    rw [he]
    exact endPart_stands ..
  obtain ⟨y, hy, hxy⟩ := (hm.trans hku).descs d x hx
  obtain ⟨r, hr, -⟩ := hxy.parts p q hq
  obtain ⟨z, k, hz, hzb, hzp, h1, h2, h3⟩ := endPart_part (st := stMemoryUe) (a := ueFault v a) (f := f) hy hr
  have hbank : granuleBase a < bankBase := (granuleBase_le a).trans_lt (hlt.trans (by decide))
  refine ⟨(hm.toStands.trans hend).isUe hbank hu, z, k, ?_, hzb.trans hxy.bytes, hzp, h1, h2, h3.trans (ueFault_memory v hlt),
    fun h => ?_⟩
  · refine (getDesc_breakReserved _ _ d).trans ?_
    rw [he, hid]
    exact hz
  · obtain ⟨e, hem, hev⟩ := meetUe_event x.ctx hlt h
    exact ⟨e, hend.held e hem, hev⟩

section
variable {d p a : Nat} {x : Desc} {q : Part}

theorem wordMet_memory (v : Dev) (x : Desc) (q : Part) (p : Nat) (ha : populated a = true) : wordMet v x q p (.mem a) = some a := by
  simp [wordMet, ha]

section
variable {w : Work} (hl : livePart w.dev d p = some (x, q)) (ha : populated a = true)
include hl ha

theorem memoryUe_corrected (hu : isUe w.dev a = false) :
    memoryUe d p (.mem a) .corrected w = { w with dev := countCorrected a w.dev } := by
  unfold memoryUe
  simp only [hl, wordMet_memory w.dev x q p ha, readFound_corrected hu, if_true]

theorem memoryUe_uncorrectable : memoryUe d p (.mem a) .uncorrectable w =
    partFail x q p stMemoryUe (ueFault (withUe a w.dev) a) (onDev (meetUe x.ctx a) (onDev (withUe a) w)) := by
  unfold memoryUe
  simp only [hl, wordMet_memory w.dev x q p ha, readFound_uncorrectable]
  rfl

theorem partialWriteUe_fails (hu : isUe w.dev a = true) :
    partialWriteUe d p (.mem a) w = partFail x q p stMemoryUe (ueFault w.dev a) (onDev (meetUe x.ctx a) w) := by
  unfold partialWriteUe
  simp only [hl, wordMet_memory w.dev x q p ha, hu, if_true]

end

variable (s : State) (hl : livePart s.dev d p = some (x, q)) (ha : populated a = true)
include hl ha

theorem exec_memoryUe_corrected (hu : isUe s.dev a = false) :
    exec (.memoryUe d p ⟨.mem a, .corrected⟩) s = .next { s with dev := countCorrected a s.dev } :=
  (runWork_eq (memoryUe_corrected (w := workOf s) hl ha hu)).trans (congrArg _ (commit_workOf s _))

theorem exec_memoryUe_uncorrectable : exec (.memoryUe d p ⟨.mem a, .uncorrectable⟩) s = .next (commit s
    (partFail x q p stMemoryUe (ueFault (withUe a s.dev) a) (onDev (meetUe x.ctx a) (onDev (withUe a) (workOf s))))) :=
  runWork_eq (memoryUe_uncorrectable (w := workOf s) hl ha)

theorem exec_partialWriteUe (hu : isUe s.dev a = true) : exec (.partialWriteUe d p (.mem a)) s = .next (commit s
    (partFail x q p stMemoryUe (ueFault s.dev a) (onDev (meetUe x.ctx a) (workOf s)))) :=
  runWork_eq (partialWriteUe_fails (w := workOf s) hl ha hu)

end

/-- Settles O31: refresh and scrubs by the inversions of their events, and a part's failure by what a failure keeps. -/
theorem refreshAndMemoryErrors : Obligations.RefreshAndMemoryErrors := by
  refine ⟨refresh_due, park_rests, refresh_done,
    fun a s ha hr hi hp hd => ⟨scrub_corrected a s ha hr hi hp hd, scrub_uncorrectable a s ha hr hi hp hd⟩, fun _ _ => rfl,
    fun d p a x q s hl hc hk ha => ⟨exec_memoryUe_corrected s hl ha, ?_, fun hu => ?_⟩⟩
  · have hw := isUe_withUe a s.dev
    obtain ⟨hu, y, r, h⟩ := partFail_ue (v := withUe a s.dev) (w := onDev (withUe a) (workOf s)) s hl hc hk ha hw
    exact ⟨_, y, r, exec_memoryUe_uncorrectable s hl ha, hu, h⟩
  · obtain ⟨hu', y, r, h⟩ := partFail_ue (v := s.dev) (w := workOf s) s hl hc hk ha hu
    exact ⟨_, y, r, exec_partialWriteUe s hl ha hu, hu', h⟩

end Sys2Proof.Machine
end

section
/-! Power-up, input faults and PERST_L (R39, R40, R293, R294, R321, R437, R477, R479, R483, R487). -/

namespace Sys2Proof.Machine

open Sys2Proof

theorem runDev_eq {f : Dev → Dev} {s : State} {v : Dev} (h : f s.dev = v) : runDev f s = .next { s with dev := v } := by
  rw [runDev_next, h]

/-! ### Memories that lose their contents (R477, R479) -/

theorem join_onDie (l : MemLoss) : l.join .onDie = if l = .all then .all else .onDie := by
  cases l <;> rfl

theorem memLost_join_onDie (l : MemLoss) (a : Nat) : memLost (l.join .onDie) a = (memLost l a || decide (cstoreBase ≤ a)) := by
  cases l with
  | none => rfl
  | onDie => exact (Bool.or_self _).symm
  | all => rfl

/-- Reading a table from which the entries at some keys were taken. -/
theorem tabGet_filter_keys {α : Type} (d : α) (p : Nat → Bool) (i : Nat) : ∀ t : Tab α,
    tabGet d (t.filter (fun c => p c.1)) i = if p i then tabGet d t i else d
  | [] => (ite_self d).symm
  | (k, v) :: t => by
    have ih := tabGet_filter_keys d p i t
    rw [List.filter_cons]
    by_cases hik : i = k
    · subst hik
      cases hp : p i <;> simp [hp, ih, tabGet_cons]
    · cases hp : p k <;> simp [ih, tabGet_cons, hik]

theorem tabGet_wipeMem_onDie (m : List Host.Cell) (a : Nat) :
    tabGet memDefault (wipeMem .onDie m) a = if a < cstoreBase then tabGet memDefault m a else memDefault :=
  (tabGet_filter_keys memDefault (fun k => decide (k < cstoreBase)) a m).trans (by simp only [decide_eq_true_eq])

section
variable {v u : Dev} (hl : u.power.lost = v.power.lost.join .onDie)
include hl

/-- DRAM reads as before where the memories on the die alone lose their contents. -/
theorem devByte_dieLost_dram {m : List Host.Cell} {a : Nat} (hf : u.free = v.free) (ha : a < cstoreBase) :
    devByte u (wipeMem .onDie m) a = devByte v m a := by
  unfold devByte
  rw [hl, hf, memLost_join_onDie, tabGet_wipeMem_onDie, if_pos ha, decide_eq_false (Nat.not_le.mpr ha), Bool.or_false]

theorem devByte_dieLost_onDie {m : List Host.Cell} {a : Nat} (ha : cstoreBase ≤ a) :
    devByte u (wipeMem .onDie m) a = Config.lostByte u.free a := by
  unfold devByte
  rw [hl, memLost_join_onDie, tabGet_wipeMem_onDie, if_neg (Nat.not_lt.mpr ha), decide_eq_true ha, Bool.or_true]
  rfl

end

/-- Work that wipes a memory and stores nothing leaves the device and the wiped memory. -/
theorem commit_wiped (s : State) {w : Work} (h : w.stores = []) : commit s w = { s with dev := w.dev, mem := wipeMem w.wiped s.mem } := by
  unfold commit
  rw [h, breakReserved_nil]
  rfl

/-! ### POWER_UP and INPUT_RESTORED -/

/-- Settles O6: both commands apply power to a module that is off. -/
theorem powerUpBeginsStartUp : Obligations.PowerUpBeginsStartUp := by
  intro st refclk s hoff v
  have applied : applyPower st refclk s.dev = v := by
    simp only [v, ← join_onDie]
    rfl
  have hp : (if s.dev.power.state = .off then applyPower st refclk s.dev else s.dev) = v := (if_pos hoff).trans applied
  exact ⟨⟨_, rfl, hp, rfl, rfl, rfl⟩, ⟨_, rfl, hp, rfl, rfl, rfl⟩⟩

/-! ### INPUT_FAULT_TURN_OFF and PERST_L -/

/-- The device that an input fault leaves of one that was powered: the always-on rail, what the sensors last read, DRAM and flash. -/
def faulted (v : Dev) : Dev :=
  { power := { state := .off, perstLow := v.power.perstLow, vaon := v.power.vaon, lost := v.power.lost.join .onDie, hot := v.power.hot }
    pace := { tbSource := v.pace.tbSource }, out := v.out, free := v.free
    ue := v.ue.filter (fun a => decide (a < cstoreBase)), torn := v.torn }

theorem inputFault_powered {w : Work} (h : w.dev.power.state ≠ .off) :
    inputFault w = { w with wiped := .onDie, dev := faulted w.dev } := if_neg h

theorem exec_inputFault {s : State} (h : s.dev.power.state ≠ .off) :
    exec .inputFaultTurnOff s = .next { s with dev := faulted s.dev, mem := wipeMem .onDie s.mem } :=
  (runWork_eq (inputFault_powered (w := workOf s) h)).trans (congrArg _ (commit_wiped s rfl))

theorem perstAssert_high {v : Dev} (h : v.power.perstLow = false) :
    perstAssert v = resetDev { v.power with
      perstLow := true, rbHigh := false, setpoint := 620, busySince := none
      state := if v.power.state = .off then .off else if v.power.state = .tripped then .tripped else .start } v :=
  if_neg (by rw [h]; decide)

theorem perstRelease_powered {v : Dev} (hl : v.power.perstLow = true) (ho : v.power.state ≠ .off) :
    perstRelease v = { v with
      power := { v.power with perstLow := false, state := .start, railsUp := v.power.railsUp || !v.power.hot }
      mgmt := { v.mgmt with pinsDriven := false }
      attn := {}
      pace := { v.pace with time := 0, running := true } } :=
  (if_neg (by rw [hl]; decide)).trans (if_neg ho)

/-- Settles O7: the equations of the three commands, and what a byte reads as once the die has lost its supply. -/
theorem faultAndPerstClearTheDevice : Obligations.FaultAndPerstClearTheDevice := by
  refine ⟨fun s h => ⟨_, exec_inputFault h, ?_, fun a ha => ?_, fun a ha => ?_, rfl, rfl⟩,
    fun s h => ⟨_, rfl, ?_, rfl, rfl, rfl⟩, fun s hl ho => ?_⟩
  · simp only [← join_onDie]
    rfl
  · exact devByte_dieLost_dram rfl rfl (ha.trans (by decide))
  · exact devByte_dieLost_onDie rfl ha
  · refine (perstAssert_high h).trans ?_
    cases s.dev.power.state <;> rfl
  · exact runDev_eq (f := perstRelease) (perstRelease_powered hl ho)

end Sys2Proof.Machine
end

section
/-! The time base (R40, R42), the pace monitors (R32 to R34) and the governor (R35, R36, R38, R47). -/

namespace Sys2Proof.Machine

open Sys2Proof

/-! ### The time base's source (R40) -/

/-- The number of an event is taken also where the event is dropped (R321, R323). -/
theorem raise_seq (code ctx : Nat) (payload : List Byte) (v : Dev) : (raise code ctx payload v).attn.seq = v.attn.seq + 1 := by
  unfold raise ctrHigh trcCause
  dsimp only
  repeat' split
  all_goals rfl

section
variable {v : Dev} (ho : v.power.state ≠ .off) (hp : v.power.perstLow = false)

theorem refclockRestored_early (h : since v v.pace.tbSince < 1000000) : refclockRestored v = v := if_pos (by simp [h])

include ho hp

/-- The loss of the clock is an event of the device as the change of source leaves it. -/
theorem refclockLost_raises (hs : v.pace.tbSource = false) : ∃ u, refclockLost v = raise 0x0003 0 [1] u ∧
    u.pace = { v.pace with tbSource := true, tbSwitches := satAdd v.pace.tbSwitches 1, tbLost := true, tbSince := now v } ∧
    u.attn = v.attn ∧ u.ctxs = v.ctxs ∧ u.rings = v.rings ∧ u.descs = v.descs := by
  unfold refclockLost
  rw [if_neg (by simp [hs, ho]), if_neg (by simp [hp])]
  exact ⟨_, rfl, rfl, rfl, rfl, rfl, rfl⟩

theorem refclockRestored_switches (hs : v.pace.tbSource = true) (h : 1000000 ≤ since v v.pace.tbSince) :
    refclockRestored v = switchSource false v := if_neg (by simp [hs, ho, hp, h])

end

/-! ### Reads of PACE_TIME (R42, R281) -/

section
variable {who : TimeReader} {v : Dev} (ht : timeReader who v = true) (hl : v.blk.live = true)
include ht hl

theorem timeRead_low : timeRead who .low v = emit (.barData (v.pace.time &&& 0xFFFFFFFF)) (latchTime who v) := by
  simp [timeRead, blockLive, ht, hl]

theorem timeRead_high : timeRead who .high v = emit (.barData ((highWord who v).1.setWidth 64)) (highWord who v).2 := by
  simp [timeRead, blockLive, ht, hl]

theorem timeRead_whole : timeRead who .whole v = emit (.barData v.pace.time) v := by
  simp [timeRead, blockLive, ht, hl]

end

theorem timeRead_dead {who : TimeReader} {v : Dev} (part : TimePart) (ht : timeReader who v = true)
    (hl : blockLive v 0x1040 = false) : timeRead who part v = emit (.barData 0) v := by
  unfold timeRead
  rw [if_neg (by simp [ht]), if_pos (by simp [hl])]

theorem highHalf_eq (x : W64) : (x >>> 32).setWidth 32 = BitVec.ofNat 32 (x.toNat / 2 ^ 32) := by
  apply BitVec.eq_of_toNat_eq
  simp [Nat.shiftRight_eq_div_pow]

theorem lowHalf_eq (x : W64) : x &&& 0xFFFFFFFF = BitVec.ofNat 64 (x.toNat % 2 ^ 32) := by
  rw [and_lowMask]
  apply BitVec.eq_of_toNat_eq
  simp

/-- The high word latched for a reader is its only one, and no other reader's changes. -/
theorem mem_latched (who : TimeReader) (x : W32) (l : List (TimeReader × W32)) (c : TimeReader × W32) :
    c ∈ l.filter (fun c => c.1 ≠ who) ++ [(who, x)] ↔ c ∈ l ∧ c.1 ≠ who ∨ c = (who, x) := by
  simp

theorem highWord_latched {who : TimeReader} {v : Dev} {x : W32} (h : v.pace.shadows.find? (fun c => c.1 = who) = some (who, x)) :
    highWord who v = (x, { v with pace := { v.pace with shadows := v.pace.shadows.filter (fun c => c.1 ≠ who) } }) := by
  unfold highWord
  rw [h]

theorem highWord_live {who : TimeReader} {v : Dev} (h : ∀ c ∈ v.pace.shadows, c.1 ≠ who) :
    highWord who v = ((v.pace.time >>> 32).setWidth 32, v) := by
  unfold highWord
  rw [List.find?_eq_none.mpr fun c hc => by simpa using h c hc]

/-- Settles O25: the equations of a change of source, and of a read of each part of the time. -/
theorem clockSwitchesAndReads : Obligations.ClockSwitchesAndReads := by
  refine ⟨fun s ho hp hs => ?_, fun s ho hp hs => ⟨fun h => ?_, fun h => ?_⟩, fun s hb hl => ?_, fun part s hb hl => ?_⟩
  · obtain ⟨u, h, hpace, hattn, hctxs, hrings, hdescs⟩ := refclockLost_raises ho hp hs
    have hf := raise_only 0x0003 0 [1] u
    refine ⟨_, runDev_eq (f := refclockLost) h, (congrArg Dev.pace hf).trans hpace, hattn ▸ raise_seq .., fun hroom => ?_,
      (congrArg Dev.ctxs hf).trans hctxs, (congrArg Dev.rings hf).trans hrings, (congrArg Dev.descs hf).trans hdescs, rfl, rfl⟩
    rw [← hattn] at hroom ⊢
    have htime : now u = s.dev.pace.time := by rw [now, hpace]
    rw [raise_attn _ _ _ _ hroom, htime]
    rfl
  · exact runDev_unchanged (f := refclockRestored) (refclockRestored_early h)
  · exact ⟨_, runDev_eq (f := refclockRestored) (refclockRestored_switches ho hp hs h), rfl, rfl, rfl, rfl, rfl, rfl, rfl⟩
  · intro read said old high
    have hr : timeReader .host s.dev = true := hb
    have reads {part : TimePart} {x : W64} {l : List (TimeReader × W32)}
        (h : timeRead .host part s.dev = (said x l).dev) : read part = .next (said x l) :=
      runDev_eq (f := timeRead .host part) h
    refine ⟨⟨old.filter (fun c => c.1 ≠ .host) ++ [(.host, high)], reads ?_, ?_⟩, fun x hx => reads ?_, fun h => reads ?_,
      reads (timeRead_whole hr hl)⟩
    · rw [timeRead_low hr hl, lowHalf_eq, latchTime, highHalf_eq]
      rfl
    · refine ⟨(mem_latched ..).mpr (.inr rfl), fun c hc hw => ?_,
        fun c hw => ⟨fun hc => ?_, fun hc => (mem_latched ..).mpr (.inl ⟨hc, hw⟩)⟩⟩
      · rcases (mem_latched ..).mp hc with ⟨-, hn⟩ | rfl
        · exact absurd hw hn
        · rfl
      · rcases (mem_latched ..).mp hc with ⟨hc, -⟩ | rfl
        · exact hc
        · exact absurd rfl hw
    · rw [timeRead_high hr hl, highWord_latched hx]
      rfl
    · rw [timeRead_high hr hl, highWord_live h, highHalf_eq]
      rfl
  · exact runDev_eq (f := timeRead .host part) (timeRead_dead part hb hl)

/-! ### The pace monitors (R32 to R34) -/

theorem minPace_toNat (a b c d : W16) :
    (minPace a b c d).toNat = Nat.min (Nat.min a.toNat b.toNat) (Nat.min c.toNat d.toNat) := by
  have least (x y : W16) : (if x.toNat ≤ y.toNat then x else y).toNat = Nat.min x.toNat y.toNat :=
    apply_ite BitVec.toNat _ _ _
  exact (least _ _).trans (congrArg₂ Nat.min (least a b) (least c d))

section
variable {a b c d : W16} {v : Dev}

theorem paceWindow_reports (ha : v.power.state = .active) (hd : timerDue v tmMonitor 10000 = true)
    (hf : windowFits a b c d v = true) : ∃ settled timers changed, paceWindow a b c d v = { v with
      timers := timers, fab := { v.fab with changed := changed }
      pace := { v.pace with
        fields := [a, b, c, d], measured := minPace a b c d, settled := settled
        windowsSince := if v.power.setpoint = vcoreNow v then v.pace.windowsSince + 1 else 0 } } := by
  unfold paceWindow
  rw [if_neg (by simp [ha, hd, hf])]
  simp only [decide_eq_true_eq]
  exact ⟨_, _, _, rfl⟩

theorem paceWindow_unchanged (h : timerDue v tmMonitor 10000 = false ∨ windowFits a b c d v = false) : paceWindow a b c d v = v :=
  if_pos (by rcases h with h | h <;> simp [h])

end

theorem paceCalibrate_due {v : Dev} (ha : v.power.state = .active) (hd : timerDue v tmCalibrate 1000000 = true) :
    paceCalibrate v = timerMark tmCalibrate { v with pace := { v.pace with calibrations := v.pace.calibrations + 1 } } :=
  if_neg (by simp [ha, hd])

/-- Settles O26: a window reports the four paces and the least of them, and a calibration is counted. -/
theorem paceIsTheSlowestField : Obligations.PaceIsTheSlowestField := by
  refine ⟨fun a b c d s ha hd hf => ?_, fun a b c d s hd => ?_, fun s ha hd => ?_⟩
  · obtain ⟨settled, timers, changed, h⟩ := paceWindow_reports ha hd hf
    exact ⟨_, runDev_eq (f := paceWindow a b c d) h, rfl, minPace_toNat a b c d, rfl⟩
  · exact runDev_unchanged (f := paceWindow a b c d) (paceWindow_unchanged (.inl hd))
  · exact ⟨_, runDev_eq (f := paceCalibrate) (paceCalibrate_due ha hd), rfl⟩

/-! ### The governor (R35 to R38, R47) -/

theorem moveToward_bounds {lo hi : Nat} (aim : Nat) (h : lo ≤ hi) : lo ≤ moveToward lo hi aim ∧ moveToward lo hi aim ≤ hi := by
  rw [moveToward, clampNat_eq_max_min _ h]
  exact ⟨Nat.le_max_left .., Nat.max_le.mpr ⟨h, Nat.min_le_left ..⟩⟩

section
variable {p : Pace} {sp vc : Nat} {hot : Int} {power aim : Nat}

theorem governorRule_overCap (h : p.cap.toNat < power) : governorRule p sp vc hot power aim = (Nat.max 500 (sp - 5), 1) := if_pos h

theorem governorRule_tooHot (h : power ≤ p.cap.toNat) (ht : (16 * p.tjLimit.toNat : Int) < hot) :
    governorRule p sp vc hot power aim = (Nat.max 500 (sp - 5), 2) :=
  (if_neg (Nat.not_lt.mpr h)).trans (if_pos (by rwa [mul_comm]))

/-- What a decision may come to: a setpoint within the range, and a LIMIT of 3 or 4 only with VCORE at the range's end. -/
structure RuleHolds (sp vc : Nat) (r : Nat × Nat) : Prop where
  low : 500 ≤ r.1
  high : r.1 ≤ 800
  limit : r.2 ≤ 4
  ceiling : r.2 = 3 → sp = 800 ∧ vc = 800
  floor : r.2 = 4 → sp = 500 ∧ vc = 500

theorem RuleHolds.fall (l : Nat) (h : sp ≤ 800) (hl : l ≤ 2) : RuleHolds sp vc (Nat.max 500 (sp - 5), l) :=
  ⟨Nat.le_max_left .., Nat.max_le.mpr ⟨by decide, by omega⟩, by omega, by omega, by omega⟩

theorem RuleHolds.move {lo hi : Nat} (aim : Nat) (h5 : 500 ≤ lo) (h : lo ≤ hi) (h8 : hi ≤ 800) :
    RuleHolds sp vc (moveToward lo hi aim, 0) := by
  obtain ⟨hl, hh⟩ := moveToward_bounds aim h
  exact ⟨h5.trans hl, hh.trans h8, Nat.zero_le _, by simp, by simp⟩

section
variable (h5 : 500 ≤ sp) (h8 : sp ≤ 800)
include h5 h8

theorem RuleHolds.stay (l : Nat) (hl : l ≤ 2) : RuleHolds sp vc (sp, l) := ⟨h5, h8, by omega, by omega, by omega⟩

theorem governorRule_holds (hv5 : 500 ≤ p.vcoreSet.toNat) (hv8 : p.vcoreSet.toNat ≤ 800) :
    RuleHolds sp vc (governorRule p sp vc hot power aim) := by
  unfold governorRule
  extract_lets cap tj noPower noHeat wantUp wantDown
  have up (hm : p.mode = 1) (h : wantUp = true) : sp ≤ p.vcoreSet.toNat := by
    simp only [wantUp, hm, if_true, decide_eq_true_eq] at h
    exact h.le
  have down (hm : p.mode = 1) (h : wantDown = true) : p.vcoreSet.toNat ≤ sp := by
    simp only [wantDown, hm, if_true, decide_eq_true_eq] at h
    exact h.le
  split_ifs with hcap htj hup hp hh hm hs hc hdown hm hs hc
  · exact .fall 1 h8 (by decide)
  · exact .fall 2 h8 (by decide)
  · exact .stay h5 h8 1 (by decide)
  · exact .stay h5 h8 2 (by decide)
  · exact .move aim h5 (up hm hup) hv8
  · exact ⟨by decide, by decide, by decide, fun _ => ⟨hs, hc.1⟩, by simp⟩
  · exact hs ▸ .stay h5 h8 0 (by decide)
  · exact .move aim h5 h8 le_rfl
  · exact .move aim hv5 (down hm hdown) h8
  · exact ⟨by decide, by decide, by decide, by simp, fun _ => ⟨hs, hc.1⟩⟩
  · exact hs ▸ .stay h5 h8 0 (by decide)
  · exact .move aim le_rfl h5 h8
  · exact .stay h5 h8 0 (by decide)

end

end

/-- A decision writes the setpoint and LIMIT that its rule comes to, the power it read and the cap it used; of what it was set
nothing changes, and a LIMIT that it reports anew may raise an event besides. -/
theorem governorDecision_due {v : Dev} {power : BitVec 13} {aim sp lim : Nat} (ha : v.power.state = .active)
    (hd : timerDue v tmGovernor 10000 = true)
    (hr : governorRule v.pace v.power.setpoint (vcoreNow v) (temp v.sns.hotTemp) power.toNat aim = (sp, lim)) :
    let u := governorDecision power aim v
    u.power.setpoint = sp ∧ u.pace.limit = BitVec.ofNat 3 lim ∧ u.pace.inputPower = power ∧ u.pace.capRead = v.pace.cap ∧
      u.pace.target = v.pace.target ∧ u.pace.cap = v.pace.cap ∧ u.pace.mode = v.pace.mode ∧ u.pace.time = v.pace.time ∧
      u.ctxs = v.ctxs ∧ u.rings = v.rings ∧ u.descs = v.descs := by
  intro u
  unfold u governorDecision
  rw [if_neg (by simp [ha, hd])]
  simp only [hr]
  split
  · rw [raise_only]
    exact ⟨rfl, rfl, rfl, rfl, rfl, rfl, rfl, rfl, rfl, rfl, rfl⟩
  · exact ⟨rfl, rfl, rfl, rfl, rfl, rfl, rfl, rfl, rfl, rfl, rfl⟩

theorem limit_code {l k : Nat} (hl : l ≤ 4) (hk : k ≤ 4) (h : BitVec.ofNat 3 l = BitVec.ofNat 3 k) : l = k := by
  have := congrArg BitVec.toNat h
  simp only [BitVec.toNat_ofNat] at this
  omega

theorem issueGating_gates {power : BitVec 13} {v : Dev} (ha : v.power.state = .active) (hp : v.pace.capRead.toNat < power.toNat)
    (hg : v.pace.gating = false) :
    issueGating power v = ctrAdd 0x3FF 1 1 { v with pace := { v.pace with gating := true, capGated := true } } :=
  if_neg (by simp [ha, hp, hg])

/-- Settles O27: a decision writes what its rule comes to, and the rule keeps the range and says what LIMIT means. -/
theorem governorKeepsTheCap : Obligations.GovernorKeepsTheCap := by
  refine ⟨fun power aim s ha hd h5 h8 hv5 hv8 => ⟨_, rfl, ?_⟩, fun power s ha hp hg => ?_, fun a b c d s hf => ?_⟩
  · have hr : RuleHolds s.dev.power.setpoint (vcoreNow s.dev)
      (governorRule s.dev.pace s.dev.power.setpoint (vcoreNow s.dev) (temp s.dev.sns.hotTemp) power.toNat aim) :=
      governorRule_holds h5 h8 hv5 hv8
    cases hrule : governorRule s.dev.pace s.dev.power.setpoint (vcoreNow s.dev) (temp s.dev.sns.hotTemp) power.toNat aim with
    | mk sp lim =>
      rw [hrule] at hr
      obtain ⟨hsp, hlim, hin, hread, htarget, hcap, hmode, htime, hctxs, hrings, hdescs⟩ := governorDecision_due ha hd hrule
      have ruled {r : Nat × Nat} (h : governorRule s.dev.pace s.dev.power.setpoint (vcoreNow s.dev) (temp s.dev.sns.hotTemp)
          power.toNat aim = r) : sp = r.1 ∧ lim = r.2 := Prod.mk.inj (hrule.symm.trans h)
      refine ⟨hin, hsp ▸ hr.low, hsp ▸ hr.high, fun h => ?_, fun h ht => ?_, fun h => ?_, fun h => ?_, hread, htarget, hcap, hmode,
        htime, hctxs, hrings, hdescs, rfl, rfl⟩
      · obtain ⟨rfl, rfl⟩ := ruled (governorRule_overCap h)
        exact ⟨hsp, hlim⟩
      · obtain ⟨rfl, rfl⟩ := ruled (governorRule_tooHot h ht)
        exact ⟨hsp, hlim⟩
      · exact hr.ceiling (limit_code hr.limit (by decide) (hlim.symm.trans h))
      · exact hr.floor (limit_code hr.limit (by decide) (hlim.symm.trans h))
  · exact runDev_eq (f := issueGating power) (issueGating_gates ha hp hg)
  · exact runDev_unchanged (f := paceWindow a b c d) (paceWindow_unchanged (.inr hf))

end Sys2Proof.Machine
end

section
/-! The start of a kernel on its clusters (R131, R240), and a kernel that starts on one of two although each has room. -/

namespace Sys2Proof.Machine

open Sys2Proof

theorem runDev_dev {f : Dev → Dev} {s t : State} (h : runDev f s = .next t) : t.dev = f s.dev := by
  cases h
  rfl

/-! ### The start on one cluster -/

section
variable {d c : Nat} {v : Dev} {x : Desc} (hx : getDesc v d = some x)
include hx

theorem kernelStart_notReady (hr : kernelReady v x c = false) : kernelStart d c v = v := by
  unfold kernelStart
  simp only [hx, hr, Bool.not_false, if_true]

section
variable (hr : kernelReady v x c = true) (hf : isFenced v c = false)
include hr hf

theorem kernelStart_lacks {k : Nat × Nat} (hl : stabLacks v x (clusterParts x c) = some k) :
    kernelStart d c v = stabWait k.1 (.part d k.2) v := by
  unfold kernelStart
  simp only [hx, hr, hf, hl, Bool.not_true, Bool.false_eq_true, if_false]

theorem kernelStart_starts (hl : stabLacks v x (clusterParts x c) = none) :
    kernelStart d c v = (clusterParts x c).foldl
      (fun v p => startPart d p (setChisel (partChisel x p) (chiselStart x p (partChisel x p)) (scratchSweep (partChisel x p) v)))
      (modDesc d (fun x => { x with startedAt := x.startedAt.or (some (now v)) }) v) := by
  unfold kernelStart
  simp only [hx, hr, hf, hl, Bool.not_true, Bool.false_eq_true, if_false]

end

/-- A part that starts takes a free entry of its core's stream table (R240). -/
theorem startPart_takes {p n : Nat} (hc : stabCore x p = some c) (hn : v.stab.any (fun e => e.d = d && e.p = p) = false)
    (hfree : stabFree v c = some n) :
    (startPart d p v).stab = v.stab ++ [⟨c, n, d, p⟩] ∧ (startPart d p v).fenced = v.fenced ∧
      getDesc (startPart d p v) d = some { x with parts := x.parts.modify p (fun q => { q with state := .running }) } := by
  have traced (u : Dev) : ∃ trc, tracePart 0x02 x p [] u = { u with trc := trc } := by
    unfold tracePart
    split
    · exact ⟨_, rfl⟩
    · exact ⟨_, rfl⟩
  have held : ∃ w k, stabHold c d p v = { v with stab := v.stab ++ [⟨c, n, d, p⟩], stabWaits := w, ctr := k } := by
    unfold stabHold
    rw [if_neg (by rw [hn]; decide)]
    simp only [hfree]
    exact ⟨_, _, rfl⟩
  obtain ⟨w, k, hheld⟩ := held
  unfold startPart
  simp only [hx, hc, hheld]
  obtain ⟨trc, ht⟩ := traced (modPart d p (fun q => { q with state := .running })
    { v with stab := v.stab ++ [⟨c, n, d, p⟩], stabWaits := w, ctr := k })
  rw [ht]
  refine ⟨rfl, rfl, (getDesc_modPart d d p _ _).trans ?_⟩
  rw [if_pos rfl]
  exact congrArg (Option.map _) hx

end

theorem stabLacks_single {v : Dev} {x : Desc} {p c : Nat} (hc : stabCore x p = some c) :
    stabLacks v x [p] = if stabRoom < (stabHeld v c).length + 1 then some (c, p) else none := by
  by_cases h : stabRoom < (stabHeld v c).length + 1 <;> simp [stabLacks, hc, h]

/-- A table with room whose place 0 is free has a free place. -/
theorem stabFree_of_unused {v : Dev} {c : Nat} (hr : (stabHeld v c).length < stabRoom)
    (h0 : (stabHeld v c).all (fun e => e.slot ≠ 0) = true) : ∃ n, stabFree v c = some n := by
  have found : ((upto ((stabHeld v c).length + 1)).find? (fun n => (stabHeld v c).all (fun e => e.slot ≠ n))).isSome :=
    List.find?_isSome.mpr ⟨0, List.mem_range.mpr (Nat.succ_pos _), h0⟩
  exact (Option.isSome_iff_exists.mp found).imp fun n hn => (if_pos hr).trans hn

/-! ### A kernel whose parts share one stream table -/

/-- A kernel on clusters 0 and 1 that a chisel core of cluster 0 launched, so that both parts hold their entries in core 0's
store: its first part is as given. -/
def launchedKernel (st : PartState) (at_ : Option W64) : Desc :=
  { id := 0, ring := 0, sub := some (0, 0), ctx := 1, bytes := (List.replicate 176 0).set 40 1 ++ [0xF0], cls := 1
    parts := [{ state := st }, { unit := 1 }], startedAt := at_ }

/-- It is ready on both clusters, and core 0's stream table has one free entry. -/
def nearlyFull : Dev :=
  { ctxs := [(1, { state := 1 })], descs := [launchedKernel .queued none], stab := List.replicate 32767 ⟨0, 1, 7, 0⟩ }

theorem nearlyFull_held : stabHeld nearlyFull 0 = List.replicate 32767 ⟨0, 1, 7, 0⟩ := by
  unfold stabHeld nearlyFull
  exact List.filter_replicate_of_pos rfl

theorem nearlyFull_free : ∃ n, stabFree nearlyFull 0 = some n := by
  refine stabFree_of_unused ?_ ?_
  · rw [nearlyFull_held, List.length_replicate]
    decide
  · rw [nearlyFull_held, List.all_replicate]
    decide

/-- The kernel has started on cluster 0 alone, and core 0's stream table is full. -/
structure StartedOnFirst (v : Dev) : Prop where
  desc : getDesc v 0 = some (launchedKernel .running (some 0))
  full : (stabHeld v 0).length = stabRoom
  fenced : v.fenced = 0

theorem kernelStart_first : StartedOnFirst (kernelStart 0 0 nearlyFull) := by
  have hl : stabLacks nearlyFull (launchedKernel .queued none) (clusterParts (launchedKernel .queued none) 0) = none := by
    rw [show clusterParts (launchedKernel .queued none) 0 = [0] by decide, stabLacks_single (c := 0) rfl,
      nearlyFull_held, List.length_replicate]
    rfl
  obtain ⟨n, hn⟩ := nearlyFull_free
  rw [kernelStart_starts rfl (by decide +kernel) (by decide) hl, show clusterParts (launchedKernel .queued none) 0 = [0] by decide,
    List.foldl_cons, List.foldl_nil]
  generalize hu : setChisel _ _ _ = u
  obtain ⟨hstab, hfenced, hdesc⟩ := startPart_takes (d := 0) (p := 0) (c := 0) (v := u) (n := n) (x := launchedKernel .queued (some 0))
    (by subst hu; rfl) rfl (by subst hu; exact List.any_replicate ..) (by subst hu; exact hn)
  refine ⟨hdesc, ?_, hfenced.trans (by subst hu; rfl)⟩
  have hs : u.stab = nearlyFull.stab := by subst hu; rfl
  have ha := congrArg List.length nearlyFull_held
  unfold stabHeld at ha ⊢
  rw [hstab, hs, List.filter_append, List.length_append, ha, List.length_replicate]
  rfl

/-- Once it has started on the first, the kernel waits for a turn on the second cluster only. -/
theorem kernelReady_started {v : Dev} {c : Nat} (hc : c < 32) (h : kernelReady v (launchedKernel .running (some 0)) c = true) :
    clusterParts (launchedKernel .running (some 0)) c = [1] := by
  have queued : ∀ c < 32, clusterParts (launchedKernel .running (some 0)) c = [1] ∨
      ((!(clusterParts (launchedKernel .running (some 0)) c).isEmpty) && (clusterParts (launchedKernel .running (some 0)) c).all
        (fun p => ((launchedKernel .running (some 0)).parts.getD p {}).state = .queued)) = false := by decide
  refine (queued c hc).resolve_right fun hn => ?_
  simp only [kernelReady, Bool.and_eq_true] at h
  obtain ⟨⟨⟨⟨⟨-, hne⟩, hq⟩, -⟩, -⟩, -⟩ := h
  rw [hne, hq] at hn
  exact absurd hn (by decide)

theorem kernelStart_later {v : Dev} {c : Nat} (h : StartedOnFirst v) (hc : c < 32) : StartedOnFirst (kernelStart 0 c v) := by
  obtain ⟨hx, hfull, hfenced⟩ := h
  cases hr : kernelReady v (launchedKernel .running (some 0)) c with
  | false =>
    rw [kernelStart_notReady hx hr]
    exact ⟨hx, hfull, hfenced⟩
  | true =>
    have hf : isFenced v c = false := by simp [isFenced, hfenced]
    have hl : stabLacks v (launchedKernel .running (some 0)) (clusterParts (launchedKernel .running (some 0)) c) = some (0, 1) := by
      rw [kernelReady_started hc hr, stabLacks_single (c := 0) rfl, hfull]
      exact if_pos (Nat.lt_succ_self _)
    rw [kernelStart_lacks hx hr hf hl]
    unfold stabWait
    split
    · exact ⟨hx, hfull, hfenced⟩
    · exact ⟨hx, hfull, hfenced⟩

theorem kernelAll_nearlyFull : StartedOnFirst (kernelAll 0 nearlyFull) := by
  have clusters : upto 32 = 0 :: (upto 32).tail := by decide
  unfold kernelAll
  rw [clusters, List.foldl_cons]
  refine List.foldlRecOn (motive := StartedOnFirst) _ _ kernelStart_first fun v h c hc => ?_
  exact kernelStart_later h (List.mem_range.mp (List.mem_of_mem_tail hc))

/-- Refutes O49: nothing there asks that a ring issued the kernel. One that a chisel core launched holds the entries of all its parts
in that core's store, so one free entry is room for its part on either cluster but not for both; its part on cluster 1 waits. -/
theorem not_kernelsStartAndStop : ¬ Obligations.KernelsStartAndStop := by
  rintro ⟨hstart, -⟩
  have ready : ∀ c < 32, clusterParts (launchedKernel .queued none) c ≠ [] →
      kernelReady nearlyFull (launchedKernel .queued none) c = true ∧ isFenced nearlyFull c = false ∧
      ∃ p < 2, clusterParts (launchedKernel .queued none) c = [p] ∧ stabCore (launchedKernel .queued none) p = some 0 := by
    decide +kernel
  have apart : ∀ p < 2, ∀ k < 2, partChisel (launchedKernel .queued none) p = partChisel (launchedKernel .queued none) k → p = k := by
    decide +kernel
  obtain ⟨-, hall⟩ := hstart 0 (launchedKernel .queued none) { dev := nearlyFull } rfl rfl fun p k h hp hk => apart p hp k hk h
  obtain ⟨t, ht, hstarted, -⟩ := hall fun c hc hne => by
    obtain ⟨hr, hf, p, -, hp, hcore⟩ := ready c hc hne
    refine ⟨hr, hf, ?_⟩
    rw [hp, stabLacks_single hcore, nearlyFull_held, List.length_replicate]
    rfl
  have hd : StartedOnFirst t.dev := by
    rw [runDev_dev (f := kernelAll 0) ht]
    exact kernelAll_nearlyFull
  obtain ⟨-, -, y, q, hy, hq, hrun⟩ := hstarted 1 (by decide) 1 (by decide)
  obtain rfl : launchedKernel .running (some 0) = y := Option.some.inj (hd.desc.symm.trans hy)
  obtain rfl : ({ unit := 1 } : Part) = q := Option.some.inj hq
  exact absurd hrun (by decide)

end Sys2Proof.Machine
end

section
/-! Formats read back exactly (R50 to R52, R60, R69): a code that is no NaN names a value on the format's own grid, so that its
conversion discards nothing in any rounding mode. -/

namespace Sys2Proof.Machine

open Sys2Proof

theorem roundAt_ownGrid (rd : Rnd) (m : Nat) (e : Int) : roundAt rd m e e = m := by
  simp [roundAt, shl]

/-! ### Magnitude codes of a floating-point format -/

/-- What the readback needs of a format: a hidden bit, and past the greatest finite code either NaNs or no magnitude code at all. -/
def Flt.Covers (f : Flt) : Prop := 1 ≤ f.p ∧ (f.hasNan = true ∨ f.signBit ≤ f.maxCode + 1)

theorem formats_cover : ∀ f ∈ [fFP32, fBF16, fFP16, fE4M3, fE5M2, fE3M2, fE2M3, fE2M1], f.Covers := by
  unfold Flt.Covers
  decide

section
variable (f : Flt) (c : Nat)

theorem Flt.magOf_subnormal (h : c < 2 ^ (f.p - 1)) : f.magOf c = (c, f.emin - (f.p - 1 : Nat)) := by
  simp [Flt.magOf, Nat.div_eq_of_lt h, Nat.mod_eq_of_lt h]

theorem Flt.magOf_normal (h : 2 ^ (f.p - 1) ≤ c) : f.magOf c =
    (c % 2 ^ (f.p - 1) + 2 ^ (f.p - 1), ((c / 2 ^ (f.p - 1) : Nat) : Int) - f.bias - (f.p - 1 : Nat)) := by
  have he : c / 2 ^ (f.p - 1) ≠ 0 := (Nat.div_pos h (Nat.two_pow_pos _)).ne'
  simp only [Flt.magOf, if_neg he]

/-- Only the code 0 has the magnitude 0 (R50, R52: a subnormal is no zero). -/
theorem Flt.magOf_fst_eq_zero_iff : (f.magOf c).1 = 0 ↔ c = 0 := by
  have hp := Nat.two_pow_pos (f.p - 1)
  rcases Nat.lt_or_ge c (2 ^ (f.p - 1)) with h | h
  · rw [f.magOf_subnormal c h]
  · rw [f.magOf_normal c h]
    exact iff_of_false (Nat.add_pos_right _ hp).ne' (hp.trans_le h).ne'

/-- A code's magnitude stands on the grid of its own binade. -/
theorem Flt.grid_magOf (h0 : (f.magOf c).1 ≠ 0) : f.grid (f.magOf c).1 (f.magOf c).2 = (f.magOf c).2 := by
  rcases Nat.lt_or_ge c (2 ^ (f.p - 1)) with h | h
  · rw [f.magOf_subnormal c h] at h0 ⊢
    have hlog : Nat.log2 c < f.p - 1 := (Nat.log2_lt h0).mpr h
    simp only [Flt.grid, ilog]
    omega
  · have hm := Nat.mod_lt c (Nat.two_pow_pos (f.p - 1))
    have he : 0 < c / 2 ^ (f.p - 1) := Nat.div_pos h (Nat.two_pow_pos _)
    rw [f.magOf_normal c h]
    have hlog : Nat.log2 (c % 2 ^ (f.p - 1) + 2 ^ (f.p - 1)) = f.p - 1 := by
      rw [Nat.log2_eq_iff (by omega), Nat.pow_succ]
      omega
    simp only [Flt.grid, ilog, hlog, Flt.emin]
    omega

theorem Flt.pack_magOf (hp : 1 ≤ f.p) : f.pack (f.magOf c).1 (f.magOf c).2 = c := by
  have hpow := Nat.two_pow_pred_mul_two hp
  rcases Nat.lt_or_ge c (2 ^ (f.p - 1)) with h | h
  · rw [f.magOf_subnormal c h]
    have hlt : ¬ 2 ^ f.p ≤ c := by omega
    simp only [Flt.pack, if_neg hlt, if_pos h]
  · rw [f.magOf_normal c h]
    have hm := Nat.mod_lt c (Nat.two_pow_pos (f.p - 1))
    have hlt : ¬ 2 ^ f.p ≤ c % 2 ^ (f.p - 1) + 2 ^ (f.p - 1) := by omega
    have hge : ¬ c % 2 ^ (f.p - 1) + 2 ^ (f.p - 1) < 2 ^ (f.p - 1) := by omega
    have hexp : ((c / 2 ^ (f.p - 1) : Nat) : Int) - f.bias - (f.p - 1 : Nat) + (f.p - 1 : Nat) + f.bias = (c / 2 ^ (f.p - 1) : Nat) := by
      omega
    simp only [Flt.pack, if_neg hlt, if_neg hge, hexp, Int.toNat_natCast, Nat.add_sub_cancel]
    exact Nat.div_add_mod' c _

/-- A finite magnitude code, read and converted, is itself under its sign. -/
theorem Flt.convert_magOf (hp : 1 ≤ f.p) (hc : c ≤ f.maxCode) (rd : Rnd) (ieee n : Bool) :
    f.convert rd ieee (.num n (f.magOf c).1 (f.magOf c).2) = (f.signed n c, fNone) := by
  by_cases h0 : (f.magOf c).1 = 0
  · obtain rfl := (f.magOf_fst_eq_zero_iff c).mp h0
    simp only [Flt.convert, if_pos h0]
  · simp only [Flt.convert, f.grid_magOf c h0, roundAt_ownGrid, if_neg h0, f.pack_magOf c hp, if_pos hc]

/-- The sign bit and the magnitude code make up the code (R50). -/
theorem Flt.signed_mod_signBit (hp : 1 ≤ f.p) (hc : c < 2 ^ f.bits) :
    f.signed (decide (f.signBit ≤ c % 2 ^ f.bits)) (c % f.signBit) = c := by
  have hbits : f.signBit * 2 = 2 ^ f.bits := Nat.two_pow_pred_mul_two (Nat.le_add_right_of_le hp)
  rw [Nat.mod_eq_of_lt hc]
  rcases Nat.lt_or_ge c f.signBit with h | h
  · simp [Flt.signed, Nat.mod_eq_of_lt h, Nat.not_le.mpr h]
  · have hmod : c % f.signBit = c - f.signBit := by
      rw [Nat.mod_eq_sub_mod h, Nat.mod_eq_of_lt (by omega)]
    simp [Flt.signed, hmod, h]

/-- What a code that is no NaN reads as: the format's infinity, or a finite magnitude code (R50, R51). -/
theorem Flt.decode_notNan (hf : f.Covers) (hnan : (f.decode c).isNan = false) :
    (f.hasInf = true ∧ c % f.signBit = f.maxCode + 1 ∧ f.decode c = .inf (decide (f.signBit ≤ c % 2 ^ f.bits))) ∨
    (c % f.signBit ≤ f.maxCode ∧ f.decode c =
      .num (decide (f.signBit ≤ c % 2 ^ f.bits)) (f.magOf (c % f.signBit)).1 (f.magOf (c % f.signBit)).2) := by
  revert hnan
  simp only [Flt.decode]
  split
  next hinf =>
    intro _
    rw [Bool.and_eq_true, decide_eq_true_iff] at hinf
    exact .inl ⟨hinf.left, hinf.right, rfl⟩
  next =>
    split
    next => exact fun hnan => nomatch hnan
    next hfin =>
      refine fun _ => .inr ⟨?_, rfl⟩
      have hlt : c % f.signBit < f.signBit := Nat.mod_lt c (Nat.two_pow_pos _)
      rcases hf.right with hn | hs
      · simpa [hn] using hfin
      · omega

theorem Flt.convert_decode (hf : f.Covers) (hc : c < 2 ^ f.bits) (rd : Rnd) (ieee : Bool) (hnan : (f.decode c).isNan = false) :
    f.convert rd ieee (f.decode c) = (c, fNone) := by
  have hcode := f.signed_mod_signBit c hf.left hc
  rcases f.decode_notNan c hf hnan with ⟨hinf, hm, hd⟩ | ⟨hmax, hd⟩
  · simp only [hd, Flt.convert, if_pos hinf, ← hm, hcode]
  · rw [hd, f.convert_magOf _ hf.left hmax, hcode]

end

/-! ### Two's complement codes -/

/-- A magnitude on the format's grid and within its range converts to its code (R60). -/
theorem fixConvert_inRange (w frac m : Nat) (rd : Rnd) (n : Bool) (h0 : m ≠ 0) (hm : m ≤ if n then 2 ^ (w - 1) else 2 ^ (w - 1) - 1) :
    fixConvert w frac rd (.num n m (-(frac : Int))) = (if n then 2 ^ w - m else m, fNone) := by
  simp only [fixConvert, roundAt_ownGrid, if_neg h0, if_neg (Nat.not_lt.mpr hm)]

theorem fixConvert_fixDecode (w frac c : Nat) (rd : Rnd) (hw : 1 ≤ w) (hc : c < 2 ^ w) :
    fixConvert w frac rd (fixDecode w frac c) = (c, fNone) := by
  have hpow := Nat.two_pow_pred_mul_two hw
  simp only [fixDecode, Nat.mod_eq_of_lt hc]
  split
  next hneg =>
    rw [fixConvert_inRange w frac _ rd true (by omega) (by simp only [if_true]; omega), if_pos rfl, Nat.sub_sub_self hc.le]
  next hpos =>
    rcases Nat.eq_zero_or_pos c with rfl | h0
    · rfl
    · exact fixConvert_inRange w frac c rd false h0.ne' (Nat.le_sub_one_of_lt (Nat.not_le.mp hpos))

/-- Settles O36: a code's magnitude is on the grid that the conversion rounds to, and within the format's range. -/
theorem formatsReadBackExactly : Obligations.FormatsReadBackExactly :=
  ⟨fun f hf c hc rd ieee hnan => f.convert_decode c (formats_cover f hf) hc rd ieee hnan, fixConvert_fixDecode⟩

end Sys2Proof.Machine
end

section
/-! Engines, their queues and their banks: what each named change of one leaves of it and of the others (R86 to R88, R108 to
R111). -/

namespace Sys2Proof.Machine

open Sys2Proof

/-! ### The two banks of an engine -/

theorem getBank_setBank_same (b : Nat) (k : Bank) (g : Engine) : getBank (setBank b k g) b = k := by
  unfold getBank setBank
  split <;> rfl

theorem getBank_setBank_other {b : Nat} (k : Bank) (g : Engine) (h : b < 2) : getBank (setBank b k g) (1 - b) = getBank g (1 - b) := by
  obtain rfl | rfl : b = 0 ∨ b = 1 := by omega
  · rfl
  · rfl

@[simp] theorem setBank_queue (b : Nat) (k : Bank) (g : Engine) : (setBank b k g).queue = g.queue := by
  unfold setBank
  split <;> rfl

@[simp] theorem setBank_current (b : Nat) (k : Bank) (g : Engine) : (setBank b k g).current = g.current := by
  unfold setBank
  split <;> rfl

@[simp] theorem setBank_active (b : Nat) (k : Bank) (g : Engine) : (setBank b k g).active = g.active := by
  unfold setBank
  split <;> rfl

@[simp] theorem setBank_shadow (b : Nat) (k : Bank) (g : Engine) : (setBank b k g).shadow = g.shadow := by
  unfold setBank
  split <;> rfl

@[simp] theorem setBank_closes (b : Nat) (k : Bank) (g : Engine) : (setBank b k g).closes = g.closes := by
  unfold setBank
  split <;> rfl

theorem getBank_releaseIf (test : Bank → Bool) (g : Engine) (b : Nat) :
    getBank (releaseIf test g) b = if test (getBank g b) then { order := (getBank g b).order } else getBank g b := by
  unfold getBank releaseIf
  split <;> rfl

theorem getBank_dropFilling (x : Nat) (g : Engine) (b : Nat) : getBank (dropFilling x g) b =
    if (getBank g b).phase = .filling && (getBank g b).ctx = x then { getBank g b with drop := true } else getBank g b := by
  unfold getBank dropFilling
  split <;> rfl

/-! ### One engine changed, and every engine changed -/

theorem getEngine_modEngine_same (e : Nat) (f : Engine → Engine) {v : Dev} (h : tabWf {} v.engines = true) :
    getEngine (modEngine e f v) e = f (getEngine v e) := getEngine_setEngine_same e _ v h

theorem getEngine_modEngine_other {e i : Nat} (f : Engine → Engine) (v : Dev) (h : i ≠ e) :
    getEngine (modEngine e f v) i = getEngine v i := getEngine_setEngine_other e i _ v h

/-- Every engine changed by a function that keeps an idle one. -/
theorem getEngine_tabMap {v : Dev} (f : Engine → Engine) (hf : f {} = {}) (h : tabWf {} v.engines = true) (e : Nat) :
    getEngine { v with engines := tabMap {} (fun _ => f) v.engines } e = f (getEngine v e) :=
  tabGet_tabMap ({} : Engine) (fun _ => f) (fun _ => hf) v.engines 0 e h

end Sys2Proof.Machine
end

section
/-! Contexts turned on and off, and their cached translations dropped (R88, R251, R299). -/

namespace Sys2Proof.Machine

open Sys2Proof

/-- A write with a row of its own that lands, and works on the device alone (R281). -/
theorem runWork_guarded_lands {s : State} {off : Nat} {ide : Bool} (f : Dev → Dev) (h : WriteLands s off ide) :
    runWork (guarded off ide (onDev f)) s = .next { s with dev := f s.dev } := by
  obtain ⟨hb, hl, hi⟩ := h
  exact (runWork_eq (guarded_open off ide _ (workOf s) hb hl hi)).trans (congrArg _ (commit_workOf s _))

/-! ### ENABLE in a written word -/

theorem getLsbD_orEnable (x : W64) (i : Nat) : (x ||| placeB 31 true).getLsbD i = (x.getLsbD i || decide (i = 31)) := by
  rw [BitVec.getLsbD_or]
  congr 1
  change (BitVec.twoPow 64 31).getLsbD i = _
  rw [BitVec.getLsbD_twoPow]
  rcases eq_or_ne i 31 with rfl | h
  · decide
  · simp [h, h.symm]

theorem bitAt_orEnable (x : W64) : bitAt 31 (x ||| placeB 31 true) = true :=
  (getLsbD_orEnable x 31).trans (Bool.or_true _)

/-- A field that ENABLE is not a bit of reads as the word has it. -/
theorem fld_orEnable {w lo : Nat} (x : W64) (h : lo + w ≤ 31 ∨ 31 < lo) : fld w lo (x ||| placeB 31 true) = (x >>> lo).setWidth w := by
  apply BitVec.eq_of_getLsbD_eq
  intro i hi
  have hne : lo + i ≠ 31 := by omega
  simp only [fld, BitVec.getLsbD_setWidth, BitVec.getLsbD_ushiftRight, getLsbD_orEnable, hne, decide_false, Bool.or_false]

/-! ### CTX_ENABLE -/

/-- The fields of RING_CTX_CFG that a word gives a context, which it enables (R299). -/
def enabledCtx (x : W64) (c : Ctx) : Ctx :=
  { c with
    pasid := x.setWidth 20
    cls := if ((x >>> 20).setWidth 3 : BitVec 3).toNat ≤ 2 then (x >>> 20).setWidth 3 else c.cls
    stepSlots := clampW 1 65535 ((x >>> 32).setWidth 16 : W16)
    stepSlots2 := clampW 1 65535 ((x >>> 48).setWidth 16 : W16), enable := true, state := 1 }

theorem ctxOn_runs {x : Nat} {v : Dev} (h : x = 0 ∨ v.pace.parkState = 0) :
    ctxOn x v = modCtx x (fun c => { c with enable := true, state := 1 }) (dropTlb x v) := by
  refine if_neg ?_
  rcases h with h | h <;> simp [h]

theorem ctxWrite_enables {x : Nat} (y : W64) {v : Dev} (hw : tabWf {} v.ctxs = true) (hd : (getCtx v x).enable = false)
    (hp : x = 0 ∨ v.pace.parkState = 0) : ∃ c, ctxWrite x 4 ⟨true, true, y ||| placeB 31 true⟩ v =
      setCtx x (enabledCtx y (getCtx v x)) { v with ctxs := tabPut {} v.ctxs x c, tlb := v.tlb.filter (fun e => e.ctx ≠ x) } := by
  simp only [ctxWrite, ctxCfgWrite, merge_wide, hd, bitAt_orEnable, if_true, Bool.and_self, Bool.false_eq_true, if_false]
  rw [ctxOn_runs (v := setCtx x _ v) hp, modCtx]
  rw [fld_orEnable y (.inl (by decide)), fld_orEnable y (.inl (by decide)), fld_orEnable y (.inr (by decide)),
    fld_orEnable y (.inr (by decide))]
  rw [show getCtx (dropTlb x (setCtx x _ v)) x = _ from getCtx_setCtx_same x _ v hw]
  exact ⟨_, rfl⟩

/-! ### CTX_DISABLE -/

theorem ctxWrite_disables {x : Nat} (y : W64) {v : Dev} (he : (getCtx v x).enable = true) :
    ctxWrite x 4 ⟨true, true, y &&& ~~~placeB 31 true⟩ v = ctxOff x v := by
  have h31 : bitAt 31 (y &&& ~~~placeB 31 true) = false := by
    rw [bitAt, BitVec.getLsbD_and, show (~~~placeB 31 true).getLsbD 31 = false by decide, Bool.and_false]
  simp [ctxWrite, ctxCfgWrite, merge_wide, he, h31]

theorem ctxOff_busy {x : Nat} {v : Dev} (h : ctxBusy v x = true) : ctxOff x v = v := if_pos h

theorem ctxOff_idle {x : Nat} {v : Dev} (h : ctxBusy v x = false) (hg : ∀ c ∈ v.groups, ¬(c.2.enable = true ∧ c.2.ctx.toNat = x)) :
    ctxOff x v = releaseCtxBanks x (modCtx x (fun c => { c with enable := false, state := 0 }) v) := by
  have none : v.groups.filter (fun c => c.2.enable && c.2.ctx.toNat = x) = [] :=
    List.filter_eq_nil_iff.mpr fun c hc => by simpa using hg c hc
  unfold ctxOff
  rw [if_neg (by simp [h]), none]
  rfl

/-- A context's held banks are released, and those its parts still fill marked (R88). -/
theorem getBank_releaseCtxBanks {x : Nat} {v : Dev} (hw : tabWf {} v.engines = true) (e b : Nat) :
    let k := getBank (getEngine v e) b
    getBank (getEngine (releaseCtxBanks x v) e) b = if k.phase = .held ∧ k.ctx = x then { order := k.order }
      else if k.phase = .filling ∧ k.ctx = x then { k with drop := true } else k := by
  have idle : dropFilling x (releaseIf (fun b => b.phase = .held && b.ctx = x) {}) = {} := rfl
  have each : getEngine (releaseCtxBanks x v) e = dropFilling x (releaseIf (fun b => b.phase = .held && b.ctx = x) (getEngine v e)) :=
    getEngine_tabMap (fun g => dropFilling x (releaseIf _ g)) idle hw e
  rw [each, getBank_dropFilling, getBank_releaseIf]
  generalize getBank (getEngine v e) b = k
  by_cases hh : k.phase = .held ∧ k.ctx = x
  · simp [hh]
  · simp [hh]

theorem mem_ue_bankSweep (v : Dev) {u : Nat} (h : u < bankBase) : u ∈ (bankSweep v).ue ↔ u ∈ v.ue := by
  simp [bankSweep, Nat.not_le.mpr h]

/-- Settles O38: the fields of the word that enables, the banks that ENABLE = 0 releases, and the cached translations dropped. -/
theorem contextsTurnOnAndOff : Obligations.ContextsTurnOnAndOff := by
  refine ⟨fun x w s hs hw hd hp => ?_, fun x w s hs hw hwe he => ⟨fun hb => ?_, fun hb hg => ?_⟩, fun x ide s hs hb => ?_,
    fun s hb => ?_⟩
  · obtain ⟨c, hc⟩ := ctxWrite_enables w.value hw hd hp
    refine ⟨_, runWork_guarded_lands _ hs, ?_⟩
    simp only [hc]
    exact ⟨getCtx_setCtx_same x.val _ _ (tabPut_wf _ _ _ _ hw),
      fun y hy => (getCtx_setCtx_other _ _ _ _ hy).trans (getCtx_setCtx_other x.val y c s.dev hy), rfl⟩
  · refine (runWork_guarded_lands _ hs).trans ?_
    rw [ctxWrite_disables _ he, ctxOff_busy hb]
  · refine ⟨_, runWork_guarded_lands _ hs, ?_⟩
    simp only [ctxWrite_disables w.value he, ctxOff_idle hb hg]
    exact ⟨getCtx_setCtx_same x.val _ _ hw, fun y hy => getCtx_setCtx_other _ _ _ _ hy,
      fun e b => getBank_releaseCtxBanks hwe e b, fun u hu => mem_ue_bankSweep _ hu, rfl⟩
  · refine (runWork_guarded_lands _ hs).trans ?_
    simp only [invalWrite, hb, bitAt_orEnable, fld_orEnable _ (.inl (show 0 + 6 ≤ 31 by decide)),
      Bool.not_true, Bool.or_self, Bool.false_eq_true, if_false]
    simp
  · refine runDev_eq ?_
    unfold invalDone
    rw [if_pos hb]
    rfl

end Sys2Proof.Machine
end

section
/-! The parts of engine descriptors enter their engines' queues (R86, R87, R93, R94, R167, R211). -/

namespace Sys2Proof.Machine

open Sys2Proof

/-- An engine with a part put last into its queue. -/
def withQueued (y : EngPart) (g : Engine) : Engine := { g with queue := g.queue ++ [y] }

theorem queueMarks_only (e ctx : Nat) (v : Dev) : queueMarks e ctx v = { v with ctr := (queueMarks e ctx v).ctr } := rfl

/-- A part that waits outside its engine's queue, and that nothing keeps from entering it as a product part (R87, R93, R94). -/
def MayEnter (v : Dev) (d : Nat) (x : Desc) (p : Nat) (q : Part) : Prop :=
  q.state = .queued ∧ findPart (getEngine v q.unit) d p = none ∧ isFenced v (q.unit / 4) = false ∧ blockCount x p ≠ 0 ∧
    queuedOf (getEngine v q.unit) false < 8 ∧ earlierOutside v x q.unit = false

theorem enqueueProduct_enters {v : Dev} {d p : Nat} {x : Desc} {q : Part} (hx : getDesc v d = some x) (hm : mayStart v x = true)
    (hq : x.parts[p]? = some q) (h : MayEnter v d x p q) :
    enqueueProduct d p v = queueMarks q.unit x.ctx (modEngine q.unit (withQueued { d := d, p := p }) v) := by
  obtain ⟨hs, hf, hn, hb, h8, he⟩ := h
  unfold enqueueProduct
  simp only [hx, hq]
  rw [if_neg (by simp [hs, hf, hm]), if_neg (by simp [hn]), if_neg hb, if_neg (by simp [h8, he])]
  rfl

/-- Whether a part may enter depends on its own engine's queue and on nothing else that an entry changes. -/
theorem MayEnter.of_engine {v u : Dev} {d p : Nat} {x : Desc} {q : Part} (h : MayEnter v d x p q)
    (hu : u = { v with engines := u.engines, ctr := u.ctr }) (hg : getEngine u q.unit = getEngine v q.unit) : MayEnter u d x p q := by
  have outside : earlierOutside u x q.unit = earlierOutside v x q.unit := by
    unfold earlierOutside
    rw [hg, hu]
  unfold MayEnter
  rw [hg, outside, show isFenced u = isFenced v by rw [hu]; rfl]
  exact h

/-- The device once the first `n` parts of a descriptor have entered their queues. -/
structure Entered (v : Dev) (d : Nat) (x : Desc) (n : Nat) (u : Dev) : Prop where
  only : u = { v with engines := u.engines, ctr := u.ctr }
  wf : tabWf {} u.engines = true
  last : ∀ p q, p < n → x.parts[p]? = some q → getEngine u q.unit = withQueued { d := d, p := p } (getEngine v q.unit)
  other : ∀ e, (∀ p q, p < n → x.parts[p]? = some q → q.unit ≠ e) → getEngine u e = getEngine v e

section
variable {v : Dev} {d : Nat} {x : Desc} (hx : getDesc v d = some x) (hm : mayStart v x = true)
  (apart : ∀ (p k : Nat) (q r : Part), x.parts[p]? = some q → x.parts[k]? = some r → q.unit = r.unit → p = k)
include hx hm apart

theorem Entered.next {n : Nat} {u : Dev} {q : Part} (h : Entered v d x n u) (hq : x.parts[n]? = some q) (hmay : MayEnter v d x n q) :
    Entered v d x (n + 1) (enqueueProduct d n u) := by
  obtain ⟨only, wf, last, other⟩ := h
  have hg : getEngine u q.unit = getEngine v q.unit :=
    other _ fun p r hp hr he => absurd (apart p n r q hr hq he) (Nat.ne_of_lt hp)
  have hxu : getDesc u d = some x := by rw [only]; exact hx
  have hmu : mayStart u x = true := by rw [only]; exact hm
  rw [enqueueProduct_enters hxu hmu hq (hmay.of_engine only hg)]
  generalize hw : modEngine q.unit (withQueued { d := d, p := n }) u = w
  have here : getEngine w q.unit = withQueued { d := d, p := n } (getEngine v q.unit) := by
    rw [← hw, getEngine_modEngine_same _ _ wf, hg]
  have there : ∀ e, q.unit ≠ e → getEngine w e = getEngine u e := fun e he => by
    rw [← hw, getEngine_modEngine_other _ _ he.symm]
  refine ⟨?_, ?_, fun p r hp hr => ?_, fun e he => ?_⟩
  · rw [queueMarks_only, ← hw, modEngine, setEngine, only]
  · rw [queueMarks_only, ← hw]
    exact tabPut_wf _ _ _ _ wf
  · change getEngine w r.unit = _
    rcases Nat.lt_succ_iff_lt_or_eq.mp hp with hp | rfl
    · rw [there r.unit fun h => absurd (apart p n r q hr hq h.symm) (Nat.ne_of_lt hp)]
      exact last p r hp hr
    · obtain rfl : q = r := Option.some.inj (hq.symm.trans hr)
      exact here
  · change getEngine w e = _
    rw [there e (he n q (Nat.lt_succ_self n) hq)]
    exact other e fun p r hp => he p r (Nat.lt_succ_of_lt hp)

theorem entered_all (hwf : tabWf {} v.engines = true) (hmay : ∀ p q, x.parts[p]? = some q → MayEnter v d x p q) :
    ∀ n ≤ x.parts.length, Entered v d x n ((upto n).foldl (fun v p => enqueueProduct d p v) v)
  | 0, _ => ⟨rfl, hwf, fun _ _ h => absurd h (Nat.not_lt_zero _), fun _ _ => rfl⟩
  | n + 1, hn => by
    have hq := List.getElem?_eq_getElem (l := x.parts) hn
    rw [upto, List.range_succ, List.foldl_append]
    exact (entered_all hwf hmay n (Nat.le_of_succ_le hn)).next hx hm apart hq (hmay n _ hq)

end

/-- The commands by which product parts enter, with the descriptors that each is for. -/
def queueCommands : List ((Nat → Instr) × (Desc → Bool)) :=
  [(.mmProduct, fun x => x.cls = 0 && (mmOf x.bytes).op = 0 && bankModeOf x = 0),
   (.mmBackwardPair, fun x => x.cls = 0 && (mmOf x.bytes).op = 1), (.mmKeep, fun x => x.cls = 0 && bankModeOf x = 1),
   (.statGather, fun x => x.cls = 3 && onEngine x)]

theorem exec_queueCommand {c : (Nat → Instr) × (Desc → Bool)} (h : c ∈ queueCommands) (d : Nat) (s : State) :
    exec (c.1 d) s = runDev (enqueueAll c.2 d) s := by
  revert c
  simp only [queueCommands, List.forall_mem_cons, List.not_mem_nil, false_implies, implies_true, and_true]
  exact ⟨rfl, rfl, rfl, rfl⟩

theorem enqueueAll_enters {test : Desc → Bool} {d : Nat} {v : Dev} {x : Desc} (hx : getDesc v d = some x) (ht : test x = true) :
    enqueueAll test d v = (upto x.parts.length).foldl (fun v p => enqueueProduct d p v) v := by
  unfold enqueueAll
  simp only [hx, ht, if_true]

/-! ### Drain-only parts -/

section
variable {v : Dev} {d : Nat} {x : Desc} {q : Part} (hx : getDesc v d = some x) (hq : x.parts[0]? = some q) (hc : x.cls = 0)
  (hb : (mmOf x.bytes).bankMode = 2) (hs : q.state = .queued) (hf : findPart (getEngine v q.unit) d 0 = none)
  (hm : mayStart v x = true) (hn : isFenced v (q.unit / 4) = false) (h0 : ¬((mmOf x.bytes).m = 0 ∨ (mmOf x.bytes).n = 0))
include hx hq hc hb hs hf hm hn h0

theorem enqueueDrain_enters (hp : (getBank (getEngine v q.unit) (mmOf x.bytes).bankSel).phase = .held)
    (hctx : (getBank (getEngine v q.unit) (mmOf x.bytes).bankSel).ctx = x.ctx) (h1 : queuedOf (getEngine v q.unit) true = 0) :
    enqueueDrain d v = queueMarks q.unit x.ctx (modEngine q.unit (withQueued { d := d, p := 0, drain := true }) v) := by
  unfold enqueueDrain
  simp only [hx, hq]
  rw [if_neg (by simp [hc, hb, hs, hf, hm]), if_neg (by simp [hn]), if_neg h0, if_neg (by simp [hp, hctx]), if_neg (by simp [h1])]
  rfl

theorem enqueueDrain_malformed
    (hp : ¬((getBank (getEngine v q.unit) (mmOf x.bytes).bankSel).phase = .held ∧
      (getBank (getEngine v q.unit) (mmOf x.bytes).bankSel).ctx = x.ctx))
    (hk : keepFilling v (getBank (getEngine v q.unit) (mmOf x.bytes).bankSel) x.ctx = false) :
    enqueueDrain d v = endPart d 0 stMalformed 0 fNone v := by
  unfold enqueueDrain
  simp only [hx, hq]
  rw [if_neg (by simp [hc, hb, hs, hf, hm]), if_neg (by simp [hn]), if_neg h0, if_pos (by simpa [hk] using not_and_or.mp hp)]

end

/-- Settles O47: product parts enter one after another, none changing what another needs to enter; a drain-only part by the bank that
it names. -/
theorem enginePartsEnterTheirQueues : Obligations.EnginePartsEnterTheirQueues := by
  refine ⟨fun c hc d x s hwf hx ht hm hmay apart => ?_, fun d x q s hwf hx hq hc hb hs hf hm hn hM hN => ⟨fun hp hctx h1 => ?_,
    fun hp hk => ?_⟩⟩
  · obtain ⟨only, -, last, other⟩ := entered_all hx hm apart hwf hmay x.parts.length le_rfl
    refine ⟨_, (exec_queueCommand hc d s).trans (runDev_eq (enqueueAll_enters hx ht)), fun p q hq => ?_, fun e he => ?_, ?_⟩
    · exact last p q (List.getElem?_eq_some_iff.mp hq).1 hq
    · exact other e fun p q _ hq => he q (List.mem_of_getElem? hq)
    · exact congrArg (fun v => { s with dev := v }) only
  · exact ⟨_, runDev_eq (enqueueDrain_enters hx hq hc hb hs hf hm hn (not_or.mpr ⟨hM, hN⟩) hp hctx h1), rfl⟩
  · refine ⟨_, runDev_eq (enqueueDrain_malformed hx hq hc hb hs hf hm hn (not_or.mpr ⟨hM, hN⟩) hp hk), ?_, rfl, rfl⟩
    exact partEnded_endPart 0 fNone s.dev (by decide)

end Sys2Proof.Machine
end

section
/-! What the stages of an engine's work leave, where they succeed: engines, rings, contexts and descriptors always, and the memories
too where they only read. -/

namespace Sys2Proof.Machine

open Sys2Proof

/-! ### Stages that leave a view of the work as it was -/

/-- A stage that, where it succeeds on some work, leaves what `f` sees of it. -/
def OkSameAt {α β : Type} (f : Work → β) (m : Acc α) (w : Work) : Prop := ∀ a u, m.run w = (.ok a, u) → f u = f w

/-- A stage that does so wherever it succeeds. -/
def OkSame {α β : Type} (f : Work → β) (m : Acc α) : Prop := ∀ w, OkSameAt f m w

section
variable {α β γ : Type} {f : Work → γ}

theorem okSame_pure (a : α) : OkSame f (pure a : Acc α) := by
  rintro w b u ⟨⟩
  rfl

theorem okSame_throw (e : Stop) : OkSame f (throw e : Acc α) := by
  rintro w b u ⟨⟩

theorem okSameAt_set {w u : Work} (h : f u = f w) : OkSameAt f (set u : Acc PUnit) w := by
  rintro b t ⟨⟩
  exact h

theorem okSame_modify {g : Work → Work} (h : ∀ w, f (g w) = f w) : OkSame f (modify g : Acc PUnit) := by
  rintro w b u ⟨⟩
  exact h w

theorem okSameAt_bind {m : Acc α} {g : α → Acc β} {w : Work} (hm : OkSameAt f m w) (hg : ∀ a, OkSame f (g a)) :
    OkSameAt f (m >>= g) w := by
  intro b t h
  rw [acc_bind] at h
  split at h
  · next a u e => exact (hg a u b t h).trans (hm a u e)
  · cases h

theorem okSame_bind {m : Acc α} {g : α → Acc β} (hm : OkSame f m) (hg : ∀ a, OkSame f (g a)) : OkSame f (m >>= g) :=
  fun w => okSameAt_bind (hm w) hg

theorem okSame_get_bind {g : Work → Acc α} (h : ∀ w, OkSameAt f (g w) w) : OkSame f (get >>= g) := by
  intro w b u hb
  rw [acc_bind_ok (acc_get w)] at hb
  exact h w b u hb

/-- A check that stops a stage before the rest of it. -/
theorem okSame_guard {c : Prop} {_ : Decidable c} {e : Stop} {g : PUnit → Acc α} (h : OkSame f (g ⟨⟩)) :
    OkSame f (if c then throw e >>= g else g ⟨⟩) := by
  split
  · rintro w b u ⟨⟩
  · exact h

theorem okSame_ite {c : Prop} {_ : Decidable c} {m n : Acc α} (hm : OkSame f m) (hn : OkSame f n) :
    OkSame f (if c then m else n) := by
  split
  · exact hm
  · exact hn

theorem okSame_mapM {g : α → Acc β} (hg : ∀ a, OkSame f (g a)) : ∀ l : List α, OkSame f (l.mapM g)
  | [] => by rw [List.mapM_nil]; exact okSame_pure _
  | a :: l => by
    rw [List.mapM_cons]
    exact okSame_bind (hg a) fun _ => okSame_bind (okSame_mapM hg l) fun _ => okSame_pure _

theorem okSame_forIn {g : α → β → Acc (ForInStep β)} (hg : ∀ a b, OkSame f (g a b)) : ∀ (l : List α) (b : β), OkSame f (forIn l b g)
  | [], b => by rw [List.forIn_nil]; exact okSame_pure b
  | a :: l, b => by
    rw [List.forIn_cons]
    refine okSame_bind (hg a b) fun r => ?_
    cases r with
    | done c => exact okSame_pure c
    | yield c => exact okSame_forIn hg l c

end

/-- The engines, rings, contexts and descriptors of a device. -/
def unitsOf (v : Dev) : Tab Engine × Tab Ring × Tab Ctx × List Desc := (v.engines, v.rings, v.ctxs, v.descs)

/-- A stage that leaves engines, rings, contexts and descriptors where it succeeds. -/
def KeepsUnits {α : Type} (m : Acc α) : Prop := OkSame (fun w => unitsOf w.dev) m

/-- A stage that besides stores nothing. -/
def Reads {α : Type} (m : Acc α) : Prop := OkSame (fun w => (w.stores, unitsOf w.dev)) m

theorem Reads.keepsUnits {α : Type} {m : Acc α} (h : Reads m) : KeepsUnits m :=
  fun w a u hu => congrArg Prod.snd (h w a u hu)

theorem reads_onDev {g : Dev → Dev} (h : ∀ v, unitsOf (g v) = unitsOf v) : Reads (modify (onDev g) : Acc PUnit) :=
  okSame_modify fun w => congrArg (Prod.mk w.stores) (h w.dev)

/-! ### Reads of memory -/

theorem snoopGate_reads (a : Nat) (write : Bool) : Reads (snoopGate a write) := by
  refine okSame_get_bind fun w => ?_
  split
  · exact okSame_pure _ w
  · split
    · exact okSame_throw _ w
    · exact okSameAt_set rfl

theorem failUe_reads {α : Type} (ctx a : Nat) : Reads (failUe ctx a : Acc α) := by
  rintro w b u ⟨⟩

theorem readPhys_reads (ctx a : Nat) : Reads (readPhys ctx a) :=
  okSame_bind (snoopGate_reads a false) fun _ => okSame_get_bind fun w => okSame_ite (failUe_reads ctx a) (okSame_pure _) w

theorem readPhys64_reads (ctx a : Nat) : Reads (readPhys64 ctx a) :=
  okSame_bind (okSame_mapM (fun i => readPhys_reads ctx (a + i)) (upto 8)) fun _ => okSame_pure _

theorem walkEntry_reads (r : Requestor) (va : W64) (lvl table : Nat) (wOk : Bool) : Reads (walkEntry r va lvl table wOk) := by
  unfold walkEntry
  refine okSame_guard (okSame_bind (readPhys64_reads _ _) fun e => okSame_guard ?_)
  exact okSame_ite (okSame_guard (okSame_pure _)) (okSame_pure _)

theorem walk_reads (r : Requestor) (va : W64) : ∀ (lvl table : Nat) (ok : Bool), Reads (walk r va lvl table ok)
  | 0, table, ok => by
    refine okSame_bind (walkEntry_reads r va 0 table ok) fun e => ?_
    split
    · exact okSame_pure _
    · exact okSame_throw _
  | l + 1, table, ok => by
    refine okSame_bind (walkEntry_reads r va (l + 1) table ok) fun e => ?_
    split
    · exact okSame_pure _
    · exact walk_reads r va l _ _

theorem atsTranslate_reads (r : Requestor) (va : W64) (ha : Nat) (write : Bool) : Reads (atsTranslate r va ha write) := by
  refine okSame_get_bind fun w => ?_
  split
  · exact okSame_throw _ w
  · split
    · exact okSameAt_bind (okSameAt_set rfl) fun _ => okSame_throw _
    · exact okSame_ite (okSame_throw _) (okSame_ite (okSame_throw _) (okSame_pure _)) w

theorem translate_reads (r : Requestor) (va : W64) (write : Bool) : Reads (translate r va write) := by
  unfold translate
  extract_lets va48 found looked
  refine okSame_guard ?_
  refine okSame_get_bind fun w => ?_
  extract_lets hit walked
  have hfound : ∀ pg, Reads (found pg) := fun pg =>
    okSame_guard (okSame_ite (okSame_ite (okSame_throw _) (atsTranslate_reads _ _ _ _))
      (okSame_ite (okSame_throw _) (okSame_ite (okSame_throw _) (okSame_pure _))))
  have hwalked : Reads (walked ()) := by
    refine okSame_bind (walk_reads _ _ _ _ _) fun pg => ?_
    split
    · exact okSame_bind (reads_onDev fun _ => rfl) fun _ => okSame_bind (okSame_pure _) hfound
    · exact okSame_bind (okSame_pure _) hfound
  clear_value hit
  cases hit with
  | some t => exact okSame_bind (okSame_pure _) hfound w
  | none =>
    cases r.core with
    | some c => exact okSame_bind (reads_onDev (g := ctrAdd (0x100 + c) 7 1) fun _ => rfl) (fun _ => hwalked) w
    | none => exact hwalked w

theorem countBytes_units (ctx : Nat) (t : Target) (v : Dev) : unitsOf (countBytes ctx t v) = unitsOf v := by
  unfold countBytes
  repeat' split
  all_goals rfl

theorem readRaw_reads (r : Requestor) (va : W64) : Reads (readRaw r va) := by
  refine okSame_bind (translate_reads r va false) fun t => okSame_bind (reads_onDev (countBytes_units r.ctx t)) fun _ => ?_
  split
  · exact readPhys_reads _ _
  · exact okSame_get_bind fun w => okSame_pure _ w

theorem checkTag_reads (r : Requestor) (va : W64) : Reads (checkTag r va) := by
  unfold checkTag
  split
  · exact okSame_pure _
  · refine okSame_ite (okSame_pure _) ?_
    split
    · exact okSame_pure _
    · exact okSame_guard (okSame_bind (readRaw_reads _ _) fun b => okSame_ite (okSame_throw _) (okSame_pure _))

theorem readByte_reads (r : Requestor) (va : W64) : Reads (readByte r va) :=
  okSame_bind (checkTag_reads r va) fun _ => readRaw_reads r va

theorem readBytes_reads (r : Requestor) : ∀ (n : Nat) (va : W64), Reads (readBytes r va n)
  | 0, _ => okSame_pure _
  | n + 1, va => okSame_bind (readByte_reads r va) fun _ => okSame_bind (readBytes_reads r n (va + 1)) fun _ => okSame_pure _

theorem readNat_reads (r : Requestor) (va : W64) (n : Nat) : Reads (readNat r va n) :=
  okSame_bind (readBytes_reads r n va) fun _ => okSame_pure _

theorem readCode_reads (r : Requestor) (base : W64) (bits : Nat) (off : Int) : Reads (readCode r base bits off) :=
  okSame_ite (readNat_reads _ _ _) (okSame_bind (readNat_reads _ _ _) fun _ => okSame_pure _)

theorem addFlags_reads (f : Flags) : Reads (addFlags f) := okSame_modify fun _ => rfl

theorem addFlags_keeps (f : Flags) : KeepsUnits (addFlags f) := (addFlags_reads f).keepsUnits

/-! ### Writes of memory -/

theorem writeRaw_keeps (r : Requestor) (lo hi : Nat) (va : W64) (b : Byte) : KeepsUnits (writeRaw r lo hi va b) := by
  refine okSame_bind (translate_reads r va true).keepsUnits fun t =>
    okSame_bind (reads_onDev (countBytes_units r.ctx t)).keepsUnits fun _ => ?_
  split
  · exact okSame_bind (okSame_modify fun _ => rfl) fun _ => okSame_pure _
  · refine okSame_bind (snoopGate_reads _ true).keepsUnits fun _ => okSame_get_bind fun w => ?_
    split
    · extract_lets g start v
      split
      · refine okSameAt_bind (okSameAt_set ?_) fun _ => okSame_pure _
        exact (apply_ite unitsOf _ _ _).trans (ite_self _)
      · exact okSame_pure _ w
    · exact okSameAt_bind (okSameAt_set rfl) fun _ => okSame_pure _

theorem clearTag_keeps (r : Requestor) (va : W64) : KeepsUnits (clearTag r va) := by
  unfold clearTag
  split
  · exact okSame_pure _
  · refine okSame_ite (okSame_pure _) ?_
    split
    · exact okSame_pure _
    · refine okSame_ite (okSame_pure _) (okSame_bind (readRaw_reads _ _).keepsUnits fun b => ?_)
      exact okSame_ite (okSame_bind (writeRaw_keeps _ _ _ _ _) fun _ => okSame_pure _) (okSame_pure _)

theorem writeBytesIn_keeps (r : Requestor) (lo hi : Nat) : ∀ (bs : List Byte) (va : W64), KeepsUnits (writeBytesIn r lo hi va bs)
  | [], _ => okSame_pure _
  | b :: bs, va =>
    okSame_bind (okSame_bind (clearTag_keeps r va) fun _ => writeRaw_keeps r lo hi va b) fun _ =>
      okSame_bind (writeBytesIn_keeps r lo hi bs (va + 1)) fun _ => okSame_pure _

theorem writeBytes_keeps (r : Requestor) (va : W64) (bs : List Byte) : KeepsUnits (writeBytes r va bs) := by
  unfold writeBytes
  refine okSame_bind (writeBytesIn_keeps _ _ _ bs va) fun u => ?_
  split
  · exact okSame_pure _
  · rintro w b u ⟨⟩

theorem writeNat_keeps (r : Requestor) (va : W64) (n k : Nat) : KeepsUnits (writeNat r va n k) := writeBytes_keeps _ _ _

/-! ### The requester and the destinations of a part (R226, R310) -/

theorem reqOf_reads (x : Desc) (r : Requestor) (dests : List Nat) : Reads (reqOf x r dests) :=
  okSame_ite (okSame_pure _) (okSame_bind (readBytes_reads _ _ _) fun _ => okSame_pure _)

theorem engStage_reads (x : Desc) (e p : Nat) : Reads (engStage x e p) := by
  refine okSame_bind (reqOf_reads _ _ _) fun r => okSame_bind (okSame_forIn (fun c _ => ?_) _ _) fun _ => okSame_pure _
  exact okSame_bind (okSame_modify fun _ => rfl) fun _ => okSame_pure _

/-! ### Loads (R83, R84) -/

theorem loadTile_reads (r : Requestor) (j : Job) (b : Blk) (t : Nat) (both : Bool) : Reads (loadTile r j b t both) := by
  unfold loadTile
  refine okSame_bind (okSame_mapM (fun c => okSame_bind (readCode_reads _ _ _ _) fun _ => okSame_pure _) _) fun cells => ?_
  extract_lets put rest
  have hrest : ∀ l, Reads (rest l) := fun l => okSame_pure _
  split
  · exact okSame_bind (okSame_mapM (fun c => okSame_bind (readNat_reads _ _ _) fun _ => okSame_pure _) _) hrest
  · exact okSame_bind (okSame_pure _) hrest

theorem tensorScale_reads (r : Requestor) (fmt : Nat) (a : W64) : Reads (tensorScale r fmt a) :=
  okSame_ite (okSame_bind (readNat_reads _ _ _) fun _ => okSame_pure _) (okSame_pure _)

theorem loadBody_reads (e : Nat) (x : Desc) (q : EngPart) : Reads (loadBody e x q) := by
  refine okSame_bind (engStage_reads _ _ _) fun r => ?_
  extract_lets j
  split
  · exact okSame_pure _
  · extract_lets scaledA
    have hA : ∀ sa, Reads (scaledA sa) := by
      intro sa
      unfold scaledA
      extract_lets scaledB
      have hB : ∀ sb, Reads (scaledB sb) := fun sb =>
        okSame_ite (okSame_bind (addFlags_reads _) fun _ => okSame_pure _)
          (okSame_bind (loadTile_reads _ _ _ _ _) fun _ => okSame_pure _)
      exact okSame_ite (okSame_bind (okSame_pure _) hB) (okSame_bind (tensorScale_reads _ _ _) hB)
    exact okSame_ite (okSame_bind (okSame_pure _) hA) (okSame_bind (tensorScale_reads _ _ _) hA)

/-! ### Passes (R83, R211) -/

theorem ctrPass_units (ctx core n prime : Nat) (v : Dev) : unitsOf (ctrPass ctx core n prime v) = unitsOf v := by
  obtain ⟨c, hc⟩ := ctrPass_only ctx core n prime v
  rw [hc]
  rfl

theorem bankCheck_reads (x : Desc) (e b side : Nat) (blk : Blk) : Reads (bankCheck x e b side blk) := by
  refine okSame_get_bind fun w => ?_
  split
  · exact okSame_pure _ w
  · exact failUe_reads _ _ w

theorem rowGroup_reads (r : Requestor) (j : Job) (mem row k0 g len : Nat) : Reads (rowGroup r j mem row k0 g len) := by
  refine okSame_bind (okSame_mapM (fun i => readCode_reads _ _ _ _) _) fun codes => ?_
  exact okSame_ite (okSame_bind (readNat_reads _ _ _) fun _ => okSame_pure _) (okSame_bind (okSame_pure _) fun _ => okSame_pure _)

theorem streamTile_reads (r : Requestor) (j : Job) (b : Blk) (t : Nat) (st : StatSet) (slot : Tab W32) (sa sb : Val) (k : Bank) :
    Reads (streamTile r j b t st slot sa sb k) := by
  unfold streamTile
  refine okSame_bind (okSame_forIn (fun s out => ?_) _ _) fun _ => okSame_pure _
  refine okSame_bind (addFlags_reads _) fun _ => okSame_bind (okSame_forIn (fun i out => ?_) _ _) fun _ => okSame_pure _
  refine okSame_bind (okSame_mapM (fun g => rowGroup_reads _ _ _ _ _ _ _) _) fun row => ?_
  refine okSame_bind (addFlags_reads _) fun _ => okSame_bind (okSame_forIn (fun c out => ?_) _ _) fun _ => okSame_pure _
  exact okSame_pure _

theorem weightPass_keeps (x : Desc) (r : Requestor) (j : Job) (b : Blk) (t : Nat) (st : StatSet) :
    KeepsUnits (weightPass x r j b t st) := by
  unfold weightPass
  refine okSame_bind (okSame_forIn (fun i _ => ?_) _ _) fun _ => okSame_pure _
  refine okSame_bind (okSame_mapM (fun g => (rowGroup_reads _ _ _ _ _ _ _).keepsUnits) _) fun row => ?_
  refine okSame_bind (okSame_forIn (fun c _ => ?_) _ _) fun _ => okSame_pure _
  extract_lets sums total v a stored
  have hstored : ∀ out, KeepsUnits (stored out) := fun out =>
    okSame_bind (addFlags_keeps _) fun _ => okSame_bind (writeNat_keeps _ _ _ _) fun _ => okSame_pure _
  exact okSame_ite (okSame_bind (okSame_pure _) hstored)
    (okSame_bind (readNat_reads _ _ _).keepsUnits fun _ => okSame_bind (okSame_pure _) hstored)

/-- A pass stores nothing but a backward pair's second one (R211). -/
theorem passBody_reads {e bank : Nat} {x : Desc} {q : EngPart} {st : StatSet} {fresh : Bool} {k : Bank} (h : q.second = false) :
    Reads (passBody e bank x q st fresh k) := by
  refine okSame_bind (engStage_reads _ _ _) fun r => ?_
  extract_lets j
  split
  · exact okSame_pure _
  · refine okSame_bind (reads_onDev (ctrPass_units _ _ _ _)) fun _ => ?_
    rw [h]
    exact okSame_bind (bankCheck_reads _ _ _ _ _) fun _ => okSame_bind (streamTile_reads _ _ _ _ _ _ _ _ _) fun _ => okSame_pure _

theorem passBody_keeps (e bank : Nat) (x : Desc) (q : EngPart) (st : StatSet) (fresh : Bool) (k : Bank) :
    KeepsUnits (passBody e bank x q st fresh k) := by
  refine okSame_bind (engStage_reads _ _ _).keepsUnits fun r => ?_
  extract_lets j
  split
  · exact okSame_pure _
  · refine okSame_bind (reads_onDev (ctrPass_units _ _ _ _)).keepsUnits fun _ => okSame_ite ?_ ?_
    · exact okSame_bind (weightPass_keeps _ _ _ _ _ _) fun _ => okSame_pure _
    · exact okSame_bind (bankCheck_reads _ _ _ _ _).keepsUnits fun _ =>
        okSame_bind (streamTile_reads _ _ _ _ _ _ _ _ _).keepsUnits fun _ => okSame_pure _

/-! ### Drains (R112 to R119, R165) -/

theorem writeRun_keeps (r : Requestor) (base : W64) (bits : Nat) (off : Int) (codes : List (Option Nat)) :
    KeepsUnits (writeRun r base bits off codes) := by
  unfold writeRun
  extract_lets per grp nbytes start whole
  refine okSame_bind (okSame_forIn (fun i _ => ?_) _ _) fun _ => okSame_pure _
  extract_lets elems live active keep stored
  have hstored : ∀ old, KeepsUnits (stored old) := fun old =>
    okSame_bind (writeNat_keeps _ _ _ _) fun _ => okSame_pure _
  exact okSame_ite (okSame_ite (okSame_bind (readNat_reads _ _ _).keepsUnits hstored) (okSame_bind (okSame_pure _) hstored))
    (okSame_pure _)

theorem putScalar_keeps (r : Requestor) (t : VDst) (rd : Rnd) (off : Int) (v : Val) : KeepsUnits (putScalar r t rd off v) :=
  okSame_bind (addFlags_keeps _) fun _ =>
    okSame_ite (okSame_bind (writeNat_keeps _ _ _ _) fun _ => writeNat_keeps _ _ _ _) (writeNat_keeps _ _ _ _)

theorem putBlock_keeps (r : Requestor) (t : VDst) (c0 : Nat) (off : Int) (i0 : Nat) (vals : List (Option Val × Rnd)) :
    KeepsUnits (putBlock r t c0 off i0 vals) := by
  unfold putBlock
  refine okSame_ite ?_ (okSame_pure _)
  extract_lets fmt bits o sa blk
  have hblk : ∀ old, KeepsUnits (blk old) := by
    intro old
    refine okSame_bind (addFlags_keeps _) fun _ => okSame_bind (writeNat_keeps _ _ _ _) fun _ =>
      okSame_ite (writeRun_keeps _ _ _ _ _) ?_
    refine okSame_bind (okSame_forIn (fun c _ => ?_) _ _) fun _ => okSame_pure _
    exact okSame_bind (writeNat_keeps _ _ _ _) fun _ => okSame_pure _
  refine okSame_ite (okSame_bind (okSame_pure _) hblk) ?_
  exact okSame_bind (okSame_mapM (fun j => (readCode_reads _ _ _ _).keepsUnits) _) fun codes =>
    okSame_bind (readNat_reads _ _ _).keepsUnits fun _ => okSame_bind (addFlags_keeps _) fun _ => okSame_bind (okSame_pure _) hblk

theorem putRun_keeps (r : Requestor) (t : VDst) (c0 : Nat) (off step : Int) (vals : List (Option Val × Rnd)) :
    KeepsUnits (putRun r t c0 off step vals) := by
  unfold putRun
  refine okSame_ite ?_ (okSame_ite ?_ ?_)
  · refine okSame_bind (okSame_forIn (fun i _ => ?_) _ _) fun _ => okSame_pure _
    exact okSame_bind (putBlock_keeps _ _ _ _ _ _) fun _ => okSame_pure _
  · exact okSame_bind (addFlags_keeps _) fun _ => writeRun_keeps _ _ _ _ _
  · refine okSame_bind (okSame_forIn (fun i _ => ?_) _ _) fun _ => okSame_pure _
    split
    split
    · exact okSame_bind (putScalar_keeps _ _ _ _ _) fun _ => okSame_pure _
    · exact okSame_pure _

theorem auxVal_reads (x : Desc) (r : Requestor) (mem i j : Nat) : Reads (auxVal x r mem i j) :=
  okSame_bind (readCode_reads _ _ _ _) fun _ => okSame_pure _

theorem drainElem_reads (x : Desc) (r : Requestor) (mem i j : Nat) (v : Val) : Reads (drainElem x r mem i j v) :=
  okSame_ite (okSame_bind (auxVal_reads _ _ _ _ _) fun _ => okSame_pure _) (okSame_pure _)

theorem flagEmpty_reads (x : Desc) (r : Requestor) (b : Blk) (mem i : Nat) : Reads (flagEmpty x r b mem i) := by
  refine okSame_get_bind fun w => ?_
  split
  · exact okSame_bind (reads_onDev (g := freeNext) fun _ => rfl) (fun _ => okSame_ite (addFlags_reads _) (okSame_pure _)) w
  · exact addFlags_reads _ w

theorem drainMember_keeps (x : Desc) (r : Requestor) (b : Blk) (s : Nat) (pair : Bool) (side : Nat) (k : Bank) :
    KeepsUnits (drainMember x r b s pair side k) := by
  unfold drainMember
  extract_lets o mem
  refine okSame_get_bind fun w => ?_
  extract_lets dr
  refine (?_ : KeepsUnits _) w
  refine okSame_bind (okSame_mapM (fun i => okSame_mapM (fun j => (drainElem_reads _ _ _ _ _ _).keepsUnits) _) _) fun rows => ?_
  refine okSame_bind (okSame_forIn (fun a _ => ?_) _ _) fun _ => okSame_ite ?_ (okSame_pure _)
  · exact okSame_bind (putRun_keeps _ _ _ _ _ _) fun _ => okSame_pure _
  · refine okSame_bind (okSame_forIn (fun c _ => ?_) _ _) fun _ => okSame_pure _
    split
    extract_lets rec_ written
    have hwritten : ∀ u, KeepsUnits (written u) := fun u => okSame_bind (writeBytes_keeps _ _ _) fun _ => okSame_pure _
    exact okSame_ite (okSame_bind (flagEmpty_reads _ _ _ _ _).keepsUnits hwritten) (hwritten ())

theorem drainGather_keeps (x : Desc) (r : Requestor) (b : Blk) (pair : Bool) (side : Nat) (k : Bank) :
    KeepsUnits (drainGather x r b pair side k) := by
  unfold drainGather
  extract_lets acc rp
  refine okSame_ite ?_ (okSame_pure _)
  refine okSame_bind (okSame_forIn (fun i _ => ?_) _ _) fun _ => okSame_pure _
  extract_lets row rw_
  refine okSame_bind (okSame_forIn (fun j _ => ?_) _ _) fun _ => okSame_pure _
  extract_lets a v stored
  have hstored : ∀ out, KeepsUnits (stored out) := fun out =>
    okSame_bind (addFlags_keeps _) fun _ => okSame_bind (writeNat_keeps _ _ _ _) fun _ => okSame_pure _
  exact okSame_ite (okSame_bind (readNat_reads _ _ _).keepsUnits fun _ => okSame_bind (okSame_pure _) hstored)
    (okSame_bind (okSame_pure _) hstored)

theorem drainBody_keeps (e bank : Nat) (x : Desc) (p : Nat) (k : Bank) : KeepsUnits (drainBody e bank x p k) := by
  refine okSame_bind (engStage_reads _ _ _).keepsUnits fun r => ?_
  extract_lets j
  split
  · exact okSame_pure _
  · refine okSame_bind (bankCheck_reads _ _ _ _ _).keepsUnits fun _ => okSame_ite (drainGather_keeps _ _ _ _ _ _) ?_
    refine okSame_bind (okSame_forIn (fun i _ => ?_) _ _) fun _ => okSame_pure _
    exact okSame_bind (drainMember_keeps _ _ _ _ _ _ _) fun _ => okSame_pure _

end Sys2Proof.Machine
end

section
/-! Engine events (R83 to R88, R101, R108 to R111, R168, R211, R379, R380): pass boundaries and passes, banks that close and drain, and
promotion. -/

namespace Sys2Proof.Machine

open Sys2Proof

/-! ### One engine at work -/

/-- From `v` to `u` engine `e` has become `g`; every other engine, the rings, the contexts and the rails are as before. -/
structure EngineChanged (e : Nat) (v u : Dev) (g : Engine) : Prop where
  here : getEngine u e = g
  other : ∀ i, i ≠ e → getEngine u i = getEngine v i
  wf : tabWf {} u.engines = true
  rings : u.rings = v.rings
  ctxs : u.ctxs = v.ctxs
  power : u.power = v.power

section
variable {e : Nat} {v u t : Dev} {g : Engine}

theorem EngineChanged.refl (h : tabWf {} v.engines = true) : EngineChanged e v v (getEngine v e) :=
  ⟨rfl, fun _ _ => rfl, h, rfl, rfl, rfl⟩

theorem EngineChanged.mod (h : EngineChanged e v u g) (f : Engine → Engine) : EngineChanged e v (modEngine e f u) (f g) where
  here := (getEngine_modEngine_same e f h.wf).trans (congrArg f h.here)
  other i hi := (getEngine_modEngine_other f u hi).trans (h.other i hi)
  wf := tabPut_wf _ _ _ _ h.wf
  rings := h.rings
  ctxs := h.ctxs
  power := h.power

/-- A further change of other fields. -/
theorem EngineChanged.congr (h : EngineChanged e v u g) (he : t.engines = u.engines) (hr : t.rings = u.rings)
    (hc : t.ctxs = u.ctxs) (hp : t.power = u.power) : EngineChanged e v t g where
  here := by rw [getEngine, he]; exact h.here
  other i hi := by rw [getEngine, he]; exact h.other i hi
  wf := he ▸ h.wf
  rings := hr.trans h.rings
  ctxs := hc.trans h.ctxs
  power := hp.trans h.power

theorem EngineChanged.modBank (h : EngineChanged e v u g) (b : Nat) (f : Bank → Bank) :
    EngineChanged e v (modBank e b f u) (setBank b (f (getBank g b)) g) := h.mod fun g => setBank b (f (getBank g b)) g

theorem EngineChanged.bankSweep (h : EngineChanged e v u g) : EngineChanged e v (bankSweep u) g := h.congr rfl rfl rfl rfl

end

theorem unitsOf_eq_iff {v u : Dev} : unitsOf u = unitsOf v ↔
    u.engines = v.engines ∧ u.rings = v.rings ∧ u.ctxs = v.ctxs ∧ u.descs = v.descs := by
  simp only [unitsOf, Prod.mk.injEq]

/-- What a stage that keeps the units leaves of one engine's change, where it keeps the rails. -/
theorem EngineChanged.of_units {e : Nat} {v u t : Dev} {g : Engine} (h : EngineChanged e v u g) (hu : unitsOf t = unitsOf u)
    (hp : t.power = v.power) : EngineChanged e v t g := by
  obtain ⟨he, hr, hc, -⟩ := unitsOf_eq_iff.mp hu
  exact h.congr he hr hc (hp.trans h.power.symm)

theorem getDesc_of_units {v u : Dev} (h : unitsOf u = unitsOf v) (d : Nat) : getDesc u d = getDesc v d := by
  rw [getDesc, (unitsOf_eq_iff.mp h).2.2.2]
  rfl

/-- The state that a command leaves has its engines as its work has them. -/
theorem EngineChanged.commit {e : Nat} {s : State} {w : Work} {g : Engine} (h : EngineChanged e s.dev w.dev g) :
    EngineChanged e s.dev (commit s w).dev g := by
  rw [commit_dev, breakReserved_only]
  exact h.congr rfl rfl rfl rfl

/-! ### A part's entry in its queue -/

/-- An engine with the entry of a part changed. -/
def withEntry (d p : Nat) (f : EngPart → EngPart) (g : Engine) : Engine :=
  { g with queue := g.queue.map (fun q => if q.d = d && q.p = p then f q else q) }

/-- An engine without the entry of a part. -/
def withoutEntry (d p : Nat) (g : Engine) : Engine :=
  { g with queue := g.queue.filter (fun q => !(q.d = d && q.p = p)), current := g.current.filter (fun o => o ≠ (d, p)) }

@[simp] theorem withEntry_current (d p : Nat) (f : EngPart → EngPart) (g : Engine) : (withEntry d p f g).current = g.current := rfl
@[simp] theorem withEntry_active (d p : Nat) (f : EngPart → EngPart) (g : Engine) : (withEntry d p f g).active = g.active := rfl
@[simp] theorem withEntry_shadow (d p : Nat) (f : EngPart → EngPart) (g : Engine) : (withEntry d p f g).shadow = g.shadow := rfl
@[simp] theorem getBank_withEntry (d p : Nat) (f : EngPart → EngPart) (g : Engine) (b : Nat) :
    getBank (withEntry d p f g) b = getBank g b := rfl
@[simp] theorem withoutEntry_active (d p : Nat) (g : Engine) : (withoutEntry d p g).active = g.active := rfl
@[simp] theorem withoutEntry_shadow (d p : Nat) (g : Engine) : (withoutEntry d p g).shadow = g.shadow := rfl
@[simp] theorem getBank_withoutEntry (d p : Nat) (g : Engine) (b : Nat) : getBank (withoutEntry d p g) b = getBank g b := rfl

theorem EngineChanged.modEngPart {e : Nat} {v u : Dev} {g : Engine} (h : EngineChanged e v u g) (d p : Nat)
    (f : EngPart → EngPart) : EngineChanged e v (modEngPart e d p f u) (withEntry d p f g) := h.mod _

theorem EngineChanged.dropEngPart {e : Nat} {v u : Dev} {g : Engine} (h : EngineChanged e v u g) (d p : Nat) :
    EngineChanged e v (dropEngPart e d p u) (withoutEntry d p g) := h.mod _

theorem findPart_key {g : Engine} {d p : Nat} {q : EngPart} (h : findPart g d p = some q) : q.d = d ∧ q.p = p := by
  simpa using List.find?_some h

theorem findPart_withEntry {f : EngPart → EngPart} (hf : ∀ q, (f q).d = q.d ∧ (f q).p = q.p) (g : Engine) (d p : Nat) :
    findPart (withEntry d p f g) d p = (findPart g d p).map f := by
  have same : (fun y : EngPart => y.d = d && y.p = p) ∘ (fun q : EngPart => if q.d = d && q.p = p then f q else q) =
      fun y => y.d = d && y.p = p := by
    funext q
    simp only [Function.comp_apply]
    split
    · rw [(hf q).1, (hf q).2]
    · rfl
  unfold findPart withEntry
  rw [List.find?_map, same]
  cases hq : g.queue.find? (fun y => y.d = d && y.p = p) with
  | none => rfl
  | some q => exact congrArg some (if_pos (List.find?_some hq))

theorem findPart_setBank (b : Nat) (k : Bank) (g : Engine) (d p : Nat) : findPart (setBank b k g) d p = findPart g d p := by
  rw [findPart, setBank_queue]
  rfl

/-- What a change of an entry did to it is gone with it. -/
theorem withoutEntry_queue_withEntry {f : EngPart → EngPart} (hf : ∀ q, (f q).d = q.d ∧ (f q).p = q.p) (g : Engine) (d p : Nat) :
    (withoutEntry d p (withEntry d p f g)).queue = g.queue.filter (fun q => !(q.d = d && q.p = p)) := by
  unfold withoutEntry withEntry
  dsimp only
  induction g.queue with
  | nil => rfl
  | cons q l ih =>
    rw [List.map_cons, List.filter_cons, List.filter_cons, ih]
    by_cases h : (q.d = d && q.p = p) = true
    · simp only [h, if_true, (hf q).1, (hf q).2, Bool.not_true, Bool.false_eq_true, if_false]
    · simp only [h, if_false, Bool.false_eq_true]

theorem withoutEntry_setBank_queue (d p b : Nat) (k : Bank) (g : Engine) :
    (withoutEntry d p (setBank b k g)).queue = (withoutEntry d p g).queue := by
  unfold withoutEntry
  rw [setBank_queue]

/-! ### A stage of a part's work -/

/-- The work that a stage of a part leaves, with the flags it raised joined to the part's. -/
def stageDone (d p : Nat) (w : Work) : Work :=
  onDev (modPart d p (fun q => { q with flags := Flags.join q.flags w.flags })) (snoopsUsed { w with dest := [] })

theorem onPart_ok {α : Type} {e d p : Nat} {body : Acc α} {ok : α → Work → Work} {w u : Work} {a : α}
    (h : body.run { w with dest := [], snooped := [], flags := {} } = (.ok a, u)) :
    onPart e d p body ok w = ok a (stageDone d p u) := by
  unfold onPart
  rw [h]
  rfl

theorem EngineChanged.stageDone {e d p : Nat} {v : Dev} {w : Work} {g : Engine} (h : EngineChanged e v w.dev g) :
    EngineChanged e v (stageDone d p w).dev g := h.congr rfl rfl rfl rfl

theorem getDesc_stageDone {d : Nat} (p : Nat) {w : Work} {x : Desc} (h : getDesc w.dev d = some x) :
    getDesc (stageDone d p w).dev d =
      some { x with parts := x.parts.modify p (fun q => { q with flags := Flags.join q.flags w.flags }) } := by
  refine (getDesc_modPart d d p _ _).trans ?_
  rw [if_pos rfl]
  exact congrArg (Option.map _) h

/-- A descriptor with one of its parts replaced. -/
def withPart (p : Nat) (q : Part) (x : Desc) : Desc := { x with parts := x.parts.set p q }

theorem withPart_withPart (p : Nat) (q r : Part) (x : Desc) : withPart p q (withPart p r x) = withPart p q x := by
  simp only [withPart, List.set_set]

theorem withPart_part {p : Nat} {x : Desc} {r : Part} (q : Part) (h : x.parts[p]? = some r) : (withPart p q x).parts[p]? = some q :=
  List.getElem?_set_self (List.getElem?_eq_some_iff.mp h).1

theorem getDesc_modPart_some {d p : Nat} {v : Dev} {x : Desc} {r : Part} (f : Part → Part) (hx : getDesc v d = some x)
    (hr : x.parts[p]? = some r) : getDesc (modPart d p f v) d = some (withPart p (f r) x) := by
  rw [getDesc_modPart, if_pos rfl, hx, Option.map_some, List.modify_eq_set_getElem?, hr]
  rfl

/-- The part that a stage has worked for, its flags joined. -/
theorem getDesc_stageDone_part {d p : Nat} {w : Work} {x : Desc} {r : Part} (hx : getDesc w.dev d = some x)
    (hr : x.parts[p]? = some r) :
    getDesc (stageDone d p w).dev d = some (withPart p { r with flags := Flags.join r.flags w.flags } x) :=
  getDesc_modPart_some (v := (snoopsUsed { w with dest := [] }).dev) _ hx hr

theorem getDesc_stageDone_other {d i : Nat} (p : Nat) (w : Work) (h : i ≠ d) : getDesc (stageDone d p w).dev i = getDesc w.dev i :=
  (getDesc_modPart d i p _ _).trans (if_neg h)

/-- A command that ends with a change of the device after a stage of a part leaves the stores of the stage. -/
theorem stageDone_committed {s : State} {d p e : Nat} {w : Work} {f : Dev → Dev} {g : Engine} (hs : Memory.wf s = true)
    (hw : w.wiped = .none) (hl : s.dev.power.lost = .none) (h : EngineChanged e s.dev (f (stageDone d p w).dev) g) :
    StoredBy s (commit s (onDev f (stageDone d p w))) w.stores ∧
      EngineChanged e s.dev (commit s (onDev f (stageDone d p w))).dev g :=
  ⟨storedBy_commit (w := onDev f (stageDone d p w)) hs hw hl h.power, h.commit⟩

/-! ### A part begins, and a block takes its bank (R86, R101) -/

theorem startPart_units (d p : Nat) (v : Dev) : (startPart d p v).engines = v.engines ∧ (startPart d p v).rings = v.rings ∧
    (startPart d p v).ctxs = v.ctxs ∧ (startPart d p v).power = v.power := by
  have traced (x : Desc) (u : Dev) : (tracePart 0x02 x p [] u).engines = u.engines ∧ (tracePart 0x02 x p [] u).rings = u.rings ∧
      (tracePart 0x02 x p [] u).ctxs = u.ctxs ∧ (tracePart 0x02 x p [] u).power = u.power := by
    unfold tracePart
    split
    · exact ⟨rfl, rfl, rfl, rfl⟩
    · exact ⟨rfl, rfl, rfl, rfl⟩
  unfold startPart
  split
  · exact ⟨rfl, rfl, rfl, rfl⟩
  · next x hx =>
    extract_lets u
    have hu : u.engines = v.engines ∧ u.rings = v.rings ∧ u.ctxs = v.ctxs ∧ u.power = v.power := by
      unfold u
      split
      · rw [stabHold_only]
        exact ⟨rfl, rfl, rfl, rfl⟩
      · exact ⟨rfl, rfl, rfl, rfl⟩
    obtain ⟨h1, h2, h3, h4⟩ := traced x (modPart d p (fun q => { q with state := .running }) u)
    exact ⟨h1.trans hu.1, h2.trans hu.2.1, h3.trans hu.2.2.1, h4.trans hu.2.2.2⟩

/-- An engine that works for a part from now on, the tile of another discarded. -/
def begunEngine (q : EngPart) (g : Engine) : Engine :=
  { (if q.started then g else withEntry q.d q.p (fun y => { y with started := true }) g) with
    current := some (q.d, q.p), shadow := {} }

theorem begun_changes {e : Nat} {v : Dev} (q : EngPart) (h : tabWf {} v.engines = true) :
    EngineChanged e v (begun e q v) (begunEngine q (getEngine v e)) := by
  unfold begun begunEngine
  split
  · exact (EngineChanged.refl h).mod _
  · obtain ⟨h1, h2, h3, h4⟩ := startPart_units q.d q.p v
    exact (((EngineChanged.refl h).congr h1 h2 h3 h4).mod (withEntry q.d q.p _)).mod _

/-- A bank that a block begins in (R101). -/
def takenBank (x : Desc) (q : EngPart) (k : Bank) : Bank :=
  { k with
    phase := .filling, owner := some (q.d, q.p), ctx := x.ctx, block := q.block, pend := [], drop := false
    cells := if bankModeOf x = 1 && !(mmOf x.bytes).clear && k.phase = .held then k.cells else [] }

/-- An engine once a part's block has taken a bank. -/
def takenEngine (b : Nat) (x : Desc) (q : EngPart) (sa sb : W32) (g : Engine) : Engine :=
  withEntry q.d q.p (fun y => { y with bank := some b, tile := 0, scaleA := sa, scaleB := sb })
    (setBank b (takenBank x q (getBank g b)) g)

theorem EngineChanged.takeBank {e : Nat} {v u : Dev} {g : Engine} (h : EngineChanged e v u g) (b : Nat) (x : Desc) (q : EngPart)
    (sa sb : W32) : EngineChanged e v (takeBank e b x q sa sb u) (takenEngine b x q sa sb g) := by
  unfold Machine.takeBank
  extract_lets o keeps clean
  have hclean : EngineChanged e v clean g := by
    unfold clean
    split
    · exact h
    · exact h.congr rfl rfl rfl rfl
  exact (hclean.mod fun g => setBank b (takenBank x q (getBank g b)) g).mod (withEntry q.d q.p _)

/-! ### PASS_BOUNDARY -/

theorem passBoundary_none {e : Nat} {w : Work} (h : pickPart w.dev e (getEngine w.dev e) = none) : passBoundary e w = w := by
  unfold passBoundary
  rw [h]

theorem passBoundary_takes {e : Nat} {w : Work} {q : EngPart} {x : Desc} (h : pickPart w.dev e (getEngine w.dev e) = some q)
    (hx : getDesc w.dev q.d = some x) : passBoundary e w = takeBoundary e x q w := by
  unfold passBoundary
  rw [h]
  dsimp only
  rw [hx]

/-- A part that needs a new block loads the block's first tile. -/
theorem takeBoundary_loads {e b : Nat} {x : Desc} {q : EngPart} {st : StatSet} {sa sb : W32} {w u : Work}
    (hb : q.bank = none) (hf : bankFor w.dev (getEngine w.dev e) x q = some b) (hm : mustWait w.dev q = none)
    (hr : (loadBody e x q).run { onDev (begun e q) w with dest := [], snooped := [], flags := {} } = (.ok (st, sa, sb), u))
    (hl : st.loaded = true)
    (hn : ∀ t, (loadBody e x q).run { w with dest := [], snooped := [], flags := {} } ≠ (.error .wait, t)) :
    takeBoundary e x q w = onDev (fun v => modEngine e
      (fun y => { y with shadow := { st with full := (getEngine w.dev e).current ≠ some (q.d, q.p) } })
      (takeBank e b x q sa sb v)) (stageDone q.d q.p u) := by
  unfold takeBoundary
  simp only [hm, hb, hf, Option.none_or, Option.isSome_none, Bool.false_and, Bool.false_eq_true, if_false]
  split
  · next hw => exact (hn _ (Prod.ext hw rfl)).elim
  · rw [onPart_ok hr]
    simp only [hl, if_true]

/-- A backward pair's second pass runs over the active set (R211). -/
theorem takeBoundary_second {e b : Nat} {x : Desc} {q : EngPart} {w : Work} (hs : q.started = true) (hb : q.bank = some b)
    (h2 : q.second = true) (hh : holdsTile (getEngine w.dev e).active q = true) :
    takeBoundary e x q w = runPass e b x q (getEngine w.dev e).active false
      (onDev (modEngine e (fun g => { g with current := some (q.d, q.p) })) w) := by
  unfold takeBoundary mustWait
  simp only [hs, hb, h2, hh, if_true, Option.some_or, Option.isSome_some, Bool.and_self]

/-! ### What a pass leaves (R83, R86, R88, R211) -/

/-- An engine whose pass over a set has run: the set is the active one, and the bank holds the pass's sums. -/
def passedEngine (b : Nat) (st : StatSet) (k : Bank) (g : Engine) : Engine := setBank b k { g with active := st, shadow := {} }

section
variable (b : Nat) (st : StatSet) (k : Bank) (g : Engine)

@[simp] theorem passedEngine_active : (passedEngine b st k g).active = st := setBank_active ..
@[simp] theorem passedEngine_shadow : (passedEngine b st k g).shadow = {} := setBank_shadow ..
@[simp] theorem passedEngine_current : (passedEngine b st k g).current = g.current := setBank_current ..
@[simp] theorem passedEngine_queue : (passedEngine b st k g).queue = g.queue := setBank_queue ..
@[simp] theorem getBank_passedEngine : getBank (passedEngine b st k g) b = k := getBank_setBank_same ..

theorem findPart_passedEngine (d p : Nat) : findPart (passedEngine b st k g) d p = findPart g d p := by
  rw [findPart, passedEngine_queue]
  rfl

end

theorem getBank_passedEngine_other {b : Nat} (st : StatSet) (k : Bank) (g : Engine) (h : b < 2) :
    getBank (passedEngine b st k g) (1 - b) = getBank g (1 - b) := getBank_setBank_other _ _ h

/-- The device once a pass has run, its products counted. -/
def passRun (e b : Nat) (x : Desc) (q : EngPart) (st : StatSet) (j : Job) (blk : Blk) (k : Bank) (v : Dev) : Dev :=
  ctrAdd x.ctx (2 + j.cls) (if q.second then weightMacs j blk q.tile else passMacs j blk q.tile) (modEngine e (passedEngine b st k) v)

/-- A part's entry at its next block. -/
def nextBlock (b : Nat) (q : EngPart) : EngPart :=
  { q with block := q.block + 1, tile := 0, bank := none, lastBank := some b, second := false }

/-- A part's entry after a pass: at the second pass of a backward pair, at its next tile or at its next block. -/
def afterPass (x : Desc) (b tiles : Nat) (q : EngPart) : EngPart :=
  if isPair x = true ∧ q.second = false then { q with second := true }
  else if q.tile + 1 < tiles then { q with tile := q.tile + 1, second := false }
  else nextBlock b q

theorem runPass_ok {e b : Nat} {x : Desc} {q : EngPart} {st : StatSet} {fresh : Bool} {j : Job} {blk : Blk} {k : Bank} {w u : Work}
    (h : (passBody e b x q st fresh (getBank (getEngine w.dev e) b)).run { w with dest := [], snooped := [], flags := {} } =
      (.ok (some (j, blk, k)), u)) :
    runPass e b x q st fresh w = onDev (fun v =>
      if isPair x && !q.second then modEngPart e q.d q.p (fun y => { y with second := true }) (passRun e b x q st j blk k v)
      else if q.tile + 1 < j.tiles blk then
        modEngPart e q.d q.p (fun y => { y with tile := y.tile + 1, second := false }) (passRun e b x q st j blk k v)
      else blockIssued e q.d q.p b (passRun e b x q st j blk k v)) (stageDone q.d q.p u) := by
  unfold runPass
  rw [onPart_ok h]
  rfl

theorem EngineChanged.passRun {e : Nat} {v u : Dev} {g : Engine} (h : EngineChanged e v u g) (b : Nat) (x : Desc) (q : EngPart)
    (st : StatSet) (j : Job) (blk : Blk) (k : Bank) :
    EngineChanged e v (passRun e b x q st j blk k u) (passedEngine b st k g) := (h.mod _).congr rfl rfl rfl rfl

theorem blockIssued_automatic {e d p b : Nat} {v : Dev} {x : Desc} (hx : getDesc v d = some x) (h : bankModeOf x ≠ 1) :
    blockIssued e d p b v = modEngPart e d p (nextBlock b) v := by
  unfold blockIssued
  simp only [hx, h, if_false]
  rfl

/-- What a keep part leaves its bank as when it ends (R86, R88). -/
def keptBank (k : Bank) : Bank := if k.drop then { order := k.order } else { k with phase := .held }

theorem satAdd_zero {w : Nat} (a : BitVec w) : satAdd a 0 = a := by
  unfold satAdd
  have := a.isLt
  split
  · next h =>
    apply BitVec.eq_of_toNat_eq
    rw [BitVec.toNat_allOnes]
    omega
  · exact BitVec.ofNat_toNat _ _ ▸ BitVec.setWidth_eq a

theorem join_none (f : Flags) : Flags.join f fNone = f := by
  cases f
  simp [Flags.join, fNone, satAdd_zero]

/-- A part that ends with any other status than MEMORY_UE changes no engine, ring or context. -/
theorem EngineChanged.endPart {e d p : Nat} {v u : Dev} {g : Engine} {st : Byte} (h : EngineChanged e v u g) (a : W64) (f : Flags)
    (hst : st ≠ stMemoryUe) : EngineChanged e v (endPart d p st a f u) g := by
  obtain ⟨-, -, hc, hr, he, -, -, -⟩ := partEnded_endPart (d := d) (p := p) a f u hst
  exact h.congr he hr hc (endPart_stands d p st a f u).power

/-- An engine whose keep part has had its last pass. -/
def keptEngine (d p b : Nat) (g : Engine) : Engine :=
  withoutEntry d p (setBank b (keptBank (getBank g b)) (withEntry d p (nextBlock b) g))

section
variable {e d p b : Nat} {u : Dev} {x : Desc} (hx : getDesc u d = some x) (h : bankModeOf x = 1)
include hx h

theorem blockIssued_keep : blockIssued e d p b u =
    endPart d p stSuccess 0 fNone (dropEngPart e d p (bankSweep (modBank e b keptBank (modEngPart e d p (nextBlock b) u)))) := by
  unfold blockIssued
  simp only [hx, h, if_true]
  rfl

theorem EngineChanged.blockIssued_keep {v : Dev} {g : Engine} (hg : EngineChanged e v u g) :
    EngineChanged e v (blockIssued e d p b u) (keptEngine d p b g) := by
  rw [Machine.blockIssued_keep hx h]
  exact (((hg.modEngPart d p (nextBlock b)).modBank b keptBank).bankSweep.dropEngPart d p).endPart 0 fNone (by decide)

/-- The keep part ends with SUCCESS. -/
theorem getDesc_blockIssued_keep {r : Part} (hr : x.parts[p]? = some r) : ∃ r',
    getDesc (blockIssued e d p b u) d = some (withPart p r' x) ∧ r'.state = .ended ∧ r'.status = stSuccess ∧
      r'.flags = r.flags := by
  rw [Machine.blockIssued_keep hx h]
  generalize hv : Machine.dropEngPart e d p _ = v
  have hxv : getDesc v d = some x := hv ▸ hx
  obtain ⟨hend, -⟩ := partEnded_endPart 0 fNone v (d := d) (p := p) (st := stSuccess) (by decide)
  obtain ⟨r', hd, h1, h2, h3, -, -⟩ := hend x r hxv hr
  exact ⟨r', hd, h1, h2, h3.trans (join_none r.flags)⟩

end

/-- A pass after which its part's block goes on, or its bank awaits its close. -/
theorem runPass_goesOn {e b : Nat} {x : Desc} {q : EngPart} {st : StatSet} {fresh : Bool} {j : Job} {blk : Blk} {k : Bank}
    {s : State} {w u : Work} {g : Engine} (hs : Memory.wf s = true) (hw : u.wiped = .none) (hl : s.dev.power.lost = .none)
    (hp : u.dev.power = s.dev.power) (hb : b < 2) (hg : EngineChanged e s.dev w.dev g) (hf : findPart g q.d q.p = some q)
    (hx : getDesc w.dev q.d = some x)
    (hr : (passBody e b x q st fresh (getBank g b)).run { w with dest := [], snooped := [], flags := {} } = (.ok (some (j, blk, k)), u))
    (hgo : q.tile + 1 < j.tiles blk ∨ bankModeOf x ≠ 1) :
    let t := commit s (runPass e b x q st fresh w)
    ∃ g', StoredBy s t u.stores ∧ EngineChanged e s.dev t.dev g' ∧ g'.active = st ∧ g'.shadow = {} ∧ g'.current = g.current ∧
      getBank g' b = k ∧ getBank g' (1 - b) = getBank g (1 - b) ∧
      findPart g' q.d q.p = some (afterPass x b (j.tiles blk) q) := by
  have hu : unitsOf u.dev = unitsOf w.dev := passBody_keeps _ _ _ _ _ _ _ { w with dest := [], snooped := [], flags := {} } _ _ hr
  have hxu := getDesc_stageDone q.p ((getDesc_of_units hu q.d).trans hx)
  have hgu : EngineChanged e s.dev (stageDone q.d q.p u).dev g := (hg.of_units hu hp).stageDone
  have hpass := hgu.passRun b x q st j blk k
  have entry : ∃ f : EngPart → EngPart, (∀ y, (f y).d = y.d ∧ (f y).p = y.p) ∧ f q = afterPass x b (j.tiles blk) q ∧
      runPass e b x q st fresh w =
        onDev (fun v => modEngine e (withEntry q.d q.p f) (Machine.passRun e b x q st j blk k v)) (stageDone q.d q.p u) := by
    rw [runPass_ok (hg.here.symm ▸ hr)]
    unfold afterPass
    by_cases hpair : isPair x = true ∧ q.second = false
    · refine ⟨fun y => { y with second := true }, fun _ => ⟨rfl, rfl⟩, (if_pos hpair).symm, ?_⟩
      simp only [hpair, Bool.not_false, Bool.and_self, if_true]
      rfl
    · have hpair' : ¬(isPair x && !q.second) = true := by simpa using hpair
      simp only [if_neg hpair, if_neg hpair']
      by_cases htile : q.tile + 1 < j.tiles blk
      · simp only [if_pos htile]
        exact ⟨fun y => { y with tile := y.tile + 1, second := false }, fun _ => ⟨rfl, rfl⟩, rfl, rfl⟩
      · simp only [if_neg htile]
        refine ⟨nextBlock b, fun _ => ⟨rfl, rfl⟩, rfl, ?_⟩
        simp only [onDev]
        have hxp : getDesc (Machine.passRun e b x q st j blk k (stageDone q.d q.p u).dev) q.d = _ := hxu
        rw [blockIssued_automatic hxp (hgo.resolve_left htile)]
        rfl
  obtain ⟨f, hfk, hfq, hrun⟩ := entry
  rw [hrun]
  obtain ⟨hst, hch⟩ := stageDone_committed (f := fun v => modEngine e (withEntry q.d q.p f) (Machine.passRun e b x q st j blk k v))
    hs hw hl (hpass.mod (withEntry q.d q.p f))
  refine ⟨_, hst, hch, passedEngine_active .., passedEngine_shadow .., passedEngine_current .., getBank_passedEngine ..,
    getBank_passedEngine_other _ _ _ hb, ?_⟩
  rw [findPart_withEntry hfk, findPart_passedEngine, hf, Option.map_some, hfq]

/-- A keep part's last pass: its bank is held or given up, and the part ends with SUCCESS. -/
theorem runPass_keeps {e b : Nat} {x : Desc} {q : EngPart} {st : StatSet} {fresh : Bool} {j : Job} {blk : Blk} {k : Bank} {r : Part}
    {s : State} {w u : Work} {g : Engine} (hs : Memory.wf s = true) (hw : u.wiped = .none) (hl : s.dev.power.lost = .none)
    (hp : u.dev.power = s.dev.power) (hb : b < 2) (hg : EngineChanged e s.dev w.dev g)
    (hx : getDesc w.dev q.d = some x)
    (hr : (passBody e b x q st fresh (getBank g b)).run { w with dest := [], snooped := [], flags := {} } = (.ok (some (j, blk, k)), u))
    (htile : j.tiles blk ≤ q.tile + 1) (hkeep : bankModeOf x = 1) (hpair : isPair x = false) (hpart : x.parts[q.p]? = some r) :
    let t := commit s (runPass e b x q st fresh w)
    ∃ g' r', StoredBy s t u.stores ∧ EngineChanged e s.dev t.dev g' ∧ g'.active = st ∧ g'.shadow = {} ∧
      g'.current = g.current.filter (fun o => o ≠ (q.d, q.p)) ∧ getBank g' b = keptBank k ∧ getBank g' (1 - b) = getBank g (1 - b) ∧
      g'.queue = g.queue.filter (fun y => !(y.d = q.d && y.p = q.p)) ∧
      getDesc t.dev q.d = some { x with parts := x.parts.set q.p r' } ∧ r'.state = .ended ∧ r'.status = stSuccess ∧
      r'.flags = Flags.join r.flags u.flags := by
  have hu : unitsOf u.dev = unitsOf w.dev := passBody_keeps _ _ _ _ _ _ _ { w with dest := [], snooped := [], flags := {} } _ _ hr
  have hgu : EngineChanged e s.dev (stageDone q.d q.p u).dev g := (hg.of_units hu hp).stageDone
  have hx1 : getDesc (Machine.passRun e b x q st j blk k (stageDone q.d q.p u).dev) q.d = _ :=
    getDesc_stageDone_part ((getDesc_of_units hu q.d).trans hx) hpart
  have hkeep1 : bankModeOf (withPart q.p { r with flags := Flags.join r.flags u.flags } x) = 1 := hkeep
  have hrun : runPass e b x q st fresh w = onDev (fun v => blockIssued e q.d q.p b (Machine.passRun e b x q st j blk k v))
      (stageDone q.d q.p u) := by
    rw [runPass_ok (hg.here.symm ▸ hr)]
    simp only [hpair, Bool.false_and, Bool.false_eq_true, if_false, if_neg (Nat.not_lt.mpr htile)]
  obtain ⟨hst, hch⟩ := stageDone_committed (f := fun v => blockIssued e q.d q.p b (Machine.passRun e b x q st j blk k v)) hs hw hl
    ((hgu.passRun b x q st j blk k).blockIssued_keep (p := q.p) (b := b) hx1 hkeep1)
  obtain ⟨r', hd, h1, h2, h3⟩ := getDesc_blockIssued_keep (e := e) (b := b) hx1 hkeep1 (withPart_part _ hpart)
  rw [withPart_withPart] at hd
  rw [hrun]
  refine ⟨_, r', hst, hch, ?_, ?_, ?_, ?_, ?_, ?_, (getDesc_breakReserved _ _ _).trans hd, h1, h2, h3⟩
  · simp [keptEngine]
  · simp [keptEngine]
  · simp [keptEngine, withoutEntry]
  · simp [keptEngine, getBank_setBank_same]
  · simp [keptEngine, getBank_setBank_other _ _ hb, getBank_passedEngine_other _ _ _ hb]
  · rw [keptEngine, withoutEntry_setBank_queue, withoutEntry_queue_withEntry (f := nextBlock b) (fun _ => ⟨rfl, rfl⟩),
      passedEngine_queue]

/-! ### SHADOW_EXCHANGE (R83, R110) -/

theorem holdsTile_of {st : StatSet} {q : EngPart} (hl : st.loaded = true) (hd : q.d = st.d) (hp : q.p = st.p)
    (hb : q.block = st.block) (ht : q.tile = st.tile) : holdsTile st q = true := by
  simp [holdsTile, hl, hd, hp, hb, ht]

theorem exchange_runs {e b : Nat} {x : Desc} {q : EngPart} {w : Work} {g : Engine} (hg : getEngine w.dev e = g)
    (hf : findPart g g.shadow.d g.shadow.p = some q) (hx : getDesc w.dev g.shadow.d = some x) (hb : q.bank = some b)
    (hc : g.current = some (g.shadow.d, g.shadow.p)) (hh : holdsTile g.shadow q = true) (h0 : closeDue g 0 = false)
    (h1 : closeDue g 1 = false) : exchange e w = runPass e b x q g.shadow true w := by
  unfold exchange
  simp only [hg, hf, hx, hb]
  exact if_neg (by simp [hc, hh, h0, h1])

/-! ### Banks close and drain (R108 to R111) -/

/-- A bank that closes, with its place in the engine's order of closes. -/
def closedBank (n : Nat) (k : Bank) : Bank := { k with phase := .closed, order := n }

def countClose (g : Engine) : Engine := { g with closes := g.closes + 1 }

/-- An engine whose bank has closed, the part whose last block it holds out of the queue. -/
def closedEngine (b d p : Nat) (last : Prop) [Decidable last] (g : Engine) : Engine :=
  if last then withoutEntry d p (countClose (setBank b (closedBank g.closes (getBank g b)) g))
  else countClose (setBank b (closedBank g.closes (getBank g b)) g)

section
variable {e b d p : Nat} {v : Dev} {q : EngPart} {x : Desc} (hk : (getBank (getEngine v e) b).phase = .filling)
  (ho : (getBank (getEngine v e) b).owner = some (d, p)) (hf : findPart (getEngine v e) d p = some q) (hx : getDesc v d = some x)
  (hq : (getBank (getEngine v e) b).block < q.block) (hc : closesLater (getEngine v e) b = false)
include hk ho hf hx hq hc

theorem bankClose_closes : bankClose e b v =
    if blockCount x p ≤ (getBank (getEngine v e) b).block + 1 then
      dropEngPart e d p (modEngine e countClose (modBank e b (closedBank (getEngine v e).closes) v))
    else modEngine e countClose (modBank e b (closedBank (getEngine v e).closes) v) := by
  have due : closeDue (getEngine v e) b = true := by simp [closeDue, hk, ho, hf, hq]
  have hx' : getDesc (modEngine e countClose (modBank e b (closedBank (getEngine v e).closes) v)) d = some x := hx
  unfold bankClose
  simp only [hk, ho, due, hc, Bool.not_true, Bool.or_self, Bool.false_eq_true, if_false]
  refine (congrArg (fun o : Option Desc => if o.any _ then _ else _) hx').trans ?_
  simp only [Option.any_some, decide_eq_true_eq]
  rfl

theorem bankClose_changes (hw : tabWf {} v.engines = true) : EngineChanged e v (bankClose e b v)
    (closedEngine b d p (blockCount x p ≤ (getBank (getEngine v e) b).block + 1) (getEngine v e)) := by
  have counted := ((EngineChanged.refl (e := e) hw).modBank b (closedBank (getEngine v e).closes)).mod countClose
  rw [bankClose_closes hk ho hf hx hq hc]
  unfold closedEngine
  split
  · exact counted.dropEngPart d p
  · exact counted

theorem bankClose_only : bankClose e b v = { v with engines := (bankClose e b v).engines } := by
  rw [bankClose_closes hk ho hf hx hq hc]
  split <;> rfl

end

theorem treeEmpty_drains {e b : Nat} {v : Dev} (hk : (getBank (getEngine v e) b).phase = .closed)
    (hd : (getBank (getEngine v e) (1 - b)).phase ≠ .draining)
    (ho : ¬((getBank (getEngine v e) (1 - b)).phase = .closed ∧
      (getBank (getEngine v e) (1 - b)).order < (getBank (getEngine v e) b).order)) :
    treeEmpty e b v = modBank e b (fun k => { k with phase := .draining }) v := by
  unfold treeEmpty
  exact if_pos (by simpa [hk, hd] using not_and_or.mp ho)

/-- The device once a block of a part has drained: its bank cleared and free, and the block counted. -/
def blockDrained (e b d p : Nat) (v : Dev) : Dev :=
  modPart d p (fun q => { q with progress := q.progress + 1 }) (bankSweep (modBank e b (fun k => { order := k.order }) v))

/-- A part once a block of it has drained: ended with SUCCESS if it was the last. -/
def drainedPart (blocks : Nat) (q : Part) : Part :=
  if blocks ≤ q.progress + 1 then endedPart stSuccess 0 fNone { q with progress := q.progress + 1 }
  else { q with progress := q.progress + 1 }

theorem endPart_success {d p : Nat} {v : Dev} {x : Desc} {q : Part} (hx : getDesc v d = some x) (hq : x.parts[p]? = some q) :
    getDesc (endPart d p stSuccess 0 fNone v) d = some (withPart p (endedPart stSuccess 0 fNone q) x) := by
  rw [endPart_some p _ _ _ hx, if_neg (by decide)]
  exact getDesc_withEnded d p stSuccess 0 fNone v hx hq

section
variable {e b d p : Nat} {x : Desc} {q : Part} {w u : Work} (hx : getDesc w.dev d = some x) (hq : x.parts[p]? = some q)
  (hr : (drainBody e b x p (getBank (getEngine w.dev e) b)).run { w with dest := [], snooped := [], flags := {} } = (.ok (), u))
include hx hq hr

theorem getDesc_blockDrained : getDesc (blockDrained e b d p (stageDone d p u).dev) d =
    some (withPart p { q with flags := Flags.join q.flags u.flags, progress := q.progress + 1 } x) := by
  have hu : unitsOf u.dev = unitsOf w.dev := drainBody_keeps _ _ _ _ _ { w with dest := [], snooped := [], flags := {} } _ _ hr
  have hd := getDesc_stageDone_part ((getDesc_of_units hu d).trans hx) hq
  refine (getDesc_modPart_some _ hd (withPart_part _ hq)).trans ?_
  rw [withPart_withPart]

theorem drainComplete_drains (hk : (getBank (getEngine w.dev e) b).phase = .draining)
    (ho : (getBank (getEngine w.dev e) b).owner = some (d, p)) : drainComplete e b w = onDev (fun v =>
      if blockCount x p ≤ q.progress + 1 then endPart d p stSuccess 0 fNone (blockDrained e b d p v) else blockDrained e b d p v)
      (stageDone d p u) := by
  have hd := getDesc_blockDrained hx hq hr
  have hp := congrArg (Option.getD · {}) (withPart_part { q with flags := Flags.join q.flags u.flags, progress := q.progress + 1 } hq)
  unfold blockDrained at hd
  unfold drainComplete
  simp only [hk, ho, hx]
  rw [onPart_ok hr]
  simp only [onDev, hd, List.getD_eq_getElem?_getD, hp]
  rfl

theorem drainComplete_leaves {s : State} {g : Engine} (hs : Memory.wf s = true) (hw : u.wiped = .none)
    (hl : s.dev.power.lost = .none) (hp : u.dev.power = s.dev.power) (hg : EngineChanged e s.dev w.dev g)
    (hk : (getBank (getEngine w.dev e) b).phase = .draining) (ho : (getBank (getEngine w.dev e) b).owner = some (d, p)) :
    let t := commit s (drainComplete e b w)
    StoredBy s t u.stores ∧ EngineChanged e s.dev t.dev (setBank b { order := (getBank g b).order } g) ∧
      getDesc t.dev d = some (withPart p (drainedPart (blockCount x p) { q with flags := Flags.join q.flags u.flags }) x) ∧
      ∀ i, i ≠ d → getDesc t.dev i = getDesc w.dev i := by
  have hu : unitsOf u.dev = unitsOf w.dev := drainBody_keeps _ _ _ _ _ { w with dest := [], snooped := [], flags := {} } _ _ hr
  have hgu := ((hg.of_units hu hp).stageDone (d := d) (p := p))
  have hd := getDesc_blockDrained hx hq hr
  have hch : EngineChanged e s.dev (blockDrained e b d p (stageDone d p u).dev) (setBank b { order := (getBank g b).order } g) :=
    (hgu.modBank b fun k => { order := k.order }).bankSweep.congr rfl rfl rfl rfl
  have other (i : Nat) (hi : i ≠ d) : getDesc (blockDrained e b d p (stageDone d p u).dev) i = getDesc w.dev i :=
    (getDesc_modPart d i p _ _).trans ((if_neg hi).trans ((getDesc_stageDone_other p u hi).trans (getDesc_of_units hu i)))
  rw [drainComplete_drains hx hq hr hk ho]
  unfold drainedPart
  by_cases last : blockCount x p ≤ q.progress + 1
  · simp only [if_pos last]
    obtain ⟨hst, hch⟩ := stageDone_committed hs hw hl
      (f := fun v => endPart d p stSuccess 0 fNone (blockDrained e b d p v)) (hch.endPart 0 fNone (by decide))
    refine ⟨hst, hch, (getDesc_breakReserved _ _ _).trans ?_, fun i hi => (getDesc_breakReserved _ _ _).trans ?_⟩
    · exact (endPart_success hd (withPart_part _ hq)).trans (congrArg some (withPart_withPart ..))
    · exact ((partEnded_endPart 0 fNone _ (by decide)).2.1 i hi).trans (other i hi)
  · simp only [if_neg last]
    obtain ⟨hst, hch⟩ := stageDone_committed hs hw hl (f := blockDrained e b d p) hch
    exact ⟨hst, hch, (getDesc_breakReserved _ _ _).trans hd, fun i hi => (getDesc_breakReserved _ _ _).trans (other i hi)⟩

end

/-- A gather's parts stand behind those that wait (R168). -/
def promotedEngine (d : Nat) (g : Engine) : Engine :=
  { g with queue := g.queue.filter (fun q => q.d ≠ d) ++ g.queue.filter (fun q => q.d = d) }

theorem gatherPromote_promotes {d : Nat} {x : Desc} {v : Dev} (hx : getDesc v d = some x) (hc : x.cls = 3) (ho : onEngine x = true)
    (hp : x.promoted = false) (ht : fieldOf x 64 8 ≤ since v x.time) : gatherPromote d v =
      { modDesc d (fun x => { x with promoted := true }) v with
        engines := tabMap {} (fun _ => promotedEngine d) v.engines } := by
  unfold gatherPromote
  simp only [hx]
  exact if_pos (by simp [hc, ho, hp, ht])

end Sys2Proof.Machine
end

section
/-! Engine events as commands: a pass boundary that loads a tile, an exchange that runs its pass, and the obligation of the
engines' passes, closes and drains. -/

namespace Sys2Proof.Machine

open Sys2Proof

/-! ### An engine that has loaded a tile (R84, R101, R380) -/

/-- An engine whose part has loaded the first tile of a block, in full where it has run another part before. -/
def loadedEngine (b : Nat) (x : Desc) (q : EngPart) (st : StatSet) (sa sb : W32) (g : Engine) : Engine :=
  { takenEngine b x q sa sb (begunEngine q g) with shadow := { st with full := g.current ≠ some (q.d, q.p) } }

section
variable (b : Nat) (x : Desc) (q : EngPart) (st : StatSet) (sa sb : W32) (g : Engine)

theorem begunEngine_banks (b : Nat) : getBank (begunEngine q g) b = getBank g b := by
  unfold begunEngine
  split <;> rfl

theorem begunEngine_keeps : (begunEngine q g).active = g.active ∧ (begunEngine q g).closes = g.closes := by
  unfold begunEngine
  split <;> exact ⟨rfl, rfl⟩

theorem findPart_begunEngine (h : findPart g q.d q.p = some q) :
    findPart (begunEngine q g) q.d q.p = some { q with started := true } := by
  unfold begunEngine
  by_cases hs : q.started = true
  · refine ((congrArg (fun y => findPart y q.d q.p) (if_pos hs)).trans h).trans ?_
    rw [← hs]
  · refine (congrArg (fun y => findPart y q.d q.p) (if_neg hs)).trans ?_
    rw [findPart_withEntry (f := fun y => { y with started := true }) (fun _ => ⟨rfl, rfl⟩), h]
    rfl

theorem loadedEngine_current : (loadedEngine b x q st sa sb g).current = some (q.d, q.p) := setBank_current ..

theorem loadedEngine_active : (loadedEngine b x q st sa sb g).active = g.active :=
  (setBank_active ..).trans (begunEngine_keeps q g).1

theorem loadedEngine_closes : (loadedEngine b x q st sa sb g).closes = g.closes :=
  (setBank_closes ..).trans (begunEngine_keeps q g).2

theorem findPart_loadedEngine (h : findPart g q.d q.p = some q) : findPart (loadedEngine b x q st sa sb g) q.d q.p =
    some { q with started := true, bank := some b, tile := 0, scaleA := sa, scaleB := sb } := by
  refine (findPart_withEntry (f := fun y => { y with bank := some b, tile := 0, scaleA := sa, scaleB := sb })
    (fun _ => ⟨rfl, rfl⟩) _ _ _).trans ?_
  rw [findPart_setBank, findPart_begunEngine q g h]
  rfl

theorem getBank_loadedEngine : getBank (loadedEngine b x q st sa sb g) b = takenBank x q (getBank g b) := by
  refine (getBank_setBank_same ..).trans ?_
  rw [begunEngine_banks]

theorem getBank_loadedEngine_other (h : b < 2) : getBank (loadedEngine b x q st sa sb g) (1 - b) = getBank g (1 - b) :=
  (getBank_setBank_other _ _ h).trans (begunEngine_banks ..)

end

section
variable {e b : Nat} {x : Desc} {q : EngPart} {st : StatSet} {sa sb : W32} {w : Work} {s : State}

theorem loadBody_begun_keeps (hr : (loadBody e x q).run (onDev (begun e q) (workOf s)) = (.ok (st, sa, sb), w)) :
    w.stores = [] ∧ unitsOf w.dev = unitsOf (begun e q s.dev) := Prod.mk.inj (loadBody_reads e x q _ _ _ hr)

/-- A pass boundary at which a part's new block takes its bank and loads its first tile. -/
theorem passBoundary_loads (hs : Memory.wf s = true) (he : tabWf {} s.dev.engines = true) (hw : w.wiped = .none)
    (hl : s.dev.power.lost = .none) (hp : w.dev.power = s.dev.power) (hq : pickPart s.dev e (getEngine s.dev e) = some q)
    (hx : getDesc s.dev q.d = some x) (hb : q.bank = none) (hf : bankFor s.dev (getEngine s.dev e) x q = some b)
    (hm : mustWait s.dev q = none)
    (hr : (loadBody e x q).run (onDev (begun e q) (workOf s)) = (.ok (st, sa, sb), w)) (hst : st.loaded = true)
    (hn : ∀ u, (loadBody e x q).run (workOf s) ≠ (.error .wait, u)) :
    let t := commit s (passBoundary e (workOf s))
    StoredBy s t w.stores ∧ EngineChanged e s.dev t.dev (loadedEngine b x q st sa sb (getEngine s.dev e)) := by
  have loaded := (((begun_changes q he).of_units (loadBody_begun_keeps hr).2 hp).stageDone (d := q.d) (p := q.p)).takeBank b x q sa sb
  rw [passBoundary_takes (w := workOf s) hq hx, takeBoundary_loads (w := workOf s) hb hf hm hr hst hn]
  exact stageDone_committed hs hw hl (loaded.mod _)

end

/-! ### The second pass of a backward pair (R211) -/

/-- A pass boundary at which a part's second pass runs. -/
theorem passBoundary_second {e b : Nat} {x : Desc} {q : EngPart} {s : State}
    (hq : pickPart s.dev e (getEngine s.dev e) = some q) (hx : getDesc s.dev q.d = some x) (hs : q.started = true)
    (hb : q.bank = some b) (h2 : q.second = true) (hh : holdsTile (getEngine s.dev e).active q = true) :
    passBoundary e (workOf s) = runPass e b x q (getEngine s.dev e).active false
      (onDev (modEngine e (fun g => { g with current := some (q.d, q.p) })) (workOf s)) :=
  (passBoundary_takes (w := workOf s) hq hx).trans (takeBoundary_second hs hb h2 hh)

/-! ### A closed bank's engine (R108) -/

section
variable (b d p : Nat) (last : Prop) [Decidable last] (g : Engine)

theorem getBank_closedEngine : getBank (closedEngine b d p last g) b = closedBank g.closes (getBank g b) := by
  unfold closedEngine
  split <;> exact getBank_setBank_same ..

theorem getBank_closedEngine_other (h : b < 2) : getBank (closedEngine b d p last g) (1 - b) = getBank g (1 - b) := by
  unfold closedEngine
  split <;> exact getBank_setBank_other _ _ h

theorem closedEngine_closes : (closedEngine b d p last g).closes = g.closes + 1 := by
  unfold closedEngine
  split <;> exact congrArg (· + 1) (setBank_closes ..)

theorem closedEngine_queue : (closedEngine b d p last g).queue =
    if last then g.queue.filter (fun r => !(r.d = d && r.p = p)) else g.queue := by
  unfold closedEngine
  split
  · exact congrArg (List.filter _) (setBank_queue ..)
  · exact setBank_queue ..

end

/-! ### Parts that drain (R110) -/

theorem drainedPart_progress (n : Nat) (q : Part) : (drainedPart n q).progress = q.progress + 1 := by
  unfold drainedPart
  split <;> rfl

theorem drainedPart_of_lt {n : Nat} {q : Part} (h : q.progress + 1 < n) :
    (drainedPart n q).state = q.state ∧ (drainedPart n q).status = q.status := by
  rw [drainedPart, if_neg (Nat.not_le.mpr h)]
  exact ⟨rfl, rfl⟩

theorem drainedPart_of_le {n : Nat} {q : Part} (h : n ≤ q.progress + 1) :
    (drainedPart n q).state = .ended ∧ (drainedPart n q).status = stSuccess := by
  rw [drainedPart, if_pos h]
  exact ⟨rfl, rfl⟩

/-! ### The obligation -/

/-- Settles O48: each event is a chain of changes of one engine, and the stages of a pass keep the engines, the rings, the contexts
and the descriptors. -/
theorem enginesPassCloseAndDrain : Obligations.EnginesPassCloseAndDrain := by
  unfold Obligations.EnginesPassCloseAndDrain
  refine ⟨⟨?idle, ?load, ?exchange, ?second⟩, ?close, ?drain, ?write, ?promote⟩
  case idle =>
    intro e s h
    exact runWork_unchanged (passBoundary_none h)
  case load =>
    intro e q x b st sa sb w s hs he hw hl hp g hq hx hb hf hb2 hm hfind hr hst hn
    have none_stored := (loadBody_begun_keeps hr).1
    obtain ⟨stored, now⟩ := passBoundary_loads hs he hw hl hp hq hx hb hf hm hr hst hn
    rw [none_stored] at stored
    refine ⟨none_stored, _, rfl, stored, ?_⟩
    dsimp only
    rw [now.here, getBank_loadedEngine, getBank_loadedEngine_other _ _ _ _ _ _ _ hb2]
    refine ⟨loadedEngine_current .., rfl, loadedEngine_active .., loadedEngine_closes .., findPart_loadedEngine _ _ _ _ _ _ _ hfind,
      rfl, rfl, rfl, rfl, rfl, ?_, rfl, now.other, now.rings, now.ctxs⟩
    simp [takenBank, and_assoc, g]
  case exchange =>
    intro e q x b j blk k w s hs he hw hl hp hb2 g st hst hf hx hb hc hblock htile h0 h1 hr
    obtain ⟨hd, hpart⟩ := findPart_key hf
    have hex : exec (.shadowExchange e) s = .next (commit s (runPass e b x q st true (workOf s))) :=
      runWork_eq (exchange_runs rfl hf hx hb hc (holdsTile_of hst hd hpart hblock htile) h0 h1)
    have storeless (h2 : q.second = false) : w.stores = [] := congrArg Prod.fst (passBody_reads h2 _ _ _ hr)
    refine ⟨storeless, fun hgo => ?_, fun r hlast hkeep hpair h2 hpr => ?_⟩
    · obtain ⟨g', stored, now, ha, hsh, hcur, hk, ho, hq'⟩ := runPass_goesOn (w := workOf s) hs hw hl hp hb2
        (EngineChanged.refl he) (hd ▸ hpart ▸ hf) (hd ▸ hx) hr hgo
      refine ⟨_, hex, stored, ?_⟩
      dsimp only
      rw [now.here]
      exact ⟨ha, hsh, hcur, hk, ho, hd ▸ hpart ▸ hq', now.other, now.rings, now.ctxs⟩
    · obtain ⟨g', r', stored, now, ha, hsh, hcur, hk, ho, hqueue, hdesc, hstate, hstatus, hflags⟩ := runPass_keeps (w := workOf s)
        hs hw hl hp hb2 (EngineChanged.refl he) (hd ▸ hx) hr hlast hkeep hpair (hpart ▸ hpr)
      rw [storeless h2] at stored
      rw [hd, hpart] at hcur hqueue hdesc
      refine ⟨_, r', hex, stored, ?_⟩
      dsimp only
      rw [now.here]
      refine ⟨ha, hsh, hcur.trans ?_, hk, ho, hqueue, hdesc, hstate, hstatus, hflags, now.other, now.rings, now.ctxs⟩
      rw [show (getEngine s.dev e).current = _ from hc]
      simp
  case second =>
    intro e q x b j blk k w s hs he hw hl hp hb2 g hq hf hx hb hstart h2 hh hr hgo
    obtain ⟨g', stored, now, ha, hsh, hcur, hk, ho, hq'⟩ := runPass_goesOn
      (w := onDev (modEngine e (fun g => { g with current := some (q.d, q.p) })) (workOf s)) hs hw hl hp hb2
      ((EngineChanged.refl he).mod fun g => { g with current := some (q.d, q.p) }) hf hx hr hgo
    refine ⟨_, runWork_eq (passBoundary_second hq hx hstart hb h2 hh), stored, ?_⟩
    dsimp only
    rw [now.here]
    exact ⟨ha, hsh, hcur, hk, ho, hq', now.other, now.rings, now.ctxs⟩
  case close =>
    intro e b d p q x s he g k hk ho hf hx hq hc
    have now := bankClose_changes hk ho hf hx hq hc he
    refine ⟨_, rfl, congrArg (fun v => { s with dev := v }) (bankClose_only hk ho hf hx hq hc), ?_⟩
    dsimp only
    rw [now.here, getBank_closedEngine, getBank_closedEngine_other _ _ _ _ _ b.isLt, closedEngine_closes, closedEngine_queue]
    exact ⟨rfl, rfl, rfl, rfl, now.other⟩
  case drain =>
    intro e b s g k o hk hd ho
    exact runDev_eq (treeEmpty_drains hk hd ho)
  case write =>
    intro e b d p x q w s hs he hw hl hp g k hk ho hx hq hr
    obtain ⟨stored, now, hd, hother⟩ := drainComplete_leaves (w := workOf s) hx hq hr hs hw hl hp
      (EngineChanged.refl he) hk ho
    have mine := congrArg (getBank · b.val) now.here
    have others := congrArg (getBank · (1 - b.val)) now.here
    exact ⟨_, _, rfl, stored, mine.trans (getBank_setBank_same ..), others.trans (getBank_setBank_other _ _ b.isLt), now.other, hd,
      drainedPart_progress .., drainedPart_of_lt (q := { q with flags := Flags.join q.flags w.flags }),
      drainedPart_of_le (q := { q with flags := Flags.join q.flags w.flags }), hother, now.rings, now.ctxs⟩
  case promote =>
    intro d x s he hx hc ho hp ht
    refine ⟨_, runDev_eq (gatherPromote_promotes hx hc ho hp ht), ?_, fun i hi => ?_, fun e => ?_, rfl⟩
    · refine (getDesc_modDesc d d (fun x => { x with promoted := true }) (fun _ => rfl) s.dev).trans ?_
      rw [if_pos rfl, hx]
      rfl
    · refine (getDesc_modDesc d i (fun x => { x with promoted := true }) (fun _ => rfl) s.dev).trans ?_
      rw [if_neg hi]
    · exact getEngine_tabMap (v := s.dev) (promotedEngine d) rfl he e

end Sys2Proof.Machine
end

section
/-! Element functions on exact values (R151, R152): each operation on values is the operation on the rational numbers that they are, and
division differs from the quotient by less than its sticky bit. -/

namespace Sys2Proof.Machine

open Sys2Proof

/-! ### The rational number of a value -/

theorem exists_num_of_isFinite {a : Val} (h : a.isFinite = true) : ∃ n m e, a = .num n m e := by
  cases a with
  | num n m e => exact ⟨n, m, e, rfl⟩
  | nan n => exact nomatch h
  | inf n => exact nomatch h

theorem ratOf_num (n : Bool) (m : Nat) (e : Int) : ratOf (.num n m e) = (sgn n m : ℚ) * 2 ^ e := rfl

@[simp] theorem ratOf_vZero : ratOf vZero = 0 := by simp [vZero, ratOf_num, sgn]

@[simp] theorem ratOf_vOne : ratOf vOne = 1 := by simp [vOne, ratOf_num, sgn]

theorem sgn_eq_mul (n : Bool) (m : Nat) : sgn n m = sgn n 1 * m := by
  cases n <;> simp [sgn]

theorem sgn_not (n : Bool) (m : Nat) : sgn (!n) m = -sgn n m := by
  cases n <;> simp [sgn]

theorem sgn_bne (n k : Bool) (m : Nat) : sgn (n != k) m = sgn n 1 * sgn k 1 * m := by
  cases n <;> cases k <;> simp [sgn]

theorem abs_sgn (n : Bool) (m : Nat) : |(sgn n m : ℚ)| = m := by
  cases n <;> simp [sgn]

@[simp] theorem sgn_natAbs (i : Int) : sgn (decide (i < 0)) i.natAbs = i := by
  unfold sgn
  split
  next h => have := of_decide_eq_true h; omega
  next h => have := of_decide_eq_false (Bool.not_eq_true _ ▸ h); omega

theorem ratOf_neg (a : Val) : ratOf a.neg = -ratOf a := by
  cases a with
  | num n m e => simp [Val.neg, ratOf_num, sgn_not]
  | nan n => exact neg_zero.symm
  | inf n => exact neg_zero.symm

theorem ratOf_abs (a : Val) : ratOf a.abs = |ratOf a| := by
  cases a with
  | num n m e =>
    rw [Val.abs, ratOf_num, ratOf_num, abs_mul, abs_sgn, abs_of_pos (zpow_pos two_pos e)]
    simp [sgn]
  | nan n => exact abs_zero.symm
  | inf n => exact abs_zero.symm

theorem ratOf_vDy (i e : Int) : ratOf (vDy i e) = i * 2 ^ e := by simp [vDy, ratOf_num]

theorem isZero_iff {a : Val} (h : a.isFinite = true) : a.isZero = true ↔ ratOf a = 0 := by
  obtain ⟨n, m, e, rfl⟩ := exists_num_of_isFinite h
  rw [ratOf_num, sgn_eq_mul]
  cases n <;> simp [Val.isZero, sgn, zpow_ne_zero]

theorem isNan_of_isFinite {a : Val} (h : a.isFinite = true) : a.isNan = false := by
  obtain ⟨n, m, e, rfl⟩ := exists_num_of_isFinite h
  rfl

/-! ### Sums and products -/

/-- A magnitude shifted to a lower exponent is the same number. -/
theorem sgn_shl (n : Bool) (m : Nat) {e e' : Int} (h : e' ≤ e) :
    (sgn n (shl m (e - e')) : ℚ) * 2 ^ e' = (sgn n m : ℚ) * 2 ^ e := by
  have hk : ((e - e').toNat : Int) = e - e' := Int.toNat_of_nonneg (by omega)
  rw [sgn_eq_mul n (shl m (e - e')), sgn_eq_mul n m, shl]
  push_cast
  rw [mul_assoc, mul_assoc, mul_assoc, ← zpow_natCast, hk, ← zpow_add₀ two_ne_zero, sub_add_cancel, ← mul_assoc]

theorem sumDy_eq_add (n1 : Bool) (m1 : Nat) (e1 : Int) (n2 : Bool) (m2 : Nat) (e2 : Int) :
    ((sumDy n1 m1 e1 n2 m2 e2).1 : ℚ) * 2 ^ (sumDy n1 m1 e1 n2 m2 e2).2 = ratOf (.num n1 m1 e1) + ratOf (.num n2 m2 e2) := by
  unfold sumDy
  split
  next h => simp [ratOf_num, h, sgn]
  next =>
    split
    next h => simp [ratOf_num, h, sgn]
    next =>
      dsimp only
      rw [Int.cast_add, add_mul, sgn_shl n1 m1 (min_le_left ..), sgn_shl n2 m2 (min_le_right ..)]
      rfl

variable {a b : Val}

theorem ratOf_addV (ha : a.isFinite = true) (hb : b.isFinite = true) : ratOf (addV a b) = ratOf a + ratOf b := by
  obtain ⟨n1, m1, e1, rfl⟩ := exists_num_of_isFinite ha
  obtain ⟨n2, m2, e2, rfl⟩ := exists_num_of_isFinite hb
  rw [← sumDy_eq_add]
  unfold addV
  dsimp only
  split
  next h => simp [ratOf_num, sgn, h]
  next => exact ratOf_vDy ..

theorem addV_isFinite (ha : a.isFinite = true) (hb : b.isFinite = true) : (addV a b).isFinite = true := by
  obtain ⟨n1, m1, e1, rfl⟩ := exists_num_of_isFinite ha
  obtain ⟨n2, m2, e2, rfl⟩ := exists_num_of_isFinite hb
  unfold addV
  dsimp only
  split <;> rfl

theorem neg_isFinite (ha : a.isFinite = true) : a.neg.isFinite = true := by
  obtain ⟨n, m, e, rfl⟩ := exists_num_of_isFinite ha
  rfl

theorem abs_isFinite (ha : a.isFinite = true) : a.abs.isFinite = true := by
  obtain ⟨n, m, e, rfl⟩ := exists_num_of_isFinite ha
  rfl

theorem subV_eq_addV (hb : b.isFinite = true) : subV a b = addV a b.neg := by
  obtain ⟨n, m, e, rfl⟩ := exists_num_of_isFinite hb
  rfl

theorem ratOf_subV (ha : a.isFinite = true) (hb : b.isFinite = true) : ratOf (subV a b) = ratOf a - ratOf b := by
  rw [subV_eq_addV hb, ratOf_addV ha (neg_isFinite hb), ratOf_neg, sub_eq_add_neg]

theorem ratOf_mulV (ha : a.isFinite = true) (hb : b.isFinite = true) : ratOf (mulV a b) = ratOf a * ratOf b := by
  obtain ⟨n1, m1, e1, rfl⟩ := exists_num_of_isFinite ha
  obtain ⟨n2, m2, e2, rfl⟩ := exists_num_of_isFinite hb
  unfold mulV
  simp only [ratOf_num]
  rw [sgn_bne, sgn_eq_mul n1 m1, sgn_eq_mul n2 m2, zpow_add₀ two_ne_zero]
  push_cast
  ring

theorem mulV_isFinite (ha : a.isFinite = true) (hb : b.isFinite = true) : (mulV a b).isFinite = true := by
  obtain ⟨n1, m1, e1, rfl⟩ := exists_num_of_isFinite ha
  obtain ⟨n2, m2, e2, rfl⟩ := exists_num_of_isFinite hb
  rfl

/-! ### Order -/

/-- The order of two finite values that are not both zero is that of their numbers. -/
theorem ltV_iff (ha : a.isFinite = true) (hb : b.isFinite = true) (h : (a.isZero && b.isZero) = false) :
    ltV a b = true ↔ ratOf a < ratOf b := by
  obtain ⟨n1, m1, e1, rfl⟩ := exists_num_of_isFinite ha
  obtain ⟨n2, m2, e2, rfl⟩ := exists_num_of_isFinite hb
  have hz : (decide (m1 = 0) && decide (m2 = 0)) = false := h
  have hs := sumDy_eq_add n1 m1 e1 (!n2) m2 e2
  have hn : ratOf (.num (!n2) m2 e2) = -ratOf (.num n2 m2 e2) := ratOf_neg (.num n2 m2 e2)
  have hp : (0 : ℚ) < 2 ^ (sumDy n1 m1 e1 (!n2) m2 e2).2 := zpow_pos two_pos _
  unfold ltV
  simp only [hz, Bool.false_eq_true, if_false, decide_eq_true_eq]
  rw [← sub_neg (a := ratOf _), sub_eq_add_neg, ← hn, ← hs, mul_neg_iff]
  simp [hp, hp.not_gt]

theorem zero_of_bothZero (ha : a.isFinite = true) (hb : b.isFinite = true) (h : (a.isZero && b.isZero) = true) :
    ratOf a = 0 ∧ ratOf b = 0 := by
  rw [Bool.and_eq_true] at h
  exact ⟨(isZero_iff ha).mp h.1, (isZero_iff hb).mp h.2⟩

theorem gtV_iff (ha : a.isFinite = true) (hb : b.isFinite = true) : gtV a b = true ↔ ratOf b < ratOf a := by
  unfold gtV
  split
  next h =>
    obtain ⟨hx, hy⟩ := zero_of_bothZero ha hb h
    simp [hx, hy]
  next h => exact ltV_iff hb ha (by rw [Bool.and_comm]; exact Bool.not_eq_true _ ▸ h)

theorem le_of_ltV (ha : a.isFinite = true) (hb : b.isFinite = true) (h : ltV a b = true) : ratOf a ≤ ratOf b := by
  cases hz : a.isZero && b.isZero with
  | true =>
    obtain ⟨hx, hy⟩ := zero_of_bothZero ha hb hz
    rw [hx, hy]
  | false => exact ((ltV_iff ha hb hz).mp h).le

theorem le_of_not_ltV (ha : a.isFinite = true) (hb : b.isFinite = true) (h : ¬ ltV a b = true) : ratOf b ≤ ratOf a := by
  cases hz : a.isZero && b.isZero with
  | true =>
    obtain ⟨hx, hy⟩ := zero_of_bothZero ha hb hz
    rw [hx, hy]
  | false => exact not_lt.mp (h ∘ (ltV_iff ha hb hz).mpr)

theorem nanOf_finite (ha : a.isFinite = true) (hb : b.isFinite = true) : nanOf a b = none := by
  obtain ⟨n1, m1, e1, rfl⟩ := exists_num_of_isFinite ha
  obtain ⟨n2, m2, e2, rfl⟩ := exists_num_of_isFinite hb
  rfl

theorem maxV_finite (ha : a.isFinite = true) (hb : b.isFinite = true) : maxV a b = if ltV a b then b else a := by
  rw [maxV, nanOf_finite ha hb]
  rfl

theorem minV_finite (ha : a.isFinite = true) (hb : b.isFinite = true) : minV a b = if ltV b a then b else a := by
  rw [minV, nanOf_finite ha hb]
  rfl

theorem ratOf_maxV (ha : a.isFinite = true) (hb : b.isFinite = true) : ratOf (maxV a b) = max (ratOf a) (ratOf b) := by
  rw [maxV_finite ha hb]
  split
  next h => exact (max_eq_right (le_of_ltV ha hb h)).symm
  next h => exact (max_eq_left (le_of_not_ltV ha hb h)).symm

theorem ratOf_minV (ha : a.isFinite = true) (hb : b.isFinite = true) : ratOf (minV a b) = min (ratOf a) (ratOf b) := by
  rw [minV_finite ha hb]
  split
  next h => exact (min_eq_right (le_of_ltV hb ha h)).symm
  next h => exact (min_eq_left (le_of_not_ltV hb ha h)).symm

theorem ite_isFinite {c : Prop} [Decidable c] (ha : a.isFinite = true) (hb : b.isFinite = true) :
    (if c then a else b).isFinite = true := by
  split
  · exact ha
  · exact hb

/-! ### Division -/

/-- A quotient to `k` bits with a sticky bit is within one unit of its last place, which is that of bit `k + 1`, of the exact one, and
equal to it where nothing is left over (R59). -/
theorem sticky_close (m1 k : Nat) {m2 : Nat} (h : m2 ≠ 0) :
    |((2 * (m1 * 2 ^ k / m2) + (if m1 * 2 ^ k % m2 = 0 then 0 else 1) : Nat) : ℚ) * (1 / 2 ^ (k + 1)) - m1 / m2| ≤
      if m1 = 0 then 0 else 1 / 2 ^ (k + 1) := by
  have hm : (0 : ℚ) < m2 := by exact_mod_cast Nat.pos_of_ne_zero h
  have hdiv : (m2 : ℚ) * (m1 * 2 ^ k / m2 : Nat) + (m1 * 2 ^ k % m2 : Nat) = m1 * 2 ^ k := by
    exact_mod_cast Nat.div_add_mod (m1 * 2 ^ k) m2
  have hlt := Nat.mod_lt (m1 * 2 ^ k) (Nat.pos_of_ne_zero h)
  have hzero : m1 = 0 → m1 * 2 ^ k % m2 = 0 := fun h0 => by rw [h0, Nat.zero_mul, Nat.zero_mod]
  generalize m1 * 2 ^ k % m2 = r at *
  generalize m1 * 2 ^ k / m2 = q at *
  have hq : (m1 : ℚ) / m2 = (2 * q + 2 * r / m2) * (1 / 2 ^ (k + 1)) := by
    field_simp
    rw [pow_succ]
    linear_combination (-2 : ℚ) * hdiv
  have hdist : ((2 * q + (if r = 0 then 0 else 1) : Nat) : ℚ) * (1 / 2 ^ (k + 1)) - m1 / m2 =
      ((if r = 0 then 0 else 1) - 2 * r / m2) * (1 / 2 ^ (k + 1)) := by
    rw [hq]
    push_cast
    ring
  rw [hdist]
  by_cases h0 : r = 0
  · rw [if_pos h0, h0, Nat.cast_zero, mul_zero, zero_div, sub_zero, zero_mul, abs_zero]
    split
    · exact le_rfl
    · positivity
  · rw [if_neg h0, if_neg (mt hzero h0), abs_mul, abs_of_pos (a := (1 : ℚ) / 2 ^ (k + 1)) (by positivity)]
    refine mul_le_of_le_one_left (by positivity) (abs_le.mpr ⟨?_, ?_⟩)
    · rw [neg_le_sub_iff_le_add, div_le_iff₀ hm]
      have hr : (r : ℚ) < m2 := by exact_mod_cast hlt
      linarith
    · rw [sub_le_self_iff]
      positivity

/-- The model's quotient has 640 bits beyond its divisor's. -/
theorem quotMag_close (m1 : Nat) {m2 : Nat} (h : m2 ≠ 0) :
    |((quotMag m1 m2).1 : ℚ) * 2 ^ (quotMag m1 m2).2 - m1 / m2| ≤ m1 / m2 / 2 ^ 600 := by
  have hlog : (m2 : ℚ) ≤ 2 ^ (Nat.log2 m2 + 1) := by exact_mod_cast (Nat.lt_log2_self (n := m2)).le
  unfold quotMag
  generalize hk : 640 + Nat.log2 m2 = k
  have hexp : (2 : ℚ) ^ (-(k : Int) - 1) = 1 / 2 ^ (k + 1) := by
    rw [show -(k : Int) - 1 = -((k + 1 : Nat) : Int) by push_cast; ring, zpow_neg, zpow_natCast, one_div]
  have hfar : (m2 : ℚ) * 2 ^ 600 ≤ 2 ^ (k + 1) := by
    rw [show k + 1 = (Nat.log2 m2 + 1) + 40 + 600 by omega, pow_add, pow_add]
    gcongr
    exact hlog.trans (le_mul_of_one_le_right (by positivity) (by norm_num))
  have hm : (0 : ℚ) < m2 := by exact_mod_cast Nat.pos_of_ne_zero h
  simp only [hexp]
  refine (sticky_close m1 k h).trans ?_
  split
  next => positivity
  next h0 =>
    have hm1 : (1 : ℚ) ≤ m1 := by exact_mod_cast Nat.pos_of_ne_zero h0
    calc (1 : ℚ) / 2 ^ (k + 1) ≤ m1 * (1 / (m2 * 2 ^ 600)) :=
          (one_div_le_one_div_of_le (by positivity) hfar).trans (le_mul_of_one_le_left (by positivity) hm1)
      _ = m1 / m2 / 2 ^ 600 := by rw [mul_one_div, div_div]

theorem divV_close (ha : a.isFinite = true) (hb : b.isFinite = true) (h0 : ratOf b ≠ 0) :
    |ratOf (divV a b) - ratOf a / ratOf b| ≤ |ratOf a / ratOf b| / 2 ^ 600 := by
  obtain ⟨n1, m1, e1, rfl⟩ := exists_num_of_isFinite ha
  obtain ⟨n2, m2, e2, rfl⟩ := exists_num_of_isFinite hb
  have hm : m2 ≠ 0 := fun h => h0 ((isZero_iff hb).mp (decide_eq_true h))
  have hs : ((sgn n2 1 : ℤ) : ℚ)⁻¹ = sgn n2 1 := by cases n2 <;> simp [sgn]
  have hdiv : ratOf (divV (.num n1 m1 e1) (.num n2 m2 e2)) =
      sgn n1 1 * sgn n2 1 * 2 ^ (e1 - e2) * ((quotMag m1 m2).1 * 2 ^ (quotMag m1 m2).2) := by
    unfold divV
    simp only [if_neg hm, ratOf_num]
    rw [sgn_bne, zpow_add₀ two_ne_zero]
    push_cast
    ring
  have hquot : ratOf (.num n1 m1 e1) / ratOf (.num n2 m2 e2) = sgn n1 1 * sgn n2 1 * 2 ^ (e1 - e2) * (m1 / m2) := by
    rw [ratOf_num, ratOf_num, sgn_eq_mul n1 m1, sgn_eq_mul n2 m2, zpow_sub₀ two_ne_zero]
    push_cast
    rw [div_eq_mul_inv, mul_inv, mul_inv, hs]
    ring
  rw [hdiv, hquot, ← mul_sub]
  generalize ((sgn n1 1 : ℚ) * sgn n2 1 * 2 ^ (e1 - e2)) = c
  rw [abs_mul, abs_mul, mul_div_assoc, abs_of_nonneg (a := (m1 : ℚ) / m2) (by positivity)]
  gcongr
  exact quotMag_close m1 hm

/-! ### NaN operands (R152) -/

/-- A function of two operands that gives a NaN for a NaN in either place. -/
theorem isNan_of_operand {f : Val → Val → Val} (hl : ∀ n b, (f (.nan n) b).isNan = true) (hr : ∀ a n, (f a (.nan n)).isNan = true)
    (h : (a.isNan || b.isNan) = true) : (f a b).isNan = true := by
  have nan_eq : ∀ v : Val, v.isNan = true → ∃ n, v = .nan n := by
    rintro (n | n | _) hv
    · exact ⟨n, rfl⟩
    · exact nomatch hv
    · exact nomatch hv
  rcases (Bool.or_eq_true _ _).mp h with ha | hb
  · obtain ⟨n, rfl⟩ := nan_eq a ha
    exact hl n b
  · obtain ⟨n, rfl⟩ := nan_eq b hb
    exact hr a n

section
variable (h : (a.isNan || b.isNan) = true)
include h

theorem addV_isNan : (addV a b).isNan = true := isNan_of_operand (fun _ _ => rfl) (fun a _ => by cases a <;> rfl) h
theorem subV_isNan : (subV a b).isNan = true :=
  isNan_of_operand (fun _ b => by cases b <;> rfl) (fun a _ => by cases a <;> rfl) h
theorem mulV_isNan : (mulV a b).isNan = true := isNan_of_operand (fun _ _ => rfl) (fun a _ => by cases a <;> rfl) h
theorem divV_isNan : (divV a b).isNan = true := isNan_of_operand (fun _ _ => rfl) (fun a _ => by cases a <;> rfl) h
theorem maxV_isNan : (maxV a b).isNan = true := isNan_of_operand (fun _ _ => rfl) (fun a _ => by cases a <;> rfl) h
theorem minV_isNan : (minV a b).isNan = true := isNan_of_operand (fun _ _ => rfl) (fun a _ => by cases a <;> rfl) h

end

theorem firstNan_none : ∀ {l : List Val}, (∀ v ∈ l, v.isFinite = true) → firstNan l = none
  | [], _ => rfl
  | v :: l, h => by
    rw [firstNan, isNan_of_isFinite (h v List.mem_cons_self)]
    exact firstNan_none fun u hu => h u (List.mem_cons_of_mem _ hu)

/-- Functions that look for the first NaN of their operands (R151). -/
theorem firstNan_isNan (d : Val) : ∀ {l : List Val}, (∃ v ∈ l, v.isNan = true) → ((firstNan l).getD d).isNan = true
  | [], h => by simp at h
  | v :: l, h => by
    rw [firstNan]
    split
    next hv => exact hv
    next hv =>
      obtain ⟨u, hu, hn⟩ := h
      refine firstNan_isNan d ⟨u, (List.mem_cons.mp hu).resolve_left ?_, hn⟩
      rintro rfl
      exact hv hn

theorem firstNan_operand (d : Val) (l : List Val) (h : (a.isNan || b.isNan) = true) :
    ((firstNan (a :: b :: l)).getD d).isNan = true := by
  refine firstNan_isNan d ?_
  rcases (Bool.or_eq_true _ _).mp h with ha | hb
  · exact ⟨a, List.mem_cons_self, ha⟩
  · exact ⟨b, List.mem_cons_of_mem _ List.mem_cons_self, hb⟩

/-! ### The functions of R151 -/

section
variable {c : Val} {i j : Nat} (ha : a.isFinite = true) (hb : b.isFinite = true)
include ha hb

theorem elemFn_fma (hc : c.isFinite = true) : elemFn 0x06 a b c i j = addV (mulV a b) c := by
  change (firstNan [a, b, c]).getD _ = _
  rw [firstNan_none (by simp [ha, hb, hc])]
  rfl

theorem elemFn_axpby (hi : (f32 i).isFinite = true) (hj : (f32 j).isFinite = true) :
    elemFn 0x07 a b c i j = addV (mulV a (f32 i)) (mulV b (f32 j)) := by
  change (firstNan [a, b, f32 i, f32 j]).getD _ = _
  rw [firstNan_none (by simp [ha, hb, hi, hj])]
  rfl

theorem elemFn_select (hc : c.isFinite = true) : elemFn 0x0E a b c i j = if c.isZero then b else a := by
  change (firstNan [a, b, c]).getD _ = _
  rw [firstNan_none (by simp [ha, hb, hc])]
  rfl

theorem elemFn_cmpgt : elemFn 0x0F a b c i j = if gtV a b then vOne else vZero := by
  change (firstNan [a, b]).getD _ = _
  rw [firstNan_none (by simp [ha, hb])]
  rfl

end

theorem elemFn_relu {c : Val} {i j : Nat} (ha : a.isFinite = true) : elemFn 0x25 a b c i j = if gtV a vZero then a else vZero := by
  change (if a.isNan then a else _) = _
  rw [isNan_of_isFinite ha]
  rfl

/-- Settles O37: sums, products and order on values are those of the rational numbers, and a quotient is off by less than its sticky
bit. -/
theorem elementFunctionsAreExact : Obligations.ElementFunctionsAreExact := by
  refine ⟨fun a b c i j ha hb hc hi hj => ⟨rfl, ratOf_neg a, ratOf_abs a, ratOf_addV ha hb, ratOf_subV ha hb, ratOf_mulV ha hb, ?_, ?_,
    divV_close ha hb, ratOf_maxV ha hb, ratOf_minV ha hb, ?_, ?_, ?_, ?_⟩, fun a b c i j h => ?_⟩
  case refine_1 =>
    refine (congrArg ratOf (elemFn_fma ha hb hc)).trans ?_
    rw [ratOf_addV (mulV_isFinite ha hb) hc, ratOf_mulV ha hb]
  case refine_2 =>
    refine (congrArg ratOf (elemFn_axpby ha hb hi hj)).trans ?_
    rw [ratOf_addV (mulV_isFinite ha hi) (mulV_isFinite hb hj), ratOf_mulV ha hi, ratOf_mulV hb hj]
  case refine_3 =>
    refine (congrArg ratOf (elemFn_select ha hb hc)).trans ((apply_ite ..).trans ?_)
    exact if_congr (isZero_iff hc) rfl rfl
  case refine_4 =>
    refine (congrArg ratOf (elemFn_cmpgt ha hb)).trans ((apply_ite ..).trans ?_)
    rw [ratOf_vOne, ratOf_vZero]
    exact if_congr (gtV_iff ha hb) rfl rfl
  case refine_5 =>
    refine (congrArg ratOf (elemFn_relu ha)).trans ?_
    split
    next h => exact (max_eq_left (ratOf_vZero ▸ ((gtV_iff ha rfl).mp h).le)).symm
    next h => exact (ratOf_vZero.trans (max_eq_right (ratOf_vZero ▸ not_lt.mp (h ∘ (gtV_iff ha rfl).mpr))).symm)
  case refine_6 =>
    simp only [List.forall_mem_cons, List.not_mem_nil, false_implies, implies_true, and_true]
    rw [elemFn_fma ha hb hc, elemFn_axpby ha hb hi hj, elemFn_select ha hb hc, elemFn_cmpgt ha hb, elemFn_relu ha]
    refine ⟨ha, neg_isFinite ha, abs_isFinite ha, addV_isFinite ha hb, ?_, mulV_isFinite ha hb, addV_isFinite (mulV_isFinite ha hb) hc,
      addV_isFinite (mulV_isFinite ha hi) (mulV_isFinite hb hj), ?_, ?_, ite_isFinite hb ha, ite_isFinite rfl rfl, ite_isFinite ha rfl⟩
    · exact (congrArg Val.isFinite (subV_eq_addV hb)).trans (addV_isFinite ha (neg_isFinite hb))
    · exact (congrArg Val.isFinite (maxV_finite ha hb)).trans (ite_isFinite hb ha)
    · exact (congrArg Val.isFinite (minV_finite ha hb)).trans (ite_isFinite hb ha)
  case refine_7 =>
    simp only [List.forall_mem_cons, List.not_mem_nil, false_implies, implies_true, and_true]
    exact ⟨addV_isNan h, subV_isNan h, mulV_isNan h, firstNan_operand _ _ h, firstNan_operand _ _ h, divV_isNan h, maxV_isNan h,
      minV_isNan h, firstNan_operand _ _ h, firstNan_operand _ _ h⟩

end Sys2Proof.Machine
end

section
/-! What the stages of a command's work leave, where they succeed and, on a module that holds no uncorrectable word, however they end:
reads leave all but the caches, the link and the counters, and writes leave the stores and the uncorrectable words besides (R256, R310). -/

namespace Sys2Proof.Machine

open Sys2Proof

/-! ### Stages that leave a view of the work, however they end -/

/-- A stop by an uncorrectable error (R256). -/
def Stop.isUe : Stop → Bool
  | .fail st _ => st = stMemoryUe
  | .wait => false

/-- A stage that, where it succeeds on some work, or where the device holds no uncorrectable word, leaves what `f` sees of it; and from
such a device it comes to no uncorrectable word and no stop by one. -/
def LeavesAt {α β : Type} (f : Work → β) (m : Acc α) (w : Work) : Prop :=
  ∀ r u, m.run w = (r, u) → ((∃ a, r = .ok a) ∨ w.dev.ue = []) →
    f u = f w ∧ (w.dev.ue = [] → u.dev.ue = [] ∧ ∀ e, r = .error e → e.isUe = false)

/-- A stage that does so on any work. -/
def Leaves {α β : Type} (f : Work → β) (m : Acc α) : Prop := ∀ w, LeavesAt f m w

section
variable {α β γ δ : Type} {f : Work → γ}

theorem Leaves.okSame {m : Acc α} (h : Leaves f m) : OkSame f m := fun w a u hu => (h w _ u hu (.inl ⟨a, rfl⟩)).1

/-- What sees less. -/
theorem Leaves.comp {m : Acc α} (h : Leaves f m) (g : γ → δ) : Leaves (fun w => g (f w)) m := fun w r u hu hc =>
  ⟨congrArg g (h w r u hu hc).1, (h w r u hu hc).2⟩

theorem leavesAt_of_ok {m : Acc α} {w u : Work} {a : α} (h : m.run w = (.ok a, u)) (hf : f u = f w)
    (hu : w.dev.ue = [] → u.dev.ue = []) : LeavesAt f m w := by
  intro r t ht _
  obtain ⟨rfl, rfl⟩ := Prod.mk.inj (h.symm.trans ht)
  exact ⟨hf, fun hw => ⟨hu hw, fun e he => nomatch he⟩⟩

theorem leaves_pure (a : α) : Leaves f (pure a : Acc α) := fun w => leavesAt_of_ok (acc_pure a w) rfl id

theorem leaves_throw {e : Stop} (h : e.isUe = false) : Leaves f (throw e : Acc α) := by
  rintro w r u ⟨⟩ _
  refine ⟨rfl, fun hw => ⟨hw, ?_⟩⟩
  rintro e' ⟨⟩
  exact h

theorem leavesAt_set {w u : Work} (hf : f u = f w) (hu : w.dev.ue = [] → u.dev.ue = []) : LeavesAt f (set u : Acc PUnit) w :=
  leavesAt_of_ok (acc_set u w) hf hu

theorem leaves_modify {g : Work → Work} (hf : ∀ w, f (g w) = f w) (hu : ∀ w, w.dev.ue = [] → (g w).dev.ue = []) :
    Leaves f (modify g : Acc PUnit) := fun w => leavesAt_of_ok (acc_modify g w) (hf w) (hu w)

theorem leavesAt_bind {m : Acc α} {g : α → Acc β} {w : Work} (hm : LeavesAt f m w)
    (hg : ∀ a u, m.run w = (.ok a, u) → LeavesAt f (g a) u) : LeavesAt f (m >>= g) w := by
  intro r t h hc
  rw [acc_bind] at h
  split at h
  · next a u e =>
    obtain ⟨hu, hclean⟩ := hm _ u e (.inl ⟨a, rfl⟩)
    obtain ⟨ht, hrest⟩ := hg a u e r t h (hc.imp_right fun hw => (hclean hw).1)
    exact ⟨ht.trans hu, fun hw => hrest (hclean hw).1⟩
  · next x u e =>
    obtain ⟨rfl, rfl⟩ := Prod.mk.inj h
    have hw : w.dev.ue = [] := hc.resolve_left fun ⟨_, ha⟩ => nomatch ha
    obtain ⟨hu, hclean⟩ := hm _ u e (.inr hw)
    refine ⟨hu, fun hw => ⟨(hclean hw).1, ?_⟩⟩
    rintro e' ⟨⟩
    exact (hclean hw).2 _ rfl

theorem leaves_bind {m : Acc α} {g : α → Acc β} (hm : Leaves f m) (hg : ∀ a, Leaves f (g a)) : Leaves f (m >>= g) :=
  fun w => leavesAt_bind (hm w) fun a u _ => hg a u

theorem leaves_get_bind {g : Work → Acc α} (h : ∀ w, LeavesAt f (g w) w) : Leaves f (get >>= g) := by
  intro w r u hb
  rw [acc_bind_ok (acc_get w)] at hb
  exact h w r u hb

/-- A check that stops a stage before the rest of it. -/
theorem leaves_guard {c : Prop} {_ : Decidable c} {e : Stop} {g : PUnit → Acc α} (he : e.isUe = false) (h : Leaves f (g ⟨⟩)) :
    Leaves f (if c then throw e >>= g else g ⟨⟩) := by
  split
  · exact leaves_throw he
  · exact h

theorem leaves_ite {c : Prop} {_ : Decidable c} {m n : Acc α} (hm : Leaves f m) (hn : Leaves f n) :
    Leaves f (if c then m else n) := by
  split
  · exact hm
  · exact hn

theorem leaves_mapM {g : α → Acc β} (hg : ∀ a, Leaves f (g a)) : ∀ l : List α, Leaves f (l.mapM g)
  | [] => by rw [List.mapM_nil]; exact leaves_pure _
  | a :: l => by
    rw [List.mapM_cons]
    exact leaves_bind (hg a) fun _ => leaves_bind (leaves_mapM hg l) fun _ => leaves_pure _

theorem leaves_forIn {g : α → β → Acc (ForInStep β)} (hg : ∀ a b, Leaves f (g a b)) : ∀ (l : List α) (b : β), Leaves f (forIn l b g)
  | [], b => by rw [List.forIn_nil]; exact leaves_pure b
  | a :: l, b => by
    rw [List.forIn_cons]
    refine leaves_bind (hg a b) fun r => ?_
    cases r with
    | done c => exact leaves_pure c
    | yield c => exact leaves_forIn hg l c

end

/-! ### Views -/

/-- A device without what a read of memory may change in it: the link's directory and translations, the translation caches and the
counters; and without the counter of free values. -/
def restOf (v : Dev) : Dev := { v with cxl := {}, tlb := [], ctr := {}, free := 0 }

/-- What a read of memory leaves. -/
def readView (w : Work) : Dev × List Store × Wipe := (restOf w.dev, w.stores, w.wiped)

/-- And without the uncorrectable words, which a write may cover (R257). -/
def unwrittenOf (v : Dev) : Dev := { restOf v with ue := [] }

/-- What a write of memory leaves besides the bytes written. -/
def writeView (w : Work) : Dev × List Store × Wipe := (unwrittenOf w.dev, w.stores.filter (fun x => x.space = .flash), w.wiped)

/-- A stage that reads. -/
abbrev LeavesAll {α : Type} (m : Acc α) : Prop := Leaves readView m

/-- A stage that writes memory. -/
abbrev LeavesRest {α : Type} (m : Acc α) : Prop := Leaves writeView m

theorem Leaves.rest {α : Type} {m : Acc α} (h : LeavesAll m) : LeavesRest m :=
  h.comp fun c => ({ c.1 with ue := [] }, c.2.1.filter (fun x => x.space = .flash), c.2.2)

theorem leaves_onDev {g : Dev → Dev} (h : ∀ v, restOf (g v) = restOf v) : LeavesAll (modify (onDev g) : Acc PUnit) :=
  leaves_modify (fun w => congrArg (·, w.stores, w.wiped) (h w.dev)) fun w hw => (congrArg Dev.ue (h w.dev)).trans hw

/-! ### Reads -/

theorem isUe_false {v : Dev} (h : v.ue = []) (a : Nat) : isUe v a = false := by
  rw [isUe, h]
  rfl

theorem snoopGate_leaves (a : Nat) (write : Bool) : LeavesAll (snoopGate a write) := by
  refine leaves_get_bind fun w => ?_
  split
  · exact leaves_pure _ w
  · split
    · exact leaves_throw rfl w
    · exact leavesAt_set rfl id

/-- A read may fail by an uncorrectable word only where there is one. -/
theorem failUe_leavesAt {α : Type} {ctx a b : Nat} {w : Work} (h : isUe w.dev b = true) :
    LeavesAt readView (failUe ctx a : Acc α) w := by
  rintro r u ⟨⟩ (⟨_, ha⟩ | hw)
  · exact nomatch ha
  · rw [isUe_false hw] at h
    exact nomatch h

theorem readPhys_leaves (ctx a : Nat) : LeavesAll (readPhys ctx a) := by
  refine leaves_bind (snoopGate_leaves a false) fun _ => leaves_get_bind fun w => ?_
  split
  next h => exact failUe_leavesAt h
  next => exact leaves_pure _ w

theorem readPhys64_leaves (ctx a : Nat) : LeavesAll (readPhys64 ctx a) :=
  leaves_bind (leaves_mapM (fun i => readPhys_leaves ctx (a + i)) (upto 8)) fun _ => leaves_pure _

theorem walkEntry_leaves (r : Requestor) (va : W64) (lvl table : Nat) (wOk : Bool) : LeavesAll (walkEntry r va lvl table wOk) := by
  unfold walkEntry
  refine leaves_guard rfl (leaves_bind (readPhys64_leaves _ _) fun e => leaves_guard rfl ?_)
  exact leaves_ite (leaves_guard rfl (leaves_pure _)) (leaves_pure _)

theorem walk_leaves (r : Requestor) (va : W64) : ∀ (lvl table : Nat) (ok : Bool), LeavesAll (walk r va lvl table ok)
  | 0, table, ok => by
    refine leaves_bind (walkEntry_leaves r va 0 table ok) fun e => ?_
    split
    · exact leaves_pure _
    · exact leaves_throw rfl
  | l + 1, table, ok => by
    refine leaves_bind (walkEntry_leaves r va (l + 1) table ok) fun e => ?_
    split
    · exact leaves_pure _
    · exact walk_leaves r va l _ _

theorem atsTranslate_leaves (r : Requestor) (va : W64) (ha : Nat) (write : Bool) : LeavesAll (atsTranslate r va ha write) := by
  refine leaves_get_bind fun w => ?_
  split
  · exact leaves_throw rfl w
  · split
    · exact leavesAt_bind (leavesAt_set rfl id) fun _ u _ => leaves_throw rfl u
    · exact leaves_ite (leaves_throw rfl) (leaves_ite (leaves_throw rfl) (leaves_pure _)) w

theorem translate_leaves (r : Requestor) (va : W64) (write : Bool) : LeavesAll (translate r va write) := by
  unfold translate
  extract_lets va48 found looked
  refine leaves_guard rfl ?_
  refine leaves_get_bind fun w => ?_
  extract_lets hit walked
  have hfound : ∀ pg, LeavesAll (found pg) := fun pg =>
    leaves_guard rfl (leaves_ite (leaves_ite (leaves_throw rfl) (atsTranslate_leaves _ _ _ _))
      (leaves_ite (leaves_throw rfl) (leaves_ite (leaves_throw rfl) (leaves_pure _))))
  have hwalked : LeavesAll (walked ()) := by
    refine leaves_bind (walk_leaves _ _ _ _ _) fun pg => ?_
    split
    · exact leaves_bind (leaves_onDev fun _ => rfl) fun _ => leaves_bind (leaves_pure _) hfound
    · exact leaves_bind (leaves_pure _) hfound
  clear_value hit
  cases hit with
  | some t => exact leaves_bind (leaves_pure _) hfound w
  | none =>
    cases r.core with
    | some c => exact leaves_bind (leaves_onDev (g := ctrAdd (0x100 + c) 7 1) fun _ => rfl) (fun _ => hwalked) w
    | none => exact hwalked w

theorem countBytes_rest (ctx : Nat) (t : Target) (v : Dev) : restOf (countBytes ctx t v) = restOf v := by
  unfold countBytes
  repeat' split
  all_goals rfl

theorem readRaw_leaves (r : Requestor) (va : W64) : LeavesAll (readRaw r va) := by
  refine leaves_bind (translate_leaves r va false) fun t => leaves_bind (leaves_onDev (countBytes_rest r.ctx t)) fun _ => ?_
  split
  · exact readPhys_leaves _ _
  · exact leaves_get_bind fun w => leaves_pure _ w

theorem checkTag_leaves (r : Requestor) (va : W64) : LeavesAll (checkTag r va) := by
  unfold checkTag
  split
  · exact leaves_pure _
  · refine leaves_ite (leaves_pure _) ?_
    split
    · exact leaves_pure _
    · exact leaves_guard rfl (leaves_bind (readRaw_leaves _ _) fun b => leaves_ite (leaves_throw rfl) (leaves_pure _))

theorem readByte_leaves (r : Requestor) (va : W64) : LeavesAll (readByte r va) :=
  leaves_bind (checkTag_leaves r va) fun _ => readRaw_leaves r va

theorem readBytes_leaves (r : Requestor) : ∀ (n : Nat) (va : W64), LeavesAll (readBytes r va n)
  | 0, _ => leaves_pure _
  | n + 1, va => leaves_bind (readByte_leaves r va) fun _ => leaves_bind (readBytes_leaves r n (va + 1)) fun _ => leaves_pure _

theorem readNat_leaves (r : Requestor) (va : W64) (n : Nat) : LeavesAll (readNat r va n) :=
  leaves_bind (readBytes_leaves r n va) fun _ => leaves_pure _

theorem readCode_leaves (r : Requestor) (base : W64) (bits : Nat) (off : Int) : LeavesAll (readCode r base bits off) :=
  leaves_ite (readNat_leaves _ _ _) (leaves_bind (readNat_leaves _ _ _) fun _ => leaves_pure _)

theorem readScale_leaves (r : Requestor) (a : W64) : LeavesAll (readScale r a) :=
  leaves_bind (readNat_leaves r a 4) fun _ => leaves_pure _

theorem reqOf_leaves (x : Desc) (r : Requestor) (dests : List Nat) : LeavesAll (reqOf x r dests) :=
  leaves_ite (leaves_pure _) (leaves_bind (readBytes_leaves _ _ _) fun _ => leaves_pure _)

theorem addFlags_leaves (f : Flags) : LeavesAll (addFlags f) := leaves_modify (fun _ => rfl) fun _ => id

theorem markDest_leaves (r : Requestor) (va : W64) (n : Nat) : LeavesAll (markDest r va n) :=
  leaves_modify (fun _ => rfl) fun _ => id

theorem countSteps_leaves (ctx idx : Nat) : LeavesAll (countSteps ctx idx) := leaves_onDev fun _ => rfl

/-! ### Writes -/

theorem poke_view {sp : Space} (h : sp ≠ .flash) (a : Nat) (b : Byte) (w : Work) : writeView (poke sp a b w) = writeView w := by
  simp [writeView, h]

theorem writeRaw_leaves (r : Requestor) (lo hi : Nat) (va : W64) (b : Byte) : LeavesRest (writeRaw r lo hi va b) := by
  refine leaves_bind (translate_leaves r va true).rest fun t =>
    leaves_bind (leaves_onDev (countBytes_rest r.ctx t)).rest fun _ => ?_
  split
  · exact leaves_bind (leaves_modify (poke_view (by decide) _ b) fun _ => id) fun _ => leaves_pure _
  · next a =>
    refine leaves_bind (snoopGate_leaves a true).rest fun _ => leaves_get_bind fun w => ?_
    split
    next hu =>
      extract_lets g start v
      split
      · refine leavesAt_bind (leavesAt_set ?_ fun hw => ?_) fun _ u _ => leaves_pure _ u
        · exact (poke_view (by decide) _ b _).trans (congrArg (·, _, w.wiped) ((apply_ite unwrittenOf _ _ _).trans (ite_self _)))
        · rw [isUe_false hw] at hu
          exact nomatch hu
      · exact leaves_pure _ w
    next => exact leavesAt_bind (leavesAt_set (poke_view (by decide) _ b w) id) fun _ u _ => leaves_pure _ u

/-- Where no word is uncorrectable, a write covers each that it reaches. -/
def CoversAt (m : Acc (Option Nat)) (w : Work) : Prop := w.dev.ue = [] → ∀ o u, m.run w = (.ok o, u) → o = none

theorem coversAt_pure (w : Work) : CoversAt (pure none) w := by
  rintro hw o u ⟨⟩
  rfl

theorem coversAt_bind {α β : Type} {f : Work → β} {m : Acc α} {g : α → Acc (Option Nat)} {w : Work} (hm : LeavesAt f m w)
    (hg : ∀ a u, m.run w = (.ok a, u) → CoversAt (g a) u) : CoversAt (m >>= g) w := by
  intro hw o t h
  rw [acc_bind] at h
  split at h
  · next a u e => exact hg a u e ((hm _ u e (.inl ⟨a, rfl⟩)).2 hw).1 o t h
  · cases h

/-- A write before another stage, the second of which begins where the first has covered all. -/
theorem coversAt_bind_covers {β : Type} {f : Work → β} {m : Acc (Option Nat)} {g : Option Nat → Acc (Option Nat)} {w : Work}
    (hm : LeavesAt f m w) (hc : CoversAt m w) (hg : ∀ u, CoversAt (g none) u) : CoversAt (m >>= g) w := by
  intro hw
  refine coversAt_bind hm (fun o u h => ?_) hw
  obtain rfl := hc hw o u h
  exact hg u

theorem writeRaw_covers (r : Requestor) (lo hi : Nat) (va : W64) (b : Byte) (w : Work) : CoversAt (writeRaw r lo hi va b) w := by
  refine coversAt_bind (translate_leaves r va true w) fun t u1 _ =>
    coversAt_bind (leaves_onDev (countBytes_rest r.ctx t) u1) fun _ u2 _ => ?_
  cases t with
  | host a => exact coversAt_bind (f := writeView) (leaves_modify (poke_view (by decide) _ b) (fun _ => id) u2) fun _ u _ => coversAt_pure u
  | dev a =>
    refine coversAt_bind (snoopGate_leaves a true u2) fun _ u3 _ => coversAt_bind (f := readView) (leavesAt_of_ok (acc_get u3) rfl id) ?_
    rintro w' u4 ⟨⟩ hw
    rw [isUe_false hw]
    exact coversAt_bind (f := writeView) (leavesAt_set (poke_view (by decide) _ b u3) id) (fun _ u _ => coversAt_pure u) hw

theorem clearTag_leaves (r : Requestor) (va : W64) : LeavesRest (clearTag r va) := by
  unfold clearTag
  split
  · exact leaves_pure _
  · refine leaves_ite (leaves_pure _) ?_
    split
    · exact leaves_pure _
    · refine leaves_ite (leaves_pure _) (leaves_bind (readRaw_leaves _ _).rest fun b => ?_)
      exact leaves_ite (leaves_bind (writeRaw_leaves _ _ _ _ _) fun _ => leaves_pure _) (leaves_pure _)

theorem writeByteIn_leaves (r : Requestor) (lo hi : Nat) (va : W64) (b : Byte) : LeavesRest (writeByteIn r lo hi va b) :=
  leaves_bind (clearTag_leaves r va) fun _ => writeRaw_leaves r lo hi va b

theorem writeBytesIn_leaves (r : Requestor) (lo hi : Nat) : ∀ (bs : List Byte) (va : W64), LeavesRest (writeBytesIn r lo hi va bs)
  | [], _ => leaves_pure _
  | b :: bs, va =>
    leaves_bind (writeByteIn_leaves r lo hi va b) fun _ => leaves_bind (writeBytesIn_leaves r lo hi bs (va + 1)) fun _ => leaves_pure _

theorem writeByteIn_covers (r : Requestor) (lo hi : Nat) (va : W64) (b : Byte) (w : Work) : CoversAt (writeByteIn r lo hi va b) w :=
  coversAt_bind (clearTag_leaves r va w) fun _ u _ => writeRaw_covers r lo hi va b u

theorem writeBytesIn_covers (r : Requestor) (lo hi : Nat) : ∀ (bs : List Byte) (va : W64) (w : Work),
    CoversAt (writeBytesIn r lo hi va bs) w
  | [], _, w => coversAt_pure w
  | b :: bs, va, w =>
    coversAt_bind_covers (writeByteIn_leaves r lo hi va b w) (writeByteIn_covers r lo hi va b w) fun u =>
      coversAt_bind_covers (writeBytesIn_leaves r lo hi bs (va + 1) u) (writeBytesIn_covers r lo hi bs (va + 1) u) coversAt_pure

/-- A write before a stage that fails where it has not covered all. -/
theorem leavesAt_bind_covers {α β : Type} {f : Work → β} {m : Acc (Option Nat)} {g : Option Nat → Acc α} {w : Work}
    (hm : LeavesAt f m w) (hc : CoversAt m w) (hnone : ∀ u, LeavesAt f (g none) u)
    (hsome : ∀ a u b v, (g (some a)).run u ≠ (.ok b, v)) : LeavesAt f (m >>= g) w := by
  by_cases hw : w.dev.ue = []
  · refine leavesAt_bind hm fun o u h => ?_
    obtain rfl := hc hw o u h
    exact hnone u
  · intro r t h hr
    obtain ⟨b, rfl⟩ := hr.resolve_right hw
    rw [acc_bind] at h
    split at h
    · next o u e =>
      cases o with
      | none => exact ⟨(hnone u _ t h (.inl ⟨b, rfl⟩)).1.trans (hm _ u e (.inl ⟨_, rfl⟩)).1, fun hw' => absurd hw' hw⟩
      | some a => exact absurd h (hsome a u b t)
    · cases h

/-- A write fails by an uncorrectable word only where there is one (R257, R505). -/
theorem writeBytes_leaves (r : Requestor) (va : W64) (bs : List Byte) : LeavesRest (writeBytes r va bs) := by
  intro w
  refine leavesAt_bind_covers (writeBytesIn_leaves r _ _ bs va w) (writeBytesIn_covers r _ _ bs va w) (leaves_pure _) ?_
  rintro a u b v ⟨⟩

theorem writeNat_leaves (r : Requestor) (va : W64) (n k : Nat) : LeavesRest (writeNat r va n k) := writeBytes_leaves _ _ _

end Sys2Proof.Machine
end

section
/-! What a vector part leaves of the device (R143 to R155). -/

namespace Sys2Proof.Machine

open Sys2Proof

/-! ### Sources (R143, R147, R152) -/

theorem mkSrc_leaves (r : Requestor) (base : W64) (fmt : Nat) (counts : List Nat) (str : List Int) (scale : W64) (imm : Option Val) :
    LeavesAll (mkSrc r base fmt counts str scale imm) := by
  unfold mkSrc
  exact leaves_ite (leaves_bind (leaves_bind (readScale_leaves _ _) fun _ => leaves_pure _) fun _ => leaves_pure _)
    (leaves_bind (leaves_pure _) fun _ => leaves_pure _)

theorem srcCode_leaves (r : Requestor) (s : VSrc) (off : Int) : LeavesAll (srcCode r s off) :=
  leaves_ite (leaves_bind (readCode_leaves _ _ _ _) fun _ => leaves_bind (readCode_leaves _ _ _ _) fun _ => leaves_pure _)
    (readCode_leaves _ _ _ _)

theorem srcVal_leaves (r : Requestor) (s : VSrc) (c0 : Nat) (pt : Pt) : LeavesAll (srcVal r s c0 pt) := by
  unfold srcVal
  split
  · exact leaves_pure _
  · refine leaves_bind (srcCode_leaves _ _ _) fun c => leaves_ite ?_ ?_
    · refine leaves_bind (readNat_leaves _ _ _) fun sc => leaves_ite ?_ (leaves_pure _)
      refine leaves_bind (leaves_mapM (fun j => srcCode_leaves _ _ _) _) fun codes => ?_
      exact leaves_ite (leaves_bind (addFlags_leaves _) fun _ => leaves_pure _) (leaves_pure _)
    · split
      · exact leaves_pure _
      · exact leaves_pure _

theorem activeAt_leaves (r : Requestor) (o : Vop) (pt : Pt) : LeavesAll (activeAt r o pt) :=
  leaves_ite (leaves_pure _) (leaves_bind (readNat_leaves _ _ _) fun _ => leaves_pure _)

theorem vopSources_leaves (x : Desc) (r : Requestor) (o : Vop) : LeavesAll (vopSources x r o) :=
  leaves_bind (mkSrc_leaves _ _ _ _ _ _ _) fun _ => leaves_bind (mkSrc_leaves _ _ _ _ _ _ _) fun _ =>
    leaves_bind (mkSrc_leaves _ _ _ _ _ _ _) fun _ => leaves_pure _

theorem gatherAt_leaves (r : Requestor) (o : Vop) (s0 s1 : VSrc) (pt : Pt) : LeavesAll (gatherAt r o s0 s1 pt) := by
  unfold gatherAt
  extract_lets c0 found
  have hfound : ∀ b, LeavesAll (found b) := fun b =>
    leaves_ite (srcVal_leaves _ _ _ _) (leaves_bind (addFlags_leaves _) fun _ => leaves_pure _)
  exact leaves_ite (leaves_bind (leaves_pure _) hfound)
    (leaves_bind (srcCode_leaves _ _ _) fun _ => leaves_bind (leaves_pure _) hfound)

theorem readRec_leaves (r : Requestor) (base : W64) (off : Int) : LeavesAll (readRec r base off) :=
  leaves_bind (readBytes_leaves _ _ _) fun _ => leaves_pure _

/-! ### Destinations (R144, R147) -/

theorem writeRun_leaves (r : Requestor) (base : W64) (bits : Nat) (off : Int) (codes : List (Option Nat)) :
    LeavesRest (writeRun r base bits off codes) := by
  unfold writeRun
  extract_lets per grp nbytes start q
  refine leaves_bind (leaves_forIn (fun j _ => ?_) _ _) fun _ => leaves_pure _
  extract_lets elems live active keep stored
  have hstored : ∀ old, LeavesRest (stored old) := fun old => leaves_bind (writeNat_leaves _ _ _ _) fun _ => leaves_pure _
  exact leaves_ite (leaves_ite (leaves_bind (readNat_leaves _ _ _).rest hstored) (leaves_bind (leaves_pure _) hstored)) (leaves_pure _)

theorem putScalar_leaves (r : Requestor) (t : VDst) (rd : Rnd) (off : Int) (v : Val) : LeavesRest (putScalar r t rd off v) :=
  leaves_bind (addFlags_leaves _).rest fun _ =>
    leaves_ite (leaves_bind (writeNat_leaves _ _ _ _) fun _ => writeNat_leaves _ _ _ _) (writeNat_leaves _ _ _ _)

theorem putBlock_leaves (r : Requestor) (t : VDst) (c0 : Nat) (off : Int) (i0 : Nat) (vals : List (Option Val × Rnd)) :
    LeavesRest (putBlock r t c0 off i0 vals) := by
  unfold putBlock
  refine leaves_ite ?_ (leaves_pure _)
  extract_lets fmt bits o sa blk
  have hblk : ∀ old, LeavesRest (blk old) := by
    intro old
    refine leaves_bind (addFlags_leaves _).rest fun _ => leaves_bind (writeNat_leaves _ _ _ _) fun _ =>
      leaves_ite (writeRun_leaves _ _ _ _ _) ?_
    refine leaves_bind (leaves_forIn (fun c _ => ?_) _ _) fun _ => leaves_pure _
    exact leaves_bind (writeNat_leaves _ _ _ _) fun _ => leaves_pure _
  refine leaves_ite (leaves_bind (leaves_pure _) hblk) ?_
  exact leaves_bind (leaves_mapM (fun j => (readCode_leaves _ _ _ _).rest) _) fun codes =>
    leaves_bind (readNat_leaves _ _ _).rest fun _ => leaves_bind (addFlags_leaves _).rest fun _ => leaves_bind (leaves_pure _) hblk

theorem putRun_leaves (r : Requestor) (t : VDst) (c0 : Nat) (off step : Int) (vals : List (Option Val × Rnd)) :
    LeavesRest (putRun r t c0 off step vals) := by
  unfold putRun
  refine leaves_ite ?_ (leaves_ite ?_ ?_)
  · refine leaves_bind (leaves_forIn (fun i _ => ?_) _ _) fun _ => leaves_pure _
    exact leaves_bind (putBlock_leaves _ _ _ _ _ _) fun _ => leaves_pure _
  · exact leaves_bind (addFlags_leaves _).rest fun _ => writeRun_leaves _ _ _ _ _
  · refine leaves_bind (leaves_forIn (fun i _ => ?_) _ _) fun _ => leaves_pure _
    split
    split
    · exact leaves_bind (putScalar_leaves _ _ _ _ _) fun _ => leaves_pure _
    · exact leaves_pure _

/-! ### Parts (R144 to R155) -/

theorem vopPart_leaves {x : Desc} {core lo hi : Nat} {go : Requestor → Vop → VDst → Option VDst → Acc Unit}
    (h : ∀ r o t t2, LeavesRest (go r o t t2)) : LeavesRest (vopPart x core lo hi go) := by
  unfold vopPart
  extract_lets o
  refine leaves_ite (leaves_pure _) (leaves_bind (reqOf_leaves _ _ _).rest fun r => ?_)
  split
  refine leaves_bind (leaves_forIn (fun c _ => ?_) _ _) fun _ => ?_
  · exact leaves_bind (markDest_leaves _ _ _).rest fun _ => leaves_pure _
  · extract_lets rest
    have hrest : ∀ tensor, LeavesRest (rest tensor) := fun tensor => h r o _ _
    exact leaves_ite (leaves_bind (leaves_bind (readScale_leaves _ _) fun _ => leaves_pure _).rest hrest)
      (leaves_bind (leaves_pure _) hrest)

theorem vopElem_leaves (x : Desc) (core lo hi : Nat) : LeavesRest (vopElem x core lo hi) := by
  refine vopPart_leaves fun r o t _ => leaves_bind (vopSources_leaves _ _ _).rest fun s => ?_
  split
  refine leaves_get_bind fun w => ?_
  extract_lets dr c0
  refine (?_ : LeavesRest _) w
  refine leaves_bind (leaves_forIn (fun base _ => ?_) _ _) fun _ => leaves_pure _
  refine leaves_bind (leaves_mapM (fun i => ?_) _) fun vals => leaves_bind (putRun_leaves _ _ _ _ _ _) fun _ => leaves_pure _
  extract_lets pt put
  have hput : ∀ v, LeavesAll (put v) := fun v => leaves_pure _
  refine Leaves.rest (leaves_bind (activeAt_leaves _ _ _) fun a => leaves_ite (leaves_ite ?_ (leaves_ite ?_ ?_)) (leaves_pure _))
  · exact leaves_bind (gatherAt_leaves _ _ _ _ _) hput
  · refine leaves_bind (srcVal_leaves _ _ _ _) fun _ => leaves_bind (readRec_leaves _ _ _) fun rec_ => ?_
    exact leaves_ite (leaves_bind (addFlags_leaves _) fun _ => leaves_bind (leaves_pure _) hput) (leaves_bind (leaves_pure _) hput)
  · exact leaves_bind (srcVal_leaves _ _ _ _) fun _ => leaves_bind (srcVal_leaves _ _ _ _) fun _ =>
      leaves_bind (srcVal_leaves _ _ _ _) fun _ => leaves_bind (leaves_pure _) hput

theorem activeVals_leaves (r : Requestor) (o : Vop) (s0 : VSrc) (pts : List Pt) : LeavesAll (activeVals r o s0 pts) := by
  refine leaves_bind (leaves_mapM (fun pt => leaves_bind (activeAt_leaves _ _ _) fun a => ?_) _) fun _ => leaves_pure _
  exact leaves_ite (leaves_bind (srcVal_leaves _ _ _ _) fun _ => leaves_pure _) (leaves_pure _)

theorem blockFlushes_leaves (r : Requestor) (o : Vop) (s0 : VSrc) (pts : List Pt) : LeavesAll (blockFlushes r o s0 pts) := by
  unfold blockFlushes
  extract_lets c0
  refine leaves_bind (leaves_mapM (fun pt => leaves_bind (activeAt_leaves _ _ _) fun a => leaves_ite ?_ (leaves_pure _)) _)
    fun _ => leaves_pure _
  extract_lets b0
  refine leaves_bind (leaves_mapM (fun j => ?_) _) fun blk => leaves_pure _
  extract_lets q
  exact leaves_bind (activeAt_leaves _ _ _) fun _ => leaves_ite (srcVal_leaves _ _ _ _) (leaves_pure _)

theorem vopReduce_leaves (x : Desc) (core lo hi : Nat) : LeavesRest (vopReduce x core lo hi) := by
  refine vopPart_leaves fun r o t t2 => leaves_bind (vopSources_leaves _ _ _).rest fun s => ?_
  split
  refine leaves_get_bind fun w => ?_
  extract_lets dr
  refine (?_ : LeavesRest _) w
  refine leaves_bind (leaves_forIn (fun base _ => ?_) _ _) fun _ => leaves_pure _
  refine leaves_bind (leaves_mapM (fun i => ?_) _) fun outs => ?_
  · extract_lets u pts
    refine Leaves.rest (leaves_bind (activeVals_leaves _ _ _ _) fun vs => ?_)
    extract_lets folded
    have hfolded : ∀ e, LeavesAll (folded e) := fun e =>
      leaves_ite (leaves_bind (blockFlushes_leaves _ _ _ _) fun _ => leaves_bind (leaves_pure _) fun _ => leaves_pure _)
        (leaves_bind (leaves_pure _) fun _ => leaves_pure _)
    exact leaves_ite (leaves_bind (addFlags_leaves _) hfolded) (hfolded ())
  · extract_lets put
    refine leaves_bind (putRun_leaves _ _ _ _ _ _) fun _ => ?_
    split
    · exact leaves_bind (putRun_leaves _ _ _ _ _ _) fun _ => leaves_pure _
    · exact leaves_pure _

theorem vopRecord_leaves (x : Desc) (core lo hi : Nat) : LeavesRest (vopRecord x core lo hi) := by
  refine vopPart_leaves fun r o t _ => ?_
  extract_lets base0
  refine leaves_bind (leaves_forIn (fun base _ => ?_) _ _) fun _ => leaves_pure _
  refine leaves_bind (leaves_mapM (fun pt => leaves_bind (activeAt_leaves _ _ _).rest fun a => ?_) _) fun recs => ?_
  · exact leaves_ite (leaves_bind (readRec_leaves _ _ _).rest fun _ => leaves_pure _) (leaves_pure _)
  · extract_lets out written
    have hwritten : ∀ e, LeavesRest (written e) := fun e => leaves_bind (writeBytes_leaves _ _ _) fun _ => leaves_pure _
    exact leaves_ite (leaves_bind (addFlags_leaves _).rest hwritten) (hwritten ())

theorem vopBody_leaves (x : Desc) (q : Part) (p : Nat) : LeavesRest (vopBody x q p) := by
  refine leaves_bind (countSteps_leaves _ _).rest fun _ => ?_
  exact leaves_ite (vopReduce_leaves _ _ _ _) (leaves_ite (vopRecord_leaves _ _ _ _) (vopElem_leaves _ _ _ _))

end Sys2Proof.Machine
end

section
/-! A vector command changes nothing but through its part: the part and its stream table entry, its stores, and what any access to
memory changes (R148, R151, R310). -/

namespace Sys2Proof.Machine

open Sys2Proof

/-! ### What is beside a part -/

/-- A device without what a part's run changes: besides what its accesses to memory do, the descriptors, the chisel cores whose
reservations its stores break, the stream tables and the trace. -/
def besideParts (v : Dev) : Dev := { unwrittenOf v with trc := {}, descs := [], chisels := [], stab := [], stabWaits := [] }

/-- What one part of a descriptor leaves of it. -/
def besidePart (p : Nat) (x : Desc) : List Byte × (Nat → Option Part) := (x.bytes, fun r => if r = p then none else x.parts[r]?)

/-- From `v` to `u` nothing has changed beside part `p` of descriptor `d` and what a part's run changes. -/
structure PartOnly (d p : Nat) (v u : Dev) : Prop where
  beside : besideParts u = besideParts v
  other : ∀ e, e ≠ d → getDesc u e = getDesc v e
  mine : (getDesc u d).map (besidePart p) = (getDesc v d).map (besidePart p)

/-- And the work has stored nothing in flash and wiped nothing more. -/
structure PartWork (d p : Nat) (w u : Work) : Prop where
  dev : PartOnly d p w.dev u.dev
  flash : u.stores.filter (fun x => x.space = .flash) = w.stores.filter (fun x => x.space = .flash)
  wiped : u.wiped = w.wiped

section
variable {d p : Nat} {v u t : Dev} {w w1 w2 : Work}

theorem PartOnly.trans (h : PartOnly d p v u) (k : PartOnly d p u t) : PartOnly d p v t :=
  ⟨k.beside.trans h.beside, fun e he => (k.other e he).trans (h.other e he), k.mine.trans h.mine⟩

theorem PartWork.trans (h : PartWork d p w w1) (k : PartWork d p w1 w2) : PartWork d p w w2 :=
  ⟨h.dev.trans k.dev, k.flash.trans h.flash, k.wiped.trans h.wiped⟩

theorem PartOnly.power (h : PartOnly d p v u) : u.power = v.power := by
  have same : (besideParts u).power = (besideParts v).power := congrArg Dev.power h.beside
  exact same

/-- A change that leaves every descriptor. -/
theorem PartOnly.of_same (hb : besideParts u = besideParts v) (hd : u.descs = v.descs) : PartOnly d p v u := by
  have same : ∀ e, getDesc u e = getDesc v e := fun e => by rw [getDesc, hd]; rfl
  exact ⟨hb, fun e _ => same e, congrArg _ (same d)⟩

theorem PartWork.refl (w : Work) : PartWork d p w w := ⟨.of_same rfl rfl, rfl, rfl⟩

theorem PartOnly.onDev {f : Dev → Dev} (h : ∀ v, PartOnly d p v (f v)) (w : Work) : PartWork d p w (onDev f w) :=
  ⟨h w.dev, rfl, rfl⟩

/-- Work that a write of memory may have done. -/
theorem PartWork.of_view (h : writeView w1 = writeView w) : PartWork d p w w1 := by
  have hdev : unwrittenOf w1.dev = unwrittenOf w.dev := congrArg (·.1) h
  have hdescs : (unwrittenOf w1.dev).descs = (unwrittenOf w.dev).descs := congrArg Dev.descs hdev
  exact ⟨.of_same (congrArg (fun v => { v with trc := {}, descs := [], chisels := [], stab := [], stabWaits := [] }) hdev) hdescs,
    congrArg (·.2.1) h, congrArg (·.2.2) h⟩

end

theorem besidePart_modify (p : Nat) (f : Part → Part) (x : Desc) :
    besidePart p { x with parts := x.parts.modify p f } = besidePart p x := by
  unfold besidePart
  congr 1
  funext r
  split
  next => rfl
  next h => exact List.getElem?_modify_ne f _ (Ne.symm h)

theorem modPart_partOnly (d p : Nat) (f : Part → Part) (v : Dev) : PartOnly d p v (modPart d p f v) where
  beside := rfl
  other e he := (getDesc_modPart d e p f v).trans (if_neg he)
  mine := by
    rw [getDesc_modPart, if_pos rfl, Option.map_map]
    exact congrArg (Option.map · _) (funext (besidePart_modify p f))

theorem stabWait_partOnly (d p c : Nat) (who : StabIssuer) (v : Dev) : PartOnly d p v (stabWait c who v) := by
  unfold stabWait
  split
  · exact .of_same rfl rfl
  · exact .of_same rfl rfl

theorem stabHold_partOnly (d p c : Nat) (v : Dev) : PartOnly d p v (stabHold c d p v) := by
  rw [stabHold_only]
  exact .of_same rfl rfl

theorem tracePart_partOnly (d p type : Nat) (x : Desc) (extra : List Byte) (v : Dev) : PartOnly d p v (tracePart type x p extra v) := by
  unfold tracePart
  split
  · exact .of_same rfl rfl
  · exact .of_same rfl rfl

theorem startPart_partOnly (d p : Nat) (v : Dev) : PartOnly d p v (startPart d p v) := by
  unfold startPart
  split
  · exact .of_same rfl rfl
  · refine PartOnly.trans ?_ ((modPart_partOnly d p _ _).trans (tracePart_partOnly ..))
    split
    · exact stabHold_partOnly ..
    · exact .of_same rfl rfl

theorem tracePart_ue (type : Nat) (x : Desc) (p : Nat) (extra : List Byte) (v : Dev) : (tracePart type x p extra v).ue = v.ue := by
  unfold tracePart
  split <;> rfl

theorem startPart_ue (d p : Nat) (v : Dev) : (startPart d p v).ue = v.ue := by
  unfold startPart
  split
  · rfl
  · extract_lets u
    have hu : u.ue = v.ue := by
      unfold u
      split
      · rw [stabHold_only]
      · rfl
    exact (tracePart_ue ..).trans hu

theorem endPart_partOnly (d p : Nat) {st : Byte} (h : st ≠ stMemoryUe) (a : W64) (f : Flags) (v : Dev) :
    PartOnly d p v (endPart d p st a f v) := by
  cases hx : getDesc v d with
  | none =>
    rw [endPart_none p st a f hx]
    exact .of_same rfl rfl
  | some x =>
    rw [endPart_some p st a f hx, if_neg h]
    exact (modPart_partOnly d p (endedPart st a f) v).trans (.of_same rfl rfl)

theorem snoopsUsed_partWork (d p : Nat) (w : Work) : PartWork d p w (snoopsUsed w) := ⟨.of_same rfl rfl, rfl, rfl⟩

theorem freeDestByte_view (r : Requestor) (va : W64) (w : Work) : writeView (freeDestByte r va w) = writeView w := by
  unfold freeDestByte
  split
  · next u h => exact Leaves.okSame (writeByteIn_leaves _ _ _ _ _) w _ u h
  · rfl

theorem freeDest_view (w : Work) : writeView (freeDest w) = writeView w := by
  unfold freeDest
  refine List.foldlRecOn (motive := fun u : Work => writeView u = writeView w) _ _ rfl fun u h c _ => ?_
  exact List.foldlRecOn (motive := fun u : Work => writeView u = writeView w) _ _ h fun t k i _ => (freeDestByte_view _ _ t).trans k

/-! ### A part run as a whole -/

/-- A part whose body only writes memory, run where no word is uncorrectable. -/
theorem runPart_partWork {d p : Nat} {body : Acc Unit} (hbody : LeavesRest body) {w : Work} (hw : w.dev.ue = []) :
    PartWork d p w (runPart d p body w) := by
  cases hf : onFenced w.dev d p with
  | true =>
    rw [runPart_fenced hf]
    exact PartOnly.onDev (endPart_partOnly d p (by decide) 0 {}) w
  | false =>
    cases hk : stabBlocked w.dev d p with
    | some k =>
      rw [runPart_blocked hf hk]
      exact PartOnly.onDev (stabWait_partOnly d p k _) w
    | none =>
      rw [runPart_starts hf hk]
      have started : PartWork d p w { onDev (startPart d p) w with dest := [], snooped := [], flags := {} } :=
        ⟨startPart_partOnly d p w.dev, rfl, rfl⟩
      have hue : (startPart d p w.dev).ue = [] := (startPart_ue d p w.dev).trans hw
      obtain ⟨r, u, hrun⟩ : ∃ r u, body.run { onDev (startPart d p) w with dest := [], snooped := [], flags := {} } = (r, u) :=
        ⟨_, _, rfl⟩
      obtain ⟨hview, hclean⟩ := hbody _ r u hrun (.inr hue)
      have ran : PartWork d p w u := started.trans (.of_view hview)
      match r, hrun, hclean with
      | .ok (), hrun, _ =>
        rw [runBody_ok hrun]
        have ran : PartWork d p w { u with dest := [] } := ⟨ran.dev, ran.flash, ran.wiped⟩
        exact (ran.trans (snoopsUsed_partWork d p _)).trans (PartOnly.onDev (endPart_partOnly d p (st := stSuccess) (by decide) 0 _) _)
      | .error (.fail st a), hrun, hclean =>
        have hstop : (Stop.fail st a).isUe = false := (hclean hue).2 _ rfl
        have hst : st ≠ stMemoryUe := of_decide_eq_false hstop
        rw [runBody_fail hrun]
        exact ((ran.trans (.of_view (freeDest_view u))).trans (snoopsUsed_partWork d p _)).trans
          (PartOnly.onDev (endPart_partOnly d p hst a _) _)
      | .error .wait, hrun, _ =>
        rw [runBody_wait hrun]
        exact .refl w

/-! ### Vector commands -/

/-- The class of the parts that a vector command runs. -/
def vectorClass (func : Nat) : Nat := if func = 0x100 then 2 else 1

/-- The part that a vector command runs is ready and has the command's function. -/
def VectorReady (func d p : Nat) (v : Dev) (x : Desc) (q : Part) : Prop :=
  ready v d p (vectorClass func) = some (x, q) ∧ (vectorClass func = 2 ∨ (vopOf x.bytes).func = func)

theorem vopCommands_func : ∀ fc ∈ vopCommands, fc.1 ≠ 0x100 := by decide

/-- A vector command runs its part where that is ready, and else does nothing. -/
theorem exec_vector {fc : Nat × (Nat → Nat → Instr)} (h : fc ∈ (0x100, Instr.conv) :: vopCommands) (d p : Nat) (s : State) :
    (∀ x q, VectorReady fc.1 d p s.dev x q → exec (fc.2 d p) s = runWork (runPart d p (vopBody x q p)) s) ∧
    ((¬ ∃ x q, VectorReady fc.1 d p s.dev x q) → exec (fc.2 d p) s = .next s) := by
  rcases List.mem_cons.mp h with rfl | h
  · refine ⟨fun x q hr => runWork_eq (f := convRun d p) (convRun_runs (w := workOf s) hr.1), fun hn => ?_⟩
    refine runWork_unchanged (f := convRun d p) (convRun_notReady (w := workOf s) ?_)
    exact Option.eq_none_iff_forall_ne_some.mpr fun c hc => hn ⟨c.1, c.2, hc, .inl rfl⟩
  · have hcls : vectorClass fc.1 = 1 := if_neg (vopCommands_func fc h)
    have hfunc : ∀ x q, VectorReady fc.1 d p s.dev x q ↔ ready s.dev d p 1 = some (x, q) ∧ (vopOf x.bytes).func = fc.1 := by
      intro x q
      simp [VectorReady, hcls]
    refine ⟨fun x q hr => ?_, fun hn => (exec_vopCommand h d p s).trans (runWork_unchanged ?_)⟩
    · obtain ⟨hr, hf⟩ := (hfunc x q).mp hr
      exact (exec_vopCommand h d p s).trans (runWork_eq (vopRun_runs (w := workOf s) hr hf))
    · cases hr : ready s.dev d p 1 with
      | none => exact vopRun_notReady (w := workOf s) hr
      | some c => exact vopRun_otherFunction (w := workOf s) hr fun hf => hn ⟨c.1, c.2, (hfunc _ _).mpr ⟨hr, hf⟩⟩

/-- A memory takes only the stores to it. -/
theorem applyStores_filter (sp : Space) (d : Byte) (m : List Host.Cell) :
    ∀ l : List Store, applyStores sp d m (l.filter (fun x => x.space = sp)) = applyStores sp d m l
  | [] => rfl
  | x :: l => by
    have ih := applyStores_filter sp d m l
    rw [List.filter_cons]
    by_cases h : x.space = sp
    · simp only [h, decide_true, if_true, applyStores, ih]
    · simp only [h, decide_false, Bool.false_eq_true, if_false, applyStores, ih]

/-- What a command leaves whose work is done for one part. -/
theorem commit_partWork {d p : Nat} {s : State} {w : Work} (h : PartWork d p (workOf s) w) :
    PartOnly d p s.dev (commit s w).dev ∧ (commit s w).flash = s.flash := by
  constructor
  · rw [commit_dev, breakReserved_only]
    exact h.dev.trans (.of_same rfl rfl)
  · rw [commit_flash, ← applyStores_filter, h.flash]
    rfl

theorem besidePart_eq {p : Nat} {x y : Desc} (h : besidePart p y = besidePart p x) :
    y.bytes = x.bytes ∧ ∀ r, r ≠ p → y.parts[r]? = x.parts[r]? := by
  refine ⟨congrArg Prod.fst h, fun r hr => ?_⟩
  have := congrFun (congrArg Prod.snd h) r
  simpa only [besidePart, if_neg hr] using this

section
variable {fc : Nat × (Nat → Nat → Instr)} (hfc : fc ∈ (0x100, Instr.conv) :: vopCommands) {d p : Nat} {s t : State}
  (ht : exec (fc.2 d p) s = .next t)
include hfc ht

theorem vector_idle (h : ¬ ∃ x q, VectorReady fc.1 d p s.dev x q) : t = s :=
  (Host.Outcome.next.inj (((exec_vector hfc d p s).2 h).symm.trans ht)).symm

theorem vector_runs {x : Desc} {q : Part} (h : VectorReady fc.1 d p s.dev x q) :
    t = commit s (runPart d p (vopBody x q p) (workOf s)) :=
  (Host.Outcome.next.inj (((exec_vector hfc d p s).1 x q h).symm.trans ht)).symm

theorem vector_partOnly (hue : s.dev.ue = []) : PartOnly d p s.dev t.dev ∧ t.flash = s.flash ∧ t.pending = s.pending := by
  by_cases h : ∃ x q, VectorReady fc.1 d p s.dev x q
  · obtain ⟨x, q, hr⟩ := h
    obtain rfl := vector_runs hfc ht hr
    obtain ⟨hdev, hflash⟩ := commit_partWork (runPart_partWork (d := d) (p := p) (vopBody_leaves x q p) (w := workOf s) hue)
    exact ⟨hdev, hflash, rfl⟩
  · obtain rfl := vector_idle hfc ht h
    exact ⟨.of_same rfl rfl, rfl, rfl⟩

/-- Without a part that may start, no byte changes. -/
theorem vector_noStores (h : ¬ ∃ x q, VectorReady fc.1 d p s.dev x q ∧ onFenced s.dev d p = false ∧ stabBlocked s.dev d p = none) :
    t.mem = s.mem ∧ t.host = s.host := by
  by_cases hr : ∃ x q, VectorReady fc.1 d p s.dev x q
  · obtain ⟨x, q, hr⟩ := hr
    have still : ∃ f, runPart d p (vopBody x q p) (workOf s) = onDev f (workOf s) := by
      cases hf : onFenced s.dev d p with
      | true => exact ⟨_, runPart_fenced (w := workOf s) hf⟩
      | false =>
        obtain ⟨k, hk⟩ := Option.ne_none_iff_exists'.mp fun hk => h ⟨x, q, hr, hf, hk⟩
        exact ⟨_, runPart_blocked (w := workOf s) hf hk⟩
    obtain ⟨f, hf⟩ := still
    obtain rfl := vector_runs hfc ht hr
    rw [hf]
    exact ⟨rfl, rfl⟩
  · obtain rfl := vector_idle hfc ht hr
    exact ⟨rfl, rfl⟩

/-- With one, the bytes that change are those its part stores, or its destinations where the part fails. -/
theorem vector_stores (hs : Memory.wf s = true) (hl : s.dev.power.lost = .none) (hue : s.dev.ue = []) {x : Desc} {q : Part}
    (hr : VectorReady fc.1 d p s.dev x q) (hf : onFenced s.dev d p = false) (hk : stabBlocked s.dev d p = none) {w : Work} :
    ((vopBody x q p).run (onDev (startPart d p) (workOf s)) = (.ok (), w) → StoredBy s t w.stores) ∧
    (∀ st a, (vopBody x q p).run (onDev (startPart d p) (workOf s)) = (.error (.fail st a), w) → StoredBy s t (freeDest w).stores) ∧
    ((vopBody x q p).run (onDev (startPart d p) (workOf s)) = (.error .wait, w) → t = s) := by
  obtain ⟨-, -, hturn⟩ := partTurn_of_runPart hs ((exec_vector hfc d p s).1 x q hr)
  obtain ⟨hok, hfail, hwait⟩ := hturn hf hk
  have hstart : (startPart d p s.dev).ue = [] := (startPart_ue d p s.dev).trans hue
  have hpower : (startPart d p s.dev).power = s.dev.power := (startPart_partOnly d p s.dev).power
  have left : ∀ {r}, (vopBody x q p).run (onDev (startPart d p) (workOf s)) = (r, w) →
      w.dev.power = s.dev.power ∧ w.wiped = .none ∧ ∀ e, r = .error e → e.isUe = false := by
    intro r h
    obtain ⟨hview, hclean⟩ := vopBody_leaves x q p _ r w h (.inr hstart)
    exact ⟨(congrArg (fun c => c.1.power) hview).trans hpower, congrArg (·.2.2) hview, (hclean hstart).2⟩
  refine ⟨fun h => ?_, fun st a h => ?_, fun h => ?_⟩
  · obtain ⟨hp, hw, -⟩ := left h
    obtain ⟨u, hu, hstored, -⟩ := hok w h hw hl hp
    obtain rfl := Host.Outcome.next.inj (hu.symm.trans ht)
    exact hstored
  · obtain ⟨hp, hw, hstop⟩ := left h
    have hue : (Stop.fail st a).isUe = false := hstop _ rfl
    have hfree : (freeDest w).wiped = w.wiped := congrArg (·.2.2) (freeDest_view w)
    obtain ⟨u, hu, hstored, -⟩ := hfail w st a h (of_decide_eq_false hue) (hfree.trans hw) hl hp
    obtain rfl := Host.Outcome.next.inj (hu.symm.trans ht)
    exact hstored
  · exact (Host.Outcome.next.inj ((hwait w h).symm.trans ht)).symm

end

/-- Settles O35: a vector command is the run of its part, and that changes nothing beside the part. -/
theorem vectorCommandsTouchOnlyTheirPart : Obligations.VectorCommandsTouchOnlyTheirPart := by
  intro fc hfc d p s t hue ht
  obtain ⟨⟨hbeside, hother, hmine⟩, hflash, hpending⟩ := vector_partOnly hfc ht hue
  have field {β : Type} (f : Dev → β) : f (besideParts t.dev) = f (besideParts s.dev) := congrArg f hbeside
  refine ⟨field Dev.ctxs, field Dev.rings, field Dev.engines, field Dev.groups, field Dev.ports, field Dev.members, field Dev.routes,
    field Dev.mould, field Dev.power, field Dev.pace, field Dev.sns, field Dev.arm, field Dev.attn, field Dev.fenced,
    field Dev.dbLines, hpending, fun a => congrArg (tabGet flashDefault · a) hflash, hother, fun x x' hx hx' => ?_,
    fun x q w hs hl hgoes => ?_, fun hnot => ?_⟩
  · rw [hx, hx'] at hmine
    exact besidePart_eq (Option.some.inj hmine)
  · obtain ⟨hready, hfunc, hf, hk⟩ := hgoes
    exact vector_stores hfc ht hs hl hue ⟨hready, hfunc⟩ hf hk
  · exact vector_noStores hfc ht fun ⟨x, q, ⟨hready, hfunc⟩, hf, hk⟩ => hnot ⟨x, q, hready, hfunc, hf, hk⟩

end Sys2Proof.Machine
end

section
/-! A chisel core's instruction (R124, R127, R133): what its fetch leaves, what its retirement writes, and what its command comes to. -/

namespace Sys2Proof.Machine

open Sys2Proof

/-! ### One chisel core changed -/

theorem getChisel_modChisel_same (i : Nat) (f : Chisel → Chisel) {v : Dev} (h : tabWf {} v.chisels = true) :
    getChisel (modChisel i f v) i = f (getChisel v i) := getChisel_setChisel_same i _ v h

theorem getChisel_modChisel_other {i k : Nat} (f : Chisel → Chisel) (v : Dev) (h : k ≠ i) :
    getChisel (modChisel i f v) k = getChisel v k := getChisel_setChisel_other i k _ v h

/-- From `v` to `u` chisel core `i` has become `c`; every other core, the rings and the contexts are as before. -/
structure CoreChanged (i : Nat) (v u : Dev) (c : Chisel) : Prop where
  here : getChisel u i = c
  other : ∀ k, k ≠ i → getChisel u k = getChisel v k
  wf : tabWf {} u.chisels = true
  rings : u.rings = v.rings
  ctxs : u.ctxs = v.ctxs

section
variable {i : Nat} {v u t : Dev} {c : Chisel}

theorem CoreChanged.refl (h : tabWf {} v.chisels = true) : CoreChanged i v v (getChisel v i) := ⟨rfl, fun _ _ => rfl, h, rfl, rfl⟩

theorem CoreChanged.mod (h : CoreChanged i v u c) (f : Chisel → Chisel) : CoreChanged i v (modChisel i f u) (f c) where
  here := (getChisel_modChisel_same i f h.wf).trans (congrArg f h.here)
  other k hk := (getChisel_modChisel_other f u hk).trans (h.other k hk)
  wf := tabPut_wf _ _ _ _ h.wf
  rings := h.rings
  ctxs := h.ctxs

/-- A further change of other fields. -/
theorem CoreChanged.congr (h : CoreChanged i v u c) (hc : t.chisels = u.chisels) (hr : t.rings = u.rings) (hx : t.ctxs = u.ctxs) :
    CoreChanged i v t c where
  here := by rw [getChisel, hc]; exact h.here
  other k hk := by rw [getChisel, hc]; exact h.other k hk
  wf := hc ▸ h.wf
  rings := hr.trans h.rings
  ctxs := hx.trans h.ctxs

theorem CoreChanged.trans {c' : Chisel} (h : CoreChanged i v u c) (k : CoreChanged i u t c') : CoreChanged i v t c' :=
  ⟨k.here, fun e he => (k.other e he).trans (h.other e he), k.wf, k.rings.trans h.rings, k.ctxs.trans h.ctxs⟩

/-- The cores, the rings, the contexts and the staged descriptors. -/
def coreTables (v : Dev) : Tab Chisel × Tab Ring × Tab Ctx × List Desc := (v.chisels, v.rings, v.ctxs, v.descs)

theorem CoreChanged.tables (h : CoreChanged i v u c) (ht : coreTables t = coreTables u) : CoreChanged i v t c :=
  h.congr (congrArg (·.1) ht) (congrArg (·.2.1) ht) (congrArg (·.2.2.1) ht)

theorem coreTables_of_view {w w' : Work} (h : readView w' = readView w) : coreTables w'.dev = coreTables w.dev :=
  congrArg (fun c : Dev × List Store × Wipe => coreTables c.1) h

/-- A chisel core after an instruction has retired (R124). -/
def retiredCore (t : Retire) (stall : Nat) (c : Chisel) : Chisel :=
  { setX t.rd t.val c with pc := t.pc, instret := c.instret + 1, cycle := c.cycle + BitVec.ofNat 64 (1 + stall) }

theorem CoreChanged.retire (h : CoreChanged i v u c) (ctx : Nat) (t : Retire) :
    CoreChanged i v (retireInstr i ctx t u) (retiredCore t (Config.chiselStall u.free) c) :=
  (CoreChanged.mod (u := { u with free := u.free + 1 }) (h.congr rfl rfl rfl) (retiredCore t (Config.chiselStall u.free))).congr
    rfl rfl rfl

end

@[simp] theorem setX_run (r : Nat) (v : W64) (c : Chisel) : (setX r v c).run = c.run := by unfold setX; split <;> rfl
@[simp] theorem setX_handles (r : Nat) (v : W64) (c : Chisel) : (setX r v c).handles = c.handles := by unfold setX; split <;> rfl

theorem setX_regs_congr (r : Nat) (v : W64) {c c' : Chisel} (h : c'.regs = c.regs) : (setX r v c').regs = (setX r v c).regs := by
  unfold setX
  split
  · exact h
  · exact congrArg (tabPut 0 · r v) h

@[simp] theorem retiredCore_pc (t : Retire) (n : Nat) (c : Chisel) : (retiredCore t n c).pc = t.pc := rfl
@[simp] theorem retiredCore_instret (t : Retire) (n : Nat) (c : Chisel) : (retiredCore t n c).instret = c.instret + 1 := rfl
@[simp] theorem retiredCore_run (t : Retire) (n : Nat) (c : Chisel) : (retiredCore t n c).run = c.run := setX_run ..
@[simp] theorem retiredCore_handles (t : Retire) (n : Nat) (c : Chisel) : (retiredCore t n c).handles = c.handles := setX_handles ..

/-! ### What a stage that ends does to the working state -/

/-- A stage whose stops another one takes up. -/
theorem acc_tryCatch {α : Type} (m : Acc α) (g : Stop → Acc α) (w : Work) :
    (tryCatch m g).run w = match m.run w with
      | (.ok a, u) => (.ok a, u)
      | (.error e, u) => (g e).run u := by
  rw [ExceptT.run_tryCatch]
  simp only [bind, StateT.bind]
  cases m.run w with
  | mk x u => cases x <;> rfl

section
variable {α β : Type} {R : Work → Work → Prop}

/-- Where `m` ends well on `w`, it leaves the working state related to `w`. -/
def StepsAt (R : Work → Work → Prop) (m : Acc α) (w : Work) : Prop := ∀ a u, m.run w = (.ok a, u) → R w u

/-- Wherever `m` ends well, the working states before and after are related. -/
def Steps (R : Work → Work → Prop) (m : Acc α) : Prop := ∀ w, StepsAt R m w

theorem steps_pure (hr : ∀ w, R w w) (a : α) : Steps R (pure a : Acc α) := by
  rintro w a u ⟨⟩
  exact hr w

theorem steps_throw (e : Stop) : Steps R (throw e : Acc α) := by
  rintro w a u ⟨⟩

theorem stepsAt_set {w u : Work} (h : R w u) : StepsAt R (set u : Acc PUnit) w := by
  rintro a u ⟨⟩
  exact h

theorem steps_modify {f : Work → Work} (h : ∀ w, R w (f w)) : Steps R (modify f : Acc PUnit) := by
  rintro w a u ⟨⟩
  exact h w

theorem stepsAt_bind (ht : ∀ w u t, R w u → R u t → R w t) {m : Acc α} {f : α → Acc β} {w : Work} (hm : StepsAt R m w)
    (hf : ∀ a u, m.run w = (.ok a, u) → StepsAt R (f a) u) : StepsAt R (m >>= f) w := by
  intro b t h
  rw [acc_bind] at h
  split at h
  · next a u e => exact ht w u t (hm a u e) (hf a u e b t h)
  · cases h

theorem steps_bind (ht : ∀ w u t, R w u → R u t → R w t) {m : Acc α} {f : α → Acc β} (hm : Steps R m) (hf : ∀ a, Steps R (f a)) :
    Steps R (m >>= f) := fun w => stepsAt_bind ht (hm w) fun a u _ => hf a u

theorem steps_get_bind {f : Work → Acc α} (h : ∀ w, StepsAt R (f w) w) : Steps R (get >>= f) := by
  intro w a u hu
  rw [acc_bind_ok (acc_get w)] at hu
  exact h w a u hu

theorem steps_ite {c : Prop} {_ : Decidable c} {m n : Acc α} (hm : Steps R m) (hn : Steps R n) : Steps R (if c then m else n) := by
  split
  · exact hm
  · exact hn

theorem steps_tryCatch_throw {m : Acc α} (h : Steps R m) (g : Stop → Stop) : Steps R (tryCatch m fun e => throw (g e)) := by
  intro w a u hu
  rw [acc_tryCatch] at hu
  split at hu
  · next b t e => exact h w a u (e.trans hu)
  · cases hu

end

/-! ### Reads by a chisel core (R126, R127) -/

theorem chRead_okSame (i ctx : Nat) (a : W64) (n : Nat) : OkSame readView (chRead i ctx a n) := by
  unfold chRead
  refine okSame_ite (okSame_get_bind fun w => ?_) (steps_tryCatch_throw (readBytes_leaves _ _ _).okSame _)
  extract_lets v
  split
  · rintro a u ⟨⟩
  · exact okSame_pure _ w

/-- What a chisel core's fetch leaves beside the cores: all but the caches, the link and the counters. -/
def besideCores (w : Work) : Dev × List Store × Wipe := ({ (readView w).1 with chisels := [] }, (readView w).2)

theorem besideCores_of_view {w u : Work} (h : readView u = readView w) : besideCores u = besideCores w :=
  congrArg (fun c : Dev × List Store × Wipe => ({ c.1 with chisels := [] }, c.2)) h

theorem OkSame.cores {α : Type} {m : Acc α} (h : OkSame readView m) : OkSame besideCores m :=
  fun w a u hu => besideCores_of_view (h w a u hu)

theorem onChisel_beside (i : Nat) (f : Chisel → Chisel) : OkSame besideCores (onChisel i f) := okSame_modify fun _ => rfl

theorem fetchParcel_beside (i ctx : Nat) (a : W64) : OkSame besideCores (fetchParcel i ctx a) := by
  refine okSame_get_bind fun w => ?_
  extract_lets c
  split
  · exact okSame_pure _ w
  · exact okSame_bind (chRead_okSame i ctx a 2).cores (fun _ => okSame_bind (onChisel_beside i _) fun _ => okSame_pure _) w

theorem fetchInstr_beside (i ctx : Nat) : OkSame besideCores (fetchInstr i ctx) := by
  refine okSame_get_bind fun w => ?_
  extract_lets c
  refine (?_ : OkSame besideCores _) w
  refine okSame_bind (fetchParcel_beside i ctx _) fun lo => okSame_ite ?_ ?_
  · exact okSame_bind (fetchParcel_beside i ctx _) fun _ => okSame_pure _
  · split
    · exact okSame_pure _
    · exact okSame_throw _

/-- From `w` to `u` chisel core `i` has fetched parcels into its instruction cache. -/
def Fetched (i : Nat) (v u : Dev) : Prop := ∃ f, CoreChanged i v u { getChisel v i with fetched := f }

theorem Fetched.trans {i : Nat} {v u t : Dev} (h : Fetched i v u) (k : Fetched i u t) : Fetched i v t := by
  obtain ⟨f, hf⟩ := h
  obtain ⟨g, hg⟩ := k
  rw [hf.here] at hg
  exact ⟨g, hf.trans hg⟩

/-- What a fetch does to the core it is for. -/
def FetchStep (i : Nat) (w u : Work) : Prop := tabWf {} w.dev.chisels = true → Fetched i w.dev u.dev

theorem fetchStep_refl (i : Nat) (w : Work) : FetchStep i w w := fun h => ⟨_, CoreChanged.refl h⟩

theorem fetchStep_trans (i : Nat) (w u t : Work) (h : FetchStep i w u) (k : FetchStep i u t) : FetchStep i w t := fun hw => by
  obtain ⟨f, hf⟩ := h hw
  exact .trans ⟨f, hf⟩ (k hf.wf)

theorem FetchStep.of_view {i : Nat} {w u : Work} (h : readView u = readView w) : FetchStep i w u := fun hw =>
  ⟨_, (CoreChanged.refl hw).tables (coreTables_of_view h)⟩

theorem fetchParcel_fetched (i ctx : Nat) (a : W64) : Steps (FetchStep i) (fetchParcel i ctx a) := by
  have hr := fetchStep_refl i
  have ht := fetchStep_trans i
  refine steps_get_bind fun w => ?_
  extract_lets c
  split
  · exact steps_pure hr _ w
  · refine steps_bind ht (fun w b u h => .of_view (chRead_okSame i ctx a 2 w b u h)) (fun bs => ?_) w
    refine steps_bind ht (steps_modify fun v hv => ?_) fun _ => steps_pure hr _
    exact ⟨_, (CoreChanged.refl hv).mod fun c => { c with fetched := tabPut none c.fetched (a.toNat / 2) (some (BitVec.ofNat 16 (leNat bs))) }⟩

theorem fetchInstr_fetched (i ctx : Nat) : Steps (FetchStep i) (fetchInstr i ctx) := by
  have hr := fetchStep_refl i
  have ht := fetchStep_trans i
  refine steps_get_bind fun w => ?_
  extract_lets c
  refine (?_ : Steps (FetchStep i) _) w
  refine steps_bind ht (fetchParcel_fetched i ctx _) fun lo => steps_ite ?_ ?_
  · exact steps_bind ht (fetchParcel_fetched i ctx _) fun _ => steps_pure hr _
  · split
    · exact steps_pure hr _
    · exact steps_throw _

end Sys2Proof.Machine
end

section
/-! A chisel core's instruction as a whole (R124, R135): from the word that it fetches to what its command leaves. -/

namespace Sys2Proof.Machine

open Sys2Proof

/-! ### A command of a core that has fetched a word -/

section
variable {i : Nat} {h : Chisel} {x : Desc} {word len : Nat} {w u : Work} {s : State}
  {body : Chisel → Desc → Nat → Nat → Acc (Option (Work → Work))}

theorem chiselOn_core (hc : chiselOn s.dev i = some (h, x)) : h = getChisel s.dev i ∧ h.run = .running ∧ getDesc s.dev h.d = some x := by
  unfold chiselOn at hc
  dsimp only at hc
  split at hc
  · next hr =>
    obtain ⟨y, hy, he⟩ := Option.map_eq_some_iff.mp hc
    cases he
    exact ⟨rfl, hr, hy⟩
  · cases hc

theorem chiselStep_answers {f : Work → Work} (hc : chiselOn s.dev i = some (h, x))
    (hf : (fetchInstr i x.ctx).run (workOf s) = (.ok (word, len), w)) (hb : (body h x word len).run w = (.ok (some f), u)) :
    runWork (chiselStep i body) s = .next (commit s (f (snoopsUsed u))) := by
  refine runWork_eq ?_
  unfold chiselStep
  rw [show chiselOn (workOf s).dev i = some (h, x) from hc]
  dsimp only
  rw [acc_bind_ok (show (fetchInstr i x.ctx).run { workOf s with dest := [], snooped := [], flags := {} } = _ from hf)]
  dsimp only
  rw [hb]

theorem chiselStep_waits (hc : chiselOn s.dev i = some (h, x))
    (hf : (fetchInstr i x.ctx).run (workOf s) = (.ok (word, len), w)) (hb : (body h x word len).run w = (.error .wait, u)) :
    runWork (chiselStep i body) s = .next s := by
  refine runWork_unchanged ?_
  unfold chiselStep
  rw [show chiselOn (workOf s).dev i = some (h, x) from hc]
  dsimp only
  rw [acc_bind_ok (show (fetchInstr i x.ctx).run { workOf s with dest := [], snooped := [], flags := {} } = _ from hf)]
  dsimp only
  rw [hb]

/-! ### What a fetch leaves -/

theorem fetched_beside (hf : (fetchInstr i x.ctx).run (workOf s) = (.ok (word, len), w)) : besideCores w = besideCores (workOf s) :=
  fetchInstr_beside i x.ctx (workOf s) _ w hf

theorem fetched_core (hs : tabWf {} s.dev.chisels = true) (hc : chiselOn s.dev i = some (h, x))
    (hf : (fetchInstr i x.ctx).run (workOf s) = (.ok (word, len), w)) :
    CoreChanged i s.dev w.dev { h with fetched := (getChisel w.dev i).fetched } := by
  obtain ⟨rfl, -, -⟩ := chiselOn_core hc
  obtain ⟨f, hcore⟩ := fetchInstr_fetched i x.ctx (workOf s) _ w hf hs
  have hsame : (getChisel w.dev i).fetched = f := congrArg Chisel.fetched hcore.here
  rw [hsame]
  exact hcore

theorem besideCores_stores (hb : besideCores u = besideCores w) : u.stores = w.stores := congrArg (·.2.1) hb

theorem besideCores_wiped (hb : besideCores u = besideCores w) : u.wiped = w.wiped := congrArg (·.2.2) hb

theorem besideCores_dev {γ : Type} (f : Dev → γ) (hb : besideCores u = besideCores w) :
    f { restOf u.dev with chisels := [] } = f { restOf w.dev with chisels := [] } := congrArg (fun c => f c.1) hb

end

/-- A command that changes only the device after its fetch. -/
theorem fetched_runs {i : Nat} {h : Chisel} {x : Desc} {word len : Nat} {w : Work} {s : State} {g : Dev → Dev}
    {body : Chisel → Desc → Nat → Nat → Acc (Option (Work → Work))} (hc : chiselOn s.dev i = some (h, x))
    (hf : (fetchInstr i x.ctx).run (workOf s) = (.ok (word, len), w)) (hb : (body h x word len).run w = (.ok (some (onDev g)), w)) :
    runWork (chiselStep i body) s = .next { s with dev := g (snoopsUsed w).dev } := by
  have hbeside := fetched_beside hf
  rw [chiselStep_answers hc hf hb, commit_noStores s (onDev g (snoopsUsed w)) (besideCores_stores hbeside) (besideCores_wiped hbeside)]
  rfl

/-! ### Retirement -/

/-- A command of core `i` retires: `v` goes to the register that its word names, and `hs` are the handles that it leaves. -/
def Retires (i word : Nat) (h : Chisel) (s : State) (c : Instr) (v : W64) (hs : List Handle) : Prop :=
  ∃ t, exec c s = .next t ∧ (getChisel t.dev i).pc = h.pc + 4 ∧ (getChisel t.dev i).instret = h.instret + 1 ∧
    (getChisel t.dev i).regs = (setX (iRd word) v h).regs ∧ (getChisel t.dev i).handles = hs ∧
    (getChisel t.dev i).run = .running ∧ (∀ k, k ≠ i → getChisel t.dev k = getChisel s.dev k) ∧
    t.mem = s.mem ∧ t.host = s.host ∧ t.dev.rings = s.dev.rings ∧ t.dev.ctxs = s.dev.ctxs

section
variable {i rd word : Nat} {h : Chisel} {x : Desc} {s : State} {c : Instr} {v : W64} {hs : List Handle} {u : Work} {f : Tab (Option W16)}

theorem CoreChanged.snoopsUsed {i : Nat} {v : Dev} {u : Work} {c : Chisel} (h : CoreChanged i v u.dev c) :
    CoreChanged i v (Machine.snoopsUsed u).dev c := h.congr rfl rfl rfl

/-- A command that stores nothing and goes on to the next instruction retires. -/
theorem retires_of_core (hrun : h.run = .running) (hx : exec c s = .next (commit s (retireWith i x (iRd word) v (h.pc + 4) u)))
    (hst : u.stores = []) (hw : u.wiped = .none) (hu : CoreChanged i s.dev u.dev { h with fetched := f, handles := hs }) :
    Retires i word h s c v hs := by
  rw [commit_noStores s (retireWith i x (iRd word) v (h.pc + 4) u) hst hw] at hx
  have hr := hu.retire x.ctx ⟨iRd word, v, h.pc + 4⟩
  refine ⟨_, hx, ?_, ?_, ?_, ?_, ?_, hr.other, rfl, rfl, hr.rings, hr.ctxs⟩
  · exact (congrArg Chisel.pc hr.here).trans (retiredCore_pc ..)
  · exact (congrArg Chisel.instret hr.here).trans (retiredCore_instret ..)
  · exact (congrArg Chisel.regs hr.here).trans (setX_regs_congr _ _ rfl)
  · exact (congrArg Chisel.handles hr.here).trans (retiredCore_handles ..)
  · exact (congrArg Chisel.run hr.here).trans ((retiredCore_run ..).trans hrun)

end

/-! ### DWAIT and DPOLL (R135, R137) -/

section
variable {i n word len : Nat} {h : Chisel} {x : Desc} {w : Work} {s : State} {c : Instr}

theorem chiselStep_retires {body : Chisel → Desc → Nat → Nat → Acc (Option (Work → Work))} {v : W64}
    (hs : tabWf {} s.dev.chisels = true) (hc : chiselOn s.dev i = some (h, x))
    (hf : (fetchInstr i x.ctx).run (workOf s) = (.ok (word, len), w)) (hx : exec c s = runWork (chiselStep i body) s)
    (hb : body h x word len = pure (some (retireWith i x (iRd word) v (h.pc + 4)))) : Retires i word h s c v h.handles := by
  have hbeside := fetched_beside hf
  refine retires_of_core (x := x) (chiselOn_core hc).2.1 (hx.trans (chiselStep_answers hc hf (u := w) ?_))
    (besideCores_stores hbeside) (besideCores_wiped hbeside) (fetched_core hs hc hf).snoopsUsed
  rw [hb]
  exact acc_pure _ w

theorem dread_unused (hs : tabWf {} s.dev.chisels = true) (hc : chiselOn s.dev i = some (h, x))
    (hf : (fetchInstr i x.ctx).run (workOf s) = (.ok (word, len), w)) (hx : exec c s = runWork (dread i n) s)
    (hn : customOf word = some n) (hk : handleOf h (xreg h (iRs1 word)) = none) :
    Retires i word h s c (statusWord stMalformed {}) h.handles := by
  refine chiselStep_retires hs hc hf hx ?_
  rw [if_neg (not_not.mpr hn)]
  dsimp only
  rw [hk]

theorem dread_complete {k : Handle} {v : W64} (hs : tabWf {} s.dev.chisels = true) (hc : chiselOn s.dev i = some (h, x))
    (hf : (fetchInstr i x.ctx).run (workOf s) = (.ok (word, len), w)) (hx : exec c s = runWork (dread i n) s)
    (hn : customOf word = some n) (hk : handleOf h (xreg h (iRs1 word)) = some k) (hv : k.word = some v) :
    Retires i word h s c v (h.handles.set (xreg h (iRs1 word)).toNat {}) := by
  have hbeside := fetched_beside hf
  refine retires_of_core (x := x) (chiselOn_core hc).2.1 (hx.trans (chiselStep_answers hc hf (u := w)
      (f := fun w => retireWith i x (iRd word) v (h.pc + 4) (onDev (modChisel i fun c =>
        { c with handles := c.handles.set (xreg h (iRs1 word)).toNat {} }) w)) ?_))
    (besideCores_stores hbeside) (besideCores_wiped hbeside) ((fetched_core hs hc hf).snoopsUsed.mod fun c =>
        { c with handles := c.handles.set (xreg h (iRs1 word)).toNat {} })
  rw [if_neg (not_not.mpr hn)]
  dsimp only
  rw [hk]
  dsimp only
  rw [hv]
  exact acc_pure _ w

theorem dpoll_running {k : Handle} (hs : tabWf {} s.dev.chisels = true) (hc : chiselOn s.dev i = some (h, x))
    (hf : (fetchInstr i x.ctx).run (workOf s) = (.ok (word, len), w)) (hx : exec c s = runWork (dread i 2) s)
    (hn : customOf word = some 2) (hk : handleOf h (xreg h (iRs1 word)) = some k) (hv : k.word = none) :
    Retires i word h s c 0 h.handles := by
  refine chiselStep_retires hs hc hf hx ?_
  rw [if_neg (not_not.mpr hn)]
  dsimp only
  rw [hk]
  dsimp only
  rw [hv]
  rfl

theorem dwait_running {k : Handle} (hc : chiselOn s.dev i = some (h, x))
    (hf : (fetchInstr i x.ctx).run (workOf s) = (.ok (word, len), w))
    (hn : customOf word = some 1) (hk : handleOf h (xreg h (iRs1 word)) = some k) (hv : k.word = none) :
    runWork (dread i 1) s = .next s := by
  refine chiselStep_waits hc hf (u := w) ?_
  rw [if_neg (not_not.mpr hn)]
  dsimp only
  rw [hk]
  dsimp only
  rw [hv]
  rfl

end

end Sys2Proof.Machine
end

section
/-! Placing a sub-descriptor (R136): its checks leave the device as it is, but where they meet an uncorrectable word, which puts the
context on the failure path (R256, R416). -/

namespace Sys2Proof.Machine

open Sys2Proof

/-! ### The failure path leaves the context failed -/

theorem foldl_same {α β : Type} {f : Dev → α → Dev} {g : Dev → β} (hf : ∀ v a, g (f v a) = g v) :
    ∀ (l : List α) (v : Dev), g (l.foldl f v) = g v
  | [], _ => rfl
  | a :: l, v => (foldl_same hf l (f v a)).trans (hf v a)

theorem traceEnd_ctxs (x : Desc) (p : Nat) (st : Byte) (v : Dev) : (traceEnd x p st v).ctxs = v.ctxs := by
  unfold traceEnd tracePart trcCause
  dsimp only
  repeat' split
  all_goals rfl

theorem abortParts_ctxs (test : Desc → Bool) (v : Dev) : (abortParts test v).ctxs = v.ctxs :=
  foldl_same (g := Dev.ctxs) (fun _ _ => traceEnd_ctxs ..) _ _

theorem sendSegs_ctxs {grp node : Nat} {mask : BitVec 24} {begun : Option Nat} {seg : Nat} {bodies : List FabMsg} {v : Dev}
    {r : Nat × Dev} (h : sendSegs grp node mask begun seg bodies v = some r) : r.2.ctxs = v.ctxs := by
  unfold sendSegs at h
  split at h
  · cases h
  · cases h
    refine (foldl_same (g := Dev.ctxs) ?_ _ _).trans ?_
    · exact fun _ _ => rfl
    · repeat' split
      all_goals rfl

theorem sendMsg_ctxs (grp node : Nat) (mask : BitVec 24) (bodies : List FabMsg) (v : Dev) :
    ((sendMsg grp node mask bodies v).getD v).ctxs = v.ctxs := by
  unfold sendMsg
  cases h : sendSegs grp node mask none 0 bodies v with
  | none => rfl
  | some r => exact sendSegs_ctxs h

theorem abortNotices_ctxs (x : Nat) (v : Dev) : (abortNotices x v).ctxs = v.ctxs :=
  foldl_same (g := Dev.ctxs) (fun _ _ => foldl_same (g := Dev.ctxs) (fun _ _ => sendMsg_ctxs ..) _ _) _ _

theorem raise_ctxs (code ctx : Nat) (payload : List Byte) (v : Dev) : (raise code ctx payload v).ctxs = v.ctxs := by
  rw [raise_only]

theorem failCtx_ctxs {x tag ring st : Nat} {v : Dev} (h : (getCtx v x).state = 1) :
    (failCtx x tag ring st v).ctxs = (modCtx x (fun c => { c with state := 2 }) v).ctxs := by
  unfold failCtx
  rw [if_neg (not_not.mpr h)]
  extract_lets v1 v2 v3 idle v4 v5
  have h5 : v5.ctxs = v4.ctxs := raise_ctxs ..
  have h4 : v4.ctxs = v2.ctxs := rfl
  have h2 : v2.ctxs = v1.ctxs := abortParts_ctxs _ _
  exact (abortNotices_ctxs x v5).trans (h5.trans (h4.trans h2))

/-- What is put and is not the default is what is found, in any table. -/
theorem tabGet_tabPut_here {α : Type} [DecidableEq α] (d : α) {v : α} (hv : v ≠ d) (i : Nat) : ∀ t : Tab α, tabGet d (tabPut d t i v) i = v
  | [] => by simp [tabPut, hv, tabGet]
  | (k, w) :: t => by
    unfold tabPut
    rw [if_neg hv, if_neg hv]
    split
    · simp [tabGet]
    · split
      · simp [tabGet, *]
      · simp [tabGet, *, tabGet_tabPut_here d hv i t]

theorem failCtxOpen_state (x st : Nat) (v : Dev) : (getCtx (failCtxOpen x st v) x).state ≠ 1 := by
  unfold failCtxOpen
  extract_lets bs
  generalize hu : ({ v with free := v.free + 10 } : Dev) = u
  by_cases h : (getCtx u x).state = 1
  · have hput : getCtx (modCtx x (fun c => { c with state := 2 }) u) x = { getCtx u x with state := 2 } :=
      tabGet_tabPut_here _ (fun hd => absurd (show (2 : BitVec 2) = 0 from congrArg Ctx.state hd) (by decide)) x _
    rw [getCtx, failCtx_ctxs h, ← getCtx, hput]
    exact (by decide : (2 : BitVec 2) ≠ 1)
  · unfold failCtx
    rw [if_pos h]
    exact h

/-! ### The checks of a class -/

/-- A step of a descriptor's checks: all is as it was, or the context is not in state 1. -/
def Checked (ctx : Nat) (w u : Work) : Prop := u = w ∨ (getCtx u.dev ctx).state ≠ 1

theorem checked_refl (ctx : Nat) (w : Work) : Checked ctx w w := .inl rfl

theorem checked_trans (ctx : Nat) (w u t : Work) (h : Checked ctx w u) (k : Checked ctx u t) : Checked ctx w t := by
  rcases k with rfl | k
  · exact h
  · exact .inr k

theorem steps_mapM {α β : Type} {R : Work → Work → Prop} {f : α → Acc β} (hr : ∀ w, R w w) (ht : ∀ w u t, R w u → R u t → R w t)
    (hf : ∀ a, Steps R (f a)) : ∀ l : List α, Steps R (l.mapM f)
  | [] => by rw [List.mapM_nil]; exact steps_pure hr _
  | a :: l => by
    rw [List.mapM_cons]
    exact steps_bind ht (hf a) fun _ => steps_bind ht (steps_mapM hr ht hf l) fun _ => steps_pure hr _

theorem placeOf_checked (ctx : Nat) (va : W64) : Steps (Checked ctx) (placeOf ctx va) := by
  have hr := checked_refl ctx
  refine steps_get_bind fun w => ?_
  split
  · exact steps_pure hr _ w
  · split
    · exact steps_pure hr _ w
    · exact steps_throw _ w
    · split
      · exact stepsAt_bind (checked_trans ctx) (stepsAt_set (.inr (failCtxOpen_state _ _ _))) fun _ u _ => steps_pure hr _ u
      · exact steps_pure hr _ w

theorem slotsPass_checked (x : Desc) (slots : List Nat) (test : Place → Bool) : Steps (Checked x.ctx) (slotsPass x slots test) :=
  steps_bind (checked_trans _) (steps_mapM (checked_refl _) (checked_trans _)
    (fun _ => steps_get_bind fun w => placeOf_checked x.ctx _ w) slots) fun _ => steps_pure (checked_refl _) _

theorem planMm_checked (x : Desc) : Steps (Checked x.ctx) (planMm x) := by
  have hr := checked_refl x.ctx
  refine steps_ite (steps_pure hr _) ?_
  exact steps_bind (checked_trans _) (slotsPass_checked _ _ _) fun _ => steps_ite (steps_pure hr _) (steps_pure hr _)

theorem planCopy_checked (x : Desc) : Steps (Checked x.ctx) (planCopy x) := by
  have hr := checked_refl x.ctx
  refine steps_get_bind fun w => ?_
  exact steps_ite (steps_pure hr _) (steps_pure hr _) w

/-- The checks of a class that a chisel core may launch (R136). -/
theorem planOf_checked {c : Nat} {x : Desc} (h : subAllowed c x = true) : Steps (Checked x.ctx) (planOf x) := by
  have hr := checked_refl x.ctx
  have hclass : x.cls = 0 ∨ x.cls = 1 ∨ x.cls = 2 ∨ x.cls = 7 := by
    unfold subAllowed at h
    dsimp only at h
    split at h
    · exact .inl ‹_›
    · split at h
      · rcases ‹x.cls = 1 ∨ x.cls = 2› with h1 | h2
        · exact .inr (.inl h1)
        · exact .inr (.inr (.inl h2))
      · exact .inr (.inr (.inr (of_decide_eq_true h)))
  unfold planOf
  rcases hclass with h | h | h | h <;> rw [h]
  · exact planMm_checked x
  · exact steps_ite (steps_pure hr _) (steps_pure hr _)
  · exact steps_pure hr _
  · exact planCopy_checked x

end Sys2Proof.Machine
end

section
/-! DLAUNCH (R135, R136, R240): a sub-descriptor enters staging under a chisel core's lowest free handle. -/

namespace Sys2Proof.Machine

open Sys2Proof

/-! ### What enters staging -/

/-- A launched sub-descriptor before its parts are made. -/
def launched (i : Nat) (h : Chisel) (x : Desc) (hd : Nat) (bs : List Byte) (v : Dev) : Desc :=
  { id := v.nextDesc, ring := x.ring, sub := some (i, hd), parent := some (h.d, h.p), ctx := x.ctx, unitIndex := x.unitIndex
    step := x.step, time := now v, bytes := bs, cls := leAt bs 0 1 % 16 }

theorem withParts_only (x : Desc) (units : Option (List Nat)) : withParts x units = { x with parts := (withParts x units).parts } := by
  cases units <;> rfl

/-- A launched sub-descriptor in staging, its handle taken; it holds a stream table entry where it has parts. -/
def subStaged (i hd : Nat) (y : Desc) (held : Bool) (v : Dev) : Dev :=
  let v := stabForget (launchOf (fun k => k = i)) (modChisel i (fun h => { h with handles := h.handles.set hd { desc := some y.id } })
    { v with descs := v.descs ++ [y], nextDesc := y.id + 1 })
  countQueues y (if held then stabHold (i / 8) y.id 0 v else v)

theorem countQueues_rest (x : Desc) (v : Dev) : restOf (countQueues x v) = restOf v := by
  have hmark (ctx u : Nat) (v : Dev) (k : Nat) : restOf (markQueue ctx u v k) = restOf v := by
    unfold markQueue
    dsimp only
    split <;> rfl
  unfold countQueues
  extract_lets u
  split
  · rfl
  · split
    · split
      · rfl
      · split
        · rfl
        · split
          · exact foldl_same (g := restOf) (hmark x.ctx u) _ v
          · rfl
    · split
      · rfl
      · exact foldl_same (g := restOf) (fun v u => hmark x.ctx u v _) _ v

section
variable {i hd : Nat} {y : Desc} {held : Bool} {v : Dev}

theorem subStaged_tables : coreTables (subStaged i hd y held v) =
    coreTables (modChisel i (fun h => { h with handles := h.handles.set hd { desc := some y.id } }) { v with descs := v.descs ++ [y] }) := by
  unfold subStaged
  extract_lets u
  refine (congrArg coreTables (countQueues_rest y _)).trans ?_
  change coreTables (if held then stabHold (i / 8) y.id 0 u else u) = coreTables u
  split
  · rw [stabHold_only]
    rfl
  · rfl

theorem subStaged_ctxs : (subStaged i hd y held v).ctxs = v.ctxs := congrArg (·.2.2.1) subStaged_tables

theorem subStaged_descs : (subStaged i hd y held v).descs = v.descs ++ [y] := congrArg (·.2.2.2) subStaged_tables

theorem subStaged_core (hw : tabWf {} v.chisels = true) :
    CoreChanged i v (subStaged i hd y held v) { getChisel v i with handles := (getChisel v i).handles.set hd { desc := some y.id } } :=
  (CoreChanged.mod (u := { v with descs := v.descs ++ [y] }) ((CoreChanged.refl hw).congr rfl rfl rfl)
    fun h => { h with handles := h.handles.set hd { desc := some y.id } }).tables subStaged_tables

end

/-! ### The launch as a stage -/

/-- Sub-descriptor `y` has entered staging. -/
structure SubEntered (i hd : Nat) (w u : Work) (y : Desc) : Prop where
  descs : u.dev.descs = w.dev.descs ++ [y]
  core : tabWf {} w.dev.chisels = true →
    CoreChanged i w.dev u.dev { getChisel w.dev i with handles := (getChisel w.dev i).handles.set hd { desc := some y.id } }
  stores : u.stores = w.stores
  wiped : u.wiped = w.wiped

theorem getCtx_congr {u v : Dev} (h : u.ctxs = v.ctxs) (c : Nat) : getCtx u c = getCtx v c := by
  rw [getCtx, h, ← getCtx]

/-- A launched sub-descriptor enters staging; in a context on the failure path its parts are aborted (R416). -/
def subStagedIn (i hd ctx : Nat) (y : Desc) (held : Bool) (v : Dev) : Dev :=
  let u := subStaged i hd y held v
  if (getCtx u ctx).state = 1 then u else abortParts (fun q => q.id = y.id) u

theorem subStagedIn_ctxs (i hd ctx : Nat) (y : Desc) (held : Bool) (v : Dev) : (subStagedIn i hd ctx y held v).ctxs = v.ctxs := by
  unfold subStagedIn
  dsimp only
  split
  · exact subStaged_ctxs
  · exact (abortParts_ctxs ..).trans subStaged_ctxs

section
variable {i hd : Nat} {h : Chisel} {x : Desc} {bs : List Byte} {placed : Bool} {w u : Work}

theorem subEnter_run (hu : (subEnter i h x hd bs placed).run w = (.ok (), u)) :
    ∃ bs' units t, (placed = false → units = none) ∧ Checked x.ctx w t ∧
      u = onDev (subStagedIn i hd x.ctx (withParts (launched i h x hd bs' w.dev) units) units.isSome) t := by
  unfold subEnter at hu
  rw [acc_bind_ok (acc_get w)] at hu
  extract_lets v bs' y at hu
  split at hu
  · next hplan =>
    simp only [Bool.and_eq_true] at hplan
    obtain ⟨⟨hplaced, -⟩, hallowed⟩ := hplan
    rw [acc_bind] at hu
    split at hu
    · next units t ht =>
      cases hu
      exact ⟨bs', units, t, fun hp => absurd (hplaced.symm.trans hp) (by decide), planOf_checked hallowed w units t ht, rfl⟩
    · cases hu
  · cases hu
    exact ⟨bs', none, w, fun _ => rfl, checked_refl _ w, rfl⟩

/-- Where its context is not on the failure path, a launch only stages the sub-descriptor. -/
theorem subEnter_entered (hu : (subEnter i h x hd bs placed).run w = (.ok (), u)) (hctx : (getCtx u.dev x.ctx).state = 1) :
    ∃ bs' units, (placed = false → units = none) ∧ SubEntered i hd w u (withParts (launched i h x hd bs' w.dev) units) := by
  obtain ⟨bs', units, t, hunits, hchecked, rfl⟩ := subEnter_run hu
  have hstate : (getCtx t.dev x.ctx).state = 1 := by
    change (getCtx (subStagedIn _ _ _ _ _ t.dev) _).state = 1 at hctx
    rwa [getCtx_congr (subStagedIn_ctxs ..)] at hctx
  obtain rfl : t = w := hchecked.resolve_right (not_not.mpr hstate)
  refine ⟨bs', units, hunits, ?_⟩
  have hstaged (y : Desc) : subStagedIn i hd x.ctx y units.isSome t.dev = subStaged i hd y units.isSome t.dev :=
    if_pos (by rwa [getCtx_congr subStaged_ctxs])
  refine ⟨?_, fun hw => ?_, rfl, rfl⟩
  · exact (congrArg Dev.descs (hstaged _)).trans subStaged_descs
  · change CoreChanged i t.dev (subStagedIn ..) _
    rw [hstaged]
    exact subStaged_core hw

/-- One that does not begin at a multiple of 64 bytes is not read (log 109). -/
theorem subEnter_unplaced (i hd : Nat) (h : Chisel) (x : Desc) (bs : List Byte) (w : Work) :
    (subEnter i h x hd bs false).run w =
      (.ok (), onDev (subStagedIn i hd x.ctx (withParts (launched i h x hd bs w.dev) none) false) w) := rfl

end

/-! ### DLAUNCH -/

theorem acc_map_ok {α β : Type} {m : Acc α} {f : α → β} {w u : Work} {a : α} (h : m.run w = (.ok a, u)) :
    (f <$> m).run w = (.ok (f a), u) := by
  rw [map_eq_pure_bind, acc_bind_ok h]
  rfl

theorem atomicTarget_okSame (i ctx : Nat) (a : W64) (write : Bool) : OkSame readView (atomicTarget i ctx a write) := by
  refine okSame_ite (okSame_pure _) (okSame_bind (steps_tryCatch_throw (translate_leaves _ _ _).okSame _) fun t => ?_)
  cases t with
  | dev d => exact okSame_pure _
  | host p => exact okSame_throw _

theorem subBytes_okSame (i ctx : Nat) (a : W64) : OkSame readView (subBytes i ctx a) :=
  okSame_bind (chRead_okSame _ _ _ _) fun _ => okSame_bind (okSame_mapM (fun _ => chRead_okSame _ _ _ _) _) fun _ => okSame_pure _

/-- What a launch reads of the descriptor at `a`: nothing where `a` is no multiple of 64 (log 109). -/
inductive SubRead (i ctx : Nat) (a : W64) (w : Work) : Bool → List Byte → Work → Prop
  | unaligned (hodd : a.toNat % 64 ≠ 0) : SubRead i ctx a w false [] w
  | aligned {k : Nat} {bs : List Byte} {w1 w2 : Work} (heven : a.toNat % 64 = 0)
      (htarget : (atomicTarget i ctx a false).run w = (.ok (k, true), w1)) (hbytes : (subBytes i ctx a).run w1 = (.ok bs, w2)) :
      SubRead i ctx a w true bs w2

theorem SubRead.view {i ctx : Nat} {a : W64} {w u : Work} {placed : Bool} {bs : List Byte} (h : SubRead i ctx a w placed bs u) :
    readView u = readView w := by
  cases h with
  | unaligned => rfl
  | aligned _ htarget hbytes => exact (subBytes_okSame i ctx a _ _ _ hbytes).trans (atomicTarget_okSame i ctx a false _ _ _ htarget)

section
variable {i word len hd : Nat} {h : Chisel} {x : Desc} {w : Work} {s : State}

theorem dlaunch_full (hc : chiselOn s.dev i = some (h, x)) (hf : (fetchInstr i x.ctx).run (workOf s) = (.ok (word, len), w))
    (hn : customOf word = some 0) (hfull : h.handles.findIdx? (fun k => k.desc.isNone) = none)
    (hrun : h.handles.any (fun k => k.word.isNone) = true) : runWork (dlaunch i) s = .next s := by
  refine chiselStep_waits hc hf (u := w) ?_
  rw [if_neg (not_not.mpr hn)]
  dsimp only
  rw [hfull]
  dsimp only
  rw [if_pos hrun]
  rfl

theorem dlaunch_answered {c : Instr} (hs : tabWf {} s.dev.chisels = true) (hc : chiselOn s.dev i = some (h, x))
    (hf : (fetchInstr i x.ctx).run (workOf s) = (.ok (word, len), w)) (hx : exec c s = runWork (dlaunch i) s)
    (hn : customOf word = some 0) (hfull : h.handles.findIdx? (fun k => k.desc.isNone) = none)
    (hrun : h.handles.any (fun k => k.word.isNone) = false) : Retires i word h s c (BitVec.allOnes 64) h.handles := by
  refine chiselStep_retires hs hc hf hx ?_
  rw [if_neg (not_not.mpr hn)]
  dsimp only
  rw [hfull]
  dsimp only
  rw [if_neg (by rw [hrun]; decide)]

/-- A launch that finds no stream table entry waits, which is counted once (R240, R462). -/
theorem dlaunch_blocked {c : Instr} (hx : exec c s = runWork (dlaunch i) s) (hc : chiselOn s.dev i = some (h, x))
    (hf : (fetchInstr i x.ctx).run (workOf s) = (.ok (word, len), w)) (hn : customOf word = some 0)
    (hfree : h.handles.findIdx? (fun k => k.desc.isNone) = some hd) (hroom : stabFree w.dev (i / 8) = none) :
    exec c s = .next { s with dev := stabWait (i / 8) (.launch i) (snoopsUsed w).dev } := by
  refine hx.trans (fetched_runs hc hf ?_)
  rw [if_neg (not_not.mpr hn)]
  dsimp only
  rw [hfree]
  dsimp only
  rw [acc_bind_ok (acc_get w), if_pos (by rw [hroom]; rfl)]
  rfl

theorem stabWait_tables (c : Nat) (who : StabIssuer) (v : Dev) : coreTables (stabWait c who v) = coreTables v := by
  by_cases h : who ∈ v.stabWaits
  · rw [stabWait_waiting h]
  · rw [stabWait_new h]
    rfl

theorem stabWait_waits (c : Nat) (who : StabIssuer) (v : Dev) :
    (stabWait c who v).stabWaits = if who ∈ v.stabWaits then v.stabWaits else v.stabWaits ++ [who] := by
  split
  · next h => rw [stabWait_waiting h]
  · next h =>
    rw [stabWait_new h]
    rfl

theorem dlaunch_launches {bs : List Byte} {placed : Bool} {w2 w3 : Work} (hc : chiselOn s.dev i = some (h, x))
    (hf : (fetchInstr i x.ctx).run (workOf s) = (.ok (word, len), w))
    (hn : customOf word = some 0) (hfree : h.handles.findIdx? (fun k => k.desc.isNone) = some hd)
    (hroom : stabFree w.dev (i / 8) ≠ none) (hread : SubRead i x.ctx (xreg h (iRs1 word)) w placed bs w2)
    (henter : (subEnter i h x hd bs placed).run w2 = (.ok (), w3)) :
    runWork (dlaunch i) s = .next (commit s (retireWith i x (iRd word) (BitVec.ofNat 64 hd) (h.pc + 4) (snoopsUsed w3))) := by
  refine chiselStep_answers hc hf ?_
  rw [if_neg (not_not.mpr hn)]
  dsimp only
  rw [hfree]
  dsimp only
  rw [acc_bind_ok (acc_get w), if_neg (by rwa [Option.isNone_iff_eq_none])]
  cases hread with
  | unaligned hodd =>
    rw [if_pos hodd, acc_bind_ok (acc_pure false w), if_neg (by decide), acc_bind_ok (acc_pure [] w), acc_bind_ok henter]
    rfl
  | aligned heven htarget hbytes =>
    rw [if_neg (not_not.mpr heven), acc_bind_ok (acc_map_ok htarget), if_pos rfl, acc_bind_ok hbytes, acc_bind_ok henter]
    rfl

/-- The sub-descriptor is in staging, and the instruction has retired. -/
theorem dlaunch_staged {c : Instr} {bs : List Byte} {placed : Bool} {w2 w3 : Work} (hs : tabWf {} s.dev.chisels = true)
    (hx : exec c s = runWork (dlaunch i) s) (hc : chiselOn s.dev i = some (h, x))
    (hf : (fetchInstr i x.ctx).run (workOf s) = (.ok (word, len), w))
    (hn : customOf word = some 0) (hfree : h.handles.findIdx? (fun k => k.desc.isNone) = some hd)
    (hroom : stabFree w.dev (i / 8) ≠ none) (hread : SubRead i x.ctx (xreg h (iRs1 word)) w placed bs w2)
    (henter : (subEnter i h x hd bs placed).run w2 = (.ok (), w3)) (hctx : (getCtx w3.dev x.ctx).state = 1) :
    Retires i word h s c (BitVec.ofNat 64 hd) (h.handles.set hd { desc := some s.dev.nextDesc }) ∧
      ∃ t y, exec c s = .next t ∧ t.dev.descs = s.dev.descs ++ [y] ∧ y.id = s.dev.nextDesc ∧
        y.sub = some (i, hd) ∧ y.parent = some (h.d, h.p) ∧ y.ctx = x.ctx ∧
        (placed = false → y.parts = [{ state := .ended, status := stMalformed }]) := by
  obtain ⟨bs', units, hunits, hentered⟩ := subEnter_entered henter hctx
  have hbeside : besideCores w2 = besideCores (workOf s) := (besideCores_of_view hread.view).trans (fetched_beside hf)
  have hnext : w2.dev.nextDesc = s.dev.nextDesc := besideCores_dev Dev.nextDesc hbeside
  have hcore2 : CoreChanged i s.dev w2.dev { h with fetched := (getChisel w.dev i).fetched } :=
    (fetched_core hs hc hf).tables (coreTables_of_view hread.view)
  have hy := withParts_only (launched i h x hd bs' w2.dev) units
  have hid : (withParts (launched i h x hd bs' w2.dev) units).id = s.dev.nextDesc := (congrArg Desc.id hy).trans hnext
  have hcore := hcore2.trans (hentered.core hcore2.wf)
  rw [hcore2.here, hid] at hcore
  have hstores : w3.stores = [] := hentered.stores.trans (besideCores_stores hbeside)
  have hwiped : w3.wiped = .none := hentered.wiped.trans (besideCores_wiped hbeside)
  have hrun := hx.trans (dlaunch_launches hc hf hn hfree hroom hread henter)
  refine ⟨?_, ?_⟩
  · exact retires_of_core (f := (getChisel w.dev i).fetched) (chiselOn_core hc).2.1 hrun hstores hwiped hcore.snoopsUsed
  · rw [commit_noStores s (retireWith i x (iRd word) (BitVec.ofNat 64 hd) (h.pc + 4) (snoopsUsed w3)) hstores hwiped] at hrun
    refine ⟨_, _, hrun, ?_, hid, congrArg Desc.sub hy, congrArg Desc.parent hy,
      (congrArg Desc.ctx hy :), fun hp => ?_⟩
    · refine hentered.descs.trans ?_
      rw [show w2.dev.descs = s.dev.descs from besideCores_dev Dev.descs hbeside]
    · rw [hunits hp]
      rfl

end

end Sys2Proof.Machine
end

section
/-! Barriers and ends of chisel cores (R132, R135): CBAR and ECALL. -/

namespace Sys2Proof.Machine

open Sys2Proof

/-! ### A barrier -/

theorem kernelCores_nodup (v : Dev) (d c : Nat) : (kernelCores v d c).Nodup :=
  (List.nodup_range.map fun _ _ h => Nat.add_left_cancel h).filter _

theorem mem_kernelCores {v : Dev} {d c k : Nat} (h : k ∈ kernelCores v d c) : (getChisel v k).run ≠ .idle ∧ (getChisel v k).d = d := by
  simpa using (List.mem_filter.mp h).2

/-- Which cores run parts of a kernel rests on the runs and the kernels of the cores alone. -/
theorem kernelCores_congr {v u : Dev} (hrun : ∀ k, (getChisel u k).run = .idle ↔ (getChisel v k).run = .idle)
    (hd : ∀ k, (getChisel u k).d = (getChisel v k).d) (d c : Nat) : kernelCores u d c = kernelCores v d c := by
  unfold kernelCores
  refine List.filter_congr fun k _ => ?_
  simp only [ne_eq, hrun, hd]

/-- A core that goes on from its barrier. -/
def released (c : Chisel) : Chisel := { c with run := .running, barrierRd := 0 }

/-- What a barrier that opens does to one core. -/
def releaseCore (ctx : Nat) (out : W64) (v : Dev) (i : Nat) : Dev :=
  retireInstr i ctx ⟨(getChisel v i).barrierRd, out, (getChisel v i).pc + 4⟩ (modChisel i released v)

theorem releaseCore_core {ctx i : Nat} {out : W64} {v : Dev} (hw : tabWf {} v.chisels = true) :
    CoreChanged i v (releaseCore ctx out v i) (retiredCore ⟨(getChisel v i).barrierRd, out, (getChisel v i).pc + 4⟩
      (Config.chiselStall (modChisel i released v).free) (released (getChisel v i))) :=
  ((CoreChanged.refl hw).mod released).retire ctx _

/-- A core of an open barrier runs on behind it. -/
def WentOn (c c' : Chisel) : Prop := c'.run = .running ∧ c'.pc = c.pc + 4 ∧ c'.instret = c.instret + 1

theorem releaseCores_cores (ctx : Nat) (out : W64) : ∀ (l : List Nat) (v : Dev), l.Nodup → tabWf {} v.chisels = true →
    (∀ k ∈ l, WentOn (getChisel v k) (getChisel (l.foldl (releaseCore ctx out) v) k)) ∧
      ∀ k, k ∉ l → getChisel (l.foldl (releaseCore ctx out) v) k = getChisel v k
  | [], _, _, _ => ⟨fun _ h => absurd h List.not_mem_nil, fun _ _ => rfl⟩
  | i :: l, v, hl, hw => by
    obtain ⟨hi, hl⟩ := List.nodup_cons.mp hl
    have hcore := releaseCore_core (ctx := ctx) (out := out) (i := i) hw
    obtain ⟨hin, hout⟩ := releaseCores_cores ctx out l (releaseCore ctx out v i) hl hcore.wf
    refine ⟨fun k hk => ?_, fun k hk => ?_⟩
    · rw [List.foldl_cons]
      by_cases he : k = i
      · subst he
        rw [hout k hi, hcore.here]
        exact ⟨retiredCore_run .., rfl, rfl⟩
      · rw [← hcore.other k he]
        exact hin k ((List.mem_cons.mp hk).resolve_left he)
    · obtain ⟨he, hk⟩ := not_or.mp (fun h => hk (List.mem_cons.mpr h))
      rw [List.foldl_cons, hout k hk, hcore.other k he]

theorem openBarrier_closed {d c : Nat} {v : Dev} (h : ∃ k ∈ kernelCores v d c, (getChisel v k).run ≠ .atCbar) : openBarrier d c v = v := by
  obtain ⟨k, hk, hrun⟩ := h
  refine if_neg fun hall => hrun ?_
  simpa using List.all_eq_true.mp hall k hk

theorem openBarrier_open {d c : Nat} {v : Dev} (h : ∀ k ∈ kernelCores v d c, (getChisel v k).run = .atCbar) :
    openBarrier d c v = (kernelCores v d c).foldl
      (releaseCore (((getDesc v d).map (·.ctx)).getD 0) (if kernelBroken v d c then 1 else 0)) v :=
  if_pos (List.all_eq_true.mpr fun k hk => decide_eq_true (h k hk))

/-- A barrier touches no core but those that wait at it. -/
theorem openBarrier_other {d c k : Nat} {v : Dev} (hw : tabWf {} v.chisels = true) (hk : k ∉ kernelCores v d c) :
    getChisel (openBarrier d c v) k = getChisel v k := by
  by_cases h : ∀ j ∈ kernelCores v d c, (getChisel v j).run = .atCbar
  · rw [openBarrier_open h]
    exact (releaseCores_cores _ _ _ v (kernelCores_nodup v d c) hw).2 k hk
  · rw [openBarrier_closed (by push Not at h; exact h)]

theorem openBarrier_releases {d c : Nat} {v : Dev} (hw : tabWf {} v.chisels = true)
    (h : ∀ k ∈ kernelCores v d c, (getChisel v k).run = .atCbar) :
    ∀ k ∈ kernelCores v d c, WentOn (getChisel v k) (getChisel (openBarrier d c v) k) := by
  rw [openBarrier_open h]
  exact (releaseCores_cores _ _ _ v (kernelCores_nodup v d c) hw).1

theorem openBarrier_descs (d c : Nat) (v : Dev) : (openBarrier d c v).descs = v.descs := by
  by_cases h : ∀ j ∈ kernelCores v d c, (getChisel v j).run = .atCbar
  · rw [openBarrier_open h]
    refine foldl_same (g := Dev.descs) ?_ _ v
    exact fun _ _ => rfl
  · rw [openBarrier_closed (by push Not at h; exact h)]

/-! ### CBAR -/

/-- A core that waits at its barrier with the register that its answer goes to. -/
def waitingCore (rd : Nat) (c : Chisel) : Chisel := { c with run := .atCbar, barrierRd := rd }

section
variable {i word len : Nat} {h : Chisel} {x : Desc} {w : Work} {s : State}

/-- The cores as CBAR finds them: those of the state, its own waiting. -/
theorem cbar_core (hs : tabWf {} s.dev.chisels = true) (hc : chiselOn s.dev i = some (h, x))
    (hf : (fetchInstr i x.ctx).run (workOf s) = (.ok (word, len), w)) :
    CoreChanged i s.dev (modChisel i (waitingCore (iRd word)) (snoopsUsed w).dev)
      (waitingCore (iRd word) { h with fetched := (getChisel w.dev i).fetched }) :=
  (fetched_core hs hc hf).snoopsUsed.mod _

theorem cbar_runs (hc : chiselOn s.dev i = some (h, x)) (hf : (fetchInstr i x.ctx).run (workOf s) = (.ok (word, len), w))
    (hn : customOf word = some 3) : runWork (cbar i) s =
      .next { s with dev := openBarrier h.d (i / 8) (modChisel i (waitingCore (iRd word)) (snoopsUsed w).dev) } := by
  refine fetched_runs (g := fun v => openBarrier h.d (i / 8) (modChisel i (waitingCore (iRd word)) v)) hc hf ?_
  rw [if_neg (not_not.mpr hn)]
  rfl

theorem waiting_kernelCores {v : Dev} {rd : Nat} {f : Tab (Option W16)} (hc : chiselOn s.dev i = some (h, x))
    (hv : CoreChanged i s.dev v (waitingCore rd { h with fetched := f })) (d c : Nat) : kernelCores v d c = kernelCores s.dev d c := by
  obtain ⟨hh, hrun, -⟩ := chiselOn_core hc
  refine kernelCores_congr (fun k => ?_) (fun k => ?_) d c
  · by_cases he : k = i
    · subst he
      rw [hv.here, ← hh, hrun]
      exact ⟨nofun, nofun⟩
    · rw [hv.other k he]
  · by_cases he : k = i
    · subst he
      rw [hv.here, ← hh]
      rfl
    · rw [hv.other k he]

/-- CBAR before the other cores of the kernel on the cluster have come. -/
theorem cbar_closed (hs : tabWf {} s.dev.chisels = true) (hc : chiselOn s.dev i = some (h, x))
    (hf : (fetchInstr i x.ctx).run (workOf s) = (.ok (word, len), w)) (hn : customOf word = some 3)
    (hk : ∃ k ∈ kernelCores s.dev h.d (i / 8), k ≠ i ∧ (getChisel s.dev k).run ≠ .atCbar) :
    ∃ t, runWork (cbar i) s = .next t ∧ (getChisel t.dev i).run = .atCbar ∧ (getChisel t.dev i).barrierRd = iRd word ∧
      (getChisel t.dev i).pc = h.pc ∧ (∀ k, k ≠ i → getChisel t.dev k = getChisel s.dev k) ∧ t.mem = s.mem := by
  have hcore := cbar_core hs hc hf
  obtain ⟨k, hmem, hne, hrun⟩ := hk
  refine ⟨_, cbar_runs hc hf hn, ?_⟩
  rw [openBarrier_closed ⟨k, by rwa [waiting_kernelCores hc hcore], by rwa [hcore.other k hne]⟩, hcore.here]
  exact ⟨rfl, rfl, rfl, hcore.other, rfl⟩

/-- CBAR of the last core of the kernel on the cluster. -/
theorem cbar_opens (hs : tabWf {} s.dev.chisels = true) (hc : chiselOn s.dev i = some (h, x))
    (hf : (fetchInstr i x.ctx).run (workOf s) = (.ok (word, len), w)) (hn : customOf word = some 3)
    (hall : ∀ k ∈ kernelCores s.dev h.d (i / 8), k ≠ i → (getChisel s.dev k).run = .atCbar) :
    ∃ t, runWork (cbar i) s = .next t ∧ (∀ k ∈ kernelCores s.dev h.d (i / 8), WentOn (getChisel s.dev k) (getChisel t.dev k)) ∧
      t.mem = s.mem := by
  have hcore := cbar_core hs hc hf
  have hsame := waiting_kernelCores hc hcore h.d (i / 8)
  have hopen : ∀ k ∈ kernelCores (modChisel i (waitingCore (iRd word)) (snoopsUsed w).dev) h.d (i / 8),
      (getChisel (modChisel i (waitingCore (iRd word)) (snoopsUsed w).dev) k).run = .atCbar := fun k hk => by
    by_cases he : k = i
    · rw [he, hcore.here]
      rfl
    · rw [hcore.other k he]
      exact hall k (hsame ▸ hk) he
  refine ⟨_, cbar_runs hc hf hn, fun k hk => ?_, rfl⟩
  have hwent := openBarrier_releases hcore.wf hopen k (hsame.symm ▸ hk)
  by_cases he : k = i
  · subst he
    rw [hcore.here] at hwent
    rw [← (chiselOn_core hc).1]
    exact hwent
  · rwa [hcore.other k he] at hwent

/-! ### ECALL -/

theorem ecall_waits (hc : chiselOn s.dev i = some (h, x)) (hf : (fetchInstr i x.ctx).run (workOf s) = (.ok (word, len), w))
    (hn : isEcall word = true) (hrun : h.handles.any (fun k => k.desc.isSome && k.word.isNone) = true) :
    runWork (ecall i) s = .next s := by
  refine chiselStep_waits hc hf (u := w) ?_
  rw [if_neg (by rw [hn]; decide), if_pos hrun]
  rfl

theorem ecall_runs (hc : chiselOn s.dev i = some (h, x)) (hf : (fetchInstr i x.ctx).run (workOf s) = (.ok (word, len), w))
    (hn : isEcall word = true) (hrun : h.handles.any (fun k => k.desc.isSome && k.word.isNone) = false) :
    let st := if xreg h 10 = 0 then stSuccess else stKernelError
    runWork (ecall i) s = .next { s with dev := chiselEnd i st 0 ((xreg h 10).setWidth 16) false (snoopsUsed w).dev } := by
  refine fetched_runs hc hf ?_
  rw [if_neg (by rw [hn]; decide), if_neg (by rw [hrun]; decide)]
  rfl

end

/-- A chisel core whose part has ended. -/
def idleCore (c : Chisel) : Chisel := { c with run := .idle, reserved := none }

/-- What the end of a core's part leaves before its barrier is looked at. -/
def coreEnded (i : Nat) (st : Byte) (a : W64) (code : W16) (broken : Bool) (c : Chisel) (v : Dev) : Dev :=
  withEnded c.d c.p st a {} (modPart c.d c.p (fun q => { q with exitCode := code, progress := b2n broken })
    (stabForget (launchOf (fun k => k = i)) (modChisel i idleCore v)))

/-- The part that a chisel core has ended. -/
def chiselPart (st : Byte) (a : W64) (code : W16) (broken : Bool) (q : Part) : Part :=
  endedPart st a {} { q with exitCode := code, progress := b2n broken }

section
variable {i : Nat} {x : Desc} {v : Dev} {c : Chisel} {q : Part} {st : Byte} {a : W64} {code : W16} {broken : Bool}

theorem coreEnded_desc (hx : getDesc v c.d = some x) (hq : x.parts[c.p]? = some q) :
    getDesc (coreEnded i st a code broken c v) c.d = some (withPart c.p (chiselPart st a code broken q) x) := by
  have hmod := getDesc_modPart_some (v := stabForget (launchOf (fun k => k = i)) (modChisel i idleCore v))
    (fun q => { q with exitCode := code, progress := b2n broken }) hx hq
  have hlen : c.p < x.parts.length := (List.getElem?_eq_some_iff.mp hq).1
  refine (getDesc_withEnded c.d c.p st a {} _ hmod (List.getElem?_set_self hlen)).trans ?_
  rw [withPart, List.set_set]
  rfl

theorem coreEnded_other {e : Nat} (he : e ≠ c.d) : getDesc (coreEnded i st a code broken c v) e = getDesc v e :=
  (getDesc_withEnded_other c.d c.p st a {} _ he).trans ((getDesc_modPart ..).trans (if_neg he))

/-- A core without a sub-descriptor ends its part with the status it is given. -/
theorem chiselEnd_eq (hcore : getChisel v i = c) (hh : c.handles = List.replicate 16 {}) (hst : st ≠ stMemoryUe)
    (hx : getDesc v c.d = some x) (hq : x.parts[c.p]? = some q) :
    chiselEnd i st a code broken v = openBarrier c.d (i / 8) (coreEnded i st a code broken c v) := by
  have hworst : unreadWorst c st a = (st, a) := by
    unfold unreadWorst
    rw [hh]
    rfl
  have hmod := getDesc_modPart_some (v := stabForget (launchOf (fun k => k = i)) (modChisel i idleCore v))
    (fun q => { q with exitCode := code, progress := b2n broken }) hx hq
  unfold chiselEnd
  rw [hcore]
  dsimp only
  rw [hworst]
  exact congrArg (openBarrier c.d (i / 8)) ((endPart_some c.p st a {} hmod).trans (if_neg hst))

theorem chiselEnd_ends (hw : tabWf {} v.chisels = true) (hcore : getChisel v i = c) (hh : c.handles = List.replicate 16 {})
    (hst : st ≠ stMemoryUe) (hx : getDesc v c.d = some x) (hq : x.parts[c.p]? = some q) :
    (getChisel (chiselEnd i st a code broken v) i).run = .idle ∧
      getDesc (chiselEnd i st a code broken v) c.d = some (withPart c.p (chiselPart st a code broken q) x) ∧
      ∀ e, e ≠ c.d → getDesc (chiselEnd i st a code broken v) e = getDesc v e := by
  have hidle : CoreChanged i v (coreEnded i st a code broken c v) (idleCore (getChisel v i)) :=
    ((CoreChanged.refl hw).mod idleCore).congr rfl rfl rfl
  have hout : i ∉ kernelCores (coreEnded i st a code broken c v) c.d (i / 8) := fun hm =>
    (mem_kernelCores hm).1 (by rw [hidle.here]; rfl)
  have hdescs (e : Nat) : getDesc (openBarrier c.d (i / 8) (coreEnded i st a code broken c v)) e =
      getDesc (coreEnded i st a code broken c v) e := by
    rw [getDesc, openBarrier_descs, ← getDesc]
  rw [chiselEnd_eq hcore hh hst hx hq, openBarrier_other hidle.wf hout, hidle.here]
  exact ⟨rfl, (hdescs _).trans (coreEnded_desc hx hq), fun e he => (hdescs e).trans (coreEnded_other he)⟩

end

/-- ECALL of a core without a sub-descriptor. -/
theorem ecall_ends {i word len : Nat} {h : Chisel} {x : Desc} {w : Work} {s : State} (hs : tabWf {} s.dev.chisels = true)
    (hc : chiselOn s.dev i = some (h, x)) (hf : (fetchInstr i x.ctx).run (workOf s) = (.ok (word, len), w))
    (hn : isEcall word = true) (hp : h.p < x.parts.length) (hh : h.handles = List.replicate 16 {}) :
    ∃ t y q, runWork (ecall i) s = .next t ∧ (getChisel t.dev i).run = .idle ∧ getDesc t.dev h.d = some y ∧
      y.parts[h.p]? = some q ∧ q.state = .ended ∧ q.exitCode = (xreg h 10).setWidth 16 ∧
      q.status = (if xreg h 10 = 0 then stSuccess else stKernelError) ∧
      (∀ e, e ≠ h.d → getDesc t.dev e = getDesc s.dev e) ∧ t.mem = s.mem := by
  have hdescs (e : Nat) : getDesc (snoopsUsed w).dev e = getDesc s.dev e :=
    besideCores_dev (fun v => getDesc v e) (fetched_beside hf)
  have hcore := (fetched_core hs hc hf).snoopsUsed
  have hrun := ecall_runs hc hf hn (by rw [hh]; rfl)
  have hst : (if xreg h 10 = 0 then stSuccess else stKernelError) ≠ stMemoryUe := by split <;> decide
  obtain ⟨hidle, hdesc, hother⟩ := chiselEnd_ends (a := 0) (code := (xreg h 10).setWidth 16) (broken := false) hcore.wf hcore.here hh hst
    ((hdescs h.d).trans (chiselOn_core hc).2.2) (List.getElem?_eq_getElem hp)
  exact ⟨_, _, _, hrun, hidle, hdesc, List.getElem?_set_self hp, rfl, rfl, rfl, fun e he => (hother e he).trans (hdescs e), rfl⟩

end Sys2Proof.Machine
end

section
/-! An ordinary instruction of a chisel core (R124, R126 to R128): the table of cores keeps its form, and the instruction retires. -/

namespace Sys2Proof.Machine

open Sys2Proof

/-! ### The table of cores -/

/-- The table of cores is in its form still. -/
def CoresWf (w u : Work) : Prop := tabWf {} w.dev.chisels = true → tabWf {} u.dev.chisels = true

theorem coresWf_refl (w : Work) : CoresWf w w := id

theorem coresWf_trans (w u t : Work) (h : CoresWf w u) (k : CoresWf u t) : CoresWf w t := fun hw => k (h hw)

theorem coresWf_pure {α : Type} (a : α) : Steps CoresWf (pure a : Acc α) := steps_pure coresWf_refl a

theorem coresWf_bind {α β : Type} {m : Acc α} {f : α → Acc β} (hm : Steps CoresWf m) (hf : ∀ a, Steps CoresWf (f a)) :
    Steps CoresWf (m >>= f) := steps_bind coresWf_trans hm hf

theorem OkSame.coresWf {α : Type} {m : Acc α} (h : OkSame writeView m) : Steps CoresWf m := fun w a u hu hw => by
  have hsame : u.dev.chisels = w.dev.chisels := congrArg (fun c : Dev × List Store × Wipe => c.1.chisels) (h w a u hu)
  rwa [hsame]

theorem coresWf_of_read {α : Type} {m : Acc α} (h : OkSame readView m) : Steps CoresWf m := fun w a u hu hw => by
  have hsame : u.dev.chisels = w.dev.chisels := congrArg (·.1) (coreTables_of_view (h w a u hu))
  rwa [hsame]

theorem onChisel_coresWf (i : Nat) (f : Chisel → Chisel) : Steps CoresWf (onChisel i f) :=
  steps_modify fun _ hw => tabPut_wf _ _ _ _ hw

theorem trap_coresWf {α : Type} : Steps CoresWf (trap : Acc α) := steps_throw _

theorem chRead_coresWf (i ctx : Nat) (a : W64) (n : Nat) : Steps CoresWf (chRead i ctx a n) := coresWf_of_read (chRead_okSame i ctx a n)

theorem atomicTarget_coresWf (i ctx : Nat) (a : W64) (write : Bool) : Steps CoresWf (atomicTarget i ctx a write) :=
  coresWf_of_read (atomicTarget_okSame i ctx a write)

/-- A failure that an uncorrectable word makes ends no stage well. -/
theorem failUe_steps {α : Type} {R : Work → Work → Prop} (ctx a : Nat) : Steps R (failUe ctx a : Acc α) := by
  rintro w b u ⟨⟩

theorem chWrite_coresWf (i ctx : Nat) (a : W64) (bs : List Byte) : Steps CoresWf (chWrite i ctx a bs) := by
  refine steps_ite (steps_get_bind fun w => ?_) (steps_tryCatch_throw (writeBytes_leaves _ _ _).okSame.coresWf _)
  extract_lets put
  have hput (r : PUnit) : Steps CoresWf (put r) := onChisel_coresWf i _
  split
  · refine steps_ite ?_ ?_ w
    · exact coresWf_bind (failUe_steps ctx _) hput
    · exact coresWf_bind (steps_modify fun _ => id) hput
  · exact coresWf_bind (coresWf_pure ()) hput w

theorem doLoad_coresWf (i ctx f3 : Nat) (a : W64) : Steps CoresWf (doLoad i ctx f3 a) :=
  steps_ite trap_coresWf (coresWf_bind (chRead_coresWf _ _ _ _) fun _ => coresWf_pure _)

theorem doStore_coresWf (i ctx f3 : Nat) (a v : W64) : Steps CoresWf (doStore i ctx f3 a v) :=
  steps_ite trap_coresWf (chWrite_coresWf _ _ _ _)

theorem doAmo_coresWf (i ctx w : Nat) (a src : W64) : Steps CoresWf (doAmo i ctx w a src) := by
  unfold doAmo
  extract_lets f5 wide n
  refine steps_ite trap_coresWf (steps_ite (steps_ite trap_coresWf ?loadReserved) (steps_ite ?storeConditional
    (steps_ite trap_coresWf ?operation)))
  case loadReserved =>
    refine coresWf_bind (atomicTarget_coresWf i ctx a false) fun t => ?_
    have hload : Steps CoresWf (do
        let v ← chRead i ctx a n
        onChisel i (fun c => { c with reserved := some (t.1, n) })
        pure (sx (8 * n) (leNat v))) :=
      coresWf_bind (chRead_coresWf _ _ _ _) fun _ => coresWf_bind (onChisel_coresWf _ _) fun _ => coresWf_pure _
    exact steps_ite (coresWf_bind trap_coresWf fun _ => hload) hload
  case storeConditional =>
    refine coresWf_bind (atomicTarget_coresWf i ctx a true) fun t => ?_
    split
    extract_lets store
    have hstore (r : PUnit) : Steps CoresWf (store r) := by
      refine steps_get_bind fun u => ?_
      refine coresWf_bind (onChisel_coresWf _ _) (fun _ => ?_) u
      exact steps_ite (coresWf_bind (chWrite_coresWf _ _ _ _) fun _ => coresWf_pure _) (coresWf_pure _)
    exact steps_ite (coresWf_bind trap_coresWf hstore) (hstore ())
  case operation =>
    refine coresWf_bind (chRead_coresWf _ _ _ _) fun old => ?_
    extract_lets o
    split
    · exact trap_coresWf
    · exact coresWf_bind (chWrite_coresWf _ _ _ _) fun _ => coresWf_pure _

theorem doCsr_coresWf (i : Nat) (x : Desc) (c : Chisel) (w : Nat) : Steps CoresWf (doCsr i x c w) := by
  refine steps_get_bind fun u => ?_
  split
  · exact steps_ite (coresWf_pure _) trap_coresWf u
  · exact trap_coresWf u

theorem execute_coresWf (i : Nat) (x : Desc) (c : Chisel) (w len : Nat) : Steps CoresWf (execute i x c w len) := by
  unfold execute
  extract_lets ctx a b next out op f3 f7
  have hout (v : W64) : Steps CoresWf (out v) := coresWf_pure _
  have trap : Steps CoresWf (trap : Acc Retire) := trap_coresWf
  refine steps_ite (hout _) (steps_ite (hout _) (steps_ite (coresWf_pure _) (steps_ite ?jump (steps_ite ?branch (steps_ite ?load
    (steps_ite ?store (steps_ite ?immediate (steps_ite ?immediate32 (steps_ite ?register (steps_ite ?register32 (steps_ite ?atomic
      (steps_ite ?fence (steps_ite ?csr trap)))))))))))))
  case jump => exact steps_ite (coresWf_pure _) trap
  case branch =>
    split
    · exact coresWf_pure _
    · exact trap
  case load => exact coresWf_bind (doLoad_coresWf _ _ _ _) fun _ => hout _
  case store => exact coresWf_bind (doStore_coresWf _ _ _ _ _) fun _ => coresWf_pure _
  case immediate => exact steps_ite trap (steps_ite trap (hout _))
  case immediate32 => exact steps_ite (hout _) (steps_ite (hout _) (steps_ite (hout _) trap))
  case register => exact steps_ite (hout _) (steps_ite (hout _) (steps_ite (hout _) trap))
  case register32 =>
    refine steps_ite ?_ (steps_ite (hout _) (steps_ite (hout _) trap))
    split
    · exact hout _
    · exact trap
  case atomic => exact coresWf_bind (doAmo_coresWf _ _ _ _ _) fun _ => hout _
  case fence => exact steps_ite (coresWf_pure _) (steps_ite (coresWf_bind (onChisel_coresWf _ _) fun _ => coresWf_pure _) trap)
  case csr => exact coresWf_bind (doCsr_coresWf _ _ _ _) fun _ => hout _

/-! ### An ordinary instruction -/

/-- A store breaks reservations, and changes nothing else of a core (R128). -/
theorem breakReserved_core (l : List Store) {v : Dev} (hw : tabWf {} v.chisels = true) (k : Nat) :
    ∃ r, getChisel (breakReserved l v) k = { getChisel v k with reserved := r } := by
  unfold breakReserved
  split
  · have hbare (j : Nat) : (if reservedHit l {} then ({ reserved := none } : Chisel) else {}) = {} := rfl
    have hget := tabGet_tabMap ({} : Chisel) (fun _ c => if reservedHit l c then { c with reserved := none } else c) (fun j => hbare j)
      v.chisels 0 k hw
    rw [getChisel, hget]
    split
    · exact ⟨none, rfl⟩
    · exact ⟨_, rfl⟩
  · exact ⟨_, rfl⟩

section
variable {i word len : Nat} {h : Chisel} {x : Desc} {w u : Work} {s : State} {r : Retire}

/-- An ordinary instruction retires with its stores done. -/
theorem chiselInstr_runs (hs : tabWf {} s.dev.chisels = true) (hm : Memory.wf s = true) (hc : chiselOn s.dev i = some (h, x))
    (hf : (fetchInstr i x.ctx).run (workOf s) = (.ok (word, len), w)) (hn : customOf word = none) (he : isEcall word = false)
    (hx : (execute i x h word len).run w = (.ok r, u)) (hwipe : u.wiped = .none) (hl : s.dev.power.lost = .none)
    (hp : u.dev.power = s.dev.power) :
    ∃ t, runWork (chiselInstr i) s = .next t ∧ StoredBy s t u.stores ∧ (getChisel t.dev i).pc = r.pc ∧
      (getChisel t.dev i).instret = (getChisel u.dev i).instret + 1 ∧
      (getChisel t.dev i).regs = (setX r.rd r.val (getChisel u.dev i)).regs ∧ (getChisel t.dev i).run = (getChisel u.dev i).run ∧
      t.dev.descs = u.dev.descs ∧ t.dev.rings = u.dev.rings := by
  have hrun : runWork (chiselInstr i) s = .next (commit s (onDev (retireInstr i x.ctx r) (snoopsUsed u))) := by
    refine chiselStep_answers hc hf ?_
    rw [if_neg (by rw [hn, he]; decide), acc_bind_ok hx]
    rfl
  have hw : tabWf {} u.dev.chisels = true := execute_coresWf i x h word len w r u hx (fetched_core hs hc hf).wf
  have hcore : CoreChanged i u.dev (retireInstr i x.ctx r (snoopsUsed u).dev) (retiredCore r _ (getChisel u.dev i)) :=
    (CoreChanged.refl hw).snoopsUsed.retire x.ctx r
  obtain ⟨res, hres⟩ := breakReserved_core u.stores hcore.wf i
  rw [hcore.here] at hres
  refine ⟨_, hrun, storedBy_commit hm hwipe hl hp, ?_⟩
  have hcommit : (commit s (onDev (retireInstr i x.ctx r) (snoopsUsed u))).dev =
      breakReserved u.stores (retireInstr i x.ctx r (snoopsUsed u).dev) := rfl
  rw [hcommit, hres, breakReserved_only]
  exact ⟨rfl, rfl, rfl, retiredCore_run r (Config.chiselStall (snoopsUsed u).dev.free) _, rfl, rfl⟩

end

end Sys2Proof.Machine
end

section
/-! The completion of a sub-descriptor (R137, R139, R228): what its effects leave, and the handle that it reaches. -/

namespace Sys2Proof.Machine

open Sys2Proof

/-! ### The effects of a completion -/

theorem okSame_filterAuxM {α γ : Type} {f : Work → γ} {g : α → Acc Bool} (hg : ∀ a, OkSame f (g a)) :
    ∀ l acc : List α, OkSame f (l.filterAuxM g acc)
  | [], _ => okSame_pure _
  | a :: l, _ => okSame_bind (hg a) fun _ => okSame_filterAuxM hg l _

theorem okSame_filterM {α γ : Type} {f : Work → γ} {g : α → Acc Bool} (hg : ∀ a, OkSame f (g a)) (l : List α) :
    OkSame f (l.filterM g) := okSame_bind (okSame_filterAuxM hg l []) fun _ => okSame_pure _

theorem readNat_writeView (r : Requestor) (a : W64) (n : Nat) : OkSame writeView (readNat r a n) := (readNat_leaves r a n).rest.okSame

theorem readBytes_writeView (r : Requestor) (n : Nat) (a : W64) : OkSame writeView (readBytes r a n) :=
  (readBytes_leaves r n a).rest.okSame

theorem readWords_writeView (r : Requestor) (a : W64) (n : Nat) : OkSame writeView (readWords r a n) :=
  okSame_mapM (fun _ => readNat_writeView _ _ _) _

theorem foldedBlocks_writeView (x : Desc) (r : Requestor) : OkSame writeView (foldedBlocks x r) := by
  unfold foldedBlocks
  extract_lets bs f blocks
  have hblocks (n : Nat) : OkSame writeView (blocks n) := by
    refine okSame_ite (okSame_pure _) (okSame_filterM (fun j => ?_) _)
    refine okSame_ite (okSame_pure _) ?_
    exact okSame_bind (readWords_writeView _ _ _) fun _ => okSame_pure _
  exact okSame_ite (okSame_bind (okSame_pure _) hblocks) (okSame_bind (readNat_writeView _ _ _) hblocks)

theorem versionCover_writeView (x : Desc) (w : VerWin) (r : Requestor) : OkSame writeView (versionCover x w r) := by
  refine okSame_get_bind fun u => (?_ : OkSame writeView _) u
  extract_lets v inRuns blocks
  have hpure (f : Nat → Bool) : OkSame writeView (pure f : Acc (Nat → Bool)) := okSame_pure f
  split
  · exact hpure _
  · exact hpure _
  · exact hpure _
  · exact okSame_ite (hpure _) (okSame_bind (foldedBlocks_writeView x r) fun _ => hpure _)
  case h_5 | h_6 =>
    refine okSame_ite (hpure _) (okSame_bind (okSame_filterM (fun _ => ?_) _) fun _ => hpure _)
    exact okSame_bind (readBytes_writeView _ _ _) fun _ => okSame_pure _
  all_goals exact hpure _

theorem setTags_writeView (r : Requestor) (w : VerWin) (covered : Nat → Bool) (rows cols : Nat) :
    OkSame writeView (setTags r w covered rows cols) := by
  refine okSame_bind (okSame_forIn (fun t _ => ?_) _ _) fun _ => okSame_pure _
  extract_lets r0 c0 nc whole
  exact okSame_ite (okSame_bind (writeNat_leaves _ _ _ _).okSame fun _ => okSame_pure _) (okSame_pure _)

theorem commitVersion_writeView (x : Desc) : OkSame writeView (commitVersion x) := by
  unfold commitVersion
  split
  · exact okSame_pure _
  · refine okSame_ite (okSame_pure _) (okSame_bind (reqOf_leaves _ _ _).rest.okSame fun r => ?_)
    split
    · exact okSame_pure _
    · refine okSame_bind (readNat_writeView _ _ _) fun rows => okSame_bind (readNat_writeView _ _ _) fun cols => ?_
      exact okSame_bind (versionCover_writeView _ _ _) fun cover => setTags_writeView _ _ _ _ _

theorem addEpoch_writeView (ctx e n : Nat) : OkSame writeView (addEpoch ctx e n) :=
  okSame_get_bind fun w => okSame_bind (readNat_writeView _ _ _) (fun _ => (writeNat_leaves _ _ _ _).okSame) w

theorem completeEffects_writeView (x : Desc) : OkSame writeView (completeEffects x) :=
  okSame_ite (okSame_bind (commitVersion_writeView x) fun _ => okSame_ite (addEpoch_writeView _ _ _) (okSame_pure _)) (okSame_pure _)

/-! ### The handle -/

section
variable {d i hd e p : Nat} {x : Desc} {w : Work} {s : State}

/-- What a completed sub-descriptor leaves of the device. -/
def subFinished (d : Nat) (x : Desc) (v : Dev) : Dev := dropDesc d (subReport x (countDone x v))

/-- The handle of a completed sub-descriptor. -/
def completeHandle (x : Desc) : Handle :=
  { desc := some x.id, word := some (statusWord (overallStatus x) (overallFlags x)), addr := BitVec.ofNat 64 (faultAddrOf x) }

theorem subComplete_runs (hx : getDesc s.dev d = some x) (hsub : x.sub = some (i, hd)) (hdone : allDone x = true)
    (hw : (completeEffects x).run (workOf s) = (.ok (), w)) :
    runWork (subComplete d) s = .next (commit s (onDev (subFinished d x) (snoopsUsed { w with dest := [] }))) := by
  refine runWork_eq ?_
  have heffects : (ueFails (failCtxBy x stMemoryUe) (completeEffects x)).run
      { workOf s with dest := [], snooped := [], flags := {} } = (.ok (), w) := by
    refine (acc_tryCatch ..).trans ?_
    rw [show (completeEffects x).run { workOf s with dest := [], snooped := [], flags := {} } = _ from hw]
  unfold subComplete
  rw [show getDesc (workOf s).dev d = some x from hx]
  dsimp only
  rw [if_neg (by rw [hsub, hdone]; exact Bool.false_ne_true)]
  unfold runAcc
  rw [heffects]
  rfl

theorem countDone_tables (x : Desc) (v : Dev) : coreTables (countDone x v) = coreTables v := by
  unfold countDone
  dsimp only
  split <;> rfl

theorem countDone_power (x : Desc) (v : Dev) : (countDone x v).power = v.power := by
  unfold countDone
  dsimp only
  split <;> rfl

/-- A completed sub-descriptor whose core still runs reaches its handle. -/
theorem subReport_running {v : Dev} (hsub : x.sub = some (i, hd)) (hpar : x.parent = some (e, p))
    (hrun : (getChisel v i).run ≠ .idle) (hdesc : ((getChisel v i).handles.getD hd {}).desc = some x.id) :
    subReport x v = modChisel i (fun h => { h with handles := h.handles.set hd (completeHandle x) })
      (modDesc e (fun y => { y with subFlags := Flags.join y.subFlags (overallFlags x) }) v) := by
  unfold subReport
  rw [hsub, hpar]
  refine if_pos ?_
  rw [Bool.and_eq_true]
  exact ⟨decide_eq_true hrun, decide_eq_true hdesc⟩

theorem subFinished_running {v : Dev} (hsub : x.sub = some (i, hd)) (hpar : x.parent = some (e, p))
    (hrun : (getChisel v i).run ≠ .idle) (hdesc : ((getChisel v i).handles.getD hd {}).desc = some x.id) :
    subFinished d x v = dropDesc d (modChisel i (fun h => { h with handles := h.handles.set hd (completeHandle x) })
      (modDesc e (fun y => { y with subFlags := Flags.join y.subFlags (overallFlags x) }) (countDone x v))) := by
  have hcore : getChisel (countDone x v) i = getChisel v i := by
    rw [getChisel, show (countDone x v).chisels = v.chisels from congrArg (·.1) (countDone_tables x v), ← getChisel]
  exact congrArg (dropDesc d) (subReport_running hsub hpar (by rwa [hcore]) (by rwa [hcore]))

theorem subFinished_core {v : Dev} (hv : tabWf {} v.chisels = true) (hsub : x.sub = some (i, hd)) (hpar : x.parent = some (e, p))
    (hrun : (getChisel v i).run ≠ .idle) (hdesc : ((getChisel v i).handles.getD hd {}).desc = some x.id) :
    CoreChanged i v (subFinished d x v) { getChisel v i with handles := (getChisel v i).handles.set hd (completeHandle x) } := by
  have hbase : CoreChanged i v (countDone x v) (getChisel v i) := (CoreChanged.refl hv).tables (countDone_tables x v)
  have hput := hbase.mod fun h => { h with handles := h.handles.set hd (completeHandle x) }
  rw [subFinished_running hsub hpar hrun hdesc]
  exact hput.congr rfl rfl rfl

theorem getDesc_dropDesc (d : Nat) (v : Dev) : getDesc (dropDesc d v) d = none := by
  refine List.find?_eq_none.mpr fun x hx => ?_
  simpa using (List.mem_filter.mp hx).2

theorem writeView_tables {w u : Work} (h : writeView u = writeView w) : coreTables u.dev = coreTables w.dev :=
  congrArg (fun c : Dev × List Store × Wipe => coreTables c.1) h

/-- SUB_DESCRIPTOR_COMPLETE of a sub-descriptor whose core still runs. -/
theorem subComplete_completes (hs : tabWf {} s.dev.chisels = true) (hm : Memory.wf s = true) (hx : getDesc s.dev d = some x)
    (hsub : x.sub = some (i, hd)) (hpar : x.parent = some (e, p)) (hdone : allDone x = true) (hlt : hd < 16)
    (hlen : (getChisel s.dev i).handles.length = 16) (hrun : (getChisel s.dev i).run ≠ .idle)
    (hdesc : ((getChisel s.dev i).handles.getD hd {}).desc = some d) (hw : (completeEffects x).run (workOf s) = (.ok (), w))
    (hwipe : w.wiped = .none) (hl : s.dev.power.lost = .none) (hp : w.dev.power = s.dev.power) :
    ∃ t, runWork (subComplete d) s = .next t ∧ StoredBy s t w.stores ∧ getDesc t.dev d = none ∧
      (getChisel t.dev i).handles.getD hd {} = completeHandle x ∧
      (∀ k, k ≠ i → (getChisel t.dev k).run = (getChisel s.dev k).run ∧ (getChisel t.dev k).handles = (getChisel s.dev k).handles) := by
  obtain rfl := getDesc_id hx
  let v := (snoopsUsed { w with dest := [] }).dev
  have hstart : CoreChanged i s.dev v (getChisel s.dev i) :=
    (CoreChanged.refl hs).tables (writeView_tables (completeEffects_writeView x (workOf s) () w hw))
  have hend : CoreChanged i v (subFinished x.id x v) { getChisel v i with handles := (getChisel v i).handles.set hd (completeHandle x) } :=
    subFinished_core hstart.wf hsub hpar (by rwa [hstart.here]) (by rwa [hstart.here])
  rw [hstart.here] at hend
  have hpower : (subFinished x.id x v).power = s.dev.power := by
    rw [subFinished_running hsub hpar (by rwa [hstart.here]) (by rwa [hstart.here])]
    exact (countDone_power x v).trans hp
  refine ⟨_, subComplete_runs hx hsub hdone hw, storedBy_commit hm hwipe hl hpower, ?_, ?_, fun k hk => ?_⟩
  · exact (getDesc_breakReserved ..).trans (getDesc_dropDesc ..)
  · obtain ⟨r, hr⟩ := breakReserved_core w.stores hend.wf i
    rw [hend.here] at hr
    have hset : (getChisel (breakReserved w.stores (subFinished x.id x v)) i).handles =
        (getChisel s.dev i).handles.set hd (completeHandle x) := (congrArg Chisel.handles hr :)
    refine (congrArg (fun l : List Handle => l.getD hd {}) hset).trans ?_
    rw [List.getD_eq_getElem?_getD, List.getElem?_set_self (hlen.symm ▸ hlt)]
    rfl
  · obtain ⟨r, hr⟩ := breakReserved_core w.stores hend.wf k
    rw [hend.other k hk, hstart.other k hk] at hr
    exact ⟨(congrArg Chisel.run hr :), (congrArg Chisel.handles hr :)⟩

end

end Sys2Proof.Machine
end

section
/-! What the instructions of a chisel core come to, clause by clause (R124, R132, R135 to R139). -/

namespace Sys2Proof.Machine

open Sys2Proof

theorem exec_dlaunch (i : Fin 256) (s : State) : exec (.dlaunch i) s = runWork (dlaunch i.val) s := rfl

section
variable {i : Fin 256} {h : Chisel} {x : Desc} {word len hd : Nat} {w : Work} {s : State}

/-- A launch from an address that is no multiple of 64 (log 109). -/
theorem dlaunch_unaligned (hs : tabWf {} s.dev.chisels = true) (hc : chiselOn s.dev i.val = some (h, x))
    (hf : (fetchInstr i.val x.ctx).run (workOf s) = (.ok (word, len), w)) (hn : customOf word = some 0)
    (hfree : h.handles.findIdx? (fun k => k.desc.isNone) = some hd) (hodd : (xreg h (iRs1 word)).toNat % 64 ≠ 0)
    (hctx : (getCtx s.dev x.ctx).state = 1) (hroom : stabFree w.dev (i.val / 8) ≠ none) :
    Retires i.val word h s (.dlaunch i) (BitVec.ofNat 64 hd) (h.handles.set hd { desc := some s.dev.nextDesc }) ∧
      ∃ t y, exec (.dlaunch i) s = .next t ∧ t.dev.descs = s.dev.descs ++ [y] ∧ y.id = s.dev.nextDesc ∧
        y.sub = some (i.val, hd) ∧ y.parent = some (h.d, h.p) ∧ y.parts = [{ state := .ended, status := stMalformed }] := by
  have hctx' : (getCtx w.dev x.ctx).state = 1 := by
    rwa [show getCtx w.dev x.ctx = getCtx s.dev x.ctx from besideCores_dev (fun v => getCtx v x.ctx) (fetched_beside hf)]
  obtain ⟨hret, t, y, ht, hdescs, hid, hsub, hpar, -, hparts⟩ := dlaunch_staged hs (exec_dlaunch i s) hc hf hn hfree hroom (.unaligned hodd)
    (subEnter_unplaced i.val hd h x [] w) ((congrArg Ctx.state (getCtx_congr (subStagedIn_ctxs ..) x.ctx)).trans hctx')
  exact ⟨hret, t, y, ht, hdescs, hid, hsub, hpar, hparts rfl⟩

/-- A launch that finds its core's stream table full. -/
theorem dlaunch_waits (hc : chiselOn s.dev i.val = some (h, x))
    (hf : (fetchInstr i.val x.ctx).run (workOf s) = (.ok (word, len), w)) (hn : customOf word = some 0)
    (hfree : h.handles.findIdx? (fun k => k.desc.isNone) = some hd) (hroom : stabFree w.dev (i.val / 8) = none) :
    ∃ t, exec (.dlaunch i) s = .next t ∧ getChisel t.dev i.val = getChisel w.dev i.val ∧ t.dev.descs = w.dev.descs ∧
      t.dev.stabWaits = (if StabIssuer.launch i.val ∈ w.dev.stabWaits then w.dev.stabWaits else w.dev.stabWaits ++ [.launch i.val]) ∧
      (StabIssuer.launch i.val ∉ w.dev.stabWaits → t.dev.ctr = (ctrAdd (0x100 + i.val / 8) 4 1 w.dev).ctr) ∧
      t.mem = s.mem ∧ t.host = s.host := by
  have htables := stabWait_tables (i.val / 8) (.launch i.val) (snoopsUsed w).dev
  refine ⟨_, dlaunch_blocked (exec_dlaunch i s) hc hf hn hfree hroom, ?_, congrArg (·.2.2.2) htables, stabWait_waits ..,
    fun hnew => ?_, rfl, rfl⟩
  · exact congrArg (tabGet {} · i.val) (congrArg (·.1) htables)
  · exact (congrArg Dev.ctr (stabWait_new (c := i.val / 8) (v := (snoopsUsed w).dev) hnew) :)

end

/-- Settles O50: the word that a core has fetched is the word that its command runs, and each command is followed to what it leaves. -/
theorem chiselCoresRunInstructions : Obligations.ChiselCoresRunInstructions := by
  refine ⟨fun i h x word len w s hs hm hc hf => ?_, ?_⟩
  · intro own retires a
    refine ⟨?ordinary, ?launch, ?read, ?barrier, ?call⟩
    case ordinary =>
      intro hn he r u hx hwipe hl hp
      exact chiselInstr_runs hs hm hc hf hn he hx hwipe hl hp
    case launch =>
      refine fun hn => ⟨fun hfull => ⟨fun hrun => ?_, fun hrun => ?_⟩, fun hd hfree hroom => ?_, fun hd hfree hodd hctx hroom => ?_, ?_⟩
      · exact dlaunch_full hc hf hn hfull hrun
      · exact dlaunch_answered hs hc hf (exec_dlaunch i s) hn hfull hrun
      · exact dlaunch_waits hc hf hn hfree hroom
      · exact dlaunch_unaligned hs hc hf hn hfree hodd hctx hroom
      · intro hd k bs w1 w2 w3 hfree heven _ hroom htarget hbytes henter hctx
        obtain ⟨hret, t, y, ht, hdescs, hid, hsub, hpar, hyctx, -⟩ :=
          dlaunch_staged hs (exec_dlaunch i s) hc hf hn hfree hroom (.aligned heven htarget hbytes) henter hctx
        exact ⟨hret, t, y, ht, hdescs, hid, hsub, hpar, hyctx⟩
    case read =>
      intro n c hmem hn
      have hx : exec c s = runWork (dread i.val n) s := by
        rcases List.mem_pair.mp hmem with he | he <;> (cases he; rfl)
      refine ⟨fun hk => ?_, fun k v hk hv => ?_, fun k hk hv => ⟨?_, ?_⟩⟩
      · exact dread_unused hs hc hf hx hn hk
      · exact dread_complete hs hc hf hx hn hk hv
      · rintro rfl
        exact hx.trans (dwait_running hc hf hn hk hv)
      · rintro rfl
        exact dpoll_running hs hc hf hx hn hk hv
    case barrier =>
      exact fun hn => ⟨cbar_closed hs hc hf hn, cbar_opens hs hc hf hn⟩
    case call =>
      exact fun hn hp => ⟨ecall_waits hc hf hn, ecall_ends hs hc hf hn hp⟩
  · intro d i hd e p x w s hs hm hx hsub hpar hdone hlt hlen hrun hdesc hw hwipe hl hp
    obtain rfl := getDesc_id hx
    exact subComplete_completes hs hm hx hsub hpar hdone hlt hlen hrun hdesc hw hwipe hl hp

end Sys2Proof.Machine
end

section
/-! Parts that a command runs as a whole: statistics, roots, copies, castmarks and checks (R169, R173, R184, R192, R200, R366, R402,
R430, R432, R435), and the request of a COPY with a peer (R366, R367). -/

namespace Sys2Proof.Machine

open Sys2Proof

/-! ### Parts that may start -/

/-- A part that may start is a queued one of its class, on a descriptor that may start. -/
theorem startable_some {v : Dev} {d p cls : Nat} {x : Desc} {q : Part} (h : startable v d p cls = some (x, q)) :
    getDesc v d = some x ∧ x.parts[p]? = some q ∧ x.cls = cls ∧ q.state = .queued ∧ mayStart v x = true := by
  unfold startable at h
  split at h
  · cases h
  · next y hy =>
    split at h
    · cases h
    · next r hr =>
      split at h
      · next hc =>
        simp only [Bool.and_eq_true, decide_eq_true_eq] at hc
        obtain ⟨⟨hcls, hstate⟩, hmay⟩ := hc
        cases h
        exact ⟨hy, hr, hcls, hstate, hmay⟩
      · cases h

/-- A CHECK's part runs on the cluster that its unit names (R429). -/
theorem onFenced_check {v : Dev} {d p : Nat} {x : Desc} {q : Part} (h : startable v d p 12 = some (x, q)) :
    onFenced v d p = isFenced v q.unit := by
  obtain ⟨hx, hq, hcls, -, -⟩ := startable_some h
  have hcore : partCore x q = some q.unit := by simp [partCore, onEngine, hcls]
  simp [onFenced, hx, List.getD, hq, hcore]

/-! ### What each command comes to -/

section
variable {d p : Nat} {w : Work} {x : Desc} {q : Part}

theorem statRun_runs {op : Nat} (h : ready w.dev d p 3 = some (x, q)) (hop : statOp x.bytes = op) :
    statRun op d p w = runPart d p (if op = 1 then foldBody x q p else normBody x q p) w := by
  unfold statRun
  simp only [h, hop, if_true]

theorem statRun_notReady {op : Nat} (h : ready w.dev d p 3 = none) : statRun op d p w = w := by
  unfold statRun
  rw [h]

theorem rootRun_runs {cls op : Nat} (h : ready w.dev d p cls = some (x, q)) (hheld : enginesHeld w.dev x q p = false)
    (hop : (rtOf x.bytes).op = op) :
    rootRun cls op d p w = runPart d p (if op = 1 then applyBody x q p else rootBody (cls = 5) x q p) w := by
  unfold rootRun
  simp only [h, hheld, hop, Bool.false_eq_true, if_false, if_true]

/-- No part that is ready has its engines free of tests (R454). -/
theorem rootRun_held {cls op : Nat} (h : ∀ x q, ready w.dev d p cls = some (x, q) → enginesHeld w.dev x q p = true) :
    rootRun cls op d p w = w := by
  unfold rootRun
  split
  · next hr => exact if_pos (h _ _ hr)
  · rfl

theorem checkRun_runs {op : Nat} (h : startable w.dev d p 12 = some (x, q)) (htest : underTest w.dev 3 q.unit = false)
    (hbefore : testBefore w.dev x 3 q.unit = false) (hop : checkOp x.bytes = op) :
    checkRun op d p w = runPart d p (if op = 0 then printBody x q p else if op = 1 then pointBody x else lossBody x) w := by
  unfold checkRun
  simp only [h, htest, hbefore, hop, ne_eq, not_true, decide_false, Bool.or_self, Bool.false_eq_true, if_false]
  split
  · next hf => exact (runPart_fenced ((onFenced_check h).trans hf)).symm
  · rfl

/-- No part that may start has its cluster free of tests (R454). -/
theorem checkRun_held {op : Nat}
    (h : ∀ x q, startable w.dev d p 12 = some (x, q) → (underTest w.dev 3 q.unit || testBefore w.dev x 3 q.unit) = true) :
    checkRun op d p w = w := by
  unfold checkRun
  split
  · rfl
  · next x q hr =>
    refine if_pos ?_
    rw [Bool.or_assoc, h x q hr, Bool.or_true]

theorem castRun_runs {close : Bool} (h : startable w.dev d 0 11 = some (x, q)) (hc : (castOf x.bytes).close = close) :
    castRun close d w = runPart d 0 (castBody x) w := by
  unfold castRun
  simp only [h, hc, if_true]

theorem castRun_notReady {close : Bool} (h : startable w.dev d 0 11 = none) : castRun close d w = w := by
  unfold castRun
  rw [h]

theorem copyRun_local (h : startable w.dev d p 7 = some (x, q)) (hdir : copyDir x.bytes = 0) (hn : (copySpan x p).2 ≠ 0) :
    copyRun d p w = runPart d p (copyLocal x q p) w := by
  unfold copyRun
  simp only [h, hdir, hn, decide_true, Bool.true_or, if_true, if_false]

theorem copyRun_notReady (h : startable w.dev d p 7 = none) : copyRun d p w = w := by
  unfold copyRun
  rw [h]

/-- A COPY with a peer that is neither fenced nor without a stream table entry runs for its request, and its part then starts. -/
theorem copyRun_asks (h : startable w.dev d p 7 = some (x, q)) (hdir : copyDir x.bytes ≠ 0) (hn : (copySpan x p).2 ≠ 0)
    (hg : copyGroupOk w.dev x.ctx x.bytes = true) (hf : onFenced w.dev d p = false) (hk : stabBlocked w.dev d p = none) :
    copyRun d p w = runAcc (copyAsk x q p) (fun _ u => onDev (startPart d p) u)
      (fun st a u => copyFail x p st a (onDev (startPart d p) u)) w := by
  unfold copyRun beginPart
  simp only [h, hdir, hn, hg, hf, hk, decide_false, Bool.or_self, Bool.not_true, Bool.false_eq_true, if_false]

end

/-- A meaning that runs a part gives the part its turn. -/
theorem partTurn_of_run {c : Instr} {d p : Nat} {body : Acc Unit} {s : State} (f : Work → Work) (hs : Memory.wf s = true)
    (hc : exec c s = runWork f s) (hf : f (workOf s) = runPart d p body (workOf s)) : PartTurn c d p body s :=
  partTurn_of_runPart hs (hc.trans (runWork_eq hf))

theorem runAcc_ok {α : Type} {m : Acc α} {onOk : α → Work → Work} {onFail : Byte → W64 → Work → Work} {w u : Work} {a : α}
    (h : m.run { w with dest := [], snooped := [], flags := {} } = (.ok a, u)) :
    runAcc m onOk onFail w = onOk a (snoopsUsed { u with dest := [] }) := by
  unfold runAcc
  rw [h]

/-! ### The request of a COPY with a peer (R366, R367) -/

/-- What a request leaves of the work: engines, rings, contexts and descriptors, and what is stored and wiped. -/
def requestView (w : Work) : (Tab Engine × Tab Ring × Tab Ctx × List Desc) × List Store × Wipe := (unitsOf w.dev, w.stores, w.wiped)

/-- A read of memory leaves that. -/
theorem Leaves.requests {α : Type} {m : Acc α} (h : LeavesAll m) : OkSame requestView m :=
  (h.comp fun c => (unitsOf c.1, c.2)).okSame

theorem hostAsks_requests (read cache : Bool) (r : Requestor) (va : W64) (n most : Nat) :
    OkSame requestView (hostAsks read cache r va n most) := by
  unfold hostAsks
  refine okSame_bind (okSame_forIn (fun k _ => ?_) _ _) fun _ => okSame_pure _
  refine okSame_bind (translate_leaves _ _ _).requests fun t => ?_
  cases t with
  | dev a => exact okSame_pure _
  | host a => exact okSame_bind (okSame_modify fun _ => rfl) fun _ => okSame_pure _

theorem copyReq_requests (x : Desc) (q : Part) : OkSame requestView (copyReq x q) := by
  unfold copyReq
  exact okSame_ite (okSame_pure _) (reqOf_leaves _ _ _).requests

/-- Frames sent to a node change nothing but the fabric, the counters, the trace and what the device puts out. -/
theorem sendSegs_units {grp node : Nat} {mask : BitVec 24} {begun : Option Nat} {seg : Nat} {bodies : List FabMsg} {v : Dev}
    {r : Nat × Dev} (h : sendSegs grp node mask begun seg bodies v = some r) : unitsOf r.2 = unitsOf v := by
  unfold sendSegs at h
  split at h
  · cases h
  · cases h
    refine (foldl_same (g := unitsOf) ?_ _ _).trans ?_
    · exact fun _ _ => rfl
    · repeat' split
      all_goals rfl

theorem toMember_units {gno : Nat} {g : Group} {k : Nat} {bodies : List FabMsg} {v u : Dev}
    (h : toMember gno g k bodies v = some u) : unitsOf u = unitsOf v := by
  unfold toMember at h
  split at h
  · cases h
    rfl
  · obtain ⟨r, hr, rfl⟩ := Option.map_eq_some_iff.mp h
    exact sendSegs_units hr

theorem toMembers_single {gno : Nat} {g : Group} {k : Nat} {bodies : Nat → List FabMsg} {v u : Dev}
    (h : toMembers gno g [k] bodies v = some u) : toMember gno g k (bodies k) v = some u := by
  unfold toMembers at h
  simp only [List.foldl_cons, List.foldl_nil] at h
  split at h
  · cases h
  · exact h

/-- A request reads what it sends, and stores nothing. -/
theorem copyAsk_requests (x : Desc) (q : Part) (p : Nat) : OkSame requestView (copyAsk x q p) := by
  unfold copyAsk
  refine okSame_bind (copyReq_requests x q) fun r => ?_
  split
  extract_lets src dst gno k tag
  refine okSame_get_bind fun w0 => ?_
  extract_lets g rg me sent
  have hsent : ∀ frames, OkSame requestView (sent frames) := by
    intro frames
    refine okSame_get_bind fun w => ?_
    split
    · next v hv => exact okSameAt_set (congrArg (·, w.stores, w.wiped) (toMember_units (toMembers_single hv) :))
    · exact okSame_throw _ w
  refine okSame_ite ?_ (okSame_bind (okSame_pure _) hsent) w0
  exact okSame_bind (hostAsks_requests _ _ _ _ _ _) fun _ =>
    okSame_bind (readBytes_leaves _ _ _).requests fun _ => okSame_bind (okSame_pure _) hsent

/-! ### The part that starts -/

theorem getDesc_tracePart (type : Nat) (x : Desc) (p : Nat) (extra : List Byte) (v : Dev) (d : Nat) :
    getDesc (tracePart type x p extra v) d = getDesc v d := by
  unfold tracePart
  split <;> rfl

/-- A part that has started is running, and nothing else of its descriptor has changed. -/
theorem getDesc_startPart {d p : Nat} {v : Dev} {x : Desc} {q : Part} (hx : getDesc v d = some x) (hq : x.parts[p]? = some q) :
    getDesc (startPart d p v) d = some { x with parts := x.parts.set p { q with state := .running } } := by
  unfold startPart
  rw [hx]
  dsimp only
  refine (getDesc_tracePart ..).trans (getDesc_modPart_some _ ?_ hq)
  split
  · rw [stabHold_only]
    exact hx
  · exact hx

/-- A request that has been sent leaves its part running, and its device as it sent it beside. -/
theorem copy_asks {d p : Nat} {x : Desc} {q : Part} {w : Work} {s : State} (h : startable s.dev d p 7 = some (x, q))
    (hdir : copyDir x.bytes ≠ 0) (hn : (copySpan x p).2 ≠ 0) (hg : copyGroupOk s.dev x.ctx x.bytes = true)
    (hf : onFenced s.dev d p = false) (hk : stabBlocked s.dev d p = none) (hw : (copyAsk x q p).run (workOf s) = (.ok (), w)) :
    ∃ t, exec (.copy d p) s = .next t ∧ getDesc t.dev d = some { x with parts := x.parts.set p { q with state := .running } } ∧
      (∀ e, e ≠ d → getDesc t.dev e = getDesc s.dev e) ∧ t.dev.out = w.dev.out ∧ t.dev.fab = w.dev.fab ∧
      t.mem = s.mem ∧ t.host = s.host ∧ t.dev.rings = s.dev.rings ∧ t.dev.ctxs = s.dev.ctxs := by
  obtain ⟨hx, hq, -⟩ := startable_some h
  have hview : requestView w = requestView (workOf s) := copyAsk_requests x q p (workOf s) () w hw
  have hunits : unitsOf w.dev = unitsOf s.dev := congrArg (·.1) hview
  have hstores : w.stores = [] := congrArg (·.2.1) hview
  have hwiped : w.wiped = .none := congrArg (·.2.2) hview
  obtain ⟨-, hrings, hctxs, -⟩ := unitsOf_eq_iff.mp hunits
  let u : Work := snoopsUsed { w with dest := [] }
  have hexec : exec (.copy d p) s = .next (commit s (onDev (startPart d p) u)) :=
    runWork_eq (f := copyRun d p) ((copyRun_asks (w := workOf s) h hdir hn hg hf hk).trans (runAcc_ok hw))
  have hdev : (commit s (onDev (startPart d p) u)).dev = startPart d p u.dev :=
    (congrArg (breakReserved · (startPart d p u.dev)) hstores).trans (breakReserved_nil _)
  have hdescs : ∀ e, getDesc u.dev e = getDesc s.dev e := getDesc_of_units hunits
  have hstarted : PartOnly d p u.dev (startPart d p u.dev) := startPart_partOnly d p u.dev
  have field {β : Type} (f : Dev → β) : f (besideParts (startPart d p u.dev)) = f (besideParts u.dev) := congrArg f hstarted.beside
  refine ⟨_, hexec, ?_, fun e he => ?_, ?_, ?_, ?_, ?_, ?_, ?_⟩
  · rw [hdev]
    exact getDesc_startPart ((hdescs d).trans hx) hq
  · rw [hdev]
    exact (hstarted.other e he).trans (hdescs e)
  · rw [hdev]
    exact field Dev.out
  · rw [hdev]
    exact field Dev.fab
  · change applyStores .dev memDefault (wipeMem w.wiped s.mem) w.stores = s.mem
    rw [hstores, hwiped]
    rfl
  · change applyStores .host hostDefault s.host w.stores = s.host
    rw [hstores]
    rfl
  · rw [hdev]
    exact (field Dev.rings).trans hrings
  · rw [hdev]
    exact (field Dev.ctxs).trans hctxs

/-- Settles O51: a command whose part's turn has come is the run of that part, a peer's COPY its request, and any other command of a
part nothing. -/
theorem partCommandsRunTheirPart : Obligations.PartCommandsRunTheirPart := by
  refine ⟨fun d p x q s hs => ⟨?fold, ?norm, ?root, ?apply, ?solve, ?copy, ?check, ?cast⟩,
    fun d p x q w s h hdir hn hg hf hk hw => copy_asks h hdir hn hg hf hk hw,
    fun d p s => ⟨?statIdle, ?engineIdle, ?solveIdle, ?copyIdle, ?checkIdle, ?castIdle⟩⟩
  case fold =>
    exact fun h hop => partTurn_of_run (statRun 1 d p) hs rfl (statRun_runs h hop)
  case norm =>
    exact fun h hop => partTurn_of_run (statRun 2 d p) hs rfl (statRun_runs h hop)
  case root =>
    exact fun h hheld hop => partTurn_of_run (rootRun 4 0 d p) hs rfl (rootRun_runs h hheld hop)
  case apply =>
    exact fun h hheld hop => partTurn_of_run (rootRun 4 1 d p) hs rfl (rootRun_runs h hheld hop)
  case solve =>
    exact fun h hheld hop => partTurn_of_run (rootRun 5 0 d p) hs rfl (rootRun_runs h hheld hop)
  case copy =>
    exact fun h hdir hn => partTurn_of_run (copyRun d p) hs rfl (copyRun_local h hdir hn)
  case check =>
    refine fun h htest hbefore => ⟨fun hop => ?_, fun hop hp => ?_, fun hop hp => ?_⟩
    · exact partTurn_of_run (checkRun 0 d p) hs rfl (checkRun_runs h htest hbefore hop)
    · subst hp
      exact partTurn_of_run (checkRun 1 d 0) hs rfl (checkRun_runs h htest hbefore hop)
    · subst hp
      exact partTurn_of_run (checkRun 2 d 0) hs rfl (checkRun_runs h htest hbefore hop)
  case cast =>
    refine fun h _ => ⟨fun hc => ?_, fun hc => ?_⟩
    · exact partTurn_of_run (castRun false d) hs rfl (castRun_runs h hc)
    · exact partTurn_of_run (castRun true d) hs rfl (castRun_runs h hc)
  case statIdle =>
    exact fun h => ⟨runWork_unchanged (f := statRun 1 d p) (statRun_notReady h),
      runWork_unchanged (f := statRun 2 d p) (statRun_notReady h)⟩
  case engineIdle =>
    exact fun h => ⟨runWork_unchanged (f := rootRun 4 0 d p) (rootRun_held h), runWork_unchanged (f := rootRun 4 1 d p) (rootRun_held h)⟩
  case solveIdle =>
    exact fun h => runWork_unchanged (f := rootRun 5 0 d p) (rootRun_held h)
  case copyIdle =>
    exact fun h => runWork_unchanged (f := copyRun d p) (copyRun_notReady h)
  case checkIdle =>
    refine fun h => ⟨runWork_unchanged (f := checkRun 0 d p) (checkRun_held h), ?_⟩
    rintro rfl
    exact ⟨runWork_unchanged (f := checkRun 1 d 0) (checkRun_held h), runWork_unchanged (f := checkRun 2 d 0) (checkRun_held h)⟩
  case castIdle =>
    exact fun h => ⟨runWork_unchanged (f := castRun false d) (castRun_notReady h),
      runWork_unchanged (f := castRun true d) (castRun_notReady h)⟩

end Sys2Proof.Machine
end

section
/-! What the failure path of a context leaves: its descriptors, its event and the rest (R309, R322, R416, R417). -/

namespace Sys2Proof.Machine

open Sys2Proof

/-! ### Parts that have not started -/

/-- A part that has not started, completed with ABORTED (R309). -/
def abortedPart (q : Part) : Part := if q.state = .queued then { q with state := .done, status := stAborted } else q

/-- A descriptor with its parts that have not started completed so. -/
def abortedDesc (x : Desc) : Desc := { x with parts := x.parts.map abortedPart }

theorem traceEnd_only (x : Desc) (p : Nat) (st : Byte) (v : Dev) :
    traceEnd x p st v = { v with trc := (traceEnd x p st v).trc } := by
  unfold traceEnd tracePart trcCause
  dsimp only
  repeat' split
  all_goals rfl

/-- Changes of the trace, one after another, change the trace only. -/
theorem foldl_trc_only {α : Type} {f : Dev → α → Dev} (hf : ∀ v a, f v a = { v with trc := (f v a).trc }) :
    ∀ (l : List α) (v : Dev), l.foldl f v = { v with trc := (l.foldl f v).trc }
  | [], _ => rfl
  | a :: l, v => by
    rw [List.foldl_cons, foldl_trc_only hf l (f v a), hf v a]

/-- Parts aborted: the descriptors that `test` names, and the engines, the stream tables, the banks and the trace (R309, R416). -/
theorem abortParts_only (test : Desc → Bool) (v : Dev) :
    abortParts test v = { v with
      descs := v.descs.map (fun x => if test x then abortedDesc x else x)
      engines := (abortParts test v).engines
      trc := (abortParts test v).trc
      stab := (abortParts test v).stab
      ue := (abortParts test v).ue } := by
  unfold abortParts
  extract_lets hit gone u ended
  rw [foldl_trc_only (fun (v : Dev) (c : Desc × Nat) => traceEnd_only c.1 c.2 stAborted v)]
  rfl

/-! ### Abort notices -/

/-- A device without what a message sent may change. -/
def besideFabric (v : Dev) : Dev := { v with fab := {}, ctr := {}, trc := {}, out := [], free := 0 }

theorem sendSegs_beside {grp node : Nat} {mask : BitVec 24} {begun : Option Nat} {seg : Nat} {bodies : List FabMsg} {v : Dev}
    {r : Nat × Dev} (h : sendSegs grp node mask begun seg bodies v = some r) : besideFabric r.2 = besideFabric v := by
  unfold sendSegs at h
  split at h
  · cases h
  · cases h
    refine (foldl_same (g := besideFabric) ?_ _ _).trans ?_
    · exact fun _ _ => rfl
    · repeat' split
      all_goals rfl

theorem sendMsg_beside (grp node : Nat) (mask : BitVec 24) (bodies : List FabMsg) (v : Dev) :
    besideFabric ((sendMsg grp node mask bodies v).getD v) = besideFabric v := by
  unfold sendMsg
  cases h : sendSegs grp node mask none 0 bodies v with
  | none => rfl
  | some r => exact sendSegs_beside h

theorem abortNotices_beside (x : Nat) (v : Dev) : besideFabric (abortNotices x v) = besideFabric v :=
  foldl_same (fun _ _ => foldl_same (fun _ _ => sendMsg_beside ..) _ _) _ _

/-! ### The context, its descriptors and its event -/

/-- The attention ring after an event: it is held, or dropped and counted (R323). -/
theorem raise_attn_eq (code ctx : Nat) (payload : List Byte) (v : Dev) : (raise code ctx payload v).attn =
    if attnHeld v.attn < 64 then
      { v.attn with
        held := v.attn.held ++ [⟨v.pace.time, BitVec.ofNat 16 code, BitVec.ofNat 6 ctx, v.attn.seq, payload⟩], seq := v.attn.seq + 1 }
    else
      { v.attn with dropped := satAdd v.attn.dropped 1, droppedSince := v.attn.droppedSince + 1, seq := v.attn.seq + 1 } := by
  unfold raise trcCause
  simp only [apply_ite Dev.attn, traceTo_attn, ite_self]
  rfl

/-- An event depends on the attention ring and the time only. -/
theorem raise_attn_congr (code ctx : Nat) (payload : List Byte) {v u : Dev} (ha : u.attn = v.attn) (hp : u.pace = v.pace) :
    (raise code ctx payload u).attn = (raise code ctx payload v).attn := by
  rw [raise_attn_eq, raise_attn_eq, ha, hp]

section
variable {x tag ring st : Nat} {v : Dev} (h : (getCtx v x).state = 1)
include h

theorem failCtx_descs : (failCtx x tag ring st v).descs = v.descs.map (fun y => if y.ctx = x then abortedDesc y else y) := by
  unfold failCtx
  rw [if_neg (not_not.mpr h)]
  extract_lets v1 v2 v3 idle v4 v5
  have h5 : v5.descs = v4.descs := by unfold v5; rw [raise_only]
  have h2 : v2.descs = _ := congrArg Dev.descs (abortParts_only (fun q => q.ctx = x) v1)
  refine ((congrArg Dev.descs (abortNotices_beside x v5) :).trans h5).trans (h2.trans ?_)
  simp only [decide_eq_true_eq]
  rfl

/-- The failure path raises CTX_FAILED (R322, R416). -/
theorem failCtx_attn : (failCtx x tag ring st v).attn =
    (raise 0x0008 x (leBytes 8 tag ++ leBytes 2 ring ++ leBytes 1 st) v).attn := by
  unfold failCtx
  rw [if_neg (not_not.mpr h)]
  extract_lets v1 v2 v3 idle v4 v5
  have h2 := abortParts_only (fun q => q.ctx = x) v1
  have ha : v4.attn = v.attn := (congrArg Dev.attn h2 :)
  have hp : v4.pace = v.pace := (congrArg Dev.pace h2 :)
  exact (congrArg Dev.attn (abortNotices_beside x v5) :).trans (raise_attn_congr _ _ _ ha hp)

theorem getCtx_failCtx (hw : tabWf {} v.ctxs = true) :
    getCtx (failCtx x tag ring st v) x = { getCtx v x with state := 2 } := by
  rw [getCtx, failCtx_ctxs h]
  exact getCtx_setCtx_same x _ v hw

theorem getCtx_failCtx_other {y : Nat} (hy : y ≠ x) : getCtx (failCtx x tag ring st v) y = getCtx v y := by
  rw [getCtx, failCtx_ctxs h]
  exact getCtx_setCtx_other x y _ v hy

end

/-- What an event leaves in the attention ring: its number taken, and where there is room one record of it (R321, R323). -/
theorem raise_told {code ctx : Nat} {payload : List Byte} {v : Dev} {a : Attn} (h : a = (raise code ctx payload v).attn) :
    a.seq = v.attn.seq + 1 ∧ (attnHeld v.attn < 64 →
      ∃ e, a.held = v.attn.held ++ [e] ∧ e.code = BitVec.ofNat 16 code ∧ e.ctx = BitVec.ofNat 6 ctx ∧ e.payload = payload) := by
  subst h
  exact ⟨raise_seq .., fun hr => ⟨_, congrArg Attn.held (raise_attn code ctx payload v hr), rfl, rfl, rfl⟩⟩

end Sys2Proof.Machine
end

section
/-! Stages that leave any view of the work that does not look at what an access to memory changes (R236, R248 to R257, R285). -/

namespace Sys2Proof.Machine

open Sys2Proof

/-- A view of the work that sees nothing of what a read of memory may change: the lines snooped, the link, the translation caches and
the values of counters. -/
structure ReadBlind {β : Type} (f : Work → β) : Prop where
  snooped : ∀ w l, f { w with snooped := l } = f w
  cxl : ∀ w c, f (onDev (fun v => { v with cxl := c }) w) = f w
  tlb : ∀ w l, f (onDev (fun v => { v with tlb := l }) w) = f w
  values : ∀ w t, f (onDev (fun v => { v with ctr := { v.ctr with values := t } }) w) = f w

/-- And nothing of what a write changes besides: the bytes stored and the uncorrectable words. -/
structure WriteBlind {β : Type} (f : Work → β) : Prop extends ReadBlind f where
  stores : ∀ w l, f { w with stores := l } = f w
  ue : ∀ w l, f (onDev (fun v => { v with ue := l }) w) = f w

/-! ### Reads -/

theorem countBytes_only (ctx : Nat) (t : Target) (v : Dev) :
    ∃ c, countBytes ctx t v = { v with ctr := { v.ctr with values := c } } := by
  unfold countBytes
  repeat' split
  · exact ⟨_, rfl⟩
  · exact ⟨v.ctr.values, rfl⟩
  · exact ⟨_, rfl⟩

section
variable {β : Type} {f : Work → β} (hf : ReadBlind f)
include hf

theorem snoopGate_blind (a : Nat) (write : Bool) : OkSame f (snoopGate a write) := by
  refine okSame_get_bind fun w => ?_
  split
  · exact okSame_pure _ w
  · split
    · exact okSame_throw _ w
    · exact okSameAt_set (hf.snooped w _)

theorem readPhys_blind (ctx a : Nat) : OkSame f (readPhys ctx a) :=
  okSame_bind (snoopGate_blind hf a false) fun _ => okSame_get_bind fun w => okSame_ite (failUe_steps ctx a) (okSame_pure _) w

theorem readPhys64_blind (ctx a : Nat) : OkSame f (readPhys64 ctx a) :=
  okSame_bind (okSame_mapM (fun i => readPhys_blind hf ctx (a + i)) (upto 8)) fun _ => okSame_pure _

theorem walkEntry_blind (r : Requestor) (va : W64) (lvl table : Nat) (wOk : Bool) : OkSame f (walkEntry r va lvl table wOk) := by
  unfold walkEntry
  refine okSame_guard (okSame_bind (readPhys64_blind hf _ _) fun e => okSame_guard ?_)
  exact okSame_ite (okSame_guard (okSame_pure _)) (okSame_pure _)

theorem walk_blind (r : Requestor) (va : W64) : ∀ (lvl table : Nat) (ok : Bool), OkSame f (walk r va lvl table ok)
  | 0, table, ok => by
    refine okSame_bind (walkEntry_blind hf r va 0 table ok) fun e => ?_
    cases e with
    | inl pg => exact okSame_pure _
    | inr next => exact okSame_throw _
  | l + 1, table, ok => by
    refine okSame_bind (walkEntry_blind hf r va (l + 1) table ok) fun e => ?_
    cases e with
    | inl pg => exact okSame_pure _
    | inr next => exact walk_blind r va l _ _

theorem atsTranslate_blind (r : Requestor) (va : W64) (ha : Nat) (write : Bool) : OkSame f (atsTranslate r va ha write) := by
  refine okSame_get_bind fun w => ?_
  split
  · exact okSame_throw _ w
  · split
    · exact okSameAt_bind (okSameAt_set (hf.cxl w _)) fun _ => okSame_throw _
    · exact okSame_ite (okSame_throw _) (okSame_ite (okSame_throw _) (okSame_pure _)) w

theorem translate_blind (r : Requestor) (va : W64) (write : Bool) : OkSame f (translate r va write) := by
  unfold translate
  extract_lets va48 found looked
  refine okSame_guard ?_
  refine okSame_get_bind fun w => ?_
  extract_lets hit walked
  have hfound : ∀ pg, OkSame f (found pg) := fun pg =>
    okSame_guard (okSame_ite (okSame_ite (okSame_throw _) (atsTranslate_blind hf _ _ _ _))
      (okSame_ite (okSame_throw _) (okSame_ite (okSame_throw _) (okSame_pure _))))
  have hwalked : OkSame f (walked ()) := by
    refine okSame_bind (walk_blind hf _ _ _ _ _) fun pg => ?_
    split
    · exact okSame_bind (okSame_modify fun w => hf.tlb w _) fun _ => okSame_bind (okSame_pure _) hfound
    · exact okSame_bind (okSame_pure _) hfound
  clear_value hit
  cases hit with
  | some t => exact okSame_bind (okSame_pure _) hfound w
  | none =>
    cases r.core with
    | some c => exact okSame_bind (okSame_modify fun w => hf.values w _) (fun _ => hwalked) w
    | none => exact hwalked w

theorem countBytes_blind (ctx : Nat) (t : Target) : OkSame f (modify (onDev (countBytes ctx t)) : Acc PUnit) := by
  refine okSame_modify fun w => ?_
  obtain ⟨c, hc⟩ := countBytes_only ctx t w.dev
  exact (congrArg (fun v => f { w with dev := v }) hc).trans (hf.values w c)

theorem readRaw_blind (r : Requestor) (va : W64) : OkSame f (readRaw r va) := by
  refine okSame_bind (translate_blind hf r va false) fun t => okSame_bind (countBytes_blind hf r.ctx t) fun _ => ?_
  cases t with
  | dev a => exact readPhys_blind hf _ _
  | host a => exact okSame_get_bind fun w => okSame_pure _ w

theorem checkTag_blind (r : Requestor) (va : W64) : OkSame f (checkTag r va) := by
  unfold checkTag
  split
  · exact okSame_pure _
  · refine okSame_ite (okSame_pure _) ?_
    split
    · exact okSame_pure _
    · exact okSame_guard (okSame_bind (readRaw_blind hf _ _) fun b => okSame_ite (okSame_throw _) (okSame_pure _))

theorem readBytes_blind (r : Requestor) : ∀ (n : Nat) (va : W64), OkSame f (readBytes r va n)
  | 0, _ => okSame_pure _
  | n + 1, va => okSame_bind (okSame_bind (checkTag_blind hf r va) fun _ => readRaw_blind hf r va) fun _ =>
    okSame_bind (readBytes_blind r n (va + 1)) fun _ => okSame_pure _

theorem readNat_blind (r : Requestor) (va : W64) (n : Nat) : OkSame f (readNat r va n) :=
  okSame_bind (readBytes_blind hf r n va) fun _ => okSame_pure _

end

/-! ### Writes -/

section
variable {β : Type} {f : Work → β} (hf : WriteBlind f)
include hf

theorem writeRaw_blind (r : Requestor) (lo hi : Nat) (va : W64) (b : Byte) : OkSame f (writeRaw r lo hi va b) := by
  refine okSame_bind (translate_blind hf.toReadBlind r va true) fun t => okSame_bind (countBytes_blind hf.toReadBlind r.ctx t) fun _ => ?_
  cases t with
  | host a => exact okSame_bind (okSame_modify fun w => hf.stores w _) fun _ => okSame_pure _
  | dev a =>
    refine okSame_bind (snoopGate_blind hf.toReadBlind a true) fun _ => okSame_get_bind fun w => ?_
    split
    · extract_lets g start v0 v
      have hv : f { w with dev := v } = f w := by
        unfold v
        split
        · exact hf.ue w _
        · rfl
      split
      · exact okSameAt_bind (okSameAt_set ((hf.stores { w with dev := v } _).trans hv)) fun _ => okSame_pure _
      · exact okSame_pure _ w
    · exact okSameAt_bind (okSameAt_set (hf.stores w _)) fun _ => okSame_pure _

theorem clearTag_blind (r : Requestor) (va : W64) : OkSame f (clearTag r va) := by
  unfold clearTag
  split
  · exact okSame_pure _
  · refine okSame_ite (okSame_pure _) ?_
    split
    · exact okSame_pure _
    · refine okSame_ite (okSame_pure _) (okSame_bind (readRaw_blind hf.toReadBlind _ _) fun b => ?_)
      exact okSame_ite (okSame_bind (writeRaw_blind hf _ _ _ _ _) fun _ => okSame_pure _) (okSame_pure _)

theorem writeBytesIn_blind (r : Requestor) (lo hi : Nat) : ∀ (bs : List Byte) (va : W64), OkSame f (writeBytesIn r lo hi va bs)
  | [], _ => okSame_pure _
  | b :: bs, va =>
    okSame_bind (okSame_bind (clearTag_blind hf r va) fun _ => writeRaw_blind hf r lo hi va b) fun _ =>
      okSame_bind (writeBytesIn_blind r lo hi bs (va + 1)) fun _ => okSame_pure _

theorem writeBytes_blind (r : Requestor) (va : W64) (bs : List Byte) : OkSame f (writeBytes r va bs) := by
  unfold writeBytes
  refine okSame_bind (writeBytesIn_blind hf _ _ _ bs va) fun u => ?_
  cases u with
  | none => exact okSame_pure _
  | some a => rintro w b t ⟨⟩

end

end Sys2Proof.Machine
end

section
/-! Rings turned on and off, and replays started (R223, R233, R302, R309, R331). -/

namespace Sys2Proof.Machine

open Sys2Proof

/-! ### Writes of RING_CTRL (R302, R331) -/

/-- A write with a row of its own that lands does what its row says. -/
theorem runWork_lands {s : State} {off : Nat} {ide : Bool} (act : Work → Work) (h : WriteLands s off ide) :
    runWork (guarded off ide act) s = .next (commit s (act (workOf s))) := by
  obtain ⟨hb, hl, hi⟩ := h
  exact runWork_eq (guarded_open off ide act (workOf s) hb hl hi)

section
variable {r : Nat} {w : Work}

theorem ringWrite_enable (h : (getRing w.dev r).enable = false) : ringWrite r 3 ⟨true, false, 1⟩ w = onDev (ringOn r) w := by
  change ringCtrl r true false w = _
  simp [ringCtrl, h]

theorem ringWrite_disable (h : (getRing w.dev r).enable = true) : ringWrite r 3 ⟨true, false, 0⟩ w = onDev (ringOff r) w := by
  change ringCtrl r false false w = _
  simp [ringCtrl, h]

theorem ringWrite_start (h : (getRing w.dev r).enable = true) : ringWrite r 3 ⟨true, false, 3⟩ w = replayStart r w := by
  change ringCtrl r true true w = _
  simp [ringCtrl, h]

end

/-! ### ENABLE (R302) -/

/-- A ring as it starts: at its first unit, with nothing reserved (R302). -/
def startedRing (x : Ring) : Ring :=
  { x with
    enable := true, err := 0, state := 0, head := 0, tail := 0, cqHead := 0, cqWritten := 0, reserved := 0, waiting := none
    passFlags := {}, passSkipped := false, passRead := false, passSum := false, boundaryHeld := false }

theorem ringOn_refused {r : Nat} {v : Dev} (h : ringRefused v (getRing v r) = true) :
    ringOn r v = setRing r { getRing v r with err := 2 } v := if_pos h

/-- A ring that its doorbell line's data do not move starts, and descriptors of its earlier life lose their place. -/
theorem ringOn_starts {r : Nat} {v : Dev} (h : ringRefused v (getRing v r) = false)
    (hd : (getRing v r).mode = 1 ∨ (getDb v (getRing v r).dbLine.toNat).held = false) :
    ringOn r v = { setRing r (startedRing (getRing v r)) v with
      descs := v.descs.map (fun d => if d.ring = r then { d with orphan := true } else d) } := by
  unfold ringOn
  extract_lets x v1 v2 l
  have still : (x.mode = 0 && l.valid && l.held) = false := by
    rcases hd with hm | hh
    · rw [show x.mode = 1 from hm]
      rfl
    · rw [show l.held = false from hh, Bool.and_false]
  rw [h, still]
  rfl

/-- What RING_DISABLE leaves of a ring (R302). -/
def stoppedRing (x : Ring) : Ring := { x with enable := false, state := 0, waiting := none, boundaryHeld := false }

/-- A descriptor of the ring's present life, which RING_DISABLE aborts (R309). -/
def livesOn (r : Nat) (d : Desc) : Bool := d.ring = r && d.sub.isNone && !d.orphan

theorem livesOn_iff (r : Nat) (d : Desc) : livesOn r d = true ↔ d.ring = r ∧ d.sub = none ∧ d.orphan = false := by
  simp [livesOn, and_assoc]

theorem ringOff_only (r : Nat) (v : Dev) : ringOff r v = { setRing r (stoppedRing (getRing v r)) v with
    descs := v.descs.map (fun d => if d.ring = r ∧ d.sub = none ∧ d.orphan = false then abortedDesc d else d)
    engines := (ringOff r v).engines, trc := (ringOff r v).trc, stab := (ringOff r v).stab, ue := (ringOff r v).ue
    stabWaits := v.stabWaits.filter (fun k => k ≠ .fetch r) } := by
  have waits : (fun k => !fetchOf (fun q => q = r) k) = fun k => decide (k ≠ .fetch r) := by
    funext k
    cases k <;> simp [fetchOf]
  have runs : ringOff r v = abortParts (livesOn r) (stabForget (fetchOf (fun q => q = r)) (modRing r stoppedRing v)) := rfl
  have h := abortParts_only (livesOn r) (stabForget (fetchOf (fun q => q = r)) (modRing r stoppedRing v))
  rw [← runs] at h
  generalize ringOff r v = u at h ⊢
  simp only [livesOn_iff] at h
  rw [← waits]
  exact h

/-! ### START (R233, R331) -/

/-- A replay ring at the start of a pass (R331). -/
def passRing (x : Ring) : Ring :=
  { x with
    state := 4, head := 0, passFlags := {}, passSkipped := false, passRead := false, passSum := false, boundaryHeld := false }

theorem newPass_eq (r : Nat) (v : Dev) : newPass r v = setRing r (passRing (getRing v r)) v := rfl

/-- The fields that the start of a pass writes into the step state record at `a` (R233). -/
def passFields (ctx : Nat) (a : W64) (bs : List Byte) : Acc Unit := do
  let eta ← negEta ctx bs (leAt bs 0 4)
  writeNat (edge ctx) (a + 8) 4 (fdiv f32One (leAt bs 4 4))
  writeNat (edge ctx) (a + 44) 4 eta

/-- The start of a replay on the record at `a`: a stage that `replayStart` runs. -/
def replayStage (r ctx : Nat) (a : W64) : Acc Unit := do
  let bs ← readBytes (edge ctx) a 64
  if leAt bs 28 4 ≠ 0 then
    if !recordOk bs then throw (.fail stMalformed 0)
    passFields ctx a bs
    modify (onDev (newPass r))

section
variable {r ctx : Nat} {a : W64} {bs : List Byte} {w u t : Work}

theorem replayStart_runs (hb : ringsBarred w.dev = false) (he : (getRing w.dev r).enable = true) (hm : (getRing w.dev r).mode = 1)
    (hs : (getRing w.dev r).state = 0) (hc : (getCtx w.dev (getRing w.dev r).ctx.toNat).stepRec ≠ 0) :
    replayStart r w = runAcc (replayStage r (getRing w.dev r).ctx.toNat (getCtx w.dev (getRing w.dev r).ctx.toNat).stepRec)
      (fun _ w => w) (fun st _ w => onDev (replayFail r st) w) w := by
  unfold replayStart
  extract_lets x ctx c
  rw [if_neg (by simpa [hb, show x.enable = true from he, show x.mode = 1 from hm, show x.state = 0 from hs] using hc)]
  simp only [replayStage, passFields, bind_assoc]
  rfl

section
variable (hr : (readBytes (edge ctx) a 64).run w = (.ok bs, u))
include hr

theorem replayStage_left0 (h : leAt bs 28 4 = 0) : (replayStage r ctx a).run w = (.ok (), u) := by
  unfold replayStage
  rw [acc_bind_ok hr, if_neg (not_not.mpr h)]
  rfl

theorem replayStage_bad (h : leAt bs 28 4 ≠ 0) (hk : recordOk bs = false) :
    (replayStage r ctx a).run w = (.error (.fail stMalformed 0), u) := by
  unfold replayStage
  rw [acc_bind_ok hr, if_pos h, hk]
  rfl

theorem replayStage_pass (h : leAt bs 28 4 ≠ 0) (hk : recordOk bs = true) (hw : (passFields ctx a bs).run u = (.ok (), t)) :
    (replayStage r ctx a).run w = (.ok (), onDev (newPass r) t) := by
  unfold replayStage
  rw [acc_bind_ok hr, if_pos h, hk]
  exact acc_bind_ok hw

end

/-- A computation that fails with nothing to make free. -/
theorem runAcc_fail {α : Type} {m : Acc α} {onOk : α → Work → Work} {onFail : Byte → W64 → Work → Work} {w u : Work}
    {st : Byte} {b : W64} (h : m.run { w with dest := [], snooped := [], flags := {} } = (.error (.fail st b), u)) (hd : u.dest = []) :
    runAcc m onOk onFail w = onFail st b (snoopsUsed u) := by
  unfold runAcc
  rw [h]
  dsimp only
  unfold freeDest
  rw [hd]
  cases u
  cases hd
  rfl

theorem passFields_leaves : LeavesRest (passFields ctx a bs) :=
  leaves_bind (leaves_bind (readNat_leaves _ _ _).rest fun _ => leaves_pure _) fun _ =>
    leaves_bind (writeNat_leaves _ _ _ _) fun _ => writeNat_leaves _ _ _ _

end

/-- A read marks no destination (R310). -/
theorem readBytes_dest {r : Requestor} {a : W64} {n : Nat} {bs : List Byte} {w u : Work}
    (h : (readBytes r a n).run w = (.ok bs, u)) : u.dest = w.dest :=
  readBytes_blind (f := Work.dest) ⟨fun _ _ => rfl, fun _ _ => rfl, fun _ _ => rfl, fun _ _ => rfl⟩ r n a w bs u h

theorem getRing_congr {v u : Dev} (h : u.rings = v.rings) (r : Nat) : getRing u r = getRing v r := by rw [getRing, h, ← getRing]

theorem breakReserved_rings (l : List Store) (v : Dev) : (breakReserved l v).rings = v.rings := by rw [breakReserved_only]

theorem breakReserved_ctxs (l : List Store) (v : Dev) : (breakReserved l v).ctxs = v.ctxs := by rw [breakReserved_only]

/-! ### REPLAY_START -/

section
variable {r : Fin 4096} {ide : Bool} {s : State} {x : Ring} {a : W64} {bs : List Byte} {w u : Work}

/-- REPLAY_START of an idle replay ring runs its stage on its context's record. -/
theorem exec_replayStart (hl : WriteLands s 0x20000 ide) (hx : getRing s.dev r.val = x) (ha : (getCtx s.dev x.ctx.toNat).stepRec = a)
    (hb : ringsBarred s.dev = false) (he : x.enable = true) (hm : x.mode = 1) (hs : x.state = 0) (hc : a ≠ 0) :
    exec (.replayStart r ide) s = .next (commit s (runAcc (replayStage r.val x.ctx.toNat a)
      (fun _ w => w) (fun st _ w => onDev (replayFail r.val st) w) (workOf s))) := by
  subst hx ha
  exact (runWork_lands _ hl).trans (congrArg (fun w => Host.Outcome.next (commit s w))
    ((ringWrite_start (w := workOf s) he).trans (replayStart_runs (w := workOf s) hb he hm hs hc)))

variable (hexec : exec (.replayStart r ide) s = .next (commit s (runAcc (replayStage r.val x.ctx.toNat a)
    (fun _ w => w) (fun st _ w => onDev (replayFail r.val st) w) (workOf s))))
  (hread : (readBytes (edge x.ctx.toNat) a 64).run (workOf s) = (.ok bs, w))
include hexec hread

/-- With REPLAY_LEFT 0 nothing is begun. -/
theorem replayStart_left0 (h : leAt bs 28 4 = 0) : ∃ t, exec (.replayStart r ide) s = .next t ∧
    t.dev.rings = s.dev.rings ∧ t.dev.ctxs = s.dev.ctxs ∧ t.mem = s.mem ∧ t.host = s.host := by
  have hview : readView w = readView (workOf s) := (readBytes_leaves _ _ _ (workOf s) _ w hread (.inl ⟨_, rfl⟩)).1
  have hdev : restOf w.dev = restOf s.dev := congrArg (·.1) hview
  rw [runAcc_ok (w := workOf s) (replayStage_left0 hread h),
    commit_noStores s (snoopsUsed { w with dest := [] }) (congrArg (·.2.1) hview :) (congrArg (·.2.2) hview :)] at hexec
  exact ⟨_, hexec, (congrArg Dev.rings hdev :), (congrArg Dev.ctxs hdev :), rfl, rfl⟩

/-- A record that does not pass puts the context on the failure path (R223). -/
theorem replayStart_bad (hx : getRing s.dev r.val = x) (hw : tabWf {} s.dev.ctxs = true) (h : leAt bs 28 4 ≠ 0)
    (hk : recordOk bs = false) (hc : (getCtx s.dev x.ctx.toNat).state = 1) : ∃ t, exec (.replayStart r ide) s = .next t ∧
      (getCtx t.dev x.ctx.toNat).state = 2 ∧ t.dev.attn.seq = s.dev.attn.seq + 1 ∧ t.mem = s.mem ∧ t.host = s.host := by
  have hview : readView w = readView (workOf s) := (readBytes_leaves _ _ _ (workOf s) _ w hread (.inl ⟨_, rfl⟩)).1
  have hdev : restOf w.dev = restOf s.dev := congrArg (·.1) hview
  rw [runAcc_fail (w := workOf s) (replayStage_bad hread h hk) (readBytes_dest hread),
    commit_noStores s (onDev (replayFail r.val stMalformed) (snoopsUsed w)) (congrArg (·.2.1) hview :) (congrArg (·.2.2) hview :)]
    at hexec
  let v := (snoopsUsed w).dev
  have hctxs : v.ctxs = s.dev.ctxs := (congrArg Dev.ctxs hdev :)
  have hrings : v.rings = s.dev.rings := (congrArg Dev.rings hdev :)
  have hattn : v.attn = s.dev.attn := (congrArg Dev.attn hdev :)
  have hrun : (getCtx v x.ctx.toNat).state = 1 := (congrArg Ctx.state (getCtx_congr hctxs _)).trans hc
  have hfail : replayFail r.val stMalformed v = failCtx x.ctx.toNat 0 r.val stMalformed.toNat v := by
    rw [replayFail, getRing_congr hrings, hx]
  refine ⟨_, hexec, ?_, ?_, rfl, rfl⟩
  · change (getCtx (replayFail r.val stMalformed v) _).state = 2
    rw [hfail, getCtx_failCtx hrun (hctxs ▸ hw)]
  · change (replayFail r.val stMalformed v).attn.seq = _
    rw [hfail, (raise_told (failCtx_attn hrun)).1, hattn]

/-- A record that passes begins a pass, with the fields that it is due (R233, R331). -/
theorem replayStart_pass (hx : getRing s.dev r.val = x) (hw : tabWf {} s.dev.rings = true) (h : leAt bs 28 4 ≠ 0)
    (hk : recordOk bs = true) (hm : Memory.wf s = true) (hu : u.wiped = .none) (hl : s.dev.power.lost = .none)
    (hrun : (passFields x.ctx.toNat a bs).run w = (.ok (), u)) : ∃ t, exec (.replayStart r ide) s = .next t ∧ StoredBy s t u.stores ∧
      getRing t.dev r.val = passRing x ∧ (∀ q, q ≠ r.val → getRing t.dev q = getRing s.dev q) ∧ t.dev.ctxs = s.dev.ctxs := by
  have hview : writeView u = writeView (workOf s) := ((passFields_leaves w _ u hrun (.inl ⟨_, rfl⟩)).1).trans
    ((readBytes_leaves _ _ _).rest (workOf s) _ w hread (.inl ⟨_, rfl⟩)).1
  have hdev : unwrittenOf u.dev = unwrittenOf s.dev := congrArg (·.1) hview
  have hrings : u.dev.rings = s.dev.rings := (congrArg Dev.rings hdev :)
  rw [runAcc_ok (w := workOf s) (replayStage_pass hread h hk hrun)] at hexec
  have hput : (newPass r.val u.dev).rings = tabPut {} s.dev.rings r.val (passRing x) := by
    rw [newPass_eq, setRing_rings, getRing_congr hrings, hx, hrings]
  refine ⟨_, hexec, storedBy_commit hm hu hl (congrArg Dev.power hdev :), ?_, fun q hq => ?_, ?_⟩
  · exact (getRing_congr ((breakReserved_rings ..).trans hput) _).trans (getRing_setRing_same r.val _ s.dev hw)
  · exact (getRing_congr ((breakReserved_rings ..).trans hput) _).trans (getRing_setRing_other r.val q _ s.dev hq)
  · exact (breakReserved_ctxs ..).trans (congrArg Dev.ctxs hdev :)

end

/-- Settles O39: a ring's start and stop by the equations of `ringOn` and `ringOff`, and a replay's start by what its stage finds in
the step state record. -/
theorem ringsStartAndStop : Obligations.RingsStartAndStop := by
  refine ⟨fun r ide s hl hw he => ⟨fun hr => ?refused, fun hr hd => ?starts⟩, fun r ide s hl hw he => ?stops,
    fun r ide bs w s hl hwr hwc => ?replay⟩
  case refused =>
    refine ⟨_, (runWork_lands _ hl).trans (congrArg _ (congrArg _ (ringWrite_enable (w := workOf s) he))), ?_⟩
    rw [commit_noStores s _ rfl rfl, onDev_dev, workOf_dev, ringOn_refused hr]
    exact ⟨getRing_setRing_same _ _ _ hw, fun q hq => getRing_setRing_other _ _ _ _ hq, rfl⟩
  case starts =>
    refine ⟨_, (runWork_lands _ hl).trans (congrArg _ (congrArg _ (ringWrite_enable (w := workOf s) he))), ?_⟩
    rw [commit_noStores s _ rfl rfl, onDev_dev, workOf_dev, ringOn_starts hr hd]
    exact ⟨getRing_setRing_same r.val _ s.dev hw, fun q hq => getRing_setRing_other r.val q _ s.dev hq, rfl⟩
  case stops =>
    refine ⟨_, (runWork_lands _ hl).trans (congrArg _ (congrArg _ (ringWrite_disable (w := workOf s) he))), ?_⟩
    rw [commit_noStores s _ rfl rfl, onDev_dev, workOf_dev, ringOff_only]
    exact ⟨getRing_setRing_same r.val _ s.dev hw, fun q hq => getRing_setRing_other r.val q _ s.dev hq, rfl, rfl⟩
  case replay =>
    intro x c he hm hs hc hb hread
    have hexec := exec_replayStart hl rfl rfl hb he hm hs hc
    exact ⟨replayStart_left0 hexec hread, replayStart_bad hexec hread rfl hwc,
      fun u h hk hmem hu hlost => replayStart_pass hexec hread rfl hwr h hk hmem hu hlost⟩

end Sys2Proof.Machine
end

section
/-! Parts and descriptors complete (R234, R309, R311 to R315, R416). -/

namespace Sys2Proof.Machine

open Sys2Proof

/-! ### PART_COMPLETE (R309) -/

/-- A part that has recorded its status. -/
def donePart (q : Part) : Part := { q with state := .done }

/-- The device with a part done and its end traced (R309, R469). -/
def partRecorded (x : Desc) (p : Nat) (st : Byte) (v : Dev) : Dev := traceEnd x p st (modPart x.id p donePart v)

theorem partRecorded_only (x : Desc) (p : Nat) (st : Byte) (v : Dev) :
    partRecorded x p st v = { v with descs := (partRecorded x p st v).descs, trc := (partRecorded x p st v).trc } := by
  unfold partRecorded
  rw [traceEnd_only]
  rfl

theorem partRecorded_descs (x : Desc) (p : Nat) (st : Byte) (v : Dev) :
    (partRecorded x p st v).descs = (modPart x.id p donePart v).descs :=
  (congrArg Dev.descs (traceEnd_only x p st (modPart x.id p donePart v)) :)

section
variable {d p : Nat} {x : Desc} {q : Part} {v : Dev}

theorem getDesc_partRecorded (st : Byte) (hx : getDesc v d = some x) (hq : x.parts[p]? = some q) :
    getDesc (partRecorded x p st v) d = some { x with parts := x.parts.set p (donePart q) } := by
  obtain rfl := getDesc_id hx
  rw [getDesc, partRecorded_descs]
  exact getDesc_modPart_some donePart hx hq

theorem getDesc_partRecorded_other (st : Byte) (hx : getDesc v d = some x) {e : Nat} (he : e ≠ d) :
    getDesc (partRecorded x p st v) e = getDesc v e := by
  obtain rfl := getDesc_id hx
  rw [getDesc, partRecorded_descs]
  exact (getDesc_modPart x.id e p donePart v).trans (if_neg he)

/-- A part whose core's fence did not end it records its status. -/
theorem partComplete_records {w : Work} (hx : getDesc w.dev d = some x) (hq : x.parts[p]? = some q) (hs : q.state = .ended)
    (ho : subsOpen w.dev d p = false) (hf : q.status ≠ stFenced) :
    partComplete d p w = onDev (fun v => replayPart x q.status (partRecorded x p q.status v)) w := by
  unfold partComplete
  rw [hx]
  dsimp only
  rw [hq]
  dsimp only
  rw [if_neg (by simp [hs, ho]), if_neg hf]
  rfl

end

/-- A part with no error sets nothing off. -/
theorem replayPart_good {x : Desc} {st : Byte} {v : Dev} (h : st.toNat < 0x10) : replayPart x st v = v :=
  if_neg (by simp [Nat.not_le.mpr h])

/-- A failed part of a running replay puts its context on the failure path (R234). -/
theorem replayPart_fails {x : Desc} {st : Byte} {v : Dev} (h : 0x10 ≤ st.toNat) (hsub : x.sub = none) (ho : x.orphan = false)
    (he : (getRing v x.ring).enable = true) (hm : (getRing v x.ring).mode = 1) : replayPart x st v = failCtxBy x st v :=
  if_pos (by simp [h, hsub, ho, he, hm])

theorem getDesc_failCtx {x tag ring st : Nat} {v : Dev} (h : (getCtx v x).state = 1) (e : Nat) :
    getDesc (failCtx x tag ring st v) e = (getDesc v e).map (fun y => if y.ctx = x then abortedDesc y else y) := by
  rw [getDesc, failCtx_descs h]
  exact getDesc_map _ (fun y => by split <;> rfl) v e

/-! ### Stages that complete a descriptor (R313) -/

/-- The descriptors, contexts, engines and groups of a device. -/
def stagedOf (v : Dev) : List Desc × Tab Ctx × Tab Engine × Tab Group := (v.descs, v.ctxs, v.engines, v.groups)

/-- Those of the device that a command works on. -/
def stagedView (w : Work) : List Desc × Tab Ctx × Tab Engine × Tab Group := stagedOf w.dev

theorem breakReserved_staged (l : List Store) (v : Dev) : stagedOf (breakReserved l v) = stagedOf v := by
  rw [breakReserved_only]
  rfl

theorem Leaves.staged {α : Type} {m : Acc α} (h : LeavesRest m) : Leaves stagedView m :=
  h.comp fun c => (c.1.descs, c.1.ctxs, c.1.engines, c.1.groups)

theorem leaves_filterAuxM {α γ : Type} {f : Work → γ} {g : α → Acc Bool} (hg : ∀ a, Leaves f (g a)) :
    ∀ l acc : List α, Leaves f (l.filterAuxM g acc)
  | [], _ => leaves_pure _
  | a :: l, _ => leaves_bind (hg a) fun _ => leaves_filterAuxM hg l _

theorem leaves_filterM {α γ : Type} {f : Work → γ} {g : α → Acc Bool} (hg : ∀ a, Leaves f (g a)) (l : List α) :
    Leaves f (l.filterM g) := leaves_bind (leaves_filterAuxM hg l []) fun _ => leaves_pure _

theorem foldedBlocks_leaves (x : Desc) (r : Requestor) : LeavesAll (foldedBlocks x r) := by
  unfold foldedBlocks
  extract_lets bs f blocks
  have hblocks (n : Nat) : LeavesAll (blocks n) := by
    refine leaves_ite (leaves_pure _) (leaves_filterM (fun j => ?_) _)
    refine leaves_ite (leaves_pure _) ?_
    exact leaves_bind (leaves_mapM (fun _ => readNat_leaves _ _ _) _) fun _ => leaves_pure _
  exact leaves_ite (leaves_bind (leaves_pure _) hblocks) (leaves_bind (readNat_leaves _ _ _) hblocks)

theorem versionCover_leaves (x : Desc) (w : VerWin) (r : Requestor) : LeavesAll (versionCover x w r) := by
  refine leaves_get_bind fun u => (?_ : LeavesAll _) u
  extract_lets v inRuns blocks
  have hpure (f : Nat → Bool) : LeavesAll (pure f : Acc (Nat → Bool)) := leaves_pure f
  split
  · exact hpure _
  · exact hpure _
  · exact hpure _
  · exact leaves_ite (hpure _) (leaves_bind (foldedBlocks_leaves x r) fun _ => hpure _)
  case h_5 | h_6 =>
    refine leaves_ite (hpure _) (leaves_bind (leaves_filterM (fun _ => ?_) _) fun _ => hpure _)
    exact leaves_bind (readBytes_leaves _ _ _) fun _ => leaves_pure _
  all_goals exact hpure _

theorem setTags_leaves (r : Requestor) (w : VerWin) (covered : Nat → Bool) (rows cols : Nat) :
    LeavesRest (setTags r w covered rows cols) := by
  refine leaves_bind (leaves_forIn (fun t _ => ?_) _ _) fun _ => leaves_pure _
  extract_lets r0 c0 nc whole
  exact leaves_ite (leaves_bind (writeNat_leaves _ _ _ _) fun _ => leaves_pure _) (leaves_pure _)

theorem commitVersion_leaves (x : Desc) : LeavesRest (commitVersion x) := by
  unfold commitVersion
  split
  · exact leaves_pure _
  · refine leaves_ite (leaves_pure _) (leaves_bind (reqOf_leaves _ _ _).rest fun r => ?_)
    split
    · exact leaves_pure _
    · refine leaves_bind (readNat_leaves _ _ _).rest fun rows => leaves_bind (readNat_leaves _ _ _).rest fun cols => ?_
      exact leaves_bind (versionCover_leaves _ _ _).rest fun cover => setTags_leaves _ _ _ _ _

theorem completeEffects_leaves (x : Desc) : LeavesRest (completeEffects x) := by
  refine leaves_ite (leaves_bind (commitVersion_leaves x) fun _ => leaves_ite ?_ (leaves_pure _)) (leaves_pure _)
  exact leaves_get_bind fun w => leaves_bind (readNat_leaves _ _ _).rest (fun _ => writeNat_leaves _ _ _ _) w

theorem hostAsks_staged (read cache : Bool) (r : Requestor) (va : W64) (n most : Nat) :
    Leaves stagedView (hostAsks read cache r va n most) := by
  unfold hostAsks
  refine leaves_bind (leaves_forIn (fun k _ => ?_) _ _) fun _ => leaves_pure _
  refine leaves_bind (translate_leaves _ _ _).rest.staged fun t => ?_
  cases t with
  | dev a => exact leaves_pure _
  | host a => exact leaves_bind (leaves_modify (fun _ => rfl) fun _ => id) fun _ => leaves_pure _

theorem writeRecord_staged (x : Desc) : Leaves stagedView (writeRecord x) := by
  refine leaves_get_bind fun w => (?_ : Leaves stagedView _) w
  extract_lets r len n base at_
  have hslot (a : W64) (bs : List Byte) : Leaves stagedView (writeBytes (edge x.ctx) a bs) := (writeBytes_leaves _ _ _).staged
  refine leaves_bind (leaves_forIn (fun k _ => ?_) _ _) fun _ => ?_
  · exact leaves_bind (hostAsks_staged _ _ _ _ _ _) fun _ => leaves_bind (hslot _ _) fun _ => leaves_pure _
  · exact leaves_bind (hostAsks_staged _ _ _ _ _ _) fun _ => leaves_bind (hslot _ _) fun _ => leaves_modify (fun _ => rfl) fun _ => id

/-- From a module that holds no uncorrectable word a step comes to another, with the same descriptors, contexts, engines and groups. -/
def CleanStep (w u : Work) : Prop := w.dev.ue = [] → stagedView u = stagedView w ∧ u.dev.ue = []

theorem cleanStep_refl (w : Work) : CleanStep w w := fun h => ⟨rfl, h⟩

theorem cleanStep_trans (w u t : Work) (h : CleanStep w u) (k : CleanStep u t) : CleanStep w t := fun hw =>
  ⟨(k (h hw).2).1.trans (h hw).1, (k (h hw).2).2⟩

/-- A stage that meets no uncorrectable word puts no context on the failure path. -/
theorem ueFails_run {α : Type} {fail : Dev → Dev} {m : Acc α} {w : Work} (h : ∀ e u, m.run w = (.error e, u) → e.isUe = false) :
    (ueFails fail m).run w = m.run w := by
  refine (acc_tryCatch ..).trans ?_
  cases hm : m.run w with
  | mk r u =>
    match r with
    | .ok a => rfl
    | .error .wait => rfl
    | .error (.fail st b) =>
      have hst : ¬st = stMemoryUe := of_decide_eq_false (h _ u hm)
      simp only [hst, if_false]
      rfl

/-- What a step of a completion leaves where no word is uncorrectable, whether it was done or not. -/
theorem attempt_clean {x : Desc} {m : Acc Unit} (hm : Leaves stagedView m) : Steps CleanStep (attempt x m) := by
  intro w b u h hw
  cases hrun : m.run w with
  | mk r t =>
    obtain ⟨hview, hclean⟩ := hm w r t hrun (.inr hw)
    obtain ⟨hue, hstop⟩ := hclean hw
    have hrun' : (ueFails (failCtxBy x stMemoryUe) m).run w = (r, t) := by
      refine (ueFails_run fun e v he => hstop e ?_).trans hrun
      exact congrArg Prod.fst (hrun.symm.trans he)
    unfold attempt at h
    rw [acc_tryCatch] at h
    match r, hrun' with
    | .ok (), hrun' =>
      rw [acc_bind_ok hrun'] at h
      cases h
      exact ⟨hview, hue⟩
    | .error (.fail st a), hrun' =>
      rw [acc_bind_error hrun'] at h
      cases h
      exact ⟨hview, hue⟩
    | .error .wait, hrun' =>
      rw [acc_bind_error hrun'] at h
      cases h

theorem raise_staged (code ctx : Nat) (payload : List Byte) (v : Dev) (w : Work) :
    stagedView { w with dev := raise code ctx payload v } = stagedView { w with dev := v } ∧ (raise code ctx payload v).ue = v.ue := by
  rw [raise_only]
  exact ⟨rfl, rfl⟩

/-- CMPL, or the ring's stop, touches no descriptor (R305, R322). -/
theorem recordSeen_clean (x : Desc) (seen : Bool) :
    Steps CleanStep (modify (onDev (if seen then raiseCmpl x else ringError x.ring 3)) : Acc PUnit) := by
  refine steps_modify fun w hw => ?_
  cases seen with
  | true =>
    change stagedView { w with dev := raiseCmpl x w.dev } = _ ∧ (raiseCmpl x w.dev).ue = []
    unfold raiseCmpl
    split
    · exact ⟨(raise_staged ..).1, (raise_staged _ _ _ _ w).2.trans hw⟩
    · exact ⟨rfl, hw⟩
  | false =>
    change stagedView { w with dev := ringError x.ring 3 w.dev } = _ ∧ (ringError x.ring 3 w.dev).ue = []
    unfold ringError stopRing raiseRingError
    dsimp only
    split
    · exact ⟨(raise_staged ..).1, (raise_staged _ _ _ _ w).2.trans hw⟩
    · exact ⟨rfl, hw⟩

/-- A completion up to the record and its event (R313, R315). -/
def recordStage (x : Desc) : Acc Unit := do
  let _ ← attempt x (completeEffects x)
  if recordDue x then
    if x.orphan && decide (queueRoom (getRing (← get).dev x.ring) < x.slots) then throw .wait
    let seen ← attempt x (writeRecord x)
    modify (onDev (if seen then raiseCmpl x else ringError x.ring 3))

/-- A completed descriptor counted, taken from its ring and out of staging (R232, R314, R461). -/
def leaveStaging (x : Desc) (v : Dev) : Dev := dropDesc x.id (countDone x (ringDone x v))

theorem completeBody_eq (x : Desc) : completeBody x = recordStage x >>= fun _ => modify (onDev (leaveStaging x)) := by
  unfold completeBody recordStage
  rw [bind_assoc]
  congr 1
  funext b
  split
  · simp only [bind_assoc]
    congr 1
    funext w
    split
    · simp only [bind_assoc]
      rfl
    · simp only [bind_assoc]
      rfl
  · rfl

theorem recordStage_clean (x : Desc) : Steps CleanStep (recordStage x) := by
  have hr := cleanStep_refl
  have ht := cleanStep_trans
  refine steps_bind ht (attempt_clean (completeEffects_leaves x).staged) fun _ => steps_ite ?_ (steps_pure hr _)
  refine steps_get_bind fun w => (?_ : Steps CleanStep _) w
  have hwrite : Steps CleanStep
      (attempt x (writeRecord x) >>= fun seen => modify (onDev (if seen then raiseCmpl x else ringError x.ring 3))) :=
    steps_bind ht (attempt_clean (writeRecord_staged x)) (recordSeen_clean x)
  split
  · exact steps_bind ht (steps_throw _) fun _ => hwrite
  · exact hwrite

theorem leaveStaging_only (x : Desc) (v : Dev) : leaveStaging x v = { v with
    descs := v.descs.filter (fun y => y.id ≠ x.id), rings := (leaveStaging x v).rings, ctr := (leaveStaging x v).ctr
    stabWaits := (leaveStaging x v).stabWaits } := by
  unfold leaveStaging dropDesc countDone ringDone
  dsimp only
  repeat' split
  all_goals rfl

theorem leaveStaging_tables (x : Desc) (v : Dev) : (stagedOf (leaveStaging x v)).2 = (stagedOf v).2 := by
  rw [leaveStaging_only]
  rfl

theorem getDesc_leaveStaging (x : Desc) (v : Dev) : getDesc (leaveStaging x v) x.id = none := getDesc_dropDesc ..

theorem getDesc_leaveStaging_other (x : Desc) (v : Dev) {e : Nat} (h : e ≠ x.id) : getDesc (leaveStaging x v) e = getDesc v e := by
  rw [leaveStaging_only]
  unfold getDesc
  rw [List.find?_filter]
  congr 1
  funext y
  by_cases hy : y.id = e <;> simp [hy, h]

/-! ### DESCRIPTOR_COMPLETE (R313) -/

section
variable {d : Nat} {x : Desc} {s : State} {w : Work}

theorem exec_descriptorComplete_open (hx : getDesc s.dev d = some x) (h : allDone x = false) :
    exec (.descriptorComplete d) s = .next s := by
  refine runWork_unchanged (f := descriptorComplete d) ?_
  unfold descriptorComplete
  rw [show getDesc (workOf s).dev d = some x from hx]
  exact if_pos (by simp [h])

theorem exec_descriptorComplete (hx : getDesc s.dev d = some x) (hsub : x.sub = none) (h : allDone x = true)
    (hw : (completeBody x).run (workOf s) = (.ok (), w)) :
    exec (.descriptorComplete d) s = .next (commit s (snoopsUsed { w with dest := [] })) := by
  refine runWork_eq (f := descriptorComplete d) ?_
  unfold descriptorComplete
  rw [show getDesc (workOf s).dev d = some x from hx]
  exact (if_neg (by simp [hsub, h])).trans (runAcc_ok hw)

/-- A completion that ends has recorded what is due, and then has left staging. -/
theorem completeBody_ok {u : Work} (hw : (completeBody x).run u = (.ok (), w)) :
    ∃ t, (recordStage x).run u = (.ok (), t) ∧ w = onDev (leaveStaging x) t := by
  rw [completeBody_eq, acc_bind] at hw
  split at hw
  · next a t ht =>
    cases hw
    exact ⟨t, ht, rfl⟩
  · cases hw

theorem descriptorComplete_leaves (hx : getDesc s.dev d = some x) (hsub : x.sub = none) (h : allDone x = true)
    (hw : (completeBody x).run (workOf s) = (.ok (), w)) :
    ∃ t, exec (.descriptorComplete d) s = .next t ∧ getDesc t.dev d = none ∧
      (Memory.wf s = true → w.wiped = .none → s.dev.power.lost = .none → w.dev.power = s.dev.power → StoredBy s t w.stores) ∧
      (s.dev.ue = [] → (∀ e, e ≠ d → getDesc t.dev e = getDesc s.dev e) ∧ t.dev.ctxs = s.dev.ctxs ∧
        t.dev.engines = s.dev.engines ∧ t.dev.groups = s.dev.groups) := by
  obtain ⟨u, hu, rfl⟩ := completeBody_ok hw
  obtain rfl := getDesc_id hx
  refine ⟨_, exec_descriptorComplete hx hsub h hw, (getDesc_breakReserved ..).trans (getDesc_leaveStaging ..),
    fun hm hwipe hl hp => storedBy_commit hm hwipe hl hp, fun hue => ?_⟩
  obtain ⟨hview, -⟩ := recordStage_clean x (workOf s) () u hu hue
  let t := commit s (snoopsUsed { onDev (leaveStaging x) u with dest := [] })
  have ht : stagedOf t.dev = stagedOf (leaveStaging x u.dev) := breakReserved_staged u.stores (snoopsUsed (onDev (leaveStaging x) u)).dev
  have htables : (stagedOf t.dev).2 = (stagedOf s.dev).2 :=
    (congrArg (·.2) ht).trans ((leaveStaging_tables x u.dev).trans (congrArg (·.2) hview))
  have hdescs : u.dev.descs = s.dev.descs := congrArg (·.1) hview
  refine ⟨fun e he => ?_, (congrArg (·.1) htables :), (congrArg (·.2.1) htables :), (congrArg (·.2.2) htables :)⟩
  refine (getDesc_breakReserved ..).trans ((getDesc_leaveStaging_other x u.dev he).trans ?_)
  rw [getDesc, hdescs, ← getDesc]

end

/-! ### Completion records (R311 to R313) -/

theorem length_statusBytes (x : Desc) (o n : Nat) : (statusBytes x o n).length = n := by simp [statusBytes, upto]

theorem length_recordHeader (v : Dev) (x : Desc) (phase : Nat) : (recordHeader v x phase).length = 64 := by
  simp [recordHeader, length_statusBytes, leBytes]

theorem length_recordCont (x : Desc) (k phase : Nat) : (recordCont x k phase).length = 64 := by
  simp [recordCont, length_statusBytes, leBytes]

/-- The low bit of a slot's last byte. -/
theorem phase_of_slot {slot l : List Byte} {n : Nat} (h : slot = l ++ leBytes 1 n) (hs : slot.length = 64) :
    (slot.getD 63 0).toNat % 2 = n % 2 := by
  subst h
  have hl : l.length = 63 := by simpa [leBytes] using hs
  rw [← hl, List.getD_append_right _ _ _ _ le_rfl]
  simp [leBytes]

/-! ### The obligation -/

section
variable {d p : Nat} {x : Desc} {q : Part} {s : State}

theorem exec_partComplete (hx : getDesc s.dev d = some x) (hq : x.parts[p]? = some q) (hs : q.state = .ended)
    (ho : subsOpen s.dev d p = false) (hf : q.status ≠ stFenced) :
    exec (.partComplete d p) s = .next { s with dev := replayPart x q.status (partRecorded x p q.status s.dev) } :=
  (runWork_eq (f := partComplete d p) (partComplete_records (w := workOf s) hx hq hs ho hf)).trans (congrArg _ (commit_workOf s _))

/-- A part that has ended with no error records its status and nothing else. -/
theorem partComplete_good (hx : getDesc s.dev d = some x) (hq : x.parts[p]? = some q) (hs : q.state = .ended)
    (ho : subsOpen s.dev d p = false) (hst : q.status.toNat < 0x10) : ∃ t, exec (.partComplete d p) s = .next t ∧
      getDesc t.dev d = some { x with parts := x.parts.set p { q with state := .done } } ∧
      (∀ e, e ≠ d → getDesc t.dev e = getDesc s.dev e) ∧
      t = { s with dev := { s.dev with descs := t.dev.descs, trc := t.dev.trc } } := by
  have hf : q.status ≠ stFenced := by
    intro h
    rw [h] at hst
    exact absurd hst (by decide)
  have hexec := exec_partComplete hx hq hs ho hf
  rw [replayPart_good hst] at hexec
  exact ⟨_, hexec, getDesc_partRecorded _ hx hq, fun e he => getDesc_partRecorded_other _ hx he,
    congrArg (fun v => { s with dev := v }) (partRecorded_only x p q.status s.dev)⟩

/-- A part of a running replay that has ended with an error takes its context into the failure path (R234, R416). -/
theorem partComplete_failed (hw : tabWf {} s.dev.ctxs = true) (hx : getDesc s.dev d = some x) (hq : x.parts[p]? = some q)
    (hs : q.state = .ended) (ho : subsOpen s.dev d p = false) (hst : 0x10 ≤ q.status.toNat) (hf : q.status ≠ stFenced)
    (hsub : x.sub = none) (horphan : x.orphan = false) (he : (getRing s.dev x.ring).enable = true)
    (hm : (getRing s.dev x.ring).mode = 1) (hc : (getCtx s.dev x.ctx).state = 1) :
    ∃ t, exec (.partComplete d p) s = .next t ∧ getCtx t.dev x.ctx = { getCtx s.dev x.ctx with state := 2 } ∧
      (∀ y, y ≠ x.ctx → getCtx t.dev y = getCtx s.dev y) ∧
      getDesc t.dev d = some (abortedDesc { x with parts := x.parts.set p (donePart q) }) ∧
      (∀ e y, e ≠ d → getDesc s.dev e = some y → getDesc t.dev e = some (if y.ctx = x.ctx then abortedDesc y else y)) ∧
      t.dev.attn.seq = s.dev.attn.seq + 1 ∧
      (attnHeld s.dev.attn < 64 → ∃ e, t.dev.attn.held = s.dev.attn.held ++ [e] ∧ e.code = 8 ∧
        e.payload = leBytes 8 (userTag x) ++ leBytes 2 x.ring ++ leBytes 1 q.status.toNat) ∧
      t.mem = s.mem ∧ t.host = s.host := by
  let v := partRecorded x p q.status s.dev
  have only := partRecorded_only x p q.status s.dev
  have hctxs : v.ctxs = s.dev.ctxs := (congrArg Dev.ctxs only :)
  have hrings : v.rings = s.dev.rings := (congrArg Dev.rings only :)
  have hattn : v.attn = s.dev.attn := (congrArg Dev.attn only :)
  have hrun : (getCtx v x.ctx).state = 1 := (congrArg Ctx.state (getCtx_congr hctxs _)).trans hc
  have hexec := exec_partComplete hx hq hs ho hf
  rw [replayPart_fails hst hsub horphan ((congrArg Ring.enable (getRing_congr hrings _)).trans he)
    ((congrArg Ring.mode (getRing_congr hrings _)).trans hm)] at hexec
  obtain ⟨hseq, hheld⟩ := raise_told (failCtx_attn (tag := userTag x) (ring := x.ring) (st := q.status.toNat) hrun)
  rw [hattn] at hseq hheld
  refine ⟨_, hexec, ?_, fun y hy => ?_, ?_, fun e y he hy => ?_, hseq, fun hroom => ?_, rfl, rfl⟩
  · exact (getCtx_failCtx hrun (hctxs ▸ hw)).trans (congrArg (fun c : Ctx => { c with state := 2 }) (getCtx_congr hctxs _))
  · exact (getCtx_failCtx_other hrun hy).trans (getCtx_congr hctxs _)
  · refine (getDesc_failCtx hrun d).trans ?_
    rw [getDesc_partRecorded _ hx hq, Option.map_some, if_pos rfl]
  · refine (getDesc_failCtx hrun e).trans ?_
    rw [getDesc_partRecorded_other _ hx he, hy, Option.map_some]
  · obtain ⟨e, hheld, hcode, -, hpayload⟩ := hheld hroom
    exact ⟨e, hheld, hcode, hpayload⟩

end

/-- Settles O42: what a part's completion records and sets off, what a descriptor's leaves of the device, and the slots of a record. -/
theorem partsAndDescriptorsComplete : Obligations.PartsAndDescriptorsComplete := by
  refine ⟨fun d p x q s => partComplete_good, fun d p x q s => partComplete_failed, fun d x s hx hsub => ⟨?_, fun w => ?_⟩,
    fun v x phase k hphase => ⟨length_recordHeader v x phase, length_recordCont x k phase, ?_, ?_⟩⟩
  · exact exec_descriptorComplete_open hx
  · exact descriptorComplete_leaves hx hsub
  · have hbits : (phase + 2 * b2n (ctxUnprot v x.ctx)) % 2 = phase := by omega
    exact (phase_of_slot rfl (length_recordHeader v x phase)).trans hbits
  · exact (phase_of_slot rfl (length_recordCont x k phase)).trans (Nat.mod_eq_of_lt hphase)

end Sys2Proof.Machine
end

section
/-! Step boundaries and abort notices (R223, R232, R322, R331, R416, R417). -/

namespace Sys2Proof.Machine

open Sys2Proof

/-! ### The record of a boundary (R232) -/

theorem negEta_leaves (ctx : Nat) (bs : List Byte) (step : Nat) : LeavesAll (negEta ctx bs step) :=
  leaves_bind (readNat_leaves _ _ _) fun _ => leaves_pure _

theorem boundaryRecord_leaves (r ctx : Nat) (a : W64) : LeavesRest (boundaryRecord r ctx a) := by
  refine leaves_get_bind fun w => (?_ : LeavesRest _) w
  refine leaves_bind (readBytes_leaves _ _ _).rest fun bs => leaves_guard rfl ?_
  refine leaves_bind (negEta_leaves _ _ _).rest fun eta => leaves_bind (writeBytes_leaves _ _ _) fun _ => ?_
  exact leaves_bind (writeBytes_leaves _ _ _) fun _ => leaves_pure _

/-- No access to memory changes a mirror's registers (R475). -/
theorem mirrors_blind : WriteBlind fun w => w.dev.ctr.mirrors :=
  ⟨⟨fun _ _ => rfl, fun _ _ => rfl, fun _ _ => rfl, fun _ _ => rfl⟩, fun _ _ => rfl, fun _ _ => rfl⟩

theorem boundaryRecord_mirrors (r ctx : Nat) (a : W64) : OkSame (fun w => w.dev.ctr.mirrors) (boundaryRecord r ctx a) := by
  have hf := mirrors_blind
  refine okSame_get_bind fun w => (?_ : OkSame _ _) w
  refine okSame_bind (readBytes_blind hf.toReadBlind _ _ _) fun bs => okSame_guard ?_
  refine okSame_bind (okSame_bind (readNat_blind hf.toReadBlind _ _ _) fun _ => okSame_pure _) fun eta => ?_
  exact okSame_bind (writeBytes_blind hf _ _ _) fun _ => okSame_bind (writeBytes_blind hf _ _ _) fun _ => okSame_pure _

/-! ### What follows the record (R232, R322, R406) -/

/-- The reason in REPLAY_STOPPED: the steps are done, or STOP_REQ; a free value where both hold (log 48). -/
def stopReason (left : Nat) (stop : Bool) (v : Dev) : Nat := if left ≠ 0 then 1 else if stop then b2n ((freeVal v).getLsbD 0) else 0

theorem stopReason_le (left : Nat) (stop : Bool) (v : Dev) : stopReason left stop v ≤ 1 := by
  unfold stopReason b2n
  repeat' split
  all_goals omega

theorem stopReason_left {left : Nat} (stop : Bool) (v : Dev) (h : left ≠ 0) : stopReason left stop v = 1 := if_pos h

/-- The device after a boundary whose context's mirror takes no sample. -/
def boundaryDev (r ctx step left : Nat) (stop : Bool) (v : Dev) : Dev :=
  let v := ctrAdd ctx 18 1 v
  if left ≠ 0 && !stop then
    (if castHeld v ctx step then modRing r (fun x => { x with boundaryHeld := true }) v else newPass r v)
  else
    raise 0x0007 ctx (leBytes 4 step ++ leBytes 1 (stopReason left stop v)) (modRing r (fun x => { x with state := 0 }) (freeNext v))

section
variable {r ctx step left : Nat} {stop : Bool} {v : Dev}

theorem boundaryNext_eq {w : Work} (h : (getMirror w.dev ctx).stepEn = false) :
    boundaryNext r ctx (step, left, stop) w = onDev (boundaryDev r ctx step left stop) w := by
  have off : ¬(getMirror (onDev (ctrAdd ctx 18 1) w).dev ctx).stepEn = true := by
    rw [show getMirror (onDev (ctrAdd ctx 18 1) w).dev ctx = getMirror w.dev ctx from rfl, h]
    exact Bool.false_ne_true
  unfold boundaryNext boundaryDev
  dsimp only
  rw [if_neg off]
  by_cases hgo : (left ≠ 0 && !stop) = true
  · by_cases hc : castHeld (ctrAdd ctx 18 1 w.dev) ctx step = true
    · simp only [hgo, if_true, onDev, hc]
    · simp only [hgo, if_true, onDev, hc, Bool.false_eq_true, if_false]
  · simp only [hgo, onDev, Bool.false_eq_true, if_false]
    rfl

theorem boundaryDev_again (hl : left ≠ 0) (hs : stop = false) (hc : castHeld v ctx step = false) :
    boundaryDev r ctx step left stop v = newPass r (ctrAdd ctx 18 1 v) := by
  unfold boundaryDev
  rw [if_pos (by simp [hl, hs]), show castHeld (ctrAdd ctx 18 1 v) ctx step = false from hc]
  rfl

theorem boundaryDev_held (hl : left ≠ 0) (hs : stop = false) (hc : castHeld v ctx step = true) :
    boundaryDev r ctx step left stop v = modRing r (fun x => { x with boundaryHeld := true }) (ctrAdd ctx 18 1 v) := by
  unfold boundaryDev
  rw [if_pos (by simp [hl, hs])]
  exact if_pos hc

theorem boundaryDev_stops (h : left = 0 ∨ stop = true) : boundaryDev r ctx step left stop v =
    raise 0x0007 ctx (leBytes 4 step ++ leBytes 1 (stopReason left stop (ctrAdd ctx 18 1 v)))
      (modRing r (fun x => { x with state := 0 }) (freeNext (ctrAdd ctx 18 1 v))) :=
  if_neg (by rcases h with h | h <;> simp [h])

/-- A boundary changes its own ring, counters, free values and what an event changes. -/
theorem boundaryDev_frame (r ctx step left : Nat) (stop : Bool) (v : Dev) :
    (boundaryDev r ctx step left stop v).power = v.power ∧ (boundaryDev r ctx step left stop v).ctxs = v.ctxs ∧
    (boundaryDev r ctx step left stop v).descs = v.descs ∧
    ∃ x, (boundaryDev r ctx step left stop v).rings = tabPut {} v.rings r x := by
  unfold boundaryDev
  dsimp only
  split
  · split
    · exact ⟨rfl, rfl, rfl, _, rfl⟩
    · exact ⟨rfl, rfl, rfl, _, rfl⟩
  · rw [raise_only]
    exact ⟨rfl, rfl, rfl, _, rfl⟩

end

/-! ### STEP_BOUNDARY -/

/-- A boundary that is not held, with every descriptor of the pass complete, runs its record. -/
theorem stepBoundary_runs {r : Nat} {w : Work} (hh : (getRing w.dev r).boundaryHeld = false) (he : (getRing w.dev r).enable = true)
    (hm : (getRing w.dev r).mode = 1) (hs : (getRing w.dev r).state = 4)
    (hp : (getRing w.dev r).progLen.toNat ≤ (getRing w.dev r).head.toNat) (ho : outstanding w.dev r = []) :
    stepBoundary r w = runAcc
      (boundaryRecord r (getRing w.dev r).ctx.toNat (getCtx w.dev (getRing w.dev r).ctx.toNat).stepRec)
      (boundaryNext r (getRing w.dev r).ctx.toNat) (fun st _ w => onDev (replayFail r st) w) w := by
  unfold stepBoundary
  dsimp only
  rw [if_neg (by simp [hh]), if_neg (by simp [he, hm, hs, hp, ho])]

section
variable {r : Fin 4096} {s : State} {x : Ring} {step left : Nat} {stop : Bool} {w : Work}

theorem exec_stepBoundary (hx : getRing s.dev r.val = x) (hh : x.boundaryHeld = false) (he : x.enable = true) (hm : x.mode = 1)
    (hs : x.state = 4) (hp : x.progLen.toNat ≤ x.head.toNat) (ho : outstanding s.dev r.val = [])
    (hmir : (getMirror s.dev x.ctx.toNat).stepEn = false)
    (hrun : (boundaryRecord r.val x.ctx.toNat (getCtx s.dev x.ctx.toNat).stepRec).run (workOf s) = (.ok (step, left, stop), w)) :
    exec (.stepBoundary r) s =
      .next (commit s (onDev (boundaryDev r.val x.ctx.toNat step left stop) (snoopsUsed { w with dest := [] }))) := by
  subst hx
  have hmirrors : w.dev.ctr.mirrors = s.dev.ctr.mirrors := boundaryRecord_mirrors _ _ _ (workOf s) _ w hrun
  refine runWork_eq (f := stepBoundary r.val) ?_
  refine (stepBoundary_runs (w := workOf s) hh he hm hs hp ho).trans ((runAcc_ok (w := workOf s) hrun).trans (boundaryNext_eq ?_))
  rwa [getMirror, show (snoopsUsed { w with dest := [] }).dev.ctr.mirrors = s.dev.ctr.mirrors from hmirrors]

/-- What a boundary leaves, by what it finds in the record (R232). -/
theorem stepBoundary_leaves (hmem : Memory.wf s = true) (hw : tabWf {} s.dev.rings = true) (hx : getRing s.dev r.val = x)
    (hwipe : w.wiped = .none) (hl : s.dev.power.lost = .none) (hp : w.dev.power = s.dev.power)
    (hrun : (boundaryRecord r.val x.ctx.toNat (getCtx s.dev x.ctx.toNat).stepRec).run (workOf s) = (.ok (step, left, stop), w)) :
    let t := commit s (onDev (boundaryDev r.val x.ctx.toNat step left stop) (snoopsUsed { w with dest := [] }))
    StoredBy s t w.stores ∧ t.dev.ctxs = s.dev.ctxs ∧ t.dev.descs = s.dev.descs ∧
      (∀ q, q ≠ r.val → getRing t.dev q = getRing s.dev q) ∧
      ((left = 0 ∨ stop = true) → getRing t.dev r.val = { x with state := 0 } ∧ t.dev.attn.seq = s.dev.attn.seq + 1 ∧
        (attnHeld s.dev.attn < 64 → ∃ e n, t.dev.attn.held = s.dev.attn.held ++ [e] ∧ e.code = 7 ∧ e.ctx = x.ctx ∧
          e.payload = leBytes 4 step ++ leBytes 1 n ∧ n ≤ 1 ∧ (left ≠ 0 → n = 1) ∧ (stop = false → n = 0))) ∧
      (left ≠ 0 → stop = false → castHeld s.dev x.ctx.toNat step = false →
        getRing t.dev r.val = passRing x ∧ t.dev.attn = s.dev.attn) ∧
      (left ≠ 0 → stop = false → castHeld s.dev x.ctx.toNat step = true →
        getRing t.dev r.val = { x with boundaryHeld := true } ∧ t.dev.attn = s.dev.attn) := by
  intro t
  let v := (snoopsUsed { w with dest := [] }).dev
  have hdev : unwrittenOf w.dev = unwrittenOf s.dev :=
    congrArg (·.1) ((boundaryRecord_leaves _ _ _ (workOf s) _ w hrun (.inl ⟨_, rfl⟩)).1)
  have hrings : v.rings = s.dev.rings := (congrArg Dev.rings hdev :)
  have hattn : v.attn = s.dev.attn := (congrArg Dev.attn hdev :)
  have hcast : castHeld v x.ctx.toNat step = castHeld s.dev x.ctx.toNat step := by
    rw [castHeld, show v.mould = s.dev.mould from (congrArg Dev.mould hdev :), ← castHeld]
  have ht : t.dev = breakReserved w.stores (boundaryDev r.val x.ctx.toNat step left stop v) := rfl
  have hring (y : Ring) (h : (boundaryDev r.val x.ctx.toNat step left stop v).rings = tabPut {} v.rings r.val y) :
      getRing t.dev r.val = y := by
    have hput := h.trans (congrArg (tabPut {} · r.val y) hrings)
    rw [ht, getRing_congr (v := setRing r.val y s.dev) ((breakReserved_rings ..).trans hput)]
    exact getRing_setRing_same r.val y s.dev hw
  have hevents (a : Attn) (h : (boundaryDev r.val x.ctx.toNat step left stop v).attn = a) : t.dev.attn = a := by
    rw [ht, breakReserved_only]
    exact h
  have hv : getRing v r.val = x := (getRing_congr hrings _).trans hx
  obtain ⟨hpower, hctxs, hdescs, y, hother⟩ := boundaryDev_frame r.val x.ctx.toNat step left stop v
  refine ⟨storedBy_commit hmem hwipe hl (hpower.trans hp), ?_, ?_, fun q hq => ?_, fun h => ?_, fun h0 h1 hc => ?_, fun h0 h1 hc => ?_⟩
  · exact (breakReserved_ctxs ..).trans (hctxs.trans (congrArg Dev.ctxs hdev :))
  · rw [ht, breakReserved_only]
    exact hdescs.trans (congrArg Dev.descs hdev :)
  · rw [ht, getRing_congr (v := setRing r.val y v) ((breakReserved_rings ..).trans hother)]
    exact (getRing_setRing_other r.val q y v hq).trans (getRing_congr hrings q)
  · have hnext := boundaryDev_stops (r := r.val) (ctx := x.ctx.toNat) (step := step) (v := v) h
    have hattn' := hevents _ (congrArg Dev.attn hnext)
    obtain ⟨hseq, hheld⟩ := raise_told hattn'
    rw [show (modRing r.val _ (freeNext (ctrAdd x.ctx.toNat 18 1 v))).attn = s.dev.attn from hattn] at hseq hheld
    refine ⟨hring _ ?_, hseq, fun hroom => ?_⟩
    · rw [hnext, raise_only, ← hv]
      rfl
    · obtain ⟨e, hheld, hcode, hctx, hpayload⟩ := hheld hroom
      refine ⟨e, _, hheld, hcode, hctx.trans (by simp), hpayload, stopReason_le .., stopReason_left stop _, ?_⟩
      rintro rfl
      rw [h.resolve_right Bool.false_ne_true]
      rfl
  · have hnext := boundaryDev_again (r := r.val) h0 h1 (hcast.trans hc)
    refine ⟨hring _ ?_, hevents _ ?_⟩
    · rw [hnext, ← hv]
      rfl
    · rw [hnext, ← hattn]
      rfl
  · have hnext := boundaryDev_held (r := r.val) h0 h1 (hcast.trans hc)
    refine ⟨hring _ ?_, hevents _ ?_⟩
    · rw [hnext, ← hv]
      rfl
    · rw [hnext, ← hattn]
      rfl

end

/-! ### ABORT_NOTICE_RECEIVED (R417) -/

section
variable {g : Nat} {w : Work}

theorem abortNotice_idle (h : (getGroup w.dev g).enable = false ∨ (getCtx w.dev (getGroup w.dev g).ctx.toNat).state ≠ 1) :
    abortNotice g w = w := by
  refine if_pos ?_
  rw [Bool.or_eq_true]
  exact h.imp (fun h => by rw [h]; rfl) decide_eq_true

/-- With no collective and no copy of the group under way, the notice does nothing beside the failure path of the context. -/
theorem abortNotice_fails (he : (getGroup w.dev g).enable = true) (hc : (getCtx w.dev (getGroup w.dev g).ctx.toNat).state = 1)
    (hd : ∀ y ∈ w.dev.descs, y.cls ≠ 6 ∧ y.cls ≠ 7) :
    abortNotice g w = onDev (failCtx (getGroup w.dev g).ctx.toNat 0 0xFFFF stRemote.toNat) w := by
  unfold abortNotice
  extract_lets g' hit w'
  have quiet : w.dev.descs.filter hit = [] := List.filter_eq_nil_iff.mpr fun y hy => by simp [hit, hd y hy]
  rw [if_neg (by simp [g', he, hc]), show w' = w from congrArg (List.foldl _ w) quiet]

end

theorem abortNotice_leaves {g : Byte} {s : State} (hw : tabWf {} s.dev.ctxs = true) (he : (getGroup s.dev g.toNat).enable = true)
    (hc : (getCtx s.dev (getGroup s.dev g.toNat).ctx.toNat).state = 1) (hd : ∀ y ∈ s.dev.descs, y.cls ≠ 6 ∧ y.cls ≠ 7) :
    let x := (getGroup s.dev g.toNat).ctx.toNat
    ∃ t, exec (.abortNoticeReceived g) s = .next t ∧ getCtx t.dev x = { getCtx s.dev x with state := 2 } ∧
      (∀ y, y ≠ x → getCtx t.dev y = getCtx s.dev y) ∧
      t.dev.descs = s.dev.descs.map (fun y => if y.ctx = x then abortedDesc y else y) ∧
      t.dev.attn.seq = s.dev.attn.seq + 1 ∧
      (attnHeld s.dev.attn < 64 → ∃ e, t.dev.attn.held = s.dev.attn.held ++ [e] ∧ e.code = 8 ∧
        e.payload = leBytes 8 0 ++ leBytes 2 0xFFFF ++ leBytes 1 stRemote.toNat) ∧
      t.mem = s.mem ∧ t.host = s.host := by
  intro x
  have hexec : exec (.abortNoticeReceived g) s = .next { s with dev := failCtx x 0 0xFFFF stRemote.toNat s.dev } :=
    (runWork_eq (f := abortNotice g.toNat) (abortNotice_fails (w := workOf s) he hc hd)).trans (congrArg _ (commit_workOf s _))
  obtain ⟨hseq, hheld⟩ := raise_told (failCtx_attn (tag := 0) (ring := 0xFFFF) (st := stRemote.toNat) hc)
  refine ⟨_, hexec, getCtx_failCtx hc hw, fun y hy => getCtx_failCtx_other hc hy, failCtx_descs hc, hseq, fun hroom => ?_, rfl, rfl⟩
  obtain ⟨e, hheld, hcode, -, hpayload⟩ := hheld hroom
  exact ⟨e, hheld, hcode, hpayload⟩

/-- Settles O44: what a boundary does by the record that it reads, and the failure path that an abort notice brings. -/
theorem boundariesAndAbortNotices : Obligations.BoundariesAndAbortNotices := by
  refine ⟨?_, ?_⟩
  · intro r step left stop w s hmem hw x hh he hm hs hp ho hmir hwipe hl hpower hrun
    exact ⟨_, exec_stepBoundary rfl hh he hm hs hp ho hmir hrun, stepBoundary_leaves hmem hw rfl hwipe hl hpower hrun⟩
  · intro g s hw x
    exact ⟨fun h => runWork_unchanged (f := abortNotice g.toNat) (abortNotice_idle h), abortNotice_leaves hw⟩

end Sys2Proof.Machine
end

section
/-! The three memories under every step: each command works on the device and stores bytes, so the canonical form is kept (R236, R438). -/

namespace Sys2Proof.Machine

open Sys2Proof

/-- What every command does: it commits its work on the device and its stores. The commands named change the device alone. -/
theorem exec_commits (c : Instr) (s : State) : ∃ w, exec c s = .next (commit s w) := by
  cases c
  case powerUp | inputRestored | perstLAssert | perstLRelease | startupSelfTest | linkReset | cxlEnable | ideMacFailure |
      backInvalidate | atsInvalidation | atsInvalidationComplete | doeObject | doeAbort | doeDiscovery | cdatTableAccess |
      getVersion | getCapabilities | negotiateAlgorithms | getMeasurements | keyExchange | finish | keyUpdate | spdmHeartbeat |
      endSession | chunkSend | chunkGet | bar0UnsupportedAccess | i3cSetOffset | i3cRead | jtagBypass | jtagIdcode |
      jtagSamplePreload | jtagExtest | refclockLost | refclockRestored | paceMonitorWindow | paceMonitorCalibration |
      governorDecision | issueGating | sensorUpdate | sensorCalibration | refreshDue | refreshDone | patrolScrub | arbDecision |
      backoffEnd | quotaWindowStart | emergencyRevoke | emergencyEnd | ctxInvalDone | doorbellSnoop | doorbellData | doorbellPoll |
      attnPulseStart | attnPulseEnd | mmProduct | mmBackwardPair | mmKeep | mmDrainOnly | bankClose | treeEmpty | kernel |
      kernelPartStart | kernelTimeout | statGather | gatherPromote | creditGrant | lanesTrained | identityFrame | portRetrain |
      frameForward | heartbeatSend | announceSend | pairingFrame | pcSample | traceRecordAccept | traceTrigger |
      stitchLineFault | paceTimeLowRead =>
    exact ⟨_, congrArg Host.Outcome.next (commit_workOf s _).symm⟩
  all_goals exact ⟨_, rfl⟩

/-- A unit of the time base leaves the memories. -/
theorem idle_wf {s : State} (h : Memory.wf s = true) : Memory.wf (idle s) = true := by
  unfold idle
  split <;> exact h

/-- Settles O2: a step on an empty queue leaves the memories, and a command commits its stores to them. -/
theorem everyStepKeepsMemoriesCanonical : Obligations.EveryStepKeepsMemoriesCanonical := by
  intro s t h hstep
  unfold step at hstep
  split at hstep
  · cases hstep
    exact idle_wf h
  · next c rest _ =>
    obtain ⟨w, hw⟩ := exec_commits c { s with pending := rest }
    rw [hw] at hstep
    cases hstep
    exact commit_wf _ w h

end Sys2Proof.Machine
end

section
/-! Start-up's memory initialisation and self-test (R240, R285, R325, R437 to R439), and park (R240, R285, R480, R481). -/

namespace Sys2Proof.Machine

open Sys2Proof

/-! ### Memories on the die written afresh (R240, R438, R480) -/

/-- Of the issuers that wait for a stream table entry, those that launch are forgotten (R240). -/
theorem mem_stabWaits_clearOnDie (v : Dev) (k : StabIssuer) :
    k ∈ (clearOnDie v).stabWaits ↔ k ∈ v.stabWaits ∧ ∀ i, k ≠ .launch i := by
  cases k <;> simp [clearOnDie, stabForget]

/-! ### MEMORY_INIT_DONE (R438) -/

theorem starting_of {n : BitVec 4} {v : Dev} (hp : v.power.state = .start) (hr : v.power.railsUp = true) (hn : v.arm.stage = n) :
    starting n v = true := by
  simp [starting, hp, hr, hn]

theorem memoryInitDone_waits {w : Work} (h : w.dev.cxl.directory ≠ []) : memoryInitDone w = w :=
  if_pos (by simp [h])

/-- The device once its memory is written with zero. -/
def initialisedDev (v : Dev) : Dev :=
  { (clearOnDie v) with
    ue := [], ueTimes := [], power := { v.power with lost := .none }, arm := { v.arm with memoryInit := true, stage := 6 } }

theorem exec_memoryInitDone {s : State} (hs : starting 5 s.dev = true) (hd : s.dev.cxl.directory = []) :
    exec .memoryInitDone s = .next { s with dev := initialisedDev s.dev, mem := [] } := by
  have hrun : memoryInitDone (workOf s) = { workOf s with wiped := .all, dev := initialisedDev s.dev } :=
    if_neg (by rw [workOf_dev, hs, hd]; decide)
  exact (runWork_eq hrun).trans (congrArg _ (commit_wiped s rfl))

/-! ### Cores fenced at start-up (R25, R439) -/

/-- What fencing a core leaves: all but the fence, its engines and chisel cores, its stream table, its parts and its caches. -/
def besideFence (v : Dev) : Dev :=
  { v with fenced := 0, engines := [], chisels := [], stab := [], stabWaits := [], descs := [], tlb := [], ue := [] }

/-- A change of the device that leaves what a fence leaves, and the fences. -/
def FenceOnly (v u : Dev) : Prop := besideFence u = besideFence v ∧ u.fenced = v.fenced

theorem FenceOnly.trans {v u t : Dev} (h : FenceOnly v u) (k : FenceOnly u t) : FenceOnly v t := ⟨k.1.trans h.1, k.2.trans h.2⟩

theorem foldl_fenceOnly {α : Type} {f : Dev → α → Dev} (hf : ∀ v a, FenceOnly v (f v a)) (l : List α) (v : Dev) :
    FenceOnly v (l.foldl f v) := ⟨foldl_same (fun v i => (hf v i).1) l v, foldl_same (fun v i => (hf v i).2) l v⟩

theorem bankSweep_fenceOnly (v : Dev) : FenceOnly v (bankSweep v) := ⟨rfl, rfl⟩

theorem dropEngineParts_fenceOnly (test : Nat → Nat → Bool) (v : Dev) : FenceOnly v (dropEngineParts test v) := ⟨rfl, rfl⟩

theorem modEngine_fenceOnly (e : Nat) (f : Engine → Engine) (v : Dev) : FenceOnly v (modEngine e f v) := ⟨rfl, rfl⟩

theorem modChisel_fenceOnly (i : Nat) (f : Chisel → Chisel) (v : Dev) : FenceOnly v (modChisel i f v) := ⟨rfl, rfl⟩

theorem stabForget_fenceOnly (test : StabIssuer → Bool) (v : Dev) : FenceOnly v (stabForget test v) := ⟨rfl, rfl⟩

theorem stabRelease_fenceOnly (test : StabEntry → Bool) (v : Dev) : FenceOnly v (stabRelease test v) := ⟨rfl, rfl⟩

theorem partsEnded_fenceOnly (l : List Desc) (t : List TlbEntry) (v : Dev) : FenceOnly v { v with descs := l, tlb := t } := ⟨rfl, rfl⟩

theorem fenceCore_fences (c : Nat) (v : Dev) : FenceOnly { v with fenced := v.fenced ||| (1#32 <<< c) } (fenceCore c v) := by
  unfold fenceCore
  extract_lets onCore gone ended held v1 v2 v3 v4 v5 v6
  have h2 : FenceOnly v1 v2 := dropEngineParts_fenceOnly ..
  have h3 : FenceOnly v2 v3 := (foldl_fenceOnly (fun _ _ => modEngine_fenceOnly ..) _ _).trans (bankSweep_fenceOnly _)
  have h4 : FenceOnly v3 v4 := foldl_fenceOnly (fun _ _ => modChisel_fenceOnly ..) _ _
  have h6 : FenceOnly v4 v6 := (stabForget_fenceOnly ..).trans (stabRelease_fenceOnly ..)
  exact (h2.trans (h3.trans h4)).trans (h6.trans (partsEnded_fenceOnly ..))

/-- A core of the mask of failed cores fenced. -/
def fenceIf (cores : W32) (v : Dev) (c : Nat) : Dev := if cores.getLsbD c then fenceCore c v else v

theorem fenceIf_beside (cores : W32) (v : Dev) (c : Nat) : besideFence (fenceIf cores v c) = besideFence v := by
  unfold fenceIf
  split
  · exact (fenceCore_fences c v).1
  · rfl

theorem fenceIf_fenced (cores : W32) (v : Dev) {c i : Nat} (hi : i < 32) :
    (fenceIf cores v c).fenced.getLsbD i = (v.fenced.getLsbD i || (decide (i = c) && cores.getLsbD c)) := by
  unfold fenceIf
  split
  · next h =>
    rw [(fenceCore_fences c v).2, BitVec.getLsbD_or, h, Bool.and_true]
    congr 1
    rw [BitVec.getLsbD_shiftLeft, BitVec.getLsbD_one, Bool.eq_iff_iff]
    simp only [Bool.and_eq_true, Bool.not_eq_true', decide_eq_true_eq, decide_eq_false_iff_not]
    omega
  · next h => simp [h]

theorem foldl_fenceIf_fenced (cores : W32) {i : Nat} (hi : i < 32) : ∀ (l : List Nat) (v : Dev),
    (l.foldl (fenceIf cores) v).fenced.getLsbD i = (v.fenced.getLsbD i || (decide (i ∈ l) && cores.getLsbD i))
  | [], v => by simp
  | c :: l, v => by
    rw [List.foldl_cons, foldl_fenceIf_fenced cores hi l, fenceIf_fenced cores v hi, Bool.or_assoc]
    congr 1
    by_cases hc : i = c
    · subst hc
      cases cores.getLsbD i <;> simp
    · simp [hc]

/-- The failed cores fenced. -/
def fenceAll (cores : W32) (v : Dev) : Dev := (upto 32).foldl (fenceIf cores) v

theorem fenceAll_beside (cores : W32) (v : Dev) : besideFence (fenceAll cores v) = besideFence v :=
  foldl_same (g := besideFence) (fenceIf_beside cores) _ v

theorem fenceAll_fenced (cores : W32) (v : Dev) {i : Nat} (hi : i < 32) :
    (fenceAll cores v).fenced.getLsbD i = (v.fenced.getLsbD i || cores.getLsbD i) := by
  rw [fenceAll, upto, foldl_fenceIf_fenced cores hi, decide_eq_true (List.mem_range.mpr hi), Bool.true_and]

/-! ### STARTUP_SELF_TEST (R439) -/

theorem startupSelfTest_runs {cores : W32} {stks : BitVec 20} {v : Dev} (hs : starting 6 v = true) (hb : busyLong v = true) :
    startupSelfTest cores stks v = becomeReady { fenceAll cores v with
      arm := { (fenceAll cores v).arm with postCores := cores, postStacks := stks, stage := 7 }
      cxl := { (fenceAll cores v).cxl with memoryActive := true } } :=
  if_neg (by rw [hs, hb]; decide)

/-- Settles O9: memory written with zero, and the self-test that fences the failed cores and makes the module ready. -/
theorem startUpClearsMemoryAndTests : Obligations.StartUpClearsMemoryAndTests := by
  refine ⟨fun s h => runWork_unchanged (f := memoryInitDone) (memoryInitDone_waits h), fun s hp hr hn hd => ?_,
    fun cores stks s hp hr hn hb => ?_⟩
  · exact ⟨_, exec_memoryInitDone (starting_of hp hr hn) hd, rfl, fun a => devByte_kept _ _ a rfl,
      mem_stabWaits_clearOnDie s.dev, rfl, rfl, rfl, rfl, rfl, rfl, rfl, rfl⟩
  · have left : ∀ {γ : Type} (f : Dev → γ), f (besideFence (fenceAll cores s.dev)) = f (besideFence s.dev) :=
      fun f => congrArg f (fenceAll_beside cores s.dev)
    have harm : (fenceAll cores s.dev).arm = s.dev.arm := left Dev.arm
    have hpower : (fenceAll cores s.dev).power = s.dev.power := left Dev.power
    have hblk : (fenceAll cores s.dev).blk = s.dev.blk := left Dev.blk
    have hcxl : (fenceAll cores s.dev).cxl = s.dev.cxl := left Dev.cxl
    refine ⟨_, runDev_eq (startupSelfTest_runs (starting_of hp hr hn) hb), ?_, ?_, ?_, ?_,
      fun c hc => fenceAll_fenced cores s.dev hc, left Dev.ctxs, left Dev.rings, left Dev.pace, rfl, rfl, rfl⟩
    · simp only [becomeReady, harm]
    · simp only [becomeReady, hpower]
    · simp only [becomeReady, hblk]
    · simp only [becomeReady, hcxl]

/-! ### PARK_ENTER and PARK_LEAVE (R480) -/

/-- A write of PARK_REQ that leaves REFUSED as it is. -/
theorem pstateWrite_keeps {x : W64} (v : Dev) (h : bitAt 4 x = false) : pstateWrite x v = if bitAt 0 x then parkEnter v else parkLeave v := by
  simp only [pstateWrite, h, Bool.not_false, Bool.and_true]

theorem exec_parkEnter {w : HostWrite} {s : State} (hs : WriteLands s 0x104C w.ide) (h : bitAt 4 w.value = false) :
    exec (.parkEnter w) s = .next { s with dev := parkEnter s.dev } := by
  have h4 : bitAt 4 (w.value ||| 1) = false := by
    rw [bitAt, BitVec.getLsbD_or, ← bitAt, h]
    rfl
  have h0 : bitAt 0 (w.value ||| 1) = true := by
    rw [bitAt, BitVec.getLsbD_or]
    exact Bool.or_true _
  exact (runWork_guarded_lands (pstateWrite (w.value ||| 1)) hs).trans (by rw [pstateWrite_keeps _ h4, if_pos h0])

theorem exec_parkLeave {w : HostWrite} {s : State} (hs : WriteLands s 0x104C w.ide) (h : bitAt 4 w.value = false) :
    exec (.parkLeave w) s = .next { s with dev := parkLeave s.dev } := by
  have h4 : bitAt 4 (w.value &&& ~~~1) = false := by
    rw [bitAt, BitVec.getLsbD_and, ← bitAt, h]
    rfl
  have h0 : bitAt 0 (w.value &&& ~~~1) = false := by
    rw [bitAt, BitVec.getLsbD_and]
    exact Bool.and_false _
  exact (runWork_guarded_lands (pstateWrite (w.value &&& ~~~1)) hs).trans
    (by rw [pstateWrite_keeps _ h4, if_neg (Bool.eq_false_iff.mp h0)])

section
variable {v : Dev}

theorem parkEnter_asks (hq : quiescent none v = true) (hp : ∀ c ∈ v.ports, c.2.enable = false) (h : v.pace.parkState = 0) :
    parkEnter v = { v with pace := { v.pace with parkReq := true, parkState := 1, leaveAsked := false } } := by
  have hall : v.ports.all (fun c => !c.2.enable) = true := List.all_eq_true.mpr fun c hc => by simp [hp c hc]
  exact (if_neg (by simp [hq, hall])).trans (if_pos h)

theorem parkEnter_refused (h : quiescent none v = false ∨ ∃ c ∈ v.ports, c.2.enable = true) :
    parkEnter v = { v with pace := { v.pace with parkRefused := true, parkReq := false } } := by
  refine if_pos ?_
  rcases h with h | ⟨c, hc, he⟩
  · simp [h]
  · have hall : v.ports.all (fun c => !c.2.enable) = false := List.all_eq_false.mpr ⟨c, hc, by simp [he]⟩
    simp [hall]

theorem parkLeave_parked (h : v.pace.parkState = 2) :
    parkLeave v = { v with pace := { v.pace with parkReq := false, parkState := 3, leaveAsked := false } } := if_pos h

theorem parkLeave_entering (h : v.pace.parkState = 1) : parkLeave v = { v with pace := { v.pace with leaveAsked := true } } :=
  (if_neg (by rw [h]; decide)).trans (if_pos h)

end

/-! ### PARK_ENTERED (R480, R481) -/

/-- The device in park. -/
def parkedDev (v : Dev) : Dev :=
  { v with
    power := { (loseMem .onDie v.power) with state := .park }
    pace := { v.pace with parkState := 2, gating := false } }

theorem exec_parkEntered {s : State} (hp : s.dev.pace.parkState = 1) (ha : s.dev.power.state = .active) :
    exec .parkEntered s = .next { s with
      dev := if s.dev.pace.leaveAsked then parkLeave (parkedDev s.dev) else parkedDev s.dev, mem := wipeMem .onDie s.mem } := by
  have hrun : parkEntered (workOf s) = { workOf s with
      wiped := .onDie, dev := if s.dev.pace.leaveAsked then parkLeave (parkedDev s.dev) else parkedDev s.dev } :=
    if_neg (by simp [hp, ha])
  exact (runWork_eq hrun).trans (congrArg _ (commit_wiped s rfl))

theorem parkedDev_left (v : Dev) : (if v.pace.leaveAsked then parkLeave (parkedDev v) else parkedDev v) =
    { v with
      power := { v.power with state := .park, lost := if v.power.lost = .all then .all else .onDie }
      pace := if v.pace.leaveAsked then { v.pace with parkState := 3, gating := false, parkReq := false, leaveAsked := false }
        else { v.pace with parkState := 2, gating := false } } := by
  rw [parkLeave_parked rfl, ← join_onDie]
  split <;> rfl

/-! ### PARK_LEFT (R285, R480) -/

theorem parkLeft_waits {w : Work} (h : ∃ e ∈ w.dev.cxl.directory, cstoreBase ≤ 64 * e.line) : parkLeft w = w := by
  obtain ⟨e, he, hline⟩ := h
  have hany : w.dev.cxl.directory.any (fun e => decide (cstoreBase ≤ 64 * e.line)) = true :=
    List.any_eq_true.mpr ⟨e, he, decide_eq_true hline⟩
  exact if_pos (by rw [hany, Bool.or_true])

/-- The device that has left park, or enters it again. -/
def unparkedDev (v : Dev) : Dev :=
  { (clearOnDie v) with
    power := { v.power with state := .active, lost := .none }
    pace := { v.pace with parkState := if v.pace.parkReq then 1 else 0, leaveAsked := false } }

theorem exec_parkLeft {s : State} (hs : s.dev.power.state = .park) (hp : s.dev.pace.parkState = 3)
    (hd : ∀ e ∈ s.dev.cxl.directory, 64 * e.line < cstoreBase) :
    exec .parkLeft s = .next { s with dev := unparkedDev s.dev, mem := wipeMem .onDie s.mem } := by
  have hany : s.dev.cxl.directory.any (fun e => decide (cstoreBase ≤ 64 * e.line)) = false :=
    List.any_eq_false.mpr fun e he => by simpa using hd e he
  have hrun : parkLeft (workOf s) = { workOf s with wiped := .onDie, dev := unparkedDev s.dev } :=
    if_neg (by simp [hs, hp, hany])
  exact (runWork_eq hrun).trans (congrArg _ (commit_wiped s rfl))

/-- DRAM that has kept its contents reads as it is listed. -/
theorem devByte_dram {v : Dev} (m : List Host.Cell) {a : Nat} (hl : v.power.lost ≠ .all) (ha : a < cstoreBase) :
    devByte v m a = tabGet memDefault m a := by
  have hlost : memLost v.power.lost a = false := by
    cases h : v.power.lost with
    | none => rfl
    | onDie => exact decide_eq_false (Nat.not_le.mpr ha)
    | all => exact absurd h hl
  simp [devByte, hlost]

/-- Settles O30: the four commands' equations, and what a byte reads as while the core stores are off and after. -/
theorem parkEntersAndLeaves : Obligations.ParkEntersAndLeaves := by
  refine ⟨fun w s hs hb => ⟨fun h hq hp => ?_, fun h => ?_⟩, fun s _ ha hp => ?_, fun w s hs hb => ⟨fun h => ?_, fun h => ?_⟩,
    fun s h => runWork_unchanged (f := parkLeft) (parkLeft_waits h), fun s _ hs hp hl hd => ?_⟩
  · rw [exec_parkEnter hs hb, parkEnter_asks hq hp h]
  · rw [exec_parkEnter hs hb, parkEnter_refused h]
  · refine ⟨_, exec_parkEntered hp ha, parkedDev_left s.dev, fun a => ?_, rfl, rfl⟩
    have hlost : (if s.dev.pace.leaveAsked then parkLeave (parkedDev s.dev) else parkedDev s.dev).power.lost =
        s.dev.power.lost.join .onDie := by rw [parkedDev_left, join_onDie]
    have hfree : (if s.dev.pace.leaveAsked then parkLeave (parkedDev s.dev) else parkedDev s.dev).free = s.dev.free := by
      rw [parkedDev_left]
    by_cases h : a < cstoreBase
    · exact (devByte_dieLost_dram hlost hfree h).trans (if_pos h).symm
    · exact ((devByte_dieLost_onDie hlost (Nat.not_lt.mp h)).trans (by rw [hfree])).trans (if_neg h).symm
  · rw [exec_parkLeave hs hb, parkLeave_parked h]
  · rw [exec_parkLeave hs hb, parkLeave_entering h]
  · refine ⟨_, exec_parkLeft hs hp hd, mem_stabWaits_clearOnDie s.dev, rfl, fun a => ?_, rfl, rfl⟩
    refine (devByte_kept _ _ a rfl).trans ((tabGet_wipeMem_onDie s.mem a).trans ?_)
    exact if_ctx_congr Iff.rfl (fun h => (devByte_dram s.mem hl h).symm) fun _ => rfl

end Sys2Proof.Machine
end

section
/-! Stages that stop, for another reason than an uncorrectable word, with any view of the work left that does not look at what an access
to memory changes (R236, R248 to R257, R285, R288). -/

namespace Sys2Proof.Machine

open Sys2Proof

/-! ### Stages that leave a view of the work where they stop -/

/-- A stage that, where it fails on some work for another reason than an uncorrectable error, has left what `f` sees. -/
def StopSameAt {α β : Type} (f : Work → β) (m : Acc α) (w : Work) : Prop :=
  ∀ st b u, m.run w = (.error (.fail st b), u) → st ≠ stMemoryUe → f u = f w

/-- A stage that does so on any work, and leaves it too where it succeeds. -/
structure EndSame {α β : Type} (f : Work → β) (m : Acc α) : Prop where
  ok : OkSame f m
  stop : ∀ w, StopSameAt f m w

section
variable {α β γ : Type} {f : Work → γ}

theorem stopSameAt_bind {m : Acc α} {g : α → Acc β} {w : Work} (hm : StopSameAt f m w)
    (hg : ∀ a u, m.run w = (.ok a, u) → f u = f w ∧ StopSameAt f (g a) u) : StopSameAt f (m >>= g) w := by
  intro st b t h he
  rw [acc_bind] at h
  split at h
  · next a u hu => exact ((hg a u hu).2 st b t h he).trans (hg a u hu).1
  · next x u hu =>
    cases h
    exact hm _ _ _ hu he

theorem endSame_pure (a : α) : EndSame f (pure a : Acc α) := ⟨okSame_pure a, by rintro w st b u ⟨⟩⟩

theorem endSame_throw (e : Stop) : EndSame f (throw e : Acc α) := ⟨okSame_throw e, by rintro w st b u ⟨⟩ _; rfl⟩

theorem endSame_modify {g : Work → Work} (h : ∀ w, f (g w) = f w) : EndSame f (modify g : Acc PUnit) :=
  ⟨okSame_modify h, by rintro w st b u ⟨⟩⟩

theorem endSame_bind {m : Acc α} {g : α → Acc β} (hm : EndSame f m) (hg : ∀ a, EndSame f (g a)) : EndSame f (m >>= g) :=
  ⟨okSame_bind hm.ok fun a => (hg a).ok, fun w => stopSameAt_bind (hm.stop w) fun a u hu => ⟨hm.ok w a u hu, (hg a).stop u⟩⟩

theorem stopSameAt_get_bind {g : Work → Acc α} {w : Work} (h : StopSameAt f (g w) w) : StopSameAt f (get >>= g) w := by
  intro st b u hu
  rw [acc_bind_ok (acc_get w)] at hu
  exact h st b u hu

theorem endSame_get_bind {g : Work → Acc α} (h : ∀ w, EndSame f (g w)) : EndSame f (get >>= g) :=
  ⟨okSame_get_bind fun w => (h w).ok w, fun w => stopSameAt_get_bind ((h w).stop w)⟩

theorem endSame_ite {c : Prop} {_ : Decidable c} {m n : Acc α} (hm : EndSame f m) (hn : EndSame f n) :
    EndSame f (if c then m else n) := by
  split
  · exact hm
  · exact hn

theorem endSame_guard {c : Prop} {_ : Decidable c} {e : Stop} {g : PUnit → Acc α} (h : EndSame f (g ⟨⟩)) :
    EndSame f (if c then throw e >>= g else g ⟨⟩) := by
  split
  · exact endSame_throw e
  · exact h

theorem endSame_mapM {g : α → Acc β} (hg : ∀ a, EndSame f (g a)) : ∀ l : List α, EndSame f (l.mapM g)
  | [] => by rw [List.mapM_nil]; exact endSame_pure _
  | a :: l => by
    rw [List.mapM_cons]
    exact endSame_bind (hg a) fun _ => endSame_bind (endSame_mapM hg l) fun _ => endSame_pure _

theorem endSame_forIn {g : α → β → Acc (ForInStep β)} (hg : ∀ a b, EndSame f (g a b)) : ∀ (l : List α) (b : β), EndSame f (forIn l b g)
  | [], b => by rw [List.forIn_nil]; exact endSame_pure b
  | a :: l, b => by
    rw [List.forIn_cons]
    refine endSame_bind (hg a b) fun r => ?_
    cases r with
    | done c => exact endSame_pure c
    | yield c => exact endSame_forIn hg l c

end

/-! ### Reads -/

section
variable {β : Type} {f : Work → β} (hf : ReadBlind f)
include hf

theorem snoopGate_ends (a : Nat) (write : Bool) : EndSame f (snoopGate a write) := by
  refine ⟨snoopGate_blind hf a write, fun w => stopSameAt_get_bind ?_⟩
  split
  · exact (endSame_pure _).stop w
  · split
    · exact (endSame_throw _).stop w
    · rintro st b u ⟨⟩

/-- Of the stops of a read, only that by an uncorrectable word leaves anything behind. -/
theorem readPhys_ends (ctx a : Nat) : EndSame f (readPhys ctx a) := by
  refine ⟨readPhys_blind hf ctx a, fun w => stopSameAt_bind ((snoopGate_ends hf a false).stop w) fun _ u hu =>
    ⟨(snoopGate_ends hf a false).ok w _ u hu, stopSameAt_get_bind ?_⟩⟩
  split
  · rintro st b t ⟨⟩ hst
    exact absurd rfl hst
  · exact (endSame_pure _).stop u

theorem readPhys64_ends (ctx a : Nat) : EndSame f (readPhys64 ctx a) :=
  endSame_bind (endSame_mapM (fun i => readPhys_ends hf ctx (a + i)) (upto 8)) fun _ => endSame_pure _

theorem walkEntry_ends (r : Requestor) (va : W64) (lvl table : Nat) (wOk : Bool) : EndSame f (walkEntry r va lvl table wOk) := by
  unfold walkEntry
  refine endSame_guard (endSame_bind (readPhys64_ends hf _ _) fun e => endSame_guard ?_)
  exact endSame_ite (endSame_guard (endSame_pure _)) (endSame_pure _)

theorem walk_ends (r : Requestor) (va : W64) : ∀ (lvl table : Nat) (ok : Bool), EndSame f (walk r va lvl table ok)
  | 0, table, ok => by
    refine endSame_bind (walkEntry_ends hf r va 0 table ok) fun e => ?_
    cases e with
    | inl pg => exact endSame_pure _
    | inr next => exact endSame_throw _
  | l + 1, table, ok => by
    refine endSame_bind (walkEntry_ends hf r va (l + 1) table ok) fun e => ?_
    cases e with
    | inl pg => exact endSame_pure _
    | inr next => exact walk_ends r va l _ _

theorem atsTranslate_ends (r : Requestor) (va : W64) (ha : Nat) (write : Bool) : EndSame f (atsTranslate r va ha write) := by
  refine ⟨atsTranslate_blind hf r va ha write, fun w => stopSameAt_get_bind ?_⟩
  split
  · exact (endSame_throw _).stop w
  · split
    · rintro st b u ⟨⟩ _
      exact hf.cxl w _
    · exact (endSame_ite (endSame_throw _) (endSame_ite (endSame_throw _) (endSame_pure _))).stop w

theorem translate_ends (r : Requestor) (va : W64) (write : Bool) : EndSame f (translate r va write) := by
  unfold translate
  extract_lets va48 found looked
  refine endSame_guard (endSame_get_bind fun w => ?_)
  extract_lets hit walked
  have hfound : ∀ pg, EndSame f (found pg) := fun pg =>
    endSame_guard (endSame_ite (endSame_ite (endSame_throw _) (atsTranslate_ends hf _ _ _ _))
      (endSame_ite (endSame_throw _) (endSame_ite (endSame_throw _) (endSame_pure _))))
  have hwalked : EndSame f (walked ()) := by
    refine endSame_bind (walk_ends hf _ _ _ _ _) fun pg => ?_
    split
    · exact endSame_bind (endSame_modify fun w => hf.tlb w _) fun _ => endSame_bind (endSame_pure _) hfound
    · exact endSame_bind (endSame_pure _) hfound
  clear_value hit
  cases hit with
  | some t => exact endSame_bind (endSame_pure _) hfound
  | none =>
    cases r.core with
    | some c => exact endSame_bind (endSame_modify fun w => hf.values w _) fun _ => hwalked
    | none => exact hwalked

theorem countBytes_ends (ctx : Nat) (t : Target) : EndSame f (modify (onDev (countBytes ctx t)) : Acc PUnit) :=
  ⟨countBytes_blind hf ctx t, by rintro w st b u ⟨⟩⟩

theorem readRaw_ends (r : Requestor) (va : W64) : EndSame f (readRaw r va) := by
  refine endSame_bind (translate_ends hf r va false) fun t => endSame_bind (countBytes_ends hf r.ctx t) fun _ => ?_
  cases t with
  | dev a => exact readPhys_ends hf _ _
  | host a => exact endSame_get_bind fun w => endSame_pure _

theorem checkTag_ends (r : Requestor) (va : W64) : EndSame f (checkTag r va) := by
  unfold checkTag
  split
  · exact endSame_pure _
  · refine endSame_ite (endSame_pure _) ?_
    split
    · exact endSame_pure _
    · exact endSame_guard (endSame_bind (readRaw_ends hf _ _) fun b => endSame_ite (endSame_throw _) (endSame_pure _))

theorem readBytes_ends (r : Requestor) : ∀ (n : Nat) (va : W64), EndSame f (readBytes r va n)
  | 0, _ => endSame_pure _
  | n + 1, va => endSame_bind (endSame_bind (checkTag_ends hf r va) fun _ => readRaw_ends hf r va) fun _ =>
    endSame_bind (readBytes_ends r n (va + 1)) fun _ => endSame_pure _

theorem readNat_ends (r : Requestor) (va : W64) (n : Nat) : EndSame f (readNat r va n) :=
  endSame_bind (readBytes_ends hf r n va) fun _ => endSame_pure _

/-- What the link asks for is all that a request changes besides (R288). -/
theorem hostAsks_ends (hout : ∀ w l, f (onDev (fun v => { v with out := l }) w) = f w) (read cache : Bool) (r : Requestor) (va : W64)
    (n most : Nat) : EndSame f (hostAsks read cache r va n most) := by
  unfold hostAsks
  refine endSame_bind (endSame_forIn (fun k _ => ?_) _ _) fun _ => endSame_pure _
  refine endSame_bind (translate_ends hf _ _ _) fun t => ?_
  cases t with
  | dev a => exact endSame_pure _
  | host a => exact endSame_bind (endSame_modify fun w => hout w _) fun _ => endSame_pure _

end

/-! ### Writes -/

section
variable {β : Type} {f : Work → β} (hf : WriteBlind f)
include hf

theorem writeRaw_ends (r : Requestor) (lo hi : Nat) (va : W64) (b : Byte) : EndSame f (writeRaw r lo hi va b) := by
  have hr := hf.toReadBlind
  refine ⟨writeRaw_blind hf r lo hi va b, fun w => ?_⟩
  refine stopSameAt_bind ((translate_ends hr r va true).stop w) fun t u hu => ⟨(translate_ends hr r va true).ok w t u hu, ?_⟩
  refine stopSameAt_bind ((countBytes_ends hr r.ctx t).stop u) fun _ u1 h1 => ⟨(countBytes_ends hr r.ctx t).ok u _ u1 h1, ?_⟩
  cases t with
  | host a => rintro st b v ⟨⟩
  | dev a =>
    refine stopSameAt_bind ((snoopGate_ends hr a true).stop u1) fun _ u2 h2 => ⟨(snoopGate_ends hr a true).ok u1 _ u2 h2, ?_⟩
    refine stopSameAt_get_bind ?_
    split
    · extract_lets g start v
      split
      · rintro st b t ⟨⟩
      · rintro st b t ⟨⟩
    · rintro st b t ⟨⟩

theorem clearTag_ends (r : Requestor) (va : W64) : EndSame f (clearTag r va) := by
  unfold clearTag
  split
  · exact endSame_pure _
  · refine endSame_ite (endSame_pure _) ?_
    split
    · exact endSame_pure _
    · refine endSame_ite (endSame_pure _) (endSame_bind (readRaw_ends hf.toReadBlind _ _) fun b => ?_)
      exact endSame_ite (endSame_bind (writeRaw_ends hf _ _ _ _ _) fun _ => endSame_pure _) (endSame_pure _)

theorem writeBytesIn_ends (r : Requestor) (lo hi : Nat) : ∀ (bs : List Byte) (va : W64), EndSame f (writeBytesIn r lo hi va bs)
  | [], _ => endSame_pure _
  | b :: bs, va =>
    endSame_bind (endSame_bind (clearTag_ends hf r va) fun _ => writeRaw_ends hf r lo hi va b) fun _ =>
      endSame_bind (writeBytesIn_ends r lo hi bs (va + 1)) fun _ => endSame_pure _

theorem writeBytes_ends (r : Requestor) (va : W64) (bs : List Byte) : EndSame f (writeBytes r va bs) := by
  unfold writeBytes
  refine endSame_bind (writeBytesIn_ends hf _ _ _ bs va) fun u => ?_
  cases u with
  | none => exact endSame_pure _
  | some a =>
    refine ⟨by rintro w b t ⟨⟩, ?_⟩
    rintro w st b t ⟨⟩ hst
    exact absurd rfl hst

end

end Sys2Proof.Machine
end

section
/-! The attention ring (R256, R320 to R326, R333, R462): records written, the ring's registers, and pulses. -/

namespace Sys2Proof.Machine

open Sys2Proof

/-! ### Accesses that no descriptor makes (R256) -/

section
variable {α : Type} {fail : Dev → Dev} {m : Acc α} {w u : Work}

theorem ueFails_ok {a : α} (h : m.run w = (.ok a, u)) : (ueFails fail m).run w = (.ok a, u) := by
  refine (ueFails_run fun e t he => ?_).trans h
  cases h.symm.trans he

theorem ueFails_stop {e : Stop} (h : m.run w = (.error e, u)) (he : e.isUe = false) : (ueFails fail m).run w = (.error e, u) := by
  refine (ueFails_run fun e' t ht => ?_).trans h
  cases h.symm.trans ht
  exact he

/-- An uncorrectable error puts its context on the failure path too. -/
theorem ueFails_ue {b : W64} (h : m.run w = (.error (.fail stMemoryUe b), u)) :
    (ueFails fail m).run w = (.error (.fail stMemoryUe b), onDev fail u) := by
  refine (acc_tryCatch ..).trans ?_
  rw [h]
  rfl

theorem runAcc_stop {onOk : α → Work → Work} {onFail : Byte → W64 → Work → Work} {st : Byte} {b : W64}
    (h : m.run { w with dest := [], snooped := [], flags := {} } = (.error (.fail st b), u)) :
    runAcc m onOk onFail w = onFail st b (snoopsUsed (freeDest u)) := by
  unfold runAcc
  rw [h]

end

/-! ### A record's write (R288, R320) -/

/-- What a record's write leaves, unless an uncorrectable word stops it: the attention ring, contexts, rings and descriptors. -/
def attnView (w : Work) : Attn × Tab Ctx × Tab Ring × List Desc := (w.dev.attn, w.dev.ctxs, w.dev.rings, w.dev.descs)

theorem attnView_blind : WriteBlind attnView where
  snooped _ _ := rfl
  cxl _ _ := rfl
  tlb _ _ := rfl
  values _ _ := rfl
  stores _ _ := rfl
  ue _ _ := rfl

theorem attnView_freed (w : Work) : attnView (snoopsUsed (freeDest w)) = attnView w :=
  congrArg (fun c : Dev × List Store × Wipe => (c.1.attn, c.1.ctxs, c.1.rings, c.1.descs)) (freeDest_view w)

theorem attnPut_ends (a : W64) (bs : List Byte) : EndSame attnView (attnPut a bs) := by
  have hput : ∀ cache, EndSame attnView (hostAsks false cache (edge 0) a 64 64 >>= fun _ => writeBytes (edge 0) a bs) := fun _ =>
    endSame_bind (hostAsks_ends attnView_blind.toReadBlind (fun _ _ => rfl) _ _ _ _ _ _) fun _ => writeBytes_ends attnView_blind _ _ _
  unfold attnPut
  refine endSame_bind (translate_ends attnView_blind.toReadBlind _ _ _) fun t => ?_
  cases t with
  | dev b => exact endSame_get_bind fun w => hput _
  | host b =>
    refine endSame_get_bind fun w => endSame_bind (endSame_modify fun _ => rfl) fun _ => endSame_guard ?_
    exact endSame_get_bind fun w => hput _

/-! ### ATTN_RECORD_WRITE (R320, R324, R326) -/

/-- The write of the record of an event at TAIL. -/
def recordPut (a : Attn) (e : AttnEvent) : Acc Unit :=
  attnPut (a.base + BitVec.ofNat 64 (64 * (a.tail.toNat % 2 ^ a.sizeLog2.toNat)))
    (attnBytes e a.droppedSince.toNat (phaseOf a.tail.toNat (2 ^ a.sizeLog2.toNat)))

/-- The attention ring once the record of its first event is written. -/
def recordDone (rest : List AttnEvent) (a : Attn) : Attn :=
  { a with held := rest, tail := a.tail + 1, droppedSince := 0, pulseDue := a.pulseDue || a.pulseEn }

theorem attnRecordWrite_idle {w : Work} (h : w.dev.attn.held = [] ∨ attnRoom w.dev.attn = 0) : attnRecordWrite w = w := by
  unfold attnRecordWrite
  dsimp only
  split
  · rfl
  · next e rest hheld => exact if_pos (h.resolve_left (by rw [hheld]; exact List.cons_ne_nil e rest))

theorem attnFail_only (v : Dev) : attnFail v = { v with
    attn := attnSpill { v.attn with enable := false, fault := true, pulseDue := v.attn.pulseDue || v.attn.pulseEn }
    ctr := (attnFail v).ctr } := rfl

section
variable {e : AttnEvent} {rest : List AttnEvent} {s : State} (hr : s.dev.power.railsUp = true) (hh : s.dev.attn.held = e :: rest)
  (hroom : attnRoom s.dev.attn ≠ 0)
include hr hh hroom

theorem attnRecordWrite_runs : poweredWork attnRecordWrite (workOf s) =
    runAcc (ueFailsOpen 0 (recordPut s.dev.attn e)) (fun _ w => onDev (setAttn (recordDone rest)) w)
      (fun st b w' => onDev (fun _ => attnFail w'.dev) (keepUe (workOf s) st b w')) (workOf s) := by
  refine (if_pos hr).trans ?_
  unfold attnRecordWrite
  dsimp only
  rw [workOf_dev, hh]
  exact if_neg hroom

/-- A record that is written. -/
theorem record_written {w : Work} (hs : Memory.wf s = true) (h : (recordPut s.dev.attn e).run (workOf s) = (.ok (), w))
    (hw : w.wiped = .none) (hl : s.dev.power.lost = .none) (hp : w.dev.power = s.dev.power) :
    ∃ t, exec .attnRecordWrite s = .next t ∧ StoredBy s t w.stores ∧ t.dev.attn = recordDone rest s.dev.attn ∧
      t.dev.ctxs = s.dev.ctxs ∧ t.dev.rings = s.dev.rings ∧ t.dev.descs = s.dev.descs := by
  obtain ⟨ha, hc, hg, hd⟩ : w.dev.attn = s.dev.attn ∧ w.dev.ctxs = s.dev.ctxs ∧ w.dev.rings = s.dev.rings ∧ w.dev.descs = s.dev.descs := by
    simpa [attnView] using (attnPut_ends _ _).ok (workOf s) _ w h
  refine ⟨_, runWork_eq ((attnRecordWrite_runs hr hh hroom).trans (runAcc_ok (ueFails_ok h))), storedBy_commit hs hw hl hp, ?_⟩
  rw [commit_dev, breakReserved_only]
  exact ⟨congrArg (recordDone rest) ha, hc, hg, hd⟩

/-- A write that fails disables the ring, and the event stays first of those held (R324). -/
theorem record_fails {st : Byte} {b : W64} {w : Work} (h : (recordPut s.dev.attn e).run (workOf s) = (.error (.fail st b), w))
    (hst : st ≠ stMemoryUe) : ∃ t, exec .attnRecordWrite s = .next t ∧
      t.dev.attn = attnSpill { s.dev.attn with enable := false, fault := true, pulseDue := s.dev.attn.pulseDue || s.dev.attn.pulseEn } ∧
      t.dev.ctxs = s.dev.ctxs ∧ t.dev.rings = s.dev.rings ∧ t.dev.descs = s.dev.descs := by
  have hue : (Stop.fail st b).isUe = false := decide_eq_false hst
  have hview : attnView (snoopsUsed (freeDest w)) = attnView (workOf s) :=
    (attnView_freed w).trans ((attnPut_ends _ _).stop (workOf s) _ _ w h hst)
  obtain ⟨ha, hc, hg, hd⟩ : (snoopsUsed (freeDest w)).dev.attn = s.dev.attn ∧ (snoopsUsed (freeDest w)).dev.ctxs = s.dev.ctxs ∧
      (snoopsUsed (freeDest w)).dev.rings = s.dev.rings ∧ (snoopsUsed (freeDest w)).dev.descs = s.dev.descs := by
    simpa [attnView] using hview
  refine ⟨_, runWork_eq ((attnRecordWrite_runs hr hh hroom).trans (runAcc_stop (ueFails_stop h hue))), ?_⟩
  rw [commit_dev, breakReserved_only, onDev_dev, attnFail_only]
  exact ⟨by rw [ha], hc, hg, hd⟩

/-- One that meets an uncorrectable word puts context 0 on the failure path as well (R256). -/
theorem record_meetsUe {b : W64} {w : Work} (h : (recordPut s.dev.attn e).run (workOf s) = (.error (.fail stMemoryUe b), w)) :
    ∃ t, exec .attnRecordWrite s = .next t ∧ t.dev.attn.enable = false ∧ t.dev.attn.fault = true ∧ (getCtx t.dev 0).state ≠ 1 := by
  refine ⟨_, runWork_eq ((attnRecordWrite_runs hr hh hroom).trans (runAcc_stop (ueFails_ue h))), ?_⟩
  rw [commit_dev, breakReserved_only, onDev_dev, attnFail_only]
  refine ⟨rfl, rfl, ?_⟩
  have hctxs : (snoopsUsed (freeDest (onDev (failCtxOpen 0 stMemoryUe.toNat) w))).dev.ctxs = (failCtxOpen 0 stMemoryUe.toNat w.dev).ctxs :=
    congrArg (fun c : Attn × Tab Ctx × Tab Ring × List Desc => c.2.1) (attnView_freed (onDev (failCtxOpen 0 stMemoryUe.toNat) w))
  have hstate := failCtxOpen_state 0 stMemoryUe.toNat w.dev
  rw [← getCtx_congr hctxs] at hstate
  exact hstate

end

/-! ### ATTN_ENABLE and ATTN_HEAD_WRITE (R324, R333, R462) -/

theorem fld_orBit8 (x : W64) : fld 5 0 (x ||| placeB 8 true) = x.setWidth 5 := by
  have h8 : ∀ i < 5, (placeB 8 true).getLsbD i = false := by decide
  apply BitVec.eq_of_getLsbD_eq
  intro i hi
  simp [fld, BitVec.getLsbD_or, h8 i hi]

theorem attnCfg_enables {x : W64} {v : Dev} (hc : (getCtx v 0).enable = true) (he : v.attn.enable = false) :
    attnCfg (x ||| placeB 8 true) v = { v with attn := { v.attn with
      sizeLog2 := clampW 6 16 (x.setWidth 5 : BitVec 5), pulseEn := x.getLsbD 9, enable := true, head := 0, tail := 0 } } := by
  have h8 : bitAt 8 (x ||| placeB 8 true) = true := by
    rw [bitAt, BitVec.getLsbD_or]
    exact Bool.or_true _
  have h9 : bitAt 9 (x ||| placeB 8 true) = x.getLsbD 9 := by
    rw [bitAt, BitVec.getLsbD_or]
    exact Bool.or_false _
  unfold attnCfg
  rw [fld_orBit8, h8, h9]
  dsimp only
  rw [if_pos (by simp [setAttn, he]), if_pos (show (getCtx (setAttn _ v) 0).enable = true from hc)]
  rfl

theorem attnWrite_head (x : W64) (v : Dev) : attnWrite 2 (barOf 0x48014 false x) v = attnHead (x.setWidth 32) v := by
  rw [barOf_high x (by decide), attnWrite]
  simp

/-! ### Pulses (R326) -/

theorem pulseStart_starts {v : Dev} (hd : v.attn.pulseDue = true) (hr : v.power.rbHigh = true) (hl : v.attn.pulseLow = false)
    (hg : ∀ u, v.attn.gapFrom = some u → 4000 ≤ (v.pace.time - u).toNat) :
    pulseStart v = setAttn (fun a => { a with pulseLow := true, pulseDue := false, pulseStart := now v }) v := by
  refine if_pos ?_
  rw [hd, hr, hl]
  cases h : v.attn.gapFrom with
  | none => rfl
  | some u => exact decide_eq_true (hg u h)

theorem pulseEnd_ends {v : Dev} (hl : v.attn.pulseLow = true) (ht : 1000 ≤ (v.pace.time - v.attn.pulseStart).toNat) :
    pulseEnd v = setAttn (fun a => { a with pulseLow := false, gapFrom := some (now v) }) v :=
  if_pos (by rw [hl]; exact decide_eq_true ht)

/-- Settles O45: what becomes of a record's write, the words written to the ring's registers, and a pulse. -/
theorem attentionRecordsAndPulses : Obligations.AttentionRecordsAndPulses := by
  refine ⟨fun s h => ?_, fun e rest s hs hr hh hroom => ⟨fun w h hw hl hp => ?_, fun st b w h hst => ?_, fun b w _ h => ?_⟩,
    fun w s hs hc he => ?_, fun w s hs => ?_, fun s hd hr hl hg => ?_, fun s hl ht => ?_⟩
  · refine runWork_unchanged (f := poweredWork attnRecordWrite) ?_
    unfold poweredWork
    rw [attnRecordWrite_idle h, ite_self]
  · exact record_written hr hh hroom hs h hw hl hp
  · obtain ⟨t, hx, ha, hc, hg, hd⟩ := record_fails hr hh hroom h hst
    exact ⟨t, hx, by rw [ha]; rfl, by rw [ha]; rfl, by rw [ha]; rfl, by rw [ha]; rfl, hc, hg, hd⟩
  · exact record_meetsUe hr hh hroom h
  · exact (runWork_guarded_lands (attnWrite 2 ⟨true, false, w.value ||| placeB 8 true⟩) hs).trans
      (congrArg (fun v => Host.Outcome.next { s with dev := v }) (attnCfg_enables hc he))
  · exact (runWork_guarded_lands (attnWrite 2 (barOf 0x48014 false w.value)) hs).trans
      (congrArg (fun v => Host.Outcome.next { s with dev := v }) (attnWrite_head w.value s.dev))
  · exact runDev_eq (f := pulseStart) (pulseStart_starts hd hr hl hg)
  · exact runDev_eq (f := pulseEnd) (pulseEnd_ends hl ht)

end Sys2Proof.Machine
end

section
/-! The checks of a descriptor's class at its fetch (R306 to R309): they do not fail the fetch, and leave the device as it is but where
they meet an uncorrectable word, which puts the context on the failure path (R256, R416). -/

namespace Sys2Proof.Machine

open Sys2Proof

/-! ### Stages that do not fail -/

/-- A stage that stops only to wait. -/
def NeverFails {α : Type} (m : Acc α) : Prop := ∀ w st b u, m.run w ≠ (.error (.fail st b), u)

/-- A check of a descriptor for a context. -/
structure Checks {α : Type} (ctx : Nat) (m : Acc α) : Prop where
  steps : Steps (Checked ctx) m
  fails : NeverFails m

section
variable {α β : Type} {ctx : Nat}

theorem neverFails_bind {m : Acc α} {f : α → Acc β} (hm : NeverFails m) (hf : ∀ a, NeverFails (f a)) : NeverFails (m >>= f) := by
  intro w st b u h
  rw [acc_bind] at h
  split at h
  · next a t _ => exact hf a t st b u h
  · next e t he =>
    cases h
    exact hm w st b u he

theorem checks_pure (a : α) : Checks ctx (pure a : Acc α) := ⟨steps_pure (checked_refl ctx) a, by rintro w st b u ⟨⟩⟩

theorem checks_bind {m : Acc α} {f : α → Acc β} (hm : Checks ctx m) (hf : ∀ a, Checks ctx (f a)) : Checks ctx (m >>= f) :=
  ⟨steps_bind (checked_trans ctx) hm.steps fun a => (hf a).steps, neverFails_bind hm.fails fun a => (hf a).fails⟩

theorem checks_get_bind {f : Work → Acc α} (h : ∀ w, Checks ctx (f w)) : Checks ctx (get >>= f) := by
  refine ⟨steps_get_bind fun w => (h w).steps w, fun w st b u hu => ?_⟩
  rw [acc_bind_ok (acc_get w)] at hu
  exact (h w).fails w st b u hu

theorem checks_ite {c : Prop} {_ : Decidable c} {m n : Acc α} (hm : Checks ctx m) (hn : Checks ctx n) :
    Checks ctx (if c then m else n) := by
  split
  · exact hm
  · exact hn

theorem checks_mapM {f : α → Acc β} (hf : ∀ a, Checks ctx (f a)) : ∀ l : List α, Checks ctx (l.mapM f)
  | [] => by rw [List.mapM_nil]; exact checks_pure _
  | a :: l => by
    rw [List.mapM_cons]
    exact checks_bind (hf a) fun _ => checks_bind (checks_mapM hf l) fun _ => checks_pure _

end

/-! ### Where addresses lie -/

theorem placeOf_checks (ctx : Nat) (va : W64) : Checks ctx (placeOf ctx va) := by
  refine ⟨placeOf_checked ctx va, fun w st b u h => ?_⟩
  unfold placeOf at h
  rw [acc_bind_ok (acc_get w)] at h
  split at h
  · cases h
  · split at h
    · cases h
    · cases h
    · split at h <;> cases h

section
variable (x : Desc)

theorem slotsPass_checks (slots : List Nat) (test : Place → Bool) : Checks x.ctx (slotsPass x slots test) :=
  checks_bind (checks_mapM (fun _ => checks_get_bind fun _ => placeOf_checks _ _) slots) fun _ => checks_pure _

theorem addrPass_checks (o : Nat) (test : Place → Bool) : Checks x.ctx (addrPass x o test) :=
  checks_ite (checks_pure _) (checks_bind (placeOf_checks _ _) fun _ => checks_pure _)

theorem rangePass_checks (a n : Nat) (test : Place → Bool) : Checks x.ctx (rangePass x a n test) :=
  checks_bind (checks_mapM (fun _ => placeOf_checks _ _) _) fun _ => checks_pure _

theorem workPass_checks (n : Nat) : Checks x.ctx (workPass x n) := by
  refine checks_bind (placeOf_checks _ _) fun p => ?_
  cases p with
  | cstore c => exact rangePass_checks x _ _ _
  | dram => exact checks_pure _
  | host => exact checks_pure _
  | nowhere => exact checks_pure _

/-! ### The classes -/

theorem planMm_checks : Checks x.ctx (planMm x) :=
  checks_ite (checks_pure _) (checks_bind (slotsPass_checks x _ _) fun _ => checks_ite (checks_pure _) (checks_pure _))

theorem planStat_checks : Checks x.ctx (planStat x) := by
  unfold planStat
  extract_lets bs op first count
  refine checks_ite (checks_pure _) (checks_bind (slotsPass_checks x _ _) fun _ => checks_bind (slotsPass_checks x _ _) fun _ => ?_)
  exact checks_ite (checks_pure _) (checks_ite (checks_pure _) (checks_pure _))

theorem planRoot_checks (solve : Bool) : Checks x.ctx (planRoot solve x) := by
  unfold planRoot
  extract_lets o
  refine checks_ite (checks_pure _) (checks_bind (slotsPass_checks x _ _) fun dev => ?_)
  have hgo (work : Bool) : Checks x.ctx (if (!dev || !work) = true then pure none
      else if solve = true then pure (some (unitRange o.cluFirst o.cluCount))
      else pure (some (unitRange (coreRange o.engFirst o.engCount).1 (coreRange o.engFirst o.engCount).2)) : Acc (Option (List Nat))) :=
    checks_ite (checks_pure _) (checks_ite (checks_pure _) (checks_pure _))
  refine checks_ite (checks_bind (checks_pure _) hgo) ?_
  refine checks_bind (addrPass_checks x _ _) fun _ => checks_bind (checks_mapM (fun _ => rangePass_checks x _ _ _) _) fun _ => ?_
  exact checks_bind (checks_pure _) hgo

theorem planColl_checks : Checks x.ctx (planColl x) := by
  unfold planColl
  extract_lets o
  refine checks_get_bind fun w => checks_ite (checks_pure _) ?_
  exact checks_ite (checks_bind (workPass_checks x _) fun _ => checks_pure _) (checks_bind (checks_pure _) fun _ => checks_pure _)

theorem planCopy_checks : Checks x.ctx (planCopy x) := checks_get_bind fun _ => checks_ite (checks_pure _) (checks_pure _)

theorem planOf_checks : Checks x.ctx (planOf x) := by
  unfold planOf
  extract_lets bs one
  split
  · exact planMm_checks x
  · exact checks_ite (checks_pure _) (checks_pure _)
  · exact checks_pure _
  · exact planStat_checks x
  · exact planRoot_checks x false
  · exact planRoot_checks x true
  · exact planColl_checks x
  · exact planCopy_checks x
  · exact checks_pure _
  · exact checks_pure _
  · exact checks_pure _
  · exact checks_get_bind fun _ => checks_pure _
  · exact checks_pure _
  · exact checks_pure _
  · exact checks_pure _

end

end Sys2Proof.Machine
end

section
/-! A ring's fetch (R240, R256, R301, R304 to R306, R308, R314, R330, R416): what it reads, and the descriptor that enters staging. -/

namespace Sys2Proof.Machine

open Sys2Proof

/-! ### What the fetch reads (R288, R303) -/

/-- What the reads of a fetch leave: all but what any read changes, what is asked of the link, and the snoops used. -/
def fetchView (w : Work) : Dev × List Store × Wipe × List Dest := ({ restOf w.dev with out := [] }, w.stores, w.wiped, w.dest)

theorem fetchView_blind : ReadBlind fetchView where
  snooped _ _ := rfl
  cxl _ _ := rfl
  tlb _ _ := rfl
  values _ _ := rfl

theorem ringUnit_ends (x : Ring) (i : Nat) : EndSame fetchView (ringUnit x i) :=
  endSame_get_bind fun _ => endSame_bind (hostAsks_ends fetchView_blind (fun _ _ => rfl) _ _ _ _ _ _) fun _ =>
    readBytes_ends fetchView_blind _ _ _

theorem readStep_ends (ctx : Nat) : EndSame fetchView (readStep ctx) :=
  endSame_get_bind fun _ => endSame_ite (endSame_pure _) (readNat_ends fetchView_blind _ _ _)

/-! ### The stage in parts -/

/-- The descriptor that a ring's units make, before its parts are planned (R301, R306). -/
def fetchedDesc (v : Dev) (r step : Nat) (raw : List Byte) : Desc :=
  let x := getRing v r
  { id := v.nextDesc, ring := r, ctx := x.ctx.toNat, unitIndex := x.head, step := BitVec.ofNat 32 step, time := now v
    bytes := if headerOk raw (decide (x.mode ≠ 0)) then stepIndexed (getCtx v x.ctx.toNat) step raw else raw
    cls := leAt raw 0 1 % 16, hostFed := decide (x.mode = 0) }

/-- A ring's place once a descriptor of `n` units has entered staging with `need` slots of its record (R304, R314). -/
def movedRing (n need : Nat) (held : Bool) (id : Nat) (q : Ring) : Ring :=
  settle { q with
    head := q.head + BitVec.ofNat 32 n, reserved := q.reserved + need
    waiting := if held then some id else q.waiting, state := if held then 2 else q.state }

/-- A descriptor behind those in staging. -/
def appended (x : Desc) (v : Dev) : Dev := { v with descs := v.descs ++ [x], nextDesc := x.id + 1 }

/-- A descriptor, with its sequence taken, enters staging on a device that gave the sequence (R304, R314, R481). -/
def entered (r n need : Nat) (held : Bool) (c : Desc × Dev) : Dev :=
  countQueues c.1 (parkFetch c.1 (appended c.1 (modRing r (movedRing n need held c.1.id) c.2)))

/-- A planned descriptor enters staging; in a context on the failure path its parts are aborted (R416). -/
def enterStaging (r n : Nat) (ok : Bool) (planned : Bool) (x : Desc) (v : Dev) : Dev :=
  let need := recordSlots x.parts.length
  let c := takeSeq ok { x with slots := need } (stabPass (fetchCore r) (.fetch r) v)
  let u := entered r n need (decide (c.1.cls = 9) && planned && decide ((getCtx c.2 x.ctx).state = 1)) c
  if (getCtx c.2 x.ctx).state = 1 then u else abortParts (fun q => q.id = c.1.id) u

/-- The end of a fetch: room in the completion queue, and staging. -/
def fetchEnd (v : Dev) (r n : Nat) (ok : Bool) (y : Desc) (units : Option (List Nat)) : Acc Unit :=
  if queueRoom (getRing v r) < recordSlots (withParts y units).parts.length then throw .wait
  else modify (onDev (enterStaging r n ok units.isSome (withParts y units)))

/-- What follows the reads of a fetch. -/
def fetchPlan (v : Dev) (r n step : Nat) (raw : List Byte) : Acc Unit :=
  let ok := headerOk raw (decide ((getRing v r).mode ≠ 0))
  let y := fetchedDesc v r step raw
  (if ok then planOf y else pure none) >>= fun units => fetchEnd v r n ok y units

/-- The reads of a fetch after its first unit. -/
def fetchMore (v : Dev) (r : Nat) (first : List Byte) : Acc Unit := do
  let x := getRing v r
  let n := sizeUnits (leAt first 0 1)
  let more ← ((upto n).drop 1).mapM (fun k => ringUnit x (x.head.toNat + k))
  let step ← readStep x.ctx.toNat
  fetchPlan v r n step (first ++ more.flatten)

/-- A check that stops a stage before the rest of it. -/
theorem guard_eq {α : Type} {c : Prop} {_ : Decidable c} {e : Stop} {g : PUnit → Acc α} {m : Acc α} (h : g ⟨⟩ = m) :
    (if c then throw e >>= g else g ⟨⟩) = if c then throw e else m := by
  subst h
  split <;> rfl

theorem stage_eq (r : Nat) : stage r = get >>= fun w =>
    if (stabFree w.dev (fetchCore r)).isNone then throw .wait
    else ringUnit (getRing w.dev r) (getRing w.dev r).head.toNat >>= fun first =>
      if !decide ((getRing w.dev r).mode ≠ 0) && decide (((getRing w.dev r).tail - (getRing w.dev r).head).toNat < sizeUnits (leAt first 0 1))
      then throw .wait
      else fetchMore w.dev r first := by
  unfold stage
  refine bind_congr fun w => ?_
  extract_lets v x ctx pos replay rest
  refine guard_eq (bind_congr fun first => ?_)
  extract_lets n rest'
  refine guard_eq (bind_congr fun more => ?_)
  extract_lets raw ok
  refine bind_congr fun step => ?_
  extract_lets bs y last
  have hy : fetchedDesc v r step raw = y := by
    have hfed : decide (x.mode = 0) = !decide replay := by simp [replay]
    unfold fetchedDesc
    dsimp only
    rw [hfed]
  have hlast (units : Option (List Nat)) : last units = fetchEnd v r n ok y units := by
    unfold last fetchEnd
    extract_lets z need enter
    refine guard_eq ?_
    cases units <;> rfl
  unfold fetchPlan
  rw [hy]
  change _ = (if ok then planOf y else pure none) >>= fun units => fetchEnd v r n ok y units
  split
  · exact bind_congr hlast
  · exact bind_congr hlast

/-! ### How a fetch's stage runs -/

theorem fetchEnd_neverFails (v : Dev) (r n : Nat) (ok : Bool) (y : Desc) (units : Option (List Nat)) :
    NeverFails (fetchEnd v r n ok y units) := by
  unfold fetchEnd
  split
  · rintro w st b u ⟨⟩
  · rintro w st b u ⟨⟩

/-- Only the reads of a fetch fail it: a check that does not pass makes its descriptor malformed instead (R308). -/
theorem fetchPlan_neverFails (v : Dev) (r n step : Nat) (raw : List Byte) : NeverFails (fetchPlan v r n step raw) := by
  have hplan (y : Desc) : NeverFails (planOf y) := (planOf_checks y).fails
  refine neverFails_bind ?_ fun _ => fetchEnd_neverFails _ _ _ _ _ _
  split
  · exact hplan _
  · rintro w st b u ⟨⟩

/-- A fetch that fails, for another reason than an uncorrectable word, has changed nothing but what reads change. -/
theorem stage_stops (r : Nat) (w : Work) : StopSameAt fetchView (stage r) w := by
  rw [stage_eq]
  refine stopSameAt_get_bind ?_
  split
  · exact (endSame_throw _).stop w
  · refine stopSameAt_bind ((ringUnit_ends _ _).stop w) fun first u hu => ⟨(ringUnit_ends _ _).ok w _ u hu, ?_⟩
    split
    · exact (endSame_throw _).stop u
    · have hmore := endSame_mapM (fun k => ringUnit_ends (getRing w.dev r) ((getRing w.dev r).head.toNat + k))
      refine stopSameAt_bind ((hmore _).stop u) fun more u1 h1 => ⟨(hmore _).ok u _ u1 h1, ?_⟩
      refine stopSameAt_bind ((readStep_ends _).stop u1) fun step u2 h2 => ⟨(readStep_ends _).ok u1 _ u2 h2, ?_⟩
      exact fun st b t ht => absurd ht (fetchPlan_neverFails _ _ _ _ _ u2 st b t)

section
variable {r : Nat} {w w1 : Work} {first : List Byte}

/-- Without a stream table entry a fetch waits (R240). -/
theorem stage_noEntry (h : stabFree w.dev (fetchCore r) = none) : (stage r).run w = (.error .wait, w) := by
  rw [stage_eq, acc_bind_ok (acc_get w), if_pos (by rw [h]; rfl)]
  rfl

variable (hfree : (stabFree w.dev (fetchCore r)).isNone = false)
  (h1 : (ringUnit (getRing w.dev r) (getRing w.dev r).head.toNat).run w = (.ok first, w1))
include hfree h1

/-- Where TAIL stands within the descriptor it waits (R304). -/
theorem stage_short (hm : (getRing w.dev r).mode = 0)
    (hn : ((getRing w.dev r).tail - (getRing w.dev r).head).toNat < sizeUnits (leAt first 0 1)) : (stage r).run w = (.error .wait, w1) := by
  rw [stage_eq, acc_bind_ok (acc_get w), if_neg (by rw [hfree]; decide), acc_bind_ok h1, if_pos (by rw [decide_eq_true hn, hm]; rfl)]
  rfl

/-- What a fetch comes to once its units and the step count are read. -/
theorem stage_plans {more : List (List Byte)} {w2 w3 : Work} {step : Nat}
    (hn : (getRing w.dev r).mode = 0 → sizeUnits (leAt first 0 1) ≤ ((getRing w.dev r).tail - (getRing w.dev r).head).toNat)
    (h2 : (((upto (sizeUnits (leAt first 0 1))).drop 1).mapM
      (fun k => ringUnit (getRing w.dev r) ((getRing w.dev r).head.toNat + k))).run w1 = (.ok more, w2))
    (h3 : (readStep (getRing w.dev r).ctx.toNat).run w2 = (.ok step, w3)) :
    (stage r).run w = (fetchPlan w.dev r (sizeUnits (leAt first 0 1)) step (first ++ more.flatten)).run w3 ∧
      fetchView w3 = fetchView w := by
  have hmore := endSame_mapM (fun k => ringUnit_ends (getRing w.dev r) ((getRing w.dev r).head.toNat + k))
  refine ⟨?_, ((readStep_ends _).ok w2 _ w3 h3).trans (((hmore _).ok w1 _ w2 h2).trans ((ringUnit_ends _ _).ok w _ w1 h1))⟩
  have hgo : ¬((!decide ((getRing w.dev r).mode ≠ 0) &&
      decide (((getRing w.dev r).tail - (getRing w.dev r).head).toNat < sizeUnits (leAt first 0 1))) = true) := by
    simpa using hn
  rw [stage_eq, acc_bind_ok (acc_get w), if_neg (by rw [hfree]; decide), acc_bind_ok h1, if_neg hgo, fetchMore, acc_bind_ok h2, acc_bind_ok h3]

end

section
variable {v : Dev} {r n step : Nat} {raw : List Byte} {w w4 : Work} {units : Option (List Nat)} {y : Desc} (hy : fetchedDesc v r step raw = y)
  (h4 : (if headerOk raw (decide ((getRing v r).mode ≠ 0)) then planOf y else pure none).run w = (.ok units, w4))
include hy h4

theorem fetchPlan_full (hq : queueRoom (getRing v r) < recordSlots (withParts y units).parts.length) :
    (fetchPlan v r n step raw).run w = (.error .wait, w4) := by
  unfold fetchPlan fetchEnd
  rw [hy, acc_bind_ok h4, if_pos hq]
  rfl

theorem fetchPlan_enters (hq : recordSlots (withParts y units).parts.length ≤ queueRoom (getRing v r)) :
    (fetchPlan v r n step raw).run w = (.ok (), onDev (enterStaging r n (headerOk raw (decide ((getRing v r).mode ≠ 0))) units.isSome
      (withParts y units)) w4) := by
  unfold fetchPlan fetchEnd
  rw [hy, acc_bind_ok h4, if_neg (Nat.not_lt.mpr hq)]
  rfl

end

/-- The checks have left all as it was, or the context is on the failure path. -/
theorem plan_checked {ok : Bool} {y : Desc} {w w4 : Work} {units : Option (List Nat)}
    (h : (if ok then planOf y else pure none).run w = (.ok units, w4)) : Checked y.ctx w w4 := by
  split at h
  · exact (planOf_checks y).steps w _ w4 h
  · exact (checks_pure none).steps w _ w4 h

/-! ### What enters staging -/

theorem takeSeq_only (hdr : Bool) (x : Desc) (v : Dev) : ∃ run g,
    takeSeq hdr x v = ({ x with coll := run }, { v with groups := g }) ∧ (x.cls ≠ 6 → run = x.coll) := by
  unfold takeSeq
  extract_lets gno g ports run
  split
  · next h =>
    simp only [Bool.and_eq_true, decide_eq_true_eq] at h
    exact ⟨_, _, rfl, fun h6 => absurd h.1.1.2 h6⟩
  · exact ⟨x.coll, v.groups, rfl, fun _ => rfl⟩

/-- What a fetch changes besides counters, caches, groups, park and the lists of those that wait. -/
def stagingOf (v : Dev) : List Desc × Nat × Tab Ring × Tab Ctx × Tab Engine × Attn :=
  (v.descs, v.nextDesc, v.rings, v.ctxs, v.engines, v.attn)

theorem parkFetch_staging (x : Desc) (v : Dev) : stagingOf (parkFetch x v) = stagingOf v := by
  unfold parkFetch
  split
  · rfl
  · unfold parkLeave
    dsimp only
    repeat' split
    all_goals rfl

theorem entered_staging (r n need : Nat) (held : Bool) (c : Desc × Dev) :
    stagingOf (entered r n need held c) = stagingOf (appended c.1 (modRing r (movedRing n need held c.1.id) c.2)) :=
  (congrArg stagingOf (countQueues_rest c.1 _)).trans (parkFetch_staging _ _)

section
variable {r n : Nat} {ok planned : Bool} {x : Desc} {v : Dev}

theorem enterStaging_goes (hgo : (getCtx v x.ctx).state = 1) : ∃ run, (x.cls ≠ 6 → run = x.coll) ∧
    stagingOf (enterStaging r n ok planned x v) =
      stagingOf (appended { x with slots := recordSlots x.parts.length, coll := run }
        (modRing r (movedRing n (recordSlots x.parts.length) (decide (x.cls = 9) && planned) x.id) v)) := by
  obtain ⟨run, g, hseq, hrun⟩ := takeSeq_only ok { x with slots := recordSlots x.parts.length } (stabPass (fetchCore r) (.fetch r) v)
  have hstate : (getCtx ({ stabPass (fetchCore r) (.fetch r) v with groups := g } : Dev) x.ctx).state = 1 := hgo
  refine ⟨run, hrun, ?_⟩
  unfold enterStaging
  dsimp only
  rw [hseq, if_pos hstate, decide_eq_true hstate, Bool.and_true]
  exact entered_staging ..

/-- No part of an aborted descriptor waits to start (R416). -/
theorem abortedDesc_queued (x : Desc) : ∀ p ∈ (abortedDesc x).parts, p.state ≠ .queued := by
  intro p hp
  obtain ⟨q, -, rfl⟩ := List.mem_map.mp hp
  unfold abortedPart
  split
  · exact fun h => nomatch h
  · assumption

theorem enterStaging_fails (hgo : (getCtx v x.ctx).state ≠ 1) : (enterStaging r n ok planned x v).ctxs = v.ctxs ∧
    ∃ u ∈ (enterStaging r n ok planned x v).descs, u.id = x.id ∧ u.ring = x.ring ∧ ∀ p ∈ u.parts, p.state ≠ .queued := by
  obtain ⟨run, g, hseq, -⟩ := takeSeq_only ok { x with slots := recordSlots x.parts.length } (stabPass (fetchCore r) (.fetch r) v)
  have hstate : (getCtx ({ stabPass (fetchCore r) (.fetch r) v with groups := g } : Dev) x.ctx).state ≠ 1 := hgo
  unfold enterStaging
  dsimp only
  rw [hseq, if_neg hstate, abortParts_only]
  generalize hc : ({ x with slots := recordSlots x.parts.length, coll := run } : Desc) = z
  generalize hu : entered r n _ _ _ = u
  have hstaging : stagingOf u = _ := hu ▸ entered_staging ..
  obtain ⟨hid, hring⟩ : z.id = x.id ∧ z.ring = x.ring := hc ▸ ⟨rfl, rfl⟩
  refine ⟨congrArg (·.2.2.2.1) hstaging, abortedDesc z, List.mem_map.mpr ⟨z, ?_, if_pos (decide_eq_true rfl)⟩, hid, hring, fun p hp => ?_⟩
  · rw [show u.descs = _ from congrArg (·.1) hstaging]
    exact List.mem_append_right _ (List.mem_singleton.mpr rfl)
  · exact abortedDesc_queued z p hp

end

/-! ### DESCRIPTOR_FETCH -/

/-- A ring that may fetch is enabled, its context runs, and no error has stopped it (R304, R305). -/
theorem mayFetch_ring {v : Dev} {r : Nat} (h : mayFetch v r = true) : (getRing v r).enable = true ∧ (getRing v r).state ≠ 3 := by
  unfold mayFetch at h
  simp only [Bool.and_eq_true, decide_eq_true_eq] at h
  obtain ⟨⟨⟨⟨-, he⟩, -⟩, -⟩, hm⟩ := h
  refine ⟨he, fun h3 => ?_⟩
  rw [h3] at hm
  split at hm
  · simp at hm
  · simp at hm

section
variable {r : Fin 4096} {s : State} {w : Work} (hm : mayFetch s.dev r.val = true)
include hm

theorem descriptorFetch_runs : descriptorFetch r.val (workOf s) =
    runAccOr (stage r.val) (fun _ w => w) (fun st _ w => onDev (fetchFail r.val st) w)
      (fun w => if (stabFree w.dev (fetchCore r.val)).isNone then onDev (stabWait (fetchCore r.val) (.fetch r.val)) w else w) (workOf s) :=
  if_neg (by rw [workOf_dev, hm]; decide)

theorem exec_fetch_noEntry (h : stabFree s.dev (fetchCore r.val) = none) :
    exec (.descriptorFetch r) s = .next { s with dev := stabWait (fetchCore r.val) (.fetch r.val) s.dev } := by
  have hrun : descriptorFetch r.val (workOf s) = onDev (stabWait (fetchCore r.val) (.fetch r.val)) (workOf s) := by
    rw [descriptorFetch_runs hm, runAccOr, show (stage r.val).run { workOf s with dest := [], snooped := [], flags := {} } = _ from
      stage_noEntry (w := workOf s) h]
    exact if_pos (by rw [workOf_dev, h]; rfl)
  exact (runWork_eq hrun).trans (congrArg _ (commit_workOf s _))

theorem exec_fetch_waits (hfree : (stabFree s.dev (fetchCore r.val)).isNone = false)
    (h : (stage r.val).run (workOf s) = (.error .wait, w)) : exec (.descriptorFetch r) s = .next s := by
  refine runWork_unchanged (f := descriptorFetch r.val) ?_
  rw [descriptorFetch_runs hm, runAccOr, show (stage r.val).run { workOf s with dest := [], snooped := [], flags := {} } = _ from h]
  exact if_neg (by rw [workOf_dev, hfree]; decide)

theorem exec_fetch_ok (h : (stage r.val).run (workOf s) = (.ok (), w)) :
    exec (.descriptorFetch r) s = .next (commit s (snoopsUsed { w with dest := [] })) := by
  refine runWork_eq (f := descriptorFetch r.val) ?_
  rw [descriptorFetch_runs hm, runAccOr, show (stage r.val).run { workOf s with dest := [], snooped := [], flags := {} } = _ from h]

theorem exec_fetch_fails {st : Byte} {a : W64} (h : (stage r.val).run (workOf s) = (.error (.fail st a), w)) :
    exec (.descriptorFetch r) s = .next (commit s (onDev (fetchFail r.val st) (snoopsUsed (freeDest w)))) := by
  refine runWork_eq (f := descriptorFetch r.val) ?_
  rw [descriptorFetch_runs hm, runAccOr, show (stage r.val).run { workOf s with dest := [], snooped := [], flags := {} } = _ from h]

end

/-! ### What a fetch leaves -/

theorem commit_staging (s : State) (w : Work) : stagingOf (commit s w).dev = stagingOf w.dev := by
  rw [commit_dev, breakReserved_only]
  rfl

theorem staging_of_view {w u : Work} (h : fetchView w = fetchView u) : stagingOf w.dev = stagingOf u.dev :=
  congrArg (fun c : Dev × List Store × Wipe × List Dest => stagingOf c.1) h

theorem appended_congr {v u : Dev} (h : stagingOf v = stagingOf u) (x : Desc) (r : Nat) (f : Ring → Ring) :
    stagingOf (appended x (modRing r f v)) = stagingOf (appended x (modRing r f u)) := by
  simp only [stagingOf, Prod.mk.injEq] at h
  obtain ⟨hd, -, hr, hc, he, ha⟩ := h
  simp only [stagingOf, appended, modRing, setRing, getRing, hd, hr, hc, he, ha]

theorem commit_reads {s : State} {w u : Work} (h : fetchView w = fetchView (workOf s)) (hs : u.stores = w.stores) (hw : u.wiped = w.wiped) :
    (commit s u).mem = s.mem ∧ (commit s u).host = s.host := by
  have hstores : u.stores = [] := hs.trans (congrArg (·.2.1) h)
  have hwiped : u.wiped = .none := hw.trans (congrArg (·.2.2.1) h)
  rw [commit_mem, commit_host, hstores, hwiped]
  exact ⟨rfl, rfl⟩

theorem withParts_fields (x : Desc) (units : Option (List Nat)) : (withParts x units).id = x.id ∧ (withParts x units).ring = x.ring ∧
    (withParts x units).ctx = x.ctx ∧ (withParts x units).cls = x.cls ∧ (withParts x units).coll = x.coll := by
  rw [withParts_only]
  exact ⟨rfl, rfl, rfl, rfl, rfl⟩

section
variable {r : Fin 4096} {s : State} {n : Nat} {ok : Bool} {units : Option (List Nat)} {y z : Desc} {w : Work}
  (hm : mayFetch s.dev r.val = true) (hy : y.id = s.dev.nextDesc ∧ y.ring = r.val ∧ y.coll = none) (hz : withParts y units = z)
  (h : (stage r.val).run (workOf s) = (.ok (), onDev (enterStaging r.val n ok units.isSome z) w))
include hm hy hz h

/-- A descriptor whose context runs is staged, and its ring moves on (R304, R314, R330). -/
theorem fetch_stages (hw : tabWf {} s.dev.rings = true) (hv : fetchView w = fetchView (workOf s)) (hgo : (getCtx w.dev y.ctx).state = 1) :
    ∃ t run, exec (.descriptorFetch r) s = .next t ∧
      t.dev.descs = s.dev.descs ++ [{ z with slots := recordSlots z.parts.length, coll := run }] ∧ (y.cls ≠ 6 → run = none) ∧
      t.dev.nextDesc = s.dev.nextDesc + 1 ∧
      getRing t.dev r.val = movedRing n (recordSlots z.parts.length) (decide (y.cls = 9) && units.isSome) s.dev.nextDesc (getRing s.dev r.val) ∧
      (∀ q, q ≠ r.val → getRing t.dev q = getRing s.dev q) ∧ t.dev.ctxs = s.dev.ctxs ∧ t.dev.engines = s.dev.engines ∧
      t.dev.attn = s.dev.attn ∧ t.mem = s.mem ∧ t.host = s.host := by
  obtain ⟨hid, -, hctx, hcls, hcoll⟩ := withParts_fields y units
  obtain ⟨hyid, -, hycoll⟩ := hy
  rw [hz] at hid hctx hcls hcoll
  rw [hyid] at hid
  rw [← hctx] at hgo
  obtain ⟨run, hrun, hstaged⟩ := enterStaging_goes (r := r.val) (n := n) (ok := ok) (planned := units.isSome) hgo
  rw [appended_congr (staging_of_view hv)] at hstaged
  obtain ⟨hmem, hhost⟩ := commit_reads (u := snoopsUsed { onDev (enterStaging r.val n ok units.isSome z) w with dest := [] }) hv rfl rfl
  refine ⟨_, run, exec_fetch_ok hm h, ?_⟩
  generalize ht : commit s (snoopsUsed { onDev (enterStaging r.val n ok units.isSome z) w with dest := [] }) = t at *
  have hall : stagingOf t.dev = _ := (ht ▸ commit_staging s _).trans hstaged
  have hrings : t.dev.rings = _ := congrArg (·.2.2.1) hall
  exact ⟨congrArg (·.1) hall, fun h6 => (hrun (hcls ▸ h6)).trans (hcoll.trans hycoll), (congrArg (·.2.1) hall).trans (congrArg (· + 1) hid),
    (getRing_congr hrings _).trans ((getRing_setRing_same r.val _ s.dev hw).trans (by rw [hid, hcls]; rfl)),
    fun q hq => (getRing_congr hrings q).trans (getRing_setRing_other r.val q _ s.dev hq),
    congrArg (·.2.2.2.1) hall, congrArg (·.2.2.2.2.1) hall, congrArg (·.2.2.2.2.2) hall, hmem, hhost⟩

/-- One whose checks have put its context on the failure path is staged with its parts aborted (R256, R416). -/
theorem fetch_aborts (hgo : (getCtx w.dev y.ctx).state ≠ 1) : ∃ t u, exec (.descriptorFetch r) s = .next t ∧ u ∈ t.dev.descs ∧
    u.id = s.dev.nextDesc ∧ u.ring = r.val ∧ (∀ p ∈ u.parts, p.state ≠ .queued) ∧ (getCtx t.dev y.ctx).state ≠ 1 := by
  obtain ⟨hid, hring, hctx, -, -⟩ := withParts_fields y units
  obtain ⟨hyid, hyring, -⟩ := hy
  rw [hz] at hid hring hctx
  rw [← hctx] at hgo
  obtain ⟨hctxs, u, hu, huid, huring, hparts⟩ := enterStaging_fails (r := r.val) (n := n) (ok := ok) (planned := units.isSome) hgo
  have hall := commit_staging s (snoopsUsed { onDev (enterStaging r.val n ok units.isSome z) w with dest := [] })
  refine ⟨_, u, exec_fetch_ok hm h, ?_, huid.trans (hid.trans hyid), huring.trans (hring.trans hyring), hparts, ?_⟩
  · rw [show (commit s _).dev.descs = _ from congrArg (·.1) hall]
    exact hu
  · rw [getCtx_congr ((show (commit s _).dev.ctxs = _ from congrArg (·.2.2.2.1) hall).trans hctxs), ← hctx]
    exact hgo

end

/-! ### A fetch whose reads fail (R305, R322) -/

theorem freeDest_none {w : Work} (h : w.dest = []) : freeDest w = w := by
  unfold freeDest
  rw [h]
  cases w
  cases h
  rfl

/-- A ring that stops has its error and its event, and no other ring changes. -/
theorem stopRing_leaves (r err : Nat) (v : Dev) (hw : tabWf {} v.rings = true) :
    getRing (stopRing r err v) r = { getRing v r with state := 3, err := BitVec.ofNat 3 err } ∧
    (∀ q, q ≠ r → getRing (stopRing r err v) q = getRing v q) ∧ (stopRing r err v).attn.seq = v.attn.seq + 1 ∧
    (stopRing r err v).descs = v.descs := by
  have hrings : (stopRing r err v).rings = (modRing r (fun x => { x with state := 3, err := BitVec.ofNat 3 err }) v).rings := by
    rw [stopRing, raiseRingError, raise_only]
    rfl
  refine ⟨(getRing_congr hrings r).trans (getRing_setRing_same r _ v hw),
    fun q hq => (getRing_congr hrings q).trans (getRing_setRing_other r q _ v hq), raise_seq .., ?_⟩
  rw [stopRing, raiseRingError, raise_only]
  rfl

/-- Where no uncorrectable word is why, a failing fetch is its ring's error alone (R305). -/
theorem fetchFail_stops {r : Nat} {st : Byte} {v : Dev} (hst : st ≠ stMemoryUe) (he : (getRing v r).enable = true)
    (h3 : (getRing v r).state ≠ 3) : fetchFail r st v = stopRing r 3 v :=
  (if_neg hst).trans (if_pos (by rw [he, decide_eq_true h3]; rfl))

/-- A ring that no translation reaches stops, with its event (R305, R322). -/
theorem fetch_stops {r : Fin 4096} {s : State} {w : Work} {a : W64} (hm : mayFetch s.dev r.val = true) (hw : tabWf {} s.dev.rings = true)
    (h : (stage r.val).run (workOf s) = (.error (.fail stTranslation a), w)) : ∃ t, exec (.descriptorFetch r) s = .next t ∧
      (getRing t.dev r.val).state = 3 ∧ (getRing t.dev r.val).err = 3 ∧ (∀ q, q ≠ r.val → getRing t.dev q = getRing s.dev q) ∧
      t.dev.attn.seq = s.dev.attn.seq + 1 ∧ t.dev.descs = s.dev.descs ∧ t.mem = s.mem ∧ t.host = s.host := by
  have hview : fetchView w = fetchView (workOf s) := stage_stops r.val (workOf s) _ _ w h (by decide)
  have hstaging : stagingOf (snoopsUsed w).dev = stagingOf s.dev := staging_of_view hview
  simp only [stagingOf, Prod.mk.injEq] at hstaging
  obtain ⟨hdescs, -, hrings, -, -, hattn⟩ := hstaging
  obtain ⟨he, h3⟩ := mayFetch_ring hm
  rw [← getRing_congr hrings] at he h3
  obtain ⟨hring, hothers, hseq, hkept⟩ := stopRing_leaves r.val 3 (snoopsUsed w).dev (hrings ▸ hw)
  obtain ⟨hmem, hhost⟩ := commit_reads (u := onDev (fetchFail r.val stTranslation) (snoopsUsed w)) hview rfl rfl
  have hnext := exec_fetch_fails hm h
  rw [freeDest_none (congrArg (·.2.2.2) hview)] at hnext
  refine ⟨_, hnext, ?_⟩
  have hall := commit_staging s (onDev (fetchFail r.val stTranslation) (snoopsUsed w))
  generalize commit s (onDev (fetchFail r.val stTranslation) (snoopsUsed w)) = t at *
  rw [onDev_dev, fetchFail_stops (by decide) he h3] at hall
  simp only [stagingOf, Prod.mk.injEq] at hall
  obtain ⟨tdescs, -, trings, -, -, tattn⟩ := hall
  rw [getRing_congr trings, hring, tattn, hseq, hattn, tdescs, hkept, hdescs]
  exact ⟨rfl, rfl, fun q hq => (getRing_congr trings q).trans ((hothers q hq).trans (getRing_congr hrings q)), rfl, rfl, hmem, hhost⟩

/-- Settles O41: the fetch's stage in its reads, its checks and what enters staging. -/
theorem fetchStagesOneDescriptor : Obligations.FetchStagesOneDescriptor := by
  intro r s hw x ctx
  refine ⟨fun hm => runWork_unchanged (f := descriptorFetch r.val) (if_pos (by rw [workOf_dev, hm]; rfl)),
    fun hm hfree => exec_fetch_noEntry hm hfree, fun hm hsome => ?_⟩
  have hfree : (stabFree s.dev (fetchCore r.val)).isNone = false := by rw [← Option.not_isSome, hsome]; rfl
  refine ⟨?_, fun a w h => fetch_stops hm hw h⟩
  intro first w1 h1 n
  refine ⟨fun hmode hn => exec_fetch_waits hm hfree (stage_short (w := workOf s) hfree h1 hmode hn), ?_⟩
  intro more w2 step w3 units w4 hn h2 h3 raw good y h4 z need
  obtain ⟨hstage, hview⟩ := stage_plans (w := workOf s) hfree h1 hn h2 h3
  have hy : fetchedDesc (workOf s).dev r.val step raw = y := rfl
  refine ⟨fun hq => exec_fetch_waits hm hfree (hstage.trans (fetchPlan_full hy h4 hq)), fun hq hgo => ?_, fun hq hgo => ?_⟩
  · have hsame : w4 = w3 := (plan_checked h4).resolve_right (not_not.mpr hgo)
    exact fetch_stages hm ⟨rfl, rfl, rfl⟩ rfl (hstage.trans (fetchPlan_enters hy h4 hq)) hw (hsame ▸ hview) hgo
  · exact fetch_aborts hm ⟨rfl, rfl, rfl⟩ rfl (hstage.trans (fetchPlan_enters hy h4 hq)) hgo

end Sys2Proof.Machine
end

section
/-! Decisions, back-off, quota windows and emergency use of the arbiters (R262, R265, R267, R268, R270). -/

namespace Sys2Proof.Machine

open Sys2Proof

/-! ### A loser's back-off (R268) -/

theorem backoffOf_req (a : ArbInst) (r : Requester) : (backoffOf a r).req = r := by
  unfold backoffOf
  cases h : a.backoff.find? (fun b => b.req = r) with
  | none => rfl
  | some b => simpa using List.find?_some h

/-- The back-off written holds what it holds, also where it is dropped because k = 0 and nothing is held. -/
theorem held_backoffOf_setBackoff (b : Backoff) (a : ArbInst) : (backoffOf (setBackoff b a) b.req).held = b.held := by
  have hrest : (a.backoff.filter (fun x => x.req ≠ b.req)).find? (fun x => x.req = b.req) = none := by
    simp [List.find?_eq_none]
  unfold backoffOf setBackoff
  dsimp only
  split
  next hk =>
    simp only [Bool.and_eq_true, decide_eq_true_eq, Option.isNone_iff_eq_none] at hk
    rw [hrest, hk.2]
    rfl
  next =>
    rw [List.find?_append, hrest, Option.none_or]
    simp

theorem backoffEnd_raises {i : Nat} {r : Requester} {q : ArbRequest} {v : Dev} (hq : (backoffOf (getArb v i) r).held = some q)
    (hd : (backoffOf (getArb v i) r).until_ ≤ (getArb v i).decision) :
    backoffEnd i r v = setArb i (setBackoff { backoffOf (getArb v i) r with held := none }
      { getArb v i with raised := (getArb v i).raised ++ [q] }) v := by
  simp only [backoffEnd, hq, if_pos hd]

theorem backoff_end (i : Fin 4792) (r : Requester) (b : Backoff) (q : ArbRequest) (s : State) (hr : s.dev.power.railsUp = true)
    (hb : backoffOf (getArb s.dev i.val) r = b) (hq : b.held = some q) (hd : b.until_ ≤ (getArb s.dev i.val).decision) :
    ∃ a, exec (.backoffEnd i r) s = .next { s with dev := { s.dev with arbs := tabPut {} s.dev.arbs i.val a } } ∧
      a.raised = (getArb s.dev i.val).raised ++ [q] ∧ (backoffOf a r).held = none := by
  subst hb
  refine ⟨_, runDev_eq ((powered_on _ hr).trans (backoffEnd_raises hq hd)), rfl, ?_⟩
  have hheld := held_backoffOf_setBackoff { backoffOf (getArb s.dev i.val) r with held := none }
    { getArb s.dev i.val with raised := (getArb s.dev i.val).raised ++ [q] }
  rwa [backoffOf_req] at hheld

/-! ### A quota window's start (R265) -/

theorem quotaWindow_start (i : Fin 4792) (s : State) (hr : s.dev.power.railsUp = true)
    (hw : (s.dev.arbRegs.getD (arbKind i.val) {}).window.toNat ≤ (getArb s.dev i.val).winPos) :
    exec (.quotaWindowStart i) s = .next { s with dev := { s.dev with
      arbs := tabPut {} s.dev.arbs i.val { getArb s.dev i.val with winPos := 0, counts := [] } } } := by
  have hroll : rollWindow s.dev (arbKind i.val) (getArb s.dev i.val) = { getArb s.dev i.val with winPos := 0, counts := [] } :=
    if_pos hw
  refine runDev_eq ((powered_on _ hr).trans ?_)
  rw [quotaWindowStart, hroll]
  rfl

/-! ### Emergency use (R270) -/

theorem emergencyMay_refresh {i : Nat} {v : Dev} (hi : i < 640) (hp : v.power.state ≠ .park) (ho : 8 ≤ (getChan v i).owed)
    (hs : (getChan v i).since = none) (he : (getArb v i).emergency = none) : emergencyMay i .refresh v = true := by
  simp [emergencyMay, refreshWaits, hi, hp, ho, hs, he]

/-- A refresh that revokes a transfer is counted, and occupies its channel from then on (R246, R270). -/
theorem emergencyRevoke_refresh {i moved : Nat} {g : Grant} {v : Dev} (hi : i < 640) (hmay : emergencyMay i .refresh v = true)
    (hg : (getArb v i).current = some g) (h1 : 1 ≤ moved) (hm : moved < g.beats) :
    emergencyRevoke i .refresh moved v = setChan i { getChan v i with since := some (now v) }
      (setArb i { getArb v i with
          emergency := some .refresh, current := none, replay := ⟨g.req, g.beats - moved⟩ :: (getArb v i).replay }
        (ctrAdd (0x200 + i / 32) 3 1 v)) := by
  have hmax : Nat.max 1 moved = moved := Nat.max_eq_right h1
  simp only [emergencyRevoke, hmay, hg, hmax, if_pos hi, if_pos hm]
  rfl

theorem emergency_revokes (i : Fin 4792) (g : Grant) (moved : Nat) (s : State) (hw : tabWf {} s.dev.arbs = true)
    (hr : s.dev.power.railsUp = true) (hp : s.dev.power.state ≠ .park) (hi : i.val < 640) (ho : 8 ≤ (getChan s.dev i.val).owed)
    (hs : (getChan s.dev i.val).since = none) (he : (getArb s.dev i.val).emergency = none)
    (hg : (getArb s.dev i.val).current = some g) (h1 : 1 ≤ moved) (hm : moved < g.beats) :
    ∃ t, exec (.emergencyRevoke i ⟨.refresh, moved⟩) s = .next t ∧
      getArb t.dev i.val = { getArb s.dev i.val with
        emergency := some .refresh, current := none
        replay := ⟨g.req, g.beats - moved⟩ :: (getArb s.dev i.val).replay } ∧
      t.mem = s.mem ∧ t.dev.descs = s.dev.descs :=
  have hmay := emergencyMay_refresh hi hp ho hs he
  ⟨_, runDev_eq ((powered_on _ hr).trans (emergencyRevoke_refresh hi hmay hg h1 hm)),
    getArb_setArb_same i.val _ (ctrAdd (0x200 + i.val / 32) 3 1 s.dev) hw, rfl, rfl⟩

theorem emergencyEnd_debug {i : Nat} {v : Dev} (he : (getArb v i).emergency = some .debug) (hw : refreshWaits i v = false) :
    emergencyEnd i v = setArb i { getArb v i with
      emergency := none
      current := (getArb v i).replay.head?.or (getArb v i).current
      replay := (getArb v i).replay.tail } v := by
  unfold emergencyEnd
  simp only [he, hw]
  cases ha : getArb v i with
  | mk _ _ _ _ _ _ _ _ replay _ => cases replay <;> rfl

theorem emergency_ends (i : Fin 4792) (s : State) (hr : s.dev.power.railsUp = true)
    (he : (getArb s.dev i.val).emergency = some .debug) (ho : i.val < 640 → (getChan s.dev i.val).owed < 8) :
    exec (.emergencyEnd i) s = .next { s with dev := { s.dev with arbs := tabPut {} s.dev.arbs i.val { getArb s.dev i.val with
      emergency := none
      current := (getArb s.dev i.val).replay.head?.or (getArb s.dev i.val).current
      replay := (getArb s.dev i.val).replay.tail } } } := by
  have hw : refreshWaits i.val s.dev = false := by
    simpa [refreshWaits] using ho
  exact runDev_eq ((powered_on _ hr).trans (emergencyEnd_debug he hw))

/-- Settles O33: back-off ends, a window starts, and an emergency use revokes a transfer that is replayed at its end. -/
theorem arbiterBacksOffAndReplays : Obligations.ArbiterBacksOffAndReplays :=
  ⟨backoff_end, quotaWindow_start, emergency_revokes, emergency_ends⟩

/-! ### A request listed twice (R261, R262, R268) -/

/-- A request of the COPY mover of a core, which loses to the armature processor's. -/
def copyRequest : ArbRequest := ⟨⟨.copy, 0⟩, .other, 1⟩

/-- A module that runs, whose DRAM channel 0 lists the armature processor's request once and the COPY mover's twice. -/
def listedTwice : State :=
  { dev := { power := { state := .active, railsUp := true, rbHigh := true }
             arbs := [(0, { raised := [⟨⟨.arm, 0⟩, .other, 1⟩, copyRequest, copyRequest] })] } }

/-- The request listed twice loses twice to one winner, so that its requester sits out two more decisions with k = 2. -/
theorem arbDecide_listedTwice : getArb (powered (arbDecide 0 [] []) listedTwice.dev) 0 =
    { decision := 1, winPos := 1, counts := [(⟨.arm, 0⟩, 1)], rank := [⟨.arm, 0⟩], decided := some ⟨⟨.arm, 0⟩, 1⟩
      backoff := [{ req := ⟨.copy, 0⟩, k := 2, until_ := 3, held := some copyRequest }] } := by
  decide

/-- Refutes O32: a list of raised requests may hold one request twice, as nothing there forbids. Each listing loses the same
decision, so the requester's k after it is 2 and not 1. -/
theorem not_arbiterDecidesByClass : ¬ Obligations.ArbiterDecidesByClass := by
  intro h
  obtain ⟨t, win, b, ht, rfl, -, hdecided, -, -, -, -, -, -, hloses, -⟩ :=
    h 0 listedTwice (by decide) rfl (by decide) (by decide) rfl rfl rfl rfl (by decide) (by decide) (by decide) (by decide)
  have hat : getArb t.dev 0 = _ :=
    (congrArg (getArb · 0) (runDev_dev (f := powered (arbDecide 0 [] [])) ht)).trans arbDecide_listedTwice
  change (getArb t.dev 0).decided = _ at hdecided
  rw [hat] at hdecided
  have hwin : (⟨.arm, 0⟩ : Requester) = win.req := congrArg Grant.req (Option.some.inj hdecided)
  obtain ⟨k, hk, -, hk1, -⟩ := hloses copyRequest (by decide) (by rw [← hwin]; decide) (.inl (by decide)) (by decide)
  change k ∈ (getArb t.dev 0).backoff at hk
  rw [hat, List.mem_singleton] at hk
  subst hk
  exact absurd hk1 (by decide)

end Sys2Proof.Machine
end

section
/-! The link (R279, R291, R293 to R297, R316) and the snoops of the directory's lines (R285): what an answer lets go on where nothing
waits, the doorbell lines asked for again, and the resets told of. -/

namespace Sys2Proof.Machine

open Sys2Proof

/-! ### What waited is tried again (R26) -/

theorem rxDrain_idle {w : Work} (h : w.dev.fab.rxWaits = []) : rxDrain w = w := by
  have hw : onDev (fun v => { v with fab := { v.fab with rxWaits := [] } }) w = w := by
    rw [← h]
    rfl
  rw [rxDrain, h, hw]
  rfl

theorem mirrorDrain_idle {w : Work} (h : w.dev.ctr.mirrorWaits = []) : mirrorDrain w = w := by
  have hw : onDev (fun v => { v with ctr := { v.ctr with mirrorWaits := [] } }) w = w := by
    rw [← h]
    rfl
  rw [mirrorDrain, h, hw]
  rfl

theorem ctrDrain_idle {w : Work} (h : w.dev.ctr.queue = []) : ctrDrain w = w := by
  have hstep : ctrStep w = w := by rw [ctrStep, h]
  exact List.foldl_fixed' (fun _ => hstep) (upto 8)

theorem waitsDrain_idle {w : Work} (h : NothingWaits w.dev) : waitsDrain w = w := by
  obtain ⟨hqueue, hmirrors, hdump, hframes⟩ := h
  rw [waitsDrain, ctrDrain_idle hqueue, mirrorDrain_idle hmirrors, rxDrain_idle hframes]
  exact if_neg (Bool.eq_false_iff.mp hdump)

/-- A change of the device after which nothing waits. -/
theorem runWork_waitsDrain_idle {f : Dev → Dev} {s : State} (h : NothingWaits (f s.dev)) :
    runWork (fun w => waitsDrain (onDev f w)) s = .next { s with dev := f s.dev } :=
  runWork_unchanged (s := { s with dev := f s.dev }) (waitsDrain_idle h)

/-! ### Doorbell lines asked for again (R295, R316, R319) -/

/-- The registered doorbell lines that are not held. -/
def unheldLines (l : Tab DbLine) : Tab DbLine := l.filter (fun c => c.2.valid && !c.2.held)

/-- The timers with the polls of lines due at a time. -/
def pollsAt (x : W64) (l : Tab DbLine) (t : Tab W64) : Tab W64 := l.foldl (fun t c => tabPut 0 t (tmPoll c.1) x) t

theorem reacquireLines_unheld (v : Dev) : reacquireLines v = (unheldLines v.dbLines).foldl (fun v c =>
    if v.cxl.cacheEn then emit (.rdShared c.1) v
    else { v with timers := tabPut 0 v.timers (tmPoll c.1) (now v - v.attn.pollInterval.setWidth 64) }) v := by
  rw [unheldLines, List.foldl_filter, reacquireLines]
  congr 1
  funext u c
  cases c.2.valid <;> cases c.2.held <;> rfl

theorem reacquireLines_cached {v : Dev} (h : v.cxl.cacheEn = true) :
    reacquireLines v = { v with out := v.out ++ (unheldLines v.dbLines).map (fun c => .rdShared c.1) } := by
  rw [reacquireLines_unheld]
  generalize unheldLines v.dbLines = l
  induction l generalizing v with
  | nil => rw [List.map_nil, List.append_nil, List.foldl_nil]
  | cons c l ih =>
    rw [List.foldl_cons, if_pos h, ih (v := emit (.rdShared c.1) v) h, List.map_cons]
    simp only [emit, List.append_assoc, List.singleton_append]

theorem reacquireLines_polled {v : Dev} (h : v.cxl.cacheEn = false) : reacquireLines v =
    { v with timers := pollsAt (now v - v.attn.pollInterval.setWidth 64) (unheldLines v.dbLines) v.timers } := by
  rw [reacquireLines_unheld]
  generalize unheldLines v.dbLines = l
  induction l generalizing v with
  | nil => rfl
  | cons c l ih =>
    rw [List.foldl_cons, if_neg (Bool.eq_false_iff.mp h),
      ih (v := { v with timers := tabPut 0 v.timers (tmPoll c.1) (now v - v.attn.pollInterval.setWidth 64) }) h]
    rfl

theorem pollsAt_other (x : W64) {k : Nat} : ∀ (l : Tab DbLine) (t : Tab W64), (∀ c ∈ l, k ≠ tmPoll c.1) →
    tabGet 0 (pollsAt x l t) k = tabGet 0 t k
  | [], _, _ => rfl
  | c :: l, t, h => (pollsAt_other x l _ fun d hd => h d (List.mem_cons_of_mem c hd)).trans
      (tabGet_tabPut_other 0 x t (tmPoll c.1) k (h c (List.mem_cons_self ..)))

theorem pollsAt_line (x : W64) {i : Nat} : ∀ (l : Tab DbLine) (t : Tab W64), tabWf 0 t = true → (∃ c ∈ l, c.1 = i) →
    tabGet 0 (pollsAt x l t) (tmPoll i) = x
  | [], _, _, h => absurd h (by simp)
  | c :: l, t, hw, h => by
    rw [pollsAt, List.foldl_cons, ← pollsAt]
    by_cases hl : ∃ d ∈ l, d.1 = i
    · exact pollsAt_line x l _ (tabPut_wf 0 t _ x hw) hl
    · have hc : c.1 = i := by simpa [hl] using h
      rw [pollsAt_other x l _ fun d hd hk => hl ⟨d, hd, by simpa [tmPoll] using hk.symm⟩, hc]
      exact tabGet_tabPut_same 0 t (tmPoll i) x hw

/-- What a canonical table lists at a key is what it reads there. -/
theorem tabGet_of_mem {α : Type} [DecidableEq α] {d : α} {k : Nat} {v : α} : ∀ {t : Tab α} {lo : Nat}, tabWfFrom d lo t = true →
    (k, v) ∈ t → lo ≤ k ∧ tabGet d t k = v
  | (j, u) :: t, lo, hw, hm => by
    simp only [tabWfFrom, Bool.and_eq_true, decide_eq_true_eq] at hw
    obtain ⟨⟨hlo, -⟩, ht⟩ := hw
    rcases List.mem_cons.mp hm with he | hm
    · cases he
      exact ⟨hlo, if_pos rfl⟩
    · obtain ⟨hk, hv⟩ := tabGet_of_mem ht hm
      exact ⟨by omega, (if_neg (by omega)).trans hv⟩

/-- The timers once the lines are asked for again: every line that is not held has a poll due, unless CXL.cache asks for them. -/
def askedTimers (v : Dev) : Tab W64 :=
  if v.cxl.cacheEn then v.timers
  else pollsAt (now v - v.attn.pollInterval.setWidth 64) (unheldLines v.dbLines) v.timers

/-- The numbers of the registered doorbell lines. -/
def registeredLines (l : Tab DbLine) : List Nat := (l.filter (fun c => c.2.valid)).map (·.1)

theorem reacquireLines_eq (v : Dev) : reacquireLines v = { v with
    timers := askedTimers v
    out := v.out ++ if v.cxl.cacheEn then (unheldLines v.dbLines).map (fun c => .rdShared c.1) else [] } := by
  cases h : v.cxl.cacheEn with
  | true =>
    rw [reacquireLines_cached h, askedTimers, if_pos h]
    rfl
  | false =>
    rw [reacquireLines_polled h, askedTimers, if_neg (Bool.eq_false_iff.mp h), if_neg Bool.false_ne_true, List.append_nil]

theorem registered_of_unheld {l : Tab DbLine} {c : Nat × DbLine} (h : c ∈ unheldLines l) : c.1 ∈ registeredLines l := by
  obtain ⟨hc, ht⟩ := List.mem_filter.mp h
  exact List.mem_map_of_mem (List.mem_filter.mpr ⟨hc, (Bool.and_eq_true_iff.mp ht).1⟩)

theorem unheld_of_registered {v : Dev} {i : Nat} (hw : tabWf {} v.dbLines = true) (hi : i ∈ registeredLines v.dbLines)
    (hh : (getDb v i).held = false) : ∃ c ∈ unheldLines v.dbLines, c.1 = i := by
  obtain ⟨c, hc, rfl⟩ := List.mem_map.mp hi
  obtain ⟨hc, hv⟩ := List.mem_filter.mp hc
  rw [getDb, (tabGet_of_mem hw hc).2] at hh
  exact ⟨c, List.mem_filter.mpr ⟨hc, by rw [hv, hh]; rfl⟩, rfl⟩

section
variable {v : Dev}

theorem askedTimers_line {i : Nat} (ht : tabWf 0 v.timers = true) (hw : tabWf {} v.dbLines = true) (hc : v.cxl.cacheEn = false)
    (hi : i ∈ registeredLines v.dbLines) (hh : (getDb v i).held = false) :
    tabGet 0 (askedTimers v) (tmPoll i) = v.pace.time - v.attn.pollInterval.setWidth 64 := by
  rw [askedTimers, if_neg (Bool.eq_false_iff.mp hc)]
  exact pollsAt_line _ _ _ ht (unheld_of_registered hw hi hh)

theorem askedTimers_other {k : Nat} (h : ∀ i ∈ registeredLines v.dbLines, k ≠ tmPoll i) :
    tabGet 0 (askedTimers v) k = tabGet 0 v.timers k := by
  unfold askedTimers
  split
  · rfl
  · exact pollsAt_other _ _ _ fun c hc => h c.1 (registered_of_unheld hc)

theorem askedTimers_same (h : v.cxl.cacheEn = true ∨ registeredLines v.dbLines = []) : askedTimers v = v.timers := by
  unfold askedTimers
  split
  · rfl
  next hc =>
    have hnone : unheldLines v.dbLines = [] := List.eq_nil_iff_forall_not_mem.mpr fun c hc' =>
      List.not_mem_nil (h.resolve_left hc ▸ registered_of_unheld hc')
    rw [hnone]
    rfl

end

/-! ### CXL_LINK_UP (R279, R295, R297) -/

/-- The link as it comes up at a rate and width. -/
def trainedCxl (rate : CxlRate) (x16 flit : Bool) (v : Dev) : Cxl :=
  { v.cxl with
    linkUp := true, linkWasReset := false, cxlMode := flit, rereads := registeredLines v.dbLines
    resetsDue := v.cxl.resetsDue + if v.cxl.linkWasReset then 1 else 0
    rate := rateCode rate, width := if x16 then 2 else 1 }

/-- The device whose link is up, with its doorbell lines asked for again. -/
def linkedDev (rate : CxlRate) (x16 flit : Bool) (v : Dev) : Dev :=
  { v with
    timers := askedTimers v
    out := v.out ++ if v.cxl.cacheEn then (unheldLines v.dbLines).map (fun c => .rdShared c.1) else []
    cxl := trainedCxl rate x16 flit v }

theorem cxlLinkUp_trains {rate : CxlRate} {x16 flit : Bool} {v : Dev} (hd : v.cxl.linkUp = false) (hc : v.cxl.configLive = true)
    (hp : v.power.perstLow = false) (hr : v.power.railsUp = true) :
    cxlLinkUp rate x16 flit v = resetsTold (linkedDev rate x16 flit v) := by
  have htrained : setCxl (fun c => { c with
      linkUp := true, rate := rateCode rate, width := if x16 then 2 else 1, cxlMode := flit, linkWasReset := false
      rereads := (v.dbLines.filter (fun l => l.2.valid)).map (·.1)
      resetsDue := if v.cxl.linkWasReset then c.resetsDue + 1 else c.resetsDue }) v = { v with cxl := trainedCxl rate x16 flit v } := by
    unfold trainedCxl
    cases v.cxl.linkWasReset <;> rfl
  unfold cxlLinkUp
  rw [if_neg (by simp [hd, hc, hp, hr])]
  dsimp only
  rw [htrained, reacquireLines_eq]
  rfl

/-- No reset is told of while a line is to be read again, nor where none is due (R295). -/
theorem resetsTold_untold {v : Dev} (h : v.cxl.rereads ≠ [] ∨ v.cxl.resetsDue = 0) : resetsTold v = v := by
  unfold resetsTold
  split
  next he =>
    have hdue : v.cxl.resetsDue = 0 := h.resolve_left (not_not.mpr (List.isEmpty_iff.mp he))
    have hsame : setCxl (fun c => { c with resetsDue := 0 }) v = v := by
      rw [← hdue]
      rfl
    rw [hdue]
    exact hsame
  next => rfl

/-- LINK_RESETS counted on, and its event raised (R295). -/
theorem resetsTold_once {v : Dev} (hl : v.cxl.rereads = []) (hd : v.cxl.resetsDue = 1) : resetsTold v =
    raise 0x0005 0 [satAdd v.cxl.linkResets 1]
      { v with cxl := { v.cxl with resetsDue := 0, linkResets := satAdd v.cxl.linkResets 1 } } := by
  unfold resetsTold
  rw [hl, hd]
  rfl

theorem nothingWaits_raise {v : Dev} (h : NothingWaits v) (code ctx : Nat) (payload : List Byte) :
    NothingWaits (raise code ctx payload v) := by
  obtain ⟨hqueue, hmirrors, hdump, hframes⟩ := h
  unfold raise ctrHigh trcCause
  dsimp only
  repeat' split
  all_goals exact ⟨hqueue, hmirrors, hdump, hframes⟩

section
variable {rate : CxlRate} {x16 flit : Bool} {s : State} (hd : s.dev.cxl.linkUp = false) (hc : s.dev.cxl.configLive = true)
  (hp : s.dev.power.perstLow = false) (hr : s.dev.power.railsUp = true)
include hd hc hp hr

theorem exec_cxlLinkUp_untold
    (h : registeredLines s.dev.dbLines ≠ [] ∨ (trainedCxl rate x16 flit s.dev).resetsDue = 0) :
    exec (.cxlLinkUp rate x16 flit) s = runWork waitsDrain { s with dev := linkedDev rate x16 flit s.dev } :=
  congrArg (fun v => runWork waitsDrain { s with dev := v })
    ((cxlLinkUp_trains hd hc hp hr).trans (resetsTold_untold (v := linkedDev rate x16 flit s.dev) h))

/-- The device whose link is up, with its reset counted, before the event is raised. -/
def countedDev (rate : CxlRate) (x16 flit : Bool) (v : Dev) : Dev :=
  { linkedDev rate x16 flit v with
    cxl := { trainedCxl rate x16 flit v with resetsDue := 0, linkResets := satAdd v.cxl.linkResets 1 } }

theorem exec_cxlLinkUp_told (hl : registeredLines s.dev.dbLines = []) (h1 : (trainedCxl rate x16 flit s.dev).resetsDue = 1)
    (hw : NothingWaits s.dev) : exec (.cxlLinkUp rate x16 flit) s = .next { s with
      dev := raise 0x0005 0 [satAdd s.dev.cxl.linkResets 1] (countedDev rate x16 flit s.dev) } := by
  have htold : cxlLinkUp rate x16 flit s.dev = raise 0x0005 0 [satAdd s.dev.cxl.linkResets 1] (countedDev rate x16 flit s.dev) :=
    (cxlLinkUp_trains hd hc hp hr).trans (resetsTold_once (v := linkedDev rate x16 flit s.dev) hl h1)
  have hwaits : NothingWaits (countedDev rate x16 flit s.dev) := hw
  refine (runWork_waitsDrain_idle (f := cxlLinkUp rate x16 flit) ?_).trans (by rw [htold])
  rw [htold]
  exact nothingWaits_raise hwaits ..

end

/-! ### LINK_RESET and IDE_MAC_FAILURE (R291, R293) -/

theorem linkReset_up {v : Dev} (h : v.cxl.linkUp = true) : linkReset v = { v with
    dbLines := tabMap {} (fun _ l => { l with held := false }) v.dbLines
    cxl := { v.cxl with
      linkUp := false, rate := 0, width := 0, cxlMode := false, cacheEn := false, memEn := false, ideCm := false
      ideIo := false, busMaster := false, linkWasReset := true, dec0 := {}, dec1 := {}, atc := [], invals := []
      config := {}, ideKeys := false, mailboxes := [{}, {}, {}]
      directory := v.cxl.directory.map (fun e => { e with snoop := .idle }) } } := by
  unfold linkReset
  rw [if_neg (by simp [h])]
  rfl

theorem ideMacFailure_up {v : Dev} (h : v.cxl.linkUp = true) (hs : (v.cxl.ideCm || v.cxl.ideIo) = true) :
    ideMacFailure v = linkReset (setCxl (fun c => { c with ideFailures := c.ideFailures + 1 }) v) := by
  unfold ideMacFailure
  rw [if_neg (by simp only [h, hs]; decide)]

/-- Settles O12: the link trains and asks for its lines, a reset is told of once none is to be read again, and a reset of the link. -/
theorem linkComesUpAndResets : Obligations.LinkComesUpAndResets := by
  refine ⟨fun rate x16 flit s hd hc hp hr => ?_, fun s hl => ?_⟩
  · intro lines up
    have hup : up = trainedCxl rate x16 flit s.dev := by cases rate <;> rfl
    clear_value up
    subst hup
    refine ⟨⟨askedTimers s.dev, fun ht hw hc i hi hh => askedTimers_line ht hw hc hi hh, fun k hk => askedTimers_other hk,
      askedTimers_same, fun h => ⟨exec_cxlLinkUp_untold hd hc hp hr h, fun hw => ?_⟩⟩, fun hl h1 hw => ?_⟩
    · exact (exec_cxlLinkUp_untold hd hc hp hr h).trans
        (runWork_unchanged (s := { s with dev := linkedDev rate x16 flit s.dev }) (waitsDrain_idle hw))
    · have honly := raise_only 0x0005 0 [satAdd s.dev.cxl.linkResets 1] (countedDev rate x16 flit s.dev)
      exact ⟨_, exec_cxlLinkUp_told hd hc hp hr hl h1 hw, congrArg Dev.cxl honly, raise_seq ..,
        fun hroom => congrArg Attn.held (raise_attn _ _ _ (countedDev rate x16 flit s.dev) hroom), (congrArg Dev.rings honly :),
        (congrArg Dev.ctxs honly :), (congrArg Dev.descs honly :), rfl, rfl⟩
  · exact ⟨runDev_eq (linkReset_up hl), fun hs => runDev_eq ((ideMacFailure_up hl hs).trans (linkReset_up hl))⟩

/-! ### CXL_ENABLE (R294, R316) and the directory's snoops (R285) -/

theorem cxlEnable_up {v : Dev} (hl : v.cxl.linkUp = true) (hm : v.cxl.cxlMode = true) (ha : v.cxl.memoryActive = true)
    (hf : v.arm.firmware = true) : cxlEnable v = { v with
      cxl := { v.cxl with cacheEn := true, memEn := true }
      out := v.out ++ (unheldLines v.dbLines).map (fun c => .rdShared c.1) } := by
  unfold cxlEnable
  rw [if_neg (by simp [hl, hm, ha, hf])]
  exact reacquireLines_cached rfl

theorem backInvalidate_idle {line : Nat} {write : Bool} {e : DirEntry} {v : Dev} (hl : v.cxl.linkUp = true)
    (he : dirEntry v line = some e) (hs : e.snoop = .idle) : backInvalidate line write v =
      emit (.bisnp line write) (setCxl (fun c => { c with directory := c.directory.map (fun x =>
        if x.line = line then { x with snoop := if write then .invSent else .dataSent } else x) }) v) := by
  unfold backInvalidate
  simp only [he, hl, hs]
  rfl

theorem birsp_dataSent {line : Nat} {e : DirEntry} {v : Dev} (he : dirEntry v line = some e) (hs : e.snoop = .dataSent) :
    birsp line v = setCxl (fun c => { c with directory := c.directory.map (fun x =>
      if x.line = line then { x with snoop := .dataDone } else x) }) v := by
  simp only [birsp, he, hs]

theorem birsp_invSent {line : Nat} {e : DirEntry} {v : Dev} (he : dirEntry v line = some e) (hs : e.snoop = .invSent) :
    birsp line v = setCxl (fun c => { c with directory := c.directory.filter (fun x => x.line ≠ line) }) v := by
  simp only [birsp, he, hs]

theorem exec_birspReceived {line : Nat} {c : Cxl} {s : State} (hw : NothingWaits s.dev) (h : birsp line s.dev = { s.dev with cxl := c }) :
    exec (.birspReceived line) s = .next { s with dev := { s.dev with cxl := c } } := by
  refine (runWork_waitsDrain_idle (f := birsp line) ?_).trans (by rw [h])
  rw [h]
  exact hw

/-- Settles O13: CXL.cache let on with every unheld line asked for, and a line's snoop from its request to its answer. -/
theorem cacheLinesAreAcquiredAndReleased : Obligations.CacheLinesAreAcquiredAndReleased :=
  ⟨fun _ hl hm ha hf => runDev_eq (cxlEnable_up hl hm ha hf), fun _ _ _ _ hl he =>
    ⟨fun hs => runDev_eq (backInvalidate_idle hl he hs), fun hw hs => exec_birspReceived hw (birsp_dataSent he hs),
      fun hw hs => exec_birspReceived hw (birsp_invSent he hs)⟩⟩

end Sys2Proof.Machine
end

section
/-! Host accesses to device memory (R283 to R287): what a read answers, the reserved top of a core store, and the bytes that a masked
write stores. -/

namespace Sys2Proof.Machine

open Sys2Proof

/-! ### Bytes read and stored -/

theorem peeks_eq_map (sp : Space) : ∀ (n a : Nat) (w : Work), peeks sp a n w = (upto n).map (fun i => peek sp (a + i) w)
  | 0, _, _ => rfl
  | n + 1, a, w => by
    have hupto : upto (n + 1) = 0 :: (upto n).map Nat.succ := List.range_succ_eq_map
    rw [peeks, peeks_eq_map sp n, hupto, List.map_cons, List.map_map]
    simp only [Nat.add_zero, Function.comp_def, Nat.succ_eq_add_one, Nat.add_assoc, Nat.add_comm 1]

/-- A memory that is not stored to stays as it was. -/
theorem applyStores_elsewhere (sp : Space) (d : Byte) (m : List Host.Cell) :
    ∀ {l : List Store}, (∀ x ∈ l, x.space ≠ sp) → applyStores sp d m l = m
  | [], _ => rfl
  | x :: l, h => by
    rw [applyStores, if_neg (h x (List.mem_cons_self ..))]
    exact applyStores_elsewhere sp d m fun y hy => h y (List.mem_cons_of_mem x hy)

theorem storeAt_eq_none {sp : Space} {a : Nat} : ∀ {l : List Store}, (∀ x ∈ l, ¬(x.space = sp ∧ x.addr = a)) →
    storeAt sp a l = none
  | [], _ => rfl
  | x :: l, h => by
    rw [storeAt_cons, if_neg (h x (List.mem_cons_self ..))]
    exact storeAt_eq_none fun y hy => h y (List.mem_cons_of_mem x hy)

/-- Where every store to an address is of one byte, that is the latest. -/
theorem storeAt_eq_some {sp : Space} {a : Nat} {b : Byte} : ∀ {l : List Store}, (∃ x ∈ l, x.space = sp ∧ x.addr = a) →
    (∀ x ∈ l, x.addr = a → x.byte = b) → storeAt sp a l = some b
  | [], h, _ => absurd h (by simp)
  | x :: l, h, hb => by
    rw [storeAt_cons]
    split
    next hx => rw [hb x (List.mem_cons_self ..) hx.2]
    next hx => exact storeAt_eq_some (by simpa [hx] using h) fun y hy => hb y (List.mem_cons_of_mem x hy)

/-! ### The directory (R285) -/

theorem dirAllocate_only (line : Nat) (v : Dev) : dirAllocate line v = { v with
    cxl := (dirAllocate line v).cxl, out := (dirAllocate line v).out } := by
  unfold dirAllocate
  dsimp only
  repeat' split
  all_goals rfl

/-- A line that the host has read stands in the directory, and no snoop of it is under way. -/
theorem dirAllocate_lists (line : Nat) (v : Dev) : ∃ e ∈ (dirAllocate line v).cxl.directory, e.line = line ∧ e.snoop = .idle := by
  unfold dirAllocate
  dsimp only
  split
  next h =>
    obtain ⟨e, he, ht⟩ := List.any_eq_true.mp h
    have hline : e.line = line := of_decide_eq_true (Bool.and_eq_true_iff.mp ht).1
    exact ⟨_, List.mem_map_of_mem he, by rw [if_pos hline]; exact ⟨hline, rfl⟩⟩
  next => exact ⟨{ line := line }, List.mem_append_right _ (List.mem_singleton.mpr rfl), rfl, rfl⟩

/-! ### HDM_READ -/

section
variable {h a : Nat} {w : Work} (hl : w.dev.cxl.linkUp = true) (he : w.dev.cxl.memEn = true) (hm : w.dev.cxl.memoryActive = true)
  (hd : hdmDecode w.dev h = some a)
include hl he hm hd

theorem hdmRead_reserved (hr : reservedTop a = true) : hdmRead h w =
    onDev (fun v => emit (.hdmData h (List.replicate 64 0xFF)) (setCxl (fun c => { c with rsvdAccess := satAdd c.rsvdAccess 1 }) v))
      (onDev (ctrAdd 0x3FF 2 64) w) := by
  simp [hdmRead, hl, he, hm, hd, hr]

/-- The work of a read once its line is in the directory. -/
def lineRead (a : Nat) (w : Work) : Work := onDev (dirAllocate (a / 64)) (onDev (ctrAdd 0x3FF 2 64) w)

theorem hdmRead_good (hr : reservedTop a = false) (hu : ∀ u ∈ lineUnits a, isUe w.dev u = false) : hdmRead h w =
    onDev (emit (.hdmData h (peeks .dev a 64 (lineRead a w)))) (lineRead a w) := by
  have hfind : (lineUnits a).find? (fun u => isUe w.dev u) = none := List.find?_eq_none.mpr fun u hm => by simp [hu u hm]
  simp [hdmRead, hl, he, hm, hd, hr, hfind, lineRead]

end

theorem peek_lineRead (sp : Space) (x a : Nat) (w : Work) : peek sp x (lineRead a w) = peek sp x w := by
  have hall := dirAllocate_only (a / 64) (onDev (ctrAdd 0x3FF 2 64) w).dev
  refine (peek_onDev sp x (dirAllocate (a / 64)) _ ?_ ?_).trans (peek_onDev sp x (ctrAdd 0x3FF 2 64) w rfl rfl)
  · exact (congrArg Dev.power hall :)
  · exact (congrArg Dev.free hall :)

/-- Settles O14: a read allocates its line, which changes no byte, and answers what the line's bytes read as. -/
theorem hdmReadAnswersTheLine : Obligations.HdmReadAnswersTheLine := by
  intro h a s hl he hm hd hr hu
  have hread : hdmRead h (workOf s) = _ := hdmRead_good hl he hm hd hr hu
  have hall := dirAllocate_only (a / 64) (onDev (ctrAdd 0x3FF 2 64) (workOf s)).dev
  obtain ⟨e, hmem, hline, hidle⟩ := dirAllocate_lists (a / 64) (onDev (ctrAdd 0x3FF 2 64) (workOf s)).dev
  refine ⟨_, (runWork_eq hread).trans (congrArg _ (commit_noStores s _ rfl rfl)), ?_, ⟨e, hmem, hline, hidle⟩, rfl, rfl, rfl,
    (congrArg Dev.ue hall :), (congrArg Dev.attn hall :), (congrArg Dev.rings hall :), (congrArg Dev.ctxs hall :),
    (congrArg Dev.descs hall :)⟩
  refine List.getLast?_concat.trans ?_
  rw [peeks_eq_map]
  simp only [peek_lineRead, peek_workOf_dev]
  rfl

/-! ### HDM_WRITE -/

section
variable {h a : Nat} {line : List Byte} {mask : W64} {w : Work} (hl : w.dev.cxl.linkUp = true) (he : w.dev.cxl.memEn = true)
  (hm : w.dev.cxl.memoryActive = true) (hd : hdmDecode w.dev h = some a)
include hl he hm hd

theorem hdmWrite_reserved (poison : Bool) (hr : reservedTop a = true) : hdmWrite h line mask poison w =
    onDev (fun v => emit (.hdmDone h) (setCxl (fun c => { c with
      rsvdAccess := satAdd c.rsvdAccess 1
      poisonDropped := if poison then satAdd c.poisonDropped 1 else c.poisonDropped }) v)) (onDev (ctrAdd 0x3FF 2 64) w) := by
  cases poison <;> simp [hdmWrite, hl, he, hm, hd, hr] <;> rfl

theorem hdmWrite_units (hr : reservedTop a = false) (hu : ∀ u ∈ lineUnits a, isUe w.dev u = false) : hdmWrite h line mask false w =
    onDev (emit (.hdmDone h)) ((lineUnits a).foldl (hdmWriteUnit a line mask) (onDev (ctrAdd 0x3FF 2 64) w)) := by
  have hfind : (lineUnits a).find? (fun u =>
      isUe w.dev u && maskTouches mask (u - a) (granule a) && !maskCovers mask (u - a) (granule a)) = none :=
    List.find?_eq_none.mpr fun u hm => by simp [hu u hm]
  simp [hdmWrite, hl, he, hm, hd, hr, hfind]

end

/-- Settles O15: a read of the reserved top answers ones and a write is done with, each counted. -/
theorem reservedTopIsClosedToTheHost : Obligations.ReservedTopIsClosedToTheHost := by
  intro h a line mask s hl he hm hd hr
  have hread : hdmRead h (workOf s) = _ := hdmRead_reserved hl he hm hd hr
  have hwrite (poison : Bool) : hdmWrite h line mask poison (workOf s) = _ := hdmWrite_reserved hl he hm hd poison hr
  exact ⟨⟨_, (runWork_eq hread).trans (congrArg _ (commit_noStores s _ rfl rfl)), rfl, rfl, rfl, rfl⟩, fun poison =>
    ⟨_, (runWork_eq (hwrite poison)).trans (congrArg _ (commit_noStores s _ rfl rfl)), rfl, rfl, rfl, rfl⟩⟩

/-- One byte of a masked write of the line at `a`. -/
def maskedByte (a : Nat) (line : List Byte) (mask : W64) (w : Work) (i : Nat) : Work :=
  if mask.getLsbD i then poke .dev (a + i) (line.getD i 0) w else w

theorem hdmWriteUnit_good {a o : Nat} (line : List Byte) (mask : W64) {w : Work} (h : isUe w.dev (a + o) = false) :
    hdmWriteUnit a line mask w (a + o) = ((upto (granule a)).map (o + ·)).foldl (maskedByte a line mask) w := by
  rw [List.foldl_map]
  simp [hdmWriteUnit, h, maskedByte, Nat.add_assoc]

/-- The stores that a masked write makes at the places `l` of a line, in their order. -/
def maskedStores (a : Nat) (line : List Byte) (mask : W64) (l : List Nat) : List Store :=
  (l.filter (fun i => mask.getLsbD i)).map (fun i => ⟨.dev, a + i, line.getD i 0⟩)

section
variable {a : Nat} {line : List Byte} {mask : W64}

theorem foldl_maskedByte : ∀ (l : List Nat) (w : Work),
    l.foldl (maskedByte a line mask) w = { w with stores := (maskedStores a line mask l).reverse ++ w.stores }
  | [], _ => rfl
  | i :: l, w => by
    rw [List.foldl_cons, foldl_maskedByte l, maskedByte, maskedStores, maskedStores, List.filter_cons]
    split
    · simp only [poke, List.map_cons, List.reverse_cons, List.append_assoc, List.singleton_append]
    · rfl

theorem mem_maskedStores {l : List Nat} {x : Store} : x ∈ (maskedStores a line mask l).reverse ↔
    ∃ i ∈ l, mask.getLsbD i = true ∧ x = ⟨.dev, a + i, line.getD i 0⟩ := by
  simp only [maskedStores, List.mem_reverse, List.mem_map, List.mem_filter, and_assoc, eq_comm]

theorem storeAt_maskedStores {l : List Nat} {i : Nat} (hi : i ∈ l) : storeAt .dev (a + i) (maskedStores a line mask l).reverse =
    if mask.getLsbD i then some (line.getD i 0) else none := by
  split
  next hm =>
    refine storeAt_eq_some ⟨_, mem_maskedStores.mpr ⟨i, hi, hm, rfl⟩, rfl, rfl⟩ fun x hx hat => ?_
    obtain ⟨j, -, -, rfl⟩ := mem_maskedStores.mp hx
    rw [Nat.add_left_cancel hat]
  next hm =>
    refine storeAt_eq_none fun x hx hat => ?_
    obtain ⟨j, -, hj, rfl⟩ := mem_maskedStores.mp hx
    exact hm (Nat.add_left_cancel hat.2 ▸ hj)

theorem storeAt_maskedStores_outside {n x : Nat} (h : x < a ∨ a + n ≤ x) :
    storeAt .dev x (maskedStores a line mask (upto n)).reverse = none := by
  refine storeAt_eq_none fun y hy hat => ?_
  obtain ⟨j, hj, -, rfl⟩ := mem_maskedStores.mp hy
  have hlt : j < n := List.mem_range.mp hj
  have hx : a + j = x := hat.2
  omega

end

/-- The places of a line, taken unit by unit. -/
theorem lineUnits_places (a : Nat) : (upto (64 / granule a)).flatMap (fun k => (upto (granule a)).map (granule a * k + ·)) = upto 64 := by
  rcases (show granule a = 32 ∨ granule a = 8 from ite_eq_or_eq ..) with h | h <;> rw [h] <;> decide

/-- Good units written one after another are their places written. -/
theorem foldl_goodUnits {a : Nat} {line : List Byte} {mask : W64} : ∀ (l : List Nat) (w : Work),
    (∀ k ∈ l, isUe w.dev (a + granule a * k) = false) →
    (l.map (fun k => a + granule a * k)).foldl (hdmWriteUnit a line mask) w =
      (l.flatMap (fun k => (upto (granule a)).map (granule a * k + ·))).foldl (maskedByte a line mask) w
  | [], _, _ => rfl
  | k :: l, w, h => by
    have hdev : (((upto (granule a)).map (granule a * k + ·)).foldl (maskedByte a line mask) w).dev = w.dev := by
      rw [foldl_maskedByte]
    rw [List.map_cons, List.foldl_cons, List.flatMap_cons, List.foldl_append, hdmWriteUnit_good line mask (h k (List.mem_cons_self ..))]
    exact foldl_goodUnits l _ fun j hj => by rw [hdev]; exact h j (List.mem_cons_of_mem k hj)

/-- A write of a line of good words is the write of its places. -/
theorem foldl_lineUnits (a : Nat) (line : List Byte) (mask : W64) {w : Work} (h : ∀ u ∈ lineUnits a, isUe w.dev u = false) :
    (lineUnits a).foldl (hdmWriteUnit a line mask) w = (upto 64).foldl (maskedByte a line mask) w := by
  rw [← lineUnits_places a]
  exact foldl_goodUnits _ w fun k hk => h _ (List.mem_map_of_mem hk)

/-- The bytes of a line lie on one side of the core stores' base (R236). -/
theorem memLost_line {l : MemLoss} {a i : Nat} (h : memLost l a = false) (ha : a % 64 = 0) (hi : i < 64) : memLost l (a + i) = false := by
  cases l with
  | none => rfl
  | onDie =>
    have hlow : a < cstoreBase := by simpa [memLost] using h
    simp only [memLost, decide_eq_false_iff_not, not_le]
    unfold cstoreBase at hlow ⊢
    omega
  | all => cases h

/-- The state that a write of a line of good words leaves. -/
def lineWritten (h a : Nat) (line : List Byte) (mask : W64) (s : State) : State :=
  commit s (onDev (emit (.hdmDone h)) { workOf s with
    dev := ctrAdd 0x3FF 2 64 s.dev, stores := (maskedStores a line mask (upto 64)).reverse })

theorem exec_hdmWrite_good {h a : Nat} {line : List Byte} {mask : W64} {s : State} (hl : s.dev.cxl.linkUp = true)
    (he : s.dev.cxl.memEn = true) (hm : s.dev.cxl.memoryActive = true) (hd : hdmDecode s.dev h = some a)
    (hr : reservedTop a = false) (hu : ∀ u ∈ lineUnits a, isUe s.dev u = false) :
    exec (.hdmWrite h line mask false) s = .next (lineWritten h a line mask s) := by
  refine runWork_eq ((hdmWrite_units hl he hm hd hr hu).trans (congrArg (onDev (emit (.hdmDone h))) ?_))
  rw [foldl_lineUnits a line mask (w := onDev (ctrAdd 0x3FF 2 64) (workOf s)) hu, foldl_maskedByte]
  exact congrArg (fun l => ({ workOf s with dev := ctrAdd 0x3FF 2 64 s.dev, stores := l } : Work)) (List.append_nil _)

theorem lineWritten_dev (h a : Nat) (line : List Byte) (mask : W64) (s : State) : (lineWritten h a line mask s).dev =
    { emit (.hdmDone h) (ctrAdd 0x3FF 2 64 s.dev) with chisels := (lineWritten h a line mask s).dev.chisels } :=
  breakReserved_only _ _

/-- A byte of device memory after the write: what is stored there, else as before. -/
theorem memByte_lineWritten {h a : Nat} {line : List Byte} {mask : W64} {s : State} (hs : Memory.wf s = true) (x : Nat)
    (hx : memLost s.dev.power.lost x = false ∨ storeAt .dev x (maskedStores a line mask (upto 64)).reverse = none) :
    memByte (lineWritten h a line mask s) x =
      (storeAt .dev x (maskedStores a line mask (upto 64)).reverse).getD (memByte s x) := by
  simp only [Memory.wf, Bool.and_eq_true] at hs
  obtain ⟨⟨hmem, -⟩, -⟩ := hs
  have hbyte : tabGet memDefault (lineWritten h a line mask s).mem x =
      (storeAt .dev x (maskedStores a line mask (upto 64)).reverse).getD (tabGet memDefault s.mem x) :=
    tabGet_applyStores .dev memDefault s.mem hmem x _
  have hdev := lineWritten_dev h a line mask s
  have hpower : (lineWritten h a line mask s).dev.power = s.dev.power := (congrArg Dev.power hdev :)
  have hfree : (lineWritten h a line mask s).dev.free = s.dev.free := (congrArg Dev.free hdev :)
  unfold memByte devByte
  rw [hbyte, hpower, hfree]
  rcases hx with hkept | hnone
  · rw [hkept]
    rfl
  · rw [hnone]
    rfl

/-- Settles O16: the write is that of the line's places, each stored where the mask names it. -/
theorem hdmWriteStoresTheMaskedBytes : Obligations.HdmWriteStoresTheMaskedBytes := by
  intro h a line mask s hs hl he hm hd hr ha hu hlost
  have hdev := lineWritten_dev h a line mask s
  have hspace : ∀ sp, sp ≠ Space.dev → ∀ x ∈ (maskedStores a line mask (upto 64)).reverse, x.space ≠ sp := by
    intro sp hsp x hx
    obtain ⟨i, -, -, rfl⟩ := mem_maskedStores.mp hx
    exact hsp.symm
  refine ⟨_, exec_hdmWrite_good hl he hm hd hr hu, (congrArg Dev.out hdev :), fun i hi => ?_, fun x hx => ?_,
    applyStores_elsewhere _ _ _ (hspace .host (by decide)), applyStores_elsewhere _ _ _ (hspace .flash (by decide)),
    (congrArg Dev.cxl hdev :), (congrArg Dev.ue hdev :), (congrArg Dev.attn hdev :), (congrArg Dev.rings hdev :),
    (congrArg Dev.ctxs hdev :), (congrArg Dev.descs hdev :)⟩
  · rw [memByte_lineWritten hs _ (.inl (memLost_line hlost ha hi)), storeAt_maskedStores (l := upto 64) (List.mem_range.mpr hi)]
    split <;> rfl
  · have hnone := storeAt_maskedStores_outside (line := line) (mask := mask) hx
    rw [memByte_lineWritten hs x (.inr hnone), hnone]
    rfl

end Sys2Proof.Machine
end

section
/-! Address translation services and data of the host (R288 to R290). -/

namespace Sys2Proof.Machine

open Sys2Proof

/-! ### Invalidations (R290) -/

/-- Two ranges have a place in common where each begins before the other ends. -/
theorem ranges_overlap {a b m n : Nat} (hm : 0 < m) (hn : 0 < n) :
    (∃ x, b ≤ x ∧ x < b + n ∧ a ≤ x ∧ x < a + m) ↔ a < b + n ∧ b < a + m := by
  constructor
  · rintro ⟨x, hbx, hxn, hax, hxm⟩
    exact ⟨by omega, by omega⟩
  · rintro ⟨hab, hba⟩
    exact ⟨max a b, le_max_right a b, max_lt hab (by omega), le_max_left a b, max_lt (by omega) hba⟩

/-- A cached translation of a PASID that overlaps a range. -/
def overlaps (pasid : BitVec 20) (base n : Nat) (e : AtcEntry) : Bool :=
  e.pasid = pasid && decide (e.base < base + 2 ^ n) && decide (base < e.base + 2 ^ e.sizeLog2)

theorem overlaps_iff {pasid : BitVec 20} {base n : Nat} {e : AtcEntry} : overlaps pasid base n e = true ↔
    e.pasid = pasid ∧ ∃ x, base ≤ x ∧ x < base + 2 ^ n ∧ e.base ≤ x ∧ x < e.base + 2 ^ e.sizeLog2 := by
  rw [ranges_overlap (Nat.two_pow_pos _) (Nat.two_pow_pos _)]
  simp [overlaps, and_assoc]

theorem atsInvalidation_up {pasid : BitVec 20} {base n tag : Nat} {v : Dev} (h : v.cxl.linkUp = true) :
    atsInvalidation pasid base n tag v = setCxl (fun c => { c with
      atc := c.atc.filter (fun e => !overlaps pasid base n e), invals := c.invals ++ [⟨tag, pasid, base, n⟩] }) v :=
  if_neg (by simp [h])

theorem atsInvalidationComplete_up {tag : Nat} {v : Dev} (h : v.cxl.linkUp = true) (hi : ∃ i ∈ v.cxl.invals, i.tag = tag) :
    atsInvalidationComplete tag v =
      emit (.atsInvalCompletion tag) (setCxl (fun c => { c with invals := c.invals.filter (fun i => i.tag ≠ tag) }) v) :=
  if_pos (by simpa [h] using hi)

/-! ### Translations (R289) -/

/-- The cached translations behind which a new one is kept. -/
def atcRest (e : AtcEntry) (l : List AtcEntry) : List AtcEntry :=
  let rest := l.filter (fun x => !(x.pasid = e.pasid && x.base = e.base && x.sizeLog2 = e.sizeLog2))
  if rest.length < 8192 then rest else rest.drop 1

theorem mem_of_mem_atcRest {e x : AtcEntry} {l : List AtcEntry} (h : x ∈ atcRest e l) : x ∈ l := by
  unfold atcRest at h
  dsimp only at h
  split at h
  · exact List.mem_of_mem_filter h
  · exact List.mem_of_mem_filter (List.mem_of_mem_drop h)

theorem atcRest_length {l : List AtcEntry} (e : AtcEntry) (h : l.length ≤ 8192) : (atcRest e l).length ≤ 8191 := by
  unfold atcRest
  extract_lets rest
  have hrest : rest.length ≤ l.length := List.length_filter_le ..
  split
  · omega
  · rw [List.length_drop]
    omega

theorem atsAnswer_granted {d p : Nat} {pasid : BitVec 20} {addr : Nat} {va : W64} {host n : Nat} {wr : Bool} {w : Work}
    (h : w.dev.cxl.linkUp = true) (hn : 12 ≤ n) : atsAnswer d p pasid addr va (.granted host n wr) w =
      onDev (fun v => atcAdd ⟨pasid, addr / 2 ^ n * 2 ^ n, n, host / 2 ^ n * 2 ^ n, wr, false⟩ (emit (.atsRequest pasid addr) v)) w := by
  unfold atsAnswer
  rw [if_neg (by simp [h])]
  exact if_pos hn

/-- A denial that no part waits for is kept as an entry. -/
theorem atsAnswer_denied {d p : Nat} {pasid : BitVec 20} {addr : Nat} {va : W64} {w : Work} (h : w.dev.cxl.linkUp = true)
    (hd : getDesc w.dev d = none) : atsAnswer d p pasid addr va .denied w =
      onDev (fun v => atcAdd ⟨pasid, addr / 4096 * 4096, 12, 0, false, true⟩ (emit (.atsRequest pasid addr) v)) w := by
  have hlive : livePart (emit (.atsRequest pasid addr) w.dev) d p = none := by
    unfold livePart
    rw [show getDesc (emit (.atsRequest pasid addr) w.dev) d = none from hd]
  unfold atsAnswer
  rw [if_neg (by simp [h])]
  simp only [onDev_dev, hlive]
  rfl

/-- An answer that adds an entry, where nothing waits for it. -/
theorem exec_atsTranslation {d p : Nat} {pasid : BitVec 20} {addr : Nat} {va : W64} {ans : AtsAnswer} {e : AtcEntry} {s : State}
    (hw : NothingWaits s.dev)
    (h : atsAnswer d p pasid addr va ans (workOf s) = onDev (fun v => atcAdd e (emit (.atsRequest pasid addr) v)) (workOf s)) :
    exec (.atsTranslation d p pasid addr va ans) s = .next { s with dev := atcAdd e (emit (.atsRequest pasid addr) s.dev) } :=
  (runWork_eq (f := fun w => waitsDrain (atsAnswer d p pasid addr va ans w)) (congrArg waitsDrain h)).trans
    (runWork_waitsDrain_idle (f := fun v => atcAdd e (emit (.atsRequest pasid addr) v)) hw)

/-! ### Data of the host (R288) -/

theorem mem_pokes_stores {sp : Space} {x : Store} : ∀ {bs : List Byte} {a : Nat} {w : Work}, x ∈ (pokes sp a bs w).stores →
    x.space = sp ∨ x ∈ w.stores
  | [], _, _, h => .inr h
  | b :: bs, a, w, h => by
    rcases mem_pokes_stores (bs := bs) h with h | h
    · exact .inl h
    · rcases List.mem_cons.mp h with rfl | h
      · exact .inl rfl
      · exact .inr h

/-- A reservation is of device memory, so that stores elsewhere break none (R128). -/
theorem breakReserved_elsewhere {l : List Store} (v : Dev) (h : ∀ x ∈ l, x.space ≠ .dev) : breakReserved l v = v := by
  refine if_neg ?_
  simp only [List.any_eq_true, reservedHit, Option.any_eq_true, not_exists, not_and]
  rintro c - r - x hx hhit
  simp [storeHits, h x hx] at hhit

theorem exec_hostReadData_ok {d p addr : Nat} {va : W64} {bs : List Byte} {s : State} (h : s.dev.cxl.linkUp = true)
    (hn : bs.length ≤ 4096) :
    exec (.hostReadData d p addr va bs .ok) s = .next (commit s (pokes .host addr bs (workOf s))) := by
  refine runWork_eq (if_neg ?_)
  simpa [h] using hn

/-- Settles O17: each answer's equation, and the host's bytes as they read after the command's stores. -/
theorem atsAndHostAnswersAreKept : Obligations.AtsAndHostAnswersAreKept := by
  refine ⟨fun pasid base n tag s hl => ?_, fun tag s hl hi => runDev_eq (atsInvalidationComplete_up hl hi),
    fun d p pasid addr va host n wr s hl hn hw => ?_, fun d p pasid addr va s hl hd hw => ?_,
    fun d p addr va bs s hs hl hn => ?_⟩
  · refine ⟨_, runDev_eq (atsInvalidation_up hl), rfl, fun e => ?_⟩
    rw [← overlaps_iff, Bool.not_eq_true]
    exact List.mem_filter.trans (and_congr_right fun _ => by rw [Bool.not_eq_true'])
  · exact ⟨_, _, exec_atsTranslation hw (atsAnswer_granted hl hn), rfl, fun e he => mem_of_mem_atcRest he, atcRest_length _⟩
  · exact ⟨_, exec_atsTranslation hw (atsAnswer_denied hl hd), rfl, rfl, rfl, List.getLast?_concat⟩
  · have hspace : ∀ x ∈ (pokes .host addr bs (workOf s)).stores, x.space = .host := fun x hx =>
      (mem_pokes_stores hx).resolve_right List.not_mem_nil
    have helse : ∀ sp, Space.host ≠ sp → ∀ x ∈ (pokes .host addr bs (workOf s)).stores, x.space ≠ sp := fun sp hsp x hx =>
      hspace x hx ▸ hsp
    have hbyte (a : Nat) := hostByte_commit s (pokes .host addr bs (workOf s)) a hs
    refine ⟨_, exec_hostReadData_ok hl hn, ?_, ?_, applyStores_elsewhere _ _ _ (helse .flash (by decide)), fun i hi => ?_,
      fun a ha => ?_⟩
    · rw [commit_dev, breakReserved_elsewhere _ (helse .dev (by decide)), pokes_dev, workOf_dev]
    · rw [commit_mem, applyStores_elsewhere _ _ _ (helse .dev (by decide)), pokes_wiped]
      rfl
    · rw [hbyte, storeAt_pokes, if_pos ⟨by omega, by omega⟩, Nat.add_sub_cancel_left, List.getElem?_eq_getElem hi,
        List.getD_eq_getElem _ _ hi]
      rfl
    · rw [hbyte, storeAt_pokes, if_neg (by omega)]
      rfl

end Sys2Proof.Machine
end

section
/-! The DOE mailboxes (R292), and the set-up and the chunks of the SPDM connection of mailbox 0 (R451). -/

namespace Sys2Proof.Machine

open Sys2Proof

/-! ### Mailboxes (R292) -/

theorem doeObject_waits {m size : Nat} {o : DoeObject} {v : Dev} (hc : configUp v = true) (ho : objectWaits m o = true) :
    doeObject m o size v = if (getMailbox v m).busy = true ∨ doeLargest m < size then v
      else setMailbox m { busy := true, object := some o } v := by
  unfold doeObject
  rw [if_pos ho]
  simp only [hc, Bool.not_true, Bool.false_or, Bool.or_eq_true, decide_eq_true_eq]

theorem doeDiscovery_answers {m i : Nat} {v : Dev} (hc : configUp v = true) (ho : (getMailbox v m).object = some (.discovery i)) :
    doeDiscovery m v = emit (.doeDiscovery m (doeTypes m)[i]?.toList (if i + 1 < (doeTypes m).length then i + 1 else 0))
      (setMailbox m {} v) := by
  unfold doeDiscovery
  simp only [ho, hc, List.take_one, List.head?_drop]
  rfl

theorem cdatAccess_answers {i : Nat} {v : Dev} (hc : configUp v = true) (ho : (getMailbox v 1).object = some (.cdat i)) :
    cdatAccess v = emit (.cdat cdatTable) (setMailbox 1 {} v) := by
  simp only [cdatAccess, ho, hc, if_true]

/-- Settles O18: an object taken or discarded, a mailbox emptied, and the two rows that answer an object. -/
theorem mailboxesTakeAndAnswer : Obligations.MailboxesTakeAndAnswer := by
  refine ⟨fun m o size s hc ho => ?_, fun m s hc => runDev_eq (if_pos hc), fun m i s hc ho => runDev_eq (doeDiscovery_answers hc ho),
    fun i s hc ho => runDev_eq (cdatAccess_answers hc ho)⟩
  refine (runDev_eq (doeObject_waits hc ho)).trans ?_
  change Host.Outcome.next { s with dev := if (getMailbox s.dev m.val).busy = true ∨ doeLargest m.val < size then s.dev else _ } =
    .next (if (getMailbox s.dev m.val).busy = true ∨ doeLargest m.val < size then s else _)
  split <;> rfl

/-! ### A request answered (R451) -/

theorem spdmRequest_plain {r : SpdmReq} {v : Dev} (h : (getMailbox v 0).object = some (.spdm r)) : spdmRequest v = some (none, r) := by
  rw [spdmRequest, h]

section
variable {r : SpdmReq} {v : Dev}

theorem spdmExpected_begin (hr : isFinish r = false) : spdmExpected v 0 none r = true := by
  simp [spdmExpected, sessionOk, hr]

theorem spdmExpected_version (hr : isFinish r = false) (h : v.cxl.spdm.version = true) : spdmExpected v 1 none r = true := by
  simp only [spdmExpected, sessionOk, hr, h, Bool.not_false, Bool.and_true, decide_eq_true_eq]
  split_ifs <;> decide

theorem spdmExpected_capabilities (hr : isFinish r = false) (h : v.cxl.spdm.capabilities = true) : spdmExpected v 2 none r = true := by
  simp only [spdmExpected, sessionOk, hr, h, Bool.not_false, Bool.and_true, decide_eq_true_eq]
  split_ifs <;> decide

/-- A request that is expected is answered by its function. -/
theorem spdmServe_answers {pick : SpdmReq → Option (Dev → SpdmRsp × Dev)} {f : Dev → SpdmRsp × Dev} {stage : Nat} {s : Option W32}
    (hreq : spdmRequest v = some (s, r)) (hp : pick r = some f) (hc : configUp v = true) (he : spdmExpected v stage s r = true) :
    spdmServe pick stage v = spdmAnswer s (f v).1 (f v).2 := by
  simp only [spdmServe, hreq, hp, hc, he]
  rfl

end

/-- A device whose mailbox 0 has been answered, with the connection as it then is. -/
def answered (r : SpdmRsp) (c : Spdm) (v : Dev) : Dev :=
  { v with out := v.out ++ [.spdm none r], cxl := { v.cxl with mailboxes := v.cxl.mailboxes.set 0 {}, spdm := c } }

section
variable {v : Dev} (hc : configUp v = true)
include hc

theorem getVersion_answers (h : (getMailbox v 0).object = some (.spdm .getVersion)) : getVersion v = answered (.version [0x13])
    { v.cxl.spdm with version := true, capabilities := false, algorithms := false, keyAlgs := false, sessions := [] } v :=
  (spdmServe_answers (spdmRequest_plain h) rfl hc (spdmExpected_begin rfl)).trans rfl

theorem getCapabilities_answers {f : W32} (hv : v.cxl.spdm.version = true)
    (h : (getMailbox v 0).object = some (.spdm (.getCapabilities 0x13 f))) :
    getCapabilities v = answered .capabilities { v.cxl.spdm with capabilities := true } v :=
  (spdmServe_answers (spdmRequest_plain h) rfl hc (spdmExpected_version rfl hv)).trans rfl

theorem negotiateAlgorithms_answers {a h d e : Nat} (hv : v.cxl.spdm.capabilities = true)
    (ho : (getMailbox v 0).object = some (.spdm (.negotiateAlgorithms a h d e))) :
    negotiateAlgorithms v = answered
      (.algorithms (if a.testBit 7 then 128 else 0) (if h.testBit 1 then 2 else 0) (if d.testBit 4 then 16 else 0)
        (if e.testBit 1 then 2 else 0))
      { v.cxl.spdm with algorithms := a.testBit 7 && h.testBit 1, keyAlgs := d.testBit 4 && e.testBit 1 } v :=
  (spdmServe_answers (spdmRequest_plain ho) rfl hc (spdmExpected_capabilities rfl hv)).trans rfl

/-! ### Chunks (R451) -/

/-- The connection once a chunk of a large request is taken. -/
def chunkTaken (h : Byte) (n : Nat) (last : Bool) (bs : List Byte) (c : Spdm) : Spdm :=
  { c with
    sendHandle := if last then none else some h, sendSeq := n + 1, sendBytes := if n = 0 then bs else c.sendBytes ++ bs }

section
variable {h : Byte} {n size : Nat} {bs : List Byte} {r : SpdmReq} (hv : v.cxl.spdm.capabilities = true)
  (hn : n = 0 ∨ v.cxl.spdm.sendHandle = some h ∧ v.cxl.spdm.sendSeq = n)
include hv hn

theorem chunkTake_answers {last : Bool} (ho : (getMailbox v 0).object = some (.spdm (.chunkSend h n last size bs r))) :
    chunkTake v = answered (.chunkSendAck h n) (chunkTaken h n last bs v.cxl.spdm) v := by
  have hfits : chunkFits v.cxl.spdm h n = true := by simpa [chunkFits] using hn
  refine (spdmServe_answers (spdmRequest_plain ho) rfl hc (spdmExpected_capabilities rfl hv)).trans ?_
  simp only [hfits]
  rfl

theorem chunkSend_first (ho : (getMailbox v 0).object = some (.spdm (.chunkSend h n false size bs r))) :
    chunkSend v = answered (.chunkSendAck h n) (chunkTaken h n false bs v.cxl.spdm) v := by
  rw [chunkSend, spdmRequest_plain ho]
  exact chunkTake_answers hc hv hn ho

/-- The last chunk serves the request that the chunks make up. -/
theorem chunkSend_last (ho : (getMailbox v 0).object = some (.spdm (.chunkSend h n true size bs r))) :
    chunkSend v = wholeRequest none r (answered (.chunkSendAck h n) (chunkTaken h n true bs v.cxl.spdm) v) := by
  have hfits : chunkFits v.cxl.spdm h n = true := by simpa [chunkFits] using hn
  have hexp : spdmExpected v 2 none (.chunkSend h n true size bs r) = true := spdmExpected_capabilities rfl hv
  rw [chunkSend, spdmRequest_plain ho, ← chunkTake_answers hc hv hn ho]
  simp only [hc, hexp, hfits, Bool.and_self, if_true]

end

theorem chunkGet_answers {h : Byte} {n : Nat} (hv : v.cxl.spdm.capabilities = true) (hb : v.cxl.spdm.getBytes ≠ [])
    (hh : v.cxl.spdm.getHandle = h) (hn : v.cxl.spdm.getSeq = n) (ho : (getMailbox v 0).object = some (.spdm (.chunkGet h n))) :
    chunkGet v = answered
      (.chunkResponse h n (decide (v.cxl.spdm.getBytes.length ≤ 16368)) (v.cxl.spdm.getBytes.take 16368))
      { v.cxl.spdm with getBytes := v.cxl.spdm.getBytes.drop 16368, getSeq := n + 1 } v := by
  have hlast : (v.cxl.spdm.getBytes.drop 16368).isEmpty = decide (v.cxl.spdm.getBytes.length ≤ 16368) := by
    rw [Bool.eq_iff_iff, List.isEmpty_iff, List.drop_eq_nil_iff, decide_eq_true_eq]
  subst hh hn
  refine (spdmServe_answers (spdmRequest_plain ho) rfl hc (spdmExpected_capabilities rfl hv)).trans ?_
  rw [← hlast]
  simp only [List.isEmpty_eq_false_iff.mpr hb, ne_eq, not_true_eq_false, decide_false, Bool.or_self, Bool.false_eq_true, if_false]
  rfl

end

/-- A request of any kind that has a row of its own, other than a chunk, stands in the mailbox as one sent whole. -/
theorem wholeRequest_stands {r : SpdmReq} (v : Dev) (hw : objectWaits 0 (.spdm r) = true)
    (hs : ∀ a b c d e f, r ≠ .chunkSend a b c d e f) (hg : ∀ a b, r ≠ .chunkGet a b) :
    wholeRequest none r v = setMailbox 0 { busy := true, object := some (.spdm r) } v := by
  cases r with
  | chunkSend a b c d e f => exact absurd rfl (hs a b c d e f)
  | chunkGet a b => exact absurd rfl (hg a b)
  | other => cases hw
  | _ => rfl

/-- Settles O19: each row's answer to a request that is expected, and a chunked request served after its last chunk. -/
theorem spdmSetsTheConnectionUp : Obligations.SpdmSetsTheConnectionUp := by
  refine ⟨fun s hc => ⟨fun h => runDev_eq (getVersion_answers hc h), fun f hv h => runDev_eq (getCapabilities_answers hc hv h),
      fun a h d e hv ho => runDev_eq (negotiateAlgorithms_answers hc hv ho)⟩,
    fun s h n hc hv => ⟨fun last size bs r hn ho => ⟨fun hlast => ?_, fun hlast hw hs hg => ?_⟩,
      fun hb hh hn ho => runDev_eq (chunkGet_answers hc hv hb hh hn ho)⟩⟩
  · subst hlast
    exact runDev_eq (chunkSend_first hc hv hn ho)
  · subst hlast
    refine (runDev_eq ((chunkSend_last hc hv hn ho).trans (wholeRequest_stands _ hw hs hg))).trans ?_
    simp only [setMailbox, setCxl, answered, List.set_set]
    rfl

end Sys2Proof.Machine
end

section
/-! Roles, pairings, the cast and the stream ring (R288, R385 to R391, R404, R405, R409): what the writes of the mould block take, how the
two sides of a pairing answer each other, and a record forwarded. -/

namespace Sys2Proof.Machine

open Sys2Proof

/-! ### MOULD_ROLE (R385, R386) -/

theorem roleWrite_refused {x : BitVec 3} {v : Dev}
    (h : 4 ≤ x.toNat ∨ (∃ q ∈ v.mould.pairs, q.enable = true) ∨ (v.arm.postStacks ≠ 0 ∧ x ≠ 0)) : roleWrite x v = v :=
  if_pos (by simpa [or_assoc] using h)

theorem roleWrite_taken {x : BitVec 3} {v : Dev} (hx : x.toNat < 4) (hp : ∀ q ∈ v.mould.pairs, q.enable = false)
    (hs : v.arm.postStacks = 0 ∨ x = 0) : roleWrite x v = ownChange (setMould (fun m => { m with role := x }) v) := by
  have hpairs : v.mould.pairs.any (fun q => q.enable) = false := by simpa using hp
  refine if_neg ?_
  simp only [hpairs, Bool.or_false, Bool.or_eq_true, Bool.and_eq_true, decide_eq_true_eq]
  rintro (h4 | ⟨hstacks, hrole⟩)
  · omega
  · exact hs.elim hstacks hrole

theorem exec_mouldRoleWrite {w : HostWrite} {s : State} (h : WriteLands s 0x60000 w.ide) :
    exec (.mouldRoleWrite w) s = .next { s with dev := roleWrite (w.value.setWidth 3) s.dev } := by
  have hf : fld 3 0 w.value = w.value.setWidth 3 := by rw [fld, BitVec.ushiftRight_zero]
  rw [← hf]
  exact runWork_guarded_lands (mouldWrite 0 ⟨true, false, w.value⟩) h

/-! ### Pairs (R387) -/

theorem getPair_setPair_same {k : Nat} {v : Dev} (x : Pair) (h : k < v.mould.pairs.length) : getPair (setPair k x v) k = x := by
  simp [getPair, setPair, h]

theorem setPair_setPair (k : Nat) (x y : Pair) (v : Dev) : setPair k x (setPair k y v) = setPair k x v := by
  simp only [setPair, List.set_set]

/-! ### Pairing frames sent (R388) -/

/-- A pairing frame sent changes the fabric, the counters, the trace and what the device puts out, and nothing else. -/
theorem sendPairing_beside (q : Pair) (refuse : Bool) (v : Dev) : besideFabric (sendPairing q refuse v) = besideFabric v :=
  sendMsg_beside ..

theorem sendPairing_mould (q : Pair) (refuse : Bool) (v : Dev) : (sendPairing q refuse v).mould = v.mould :=
  (congrArg Dev.mould (sendPairing_beside q refuse v) :)

/-- The descriptors, rings and groups of a device, which no pairing changes. -/
def workSide (v : Dev) : List Desc × Tab Ring × Tab Group := (v.descs, v.rings, v.groups)

theorem workSide_eq_iff {u v : Dev} : workSide u = workSide v ↔ u.descs = v.descs ∧ u.rings = v.rings ∧ u.groups = v.groups := by
  simp only [workSide, Prod.mk.injEq]

theorem sendPairing_workSide (q : Pair) (refuse : Bool) (v : Dev) : workSide (sendPairing q refuse v) = workSide v :=
  (congrArg (fun u => workSide u) (sendPairing_beside q refuse v) :)

/-! ### A frame that is another's than the side's own partner's (R387, R388) -/

/-- The device once a side that waits for a node has met that node's frame of another group. -/
def metOther (k : Nat) (node : BitVec 10) (q : Pair) (v : Dev) : Dev :=
  if node = q.node ∧ q.state = 1 then setPair k { q with state := 3, err := 7 } v else v

theorem refuseOther_refuses {k : Nat} {g : Byte} {node : BitVec 10} {q : Pair} {v : Dev} (hq : getPair v k = q)
    (h : g ≠ q.group ∨ node ≠ q.node) :
    refuseOther k g node v = sendPairing { q with group := g, node := node } true (metOther k node q v) := by
  subst hq
  have hother : ¬((getPair v k).group = g ∧ (getPair v k).node = node) := fun hsame =>
    h.elim (fun hg => hg hsame.1.symm) fun hn => hn hsame.2.symm
  unfold refuseOther
  simp only [metOther, Bool.and_eq_true, decide_eq_true_eq, if_neg hother, eq_comm (a := node)]

theorem metOther_only (k : Nat) (node : BitVec 10) (q : Pair) (v : Dev) :
    metOther k node q v = { v with mould := (metOther k node q v).mould } := by
  unfold metOther
  split <;> rfl

/-- The pairs once a kept frame of another has been met. -/
theorem metOther_mould (k : Nat) (node : BitVec 10) {on : Pair} (h1 : on.state = 1) {v u : Dev}
    (hv : v.mould = (setPair k on u).mould) :
    (metOther k node on (setMould (fun m => { m with asked := [] }) v)).mould =
      { (setPair k (if node = on.node then { on with state := 3, err := 7 } else on) u).mould with asked := [] } := by
  unfold metOther
  by_cases hn : node = on.node
  · rw [if_pos ⟨hn, h1⟩, if_pos hn]
    simp only [setPair, setMould, hv, List.set_set]
  · rw [if_neg fun h => hn h.1, if_neg hn]
    simp only [setPair, setMould, hv]

theorem refuseOther_workSide (k : Nat) (g : Byte) (node : BitVec 10) (v : Dev) : workSide (refuseOther k g node v) = workSide v := by
  unfold refuseOther
  dsimp only
  split
  · rfl
  · refine (sendPairing_workSide ..).trans ?_
    split <;> rfl

theorem answerAsked_workSide (k : Nat) (v : Dev) : workSide (answerAsked k v) = workSide v :=
  (foldl_same (g := workSide) (fun _ _ => refuseOther_workSide ..) _ _).trans rfl

section
variable {g : Byte} {node : BitVec 10} {v : Dev}

theorem pairingOther_unanswered (h : mayAnswer v g node = false) : pairingOther g node v = v :=
  if_pos (by rw [h]; rfl)

theorem pairingOther_refuses {j : Nat} (h : mayAnswer v g node = true) (hs : sideOf v g node = some j) :
    pairingOther g node v = refuseOther j g node v := by
  simp only [pairingOther, h, hs]
  rfl

theorem pairingOther_kept (h : mayAnswer v g node = true) (hs : sideOf v g node = none) (hn : (g, node) ∉ v.mould.asked) :
    pairingOther g node v = setMould (fun m => { m with asked := m.asked ++ [(g, node)] }) v := by
  have hcontains : v.mould.asked.contains (g, node) = false := by simpa using hn
  simp only [pairingOther, h, hs, setMould, hcontains]
  rfl

/-- Where no frame is kept, none is answered. -/
theorem answerAsked_none {k : Nat} (h : v.mould.asked = []) : answerAsked k v = v := by
  have hsame : setMould (fun m => { m with asked := [] }) v = v := by
    rw [← h]
    rfl
  unfold answerAsked
  simp only [setMould, h, List.filter_nil, List.foldl_nil]
  exact hsame

/-- The frame of another, kept until this side is enabled, is refused then. -/
theorem answerAsked_one {k : Nat} {q : Pair} (hq : getPair v k = q) (h : v.mould.asked = [(g, node)]) (hm : mayAnswer v g node = true)
    (hs : sideOf v g node = some k) (hother : g ≠ q.group ∨ node ≠ q.node) : answerAsked k v =
      sendPairing { q with group := g, node := node } true (metOther k node q (setMould (fun m => { m with asked := [] }) v)) := by
  have hanswer : answerAsked k v = refuseOther k g node (setMould (fun m => { m with asked := [] }) v) := by
    simp [answerAsked, setMould, h, hm, hs]
  exact hanswer.trans (refuseOther_refuses (v := setMould (fun m => { m with asked := [] }) v) hq hother)

end

/-! ### CHARGE_ENABLE and CHARGE_DISABLE (R387, R391) -/

theorem bitAt_orOne (x : W64) {i : Nat} : bitAt i (x ||| 1) = (x.getLsbD i || decide (i = 0)) := by
  rw [bitAt, BitVec.getLsbD_or]
  change (x.getLsbD i || (1#64).getLsbD i) = _
  simp

theorem bitAt_zero_clearOne (x : W64) : bitAt 0 (x &&& ~~~1) = false := by
  rw [bitAt, BitVec.getLsbD_and]
  exact Bool.and_false _

theorem pairWrite_enable {k : Nat} (x : W64) {w : Work} (h : (getPair w.dev k).enable = false) :
    pairWrite k 1 ⟨true, false, x ||| 1⟩ w =
      onDev (fun v => pairOn k (setPair k { getPair v k with override := x.getLsbD 1 } v)) w := by
  have hon : bitAt 0 (x ||| 1) = true := (bitAt_orOne x).trans (Bool.or_true _)
  have hover : bitAt 1 (x ||| 1) = x.getLsbD 1 := (bitAt_orOne x).trans (Bool.or_false _)
  unfold pairWrite
  simp only [hon, hover, if_neg (Bool.eq_false_iff.mp h)]
  rfl

theorem pairWrite_disable {k : Nat} (x : W64) {w : Work} (h : (getPair w.dev k).enable = true) :
    pairWrite k 1 ⟨true, false, x &&& ~~~1⟩ w = onDev (pairOff k) w := by
  unfold pairWrite
  simp only [bitAt_zero_clearOne, h]
  rfl

section
variable {k : Nat} {q : Pair} {v : Dev} (hq : getPair v k = q)
include hq

theorem pairOn_refused (he : pairRefusal v k q ≠ 0) :
    let e := pairRefusal v k q
    let u := setPair k { q with state := 3, err := BitVec.ofNat 3 e } v
    pairOn k v = if e = 3 ∧ pairGroupOk u k q = true then sendPairing q true u else u := by
  subst hq
  unfold pairOn
  simp only [if_pos he, Bool.and_eq_true, decide_eq_true_eq]

theorem pairOn_waits (he : pairRefusal v k q = 0) :
    pairOn k v = answerAsked k (sendPairing { q with enable := true, state := 1, err := 0, unprot := false } false
      (setPair k { q with enable := true, state := 1, err := 0, unprot := false } v)) := by
  subst hq
  unfold pairOn
  simp only [he]
  rfl

end

theorem pairOn_workSide (k : Nat) (v : Dev) : workSide (pairOn k v) = workSide v := by
  unfold pairOn
  dsimp only
  split
  · split
    · exact sendPairing_workSide ..
    · rfl
  · exact (answerAsked_workSide ..).trans (sendPairing_workSide ..)

theorem exec_chargeEnable {k : Fin 5} {w : HostWrite} {s : State} (h : WriteLands s 0x60100 w.ide)
    (he : (getPair s.dev k.val).enable = false) : exec (.chargeEnable k w) s = .next { s with
      dev := pairOn k.val (setPair k.val { getPair s.dev k.val with override := w.value.getLsbD 1 } s.dev) } :=
  (runWork_lands _ h).trans (congrArg Host.Outcome.next
    ((congrArg (commit s) (pairWrite_enable (w := workOf s) w.value he)).trans (commit_workOf s _)))

theorem exec_chargeDisable {k : Fin 5} {w : HostWrite} {s : State} (h : WriteLands s 0x60100 w.ide)
    (he : (getPair s.dev k.val).enable = true) : exec (.chargeDisable k w) s = .next { s with dev := pairOff k.val s.dev } :=
  (runWork_lands _ h).trans (congrArg Host.Outcome.next
    ((congrArg (commit s) (pairWrite_disable (w := workOf s) w.value he)).trans (commit_workOf s _)))

/-! ### PAIRING_FRAME (R388, R389) -/

section
variable {k : Nat} {g : Byte} {node names : BitVec 10} {feed : BitVec 4} {ov refuse : Bool} {q : Pair} {v : Dev} (hq : getPair v k = q)
include hq

/-- The partner's frame meets a side that waits. -/
theorem pairingFrame_partner (h1 : q.state = 1) (hg : g = q.group) (hn : node = q.node) :
    pairingFrame k (.pairing g node names feed ov refuse) v =
      if refuse then setPair k { q with state := 3, err := 7 } v
      else if names ≠ v.fab.nodeId ∨ (feed = v.power.straps.feedId ∧ ¬(ov = true ∧ q.override = true)) then
        sendPairing q true (setPair k { q with state := 3, err := 7 } v)
      else sendPairing q false (setPair k { q with state := 2, unprot := ov || q.override } v) := by
  subst hq hg hn
  have hwaits : refusedHere v k (getPair v k) = false := by simp [refusedHere, h1]
  unfold pairingFrame
  simp [hwaits, h1, imp_iff_not_or]

section
variable (h1 : q.state = 1) (hg : g = q.group) (hn : node = q.node)
include h1 hg hn

theorem pairingFrame_refused (hr : refuse = true) :
    pairingFrame k (.pairing g node names feed ov refuse) v = setPair k { q with state := 3, err := 7 } v :=
  (pairingFrame_partner hq h1 hg hn).trans (if_pos hr)

theorem pairingFrame_refuses (hr : refuse = false)
    (hbad : names ≠ v.fab.nodeId ∨ (feed = v.power.straps.feedId ∧ ¬(ov = true ∧ q.override = true))) :
    pairingFrame k (.pairing g node names feed ov refuse) v = sendPairing q true (setPair k { q with state := 3, err := 7 } v) :=
  (pairingFrame_partner hq h1 hg hn).trans ((if_neg (Bool.eq_false_iff.mp hr)).trans (if_pos hbad))

theorem pairingFrame_pairs (hr : refuse = false) (hnames : names = v.fab.nodeId)
    (hgood : feed ≠ v.power.straps.feedId ∨ ov = true ∧ q.override = true) :
    pairingFrame k (.pairing g node names feed ov refuse) v =
      sendPairing q false (setPair k { q with state := 2, unprot := ov || q.override } v) := by
  refine (pairingFrame_partner hq h1 hg hn).trans ((if_neg (Bool.eq_false_iff.mp hr)).trans (if_neg ?_))
  rintro (h | ⟨hf, ho⟩)
  · exact h hnames
  · exact hgood.elim (fun h => h hf) ho

end

theorem pairingFrame_other (h : g ≠ q.group ∨ node ≠ q.node) :
    pairingFrame k (.pairing g node names feed ov refuse) v = if refuse then v else pairingOther g node v := by
  subst hq
  exact if_pos (by simpa using h)

end

/-! ### PERSISTED (R405) -/

theorem releaseAll_idle {w : Work} (h : ∀ c ∈ w.dev.rings, c.2.boundaryHeld = false) : releaseAll w = w := by
  have hnone : w.dev.rings.filter (fun c => c.2.boundaryHeld) = [] := List.filter_eq_nil_iff.mpr fun c hc => by simp [h c hc]
  rw [releaseAll, hnone]
  rfl

/-- The cast of a charge slot moved to a step, with its event. -/
def castTo (k : Nat) (p : W32) (v : Dev) : Dev :=
  let q := { getPair v k with persisted := p, cast := p }
  if v.mould.attnEn then raiseCast k q (setPair k q v) else setPair k q v

theorem castTo_only (k : Nat) (p : W32) (v : Dev) : castTo k p v = { setPair k { getPair v k with persisted := p, cast := p } v with
    attn := (castTo k p v).attn, ctr := (castTo k p v).ctr, trc := (castTo k p v).trc } := by
  unfold castTo
  dsimp only
  split
  · exact raise_only ..
  · rfl

theorem castTo_silent {k : Nat} {p : W32} {v : Dev} (h : v.mould.attnEn = false) : (castTo k p v).attn = v.attn := by
  rw [castTo, if_neg (Bool.eq_false_iff.mp h)]
  rfl

theorem castTo_told {k : Nat} {p : W32} {v : Dev} (h : v.mould.attnEn = true) : (castTo k p v).attn.seq = v.attn.seq + 1 := by
  rw [castTo, if_pos h]
  exact raise_seq ..

section
variable {k : Nat} {p : W32} {w : Work}

theorem persistedWrite_outside (h : ¬((getPair w.dev k).cast.toNat < p.toNat ∧ p.toNat ≤ (getPair w.dev k).lastClose.toNat)) :
    persistedWrite k p w = onDev (fun v => setPair k { getPair v k with persisted := p } v) w :=
  if_neg (by simpa using h)

/-- Where no boundary is held, the cast moves and nothing else follows (R405, R406). -/
theorem persistedWrite_inside (hb : ∀ c ∈ w.dev.rings, c.2.boundaryHeld = false) (hc : (getPair w.dev k).cast.toNat < p.toNat)
    (hl : p.toNat ≤ (getPair w.dev k).lastClose.toNat) : persistedWrite k p w = onDev (castTo k p) w := by
  have hrings : (castTo k p w.dev).rings = w.dev.rings := (congrArg Dev.rings (castTo_only k p w.dev) :)
  have hreleases : persistedWrite k p w = releaseAll (onDev (castTo k p) w) := if_pos (by simp [hc, hl])
  exact hreleases.trans (releaseAll_idle fun c hm => hb c (hrings ▸ hm))

theorem pairWrite_persisted (hk : k < 4) : pairWrite k 2 ⟨false, true, place 32 p⟩ w = persistedWrite k p w := by
  have hlink : isLink k = false := decide_eq_false hk.ne
  have hp : fld 32 32 (place 32 p) = p := by
    rw [place, fld_highHalf, BitVec.setWidth_setWidth_of_le _ (by decide), BitVec.setWidth_eq]
  unfold pairWrite
  rw [hlink, hp]
  rfl

end

theorem exec_persistedWrite {k : Fin 4} {p : W32} {ide : Bool} {f : Dev → Dev} {s : State} (h : WriteLands s 0x60100 ide)
    (hf : persistedWrite k.val p (workOf s) = onDev f (workOf s)) :
    exec (.persistedWrite k p ide) s = .next { s with dev := f s.dev } :=
  (runWork_lands _ h).trans (congrArg Host.Outcome.next
    ((congrArg (commit s) ((pairWrite_persisted k.isLt).trans hf)).trans (commit_workOf s _)))

/-! ### The stream ring (R409) -/

theorem streamCfg_enables {x : W64} {v : Dev} (h : v.mould.ssEnable = false) : streamCfg (x ||| placeB 8 true) v =
    setMould (fun m => { m with ssSize := clampW 20 40 (x.setWidth 6 : BitVec 6), ssEnable := true, ssHead := 0, ssTail := 0 }) v := by
  have hbelow : ∀ i < 6, (placeB 8 true).getLsbD i = false := by decide
  have hsize : fld 6 0 (x ||| placeB 8 true) = x.setWidth 6 := by
    apply BitVec.eq_of_getLsbD_eq
    intro i hi
    simp [fld, BitVec.getLsbD_or, hbelow i hi]
  have hon : bitAt 8 (x ||| placeB 8 true) = true := by
    rw [bitAt, BitVec.getLsbD_or]
    exact Bool.or_true _
  unfold streamCfg
  rw [hsize, hon]
  simp only [setMould, h]
  rfl

/-! ### STREAM_FORWARD (R288, R404) -/

/-- What a forwarded record does besides its reads and writes. -/
def forwarded (it : StreamItem) (rest : List StreamItem) (tail : W64) (v : Dev) : Dev :=
  let v := setMould (fun m => { m with queue := rest, ssTail := tail }) v
  match it.closeStep with
  | some c => setPair it.slot { getPair v it.slot with lastClose := c } v
  | none => v

theorem forwarded_eq (it : StreamItem) (rest : List StreamItem) (tail : W64) (v : Dev) : forwarded it rest tail v =
    setMould (fun m => { m with
      queue := rest, ssTail := tail
      pairs := match it.closeStep with
        | some c => m.pairs.set it.slot { getPair v it.slot with lastClose := c }
        | none => m.pairs }) v := by
  unfold forwarded
  cases it.closeStep <;> rfl

/-- The read of a record, and its write with the tail word. -/
def forwardStage (it : StreamItem) (m : Mould) : Acc Unit := do
  hostAsks true false (edge it.ctx) it.addr it.bytes 4096
  let bs ← readBytes (edge it.ctx) it.addr it.bytes
  streamWrite m.ssBase (2 ^ m.ssSize.toNat) m.ssTail.toNat bs
  bulkWrite m.ssTailPtr (leBytes 8 (m.ssTail + BitVec.ofNat 64 it.bytes).toNat)

/-- A stage that is followed by another and succeeds with it. -/
theorem acc_bind_ok_inv {α β : Type} {m : Acc α} {f : α → Acc β} {w u : Work} {b : β} (h : (m >>= f).run w = (.ok b, u)) :
    ∃ a t, m.run w = (.ok a, t) ∧ (f a).run t = (.ok b, u) := by
  rw [acc_bind] at h
  split at h
  next a t hm => exact ⟨a, t, hm, h⟩
  next => cases h

theorem streamForward_runs {it : StreamItem} {rest : List StreamItem} {w u : Work} (hq : w.dev.mould.queue = it :: rest)
    (he : w.dev.mould.ssEnable = true)
    (hroom : (w.dev.mould.ssTail - w.dev.mould.ssHead).toNat + it.bytes ≤ 2 ^ w.dev.mould.ssSize.toNat)
    (h : (forwardStage it w.dev.mould).run { w with dest := [], snooped := [], flags := {} } = (.ok (), u)) : streamForward w =
      onDev (forwarded it rest (w.dev.mould.ssTail + BitVec.ofNat 64 it.bytes)) (snoopsUsed { u with dest := [] }) := by
  obtain ⟨_, w1, hasks, h⟩ := acc_bind_ok_inv h
  obtain ⟨bs, w2, hreads, hwrites⟩ := acc_bind_ok_inv h
  have hread := ueFails_ok (fail := failCtxOpen it.ctx stMemoryUe.toNat) 
    ((acc_bind_ok (f := fun _ => readBytes (edge it.ctx) it.addr it.bytes) hasks).trans hreads)
  have hwrite := ueFails_ok (fail := failCtxOpen 0 stMemoryUe.toNat) hwrites
  unfold streamForward
  simp only [hq]
  rw [if_neg (by simpa [he] using hroom)]
  exact runAcc_ok ((acc_bind_ok hread).trans hwrite)

/-- What a record's forwarding leaves besides: the mould block, rings, descriptors and contexts. -/
def streamView (w : Work) : Mould × Tab Ring × List Desc × Tab Ctx := (w.dev.mould, w.dev.rings, w.dev.descs, w.dev.ctxs)

theorem streamView_blind : WriteBlind streamView where
  snooped _ _ := rfl
  cxl _ _ := rfl
  tlb _ _ := rfl
  values _ _ := rfl
  stores _ _ := rfl
  ue _ _ := rfl

theorem hostAsks_streamView (read : Bool) (r : Requestor) (va : W64) (n most : Nat) :
    OkSame streamView (hostAsks read false r va n most) :=
  (hostAsks_ends streamView_blind.toReadBlind (fun _ _ => rfl) read false r va n most).ok

theorem bulkWrite_streamView (a : W64) (bs : List Byte) : OkSame streamView (bulkWrite a bs) :=
  okSame_bind (hostAsks_streamView _ _ _ _ _) fun _ => writeBytes_blind streamView_blind _ _ _

theorem streamWrite_streamView (base : W64) (size pos : Nat) (bs : List Byte) : OkSame streamView (streamWrite base size pos bs) :=
  okSame_bind (bulkWrite_streamView _ _) fun _ => okSame_ite (bulkWrite_streamView _ _) (okSame_pure _)

theorem forwardStage_streamView (it : StreamItem) (m : Mould) : OkSame streamView (forwardStage it m) :=
  okSame_bind (hostAsks_streamView _ _ _ _ _) fun _ => okSame_bind (readBytes_blind streamView_blind.toReadBlind _ _ _) fun _ =>
    okSame_bind (streamWrite_streamView _ _ _ _) fun _ => bulkWrite_streamView _ _

/-- A record forwarded, with what the command leaves. -/
theorem stream_forwards {it : StreamItem} {rest : List StreamItem} {w : Work} {s : State} (hs : Memory.wf s = true)
    (hr : s.dev.power.railsUp = true) (hw : w.wiped = .none) (hl : s.dev.power.lost = .none) (hp : w.dev.power = s.dev.power)
    (hq : s.dev.mould.queue = it :: rest) (he : s.dev.mould.ssEnable = true)
    (hroom : (s.dev.mould.ssTail - s.dev.mould.ssHead).toNat + it.bytes ≤ 2 ^ s.dev.mould.ssSize.toNat)
    (h : (forwardStage it s.dev.mould).run (workOf s) = (.ok (), w)) :
    ∃ t, exec .streamForward s = .next t ∧ StoredBy s t w.stores ∧
      t.dev.mould = (forwarded it rest (s.dev.mould.ssTail + BitVec.ofNat 64 it.bytes) s.dev).mould ∧ t.dev.out = w.dev.out ∧
      t.dev.rings = s.dev.rings ∧ t.dev.descs = s.dev.descs ∧ t.dev.ctxs = s.dev.ctxs := by
  obtain ⟨hmould, hrings, hdescs, hctxs⟩ : w.dev.mould = s.dev.mould ∧ w.dev.rings = s.dev.rings ∧ w.dev.descs = s.dev.descs ∧
      w.dev.ctxs = s.dev.ctxs := by
    simpa [streamView] using forwardStage_streamView it s.dev.mould (workOf s) _ w h
  have hruns : poweredWork streamForward (workOf s) = _ := (if_pos hr).trans (streamForward_runs hq he hroom h)
  have hpower (v : Dev) : (forwarded it rest (s.dev.mould.ssTail + BitVec.ofNat 64 it.bytes) v).power = v.power := by
    rw [forwarded_eq]
    rfl
  refine ⟨_, runWork_eq hruns, storedBy_commit (w := onDev _ (snoopsUsed { w with dest := [] })) hs hw hl ((hpower _).trans hp), ?_⟩
  rw [commit_dev, breakReserved_only, onDev_dev, workOf_dev, forwarded_eq, forwarded_eq]
  refine ⟨?_, rfl, hrings, hdescs, hctxs⟩
  simp only [setMould, snoopsUsed, getPair, hmould]

/-! ### The obligation -/

section
variable {k : Fin 5} {w : HostWrite} {s : State} {q : Pair} (hs : WriteLands s 0x60100 w.ide)
  (he : (getPair s.dev k.val).enable = false) (hq : q = { getPair s.dev k.val with override := w.value.getLsbD 1 })
  (hlen : s.dev.mould.pairs.length = 5)
include hs he hq hlen

/-- A pairing refused at its enable: the side is REFUSED, and says so where one power feed is why and its group is right (R387, R388). -/
theorem charge_refused (hne : pairRefusal (setPair k.val q s.dev) k.val q ≠ 0) :
    let e := pairRefusal (setPair k.val q s.dev) k.val q
    let v := setPair k.val { q with state := 3, err := BitVec.ofNat 3 e } s.dev
    ∃ t, exec (.chargeEnable k w) s = .next t ∧ t.dev.mould = v.mould ∧
      ((e ≠ 3 ∨ pairGroupOk v k.val q = false) → t = { s with dev := v }) ∧
      (e = 3 → pairGroupOk v k.val q = true → t.dev = sendPairing q true v) ∧ workSide t.dev = workSide s.dev ∧
      t.mem = s.mem ∧ t.host = s.host := by
  intro e v
  have hk : k.val < s.dev.mould.pairs.length := by rw [hlen]; exact k.isLt
  have hon : pairOn k.val (setPair k.val q s.dev) = if e = 3 ∧ pairGroupOk v k.val q = true then sendPairing q true v else v := by
    rw [pairOn_refused (getPair_setPair_same q hk) hne]
    simp only [setPair_setPair]
    rfl
  have hexec := exec_chargeEnable hs he
  rw [← hq, hon] at hexec
  refine ⟨_, hexec, ?_⟩
  by_cases hsends : e = 3 ∧ pairGroupOk v k.val q = true
  · rw [if_pos hsends]
    obtain ⟨h3, hok⟩ := hsends
    exact ⟨sendPairing_mould .., fun h => absurd hok (by simpa [h3] using h), fun _ _ => rfl, sendPairing_workSide .., rfl, rfl⟩
  · rw [if_neg hsends]
    exact ⟨rfl, fun _ => rfl, fun h3 hok => absurd ⟨h3, hok⟩ hsends, rfl, rfl, rfl⟩

/-- A pairing enabled: the side waits and tells its partner, and refuses another's frame that was kept for it (R387, R388). -/
theorem charge_waits (h0 : pairRefusal (setPair k.val q s.dev) k.val q = 0) :
    let on : Pair := { q with enable := true, state := 1, err := 0, unprot := false }
    let v := sendPairing on false (setPair k.val on s.dev)
    ∃ t, exec (.chargeEnable k w) s = .next t ∧ (s.dev.mould.asked = [] → t.dev = v) ∧
      (∀ g node, s.dev.mould.asked = [(g, node)] → mayAnswer v g node = true → sideOf v g node = some k.val →
        (g ≠ on.group ∨ node ≠ on.node) →
        t.dev.mould = { (setPair k.val (if node = on.node then { on with state := 3, err := 7 } else on) s.dev).mould with asked := [] } ∧
        t.dev = sendPairing { on with group := g, node := node } true { v with mould := t.dev.mould }) ∧
      workSide t.dev = workSide s.dev ∧ t.mem = s.mem ∧ t.host = s.host := by
  intro on v
  have hk : k.val < s.dev.mould.pairs.length := by rw [hlen]; exact k.isLt
  have hmould : v.mould = (setPair k.val on s.dev).mould := sendPairing_mould ..
  have hasked : v.mould.asked = s.dev.mould.asked := by rw [hmould]; rfl
  have hpair : getPair v k.val = on := by
    rw [getPair, hmould]
    exact getPair_setPair_same on hk
  have hexec := exec_chargeEnable hs he
  have hside := pairOn_workSide k.val (setPair k.val q s.dev)
  rw [pairOn_waits (getPair_setPair_same q hk) h0, setPair_setPair] at hside
  rw [← hq, pairOn_waits (getPair_setPair_same q hk) h0, setPair_setPair] at hexec
  refine ⟨_, hexec, fun h => answerAsked_none (hasked.trans h), fun g node h hm hk hother => ?_, hside, rfl, rfl⟩
  have hdev := answerAsked_one hpair (hasked.trans h) hm hk hother
  have hmet := (congrArg Dev.mould hdev).trans (sendPairing_mould ..)
  refine ⟨hmet.trans (metOther_mould _ _ rfl hmould), hdev.trans (congrArg _ ?_)⟩
  rw [hmet]
  exact metOther_only ..

end

/-- Settles O58: the registers of the mould block by their equations, the two sides of a pairing by what a frame meets, and a record
forwarded by the stages that read and write it. -/
theorem mouldsPairAndForward : Obligations.MouldsPairAndForward := by
  refine ⟨fun w s hs => ⟨fun h => ?_, fun hx hp hst => ?_⟩, fun k w s hs hlen => ⟨fun he hne => ?_, fun he h0 => ?_, fun he => ?_⟩,
    fun k g node names feed ov refuse s h1 hg hn => ?_, fun k g node names feed ov s hother => ?_, fun k p ide s hs hb => ⟨?_, ?_⟩,
    fun w s hs he => ?_, fun it rest w s hs hr hw hl hp hq he hroom h => ?_⟩
  · exact (exec_mouldRoleWrite hs).trans (by rw [roleWrite_refused h])
  · exact (exec_mouldRoleWrite hs).trans (by rw [roleWrite_taken hx hp hst]; rfl)
  · obtain ⟨t, hx, hmould, hstays, hsends, hside, hmem, hhost⟩ := charge_refused hs he rfl hlen hne
    obtain ⟨hdescs, hrings, hgroups⟩ := workSide_eq_iff.mp hside
    exact ⟨t, hx, hmould, hstays, hsends, hdescs, hrings, hgroups, hmem, hhost⟩
  · obtain ⟨t, hx, hnone, hone, hside, hmem, hhost⟩ := charge_waits hs he rfl hlen h0
    obtain ⟨hdescs, hrings, hgroups⟩ := workSide_eq_iff.mp hside
    exact ⟨t, hx, ⟨fun h => ⟨hnone h, sendPairing_mould ..⟩, hone⟩, hdescs, hrings, hgroups, hmem, hhost⟩
  · exact exec_chargeDisable hs he
  · refine ⟨fun hr => runDev_eq (pairingFrame_refused rfl h1 hg hn hr),
      fun hr hbad => ⟨_, runDev_eq (pairingFrame_refuses rfl h1 hg hn hr hbad), rfl, rfl, rfl⟩, fun hr hnames hgood => ?_⟩
    obtain ⟨hdescs, -, hgroups⟩ := workSide_eq_iff.mp (sendPairing_workSide (getPair s.dev k.val) false
      (setPair k.val { getPair s.dev k.val with state := 2, unprot := ov || (getPair s.dev k.val).override } s.dev))
    exact ⟨_, runDev_eq (pairingFrame_pairs rfl h1 hg hn hr hnames hgood), sendPairing_mould .., hdescs, hgroups, rfl, rfl⟩
  · have hframe (refuse : Bool) := pairingFrame_other (names := names) (feed := feed) (ov := ov) (refuse := refuse) (v := s.dev) rfl hother
    exact ⟨runDev_unchanged (hframe true), fun hm => runDev_unchanged ((hframe false).trans (pairingOther_unanswered hm)),
      fun hm hside hn => runDev_eq ((hframe false).trans (pairingOther_kept hm hside hn)), fun j hm hside hj =>
        runDev_eq ((hframe false).trans ((pairingOther_refuses hm hside).trans (refuseOther_refuses rfl hj)))⟩
  · exact fun h => exec_persistedWrite hs (persistedWrite_outside h)
  · intro hc hl
    have honly := castTo_only k.val p s.dev
    exact ⟨_, exec_persistedWrite hs (persistedWrite_inside hb hc hl), (congrArg Dev.mould honly :), castTo_silent, castTo_told,
      (congrArg Dev.rings honly :), (congrArg Dev.descs honly :), rfl, rfl⟩
  · exact (runWork_guarded_lands (mouldWrite 2 ⟨true, false, w.value ||| placeB 8 true⟩) hs).trans
      (congrArg (fun v => Host.Outcome.next { s with dev := v }) (streamCfg_enables he))
  · obtain ⟨t, hx, hstored, hmould, hout, hrings, hdescs, hctxs⟩ := stream_forwards hs hr hw hl hp hq he hroom h
    rw [forwarded_eq] at hmould
    refine ⟨t, hx, hstored, ?_, ?_, ?_, ?_, ?_, hout, hrings, hdescs, hctxs⟩
    all_goals rw [hmould]
    all_goals rfl

end Sys2Proof.Machine
end

section
/-! What a step runs, what reset holds, and what no command touches. -/

namespace Sys2Proof.Machine

open Sys2Proof

theorem step_front {c : Instr} {rest : List Instr} {s : State} (h : s.pending = c :: rest) :
    step s = exec c { s with pending := rest } := by
  rw [step, h]

theorem step_empty {s : State} (h : s.pending = []) : step s = .next (idle s) := by
  rw [step, h]

/-- Settles O1: a step looks at the queue alone, and `idle` at the time base alone. -/
theorem stepRunsTheFrontCommand : Obligations.StepRunsTheFrontCommand := by
  refine ⟨fun c rest s h => step_front h, fun s h hr => ?_, fun s h hr => ?_⟩
  · exact (step_empty h).trans (congrArg _ (if_pos hr))
  · exact (step_empty h).trans (congrArg _ (if_neg (Bool.eq_false_iff.mp hr)))

theorem tablesWf_reset : TablesWf State.reset.dev := by constructor <;> decide

/-- Settles O4: reset lists no byte and no entry, and its registers are the defaults of their maps. -/
theorem resetValues : Obligations.ResetValues := by
  refine ⟨rfl, tablesWf_reset, ?_⟩
  decide

/-- Settles O5: a command commits the work of an operation, and a commit leaves the queue. -/
theorem commandsLeaveTheQueue : Obligations.CommandsLeaveTheQueue := by
  constructor
  · intro c s
    obtain ⟨w, hw⟩ := exec_commits c s
    exact ⟨_, hw⟩
  · intro c s t ht
    obtain ⟨w, hw⟩ := exec_commits c s
    rw [hw] at ht
    cases ht
    rfl

end Sys2Proof.Machine
end

section
/-! The sparse tables through the parts that commands are made of (R236): branches, folds, answers, and the stages of an access. What
keeps the tables canonical is said of each operation once, below, in the order of the model's files. -/

namespace Sys2Proof.Machine

open Sys2Proof

/-- A command's work keeps the tables canonical. -/
def WorkKeepsTables (f : Work → Work) : Prop := ∀ w, TablesWf w.dev → TablesWf (f w).dev

/-- A command leaves the tables canonical. -/
def TablesAfter (o : Host.Outcome State Fault Refusal) : Prop := ∀ t, o = .next t → TablesWf t.dev

/-- Whatever a stage answers is of a kind. -/
def AccGives {α : Type} (P : α → Prop) (m : Acc α) : Prop := ∀ w a u, m.run w = (.ok a, u) → P a

/-- The work that a chisel instruction leaves to be done keeps the tables canonical. -/
def KeepsAfter (o : Option (Work → Work)) : Prop := ∀ f, o = some f → WorkKeepsTables f

section
variable {α β : Type} {v u : Dev} {w w' : Work} {c : Prop} {_ : Decidable c}

/-! ### Branches and folds -/

theorem ite_tables (hv : TablesWf v) (hu : TablesWf u) : TablesWf (if c then v else u) := by
  split
  · exact hv
  · exact hu

theorem iteApp_tables {f g : Dev → Dev} (hf : TablesWf (f v)) (hg : TablesWf (g v)) : TablesWf ((if c then f else g) v) := by
  split
  · exact hf
  · exact hg

theorem iteWork_tables (hw : TablesWf w.dev) (hw' : TablesWf w'.dev) : TablesWf (if c then w else w').dev := by
  split
  · exact hw
  · exact hw'

theorem onDev_tables {f : Dev → Dev} (h : TablesWf (f w.dev)) : TablesWf (onDev f w).dev := h

theorem foldlWork_tables (f : Work → α → Work) (hf : ∀ w a, TablesWf w.dev → TablesWf (f w a).dev) :
    ∀ (l : List α) (w : Work), TablesWf w.dev → TablesWf (l.foldl f w).dev
  | [], _, h => h
  | a :: l, w, h => foldlWork_tables f hf l (f w a) (hf w a h)

/-! ### What a function answers beside the device, or instead of it -/

theorem fst_tables {p : Dev × α} {a : α} (h : TablesWf p.1) (e : p = (u, a)) : TablesWf u := by
  rw [e] at h
  exact h

theorem snd_tables {p : α × Dev} {a : α} (h : TablesWf p.2) (e : p = (a, u)) : TablesWf u := by
  rw [e] at h
  exact h

theorem ans_canon {a : α} (h : TablesWf v) : TablesWf (a, v).2 := h

theorem iteAns_canon {p q : α × Dev} (hp : TablesWf p.2) (hq : TablesWf q.2) : TablesWf (if c then p else q).2 := by
  split
  · exact hp
  · exact hq

theorem none_tables {P : α → Prop} : ∀ a : α, none = some a → P a := fun _ h => nomatch h

theorem some_tables (h : TablesWf v) : ∀ u : Dev, some v = some u → TablesWf u := fun _ e => Option.some.inj e ▸ h

theorem iteOpt_tables {P : α → Prop} {o p : Option α} (ho : ∀ a, o = some a → P a) (hp : ∀ a, p = some a → P a) :
    ∀ a, (if c then o else p) = some a → P a := by
  split
  · exact ho
  · exact hp

theorem getD_tables {o : Option Dev} (ho : ∀ u, o = some u → TablesWf u) (h : TablesWf v) : TablesWf (o.getD v) := by
  cases o with
  | none => exact h
  | some u => exact ho u rfl

/-! ### Stages of an access -/

theorem acc_run_tables {m : Acc α} {r : Except Stop α} (hm : AccKeepsTables m) (e : m.run w = (r, w')) (h : TablesWf w.dev) :
    TablesWf w'.dev := by
  have hw := hm w h
  rw [e] at hw
  exact hw

theorem acc_ite_tables {m n : Acc α} (hm : AccKeepsTables m) (hn : AccKeepsTables n) : AccKeepsTables (if c then m else n) := by
  split
  · exact hm
  · exact hn

theorem acc_modify_tables {f : Work → Work} (hf : WorkKeepsTables f) : AccKeepsTables (modify f : Acc PUnit) := hf

theorem acc_set_tables (h : TablesWf w.dev) : AccKeepsTables (set w : Acc PUnit) := fun _ _ => h

/-- A stage that reads the work may set it again to what it has made of it. -/
theorem acc_getThen_tables {f : Work → Acc α} (hf : ∀ w, TablesWf w.dev → AccKeepsTables (f w)) : AccKeepsTables (get >>= f) :=
  fun w h => hf w h w h

theorem acc_map_tables {f : α → β} {m : Acc α} (hm : AccKeepsTables m) : AccKeepsTables (f <$> m) :=
  acc_bind_tables hm fun _ => acc_pure_tables _

theorem acc_forIn_tables {f : α → β → Acc (ForInStep β)} (hf : ∀ a b, AccKeepsTables (f a b)) :
    ∀ (l : List α) (b : β), AccKeepsTables (forIn l b f)
  | [], b => acc_pure_tables b
  | a :: l, b => by
    rw [List.forIn_cons]
    refine acc_bind_tables (hf a b) fun r => ?_
    cases r with
    | done b => exact acc_pure_tables b
    | yield b => exact acc_forIn_tables hf l b

theorem acc_tryCatch_tables {m : Acc α} {f : Stop → Acc α} (hm : AccKeepsTables m) (hf : ∀ e, AccKeepsTables (f e)) :
    AccKeepsTables (tryCatch m f) := by
  intro w h
  have hw := hm w h
  rw [acc_tryCatch]
  split
  · next e => exact acc_run_tables hm e h
  · next e => exact hf _ _ (acc_run_tables hm e h)

theorem acc_filterAuxM_tables {f : α → Acc Bool} (hf : ∀ a, AccKeepsTables (f a)) :
    ∀ l kept : List α, AccKeepsTables (l.filterAuxM f kept)
  | [], _ => acc_pure_tables _
  | a :: l, _ => acc_bind_tables (hf a) fun _ => acc_filterAuxM_tables hf l _

theorem acc_filterM_tables {f : α → Acc Bool} (hf : ∀ a, AccKeepsTables (f a)) (l : List α) : AccKeepsTables (l.filterM f) :=
  acc_bind_tables (acc_filterAuxM_tables hf l []) fun _ => acc_pure_tables _

/-! ### What a stage answers -/

theorem acc_throw_gives {P : α → Prop} {e : Stop} : AccGives P (throw e : Acc α) := by
  rintro w a u ⟨⟩

theorem acc_bind_gives {P : β → Prop} {m : Acc α} {f : α → Acc β} (hf : ∀ a, AccGives P (f a)) : AccGives P (m >>= f) := by
  intro w b t h
  obtain ⟨a, u, -, h⟩ := acc_bind_ok_inv h
  exact hf a u b t h

theorem acc_ite_gives {P : α → Prop} {m n : Acc α} (hm : AccGives P m) (hn : AccGives P n) : AccGives P (if c then m else n) := by
  split
  · exact hm
  · exact hn

theorem acc_none_gives : AccGives KeepsAfter (pure none) := by
  rintro w a u ⟨⟩ f ⟨⟩

theorem acc_some_gives {f : Work → Work} (hf : WorkKeepsTables f) : AccGives KeepsAfter (pure (some f)) := by
  rintro w a u ⟨⟩ g ⟨⟩
  exact hf

end

end Sys2Proof.Machine
end

section
/-! The tables under the operations that every command is made of: events, descriptors' parts, the failure path, and access to memory. -/

namespace Sys2Proof.Machine

open Sys2Proof

/-! ### Ops -/

theorem pokes_canon {sp : Space} {a : Nat} {bs : List Byte} {w : Work} (h : TablesWf w.dev) : TablesWf (pokes sp a bs w).dev :=
  (pokes_dev sp bs a w).symm ▸ h

theorem powered_canon {f : Dev → Dev} {v : Dev} (hf : KeepsTables f) (h1 : TablesWf v) : TablesWf (powered f v) :=
  ite_tables (hf _ h1) h1

theorem poweredWork_canon {f : Work → Work} {w : Work} (hf : WorkKeepsTables f) (h1 : TablesWf w.dev) :
    TablesWf (poweredWork f w).dev :=
  iteWork_tables (hf _ h1) h1

theorem emit_canon {o : Out} {v : Dev} (h : TablesWf v) : TablesWf (emit o v) := { h with }
theorem freeNext_canon {v : Dev} (h : TablesWf v) : TablesWf (freeNext v) := { h with }
theorem modCtx_canon {x : Nat} {f : Ctx → Ctx} {v : Dev} (h : TablesWf v) : TablesWf (modCtx x f v) := setCtx_tables _ _ h
theorem modRing_canon {r : Nat} {f : Ring → Ring} {v : Dev} (h : TablesWf v) : TablesWf (modRing r f v) := setRing_tables _ _ h

theorem modEngine_canon {e : Nat} {f : Engine → Engine} {v : Dev} (h : TablesWf v) : TablesWf (modEngine e f v) :=
  setEngine_tables _ _ h

theorem modChisel_canon {i : Nat} {f : Chisel → Chisel} {v : Dev} (h : TablesWf v) : TablesWf (modChisel i f v) :=
  setChisel_tables _ _ h

theorem modGroup_canon {g : Nat} {f : Group → Group} {v : Dev} (h : TablesWf v) : TablesWf (modGroup g f v) := setGroup_tables _ _ h
theorem modPart_canon {d p : Nat} {f : Part → Part} {v : Dev} (h : TablesWf v) : TablesWf (modPart d p f v) := modDesc_tables _ _ h

theorem ctrSteps_canon {set idx : Nat} {v : Dev} (h : TablesWf v) : TablesWf (ctrSteps set idx v) :=
  freeNext_canon (ctrAdd_tables _ _ _ h)

theorem ctrPass_canon {ctx core n prime : Nat} {v : Dev} (h : TablesWf v) : TablesWf (ctrPass ctx core n prime v) := by
  unfold ctrPass
  extract_lets _ v0 _ v1
  have hv0 : TablesWf v0 := freeNext_canon (ctrAdd_tables _ _ _ (ctrAdd_tables _ _ _ h))
  have hv1 : TablesWf v1 := freeNext_canon (ctrAdd_tables _ _ _ hv0)
  exact ite_tables (ctrAdd_tables _ _ _ hv1) hv1

theorem stabHold_canon {core d p : Nat} {v : Dev} (h : TablesWf v) : TablesWf (stabHold core d p v) := by
  unfold stabHold
  refine ite_tables h ?_
  split
  · exact h
  · extract_lets v0
    have hv0 : TablesWf v0 := { h with }
    exact ctrHigh_tables _ _ _ hv0

theorem stabRelease_canon {test : StabEntry → Bool} {v : Dev} (h : TablesWf v) : TablesWf (stabRelease test v) := { h with }

theorem stabWait_canon {core : Nat} {who : StabIssuer} {v : Dev} (h : TablesWf v) : TablesWf (stabWait core who v) :=
  ite_tables h (ctrAdd_tables _ _ _ { h with })

theorem stabForget_canon {test : StabIssuer → Bool} {v : Dev} (h : TablesWf v) : TablesWf (stabForget test v) := { h with }

theorem stabPass_canon {core : Nat} {who : StabIssuer} {v : Dev} (h : TablesWf v) : TablesWf (stabPass core who v) :=
  ctrHigh_tables _ _ _ { h with }

theorem traceTo_canon {q : Nat} {r : TraceRec} {v : Dev} (h : TablesWf v) : TablesWf (traceTo q r v) := { h with }
theorem trcCause_canon {cause : Nat} {v : Dev} (h : TablesWf v) : TablesWf (trcCause cause v) := ite_tables { h with } h

theorem raise_canon {code ctx : Nat} {payload : List Byte} {v : Dev} (h : TablesWf v) : TablesWf (raise code ctx payload v) := by
  unfold raise
  extract_lets _ _ _ v0 v1
  have hv0 : TablesWf v0 := ctrHigh_tables _ _ _ { h with }
  have hv1 : TablesWf v1 := ite_tables (traceTo_canon hv0) hv0
  exact ite_tables (trcCause_canon hv1) hv1

theorem raiseRingError_canon {r err : Nat} {v : Dev} (h : TablesWf v) : TablesWf (raiseRingError r err v) := raise_canon h

theorem raiseMemUe_canon {ctx addr : Nat} {hostAddr : Bool} {v : Dev} (h : TablesWf v) :
    TablesWf (raiseMemUe ctx addr hostAddr v) :=
  raise_canon h

theorem tracePart_canon {type : Nat} {x : Desc} {p : Nat} {extra : List Byte} {v : Dev} (h : TablesWf v) :
    TablesWf (tracePart type x p extra v) := by
  unfold tracePart
  refine ite_tables ?_ h
  split
  exact traceTo_canon h

theorem traceEnd_canon {x : Desc} {p : Nat} {st : Byte} {v : Dev} (h : TablesWf v) : TablesWf (traceEnd x p st v) := by
  unfold traceEnd
  extract_lets v0
  have hv0 : TablesWf v0 := tracePart_canon h
  exact ite_tables (trcCause_canon hv0) hv0

theorem startPart_canon {d p : Nat} {v : Dev} (h : TablesWf v) : TablesWf (startPart d p v) := by
  unfold startPart
  split
  · exact h
  · extract_lets v0
    have hv0 : TablesWf v0 := by
      unfold v0
      split
      · exact stabHold_canon h
      · exact h
    exact tracePart_canon (modPart_canon hv0)

theorem bankSweep_canon {v : Dev} (h : TablesWf v) : TablesWf (bankSweep v) := { h with }
theorem bankClean_canon {e b : Nat} {v : Dev} (h : TablesWf v) : TablesWf (bankClean e b v) := { h with }

theorem releaseCtxBanks_canon {x : Nat} {v : Dev} (h : TablesWf v) : TablesWf (releaseCtxBanks x v) := by
  unfold releaseCtxBanks
  exact bankSweep_canon { h with engines := by dsimp only; exact tabMap_wf _ _ _ h.engines }

theorem dropEngineParts_canon {test : Nat → Nat → Bool} {v : Dev} (h : TablesWf v) : TablesWf (dropEngineParts test v) := by
  unfold dropEngineParts
  exact bankSweep_canon { h with engines := by dsimp only; exact tabMap_wf _ _ _ h.engines }

theorem traceFab_canon {type ctx other seq port : Nat} {v : Dev} (h : TablesWf v) :
    TablesWf (traceFab type ctx other seq port v) :=
  traceTo_canon (freeNext_canon h)

theorem floodOn_canon {ports : List Nat} {hops : BitVec 4} {m : FabMsg} {v : Dev} (h : TablesWf v) :
    TablesWf (floodOn ports hops m v) :=
  emit_canon { h with }

theorem announceOn_canon {ports : List Nat} {m : W32 → FabMsg} {v : Dev} (h : TablesWf v) : TablesWf (announceOn ports m v) := by
  unfold announceOn
  extract_lets _ v1 v2
  have hv1 : TablesWf v1 := ite_tables (foldl_tables _ (fun _ _ h => traceFab_canon h) _ _ h) h
  have hv2 : TablesWf v2 := floodOn_canon hv1
  exact { hv2 with }

theorem ownChange_canon {v : Dev} (h : TablesWf v) : TablesWf (ownChange v) := { h with }

theorem sendFrame_canon {port node msg : Nat} {mask : BitVec 24} {frame : Nat} {m : FabMsg} {v : Dev} (h : TablesWf v) :
    TablesWf (sendFrame port node msg mask frame m v) :=
  ctrAdd_tables _ _ _ (emit_canon { h with })

theorem sendSegs_canon {grp node : Nat} {mask : BitVec 24} {begun : Option Nat} {seg : Nat} {bodies : List FabMsg} {v : Dev}
    (h : TablesWf v) (c : Nat × Dev) (hs : sendSegs grp node mask begun seg bodies v = some c) : TablesWf c.2 := by
  unfold sendSegs at hs
  split at hs
  · cases hs
  · cases hs
    refine foldl_tables _ (fun _ _ h => sendFrame_canon h) _ _ (ite_tables (traceFab_canon (ite_tables h ?_)) (ite_tables h ?_))
    · exact { h with }
    · exact { h with }

theorem sendMsg_canon {grp node : Nat} {mask : BitVec 24} {bodies : List FabMsg} {v : Dev} (h : TablesWf v) (u : Dev)
    (hs : sendMsg grp node mask bodies v = some u) : TablesWf u := by
  unfold sendMsg at hs
  obtain ⟨c, hc, rfl⟩ := Option.map_eq_some_iff.mp hs
  exact sendSegs_canon h c hc

theorem goneNotices_canon {gno : Nat} {v : Dev} (h : TablesWf v) : TablesWf (goneNotices gno v) := by
  unfold goneNotices
  refine foldl_tables _ (fun _ _ h => ?_) _ _ h
  split
  · exact getD_tables (sendMsg_canon h) h
  · exact h

theorem abortNotices_canon {x : Nat} {v : Dev} (h : TablesWf v) : TablesWf (abortNotices x v) :=
  foldl_tables _ (fun _ _ h => foldl_tables _ (fun _ _ h1 => getD_tables (sendMsg_canon h1) h1) _ _ h) _ _ h

theorem abortParts_canon {test : Desc → Bool} {v : Dev} (h : TablesWf v) : TablesWf (abortParts test v) := by
  unfold abortParts
  extract_lets _ _ v0 _
  have hv0 : TablesWf v0 := stabRelease_canon (dropEngineParts_canon h)
  exact foldl_tables _ (fun _ _ h1 => traceEnd_canon h1) _ _ { hv0 with }

theorem failCtx_canon {x tag ring st : Nat} {v : Dev} (h : TablesWf v) : TablesWf (failCtx x tag ring st v) := by
  unfold failCtx
  refine ite_tables h ?_
  extract_lets v0 v1 v2 _ v3 v4
  have hv0 : TablesWf v0 := modCtx_canon h
  have hv1 : TablesWf v1 := abortParts_canon hv0
  have hv2 : TablesWf v2 := stabForget_canon (releaseCtxBanks_canon hv1)
  have hv3 : TablesWf v3 := by
    unfold v3
    exact { hv2 with rings := by dsimp only; exact tabMap_wf _ _ _ hv2.rings }
  have hv4 : TablesWf v4 := raise_canon hv3
  exact abortNotices_canon hv4

theorem failCtxOpen_canon {x st : Nat} {v : Dev} (h : TablesWf v) : TablesWf (failCtxOpen x st v) := failCtx_canon { h with }
theorem failCtxBy_canon {x : Desc} {st : Byte} {v : Dev} (h : TablesWf v) : TablesWf (failCtxBy x st v) := failCtx_canon h

theorem endPart_canon {d p : Nat} {st : Byte} {fault : W64} {f : Flags} {v : Dev} (h : TablesWf v) :
    TablesWf (endPart d p st fault f v) := by
  unfold endPart
  split
  · exact h
  · extract_lets v0
    have hv0 : TablesWf v0 := stabRelease_canon (modPart_canon h)
    exact ite_tables (failCtxBy_canon hv0) hv0

theorem sendLeave_canon {v : Dev} (h : TablesWf v) : TablesWf (sendLeave v) := announceOn_canon h

theorem retire_canon {v : Dev} (h : TablesWf v) : TablesWf (retire v) := by
  unfold retire
  refine ite_tables h (sendLeave_canon (foldl_tables _ (fun _ _ hu => ?_) _ _ ?_))
  · dsimp only
    exact failCtx_canon { hu with }
  · exact { h with }

theorem fenceCore_canon {c : Nat} {v : Dev} (h : TablesWf v) : TablesWf (fenceCore c v) := by
  unfold fenceCore
  extract_lets _ _ _ _ v0 v1 v3 v5 v6 v7
  have hv0 : TablesWf v0 := { h with }
  have hv1 : TablesWf v1 := dropEngineParts_canon hv0
  have hv3 : TablesWf v3 := bankSweep_canon (foldl_tables _ (fun _ _ h2 => modEngine_canon h2) _ _ hv1)
  have hv5 : TablesWf v5 := foldl_tables _ (fun _ _ h4 => modChisel_canon h4) _ _ hv3
  have hv6 : TablesWf v6 := stabForget_canon hv5
  have hv7 : TablesWf v7 := stabRelease_canon hv6
  exact { hv7 with }

theorem stackFaulty_canon {s : Nat} {v : Dev} (h : TablesWf v) : TablesWf (stackFaulty s v) := retire_canon { h with }

theorem countUe_canon {a : Nat} {v : Dev} (h : TablesWf v) : TablesWf (countUe a v) := by
  unfold countUe
  extract_lets +onlyGivenNames _ _ v0
  have hv0 : TablesWf v0 := ite_tables (ctrAdd_tables _ _ _ h) (ctrAdd_tables _ _ _ h)
  refine ite_tables hv0 ?_
  extract_lets +onlyGivenNames _ v1
  have hv1 : TablesWf v1 := { hv0 with ueTimes := tabPut_wf _ _ _ _ hv0.ueTimes }
  exact ite_tables (ite_tables (stackFaulty_canon hv1) (fenceCore_canon hv1)) hv1

theorem meetUe_canon {ctx a : Nat} {v : Dev} (h : TablesWf v) : TablesWf (meetUe ctx a v) :=
  ite_tables (countUe_canon (raiseMemUe_canon (freeNext_canon h))) (countUe_canon (raiseMemUe_canon h))

theorem countCorrected_canon {a : Nat} {v : Dev} (h : TablesWf v) : TablesWf (countCorrected a v) :=
  ite_tables (ctrAdd_tables _ _ _ h) (ctrAdd_tables _ _ _ h)

theorem snoopGate_canon {a : Nat} {write : Bool} : AccKeepsTables (snoopGate a write) := by
  unfold snoopGate
  refine acc_getThen_tables fun _ hw => ?_
  split
  · exact acc_pure_tables _
  · exact acc_ite_tables (acc_throw_tables _) (acc_set_tables hw)

theorem failUe_canon {α : Type} {ctx a : Nat} : AccKeepsTables (failUe (α := α) ctx a) :=
  acc_bind_tables acc_get_tables fun _ => acc_bind_tables (acc_modify_tables fun _ h => meetUe_canon h) fun _ => acc_throw_tables _

theorem readPhys_canon {ctx a : Nat} : AccKeepsTables (readPhys ctx a) :=
  acc_bind_tables snoopGate_canon fun _ => acc_bind_tables acc_get_tables fun _ =>
    acc_ite_tables failUe_canon (acc_pure_tables _)

theorem readPhys64_canon {ctx a : Nat} : AccKeepsTables (readPhys64 ctx a) :=
  acc_bind_tables (acc_mapM_tables (fun _ => readPhys_canon) _) fun _ => acc_pure_tables _

theorem ueFails_canon {α : Type} {fail : Dev → Dev} {m : Acc α} (hfail : KeepsTables fail) (hm : AccKeepsTables m) :
    AccKeepsTables (ueFails (α := α) fail m) := by
  unfold ueFails
  refine acc_tryCatch_tables hm fun _ => ?_
  split
  · exact acc_ite_tables (acc_bind_tables (acc_modify_tables fun _ h => onDev_tables (hfail _ h)) fun _ => acc_throw_tables _)
      (acc_throw_tables _)
  · exact acc_throw_tables _

theorem ueFailsOpen_canon {α : Type} {ctx : Nat} {x2 : Acc α} (hx2 : AccKeepsTables x2) :
    AccKeepsTables (ueFailsOpen (α := α) ctx x2) :=
  ueFails_canon (fun _ h => failCtxOpen_canon h) hx2

theorem keepUe_canon {w : Work} {st : Byte} {x2 : W64} {w' : Work} (h : TablesWf w.dev) (h1 : TablesWf w'.dev) :
    TablesWf (keepUe w st x2 w').dev :=
  iteWork_tables h1 h

theorem walkEntry_canon {r : Requestor} {va : W64} {lvl table : Nat} {wOk : Bool} :
    AccKeepsTables (walkEntry r va lvl table wOk) := by
  unfold walkEntry
  extract_lets +onlyGivenNames -underBinder jp1
  have hjp1 : ∀ a, AccKeepsTables (jp1 a) := by
    intro _
    unfold jp1
    refine acc_bind_tables readPhys64_canon fun _ => ?_
    extract_lets +onlyGivenNames -underBinder _ _ jp0
    have hjp0 : ∀ a, AccKeepsTables (jp0 a) := fun _ => acc_ite_tables (acc_ite_tables (acc_bind_tables (acc_throw_tables _) fun _ =>
      acc_pure_tables _) (acc_pure_tables _)) (acc_pure_tables _)
    clear_value jp0
    exact acc_ite_tables (acc_bind_tables (acc_throw_tables _) fun _ => hjp0 ()) (hjp0 ())
  clear_value jp1
  exact acc_ite_tables (acc_bind_tables (acc_throw_tables _) fun _ => hjp1 ()) (hjp1 ())

theorem walk_canon {r : Requestor} {va : W64} : ∀ {l table : Nat} {ok : Bool}, AccKeepsTables (walk r va l table ok)
  | 0, _, _ => by
    unfold walk
    refine acc_bind_tables walkEntry_canon fun _ => ?_
    split
    · exact acc_pure_tables _
    · exact acc_throw_tables _
  | l + 1, _, _ => by
    unfold walk
    refine acc_bind_tables walkEntry_canon fun _ => ?_
    split
    · exact acc_pure_tables _
    · exact walk_canon

theorem tlbAdd_canon {t : TlbEntry} {v : Dev} (h : TablesWf v) : TablesWf (tlbAdd t v) := { h with }

theorem atsTranslate_canon {r : Requestor} {va : W64} {ha : Nat} {write : Bool} : AccKeepsTables (atsTranslate r va ha write) := by
  unfold atsTranslate
  refine acc_getThen_tables fun _ hw => ?_
  split
  · exact acc_throw_tables _
  · refine acc_ite_tables ?_ (acc_ite_tables (acc_throw_tables _) (acc_ite_tables (acc_throw_tables _) (acc_pure_tables _)))
    refine acc_bind_tables ?_ (fun _ => acc_throw_tables _)
    refine acc_set_tables ?_
    extract_lets v1
    have hv1 : TablesWf v1 := hw
    exact { hv1 with }

theorem translate_canon {r : Requestor} {va : W64} {write : Bool} : AccKeepsTables (translate r va write) := by
  unfold translate
  extract_lets +onlyGivenNames -underBinder jp12
  have hjp12 : ∀ a, AccKeepsTables (jp12 a) := by
    intro _
    unfold jp12
    extract_lets +onlyGivenNames -underBinder _
    refine acc_bind_tables acc_get_tables fun _ => ?_
    extract_lets +onlyGivenNames -underBinder o6 jp8
    clear_value o6
    have hjp8 : ∀ a, AccKeepsTables (jp8 a) := by
      intro _
      unfold jp8
      extract_lets +onlyGivenNames -underBinder jp7
      have hjp7 : ∀ a, AccKeepsTables (jp7 a) := fun _ => acc_ite_tables (acc_ite_tables (acc_throw_tables _) atsTranslate_canon)
        (acc_ite_tables (acc_throw_tables _) (acc_ite_tables (acc_throw_tables _) (acc_pure_tables _)))
      clear_value jp7
      exact acc_ite_tables (acc_bind_tables (acc_throw_tables _) fun _ => hjp7 ()) (hjp7 ())
    clear_value jp8
    split
    · exact acc_bind_tables (acc_pure_tables _) fun _ => hjp8 _
    · extract_lets +onlyGivenNames -underBinder jp10
      have hjp10 : ∀ a, AccKeepsTables (jp10 a) := by
        intro _
        unfold jp10
        refine acc_bind_tables walk_canon fun _ => ?_
        extract_lets +onlyGivenNames -underBinder _
        split
        · exact acc_bind_tables (acc_modify_tables fun _ h9 => onDev_tables (tlbAdd_canon h9)) fun _ =>
            acc_bind_tables (acc_pure_tables _) fun _ => hjp8 _
        · exact acc_bind_tables (acc_pure_tables _) fun _ => hjp8 _
      clear_value jp10
      split
      · exact acc_bind_tables (acc_modify_tables fun _ h11 => onDev_tables (ctrAdd_tables _ _ _ h11)) fun _ => hjp10 ()
      · exact hjp10 ()
  clear_value jp12
  exact acc_ite_tables (acc_bind_tables (acc_throw_tables _) fun _ => hjp12 ()) (hjp12 ())

theorem placeOf_canon {ctx : Nat} {va : W64} : AccKeepsTables (placeOf ctx va) := by
  unfold placeOf
  refine acc_getThen_tables fun _ hw => acc_ite_tables (acc_pure_tables _) ?_
  split
  · next _ u1 e1 => exact acc_pure_tables _
  · next u2 e2 => exact acc_throw_tables _
  · next _ _ u3 e3 => exact acc_ite_tables (acc_bind_tables (acc_set_tables (onDev_tables (failCtxOpen_canon ((acc_run_tables
      walk_canon e3 hw :))))) fun _ => acc_pure_tables _) (acc_pure_tables _)

theorem countBytes_canon {ctx : Nat} {t : Target} {v : Dev} (h : TablesWf v) : TablesWf (countBytes ctx t v) := by
  unfold countBytes
  split
  · exact ite_tables (ctrAdd_tables _ _ _ h) h
  · exact ctrAdd_tables _ _ _ h

theorem readRaw_canon {r : Requestor} {va : W64} : AccKeepsTables (readRaw r va) := by
  unfold readRaw
  refine acc_bind_tables translate_canon fun _ => acc_bind_tables (acc_modify_tables fun _ h =>
    onDev_tables (countBytes_canon h)) fun _ => ?_
  split
  · exact readPhys_canon
  · exact acc_bind_tables acc_get_tables fun _ => acc_pure_tables _

theorem checkTag_canon {r : Requestor} {va : W64} : AccKeepsTables (checkTag r va) := by
  unfold checkTag
  split
  · exact acc_pure_tables _
  · refine acc_ite_tables (acc_pure_tables _) ?_
    split
    · exact acc_pure_tables _
    · extract_lets jp0
      have hjp0 : ∀ a, AccKeepsTables (jp0 a) := fun _ => acc_bind_tables readRaw_canon fun _ =>
        acc_ite_tables (acc_throw_tables _) (acc_pure_tables _)
      clear_value jp0
      exact acc_ite_tables (acc_bind_tables (acc_throw_tables _) fun _ => hjp0 ()) (hjp0 ())

theorem readByte_canon {r : Requestor} {va : W64} : AccKeepsTables (readByte r va) :=
  acc_bind_tables checkTag_canon fun _ => readRaw_canon

theorem readBytes_canon {r : Requestor} : ∀ {n : Nat} {va : W64}, AccKeepsTables (readBytes r va n)
  | 0, _ => acc_pure_tables _
  | _ + 1, _ => acc_bind_tables readByte_canon fun _ => acc_bind_tables readBytes_canon fun _ => acc_pure_tables _

theorem readNat_canon {r : Requestor} {va : W64} {n : Nat} : AccKeepsTables (readNat r va n) :=
  acc_bind_tables readBytes_canon fun _ => acc_pure_tables _

theorem writeRaw_canon {r : Requestor} {lo hi : Nat} {va : W64} {b : Byte} : AccKeepsTables (writeRaw r lo hi va b) := by
  unfold writeRaw
  refine acc_bind_tables translate_canon fun _ => acc_bind_tables (acc_modify_tables fun _ h => countBytes_canon h) fun _ => ?_
  split
  · exact acc_bind_tables (acc_modify_tables fun _ h => h) fun _ => acc_pure_tables _
  · refine acc_bind_tables snoopGate_canon fun _ => acc_getThen_tables fun w hw => acc_ite_tables ?_
      (acc_bind_tables (acc_set_tables hw) fun _ => acc_pure_tables _)
    refine acc_ite_tables (acc_bind_tables (acc_set_tables (ite_tables ?_ hw)) fun _ => acc_pure_tables _) (acc_pure_tables _)
    exact { hw with }

theorem clearTag_canon {r : Requestor} {va : W64} : AccKeepsTables (clearTag r va) := by
  unfold clearTag
  split
  · exact acc_pure_tables _
  · refine acc_ite_tables (acc_pure_tables _) ?_
    split
    · exact acc_pure_tables _
    · exact acc_ite_tables (acc_pure_tables _) (acc_bind_tables readRaw_canon fun _ =>
        acc_ite_tables (acc_bind_tables writeRaw_canon fun _ => acc_pure_tables _) (acc_pure_tables _))

theorem writeByteIn_canon {r : Requestor} {lo hi : Nat} {va : W64} {b : Byte} : AccKeepsTables (writeByteIn r lo hi va b) :=
  acc_bind_tables clearTag_canon fun _ => writeRaw_canon

theorem writeBytesIn_canon {r : Requestor} {lo hi : Nat} : ∀ {bs : List Byte} {va : W64}, AccKeepsTables (writeBytesIn r lo hi va bs)
  | [], _ => acc_pure_tables _
  | _ :: _, _ => acc_bind_tables writeByteIn_canon fun _ => acc_bind_tables writeBytesIn_canon fun _ => acc_pure_tables _

theorem writeBytes_canon {r : Requestor} {va : W64} {bs : List Byte} : AccKeepsTables (writeBytes r va bs) := by
  unfold writeBytes
  split
  refine acc_bind_tables writeBytesIn_canon fun _ => ?_
  split
  · exact acc_pure_tables _
  · exact acc_bind_tables (acc_modify_tables fun _ h => onDev_tables (meetUe_canon h)) fun _ => acc_throw_tables _

theorem writeNat_canon {r : Requestor} {va : W64} {n v : Nat} : AccKeepsTables (writeNat r va n v) := writeBytes_canon

theorem hostAsks_canon {read cache : Bool} {r : Requestor} {va : W64} {n most : Nat} :
    AccKeepsTables (hostAsks read cache r va n most) := by
  unfold hostAsks
  refine acc_bind_tables ?_ (fun _ => acc_pure_tables _)
  refine acc_forIn_tables (fun _ _ => ?_) _ _
  refine acc_bind_tables translate_canon fun _ => ?_
  split
  · exact acc_pure_tables _
  · exact acc_bind_tables (acc_modify_tables fun _ h => onDev_tables (emit_canon h)) fun _ => acc_pure_tables _

theorem markDest_canon {r : Requestor} {va : W64} {n : Nat} : AccKeepsTables (markDest r va n) := acc_modify_tables fun _ h => h

theorem freeDestByte_canon {r : Requestor} {va : W64} {w : Work} (h : TablesWf w.dev) : TablesWf (freeDestByte r va w).dev := by
  unfold freeDestByte
  split
  · next _ u e => exact onDev_tables (freeNext_canon ((acc_run_tables writeByteIn_canon e h :)))
  · next _ u1 e1 => exact h

theorem freeDest_canon {w : Work} (h : TablesWf w.dev) : TablesWf (freeDest w).dev :=
  foldlWork_tables _ (fun _ _ h => foldlWork_tables _ (fun _ _ h1 => freeDestByte_canon h1) _ _ h) _ _ h

theorem runAcc_canon {α : Type} {m : Acc α} {onOk : α → Work → Work} {onFail : Byte → W64 → Work → Work} {w : Work} (hm
    : AccKeepsTables m) (honOk : ∀ a, WorkKeepsTables (onOk a)) (honFail : ∀ a b, WorkKeepsTables (onFail a b)) (h3 : TablesWf w.dev) :
    TablesWf (runAcc (α := α) m onOk onFail w).dev := by
  unfold runAcc
  split
  · next _ u e => exact honOk _ _ (snoopsUsed_tables ((acc_run_tables hm e h3 :)))
  · next _ _ u1 e1 => exact honFail _ _ _ (snoopsUsed_tables (freeDest_canon ((acc_run_tables hm e1 h3 :))))
  · next u2 e2 => exact h3

theorem runAccOr_canon {α : Type} {m : Acc α} {onOk : α → Work → Work} {onFail : Byte → W64 → Work → Work} {onWait : Work → Work} {w
    : Work} (hm : AccKeepsTables m) (honOk : ∀ a, WorkKeepsTables (onOk a)) (honFail : ∀ a b, WorkKeepsTables (onFail a b)) (honWait
    : WorkKeepsTables onWait) (h4 : TablesWf w.dev) :
    TablesWf (runAccOr (α := α) m onOk onFail onWait w).dev := by
  unfold runAccOr
  split
  · next _ u e => exact honOk _ _ (snoopsUsed_tables ((acc_run_tables hm e h4 :)))
  · next _ _ u1 e1 => exact honFail _ _ _ (snoopsUsed_tables (freeDest_canon ((acc_run_tables hm e1 h4 :))))
  · next u2 e2 => exact honWait _ h4

theorem countSteps_canon {ctx idx : Nat} : AccKeepsTables (countSteps ctx idx) :=
  acc_modify_tables fun _ h => onDev_tables (ctrSteps_canon h)

theorem countOwn_canon {ctx idx n : Nat} : AccKeepsTables (countOwn ctx idx n) :=
  acc_modify_tables fun _ h => onDev_tables (ctrAdd_tables _ _ _ h)

theorem countPass_canon {ctx core n prime : Nat} : AccKeepsTables (countPass ctx core n prime) :=
  acc_modify_tables fun _ h => onDev_tables (ctrPass_canon h)

theorem countShared_canon {ctx core own share : Nat} : AccKeepsTables (countShared ctx core own share) :=
  acc_bind_tables acc_get_tables fun _ => acc_bind_tables (acc_modify_tables fun _ h1 => onDev_tables (freeNext_canon h1)) fun _ =>
    countPass_canon

theorem countMacs_canon {ctx cls n : Nat} : AccKeepsTables (countMacs ctx cls n) :=
  acc_modify_tables fun _ h => onDev_tables (ctrAdd_tables _ _ _ h)

theorem addFlags_canon {f : Flags} : AccKeepsTables (addFlags f) := acc_modify_tables fun _ h => h

theorem runBody_canon {d p : Nat} {body : Acc Unit} {w w1 : Work} (hbody : AccKeepsTables body) (h1 : TablesWf w.dev)
    (h2 : TablesWf w1.dev) :
    TablesWf (runBody d p body w w1).dev := by
  unfold runBody
  split
  · next _ u e => exact onDev_tables (endPart_canon (snoopsUsed_tables ((acc_run_tables hbody e h2 :))))
  · next _ _ u1 e1 => exact onDev_tables (endPart_canon (snoopsUsed_tables (freeDest_canon ((acc_run_tables hbody e1 h2 :)))))
  · next u2 e2 => exact h1

theorem beginPart_canon {d p : Nat} {go : Work → Work} {w : Work} (hgo : WorkKeepsTables go) (h1 : TablesWf w.dev) :
    TablesWf (beginPart d p go w).dev := by
  unfold beginPart
  refine iteWork_tables (onDev_tables (endPart_canon h1)) ?_
  split
  · exact onDev_tables (stabWait_canon h1)
  · exact hgo _ (onDev_tables (startPart_canon h1))

theorem runPart_canon {d p : Nat} {body : Acc Unit} {w : Work} (hbody : AccKeepsTables body) (h1 : TablesWf w.dev) :
    TablesWf (runPart d p body w).dev :=
  beginPart_canon (fun _ h => runBody_canon hbody h1 h) h1

theorem readEpoch_canon {ctx e : Nat} : AccKeepsTables (readEpoch ctx e) :=
  acc_bind_tables acc_get_tables fun _ => readNat_canon

theorem addEpoch_canon {ctx e n : Nat} : AccKeepsTables (addEpoch ctx e n) :=
  acc_bind_tables acc_get_tables fun _ => acc_bind_tables readNat_canon fun _ => writeNat_canon

theorem writeRecord_canon {x : Desc} : AccKeepsTables (writeRecord x) :=
  acc_bind_tables acc_get_tables fun _ => acc_bind_tables (acc_forIn_tables (fun _ _ => acc_bind_tables hostAsks_canon fun _ =>
    acc_bind_tables writeBytes_canon fun _ => acc_pure_tables _) _ _) fun _ => acc_bind_tables hostAsks_canon fun _ =>
    acc_bind_tables writeBytes_canon fun _ => acc_modify_tables fun _ h1 => onDev_tables (modRing_canon h1)

theorem stopRing_canon {r err : Nat} {v : Dev} (h : TablesWf v) : TablesWf (stopRing r err v) :=
  raiseRingError_canon (stabForget_canon (modRing_canon h))

theorem readStep_canon {ctx : Nat} : AccKeepsTables (readStep ctx) :=
  acc_bind_tables acc_get_tables fun _ => acc_ite_tables (acc_pure_tables _) readNat_canon

theorem guarded_canon {off : Nat} {ide : Bool} {act : Work → Work} {w : Work} (hact : WorkKeepsTables act) (h1 : TablesWf w.dev) :
    TablesWf (guarded off ide act w).dev :=
  iteWork_tables h1 (iteWork_tables (onDev_tables (ctrAdd_tables _ _ _ h1)) (hact _ h1))

end Sys2Proof.Machine
end

section
/-! The tables under the arbiters and the channels, operands, ring slots, castmarks and chisel instructions. -/

namespace Sys2Proof.Machine

open Sys2Proof

/-! ### Arb -/

theorem countLoss_canon {i : Nat} {v : Dev} (h : TablesWf v) : TablesWf (countLoss i v) :=
  ite_tables (ctrAdd_tables _ _ _ h) (ite_tables (ctrAdd_tables _ _ _ h) (ite_tables (ctrAdd_tables _ _ _ h) (ctrAdd_tables _ _ _ h)))

theorem askRefresh_canon {c : Nat} {v : Dev} (h : TablesWf v) : TablesWf (askRefresh c v) := ite_tables (setArb_tables _ _ h) h
theorem askColl_canon {p i ctx beats : Nat} {v : Dev} (h : TablesWf v) : TablesWf (askColl p i ctx beats v) := setArb_tables _ _ h
theorem beginRefresh_canon {i : Nat} {v : Dev} (h : TablesWf v) : TablesWf (beginRefresh i v) := ite_tables (setChan_tables _ _ h) h

theorem decideNext_canon {i : Nat} {v : Dev} (h : TablesWf v) : TablesWf (decideNext i v) := by
  unfold decideNext
  extract_lets
  split
  split
  · exact setArb_tables _ _ h
  · extract_lets _ _ v1
    have hv1 : TablesWf v1 := foldl_tables _ (fun _ _ h => countLoss_canon h) _ _ h
    exact setArb_tables _ _ hv1

theorem arbDecide_canon {i : Nat} {raised : List ArbRequest} {withdrawn : List Requester} {v : Dev} (h : TablesWf v) :
    TablesWf (arbDecide i raised withdrawn v) := by
  unfold arbDecide
  refine ite_tables h ?_
  extract_lets _ _ v0
  have hv0 : TablesWf v0 := beginRefresh_canon (setArb_tables _ _ h)
  exact ite_tables hv0 (decideNext_canon (askRefresh_canon hv0))

theorem backoffEnd_canon {i : Nat} {r : Requester} {v : Dev} (h : TablesWf v) : TablesWf (backoffEnd i r v) := by
  unfold backoffEnd
  extract_lets
  split
  · exact ite_tables (setArb_tables _ _ h) h
  · exact h

theorem quotaWindowStart_canon {i : Nat} {v : Dev} (h : TablesWf v) : TablesWf (quotaWindowStart i v) := setArb_tables _ _ h

theorem emergencyRevoke_canon {i : Nat} {who : Emergency} {moved : Nat} {v : Dev} (h : TablesWf v) :
    TablesWf (emergencyRevoke i who moved v) := by
  unfold emergencyRevoke
  refine ite_tables h ?_
  extract_lets _ v0 _ v1
  have hv0 : TablesWf v0 := by
    unfold v0
    split
    · exact ite_tables (ctrAdd_tables _ _ _ h) h
    · exact h
  have hv1 : TablesWf v1 := setArb_tables _ _ hv0
  split
  · exact setChan_tables _ _ hv1
  · exact hv1

theorem emergencyEnd_canon {i : Nat} {v : Dev} (h : TablesWf v) : TablesWf (emergencyEnd i v) := by
  unfold emergencyEnd
  extract_lets
  split
  · exact h
  · exact h
  · split
    · exact setArb_tables _ _ h
    · exact setArb_tables _ _ h

theorem promoteRefresh_canon {c : Nat} {v : Dev} (h : TablesWf v) : TablesWf (promoteRefresh c v) :=
  ite_tables h (setArb_tables _ _ h)

theorem refreshDue_canon {c : Nat} {v : Dev} (h : TablesWf v) : TablesWf (refreshDue c v) :=
  ite_tables h (askRefresh_canon (promoteRefresh_canon (timerMark_tables _ (setChan_tables _ _ h))))

theorem refreshDone_canon {c : Nat} {v : Dev} (h : TablesWf v) : TablesWf (refreshDone c v) := by
  unfold refreshDone
  extract_lets +onlyGivenNames _ _
  split
  · refine ite_tables h ?_
    extract_lets +onlyGivenNames v0 _
    have hv0 : TablesWf v0 := setChan_tables _ _ h
    refine askRefresh_canon ?_
    split
    · exact setArb_tables _ _ hv0
    · exact setArb_tables _ _ hv0
  · exact h

theorem readFound_canon {a : Nat} {r : ReadResult} {v : Dev} (h : TablesWf v) : TablesWf (readFound a r v).1 := by
  cases r with
  | clean => exact h
  | corrected =>
    unfold readFound
    dsimp only
    split
    · exact h
    · exact countCorrected_canon h
  | uncorrectable => exact { h with }
  | retried n => exact ite_tables (ctrAdd_tables _ _ _ h) h
  | linkFailed =>
    unfold readFound
    dsimp only
    split
    · exact ctrAdd_tables _ _ _ h
    · exact h
  | retrainFailed => exact ite_tables (stackFaulty_canon h) h

theorem patrolScrub_canon {a : Nat} {r : ReadResult} {v : Dev} (h : TablesWf v) : TablesWf (patrolScrub a r v) := by
  unfold patrolScrub
  refine ite_tables h ?_
  split
  next u good e =>
    have hu : TablesWf u := by
      refine fst_tables (readFound_canon ?_) e
      exact { h with scrubbed := tabPut_wf _ _ _ _ h.scrubbed }
    exact ite_tables hu (meetUe_canon hu)

theorem stitchFault_canon {line : Fin 4} {v : Dev} (h : TablesWf v) : TablesWf (stitchFault line v) := { h with }

theorem writeClass_canon {kind : Nat} {x : BitVec 18} {v : Dev} (h : TablesWf v) : TablesWf (writeClass kind x v) := by
  unfold writeClass
  extract_lets _ _ _ _ v0
  have hv0 : TablesWf v0 := { h with }
  exact ite_tables hv0 (foldl_tables _ (fun _ _ h1 => setArb_tables _ _ h1) _ _ hv0)

theorem writeQuota_canon {kind q w : Nat} {v : Dev} (h : TablesWf v) : TablesWf (writeQuota kind q w v) := { h with }

/-! ### Operands -/

theorem reqOf_canon {x : Desc} {r : Requestor} {dests : List Nat} : AccKeepsTables (reqOf x r dests) :=
  acc_ite_tables (acc_pure_tables _) (acc_bind_tables readBytes_canon fun _ => acc_pure_tables _)

theorem setTags_canon {r : Requestor} {w : VerWin} {covered : Nat → Bool} {rows cols : Nat} :
    AccKeepsTables (setTags r w covered rows cols) :=
  acc_bind_tables (acc_forIn_tables (fun _ _ => acc_ite_tables (acc_bind_tables writeNat_canon fun _ => acc_pure_tables _)
    (acc_pure_tables _)) _ _) fun _ => acc_pure_tables _

theorem readCode_canon {r : Requestor} {base : W64} {bits : Nat} {off : ℤ} : AccKeepsTables (readCode r base bits off) :=
  acc_ite_tables readNat_canon (acc_bind_tables readNat_canon fun _ => acc_pure_tables _)

theorem writeRun_canon {r : Requestor} {base : W64} {bits : Nat} {off : ℤ} {codes : List (Option Nat)} :
    AccKeepsTables (writeRun r base bits off codes) := by
  unfold writeRun
  refine acc_bind_tables ?_ (fun _ => acc_pure_tables _)
  refine acc_forIn_tables (fun _ _ => ?_) _ _
  refine acc_ite_tables ?_ (acc_pure_tables _)
  extract_lets _ jp0
  have hjp0 : ∀ a, AccKeepsTables (jp0 a) := fun _ => acc_bind_tables writeNat_canon fun _ => acc_pure_tables _
  clear_value jp0
  exact acc_ite_tables (acc_bind_tables readNat_canon fun _ => hjp0 _) (acc_bind_tables (acc_pure_tables _) fun _ => hjp0 _)

theorem writeCode_canon {r : Requestor} {base : W64} {bits : Nat} {off : ℤ} {c : Nat} :
    AccKeepsTables (writeCode r base bits off c) :=
  writeNat_canon

theorem readScale_canon {r : Requestor} {a : W64} : AccKeepsTables (readScale r a) :=
  acc_bind_tables readNat_canon fun _ => acc_pure_tables _

/-! ### Sched -/

theorem modReplays_canon {ctx : Nat} {f : Ring → Ring} {v : Dev} (h : TablesWf v) : TablesWf (modReplays ctx f v) := by
  unfold modReplays
  exact { h with rings := by dsimp only; exact tabMap_wf _ _ _ h.rings }

theorem noteVerdict_canon {ctx : Nat} {skipped : Bool} {x2 : Dev} (h : TablesWf x2) : TablesWf (noteVerdict ctx skipped x2) :=
  modReplays_canon h

theorem noteSum_canon {ctx : Nat} {nonzero : Bool} {x2 : Dev} (h : TablesWf x2) : TablesWf (noteSum ctx nonzero x2) :=
  modReplays_canon h

theorem queueMarks_canon {e ctx : Nat} {v : Dev} (h : TablesWf v) : TablesWf (queueMarks e ctx v) :=
  ctrHigh_tables _ _ _ (ctrHigh_tables _ _ _ h)

theorem markQueue_canon {ctx u : Nat} {v : Dev} {k : Nat} (h : TablesWf v) : TablesWf (markQueue ctx u v k) := by
  unfold markQueue
  extract_lets v0
  have hv0 : TablesWf v0 := ctrHigh_tables _ _ _ h
  exact ite_tables (ctrHigh_tables _ _ _ hv0) hv0

theorem countQueues_canon {x : Desc} {v : Dev} (h : TablesWf v) : TablesWf (countQueues x v) :=
  ite_tables h (ite_tables (ite_tables (queueMarks_canon h) (ite_tables (ctrHigh_tables _ _ _ h)
    (ite_tables (foldl_tables _ (fun _ _ h => markQueue_canon h) _ _ h) h))) (ite_tables h (foldl_tables _ (fun _ _ h1 =>
    markQueue_canon h1) _ _ h)))

/-! ### Castmark -/

theorem castQueue_canon {x : Desc} {o : Cast} {a : W64} {total : Nat} {v : Dev} (h : TablesWf v) :
    TablesWf (castQueue x o a total v) := by
  unfold castQueue
  extract_lets _ v0 _
  have hv0 : TablesWf v0 := setPair_tables _ _ h
  exact { hv0 with }

theorem readPlanes_canon {x : Desc} {r : Requestor} {o : Cast} : AccKeepsTables (readPlanes x r o) :=
  acc_bind_tables (acc_mapM_tables (fun _ => readBytes_canon) _) fun _ => acc_ite_tables (acc_bind_tables (acc_throw_tables _)
    fun _ => acc_pure_tables _) (acc_pure_tables _)

theorem castRecord_canon {x : Desc} {o : Cast} : AccKeepsTables (castRecord x o) := by
  unfold castRecord
  refine acc_bind_tables reqOf_canon fun _ => ?_
  extract_lets +onlyGivenNames -underBinder _ jp6
  have hjp6 : ∀ a, AccKeepsTables (jp6 a) := by
    intro _
    unfold jp6
    refine acc_bind_tables acc_get_tables fun _ => ?_
    extract_lets +onlyGivenNames -underBinder jp5
    have hjp5 : ∀ a, AccKeepsTables (jp5 a) := by
      intro _
      unfold jp5
      extract_lets +onlyGivenNames -underBinder jp3
      have hjp3 : ∀ a, AccKeepsTables (jp3 a) := fun _ => acc_bind_tables (acc_mapM_tables (fun _ =>
        acc_bind_tables readBytes_canon fun _ => acc_bind_tables readBytes_canon fun _ => acc_pure_tables _) _) fun _ =>
        acc_bind_tables acc_get_tables fun _ => acc_bind_tables markDest_canon fun _ =>
        acc_bind_tables writeBytes_canon fun _ => acc_pure_tables _
      clear_value jp3
      exact acc_ite_tables (acc_bind_tables (acc_bind_tables readNat_canon fun _ => acc_bind_tables (acc_modify_tables fun _ h4 =>
        onDev_tables (noteVerdict_canon h4)) fun _ => acc_pure_tables _) fun _ => hjp3 _) (acc_bind_tables (acc_pure_tables _)
        fun _ => hjp3 _)
    clear_value jp5
    exact acc_ite_tables (acc_bind_tables (acc_throw_tables _) fun _ => hjp5 ()) (hjp5 ())
  clear_value jp6
  exact acc_ite_tables (acc_bind_tables (acc_pure_tables _) fun _ => hjp6 _) (acc_bind_tables readPlanes_canon fun _ => hjp6 _)

theorem castAct_canon {x : Desc} {o : Cast} : AccKeepsTables (castAct x o) := by
  unfold castAct
  refine acc_bind_tables reqOf_canon fun _ => ?_
  extract_lets +onlyGivenNames -underBinder _
  refine acc_bind_tables castRecord_canon fun _ => ?_
  split
  refine acc_bind_tables (acc_modify_tables fun _ h => h) fun _ => ?_
  extract_lets +onlyGivenNames -underBinder jp3
  have hjp3 : ∀ a, AccKeepsTables (jp3 a) := by
    intro _
    unfold jp3
    extract_lets +onlyGivenNames -underBinder jp2
    have hjp2 : ∀ a, AccKeepsTables (jp2 a) := fun _ => acc_ite_tables (acc_modify_tables fun _ h1 =>
      onDev_tables (castQueue_canon h1)) (acc_pure_tables _)
    clear_value jp2
    refine acc_ite_tables ?_ (hjp2 ())
    refine acc_bind_tables ?_ (fun _ => ?_)
    · refine acc_forIn_tables (fun _ _ => ?_) _ _
      split
      exact acc_bind_tables markDest_canon fun _ => acc_pure_tables _
    · refine acc_bind_tables ?_ (fun _ => hjp2 ())
      refine acc_forIn_tables (fun _ _ => ?_) _ _
      split
      exact acc_bind_tables writeBytes_canon fun _ => acc_pure_tables _
  clear_value jp3
  split
  · exact acc_ite_tables (acc_bind_tables markDest_canon fun _ => acc_bind_tables writeBytes_canon fun _ => hjp3 ()) (hjp3 ())
  · exact hjp3 ()

theorem castBody_canon {x : Desc} : AccKeepsTables (castBody x) :=
  acc_bind_tables acc_get_tables fun _ => acc_ite_tables (acc_bind_tables (acc_throw_tables _) fun _ =>
    acc_ite_tables castAct_canon (acc_pure_tables _)) (acc_ite_tables castAct_canon (acc_pure_tables _))

theorem castDest_canon {x : Desc} : AccKeepsTables (castDest x) :=
  acc_ite_tables (acc_map_tables castRecord_canon) (acc_pure_tables _)

theorem castRun_canon {close : Bool} {d : Nat} {w : Work} (h : TablesWf w.dev) : TablesWf (castRun close d w).dev := by
  unfold castRun
  split
  · exact iteWork_tables (runPart_canon castBody_canon h) h
  · exact h

/-! ### Chisel -/

theorem scratchSweep_canon {i : Nat} {v : Dev} (h : TablesWf v) : TablesWf (scratchSweep i v) := { h with }
theorem trap_canon {α : Type} : AccKeepsTables (trap (α := α)) := acc_throw_tables _

theorem onChisel_canon {i : Nat} {f : Chisel → Chisel} : AccKeepsTables (onChisel i f) :=
  acc_modify_tables fun _ h => onDev_tables (modChisel_canon h)

theorem chRead_canon {i ctx : Nat} {a : W64} {n : Nat} : AccKeepsTables (chRead i ctx a n) := by
  unfold chRead
  refine acc_ite_tables ?_ (acc_tryCatch_tables readBytes_canon fun _ => acc_throw_tables _)
  refine acc_getThen_tables fun _ hw => ?_
  extract_lets v1
  have hv1 : TablesWf v1 := hw
  split
  · exact failUe_canon
  · exact acc_pure_tables _

theorem chWrite_canon {i ctx : Nat} {a : W64} {bs : List Byte} : AccKeepsTables (chWrite i ctx a bs) := by
  unfold chWrite
  refine acc_ite_tables ?_ (acc_tryCatch_tables writeBytes_canon fun _ => acc_throw_tables _)
  refine acc_bind_tables acc_get_tables fun _ => ?_
  split
  · exact acc_ite_tables (acc_bind_tables failUe_canon fun _ => onChisel_canon)
      (acc_bind_tables (acc_modify_tables fun _ h1 => onDev_tables { h1 with }) fun _ => onChisel_canon)
  · exact onChisel_canon

theorem fetchParcel_canon {i ctx : Nat} {a : W64} : AccKeepsTables (fetchParcel i ctx a) := by
  unfold fetchParcel
  refine acc_bind_tables acc_get_tables fun _ => ?_
  extract_lets
  split
  · exact acc_pure_tables _
  · exact acc_bind_tables chRead_canon fun _ => acc_bind_tables onChisel_canon fun _ => acc_pure_tables _

theorem fetchInstr_canon {i ctx : Nat} : AccKeepsTables (fetchInstr i ctx) := by
  unfold fetchInstr
  refine acc_bind_tables acc_get_tables fun _ => acc_bind_tables fetchParcel_canon fun _ =>
    acc_ite_tables (acc_bind_tables fetchParcel_canon fun _ => acc_pure_tables _) ?_
  split
  · exact acc_pure_tables _
  · exact trap_canon

theorem doLoad_canon {i ctx f3 : Nat} {a : W64} : AccKeepsTables (doLoad i ctx f3 a) :=
  acc_ite_tables trap_canon (acc_bind_tables chRead_canon fun _ => acc_pure_tables _)

theorem doStore_canon {i ctx f3 : Nat} {a v : W64} : AccKeepsTables (doStore i ctx f3 a v) :=
  acc_ite_tables trap_canon chWrite_canon

theorem atomicTarget_canon {i ctx : Nat} {a : W64} {write : Bool} : AccKeepsTables (atomicTarget i ctx a write) := by
  unfold atomicTarget
  refine acc_ite_tables (acc_pure_tables _) (acc_bind_tables (acc_tryCatch_tables translate_canon fun _ => acc_throw_tables _)
    fun _ => ?_)
  split
  · exact acc_pure_tables _
  · exact trap_canon

theorem doAmo_canon {i ctx w : Nat} {a src : W64} : AccKeepsTables (doAmo i ctx w a src) := by
  unfold doAmo
  extract_lets
  refine acc_ite_tables trap_canon (acc_ite_tables ?_ ?_)
  · refine acc_ite_tables trap_canon (acc_bind_tables atomicTarget_canon fun _ => ?_)
    split
    extract_lets jp0
    have hjp0 : ∀ a, AccKeepsTables (jp0 a) := fun _ => acc_bind_tables chRead_canon fun _ =>
      acc_bind_tables onChisel_canon fun _ => acc_pure_tables _
    clear_value jp0
    exact acc_ite_tables (acc_bind_tables trap_canon fun _ => hjp0 ()) (hjp0 ())
  · refine acc_ite_tables ?_ ?_
    · refine acc_bind_tables atomicTarget_canon fun _ => ?_
      split
      extract_lets jp3
      have hjp3 : ∀ a, AccKeepsTables (jp3 a) := by
        intro _
        unfold jp3
        refine acc_bind_tables acc_get_tables fun _ => ?_
        extract_lets o2
        clear_value o2
        exact acc_bind_tables onChisel_canon fun _ => acc_ite_tables (acc_bind_tables chWrite_canon fun _ =>
          acc_pure_tables _) (acc_pure_tables _)
      clear_value jp3
      exact acc_ite_tables (acc_bind_tables trap_canon fun _ => hjp3 ()) (hjp3 ())
    · refine acc_ite_tables trap_canon (acc_bind_tables chRead_canon fun _ => ?_)
      extract_lets
      split
      · exact trap_canon
      · exact acc_bind_tables chWrite_canon fun _ => acc_pure_tables _

theorem doCsr_canon {i : Nat} {x : Desc} {c : Chisel} {w : Nat} : AccKeepsTables (doCsr i x c w) := by
  unfold doCsr
  refine acc_bind_tables acc_get_tables fun _ => ?_
  split
  · exact acc_ite_tables (acc_pure_tables _) trap_canon
  · exact trap_canon

theorem execute_canon {i : Nat} {x : Desc} {c : Chisel} {w len : Nat} : AccKeepsTables (execute i x c w len) := by
  unfold execute
  refine acc_ite_tables (acc_pure_tables _) (acc_ite_tables (acc_pure_tables _) ?_)
  refine acc_ite_tables (acc_pure_tables _) (acc_ite_tables (acc_ite_tables (acc_pure_tables _) trap_canon) ?_)
  refine acc_ite_tables ?_ ?_
  · split
    · exact acc_pure_tables _
    · exact trap_canon
  · refine acc_ite_tables (acc_bind_tables doLoad_canon fun _ => acc_pure_tables _)
      (acc_ite_tables (acc_bind_tables doStore_canon fun _ => acc_pure_tables _) ?_)
    refine acc_ite_tables (acc_ite_tables trap_canon (acc_ite_tables trap_canon (acc_pure_tables _)))
      (acc_ite_tables (acc_ite_tables (acc_pure_tables _) (acc_ite_tables (acc_pure_tables _) (acc_ite_tables (acc_pure_tables _)
      trap_canon))) ?_)
    refine acc_ite_tables (acc_ite_tables (acc_pure_tables _) (acc_ite_tables (acc_pure_tables _) (acc_ite_tables (acc_pure_tables _)
      trap_canon))) ?_
    refine acc_ite_tables ?_ (acc_ite_tables (acc_bind_tables doAmo_canon fun _ => acc_pure_tables _)
      (acc_ite_tables (acc_ite_tables (acc_pure_tables _) (acc_ite_tables (acc_bind_tables onChisel_canon fun _ =>
      acc_pure_tables _) trap_canon)) (acc_ite_tables (acc_bind_tables doCsr_canon fun _ => acc_pure_tables _)
      trap_canon)))
    refine acc_ite_tables ?_ (acc_ite_tables (acc_pure_tables _) (acc_ite_tables (acc_pure_tables _) trap_canon))
    split
    · exact acc_pure_tables _
    · exact trap_canon

theorem retireInstr_canon {i ctx : Nat} {t : Retire} {v : Dev} (h : TablesWf v) : TablesWf (retireInstr i ctx t v) := by
  unfold retireInstr
  extract_lets _ v0
  have hv0 : TablesWf v0 := { h with }
  exact ctrAdd_tables _ _ _ (modChisel_canon hv0)

end Sys2Proof.Machine
end

section
/-! The tables under vector parts, collectives and copies. -/

namespace Sys2Proof.Machine

open Sys2Proof

/-! ### Vector -/

theorem srcCode_canon {r : Requestor} {s : VSrc} {off : ℤ} : AccKeepsTables (srcCode r s off) :=
  acc_ite_tables (acc_bind_tables readCode_canon fun _ => acc_bind_tables readCode_canon fun _ => acc_pure_tables _)
    readCode_canon

theorem srcVal_canon {r : Requestor} {s : VSrc} {c0 : Nat} {pt : Pt} : AccKeepsTables (srcVal r s c0 pt) := by
  unfold srcVal
  split
  · exact acc_pure_tables _
  · refine acc_bind_tables srcCode_canon fun _ => ?_
    refine acc_ite_tables (acc_bind_tables readNat_canon fun _ => acc_ite_tables (acc_bind_tables (acc_mapM_tables (fun _ =>
      srcCode_canon) _) fun _ => acc_ite_tables (acc_bind_tables addFlags_canon fun _ => acc_pure_tables _)
      (acc_pure_tables _)) (acc_pure_tables _)) ?_
    split
    · exact acc_pure_tables _
    · exact acc_pure_tables _

theorem mkSrc_canon {r : Requestor} {base : W64} {fmt : Nat} {counts : List Nat} {str : List ℤ} {scale : W64} {imm : Option Val} :
    AccKeepsTables (mkSrc r base fmt counts str scale imm) :=
  acc_ite_tables (acc_bind_tables (acc_map_tables readScale_canon) fun _ => acc_pure_tables _) (acc_bind_tables (acc_pure_tables _)
    fun _ => acc_pure_tables _)

theorem activeAt_canon {r : Requestor} {o : Vop} {pt : Pt} : AccKeepsTables (activeAt r o pt) :=
  acc_ite_tables (acc_pure_tables _) (acc_bind_tables readNat_canon fun _ => acc_pure_tables _)

theorem readRec_canon {r : Requestor} {base : W64} {off : ℤ} : AccKeepsTables (readRec r base off) :=
  acc_bind_tables readBytes_canon fun _ => acc_pure_tables _

theorem putScalar_canon {r : Requestor} {t : VDst} {rd : Rnd} {off : ℤ} {v : Val} : AccKeepsTables (putScalar r t rd off v) := by
  unfold putScalar
  extract_lets
  split
  exact acc_bind_tables addFlags_canon fun _ => acc_ite_tables (acc_bind_tables writeCode_canon fun _ =>
    writeCode_canon) writeCode_canon

theorem putBlock_canon {r : Requestor} {t : VDst} {c0 : Nat} {off : ℤ} {i0 : Nat} {vals : List (Option Val × Rnd)} :
    AccKeepsTables (putBlock r t c0 off i0 vals) := by
  unfold putBlock
  refine acc_ite_tables ?_ (acc_pure_tables _)
  extract_lets _ _ _ _ jp0
  have hjp0 : ∀ a, AccKeepsTables (jp0 a) := by
    intro _
    unfold jp0
    extract_lets
    split
    refine acc_bind_tables addFlags_canon fun _ => acc_bind_tables writeNat_canon fun _ =>
      acc_ite_tables writeRun_canon (acc_bind_tables ?_ (fun _ => acc_pure_tables _))
    refine acc_forIn_tables (fun _ _ => ?_) _ _
    split
    exact acc_bind_tables writeCode_canon fun _ => acc_pure_tables _
  clear_value jp0
  refine acc_ite_tables (acc_bind_tables (acc_pure_tables _) fun _ => hjp0 _) (acc_bind_tables (acc_mapM_tables (fun _ =>
    readCode_canon) _) fun _ => ?_)
  refine acc_bind_tables readNat_canon fun _ => ?_
  split
  exact acc_bind_tables addFlags_canon fun _ => acc_bind_tables (acc_pure_tables _) fun _ => hjp0 _

theorem putRun_canon {r : Requestor} {t : VDst} {c0 : Nat} {off step : ℤ} {vals : List (Option Val × Rnd)} :
    AccKeepsTables (putRun r t c0 off step vals) := by
  unfold putRun
  refine acc_ite_tables ?_ ?_
  · refine acc_bind_tables ?_ (fun _ => acc_pure_tables _)
    refine acc_forIn_tables (fun _ _ => ?_) _ _
    split
    exact acc_bind_tables putBlock_canon fun _ => acc_pure_tables _
  · refine acc_ite_tables (acc_bind_tables addFlags_canon fun _ => writeRun_canon) (acc_bind_tables ?_ (fun _ =>
      acc_pure_tables _))
    refine acc_forIn_tables (fun _ _ => ?_) _ _
    split
    split
    · exact acc_bind_tables putScalar_canon fun _ => acc_pure_tables _
    · exact acc_pure_tables _

theorem vopPart_canon {x : Desc} {core lo hi : Nat} {go : Requestor → Vop → VDst → Option VDst → Acc Unit} (hgo
    : ∀ a a1 a2 a3, AccKeepsTables (go a a1 a2 a3)) :
    AccKeepsTables (vopPart x core lo hi go) := by
  unfold vopPart
  refine acc_ite_tables (acc_pure_tables _) (acc_bind_tables reqOf_canon fun _ => ?_)
  split
  refine acc_bind_tables ?_ (fun _ => ?_)
  · refine acc_forIn_tables (fun _ _ => ?_) _ _
    split
    exact acc_bind_tables markDest_canon fun _ => acc_pure_tables _
  · extract_lets jp0
    have hjp0 : ∀ a, AccKeepsTables (jp0 a) := by
      intro _
      unfold jp0
      split
      exact hgo _ _ _ _
    clear_value jp0
    exact acc_ite_tables (acc_bind_tables (acc_map_tables readScale_canon) fun _ => hjp0 _) (acc_bind_tables (acc_pure_tables _)
      fun _ => hjp0 _)

theorem vopSources_canon {x : Desc} {r : Requestor} {o : Vop} : AccKeepsTables (vopSources x r o) :=
  acc_bind_tables mkSrc_canon fun _ => acc_bind_tables mkSrc_canon fun _ => acc_bind_tables mkSrc_canon fun _ =>
    acc_pure_tables _

theorem gatherAt_canon {r : Requestor} {o : Vop} {s0 s1 : VSrc} {pt : Pt} : AccKeepsTables (gatherAt r o s0 s1 pt) := by
  unfold gatherAt
  extract_lets _ jp0
  have hjp0 : ∀ a, AccKeepsTables (jp0 a) := fun _ => acc_ite_tables srcVal_canon (acc_bind_tables addFlags_canon fun _ =>
    acc_pure_tables _)
  clear_value jp0
  exact acc_ite_tables (acc_bind_tables (acc_pure_tables _) fun _ => hjp0 _) (acc_bind_tables srcCode_canon fun _ =>
    acc_bind_tables (acc_pure_tables _) fun _ => hjp0 _)

theorem vopElem_canon {x : Desc} {core lo hi : Nat} : AccKeepsTables (vopElem x core lo hi) := by
  unfold vopElem
  refine vopPart_canon (fun _ _ _ _ => ?_)
  refine acc_bind_tables vopSources_canon fun _ => ?_
  split
  refine acc_bind_tables acc_get_tables fun _ => acc_bind_tables ?_ (fun _ => acc_pure_tables _)
  refine acc_forIn_tables (fun _ _ => ?_) _ _
  refine acc_bind_tables ?_ (fun _ => acc_bind_tables putRun_canon fun _ => acc_pure_tables _)
  refine acc_mapM_tables (fun _ => ?_) _
  refine acc_bind_tables activeAt_canon fun _ => acc_ite_tables ?_ (acc_pure_tables _)
  refine acc_ite_tables (acc_bind_tables gatherAt_canon fun _ => acc_pure_tables _) ?_
  refine acc_ite_tables ?_ (acc_bind_tables srcVal_canon fun _ => acc_bind_tables srcVal_canon fun _ =>
    acc_bind_tables srcVal_canon fun _ => acc_bind_tables (acc_pure_tables _) fun _ => acc_pure_tables _)
  refine acc_bind_tables srcVal_canon fun _ => acc_bind_tables readRec_canon fun _ => ?_
  extract_lets jp1
  have hjp1 : ∀ a, AccKeepsTables (jp1 a) := fun _ => acc_bind_tables (acc_pure_tables _) fun _ => acc_pure_tables _
  clear_value jp1
  exact acc_ite_tables (acc_bind_tables addFlags_canon fun _ => hjp1 ()) (hjp1 ())

theorem activeVals_canon {r : Requestor} {o : Vop} {s0 : VSrc} {pts : List Pt} : AccKeepsTables (activeVals r o s0 pts) :=
  acc_bind_tables (acc_mapM_tables (fun _ => acc_bind_tables activeAt_canon fun _ =>
    acc_ite_tables (acc_map_tables srcVal_canon) (acc_pure_tables _)) _) fun _ => acc_pure_tables _

theorem blockFlushes_canon {r : Requestor} {o : Vop} {s0 : VSrc} {pts : List Pt} : AccKeepsTables (blockFlushes r o s0 pts) := by
  unfold blockFlushes
  refine acc_bind_tables ?_ (fun _ => acc_pure_tables _)
  refine acc_mapM_tables (fun _ => ?_) _
  refine acc_bind_tables activeAt_canon fun _ => acc_ite_tables ?_ (acc_pure_tables _)
  refine acc_bind_tables (acc_mapM_tables (fun _ => acc_bind_tables activeAt_canon fun _ =>
    acc_ite_tables srcVal_canon (acc_pure_tables _)) _) fun _ => ?_
  split
  exact acc_pure_tables _

theorem vopReduce_canon {x : Desc} {core lo hi : Nat} : AccKeepsTables (vopReduce x core lo hi) := by
  unfold vopReduce
  refine vopPart_canon (fun _ _ _ _ => ?_)
  refine acc_bind_tables vopSources_canon fun _ => ?_
  split
  refine acc_bind_tables acc_get_tables fun _ => ?_
  extract_lets +onlyGivenNames -underBinder _
  refine acc_bind_tables ?_ (fun _ => acc_pure_tables _)
  refine acc_forIn_tables (fun _ _ => ?_) _ _
  refine acc_bind_tables ?_ (fun _ => ?_)
  · refine acc_mapM_tables (fun _ => ?_) _
    extract_lets +onlyGivenNames -underBinder _ _
    refine acc_bind_tables activeVals_canon fun _ => ?_
    extract_lets +onlyGivenNames -underBinder jp3
    have hjp3 : ∀ a, AccKeepsTables (jp3 a) := by
      intro _
      unfold jp3
      extract_lets +onlyGivenNames -underBinder jp2
      have hjp2 : ∀ a, AccKeepsTables (jp2 a) := by
        intro _
        unfold jp2
        split
        exact acc_pure_tables _
      clear_value jp2
      exact acc_ite_tables (acc_bind_tables blockFlushes_canon fun _ => acc_bind_tables (acc_pure_tables _) fun _ => hjp2 _)
        (acc_bind_tables (acc_pure_tables _) fun _ => hjp2 _)
    clear_value jp3
    exact acc_ite_tables (acc_bind_tables addFlags_canon fun _ => hjp3 ()) (hjp3 ())
  · extract_lets +onlyGivenNames -underBinder _
    refine acc_bind_tables putRun_canon fun _ => ?_
    split
    · exact acc_bind_tables putRun_canon fun _ => acc_pure_tables _
    · exact acc_pure_tables _

theorem vopRecord_canon {x : Desc} {core lo hi : Nat} : AccKeepsTables (vopRecord x core lo hi) := by
  unfold vopRecord
  refine vopPart_canon (fun _ _ _ _ => ?_)
  refine acc_bind_tables ?_ (fun _ => acc_pure_tables _)
  refine acc_forIn_tables (fun _ _ => ?_) _ _
  refine acc_bind_tables (acc_mapM_tables (fun _ => acc_bind_tables activeAt_canon fun _ =>
    acc_ite_tables (acc_map_tables readRec_canon) (acc_pure_tables _)) _) fun _ => ?_
  extract_lets _ jp0
  have hjp0 : ∀ a, AccKeepsTables (jp0 a) := fun _ => acc_bind_tables writeBytes_canon fun _ => acc_pure_tables _
  clear_value jp0
  exact acc_ite_tables (acc_bind_tables addFlags_canon fun _ => hjp0 ()) (hjp0 ())

theorem vopBody_canon {x : Desc} {q : Part} {p : Nat} : AccKeepsTables (vopBody x q p) := by
  unfold vopBody
  refine acc_bind_tables countSteps_canon fun _ => ?_
  extract_lets
  split
  exact acc_ite_tables vopReduce_canon (acc_ite_tables vopRecord_canon vopElem_canon)

theorem vopRun_canon {func d p : Nat} {w : Work} (h : TablesWf w.dev) : TablesWf (vopRun func d p w).dev := by
  unfold vopRun
  split
  · exact iteWork_tables (runPart_canon vopBody_canon h) h
  · exact h

theorem convRun_canon {d p : Nat} {w : Work} (h : TablesWf w.dev) : TablesWf (convRun d p w).dev := by
  unfold convRun
  split
  · exact runPart_canon vopBody_canon h
  · exact h

/-! ### Coll -/

theorem toMember_canon {gno k : Nat} {g : Group} {bodies : List FabMsg} {v : Dev} (h : TablesWf v) :
    ∀ u, toMember gno g k bodies v = some u → TablesWf u :=
  iteOpt_tables (some_tables h) (sendMsg_canon h)

theorem toMembers_canon {gno : Nat} {g : Group} {ranks : List Nat} {bodies : Nat → List FabMsg} {v : Dev} (h : TablesWf v) :
    ∀ u, toMembers gno g ranks bodies v = some u → TablesWf u := by
  unfold toMembers
  refine List.foldlRecOn (motive := fun o : Option Dev => ∀ u, o = some u → TablesWf u) ranks _ (some_tables h) fun o ho k _ => ?_
  cases o with
  | none => exact none_tables
  | some v => exact iteOpt_tables none_tables (toMember_canon (ho v rfl))

theorem countTx_canon {ctx : Nat} {ms : List FabMsg} {v : Dev} (h : TablesWf v) : TablesWf (countTx ctx ms v) :=
  ctrAdd_tables _ _ _ h

theorem collForget_canon {gno seq : Nat} {v : Dev} (h : TablesWf v) : TablesWf (collForget gno seq v) := modGroup_canon h

theorem collEndParts_canon {x : Desc} {ps : List Nat} {st : Byte} {a : W64} {f : Flags} {w : Work} (h : TablesWf w.dev) :
    TablesWf (collEndParts x ps st a f w).dev := by
  unfold collEndParts
  extract_lets _ _ _ v0
  have hv0 : TablesWf v0.dev := iteWork_tables h (freeDest_canon h)
  refine onDev_tables ?_
  extract_lets v2
  have hv2 : TablesWf v2 := foldl_tables _ (fun _ _ h1 => endPart_canon h1) _ _ hv0
  split
  · exact ite_tables (collForget_canon hv2) hv2
  · exact hv2

theorem collEnd_canon {x : Desc} {st : Byte} {a : W64} {f : Flags} {w : Work} (h : TablesWf w.dev) :
    TablesWf (collEnd x st a f w).dev := by
  unfold collEnd
  split
  · exact h
  · exact iteWork_tables (collEndParts_canon h) (collEndParts_canon (collEndParts_canon h))

theorem collLoseRank_canon {x : Desc} {k : Nat} {w : Work} (h : TablesWf w.dev) : TablesWf (collLoseRank x k w).dev := by
  unfold collLoseRank
  split
  · exact h
  · exact iteWork_tables h (collEndParts_canon h)

theorem remoteFail_canon {x : Desc} {w : Work} (h : TablesWf w.dev) : TablesWf (remoteFail x w).dev := by
  unfold remoteFail
  refine iteWork_tables (iteWork_tables (collEnd_canon h) h) (foldlWork_tables _ (fun _ _ h => ?_) _ _ h)
  refine iteWork_tables ?_ h
  split
  extract_lets v1
  have hv1 : TablesWf v1.dev := iteWork_tables h (freeDest_canon h)
  exact onDev_tables (endPart_canon hv1)

theorem rankFail_canon {x : Desc} {k : Nat} {w : Work} (h : TablesWf w.dev) : TablesWf (rankFail x k w).dev :=
  iteWork_tables (collLoseRank_canon h) (remoteFail_canon h)

theorem rankLost_canon {gno k : Nat} {w : Work} (h : TablesWf w.dev) : TablesWf (rankLost gno k w).dev := by
  unfold rankLost
  extract_lets v0
  have hv0 : TablesWf v0.dev := onDev_tables (modGroup_canon h)
  exact foldlWork_tables _ (fun _ _ h1 => rankFail_canon h1) _ _ hv0

theorem nodeLost_canon {node : BitVec 10} {twin : Bool} {w : Work} (h : TablesWf w.dev) : TablesWf (nodeLost node twin w).dev :=
  foldlWork_tables _ (fun _ _ h => foldlWork_tables _ (fun _ _ h1 => rankLost_canon h1) _ _ h) _ _ h

theorem remoteCtxs_canon {v : Dev} {w : Work} (_ : TablesWf v) (h1 : TablesWf w.dev) : TablesWf (remoteCtxs v w).dev :=
  foldlWork_tables _ (fun _ _ h => onDev_tables (failCtxBy_canon h)) _ _ h1

theorem unreachableFail_canon {w : Work} (h : TablesWf w.dev) : TablesWf (unreachableFail w).dev :=
  foldlWork_tables _ (fun _ _ h => foldlWork_tables _ (fun _ _ h1 => foldlWork_tables _ (fun _ _ h2 => rankFail_canon h2) _ _ h1)
    _ _ h) _ _ h

theorem askMemory_canon {p : Nat} {write : Bool} {r : Requestor} {va : W64} {n : Nat} :
    AccKeepsTables (askMemory p write r va n) := by
  unfold askMemory
  refine acc_bind_tables ?_ (fun _ => acc_pure_tables _)
  refine acc_forIn_tables (fun _ _ => ?_) _ _
  refine acc_bind_tables translate_canon fun _ => ?_
  split
  · exact acc_bind_tables (acc_modify_tables fun _ h => onDev_tables (askColl_canon h)) fun _ => acc_pure_tables _
  · exact acc_pure_tables _

theorem askOut_canon {ctx node : Nat} {mask : BitVec 24} {n : Nat} {v : Dev} (h : TablesWf v) :
    TablesWf (askOut ctx node mask n v) := by
  unfold askOut
  refine foldl_tables _ (fun _ _ h => ?_) _ _ h
  split
  · exact askColl_canon h
  · exact h

theorem collMsgs_canon {ctx gno : Nat} {g : Group} {ranks : List Nat} {bodies : Nat → List FabMsg} {v : Dev} (h : TablesWf v) (u : Dev)
    (hs : collMsgs ctx gno g ranks bodies v = some u) : TablesWf u := by
  obtain ⟨t, ht, rfl⟩ := Option.map_eq_some_iff.mp hs
  exact foldl_tables _ (fun _ _ h => askOut_canon h) _ _ (toMembers_canon h t ht)

theorem permTable_canon {x : Desc} {g : Group} : AccKeepsTables (permTable x g) :=
  acc_bind_tables askMemory_canon fun _ => acc_mapM_tables (fun _ => readNat_canon) _

theorem ownHeader_canon {x : Desc} {g : Group} {seq : Nat} : AccKeepsTables (ownHeader x g seq) :=
  acc_ite_tables (acc_bind_tables permTable_canon fun _ => acc_bind_tables (acc_pure_tables _) fun _ => acc_pure_tables _)
    (acc_bind_tables (acc_pure_tables _) fun _ => acc_pure_tables _)

theorem collMismatch_canon {x : Desc} {w : Work} (h : TablesWf w.dev) : TablesWf (collMismatch x w).dev := by
  unfold collMismatch
  extract_lets _ _ _ v2
  have hv2 : TablesWf v2.dev := by
    unfold v2
    refine onDev_tables (foldl_tables _ (fun _ _ h => ?_) _ _ h)
    split
    · next u1 e1 => exact askOut_canon (((toMember_canon h) _ e1))
    · exact h
  exact collEnd_canon hv2

theorem collCheck_canon {x : Desc} {w : Work} (h : TablesWf w.dev) : TablesWf (collCheck x w).dev := by
  unfold collCheck
  split
  · exact h
  · refine iteWork_tables h (iteWork_tables (collEnd_canon h) ?_)
    refine iteWork_tables h ?_
    extract_lets v0
    have hv0 : AccKeepsTables v0 := acc_bind_tables ownHeader_canon fun _ =>
      acc_ite_tables (acc_bind_tables (acc_bind_tables permTable_canon fun _ => acc_pure_tables _) fun _ => acc_pure_tables _)
      (acc_bind_tables (acc_pure_tables _) fun _ => acc_pure_tables _)
    exact runAcc_canon hv0 (fun _ _ h1 => iteWork_tables h1 (collMismatch_canon h1)) (fun _ _ _ h2 => collEnd_canon h2)
      h

theorem collReq_canon {x : Desc} : AccKeepsTables (collReq x) := reqOf_canon

theorem askSegs_canon {eng : Nat → Nat} {write : Bool} {r : Requestor} {va : W64} {n : Nat} :
    AccKeepsTables (askSegs eng write r va n) :=
  acc_bind_tables (acc_forIn_tables (fun _ _ => acc_bind_tables askMemory_canon fun _ => acc_pure_tables _) _ _) fun _ =>
    acc_pure_tables _

theorem ownScales_canon {x : Desc} {r : Requestor} : AccKeepsTables (ownScales x r) := by
  unfold ownScales
  refine acc_ite_tables (acc_pure_tables _) (acc_bind_tables readBytes_canon fun _ => ?_)
  split
  exact acc_pure_tables _

theorem tellOwner_canon {x : Desc} {seq phase i : Nat} : AccKeepsTables (tellOwner x seq phase i) := by
  unfold tellOwner
  refine acc_getThen_tables fun _ hw => acc_ite_tables (acc_modify_tables fun _ h1 => onDev_tables (modGroup_canon h1)) ?_
  split
  · next u2 e2 => exact acc_set_tables (((collMsgs_canon hw) _ e2))
  · exact acc_throw_tables _

theorem permMove_canon {x : Desc} {seq : Nat} {t : List Nat} : AccKeepsTables (permMove x seq t) := by
  unfold permMove
  extract_lets +onlyGivenNames _ _
  refine acc_bind_tables acc_get_tables fun _ => ?_
  extract_lets +onlyGivenNames _ _ _ _ _ jp5
  have hjp5 : ∀ a, AccKeepsTables (jp5 a) := fun _ => acc_modify_tables fun _ h4 => onDev_tables (modGroup_canon h4)
  clear_value jp5
  split
  · exact acc_bind_tables askSegs_canon fun _ => acc_bind_tables writeBytes_canon fun _ => acc_bind_tables (hjp5 _) fun _ =>
      acc_ite_tables (acc_bind_tables tellOwner_canon fun _ => acc_pure_tables _) (acc_bind_tables tellOwner_canon fun _ =>
      acc_pure_tables _)
  · split
    · extract_lets +onlyGivenNames _ _ _
      refine acc_bind_tables askSegs_canon fun _ => acc_bind_tables readBytes_canon fun _ => acc_bind_tables (hjp5 _)
        fun _ => ?_
      extract_lets +onlyGivenNames _
      refine acc_ite_tables (acc_bind_tables (hjp5 _) fun _ => acc_pure_tables _) (acc_getThen_tables fun _ hw6 => ?_)
      extract_lets +onlyGivenNames _
      split
      · next u7 e7 => exact acc_bind_tables (acc_set_tables (countTx_canon (((collMsgs_canon hw6) _ e7)))) fun _ =>
          acc_pure_tables _
      · exact acc_bind_tables (acc_throw_tables _) fun _ => acc_pure_tables _
    · split
      · exact acc_bind_tables askSegs_canon fun _ => acc_bind_tables readBytes_canon fun _ =>
          acc_bind_tables askSegs_canon fun _ => acc_bind_tables writeBytes_canon fun _ => acc_bind_tables (hjp5 _) fun _ =>
          acc_bind_tables tellOwner_canon fun _ => acc_pure_tables _
      · exact acc_pure_tables _

theorem permMoves_canon {x : Desc} {seq : Nat} {t : List Nat} : ∀ {n : Nat}, AccKeepsTables (permMoves x seq t n)
  | 0 => acc_pure_tables _
  | _ + 1 => acc_bind_tables permMove_canon fun _ => acc_ite_tables permMoves_canon (acc_pure_tables _)

theorem setStage_canon {d n : Nat} {v : Dev} (h : TablesWf v) : TablesWf (setStage d n v) := modDesc_tables _ _ h

theorem collScrub_canon {x : Desc} {g : Group} : AccKeepsTables (collScrub x g) :=
  acc_ite_tables (acc_bind_tables (acc_forIn_tables (fun _ _ => acc_bind_tables acc_get_tables fun _ =>
    acc_bind_tables writeNat_canon fun _ => acc_bind_tables (acc_modify_tables fun _ h1 => onDev_tables (freeNext_canon h1))
    fun _ => acc_pure_tables _) _ _) fun _ => acc_pure_tables _) (acc_pure_tables _)

theorem modRun_canon {d : Nat} {f : CollRun → CollRun} {v : Dev} (h : TablesWf v) : TablesWf (modRun d f v) := modDesc_tables _ _ h

theorem collNow_canon {x : Desc} : AccKeepsTables (collNow x) := by
  unfold collNow
  refine acc_getThen_tables fun _ hw => ?_
  extract_lets v1 _ _
  have hv1 : TablesWf v1 := hw
  exact acc_pure_tables _

theorem dropSeg_canon {gno rank seq phase s : Nat} {x5 : Dev} (h : TablesWf x5) : TablesWf (dropSeg gno rank seq phase s x5) :=
  modGroup_canon h

theorem collSend_canon {q : CollNow} {eng : Option Nat} {k phase s : Nat} {bs : List Byte} :
    AccKeepsTables (collSend q eng k phase s bs) := by
  unfold collSend
  refine acc_getThen_tables fun _ hw => ?_
  extract_lets _ _ _ o1
  clear_value o1
  split
  · next _ u2 e2 => exact acc_set_tables (askColl_canon (countTx_canon (modRun_canon (((iteOpt_tables none_tables
      (sendSegs_canon hw)) _ e2)))))
  · exact acc_modify_tables fun _ h4 => collLoseRank_canon h4

theorem grantSeg_canon {q : CollNow} {k s : Nat} : AccKeepsTables (grantSeg q k s) := by
  unfold grantSeg
  refine acc_ite_tables ?_ (acc_pure_tables _)
  refine acc_getThen_tables fun _ hw => ?_
  split
  · next u1 e1 => exact acc_set_tables (((collMsgs_canon hw) _ e1))
  · exact acc_modify_tables fun _ h2 => collLoseRank_canon h2

theorem putSeg_canon {q : CollNow} {r : Requestor} {eng k s : Nat} {bs : List Byte} : AccKeepsTables (putSeg q r eng k s bs) := by
  unfold putSeg
  refine acc_bind_tables askMemory_canon fun _ => acc_bind_tables writeBytes_canon fun _ => acc_modify_tables fun _ h =>
    onDev_tables ?_
  extract_lets v1
  have hv1 : TablesWf v1 := modRun_canon h
  exact ite_tables (noteSum_canon hv1) hv1

theorem ownCodes_canon {q : CollNow} {r : Requestor} {eng k s : Nat} : AccKeepsTables (ownCodes q r eng k s) := by
  unfold ownCodes
  split
  exact acc_bind_tables askMemory_canon fun _ => readBytes_canon

theorem askNodes_canon {q : CollNow} {eng : Nat} {f : CollFold} {more : Bool} : AccKeepsTables (askNodes q eng f more) :=
  acc_ite_tables (acc_bind_tables acc_get_tables fun _ => acc_bind_tables (acc_modify_tables fun _ h1 =>
    onDev_tables (freeNext_canon h1)) fun _ => acc_ite_tables (acc_bind_tables askMemory_canon fun _ =>
    acc_ite_tables askMemory_canon (acc_pure_tables _)) (acc_ite_tables askMemory_canon (acc_pure_tables _)))
    (acc_pure_tables _)

theorem foldStep_canon {q : CollNow} {r : Requestor} {f : CollFold} : AccKeepsTables (foldStep q r f) := by
  unfold foldStep
  extract_lets
  refine acc_bind_tables acc_get_tables fun _ => ?_
  extract_lets _ jp7
  have hjp7 : ∀ a, AccKeepsTables (jp7 a) := fun _ => acc_bind_tables askNodes_canon fun _ =>
    acc_bind_tables (acc_modify_tables fun _ h4 => onDev_tables (dropSeg_canon h4)) fun _ =>
    acc_ite_tables (acc_bind_tables (acc_modify_tables fun _ h5 => onDev_tables (modRun_canon h5)) fun _ => grantSeg_canon)
    (acc_bind_tables (acc_modify_tables fun _ h6 => onDev_tables (modRun_canon h6)) fun _ =>
    acc_bind_tables putSeg_canon fun _ => acc_ite_tables (acc_bind_tables (acc_forIn_tables (fun _ _ =>
    acc_bind_tables collSend_canon fun _ => acc_pure_tables _) _ _) fun _ => acc_pure_tables _) (acc_pure_tables _))
  clear_value jp7
  exact acc_ite_tables (acc_bind_tables ownCodes_canon fun _ => hjp7 _) (acc_bind_tables (acc_pure_tables _) fun _ => hjp7 _)

theorem openStep_canon {q : CollNow} : AccKeepsTables (openStep q) :=
  acc_bind_tables (acc_modify_tables fun _ h => onDev_tables (modRun_canon h)) fun _ =>
    acc_ite_tables grantSeg_canon (acc_pure_tables _)

theorem recvStep_canon {q : CollNow} {r : Requestor} {k s : Nat} : AccKeepsTables (recvStep q r k s) := by
  unfold recvStep
  extract_lets +onlyGivenNames -underBinder _
  refine acc_ite_tables (acc_bind_tables putSeg_canon fun _ => acc_modify_tables fun _ h => onDev_tables (dropSeg_canon h)) ?_
  extract_lets +onlyGivenNames -underBinder _ jp5
  have hjp5 : ∀ a, AccKeepsTables (jp5 a) := by
    intro _
    unfold jp5
    extract_lets +onlyGivenNames -underBinder jp4
    have hjp4 : ∀ a, AccKeepsTables (jp4 a) := by
      intro _
      unfold jp4
      extract_lets +onlyGivenNames -underBinder jp3
      have hjp3 : ∀ a, AccKeepsTables (jp3 a) := by
        intro _
        unfold jp3
        split
        exact acc_bind_tables (acc_modify_tables fun _ h1 => onDev_tables (modPart_canon h1)) fun _ =>
          acc_bind_tables putSeg_canon fun _ => acc_modify_tables fun _ h2 => onDev_tables (dropSeg_canon h2)
      clear_value jp3
      exact acc_ite_tables (acc_bind_tables ownScales_canon fun _ => hjp3 _) (acc_bind_tables (acc_pure_tables _) fun _ => hjp3 _)
    clear_value jp4
    exact acc_ite_tables (acc_bind_tables askMemory_canon fun _ => hjp4 ()) (hjp4 ())
  clear_value jp5
  exact acc_ite_tables (acc_bind_tables ownCodes_canon fun _ => hjp5 _) (acc_bind_tables (acc_pure_tables _) fun _ => hjp5 _)

theorem segStep_canon {q : CollNow} {j : Nat} {m : Acc Unit} (hm : AccKeepsTables m) : AccKeepsTables (segStep q j m) := by
  unfold segStep
  refine acc_tryCatch_tables hm fun _ => ?_
  split
  · exact acc_throw_tables _
  · exact acc_modify_tables fun _ h => collEndParts_canon h

theorem collMove_canon {x : Desc} : AccKeepsTables (collMove x) := by
  unfold collMove
  refine acc_bind_tables collNow_canon fun _ => acc_bind_tables collReq_canon fun _ => ?_
  split
  · exact acc_bind_tables acc_get_tables fun _ => acc_bind_tables (segStep_canon (acc_bind_tables ownCodes_canon fun _ =>
      collSend_canon)) fun _ => acc_pure_tables _
  · exact acc_bind_tables (segStep_canon foldStep_canon) fun _ => acc_pure_tables _
  · exact acc_bind_tables openStep_canon fun _ => acc_pure_tables _
  · exact acc_bind_tables (segStep_canon recvStep_canon) fun _ => acc_pure_tables _
  · exact acc_pure_tables _

theorem collMoves_canon {x : Desc} : ∀ {n : Nat}, AccKeepsTables (collMoves x n)
  | 0 => acc_pure_tables _
  | _ + 1 => acc_bind_tables collMove_canon fun _ => acc_ite_tables collMoves_canon (acc_pure_tables _)

theorem collBegin_canon {q : CollNow} {r : Requestor} : AccKeepsTables (collBegin q r) := by
  unfold collBegin
  extract_lets +onlyGivenNames _
  refine acc_bind_tables ?_ (fun _ => ?_)
  · refine acc_forIn_tables (fun _ _ => ?_) _ _
    refine acc_getThen_tables fun _ hw => ?_
    extract_lets +onlyGivenNames v1 jp2
    have hv1 : TablesWf v1 := hw
    have hjp2 : ∀ a, AccKeepsTables (jp2 a) := fun _ => acc_ite_tables (acc_bind_tables askSegs_canon fun _ => acc_pure_tables _)
      (acc_pure_tables _)
    clear_value jp2
    exact acc_ite_tables (acc_bind_tables askMemory_canon fun _ => hjp2 ()) (hjp2 ())
  · extract_lets +onlyGivenNames jp6
    have hjp6 : ∀ a, AccKeepsTables (jp6 a) := by
      intro _
      unfold jp6
      extract_lets +onlyGivenNames jp5
      have hjp5 : ∀ a, AccKeepsTables (jp5 a) := by
        intro _
        unfold jp5
        refine acc_getThen_tables fun _ hw3 => ?_
        extract_lets +onlyGivenNames _
        split
        · next u4 e4 => exact acc_set_tables (countTx_canon (setStage_canon (((collMsgs_canon hw3) _ e4))))
        · exact acc_throw_tables _
      clear_value jp5
      exact acc_ite_tables (acc_bind_tables ownScales_canon fun _ => hjp5 _) (acc_bind_tables (acc_pure_tables _) fun _ => hjp5 _)
    clear_value jp6
    exact acc_ite_tables (acc_bind_tables readBytes_canon fun _ => hjp6 _) (acc_bind_tables (acc_pure_tables _) fun _ => hjp6 _)

theorem putTrailers_canon {x : Desc} {r : Requestor} : AccKeepsTables (putTrailers x r) := by
  unfold putTrailers
  refine acc_bind_tables collNow_canon fun _ => acc_ite_tables ?_ (acc_pure_tables _)
  refine segStep_canon (acc_bind_tables askMemory_canon fun _ => ?_)
  refine acc_bind_tables readBytes_canon fun _ => ?_
  split
  · exact acc_bind_tables (acc_forIn_tables (fun _ _ => acc_bind_tables askMemory_canon fun _ => acc_pure_tables _) _ _) fun _ =>
      writeBytes_canon
  · exact acc_pure_tables _

theorem collGo_canon {x : Desc} {c : CollRun} : AccKeepsTables (collGo x c) := by
  unfold collGo
  extract_lets +onlyGivenNames -underBinder _
  refine acc_bind_tables collReq_canon fun _ => acc_bind_tables acc_get_tables fun _ => ?_
  extract_lets +onlyGivenNames -underBinder _
  refine acc_ite_tables (acc_pure_tables _) ?_
  extract_lets +onlyGivenNames -underBinder jp13
  have hjp13 : ∀ a, AccKeepsTables (jp13 a) := by
    intro _
    unfold jp13
    extract_lets +onlyGivenNames -underBinder jp9
    have hjp9 : ∀ a, AccKeepsTables (jp9 a) := by
      intro _
      unfold jp9
      refine acc_bind_tables collNow_canon fun _ => acc_getThen_tables fun _ hw7 => ?_
      extract_lets +onlyGivenNames -underBinder v8
      have hv8 : TablesWf v8 := hw7
      exact acc_ite_tables (acc_bind_tables putTrailers_canon fun _ => acc_pure_tables _) (acc_pure_tables _)
    clear_value jp9
    exact acc_ite_tables (acc_ite_tables (hjp9 ()) (acc_ite_tables (acc_bind_tables (acc_modify_tables fun _ h10 =>
      onDev_tables (setStage_canon h10)) fun _ => hjp9 ()) (acc_bind_tables permTable_canon fun _ =>
      acc_bind_tables permMoves_canon fun _ => acc_bind_tables acc_get_tables fun _ =>
      acc_ite_tables (acc_bind_tables (acc_modify_tables fun _ h12 => onDev_tables (setStage_canon h12)) fun _ => hjp9 ())
      (hjp9 ())))) (acc_bind_tables collMoves_canon fun _ => acc_bind_tables collNow_canon fun _ =>
      acc_ite_tables (acc_bind_tables collScrub_canon fun _ => hjp9 ()) (hjp9 ()))
  clear_value jp13
  exact acc_ite_tables (acc_bind_tables collNow_canon fun _ => acc_bind_tables collBegin_canon fun _ => hjp13 ()) (hjp13 ())

theorem collStart_canon {x : Desc} {c : CollRun} : AccKeepsTables (collStart x c) := by
  unfold collStart
  refine acc_bind_tables acc_get_tables fun _ => acc_bind_tables ownHeader_canon fun _ => acc_getThen_tables fun _ hw2 => ?_
  split
  · next u3 e3 => exact acc_set_tables (setStage_canon (((collMsgs_canon hw2) _ e3)))
  · exact acc_throw_tables _

theorem collRun_canon {op d : Nat} {w : Work} (h : TablesWf w.dev) : TablesWf (collRun op d w).dev := by
  unfold collRun
  split
  · exact h
  · extract_lets +onlyGivenNames -underBinder _
    split
    · exact h
    · refine iteWork_tables h ?_
      extract_lets +onlyGivenNames -underBinder v5
      have hv5 : TablesWf v5.dev := by
        unfold v5
        refine iteWork_tables ?_ h
        refine iteWork_tables h (iteWork_tables (collEnd_canon h) ?_)
        split
        · exact onDev_tables (stabWait_canon h)
        · extract_lets +onlyGivenNames -underBinder jp2
          have hjp2 : WorkKeepsTables jp2 := fun _ h => onDev_tables (foldl_tables _ (fun _ _ h1 =>
            startPart_canon h1) _ _ h)
          clear_value jp2
          exact runAcc_canon collStart_canon (fun _ _ h3 => hjp2 _ h3) (fun _ _ _ h4 => collEnd_canon (hjp2 _ h4)) h
      split
      · exact hv5
      · extract_lets +onlyGivenNames -underBinder v6
        have hv6 : TablesWf v6.dev := iteWork_tables (collCheck_canon hv5) hv5
        split
        · exact hv6
        · split
          · exact hv6
          · exact iteWork_tables hv6 (runAcc_canon collGo_canon (fun _ _ h7 => iteWork_tables (collEnd_canon h7) h7)
              (fun _ _ _ h8 => collEnd_canon h8) hv6)

theorem rxHeader_canon {gno rank : Nat} {h : CollHeader} {w : Work} (hw : TablesWf w.dev) :
    TablesWf (rxHeader gno rank h w).dev := by
  unfold rxHeader
  refine iteWork_tables hw ?_
  extract_lets v0
  have hv0 : TablesWf v0.dev := onDev_tables (modGroup_canon hw)
  split
  · exact collCheck_canon hv0
  · exact hv0

theorem rxCredit_canon {gno rank seq : Nat} {seg : Option Nat} {v : Dev} (h : TablesWf v) :
    TablesWf (rxCredit gno rank seq seg v) :=
  ite_tables h (modGroup_canon h)

theorem rxMismatch_canon {gno rank seq : Nat} {w : Work} (h : TablesWf w.dev) : TablesWf (rxMismatch gno rank seq w).dev := by
  unfold rxMismatch
  refine iteWork_tables h ?_
  split
  · exact iteWork_tables (collEnd_canon h) (onDev_tables (modGroup_canon h))
  · exact onDev_tables (modGroup_canon h)

theorem rxData_canon {gno rank seq phase offset : Nat} {bs : List Byte} {port : Nat} {v : Dev} (h : TablesWf v) :
    TablesWf (rxData gno rank seq phase offset bs port v) :=
  ite_tables h (ctrAdd_tables _ _ _ (modGroup_canon h))

theorem collTimeout_canon {d : Nat} {w : Work} (h : TablesWf w.dev) : TablesWf (collTimeout d w).dev := by
  unfold collTimeout
  split
  · exact h
  · exact iteWork_tables (collEnd_canon h) h

/-! ### Copy -/

theorem copyReq_canon {x : Desc} {q : Part} : AccKeepsTables (copyReq x q) := acc_ite_tables (acc_pure_tables _) reqOf_canon

theorem freeByte_canon : AccKeepsTables (freeByte) :=
  acc_getThen_tables fun _ hw => acc_bind_tables (acc_set_tables (freeNext_canon hw)) fun _ => acc_pure_tables _

theorem copyLocal_canon {x : Desc} {q : Part} {p : Nat} : AccKeepsTables (copyLocal x q p) := by
  unfold copyLocal
  refine acc_bind_tables copyReq_canon fun _ => ?_
  split
  exact acc_bind_tables markDest_canon fun _ => acc_bind_tables hostAsks_canon fun _ =>
    acc_bind_tables readBytes_canon fun _ => acc_bind_tables (acc_mapM_tables (fun _ =>
    acc_ite_tables freeByte_canon (acc_pure_tables _)) _) fun _ => acc_bind_tables hostAsks_canon fun _ =>
    writeBytes_canon

theorem copyAsk_canon {x : Desc} {q : Part} {p : Nat} : AccKeepsTables (copyAsk x q p) := by
  unfold copyAsk
  refine acc_bind_tables copyReq_canon fun _ => ?_
  split
  refine acc_bind_tables acc_get_tables fun _ => ?_
  extract_lets _ _ _ _ _ jp5
  have hjp5 : ∀ a, AccKeepsTables (jp5 a) := by
    intro _
    unfold jp5
    refine acc_getThen_tables fun _ hw3 => ?_
    split
    · next u4 e4 => exact acc_set_tables (countTx_canon (((toMembers_canon hw3) _ e4)))
    · exact acc_throw_tables _
  clear_value jp5
  exact acc_ite_tables (acc_bind_tables hostAsks_canon fun _ => acc_bind_tables readBytes_canon fun _ =>
    acc_bind_tables (acc_pure_tables _) fun _ => hjp5 _) (acc_bind_tables (acc_pure_tables _) fun _ => hjp5 _)

theorem copyFail_canon {x : Desc} {p : Nat} {st : Byte} {a : W64} {w : Work} (h : TablesWf w.dev) :
    TablesWf (copyFail x p st a w).dev := by
  unfold copyFail
  split
  extract_lets v0
  have hv0 : TablesWf v0.dev := iteWork_tables h (freeDest_canon h)
  exact onDev_tables (endPart_canon hv0)

theorem copyRun_canon {d p : Nat} {w : Work} (h : TablesWf w.dev) : TablesWf (copyRun d p w).dev := by
  unfold copyRun
  split
  · exact h
  · exact iteWork_tables (runPart_canon (acc_ite_tables (acc_pure_tables _) copyLocal_canon) h)
      (iteWork_tables (onDev_tables (endPart_canon (startPart_canon h))) (beginPart_canon (fun _ h1 =>
      runAcc_canon copyAsk_canon (fun _ _ h2 => onDev_tables (startPart_canon h2)) (fun _ _ _ h3 =>
      copyFail_canon (onDev_tables (startPart_canon h3))) h) h))

theorem copyReply_canon {gno node : Nat} {ms : List FabMsg} {v : Dev} (h : TablesWf v) : TablesWf (copyReply gno node ms v) :=
  getD_tables (sendMsg_canon h) h

theorem rxKeep_canon {src : Nat} {m : FabMsg} {x2 : Work} (h : TablesWf x2.dev) : TablesWf (rxKeep src m x2).dev :=
  onDev_tables { h with }

theorem rxCopyWrite_canon {g : Byte} {rank tag node : Nat} {addr : W64} {bs : List Byte} {w : Work} (h : TablesWf w.dev) :
    TablesWf (rxCopyWrite g rank tag node addr bs w).dev :=
  iteWork_tables (onDev_tables (copyReply_canon h)) (runAccOr_canon (acc_bind_tables hostAsks_canon fun _ =>
    writeBytes_canon) (fun _ _ h => onDev_tables (copyReply_canon (ctrAdd_tables _ _ _ h))) (fun _ _ _ h1 =>
    onDev_tables (copyReply_canon h1)) (fun _ h2 => rxKeep_canon h2) h)

theorem rxCopyRead_canon {g : Byte} {rank tag node : Nat} {addr : W64} {n : Nat} {w : Work} (h : TablesWf w.dev) :
    TablesWf (rxCopyRead g rank tag node addr n w).dev :=
  iteWork_tables (onDev_tables (copyReply_canon h)) (runAccOr_canon (acc_bind_tables hostAsks_canon fun _ =>
    readBytes_canon) (fun _ _ h => onDev_tables (copyReply_canon (countTx_canon h))) (fun _ _ _ h1 =>
    onDev_tables (copyReply_canon h1)) (fun _ h2 => rxKeep_canon h2) h)

theorem copyProgress_canon {x : Desc} {p n : Nat} {v : Dev} (h : TablesWf v) : TablesWf (copyProgress x p n v) := by
  unfold copyProgress
  extract_lets v0
  have hv0 : TablesWf v0 := modPart_canon h
  split
  · exact ite_tables (endPart_canon hv0) hv0
  · exact hv0

theorem rxCopyDone_canon {tag : Nat} {st : Byte} {addr : W64} {n : Nat} {w : Work} (h : TablesWf w.dev) :
    TablesWf (rxCopyDone tag st addr n w).dev := by
  unfold rxCopyDone
  split
  · exact h
  · exact iteWork_tables (onDev_tables (copyProgress_canon h)) (copyFail_canon h)

theorem rxCopyData_canon {tag node : Nat} {addr : W64} {bs : List Byte} {w : Work} (h : TablesWf w.dev) :
    TablesWf (rxCopyData tag node addr bs w).dev := by
  unfold rxCopyData
  split
  · exact h
  · extract_lets v0
    have hv0 : AccKeepsTables v0 := acc_bind_tables copyReq_canon fun _ => acc_bind_tables hostAsks_canon fun _ =>
      writeBytes_canon
    exact runAccOr_canon hv0 (fun _ _ h1 => onDev_tables (copyProgress_canon (ctrAdd_tables _ _ _ h1))) (fun _ _ _ h2 =>
      copyFail_canon h2) (fun _ h3 => rxKeep_canon h3) h

theorem rxCopy_canon {node : Nat} {m : FabMsg} {w : Work} (h : TablesWf w.dev) : TablesWf (rxCopy node m w).dev := by
  unfold rxCopy
  split
  · exact rxCopyWrite_canon h
  · exact rxCopyRead_canon h
  · exact rxCopyData_canon h
  · exact rxCopyDone_canon h
  · exact h

theorem rxDrain_canon {w : Work} (h : TablesWf w.dev) : TablesWf (rxDrain w).dev :=
  foldlWork_tables _ (fun _ _ h => rxCopy_canon h) _ _ (onDev_tables { h with })

end Sys2Proof.Machine
end

section
/-! The tables under power and start-up, counters and traces, and the CXL edge. -/

namespace Sys2Proof.Machine

open Sys2Proof

/-! ### Power -/

theorem resetDev_canon {pw : Power} {v : Dev} (_ : TablesWf v) : TablesWf (resetDev pw v) := by
  constructor
  all_goals rfl

theorem applyPower_canon {st : Straps} {refclkOk : Bool} {v : Dev} (h : TablesWf v) : TablesWf (applyPower st refclkOk v) := by
  unfold applyPower
  extract_lets _ v0
  have hv0 : TablesWf v0 := resetDev_canon h
  exact { hv0 with }

theorem powerUp_canon {st : Straps} {refclkOk : Bool} {v : Dev} (h : TablesWf v) : TablesWf (powerUp st refclkOk v) :=
  ite_tables (applyPower_canon h) h

theorem inputFault_canon {w : Work} (h : TablesWf w.dev) : TablesWf (inputFault w).dev := by
  unfold inputFault
  extract_lets +onlyGivenNames v0
  have hv0 : TablesWf v0 := h
  refine iteWork_tables h ?_
  extract_lets +onlyGivenNames _ v1
  have hv1 : TablesWf v1 := resetDev_canon hv0
  exact { hv1 with }

theorem perstAssert_canon {v : Dev} (h : TablesWf v) : TablesWf (perstAssert v) := ite_tables h (resetDev_canon h)
theorem perstRelease_canon {v : Dev} (h : TablesWf v) : TablesWf (perstRelease v) := ite_tables h (ite_tables { h with } { h with })

theorem applyConfig_canon {w : Work} (h : TablesWf w.dev) : TablesWf (applyConfig w).dev := by
  unfold applyConfig
  refine onDev_tables ?_
  extract_lets _ v0
  have hv0 : TablesWf v0 := { h with }
  exact ite_tables hv0 { hv0 with }

theorem startFirmware_canon {img : List Byte} {source : Bool} {w : Work} (h : TablesWf w.dev) :
    TablesWf (startFirmware img source w).dev := by
  unfold startFirmware
  extract_lets v0 v1
  have hv0 : TablesWf v0.dev := onDev_tables { h with }
  have hv1 : TablesWf v1.dev := applyConfig_canon hv0
  exact onDev_tables { hv1 with }

theorem waitRecovery_canon {err : Nat} {v : Dev} (h : TablesWf v) : TablesWf (waitRecovery err v) := { h with }
theorem drawIncarnation_canon {v : Dev} (h : TablesWf v) : TablesWf (drawIncarnation v) := { h with }

theorem romStart_canon {puf : List Byte} {flashOk : Bool} {w : Work} (h : TablesWf w.dev) :
    TablesWf (romStart puf flashOk w).dev := by
  unfold romStart
  extract_lets +onlyGivenNames v0
  have hv0 : TablesWf v0 := h
  refine iteWork_tables h ?_
  extract_lets +onlyGivenNames o1 v2 _ v3
  clear_value o1
  have hv2 : TablesWf v2.dev := onDev_tables (drawIncarnation_canon { h with })
  have hv3 : TablesWf v3.dev := iteWork_tables hv2 (onDev_tables (freeNext_canon hv2))
  exact iteWork_tables (startFirmware_canon hv3) (onDev_tables (waitRecovery_canon hv3))

theorem recoverWith_canon {img : List Byte} {readOk : Bool} {w : Work} (h : TablesWf w.dev) :
    TablesWf (recoverWith img readOk w).dev :=
  iteWork_tables (startFirmware_canon h) (onDev_tables (waitRecovery_canon h))

theorem clearOnDie_canon {v : Dev} (h : TablesWf v) : TablesWf (clearOnDie v) :=
  stabForget_canon { h with engines := rfl, chisels := rfl }

theorem memoryInitDone_canon {w : Work} (h : TablesWf w.dev) : TablesWf (memoryInitDone w).dev := by
  unfold memoryInitDone
  refine iteWork_tables h ?_
  extract_lets v0
  have hv0 : TablesWf v0 := clearOnDie_canon h
  exact { hv0 with ueTimes := rfl }

theorem becomeReady_canon {v : Dev} (h : TablesWf v) : TablesWf (becomeReady v) := { h with }

theorem startupSelfTest_canon {cores : W32} {stks : BitVec 20} {v : Dev} (h : TablesWf v) :
    TablesWf (startupSelfTest cores stks v) := by
  unfold startupSelfTest
  refine ite_tables h ?_
  extract_lets v1
  have hv1 : TablesWf v1 := foldl_tables _ (fun _ _ h => ite_tables (fenceCore_canon h) h) _ _ h
  exact becomeReady_canon { hv1 with }

theorem flashUpdate_canon {kind : FlashKind} {bs : List Byte} {privileged : Bool} {cut : Option Nat} {w : Work} (h : TablesWf w.dev) :
    TablesWf (flashUpdate kind bs privileged cut w).dev := by
  unfold flashUpdate
  refine iteWork_tables h ?_
  split
  · exact iteWork_tables (onDev_tables { pokes_canon h with }) h
  · exact onDev_tables { pokes_canon h with }

theorem stopPorts_canon {v : Dev} (h : TablesWf v) : TablesWf (stopPorts v) := by
  unfold stopPorts
  exact { h with ports := by dsimp only; exact tabMap_wf _ _ _ h.ports }

theorem watchdogRestart_canon {v : Dev} (h : TablesWf v) : TablesWf (watchdogRestart v) := by
  unfold watchdogRestart
  extract_lets v0
  have hv0 : TablesWf v0 := stopPorts_canon h
  exact { hv0 with }

theorem switchSource_canon {osc : Bool} {v : Dev} (h : TablesWf v) : TablesWf (switchSource osc v) := by
  unfold switchSource
  extract_lets _ v0
  have hv0 : TablesWf v0 := { h with }
  exact traceTo_canon hv0

theorem refclockLost_canon {v : Dev} (h : TablesWf v) : TablesWf (refclockLost v) := by
  unfold refclockLost
  refine ite_tables h (ite_tables { h with } ?_)
  extract_lets v0
  have hv0 : TablesWf v0 := switchSource_canon h
  exact raise_canon { hv0 with }

theorem refclockRestored_canon {v : Dev} (h : TablesWf v) : TablesWf (refclockRestored v) :=
  ite_tables h (switchSource_canon h)

theorem paceWindow_canon {a b c d : W16} {v : Dev} (h : TablesWf v) : TablesWf (paceWindow a b c d v) :=
  ite_tables h (timerMark_tables _ { h with })

theorem paceCalibrate_canon {v : Dev} (h : TablesWf v) : TablesWf (paceCalibrate v) := ite_tables h (timerMark_tables _ { h with })

theorem governorDecision_canon {power : BitVec 13} {aim : Nat} {v : Dev} (h : TablesWf v) :
    TablesWf (governorDecision power aim v) := by
  unfold governorDecision
  refine ite_tables h ?_
  extract_lets +onlyGivenNames _ _
  split
  extract_lets +onlyGivenNames _ _ _ _ _ v0
  have hv0 : TablesWf v0 := timerMark_tables _ { h with }
  exact ite_tables (raise_canon hv0) hv0

theorem issueGating_canon {power : BitVec 13} {v : Dev} (h : TablesWf v) : TablesWf (issueGating power v) :=
  ite_tables h (ctrAdd_tables _ _ _ { h with })

theorem raiseThermal_canon {kind src : Nat} {t : W16} {v : Dev} (h : TablesWf v) : TablesWf (raiseThermal kind src t v) :=
  raise_canon h

theorem sensorUpdate_canon {r : Readings} {v : Dev} (h : TablesWf v) : TablesWf (sensorUpdate r v) := by
  unfold sensorUpdate
  refine ite_tables h (foldl_tables _ (fun _ _ hu => ite_tables hu (raiseThermal_canon hu)) _ _ (timerMark_tables _ ?_))
  exact { h with }

theorem sensorsFail_canon {failed : BitVec 38} {v : Dev} (h : TablesWf v) : TablesWf (sensorsFail failed v) := { h with }

theorem sensorCalibration_canon {failed : BitVec 38} {v : Dev} (h : TablesWf v) : TablesWf (sensorCalibration failed v) :=
  ite_tables h (timerMark_tables _ (sensorsFail_canon h))

theorem parkEnter_canon {v : Dev} (h : TablesWf v) : TablesWf (parkEnter v) :=
  ite_tables { h with } (ite_tables { h with } { h with })

theorem parkLeave_canon {v : Dev} (h : TablesWf v) : TablesWf (parkLeave v) :=
  ite_tables { h with } (ite_tables { h with } { h with })

theorem parkEntered_canon {w : Work} (h : TablesWf w.dev) : TablesWf (parkEntered w).dev := by
  unfold parkEntered
  refine iteWork_tables h ?_
  extract_lets v0 _ _ v1
  have hv0 : TablesWf v0 := h
  have hv1 : TablesWf v1 := { hv0 with }
  exact ite_tables (parkLeave_canon hv1) hv1

theorem parkLeft_canon {w : Work} (h : TablesWf w.dev) : TablesWf (parkLeft w).dev := by
  unfold parkLeft
  refine iteWork_tables h ?_
  extract_lets v0
  have hv0 : TablesWf v0 := clearOnDie_canon h
  exact { hv0 with }

/-! ### Observe -/

theorem ctrReset_canon {set : Nat} {v : Dev} (h : TablesWf v) : TablesWf (ctrReset set v) := by
  unfold ctrReset
  exact { h with values := by dsimp only; exact tabFilter_wf _ _ _ h.values, epochs := tabPut_wf _ _ _ _ h.epochs }

theorem ctrCountSample_canon {set : Nat} {v : Dev} (h : TablesWf v) : TablesWf (ctrCountSample set v) :=
  { h with samples := tabPut_wf _ _ _ _ h.samples }

theorem writeSample_canon {ctx : Nat} {a : W64} {seq : Nat} {body : List Byte} : AccKeepsTables (writeSample ctx a seq body) :=
  acc_bind_tables writeBytes_canon fun _ => acc_bind_tables writeBytes_canon fun _ => writeBytes_canon

theorem takeSample_canon {ctx set n cause : Nat} {reset : Bool} {a : W64} :
    AccKeepsTables (takeSample ctx set n cause reset a) := by
  unfold takeSample
  refine acc_getThen_tables fun _ hw => ?_
  extract_lets v1 _ _ v2
  have hv1 : TablesWf v1 := hw
  have hv2 : TablesWf v2 := ctrCountSample_canon (ite_tables (ctrReset_canon hv1) hv1)
  exact acc_bind_tables (acc_modify_tables fun _ h3 => onDev_tables hv2) fun _ => writeSample_canon

theorem ctrExec_canon {c : CtrCmd} : AccKeepsTables (ctrExec c) := by
  unfold ctrExec
  split
  · exact acc_pure_tables _
  · exact acc_ite_tables (acc_modify_tables fun _ h => onDev_tables (ctrReset_canon h)) takeSample_canon

theorem ctrStep_canon {w : Work} (h : TablesWf w.dev) : TablesWf (ctrStep w).dev := by
  unfold ctrStep
  split
  · exact h
  · exact runAcc_canon (acc_bind_tables (acc_modify_tables fun _ h => onDev_tables { h with }) fun _ =>
      ueFailsOpen_canon ctrExec_canon) (fun _ _ h1 => h1) (fun _ _ _ h2 => h2) h

theorem ctrDrain_canon {w : Work} (h : TablesWf w.dev) : TablesWf (ctrDrain w).dev :=
  foldlWork_tables _ (fun _ _ h => ctrStep_canon h) _ _ h

theorem ctrCommand_canon {op : BitVec 2} {set : BitVec 12} {w : Work} (h : TablesWf w.dev) :
    TablesWf (ctrCommand op set w).dev := by
  unfold ctrCommand
  extract_lets v0
  have hv0 : TablesWf v0 := h
  exact iteWork_tables (onDev_tables { h with }) (iteWork_tables h (ctrDrain_canon (onDev_tables { h with })))

theorem ctrWrite_canon {g : Nat} {b : Bar} {w : Work} (h : TablesWf w.dev) : TablesWf (ctrWrite g b w).dev :=
  iteWork_tables (iteWork_tables (ctrCommand_canon h) h) (iteWork_tables (onDev_tables { h with })
    (iteWork_tables (onDev_tables (ite_tables { h with } h)) h))

theorem mirrorPut_canon {m : MirrorWait} {w : Work} (h : TablesWf w.dev) : TablesWf (mirrorPut m w).dev :=
  runAccOr_canon (ueFailsOpen_canon writeSample_canon) (fun _ _ h => h) (fun _ _ _ h1 =>
    iteWork_tables (onDev_tables { h1 with }) h1) (fun _ h2 => onDev_tables { h2 with }) h

theorem mirrorTake_canon {x cause : Nat} {w : Work} (h : TablesWf w.dev) : TablesWf (mirrorTake x cause w).dev := by
  unfold mirrorTake
  refine iteWork_tables h ?_
  extract_lets _ v0
  have hv0 : TablesWf v0.dev := onDev_tables (ctrCountSample_canon h)
  exact mirrorPut_canon hv0

theorem mirrorDrain_canon {w : Work} (h : TablesWf w.dev) : TablesWf (mirrorDrain w).dev :=
  foldlWork_tables _ (fun _ _ h => mirrorPut_canon h) _ _ (onDev_tables { h with })

theorem mirrorSample_canon {x : Nat} {w : Work} (h : TablesWf w.dev) : TablesWf (mirrorSample x w).dev :=
  iteWork_tables h (mirrorTake_canon (onDev_tables (timerMark_tables _ h)))

theorem mirrorWrite_canon {x g : Nat} {b : Bar} {v : Dev} (h : TablesWf v) : TablesWf (mirrorWrite x g b v) :=
  { h with mirrors := tabPut_wf _ _ _ _ h.mirrors }

theorem pcSample_canon {u : SampleUnit} {stall : Byte} {v : Dev} (h : TablesWf v) : TablesWf (pcSample u stall v) := by
  unfold pcSample
  split
  refine ite_tables h ?_
  extract_lets _ v0 v1
  have hv0 : TablesWf v0 := timerMark_tables _ h
  have hv1 : TablesWf v1 := traceTo_canon hv0
  exact ite_tables (trcCause_canon hv1) hv1

theorem setTrc_canon {f : Trc → Trc} {v : Dev} (h : TablesWf v) : TablesWf (setTrc f v) := { h with }

theorem traceAccept_canon {q : Nat} {v : Dev} (h : TablesWf v) : TablesWf (traceAccept q v) := by
  unfold traceAccept
  extract_lets
  split
  · exact h
  · exact ite_tables (ite_tables h (setTrc_canon (setTrc_canon h))) (ite_tables h (setTrc_canon (setTrc_canon h)))

theorem traceTrigger_canon {cause : Nat} {v : Dev} (h : TablesWf v) : TablesWf (traceTrigger cause v) := by
  unfold traceTrigger
  split
  · exact h
  · exact ite_tables h (ite_tables (setTrc_canon h) (ite_tables h (setTrc_canon h)))

theorem spillOne_canon : AccKeepsTables (spillOne) := by
  unfold spillOne
  refine acc_bind_tables acc_get_tables fun _ => ?_
  extract_lets
  split
  · exact acc_pure_tables _
  · exact acc_bind_tables writeBytes_canon fun _ => acc_modify_tables fun _ h1 => onDev_tables (setTrc_canon h1)

theorem spillDrain_canon {w : Work} (h : TablesWf w.dev) : TablesWf (spillDrain w).dev :=
  iteWork_tables h (runAcc_canon (acc_bind_tables (acc_forIn_tables (fun _ _ =>
    acc_bind_tables (ueFailsOpen_canon spillOne_canon) fun _ => acc_pure_tables _) _ _) fun _ => acc_pure_tables _)
    (fun _ _ h => h) (fun _ _ _ h1 => keepUe_canon h h1) h)

theorem trcArm_canon {v : Dev} (h : TablesWf v) : TablesWf (trcArm v) := setTrc_canon h

theorem trcDump_canon {w : Work} (h : TablesWf w.dev) : TablesWf (trcDump w).dev := by
  unfold trcDump
  refine iteWork_tables h ?_
  extract_lets _ v0
  have hv0 : TablesWf v0.dev := onDev_tables (setTrc_canon h)
  exact runAccOr_canon (ueFailsOpen_canon writeBytes_canon) (fun _ _ h1 => onDev_tables (setTrc_canon h1))
    (fun _ _ _ h2 => h2) (fun _ h3 => onDev_tables (setTrc_canon h3)) hv0

theorem trcCtrl_canon {x : W64} {w : Work} (h : TablesWf w.dev) : TablesWf (trcCtrl x w).dev := by
  unfold trcCtrl
  extract_lets v0 v1
  have hv0 : TablesWf v0.dev := onDev_tables (setTrc_canon h)
  have hv1 : TablesWf v1.dev := iteWork_tables (onDev_tables (trcArm_canon hv0)) hv0
  exact iteWork_tables (trcDump_canon hv1) hv1

theorem trcTrig_canon {x : W64} {v : Dev} (h : TablesWf v) : TablesWf (trcTrig x v) := by
  unfold trcTrig
  extract_lets v0
  have hv0 : TablesWf v0 := setTrc_canon h
  exact ite_tables (trcCause_canon hv0) hv0

theorem trcWrite_canon {g : Nat} {b : Bar} {w : Work} (h : TablesWf w.dev) : TablesWf (trcWrite g b w).dev := by
  unfold trcWrite
  refine iteWork_tables ?_ (iteWork_tables (iteWork_tables (onDev_tables (trcTrig_canon h)) h)
    (iteWork_tables (iteWork_tables (onDev_tables (setTrc_canon h)) h) (iteWork_tables (iteWork_tables (onDev_tables
    (setTrc_canon h)) h) (iteWork_tables (onDev_tables (setTrc_canon h))
    (iteWork_tables (onDev_tables (setTrc_canon h)) (iteWork_tables (iteWork_tables (onDev_tables (setTrc_canon h)) h) h))))))
  extract_lets v0
  have hv0 : TablesWf v0.dev := iteWork_tables (onDev_tables (setTrc_canon h)) h
  exact iteWork_tables (trcCtrl_canon hv0) hv0

/-! ### Cxl -/

theorem setCxl_canon {f : Cxl → Cxl} {v : Dev} (h : TablesWf v) : TablesWf (setCxl f v) := { h with }

theorem reacquireLines_canon {v : Dev} (h : TablesWf v) : TablesWf (reacquireLines v) := by
  refine foldl_tables _ (fun u _ hu => ite_tables hu (ite_tables (emit_canon hu) ?_)) _ _ h
  exact { hu with timers := tabPut_wf _ _ _ _ hu.timers }

theorem waitsDrain_canon {w : Work} (h : TablesWf w.dev) : TablesWf (waitsDrain w).dev := by
  unfold waitsDrain
  extract_lets v0
  have hv0 : TablesWf v0.dev := rxDrain_canon (mirrorDrain_canon (ctrDrain_canon h))
  exact iteWork_tables (trcDump_canon hv0) hv0

theorem resetsTold_canon {v : Dev} (h : TablesWf v) : TablesWf (resetsTold v) := by
  unfold resetsTold
  refine ite_tables ?_ h
  refine foldl_tables _ (fun _ _ h => ?_) _ _ (setCxl_canon h)
  extract_lets v1
  have hv1 : TablesWf v1 := setCxl_canon h
  exact raise_canon hv1

theorem lineReread_canon {i : Nat} {v : Dev} (h : TablesWf v) : TablesWf (lineReread i v) :=
  ite_tables (resetsTold_canon (setCxl_canon h)) h

theorem cxlLinkUp_canon {rate : CxlRate} {x16 flit : Bool} {v : Dev} (h : TablesWf v) : TablesWf (cxlLinkUp rate x16 flit v) := by
  unfold cxlLinkUp
  refine ite_tables h ?_
  extract_lets _ v0
  have hv0 : TablesWf v0 := setCxl_canon h
  exact resetsTold_canon (reacquireLines_canon hv0)

theorem linkReset_canon {v : Dev} (h : TablesWf v) : TablesWf (linkReset v) := by
  unfold linkReset
  refine ite_tables h ?_
  extract_lets v0
  have hv0 : TablesWf v0 := setCxl_canon h
  exact { hv0 with dbLines := by dsimp only; exact tabMap_wf _ _ _ hv0.dbLines }

theorem cxlEnable_canon {v : Dev} (h : TablesWf v) : TablesWf (cxlEnable v) :=
  ite_tables h (reacquireLines_canon (setCxl_canon h))

theorem ideMacFailure_canon {v : Dev} (h : TablesWf v) : TablesWf (ideMacFailure v) :=
  ite_tables h (linkReset_canon (setCxl_canon h))

theorem dirAllocate_canon {line : Nat} {v : Dev} (h : TablesWf v) : TablesWf (dirAllocate line v) := by
  unfold dirAllocate
  refine ite_tables (setCxl_canon h) ?_
  extract_lets v0
  have hv0 : TablesWf v0 := by
    unfold v0
    refine ite_tables ?_ h
    split
    · exact emit_canon (setCxl_canon h)
    · exact h
  exact setCxl_canon hv0

theorem hdmUe_canon {host dpa : Nat} {v : Dev} (h : TablesWf v) : TablesWf (hdmUe host dpa v) :=
  countUe_canon (raiseMemUe_canon (setCxl_canon h))

theorem hdmRead_canon {h : Nat} {w : Work} (hw : TablesWf w.dev) : TablesWf (hdmRead h w).dev := by
  unfold hdmRead
  extract_lets +onlyGivenNames v0
  have hv0 : TablesWf v0 := hw
  refine iteWork_tables hw (iteWork_tables (onDev_tables (emit_canon hw)) ?_)
  split
  · exact onDev_tables (emit_canon hw)
  · extract_lets +onlyGivenNames v1 _
    have hv1 : TablesWf v1.dev := onDev_tables (ctrAdd_tables _ _ _ hw)
    refine iteWork_tables (onDev_tables (emit_canon (setCxl_canon hv1))) ?_
    extract_lets +onlyGivenNames v2
    have hv2 : TablesWf v2.dev := onDev_tables (dirAllocate_canon hv1)
    split
    · refine onDev_tables ?_
      extract_lets +onlyGivenNames v3
      have hv3 : TablesWf v3 := setCxl_canon hv2
      exact emit_canon (hdmUe_canon hv3)
    · exact onDev_tables (emit_canon hv2)

theorem hdmWriteUnit_canon {a : Nat} {line : List Byte} {mask : W64} {w : Work} {u : Nat} (h : TablesWf w.dev) :
    TablesWf (hdmWriteUnit a line mask w u).dev := by
  unfold hdmWriteUnit
  refine iteWork_tables h (foldlWork_tables _ (fun w i hw => ?_) _ _ (iteWork_tables ?_ h))
  · split
    · exact hw
    · exact hw
  · exact { h with }

theorem hdmWrite_canon {h : Nat} {line : List Byte} {mask : W64} {poison : Bool} {w : Work} (hw : TablesWf w.dev) :
    TablesWf (hdmWrite h line mask poison w).dev := by
  unfold hdmWrite
  extract_lets +onlyGivenNames v0
  have hv0 : TablesWf v0 := hw
  refine iteWork_tables hw (iteWork_tables (onDev_tables (emit_canon hw)) ?_)
  split
  · exact onDev_tables (emit_canon hw)
  · extract_lets +onlyGivenNames v1 v2 v3
    have hv1 : TablesWf v1.dev := onDev_tables (ctrAdd_tables _ _ _ hw)
    have hv2 : TablesWf v2.dev := iteWork_tables (onDev_tables (setCxl_canon hv1)) hv1
    have hv3 : TablesWf v3.dev := iteWork_tables (onDev_tables (setCxl_canon hv2)) hv2
    refine iteWork_tables (onDev_tables (emit_canon hv3)) ?_
    extract_lets +onlyGivenNames o4 v6
    clear_value o4
    have hv6 : TablesWf v6.dev := foldlWork_tables _ (fun _ _ h5 => hdmWriteUnit_canon h5) _ _ hv3
    refine onDev_tables ?_
    extract_lets +onlyGivenNames v7
    have hv7 : TablesWf v7 := by
      unfold v7
      split
      · exact hdmUe_canon hv6
      · exact hv6
    exact emit_canon hv7

theorem backInvalidate_canon {line : Nat} {write : Bool} {v : Dev} (h : TablesWf v) : TablesWf (backInvalidate line write v) := by
  unfold backInvalidate
  split
  · exact h
  · exact ite_tables h (ite_tables (emit_canon (setCxl_canon h)) h)

theorem birsp_canon {line : Nat} {v : Dev} (h : TablesWf v) : TablesWf (birsp line v) := by
  unfold birsp
  split
  · exact h
  · split
    · exact setCxl_canon h
    · exact setCxl_canon h
    · exact h
    · exact h

theorem atsInvalidation_canon {pasid : BitVec 20} {base n tag : Nat} {v : Dev} (h : TablesWf v) :
    TablesWf (atsInvalidation pasid base n tag v) :=
  ite_tables h (setCxl_canon h)

theorem atsInvalidationComplete_canon {tag : Nat} {v : Dev} (h : TablesWf v) : TablesWf (atsInvalidationComplete tag v) :=
  ite_tables (emit_canon (setCxl_canon h)) h

theorem atcAdd_canon {t : AtcEntry} {v : Dev} (h : TablesWf v) : TablesWf (atcAdd t v) := setCxl_canon h
theorem setMailbox_canon {m : Nat} {b : Mailbox} {v : Dev} (h : TablesWf v) : TablesWf (setMailbox m b v) := setCxl_canon h

theorem ideKm_canon {id : W32} {cm io : Bool} {v : Dev} (h : TablesWf v) : TablesWf (ideKm id cm io v) :=
  ite_tables (emit_canon (setCxl_canon h)) h

theorem doeObject_canon {m : Nat} {o : DoeObject} {size : Nat} {v : Dev} (h : TablesWf v) : TablesWf (doeObject m o size v) := by
  unfold doeObject
  refine ite_tables h (ite_tables (setMailbox_canon h) ?_)
  split
  · exact ite_tables (emit_canon h) h
  · exact ite_tables (emit_canon h) h
  · exact ite_tables (ideKm_canon h) h
  · exact h
  · exact h
  · exact h

theorem doeAbort_canon {m : Nat} {v : Dev} (h : TablesWf v) : TablesWf (doeAbort m v) := ite_tables (setMailbox_canon h) h

theorem doeDiscovery_canon {m : Nat} {v : Dev} (h : TablesWf v) : TablesWf (doeDiscovery m v) := by
  unfold doeDiscovery
  split
  · exact ite_tables h (emit_canon (setMailbox_canon h))
  · exact h

theorem cdatAccess_canon {v : Dev} (h : TablesWf v) : TablesWf (cdatAccess v) := by
  unfold cdatAccess
  split
  · exact ite_tables (emit_canon (setMailbox_canon h)) h
  · exact h

theorem spdmAnswer_canon {s : Option W32} {r : SpdmRsp} {v : Dev} (h : TablesWf v) : TablesWf (spdmAnswer s r v) :=
  emit_canon (setMailbox_canon h)

theorem spdmServe_canon {pick : SpdmReq → Option (Dev → SpdmRsp × Dev)} {stage : Nat} {v : Dev}
    (hpick : ∀ r f, pick r = some f → ∀ u, TablesWf u → TablesWf (f u).2) (h : TablesWf v) : TablesWf (spdmServe pick stage v) := by
  unfold spdmServe
  split
  · exact h
  · split
    · exact h
    · next f hf => exact ite_tables h (ite_tables (spdmAnswer_canon h) (spdmAnswer_canon (hpick _ f hf v h)))

theorem setSpdm_canon {f : Spdm → Spdm} {v : Dev} (h : TablesWf v) : TablesWf (setSpdm f v) := setCxl_canon h

theorem signed_canon {v : Dev} {t : List Byte} {f : BitVec 768 → SpdmRsp} (h : TablesWf v) : TablesWf (signed v t f).2 :=
  iteAns_canon (freeNext_canon h) h

theorem getVersion_canon {v : Dev} (h : TablesWf v) : TablesWf (getVersion v) := by
  refine spdmServe_canon (fun r f hf u hu => ?_) h
  split at hf
  · cases hf
    exact ans_canon (setSpdm_canon hu)
  · cases hf

theorem getCapabilities_canon {v : Dev} (h : TablesWf v) : TablesWf (getCapabilities v) := by
  refine spdmServe_canon (fun r f hf u hu => ?_) h
  split at hf
  · cases hf
    exact iteAns_canon (ans_canon (setSpdm_canon hu)) hu
  · cases hf

theorem negotiateAlgorithms_canon {v : Dev} (h : TablesWf v) : TablesWf (negotiateAlgorithms v) := by
  refine spdmServe_canon (fun r f hf u hu => ?_) h
  split at hf
  · cases hf
    exact ans_canon (setSpdm_canon hu)
  · cases hf

theorem getDigests_canon {w : Work} (h : TablesWf w.dev) : TablesWf (getDigests w).dev := by
  refine spdmServe_canon (fun r f hf u hu => ?_) h
  split at hf
  · cases hf
    exact hu
  · cases hf

theorem getCertificate_canon {w : Work} (h : TablesWf w.dev) : TablesWf (getCertificate w).dev := by
  refine spdmServe_canon (fun r f hf u hu => ?_) h
  split at hf
  · cases hf
    exact iteAns_canon hu (iteAns_canon (ans_canon (setSpdm_canon hu)) hu)
  · cases hf

theorem challenge_canon {w : Work} (h : TablesWf w.dev) : TablesWf (challenge w).dev := by
  refine spdmServe_canon (fun r f hf u hu => ?_) h
  split at hf
  · cases hf
    exact iteAns_canon hu (signed_canon hu)
  · cases hf

theorem getMeasurements_canon {v : Dev} (h : TablesWf v) : TablesWf (getMeasurements v) := by
  refine spdmServe_canon (fun r f hf u hu => ?_) h
  split at hf
  · cases hf
    exact iteAns_canon hu (iteAns_canon (signed_canon hu) hu)
  · cases hf

theorem keyExchange_canon {v : Dev} (h : TablesWf v) : TablesWf (keyExchange v) := by
  refine spdmServe_canon (fun r f hf u hu => ?_) h
  split at hf
  · cases hf
    refine iteAns_canon hu ?_
    exact iteAns_canon (ans_canon (setSpdm_canon (signed_canon hu))) (signed_canon hu)
  · cases hf

theorem modSession_canon {id : W32} {f : SpdmSession → SpdmSession} {v : Dev} (h : TablesWf v) : TablesWf (modSession id f v) :=
  setSpdm_canon h

theorem finishReq_canon {v : Dev} (h : TablesWf v) : TablesWf (finishReq v) := by
  refine spdmServe_canon (fun r f hf u hu => ?_) h
  split at hf
  · cases hf
    exact iteAns_canon (ans_canon (modSession_canon hu)) hu
  · cases hf

theorem keyUpdate_canon {v : Dev} (h : TablesWf v) : TablesWf (keyUpdate v) := by
  refine spdmServe_canon (fun r f hf u hu => ?_) h
  split at hf
  · cases hf
    exact iteAns_canon hu (ans_canon (modSession_canon hu))
  · cases hf

theorem spdmHeartbeat_canon {v : Dev} (h : TablesWf v) : TablesWf (spdmHeartbeat v) := by
  refine spdmServe_canon (fun r f hf u hu => ?_) h
  split at hf
  · cases hf
    exact iteAns_canon (ans_canon (modSession_canon hu)) hu
  · cases hf

theorem endSession_canon {v : Dev} (h : TablesWf v) : TablesWf (endSession v) := by
  refine spdmServe_canon (fun r f hf u hu => ?_) h
  split at hf
  · cases hf
    exact iteAns_canon (ans_canon (setSpdm_canon hu)) hu
  · cases hf

theorem chunkTake_canon {v : Dev} (h : TablesWf v) : TablesWf (chunkTake v) := by
  refine spdmServe_canon (fun r f hf u hu => ?_) h
  split at hf
  · cases hf
    exact iteAns_canon hu (ans_canon (setSpdm_canon hu))
  · cases hf

theorem wholeRequest_canon {s : Option W32} {r : SpdmReq} {v : Dev} (h : TablesWf v) : TablesWf (wholeRequest s r v) := by
  unfold wholeRequest
  extract_lets o
  split
  · exact emit_canon h
  · exact emit_canon h
  · exact emit_canon h
  · exact setMailbox_canon h

theorem chunkSend_canon {v : Dev} (h : TablesWf v) : TablesWf (chunkSend v) := by
  unfold chunkSend
  split
  · exact ite_tables (wholeRequest_canon (chunkTake_canon h)) (chunkTake_canon h)
  · exact chunkTake_canon h

theorem chunkGet_canon {v : Dev} (h : TablesWf v) : TablesWf (chunkGet v) := by
  refine spdmServe_canon (fun r f hf u hu => ?_) h
  split at hf
  · cases hf
    exact iteAns_canon hu (ans_canon (setSpdm_canon hu))
  · cases hf

end Sys2Proof.Machine
end

section
/-! The tables under the engines, statistics, roots, checks and tests. -/

namespace Sys2Proof.Machine

open Sys2Proof

/-! ### Product -/

theorem loadTile_canon {r : Requestor} {j : Job} {b : Blk} {t : Nat} {both : Bool} : AccKeepsTables (loadTile r j b t both) := by
  unfold loadTile
  split
  refine acc_bind_tables ?_ (fun _ => ?_)
  · refine acc_mapM_tables (fun _ => ?_) _
    split
    split
    exact acc_bind_tables readCode_canon fun _ => acc_pure_tables _
  · refine acc_ite_tables ?_ (acc_bind_tables (acc_pure_tables _) fun _ => acc_pure_tables _)
    refine acc_bind_tables ?_ (fun _ => acc_pure_tables _)
    refine acc_mapM_tables (fun _ => ?_) _
    split
    exact acc_bind_tables readNat_canon fun _ => acc_pure_tables _

theorem rowGroup_canon {r : Requestor} {j : Job} {mem row k0 g len : Nat} : AccKeepsTables (rowGroup r j mem row k0 g len) := by
  unfold rowGroup
  refine acc_bind_tables ?_ (fun _ => acc_ite_tables (acc_bind_tables readNat_canon fun _ => acc_pure_tables _)
    (acc_bind_tables (acc_pure_tables _) fun _ => acc_pure_tables _))
  refine acc_mapM_tables (fun _ => ?_) _
  split
  exact readCode_canon

theorem streamTile_canon {r : Requestor} {j : Job} {b : Blk} {t : Nat} {st : StatSet} {slot : Tab W32} {sa sb : Val} {bank : Bank} :
    AccKeepsTables (streamTile r j b t st slot sa sb bank) := by
  unfold streamTile
  split
  refine acc_bind_tables ?_ (fun _ => acc_pure_tables _)
  refine acc_forIn_tables (fun _ _ => ?_) _ _
  refine acc_bind_tables addFlags_canon fun _ => acc_bind_tables ?_ (fun _ => acc_pure_tables _)
  refine acc_forIn_tables (fun _ _ => ?_) _ _
  refine acc_bind_tables (acc_mapM_tables (fun _ => rowGroup_canon) _) fun _ => acc_bind_tables addFlags_canon fun _ =>
    acc_bind_tables ?_ (fun _ => acc_pure_tables _)
  refine acc_forIn_tables (fun _ _ => ?_) _ _
  split
  exact acc_pure_tables _

/-! ### Engine -/

theorem modEngPart_canon {e d p : Nat} {f : EngPart → EngPart} {v : Dev} (h : TablesWf v) : TablesWf (modEngPart e d p f v) :=
  modEngine_canon h

theorem dropEngPart_canon {e d p : Nat} {v : Dev} (h : TablesWf v) : TablesWf (dropEngPart e d p v) := modEngine_canon h

theorem modBank_canon {e b : Nat} {f : Bank → Bank} {v : Dev} (h : TablesWf v) : TablesWf (modBank e b f v) :=
  modEngine_canon h

theorem keepFree_canon {e : Nat} {x : Desc} {q : EngPart} {v : Dev} (h : TablesWf v) : TablesWf (keepFree e x q v) := by
  unfold keepFree
  split
  · refine ite_tables ?_ h
    extract_lets _ v0
    have hv0 : TablesWf v0 := modBank_canon h
    exact { hv0 with }
  · exact h

theorem failEng_canon {e d p : Nat} {st : Byte} {a : W64} {f : Flags} {v : Dev} (h : TablesWf v) :
    TablesWf (failEng e d p st a f v) := by
  unfold failEng
  extract_lets v0 v1
  have hv0 : TablesWf v0 := by
    unfold v0
    split
    · exact keepFree_canon h
    · exact h
  have hv1 : TablesWf v1 := dropEngineParts_canon hv0
  exact endPart_canon hv1

theorem onPart_canon {α : Type} {e d p : Nat} {body : Acc α} {ok : α → Work → Work} {w : Work} (hbody : AccKeepsTables body) (hok
    : ∀ a, WorkKeepsTables (ok a)) (h2 : TablesWf w.dev) :
    TablesWf (onPart (α := α) e d p body ok w).dev := by
  unfold onPart
  split
  · next _ u e => exact hok _ _ (onDev_tables (modPart_canon (snoopsUsed_tables ((acc_run_tables hbody e h2 :)))))
  · next _ _ u1 e1 => exact onDev_tables (failEng_canon (snoopsUsed_tables (freeDest_canon ((acc_run_tables hbody e1 h2 :)))))
  · next u2 e2 => exact h2

theorem engStage_canon {x : Desc} {e p : Nat} : AccKeepsTables (engStage x e p) := by
  unfold engStage
  refine acc_bind_tables reqOf_canon fun _ => acc_bind_tables ?_ (fun _ => acc_pure_tables _)
  refine acc_forIn_tables (fun _ _ => ?_) _ _
  split
  exact acc_bind_tables markDest_canon fun _ => acc_pure_tables _

theorem enqueueProduct_canon {d p : Nat} {v : Dev} (h : TablesWf v) : TablesWf (enqueueProduct d p v) := by
  unfold enqueueProduct
  split
  · exact h
  · split
    · exact h
    · exact ite_tables h (ite_tables (endPart_canon h) (ite_tables (endPart_canon h)
        (ite_tables h (queueMarks_canon (modEngine_canon h)))))

theorem enqueueAll_canon {test : Desc → Bool} {d : Nat} {v : Dev} (h : TablesWf v) : TablesWf (enqueueAll test d v) := by
  unfold enqueueAll
  split
  · exact h
  · exact ite_tables (foldl_tables _ (fun _ _ h => enqueueProduct_canon h) _ _ h) h

theorem enqueueDrain_canon {d : Nat} {v : Dev} (h : TablesWf v) : TablesWf (enqueueDrain d v) := by
  unfold enqueueDrain
  split
  · exact h
  · split
    · exact h
    · exact ite_tables h (ite_tables (endPart_canon h) (ite_tables (endPart_canon h) (ite_tables (endPart_canon h)
        (ite_tables h (queueMarks_canon (modEngine_canon h))))))

theorem blockIssued_canon {e d p b : Nat} {v : Dev} (h : TablesWf v) : TablesWf (blockIssued e d p b v) := by
  unfold blockIssued
  split
  · exact h
  · extract_lets +onlyGivenNames v0
    have hv0 : TablesWf v0 := modEngPart_canon h
    refine ite_tables ?_ hv0
    extract_lets +onlyGivenNames v1
    have hv1 : TablesWf v1 := bankSweep_canon (modBank_canon hv0)
    exact endPart_canon (dropEngPart_canon hv1)

theorem takeBank_canon {e b : Nat} {x : Desc} {q : EngPart} {sa sb : W32} {v : Dev} (h : TablesWf v) :
    TablesWf (takeBank e b x q sa sb v) := by
  unfold takeBank
  extract_lets _ _ v0 v1
  have hv0 : TablesWf v0 := ite_tables h (bankClean_canon h)
  have hv1 : TablesWf v1 := modBank_canon hv0
  exact modEngPart_canon hv1

theorem bankCheck_canon {x : Desc} {e b side : Nat} {blk : Blk} : AccKeepsTables (bankCheck x e b side blk) := by
  unfold bankCheck
  refine acc_bind_tables acc_get_tables fun _ => ?_
  split
  · exact acc_pure_tables _
  · exact failUe_canon

theorem weightPass_canon {x : Desc} {r : Requestor} {j : Job} {b : Blk} {t : Nat} {st : StatSet} :
    AccKeepsTables (weightPass x r j b t st) := by
  unfold weightPass
  split
  refine acc_bind_tables ?_ (fun _ => acc_pure_tables _)
  refine acc_forIn_tables (fun _ _ => ?_) _ _
  refine acc_bind_tables (acc_mapM_tables (fun _ => rowGroup_canon) _) fun _ => acc_bind_tables ?_ (fun _ => acc_pure_tables _)
  refine acc_forIn_tables (fun _ _ => ?_) _ _
  extract_lets _ _ _ _ jp0
  have hjp0 : ∀ a, AccKeepsTables (jp0 a) := by
    intro _
    unfold jp0
    split
    exact acc_bind_tables addFlags_canon fun _ => acc_bind_tables writeNat_canon fun _ => acc_pure_tables _
  clear_value jp0
  exact acc_ite_tables (acc_bind_tables (acc_pure_tables _) fun _ => hjp0 _) (acc_bind_tables readNat_canon fun _ =>
    acc_bind_tables (acc_pure_tables _) fun _ => hjp0 _)

theorem passBody_canon {e bank : Nat} {x : Desc} {q : EngPart} {st : StatSet} {fresh : Bool} {k : Bank} :
    AccKeepsTables (passBody e bank x q st fresh k) := by
  unfold passBody
  refine acc_bind_tables engStage_canon fun _ => ?_
  extract_lets
  split
  · exact acc_pure_tables _
  · exact acc_bind_tables countPass_canon fun _ => acc_ite_tables (acc_bind_tables weightPass_canon fun _ =>
      acc_pure_tables _) (acc_bind_tables bankCheck_canon fun _ => acc_bind_tables streamTile_canon fun _ =>
      acc_pure_tables _)

theorem runPass_canon {e bank : Nat} {x : Desc} {q : EngPart} {st : StatSet} {fresh : Bool} {w : Work} (h : TablesWf w.dev) :
    TablesWf (runPass e bank x q st fresh w).dev := by
  unfold runPass
  extract_lets jp3
  have hjp3 : ∀ a, WorkKeepsTables (jp3 a) := by
    intro _ _ h
    unfold jp3
    split
    · exact h
    · refine onDev_tables ?_
      extract_lets v1 v2
      have hv1 : TablesWf v1 := modEngine_canon h
      have hv2 : TablesWf v2 := ctrAdd_tables _ _ _ hv1
      exact ite_tables (modEngPart_canon hv2) (ite_tables (modEngPart_canon hv2) (blockIssued_canon hv2))
  clear_value jp3
  exact onPart_canon passBody_canon (fun _ _ h4 => hjp3 _ _ h4) h

theorem tensorScale_canon {r : Requestor} {fmt : Nat} {a : W64} : AccKeepsTables (tensorScale r fmt a) :=
  acc_ite_tables (acc_bind_tables readNat_canon fun _ => acc_pure_tables _) (acc_pure_tables _)

theorem loadBody_canon {e : Nat} {x : Desc} {q : EngPart} : AccKeepsTables (loadBody e x q) := by
  unfold loadBody
  refine acc_bind_tables engStage_canon fun _ => ?_
  extract_lets
  split
  · exact acc_pure_tables _
  · extract_lets jp1
    have hjp1 : ∀ a, AccKeepsTables (jp1 a) := by
      intro _
      unfold jp1
      extract_lets jp0
      have hjp0 : ∀ a, AccKeepsTables (jp0 a) := fun _ => acc_ite_tables (acc_bind_tables addFlags_canon fun _ =>
        acc_pure_tables _) (acc_bind_tables loadTile_canon fun _ => acc_pure_tables _)
      clear_value jp0
      exact acc_ite_tables (acc_bind_tables (acc_pure_tables _) fun _ => hjp0 _) (acc_bind_tables tensorScale_canon fun _ => hjp0 _)
    clear_value jp1
    exact acc_ite_tables (acc_bind_tables (acc_pure_tables _) fun _ => hjp1 _) (acc_bind_tables tensorScale_canon fun _ => hjp1 _)

theorem begun_canon {e : Nat} {q : EngPart} {v : Dev} (h : TablesWf v) : TablesWf (begun e q v) := by
  unfold begun
  extract_lets v0
  have hv0 : TablesWf v0 := ite_tables h (modEngPart_canon (startPart_canon h))
  exact modEngine_canon hv0

theorem takeBoundary_canon {e : Nat} {x : Desc} {q : EngPart} {w : Work} (h : TablesWf w.dev) :
    TablesWf (takeBoundary e x q w).dev := by
  unfold takeBoundary
  extract_lets +onlyGivenNames -underBinder _
  split
  · exact onDev_tables (stabWait_canon h)
  · exact h
  · extract_lets +onlyGivenNames -underBinder v0
    have hv0 : TablesWf v0.dev := onDev_tables (modEngine_canon h)
    refine iteWork_tables (runPass_canon hv0) (iteWork_tables hv0 ?_)
    extract_lets +onlyGivenNames -underBinder jp4 v6
    have hjp4 : ∀ a, WorkKeepsTables (jp4 a) := by
      intro _ _ h1
      unfold jp4
      refine onDev_tables ?_
      extract_lets +onlyGivenNames -underBinder v2 v3
      have hv2 : TablesWf v2 := ite_tables h1 (takeBank_canon h1)
      have hv3 : TablesWf v3 := modEngine_canon hv2
      exact ite_tables hv3 (blockIssued_canon hv3)
    clear_value jp4
    have hv6 : TablesWf v6.dev := onPart_canon loadBody_canon (fun _ _ h5 => hjp4 _ _ h5) (onDev_tables (begun_canon h))
    split
    · exact h
    · exact hv6

theorem passBoundary_canon {e : Nat} {w : Work} (h : TablesWf w.dev) : TablesWf (passBoundary e w).dev := by
  unfold passBoundary
  split
  · exact h
  · split
    · exact h
    · exact takeBoundary_canon h

theorem exchange_canon {e : Nat} {w : Work} (h : TablesWf w.dev) : TablesWf (exchange e w).dev := by
  unfold exchange
  extract_lets
  split
  · split
    · exact h
    · exact iteWork_tables h (runPass_canon h)
  · exact h

theorem bankClose_canon {e b : Nat} {v : Dev} (h : TablesWf v) : TablesWf (bankClose e b v) := by
  unfold bankClose
  extract_lets +onlyGivenNames _ _ _ _
  split
  · split
    · exact h
    · refine ite_tables h ?_
      extract_lets +onlyGivenNames v1
      have hv1 : TablesWf v1 := modEngine_canon (modBank_canon h)
      exact ite_tables (dropEngPart_canon hv1) hv1
  · split
    · exact h
    · split
      · exact h
      · exact stabWait_canon h
      · extract_lets +onlyGivenNames v2
        have hv2 : TablesWf v2 := modEngine_canon (modBank_canon h)
        exact startPart_canon (dropEngPart_canon hv2)
  · exact h

theorem treeEmpty_canon {e b : Nat} {v : Dev} (h : TablesWf v) : TablesWf (treeEmpty e b v) := ite_tables (modBank_canon h) h

theorem auxVal_canon {x : Desc} {r : Requestor} {mem i j : Nat} : AccKeepsTables (auxVal x r mem i j) := by
  unfold auxVal
  extract_lets
  split
  exact acc_bind_tables readCode_canon fun _ => acc_pure_tables _

theorem drainElem_canon {x : Desc} {r : Requestor} {mem i j : Nat} {v : Val} : AccKeepsTables (drainElem x r mem i j v) :=
  acc_ite_tables (acc_bind_tables auxVal_canon fun _ => acc_pure_tables _) (acc_pure_tables _)

theorem flagEmpty_canon {x : Desc} {r : Requestor} {b : Blk} {mem i : Nat} : AccKeepsTables (flagEmpty x r b mem i) :=
  acc_bind_tables acc_get_tables fun _ => acc_ite_tables (acc_bind_tables (acc_modify_tables fun _ h1 =>
    onDev_tables (freeNext_canon h1)) fun _ => acc_ite_tables addFlags_canon (acc_pure_tables _)) addFlags_canon

theorem drainMember_canon {x : Desc} {r : Requestor} {b : Blk} {s : Nat} {pair : Bool} {side : Nat} {k : Bank} :
    AccKeepsTables (drainMember x r b s pair side k) := by
  unfold drainMember
  refine acc_bind_tables acc_get_tables fun _ => acc_bind_tables (acc_mapM_tables (fun _ => acc_mapM_tables (fun _ =>
    drainElem_canon) _) _) fun _ => ?_
  split
  refine acc_bind_tables (acc_forIn_tables (fun _ _ => acc_bind_tables putRun_canon fun _ => acc_pure_tables _) _ _) fun _ =>
    acc_ite_tables ?_ (acc_pure_tables _)
  refine acc_bind_tables ?_ (fun _ => acc_pure_tables _)
  refine acc_forIn_tables (fun _ _ => ?_) _ _
  split
  extract_lets _ jp1
  have hjp1 : ∀ a, AccKeepsTables (jp1 a) := fun _ => acc_bind_tables writeBytes_canon fun _ => acc_pure_tables _
  clear_value jp1
  exact acc_ite_tables (acc_bind_tables flagEmpty_canon fun _ => hjp1 ()) (hjp1 ())

theorem drainGather_canon {x : Desc} {r : Requestor} {b : Blk} {pair : Bool} {side : Nat} {k : Bank} :
    AccKeepsTables (drainGather x r b pair side k) := by
  unfold drainGather
  refine acc_ite_tables ?_ (acc_pure_tables _)
  refine acc_bind_tables ?_ (fun _ => acc_pure_tables _)
  refine acc_forIn_tables (fun _ _ => ?_) _ _
  refine acc_bind_tables ?_ (fun _ => acc_pure_tables _)
  refine acc_forIn_tables (fun _ _ => ?_) _ _
  extract_lets _ _ jp0
  have hjp0 : ∀ a, AccKeepsTables (jp0 a) := by
    intro _
    unfold jp0
    split
    exact acc_bind_tables addFlags_canon fun _ => acc_bind_tables writeNat_canon fun _ => acc_pure_tables _
  clear_value jp0
  exact acc_ite_tables (acc_bind_tables readNat_canon fun _ => acc_bind_tables (acc_pure_tables _) fun _ => hjp0 _)
    (acc_bind_tables (acc_pure_tables _) fun _ => hjp0 _)

theorem drainBody_canon {e bank : Nat} {x : Desc} {p : Nat} {k : Bank} : AccKeepsTables (drainBody e bank x p k) := by
  unfold drainBody
  refine acc_bind_tables engStage_canon fun _ => ?_
  extract_lets
  split
  · exact acc_pure_tables _
  · exact acc_bind_tables bankCheck_canon fun _ => acc_ite_tables drainGather_canon (acc_bind_tables (acc_forIn_tables (fun _
      _ => acc_bind_tables drainMember_canon fun _ => acc_pure_tables _) _ _) fun _ => acc_pure_tables _)

theorem drainComplete_canon {e b : Nat} {w : Work} (h : TablesWf w.dev) : TablesWf (drainComplete e b w).dev := by
  unfold drainComplete
  extract_lets
  split
  · split
    · exact h
    · extract_lets jp3
      have hjp3 : ∀ a, WorkKeepsTables (jp3 a) := by
        intro _ _ h
        unfold jp3
        refine onDev_tables ?_
        extract_lets v1 v2
        have hv1 : TablesWf v1 := bankSweep_canon (modBank_canon h)
        have hv2 : TablesWf v2 := modPart_canon hv1
        split
        · exact ite_tables (endPart_canon hv2) hv2
        · exact hv2
      clear_value jp3
      exact onPart_canon drainBody_canon (fun _ _ h4 => hjp3 () _ h4) h
  · exact h

theorem gatherPromote_canon {d : Nat} {v : Dev} (h : TablesWf v) : TablesWf (gatherPromote d v) := by
  unfold gatherPromote
  split
  · exact h
  · refine ite_tables ?_ h
    extract_lets v0
    have hv0 : TablesWf v0 := modDesc_tables _ _ h
    exact { hv0 with engines := by dsimp only; exact tabMap_wf _ _ _ hv0.engines }

/-! ### Stat -/

theorem readWords_canon {r : Requestor} {a : W64} {n : Nat} : AccKeepsTables (readWords r a n) :=
  acc_mapM_tables (fun _ => readNat_canon) _

theorem writeWords_canon {r : Requestor} {a : W64} {ws : List Nat} : AccKeepsTables (writeWords r a ws) := by
  unfold writeWords
  refine acc_bind_tables ?_ (fun _ => acc_pure_tables _)
  refine acc_forIn_tables (fun _ _ => ?_) _ _
  split
  exact acc_bind_tables writeNat_canon fun _ => acc_pure_tables _

theorem endMalformed_canon {bad : Bool} : AccKeepsTables (endMalformed bad) :=
  acc_ite_tables (acc_bind_tables (acc_modify_tables fun _ h => h) fun _ => acc_throw_tables _) (acc_pure_tables _)

theorem foldBlock_canon {x : Desc} {r : Requestor} {j : Nat} {w : Val} : AccKeepsTables (foldBlock x r j w) := by
  unfold foldBlock
  refine acc_bind_tables readBytes_canon fun _ => acc_ite_tables (acc_pure_tables _)
    (acc_bind_tables readWords_canon fun _ => ?_)
  refine acc_ite_tables (acc_bind_tables addFlags_canon fun _ => acc_bind_tables writeNat_canon fun _ => acc_pure_tables _) ?_
  extract_lets _ _ _ _ _ jp0
  have hjp0 : ∀ a, AccKeepsTables (jp0 a) := by
    intro _
    unfold jp0
    refine acc_bind_tables writeWords_canon fun _ => ?_
    split
    exact acc_bind_tables writeBytes_canon fun _ => acc_bind_tables writeBytes_canon fun _ => acc_pure_tables _
  clear_value jp0
  exact acc_ite_tables (acc_bind_tables (acc_pure_tables _) fun _ => hjp0 _) (acc_bind_tables readWords_canon fun _ =>
    acc_bind_tables (acc_pure_tables _) fun _ => hjp0 _)

theorem foldBody_canon {x : Desc} {q : Part} {p : Nat} : AccKeepsTables (foldBody x q p) := by
  unfold foldBody
  refine acc_bind_tables countSteps_canon fun _ => ?_
  extract_lets +onlyGivenNames -underBinder _
  refine acc_bind_tables reqOf_canon fun _ => ?_
  extract_lets +onlyGivenNames -underBinder _ _ jp1
  have hjp1 : ∀ a, AccKeepsTables (jp1 a) := by
    intro _
    unfold jp1
    extract_lets +onlyGivenNames -underBinder _ jp0
    have hjp0 : ∀ a, AccKeepsTables (jp0 a) := fun _ => acc_ite_tables (acc_bind_tables countOwn_canon fun _ =>
      acc_bind_tables (acc_forIn_tables (fun _ _ => acc_bind_tables markDest_canon fun _ =>
      acc_bind_tables markDest_canon fun _ => acc_pure_tables _) _ _) fun _ => acc_bind_tables (acc_mapM_tables (fun _ =>
      foldBlock_canon) _) fun _ => endMalformed_canon) (acc_pure_tables _)
    clear_value jp0
    exact acc_ite_tables (acc_bind_tables addFlags_canon fun _ => hjp0 ()) (hjp0 ())
  clear_value jp1
  exact acc_ite_tables (acc_bind_tables (acc_pure_tables _) fun _ => hjp1 _) (acc_bind_tables readNat_canon fun _ =>
    acc_bind_tables (acc_modify_tables fun _ h2 => onDev_tables (noteVerdict_canon h2)) fun _ =>
    acc_bind_tables (acc_pure_tables _) fun _ => hjp1 _)

theorem normOne_canon {x : Desc} {r : Requestor} {j : Nat} : AccKeepsTables (normOne x r j) := by
  unfold normOne
  refine acc_bind_tables readBytes_canon fun _ => acc_ite_tables (acc_pure_tables _)
    (acc_bind_tables readWords_canon fun _ => ?_)
  extract_lets _ o0 _
  clear_value o0
  split
  · exact acc_bind_tables writeWords_canon fun _ => acc_bind_tables writeBytes_canon fun _ =>
      acc_bind_tables writeNat_canon fun _ => acc_pure_tables _
  · exact acc_bind_tables addFlags_canon fun _ => acc_bind_tables writeWords_canon fun _ =>
      acc_bind_tables writeBytes_canon fun _ => acc_bind_tables writeNat_canon fun _ => acc_pure_tables _

theorem normBody_canon {x : Desc} {q : Part} {p : Nat} : AccKeepsTables (normBody x q p) :=
  acc_bind_tables countSteps_canon fun _ => acc_bind_tables reqOf_canon fun _ =>
    acc_bind_tables countOwn_canon fun _ => acc_bind_tables (acc_forIn_tables (fun _ _ =>
    acc_bind_tables markDest_canon fun _ => acc_bind_tables markDest_canon fun _ => acc_pure_tables _) _ _) fun _ =>
    acc_bind_tables (acc_mapM_tables (fun _ => normOne_canon) _) fun _ => endMalformed_canon

theorem statRun_canon {op d p : Nat} {w : Work} (h : TablesWf w.dev) : TablesWf (statRun op d p w).dev := by
  unfold statRun
  split
  · exact iteWork_tables (runPart_canon (acc_ite_tables foldBody_canon normBody_canon) h) h
  · exact h

/-! ### Roots -/

theorem scrub_canon {r : Requestor} {a : W64} {n : Nat} : AccKeepsTables (scrub r a n) :=
  acc_bind_tables (acc_forIn_tables (fun _ _ => acc_bind_tables acc_get_tables fun _ => acc_bind_tables writeNat_canon fun _ =>
    acc_bind_tables (acc_modify_tables fun _ h1 => onDev_tables (freeNext_canon h1)) fun _ => acc_pure_tables _) _ _) fun _ =>
    acc_pure_tables _

theorem rootBlock_canon {x : Desc} {r : Requestor} {solve : Bool} {slot : Option W64} {js : List Nat} {j : Nat} :
    AccKeepsTables (rootBlock x r solve slot js j) := by
  unfold rootBlock
  extract_lets +onlyGivenNames -underBinder _ _ _ _ _
  refine acc_bind_tables readBytes_canon fun _ => ?_
  extract_lets +onlyGivenNames -underBinder _ _ _ jp0
  have hjp0 : ∀ a, AccKeepsTables (jp0 a) := fun _ => acc_bind_tables addFlags_canon fun _ =>
    acc_bind_tables writeWords_canon fun _ => writeBytes_canon
  clear_value jp0
  refine acc_ite_tables (acc_pure_tables _) (acc_ite_tables (acc_pure_tables _) ?_)
  refine acc_ite_tables (acc_bind_tables (hjp0 _) fun _ => acc_pure_tables _) (acc_ite_tables (acc_pure_tables _) ?_)
  refine acc_bind_tables readWords_canon fun _ => ?_
  split
  · extract_lets +onlyGivenNames -underBinder jp1
    have hjp1 : ∀ a, AccKeepsTables (jp1 a) := fun _ => acc_bind_tables scrub_canon fun _ =>
      acc_bind_tables acc_get_tables fun _ => acc_bind_tables countShared_canon fun _ =>
      acc_bind_tables countMacs_canon fun _ => acc_bind_tables (hjp0 _) fun _ => acc_pure_tables _
    clear_value jp1
    exact acc_ite_tables (acc_bind_tables readBytes_canon fun _ => acc_ite_tables (acc_bind_tables readWords_canon fun _ =>
      acc_bind_tables (acc_pure_tables _) fun _ => hjp1 _) (acc_bind_tables (acc_pure_tables _) fun _ =>
      acc_bind_tables (acc_pure_tables _) fun _ => hjp1 _)) (acc_bind_tables (acc_pure_tables _) fun _ => hjp1 _)
  · exact acc_bind_tables (hjp0 _) fun _ => acc_pure_tables _

theorem rootBody_canon {solve : Bool} {x : Desc} {q : Part} {p : Nat} : AccKeepsTables (rootBody solve x q p) := by
  unfold rootBody
  extract_lets +onlyGivenNames -underBinder jp1
  have hjp1 : ∀ a, AccKeepsTables (jp1 a) := by
    intro _
    unfold jp1
    extract_lets +onlyGivenNames -underBinder _
    refine acc_bind_tables reqOf_canon fun _ => ?_
    extract_lets +onlyGivenNames -underBinder _ _ o0
    clear_value o0
    exact acc_bind_tables (acc_forIn_tables (fun _ _ => acc_bind_tables markDest_canon fun _ =>
      acc_bind_tables markDest_canon fun _ => acc_pure_tables _) _ _) fun _ => acc_bind_tables (acc_mapM_tables (fun _ =>
      rootBlock_canon) _) fun _ => endMalformed_canon
  clear_value jp1
  exact acc_ite_tables (acc_bind_tables countSteps_canon fun _ => hjp1 ()) (hjp1 ())

theorem applyRoot_canon {r : Requestor} {root rec_ : W64} {o : Rt} {n b first j : Nat} :
    AccKeepsTables (applyRoot r root rec_ o n b first j) := by
  unfold applyRoot
  extract_lets +onlyGivenNames -underBinder _ _
  refine acc_bind_tables readBytes_canon fun _ => ?_
  extract_lets +onlyGivenNames -underBinder jp0
  have hjp0 : ∀ a, AccKeepsTables (jp0 a) := fun _ => acc_ite_tables (acc_pure_tables _) (acc_bind_tables readWords_canon fun _ =>
    acc_pure_tables _)
  clear_value jp0
  exact acc_ite_tables (acc_bind_tables (acc_throw_tables _) fun _ => hjp0 ()) (hjp0 ())

theorem applyBlock_canon {x : Desc} {r : Requestor} {slot : W64} {rights : List (Nat × Option Mat)} {i : Nat} {left : Nat × Option Mat} :
    AccKeepsTables (applyBlock x r slot rights i left) := by
  unfold applyBlock
  extract_lets +onlyGivenNames -underBinder _ _ _ _
  refine acc_bind_tables (acc_mapM_tables (fun _ => acc_mapM_tables (fun _ => readNat_canon) _) _) fun _ => ?_
  extract_lets +onlyGivenNames -underBinder _ _ _ _ _ _
  refine acc_bind_tables countPass_canon fun _ => ?_
  extract_lets +onlyGivenNames -underBinder jp1
  have hjp1 : ∀ a, AccKeepsTables (jp1 a) := by
    intro _
    unfold jp1
    refine acc_bind_tables scrub_canon fun _ => acc_bind_tables ?_ (fun _ => acc_pure_tables _)
    refine acc_forIn_tables (fun _ _ => ?_) _ _
    split
    extract_lets +onlyGivenNames -underBinder _ _ _ jp0
    have hjp0 : ∀ a, AccKeepsTables (jp0 a) := by
      intro _
      unfold jp0
      extract_lets +onlyGivenNames -underBinder _ _
      refine acc_bind_tables ?_ (fun _ => acc_pure_tables _)
      refine acc_forIn_tables (fun _ _ => ?_) _ _
      split
      refine acc_bind_tables ?_ (fun _ => acc_pure_tables _)
      refine acc_forIn_tables (fun _ _ => ?_) _ _
      split
      split
      exact acc_bind_tables addFlags_canon fun _ => acc_bind_tables writeNat_canon fun _ => acc_pure_tables _
    clear_value jp0
    exact acc_ite_tables (acc_bind_tables countMacs_canon fun _ => hjp0 ()) (hjp0 ())
  clear_value jp1
  exact acc_ite_tables (acc_bind_tables countMacs_canon fun _ => hjp1 ()) (hjp1 ())

theorem applyBody_canon {x : Desc} {q : Part} {p : Nat} : AccKeepsTables (applyBody x q p) := by
  unfold applyBody
  refine acc_ite_tables (acc_pure_tables _) (acc_bind_tables reqOf_canon fun _ => ?_)
  refine acc_bind_tables (acc_forIn_tables (fun _ _ => acc_bind_tables (acc_forIn_tables (fun _ _ =>
    acc_bind_tables (acc_forIn_tables (fun _ _ => acc_bind_tables markDest_canon fun _ => acc_pure_tables _) _ _) fun _ =>
    acc_pure_tables _) _ _) fun _ => acc_pure_tables _) _ _) fun _ => ?_
  refine acc_bind_tables (acc_mapM_tables (fun _ => applyRoot_canon) _) fun _ => acc_bind_tables (acc_mapM_tables (fun _ =>
    applyRoot_canon) _) fun _ => acc_bind_tables ?_ (fun _ => acc_pure_tables _)
  refine acc_forIn_tables (fun _ _ => ?_) _ _
  split
  exact acc_bind_tables applyBlock_canon fun _ => acc_pure_tables _

theorem rootRun_canon {cls op d p : Nat} {w : Work} (h : TablesWf w.dev) : TablesWf (rootRun cls op d p w).dev := by
  unfold rootRun
  split
  · exact iteWork_tables h (iteWork_tables (runPart_canon (acc_ite_tables applyBody_canon rootBody_canon) h) h)
  · exact h

/-! ### Judge -/

theorem chunkPrint_canon {x : Desc} {r : Requestor} {cols ldw c : Nat} {key : List Byte} :
    AccKeepsTables (chunkPrint x r cols ldw c key) :=
  acc_bind_tables (acc_mapM_tables (fun _ => readBytes_canon) _) fun _ => acc_bind_tables readBytes_canon fun _ =>
    acc_pure_tables _

theorem printBody_canon {x : Desc} {q : Part} {p : Nat} : AccKeepsTables (printBody x q p) :=
  acc_bind_tables reqOf_canon fun _ => acc_bind_tables readBytes_canon fun _ => acc_bind_tables readNat_canon fun _ =>
    acc_bind_tables readNat_canon fun _ => acc_bind_tables (acc_mapM_tables (fun _ => chunkPrint_canon) _) fun _ =>
    acc_bind_tables (acc_modify_tables fun _ h => onDev_tables (modPart_canon h)) fun _ =>
    acc_ite_tables (acc_bind_tables markDest_canon fun _ => acc_bind_tables acc_get_tables fun _ => writeBytes_canon)
    (acc_pure_tables _)

theorem pointFind_canon {x : Desc} {ts : List (List Byte)} : AccKeepsTables (pointFind x ts) := by
  unfold pointFind
  extract_lets
  refine acc_bind_tables acc_get_tables fun _ => ?_
  extract_lets
  refine acc_ite_tables (acc_bind_tables (acc_modify_tables fun _ h2 => onDev_tables (freeNext_canon h2)) fun _ =>
    acc_pure_tables _) (acc_ite_tables (acc_throw_tables _) ?_)
  extract_lets
  split
  extract_lets
  split
  · exact acc_bind_tables (acc_pure_tables _) fun _ => acc_pure_tables _
  · exact acc_bind_tables (acc_modify_tables fun _ h3 => onDev_tables (freeNext_canon h3)) fun _ =>
      acc_bind_tables (acc_pure_tables _) fun _ => acc_pure_tables _

theorem pointFailed_canon {x : Desc} {record : List Byte} {v : Dev} (h : TablesWf v) : TablesWf (pointFailed x record v) := by
  unfold pointFailed
  extract_lets v0
  have hv0 : TablesWf v0 := raise_canon (freeNext_canon h)
  exact failCtxBy_canon (modDesc_tables _ _ hv0)

theorem pointBody_canon {x : Desc} : AccKeepsTables (pointBody x) := by
  unfold pointBody
  refine acc_bind_tables reqOf_canon fun _ => acc_bind_tables (acc_mapM_tables (fun _ => readBytes_canon) _) fun _ =>
    acc_bind_tables pointFind_canon fun _ => ?_
  split
  exact acc_bind_tables markDest_canon fun _ => acc_bind_tables writeBytes_canon fun _ =>
    acc_ite_tables (acc_modify_tables fun _ h => onDev_tables (pointFailed_canon h)) (acc_pure_tables _)

theorem lossBody_canon {x : Desc} : AccKeepsTables (lossBody x) := by
  unfold lossBody
  refine acc_bind_tables reqOf_canon fun _ => acc_bind_tables readNat_canon fun _ => ?_
  extract_lets _ jp2
  have hjp2 : ∀ a, AccKeepsTables (jp2 a) := fun _ => acc_bind_tables markDest_canon fun _ =>
    acc_bind_tables writeBytes_canon fun _ => acc_bind_tables (acc_modify_tables fun _ h => onDev_tables (raise_canon h))
    fun _ => acc_ite_tables (acc_modify_tables fun _ h1 => onDev_tables (failCtxBy_canon h1)) (acc_pure_tables _)
  clear_value jp2
  exact acc_ite_tables (acc_bind_tables (acc_pure_tables _) fun _ => hjp2 _) (acc_bind_tables readNat_canon fun _ => hjp2 _)

theorem checkRun_canon {op d p : Nat} {w : Work} (h : TablesWf w.dev) : TablesWf (checkRun op d p w).dev := by
  unfold checkRun
  split
  · exact h
  · exact iteWork_tables h (iteWork_tables (onDev_tables (endPart_canon h)) (runPart_canon (acc_ite_tables
      printBody_canon (acc_ite_tables pointBody_canon lossBody_canon)) h))

theorem testFence_canon {bs : List Byte} {fail : Bool} {v : Dev} (h : TablesWf v) : TablesWf (testFence bs fail v) := by
  unfold testFence
  refine ite_tables ?_ h
  split
  · exact fenceCore_canon h
  · exact ite_tables (stackFaulty_canon h) h

theorem testReport_canon {x : Desc} {result detail : Nat} : AccKeepsTables (testReport x result detail) :=
  acc_bind_tables reqOf_canon fun _ => acc_bind_tables acc_get_tables fun _ => acc_bind_tables markDest_canon fun _ =>
    acc_bind_tables writeBytes_canon fun _ => acc_modify_tables fun _ h1 => onDev_tables (raise_canon h1)

theorem testBegin_canon {kind d : Nat} {go : Work → Work} {w : Work} (hgo : WorkKeepsTables go) (h1 : TablesWf w.dev) :
    TablesWf (testBegin kind d go w).dev :=
  iteWork_tables (beginPart_canon (fun _ h => hgo _ h) h1) h1

theorem testEnd_canon {d : Nat} {fail : Bool} {detail : W32} {effect : Dev → Dev} {w w1 : Work} (heffect : KeepsTables effect) (h1
    : TablesWf w.dev) (h2 : TablesWf w1.dev) :
    TablesWf (testEnd d fail detail effect w w1).dev := by
  unfold testEnd
  split
  · exact h2
  · extract_lets _ v1
    have hv1 : AccKeepsTables v1 := acc_bind_tables (acc_modify_tables fun _ h => onDev_tables (heffect _ h)) fun _ =>
      testReport_canon
    refine onDev_tables ?_
    split
    · exact ite_tables (testFence_canon (runBody_canon hv1 h1 h2)) (runBody_canon hv1 h1 h2)
    · exact runBody_canon hv1 h1 h2

theorem testRun_canon {kind d : Nat} {ph : TestPhase} {fail : Bool} {detail : W32} {effect : Dev → Dev} {w : Work} (heffect
    : KeepsTables effect) (h1 : TablesWf w.dev) :
    TablesWf (testRun kind d ph fail detail effect w).dev := by
  unfold testRun
  split
  · exact testBegin_canon (fun _ h => testEnd_canon (fun _ h1 => heffect _ h1) h1 h) h1
  · exact testBegin_canon (fun _ h2 => h2) h1
  · exact iteWork_tables (testEnd_canon (fun _ h3 => heffect _ h3) h1 h1) h1

theorem testStopped_canon {d : Nat} {w : Work} (h : TablesWf w.dev) : TablesWf (testStopped d w).dev := by
  unfold testStopped
  split
  · exact h
  · extract_lets _ jp2
    have hjp2 : WorkKeepsTables jp2 := fun _ h1 => onDev_tables (failCtxBy_canon (endPart_canon
      (onDev_tables (raise_canon h1))))
    clear_value jp2
    exact runAccOr_canon testReport_canon (fun _ _ h3 => onDev_tables (failCtxBy_canon (endPart_canon h3)))
      (fun _ _ _ h4 => hjp2 _ h4) (fun _ h5 => hjp2 _ h5) h

theorem testsStopped_canon {w : Work} (h : TablesWf w.dev) : TablesWf (testsStopped w).dev :=
  foldlWork_tables _ (fun _ _ h => testStopped_canon h) _ _ h

theorem deviceOpen_canon {v : Dev} (h : TablesWf v) : TablesWf (deviceOpen v) := ite_tables { h with } { h with }

theorem deviceClose_canon {w : Work} (h : TablesWf w.dev) : TablesWf (deviceClose w).dev := by
  unfold deviceClose
  extract_lets v0
  have hv0 : TablesWf v0 := h
  exact iteWork_tables { hv0 with } h

theorem deviceBody_canon {x : Desc} {cores : W32} {stks : BitVec 20} : AccKeepsTables (deviceBody x cores stks) := by
  unfold deviceBody
  have hlast : ∀ bs, AccKeepsTables (modify (onDev (raise 0x0015 x.ctx bs)) : Acc Unit) := fun _ =>
    acc_modify_tables fun _ h => raise_canon h
  refine acc_bind_tables acc_get_tables fun _ => acc_bind_tables (acc_mapM_tables (fun _ => translate_canon) _) fun _ =>
    acc_bind_tables acc_get_tables fun _ => acc_ite_tables (acc_bind_tables (acc_throw_tables _) fun _ => ?_) ?_
  all_goals
    refine acc_bind_tables (acc_modify_tables fun w h => ?_) fun _ => hlast _
    refine foldlWork_tables _ (fun _ c hw => ?_) _ _ (foldl_tables _ (fun _ _ hu => ite_tables (fenceCore_canon hu) hu) _ _ ?_)
    · split
      · exact hw
      · exact hw
    · exact { clearOnDie_canon h with ueTimes := rfl }

theorem deviceWhole_canon {x : Desc} {cores : W32} {stks : BitVec 20} : AccKeepsTables (deviceWhole x cores stks) :=
  acc_tryCatch_tables (acc_bind_tables deviceBody_canon fun _ => acc_modify_tables fun _ h => deviceClose_canon h) fun _ =>
    acc_ite_tables (acc_bind_tables (acc_modify_tables fun _ h1 => deviceClose_canon h1) fun _ => acc_throw_tables _)
    (acc_throw_tables _)

theorem deviceRun_canon {d : Nat} {ph : TestPhase} {cores : W32} {stks : BitVec 20} {w : Work} (h : TablesWf w.dev) :
    TablesWf (deviceRun d ph cores stks w).dev := by
  unfold deviceRun
  split
  · exact h
  · extract_lets v0 _ _ jp5
    have hv0 : TablesWf v0 := h
    have hjp5 : WorkKeepsTables jp5 := by
      intro _ h3
      unfold jp5
      extract_lets v4
      have hv4 : TablesWf v4.dev := onDev_tables (deviceOpen_canon h3)
      split
      · exact hv4
      · exact runBody_canon deviceWhole_canon h hv4
    clear_value jp5
    exact iteWork_tables h (iteWork_tables (iteWork_tables (runBody_canon deviceWhole_canon h h) h)
      (iteWork_tables h (iteWork_tables (beginPart_canon (fun _ h6 => hjp5 _ h6) h)
      (onDev_tables (endPart_canon (startPart_canon h))))))

theorem sensorsNow_canon {failed : BitVec 38} {v : Dev} (h : TablesWf v) : TablesWf (sensorsNow failed v) :=
  timerMark_tables _ (timerMark_tables _ (sensorsFail_canon { h with }))

end Sys2Proof.Machine
end

section
/-! The tables under the fetch of a descriptor, kernels, memory errors and rings. -/

namespace Sys2Proof.Machine

open Sys2Proof

/-! ### Plan -/

theorem slotPlace_canon {x : Desc} {i : Nat} : AccKeepsTables (slotPlace x i) :=
  acc_bind_tables acc_get_tables fun _ => placeOf_canon

theorem slotsPass_canon {x : Desc} {slots : List Nat} {test : Place → Bool} : AccKeepsTables (slotsPass x slots test) :=
  acc_bind_tables (acc_mapM_tables (fun _ => slotPlace_canon) _) fun _ => acc_pure_tables _

theorem addrPass_canon {x : Desc} {o : Nat} {test : Place → Bool} : AccKeepsTables (addrPass x o test) :=
  acc_ite_tables (acc_pure_tables _) (acc_bind_tables placeOf_canon fun _ => acc_pure_tables _)

theorem planMm_canon {x : Desc} : AccKeepsTables (planMm x) :=
  acc_ite_tables (acc_pure_tables _) (acc_bind_tables slotsPass_canon fun _ => acc_ite_tables (acc_pure_tables _)
    (acc_pure_tables _))

theorem planStat_canon {x : Desc} : AccKeepsTables (planStat x) :=
  acc_ite_tables (acc_pure_tables _) (acc_bind_tables slotsPass_canon fun _ => acc_bind_tables slotsPass_canon fun _ =>
    acc_ite_tables (acc_pure_tables _) (acc_ite_tables (acc_pure_tables _) (acc_pure_tables _)))

theorem rangePass_canon {x : Desc} {a n : Nat} {test : Place → Bool} : AccKeepsTables (rangePass x a n test) :=
  acc_bind_tables (acc_mapM_tables (fun _ => placeOf_canon) _) fun _ => acc_pure_tables _

theorem planRoot_canon {solve : Bool} {x : Desc} : AccKeepsTables (planRoot solve x) := by
  unfold planRoot
  refine acc_ite_tables (acc_pure_tables _) ?_
  split
  refine acc_bind_tables slotsPass_canon fun _ => ?_
  extract_lets jp0
  have hjp0 : ∀ a, AccKeepsTables (jp0 a) := fun _ => acc_ite_tables (acc_pure_tables _) (acc_ite_tables (acc_pure_tables _)
    (acc_pure_tables _))
  clear_value jp0
  exact acc_ite_tables (acc_bind_tables (acc_pure_tables _) fun _ => hjp0 _) (acc_bind_tables addrPass_canon fun _ =>
    acc_bind_tables (acc_mapM_tables (fun _ => rangePass_canon) _) fun _ => acc_bind_tables (acc_pure_tables _) fun _ => hjp0 _)

theorem workPass_canon {x : Desc} {n : Nat} : AccKeepsTables (workPass x n) := by
  unfold workPass
  refine acc_bind_tables placeOf_canon fun _ => ?_
  split
  · exact rangePass_canon
  · exact acc_pure_tables _

theorem planColl_canon {x : Desc} : AccKeepsTables (planColl x) := by
  unfold planColl
  refine acc_getThen_tables fun _ hw => ?_
  extract_lets v1 _
  have hv1 : TablesWf v1 := hw
  exact acc_ite_tables (acc_pure_tables _) (acc_ite_tables (acc_bind_tables workPass_canon fun _ => acc_pure_tables _)
    (acc_bind_tables (acc_pure_tables _) fun _ => acc_pure_tables _))

theorem planCopy_canon {x : Desc} : AccKeepsTables (planCopy x) := by
  unfold planCopy
  refine acc_getThen_tables fun _ hw => ?_
  extract_lets v1
  have hv1 : TablesWf v1 := hw
  exact acc_ite_tables (acc_pure_tables _) (acc_pure_tables _)

theorem planOf_canon {x : Desc} : AccKeepsTables (planOf x) := by
  unfold planOf
  split
  · exact planMm_canon
  · exact acc_ite_tables (acc_pure_tables _) (acc_pure_tables _)
  · exact acc_pure_tables _
  · exact planStat_canon
  · exact planRoot_canon
  · exact planRoot_canon
  · exact planColl_canon
  · exact planCopy_canon
  · exact acc_pure_tables _
  · exact acc_pure_tables _
  · exact acc_pure_tables _
  · refine acc_getThen_tables fun _ hw => ?_
    extract_lets v1
    have hv1 : TablesWf v1 := hw
    exact acc_pure_tables _
  · exact acc_pure_tables _
  · exact acc_pure_tables _
  · exact acc_pure_tables _

theorem takeSeq_canon {hdr : Bool} {x : Desc} {v : Dev} (h : TablesWf v) : TablesWf (takeSeq hdr x v).2 := by
  unfold takeSeq
  extract_lets
  split
  · dsimp only
    exact modGroup_canon h
  · exact h

/-! ### Kernel -/

theorem kernelStart_canon {d c : Nat} {v : Dev} (h : TablesWf v) : TablesWf (kernelStart d c v) := by
  unfold kernelStart
  split
  · exact h
  · refine ite_tables h (ite_tables (foldl_tables _ (fun _ _ h => endPart_canon h) _ _ h) ?_)
    split
    · exact stabWait_canon h
    · extract_lets v1
      have hv1 : TablesWf v1 := modDesc_tables _ _ h
      exact foldl_tables _ (fun _ _ h2 => startPart_canon (setChisel_tables _ _ (scratchSweep_canon h2))) _ _ hv1

theorem kernelAll_canon {d : Nat} {v : Dev} (h : TablesWf v) : TablesWf (kernelAll d v) :=
  foldl_tables _ (fun _ _ h => kernelStart_canon h) _ _ h

theorem openBarrier_canon {d c : Nat} {v : Dev} (h : TablesWf v) : TablesWf (openBarrier d c v) :=
  ite_tables (foldl_tables _ (fun _ _ h => retireInstr_canon (modChisel_canon h)) _ _ h) h

theorem chiselEnd_canon {i : Nat} {st : Byte} {a : W64} {code : W16} {broken : Bool} {v : Dev} (h : TablesWf v) :
    TablesWf (chiselEnd i st a code broken v) := by
  unfold chiselEnd
  extract_lets +onlyGivenNames _
  split
  extract_lets +onlyGivenNames v0 v1
  have hv0 : TablesWf v0 := stabForget_canon (modChisel_canon h)
  have hv1 : TablesWf v1 := modPart_canon hv0
  exact openBarrier_canon (endPart_canon hv1)

theorem chiselTrap_canon {i : Nat} {st : Byte} {a : W64} {w : Work} (h : TablesWf w.dev) : TablesWf (chiselTrap i st a w).dev :=
  onDev_tables (chiselEnd_canon h)

theorem chiselStep_canon {i : Nat} {body : Chisel → Desc → Nat → Nat → Acc (Option (Work → Work))} {w : Work}
    (hbody : ∀ c x word len, AccKeepsTables (body c x word len)) (hthen : ∀ c x word len, AccGives KeepsAfter (body c x word len))
    (h : TablesWf w.dev) : TablesWf (chiselStep i body w).dev := by
  unfold chiselStep
  split
  · exact h
  · next c x _ =>
    have hm : AccKeepsTables (do
        let (word, len) ← fetchInstr i x.ctx
        body c x word len) := acc_bind_tables fetchInstr_canon fun _ => hbody _ _ _ _
    dsimp only
    split
    · next f u e =>
      exact acc_bind_gives (fun _ => hthen _ _ _ _) _ _ _ e f rfl _ (snoopsUsed_tables (acc_run_tables hm e h :))
    · exact h
    · next e => exact chiselTrap_canon (snoopsUsed_tables (acc_run_tables hm e h :))
    · exact h

theorem retireWith_canon {i : Nat} {x : Desc} {rd : Nat} {val pc : W64} {x5 : Work} (h : TablesWf x5.dev) :
    TablesWf (retireWith i x rd val pc x5).dev :=
  onDev_tables (retireInstr_canon h)

theorem chiselInstr_canon {i : Nat} {w : Work} (h : TablesWf w.dev) : TablesWf (chiselInstr i w).dev := by
  refine chiselStep_canon (fun c x word len => ?_) (fun c x word len => ?_) h
  · exact acc_ite_tables (acc_pure_tables _) (acc_bind_tables execute_canon fun _ => acc_pure_tables _)
  · exact acc_ite_gives acc_none_gives (acc_bind_gives fun _ => acc_some_gives fun _ hu => retireInstr_canon hu)

theorem subBytes_canon {i ctx : Nat} {a : W64} : AccKeepsTables (subBytes i ctx a) :=
  acc_bind_tables chRead_canon fun _ => acc_bind_tables (acc_mapM_tables (fun _ => chRead_canon) _) fun _ => acc_pure_tables _

theorem subEnter_canon {i : Nat} {h : Chisel} {x : Desc} {hd : Nat} {bs : List Byte} {placed : Bool} :
    AccKeepsTables (subEnter i h x hd bs placed) := by
  unfold subEnter
  refine acc_getThen_tables fun _ hw => ?_
  extract_lets v1 _ _ jp6
  have hv1 : TablesWf v1 := hw
  have hjp6 : ∀ a, AccKeepsTables (jp6 a) := by
    intro _
    unfold jp6
    refine acc_modify_tables fun _ h2 => onDev_tables ?_
    extract_lets v3 v4 v5
    have hv3 : TablesWf v3 := modChisel_canon { h2 with }
    have hv4 : TablesWf v4 := stabForget_canon hv3
    have hv5 : TablesWf v5 := countQueues_canon (ite_tables (stabHold_canon hv4) hv4)
    exact ite_tables hv5 (abortParts_canon hv5)
  clear_value jp6
  exact acc_ite_tables (acc_bind_tables planOf_canon fun _ => hjp6 _) (acc_bind_tables (acc_pure_tables _) fun _ => hjp6 _)

theorem dlaunch_canon {i : Nat} {w : Work} (h : TablesWf w.dev) : TablesWf (dlaunch i w).dev := by
  refine chiselStep_canon (fun c x word len => acc_ite_tables (acc_pure_tables _) ?_) (fun c x word len =>
    acc_ite_gives acc_none_gives ?_) h
  · dsimp only
    split
    · exact acc_ite_tables (acc_throw_tables _) (acc_pure_tables _)
    · next hd _ =>
      have hgo : ∀ bs placed, AccKeepsTables (do
          subEnter i c x hd bs placed
          pure (some (retireWith i x (iRd word) (BitVec.ofNat 64 hd) (c.pc + 4)))) := fun _ _ =>
        acc_bind_tables subEnter_canon fun _ => acc_pure_tables _
      have hread : ∀ placed, AccKeepsTables (do
          let bs ← if placed then subBytes i x.ctx (xreg c (iRs1 word)) else pure []
          subEnter i c x hd bs placed
          pure (some (retireWith i x (iRd word) (BitVec.ofNat 64 hd) (c.pc + 4)))) := fun _ =>
        acc_ite_tables (acc_bind_tables subBytes_canon fun _ => hgo _ _) (acc_bind_tables (acc_pure_tables _) fun _ => hgo _ _)
      refine acc_bind_tables acc_get_tables fun _ => acc_ite_tables (acc_pure_tables _) (acc_ite_tables ?_ ?_)
      · exact acc_bind_tables (acc_pure_tables _) fun _ => hread _
      · exact acc_bind_tables (acc_map_tables atomicTarget_canon) fun _ => hread _
  · dsimp only
    split
    · exact acc_ite_gives acc_throw_gives (acc_some_gives fun _ hu => retireWith_canon hu)
    · next hd _ =>
      have hgo : ∀ bs placed, AccGives KeepsAfter (do
          subEnter i c x hd bs placed
          pure (some (retireWith i x (iRd word) (BitVec.ofNat 64 hd) (c.pc + 4)))) := fun _ _ =>
        acc_bind_gives fun _ => acc_some_gives fun _ hu => retireWith_canon hu
      have hread : ∀ placed, AccGives KeepsAfter (do
          let bs ← if placed then subBytes i x.ctx (xreg c (iRs1 word)) else pure []
          subEnter i c x hd bs placed
          pure (some (retireWith i x (iRd word) (BitVec.ofNat 64 hd) (c.pc + 4)))) := fun _ =>
        acc_ite_gives (acc_bind_gives fun _ => hgo _ _) (acc_bind_gives fun _ => hgo _ _)
      refine acc_bind_gives fun _ => acc_ite_gives (acc_some_gives fun _ hu => stabWait_canon hu) (acc_ite_gives ?_ ?_)
      · exact acc_bind_gives fun _ => hread _
      · exact acc_bind_gives fun _ => hread _

theorem dread_canon {i f3 : Nat} {w : Work} (h : TablesWf w.dev) : TablesWf (dread i f3 w).dev := by
  refine chiselStep_canon (fun c x word len => acc_ite_tables (acc_pure_tables _) ?_) (fun c x word len =>
    acc_ite_gives acc_none_gives ?_) h
  · dsimp only
    split
    · exact acc_pure_tables _
    · split
      · exact acc_pure_tables _
      · exact acc_ite_tables (acc_throw_tables _) (acc_pure_tables _)
  · dsimp only
    split
    · exact acc_some_gives fun _ hu => retireWith_canon hu
    · split
      · exact acc_some_gives fun _ hu => retireWith_canon (onDev_tables (modChisel_canon hu))
      · exact acc_ite_gives acc_throw_gives (acc_some_gives fun _ hu => retireWith_canon hu)

theorem cbar_canon {i : Nat} {w : Work} (h : TablesWf w.dev) : TablesWf (cbar i w).dev := by
  refine chiselStep_canon (fun c x word len => acc_ite_tables (acc_pure_tables _) (acc_pure_tables _)) (fun c x word len => ?_) h
  exact acc_ite_gives acc_none_gives (acc_some_gives fun _ hu => openBarrier_canon (modChisel_canon hu))

theorem ecall_canon {i : Nat} {w : Work} (h : TablesWf w.dev) : TablesWf (ecall i w).dev := by
  refine chiselStep_canon (fun c x word len => ?_) (fun c x word len => ?_) h
  · exact acc_ite_tables (acc_pure_tables _) (acc_ite_tables (acc_throw_tables _) (acc_pure_tables _))
  · exact acc_ite_gives acc_none_gives (acc_ite_gives acc_throw_gives (acc_some_gives fun _ hu => chiselEnd_canon hu))

theorem kernelTimeout_canon {d : Nat} {v : Dev} (h : TablesWf v) : TablesWf (kernelTimeout d v) := by
  unfold kernelTimeout
  split
  · exact h
  · exact ite_tables (foldl_tables _ (fun _ _ h => chiselEnd_canon h) _ _ h) h

theorem foldedBlocks_canon {x : Desc} {r : Requestor} : AccKeepsTables (foldedBlocks x r) := by
  unfold foldedBlocks
  extract_lets _ _ jp0
  have hjp0 : ∀ a, AccKeepsTables (jp0 a) := fun _ => acc_ite_tables (acc_pure_tables _) (acc_filterM_tables (fun _ =>
    acc_ite_tables (acc_pure_tables _) (acc_bind_tables readWords_canon fun _ => acc_pure_tables _)) _)
  clear_value jp0
  exact acc_ite_tables (acc_bind_tables (acc_pure_tables _) fun _ => hjp0 _) (acc_bind_tables readNat_canon fun _ => hjp0 _)

theorem versionCover_canon {x : Desc} {w : VerWin} {r : Requestor} : AccKeepsTables (versionCover x w r) := by
  unfold versionCover
  refine acc_getThen_tables fun _ hw => ?_
  extract_lets v1 _ _
  have hv1 : TablesWf v1 := hw
  split
  · exact acc_pure_tables _
  · exact acc_pure_tables _
  · exact acc_pure_tables _
  · exact acc_ite_tables (acc_pure_tables _) (acc_bind_tables foldedBlocks_canon fun _ => acc_pure_tables _)
  · exact acc_ite_tables (acc_pure_tables _) (acc_bind_tables (acc_filterM_tables (fun _ =>
      acc_bind_tables readBytes_canon fun _ => acc_pure_tables _) _) fun _ => acc_pure_tables _)
  · exact acc_ite_tables (acc_pure_tables _) (acc_bind_tables (acc_filterM_tables (fun _ =>
      acc_bind_tables readBytes_canon fun _ => acc_pure_tables _) _) fun _ => acc_pure_tables _)
  · exact acc_pure_tables _
  · exact acc_pure_tables _
  · exact acc_pure_tables _

theorem commitVersion_canon {x : Desc} : AccKeepsTables (commitVersion x) := by
  unfold commitVersion
  split
  · exact acc_pure_tables _
  · refine acc_ite_tables (acc_pure_tables _) (acc_bind_tables reqOf_canon fun _ => ?_)
    split
    · exact acc_pure_tables _
    · exact acc_bind_tables readNat_canon fun _ => acc_bind_tables readNat_canon fun _ =>
        acc_bind_tables versionCover_canon fun _ => setTags_canon

theorem completeEffects_canon {x : Desc} : AccKeepsTables (completeEffects x) :=
  acc_ite_tables (acc_bind_tables commitVersion_canon fun _ => acc_ite_tables addEpoch_canon (acc_pure_tables _))
    (acc_pure_tables _)

theorem countDone_canon {x : Desc} {v : Dev} (h : TablesWf v) : TablesWf (countDone x v) := by
  unfold countDone
  extract_lets v0
  have hv0 : TablesWf v0 := ctrAdd_tables _ _ _ h
  exact ite_tables (ctrAdd_tables _ _ _ hv0) hv0

theorem dropDesc_canon {d : Nat} {v : Dev} (h : TablesWf v) : TablesWf (dropDesc d v) := { h with }

theorem subReport_canon {x : Desc} {v : Dev} (h : TablesWf v) : TablesWf (subReport x v) := by
  unfold subReport
  extract_lets
  split
  · extract_lets v0 _
    have hv0 : TablesWf v0 := modDesc_tables _ _ h
    exact ite_tables (modChisel_canon hv0) (modPart_canon hv0)
  · exact h

theorem subComplete_canon {d : Nat} {w : Work} (h : TablesWf w.dev) : TablesWf (subComplete d w).dev := by
  unfold subComplete
  split
  · exact h
  · refine iteWork_tables h ?_
    extract_lets jp1
    have hjp1 : WorkKeepsTables jp1 := fun _ h => onDev_tables (dropDesc_canon (subReport_canon
      (countDone_canon h)))
    clear_value jp1
    exact runAcc_canon (ueFails_canon (fun _ h2 => failCtxBy_canon h2) completeEffects_canon) (fun _ _ h3 =>
      hjp1 _ h3) (fun _ _ _ h4 => hjp1 _ h4) h

/-! ### Faults -/

theorem partBody_canon {x : Desc} {q : Part} {p : Nat} : AccKeepsTables (partBody x q p) := by
  unfold partBody
  split
  · exact vopBody_canon
  · exact vopBody_canon
  · exact acc_ite_tables foldBody_canon normBody_canon
  · exact acc_ite_tables applyBody_canon rootBody_canon
  · exact rootBody_canon
  · exact copyLocal_canon
  · exact castDest_canon
  · exact acc_ite_tables printBody_canon (acc_ite_tables pointBody_canon lossBody_canon)
  · exact testReport_canon
  · exact acc_pure_tables _

theorem partFail_canon {x : Desc} {q : Part} {p : Nat} {st : Byte} {a : W64} {w : Work} (h : TablesWf w.dev) :
    TablesWf (partFail x q p st a w).dev :=
  iteWork_tables (onDev_tables (failEng_canon (freeDest_canon h))) (iteWork_tables (iteWork_tables (onDev_tables
    (chiselEnd_canon h)) (onDev_tables (endPart_canon h))) (iteWork_tables (collEndParts_canon h)
    (iteWork_tables (deviceClose_canon (onDev_tables (endPart_canon h)))
    (onDev_tables (endPart_canon (freeDest_canon h))))))

theorem memoryUe_canon {d p : Nat} {at_ : WordAt} {r : ReadResult} {w : Work} (h : TablesWf w.dev) :
    TablesWf (memoryUe d p at_ r w).dev := by
  unfold memoryUe
  split
  · exact h
  · split
    · exact h
    · split
      next u _ e =>
        have hu : TablesWf u := fst_tables (readFound_canon h) e
        exact iteWork_tables hu (partFail_canon (onDev_tables (meetUe_canon hu)))

theorem partialWriteUe_canon {d p : Nat} {at_ : WordAt} {w : Work} (h : TablesWf w.dev) :
    TablesWf (partialWriteUe d p at_ w).dev := by
  unfold partialWriteUe
  split
  · exact h
  · split
    · exact h
    · exact iteWork_tables (partFail_canon (onDev_tables (meetUe_canon h))) h

theorem atsAnswer_canon {d p : Nat} {pasid : BitVec 20} {addr : Nat} {va : W64} {ans : AtsAnswer} {w : Work} (h : TablesWf w.dev) :
    TablesWf (atsAnswer d p pasid addr va ans w).dev := by
  unfold atsAnswer
  refine iteWork_tables h ?_
  extract_lets v0 v1
  have hv0 : TablesWf v0.dev := onDev_tables (emit_canon h)
  have hv1 : TablesWf v1.dev := by
    unfold v1
    split
    · exact partFail_canon hv0
    · exact onDev_tables (atcAdd_canon hv0)
  split
  · exact iteWork_tables (onDev_tables (atcAdd_canon hv0)) hv1
  · exact hv1
  · exact hv1

theorem hostReadData_canon {d p addr : Nat} {va : W64} {bs : List Byte} {r : ReadOutcome} {w : Work} (h : TablesWf w.dev) :
    TablesWf (hostReadData d p addr va bs r w).dev := by
  unfold hostReadData
  extract_lets v0
  have hv0 : TablesWf v0.dev := by
    unfold v0
    split
    · exact partFail_canon h
    · exact h
  refine iteWork_tables h ?_
  split
  · exact pokes_canon h
  · exact hv0
  · exact hv0

/-! ### Rings -/

theorem dropTlb_canon {x : Nat} {v : Dev} (h : TablesWf v) : TablesWf (dropTlb x v) := { h with }

theorem ctxOn_canon {x : Nat} {v : Dev} (h : TablesWf v) : TablesWf (ctxOn x v) :=
  ite_tables h (modCtx_canon (dropTlb_canon h))

theorem ctxOff_canon {x : Nat} {v : Dev} (h : TablesWf v) : TablesWf (ctxOff x v) := by
  unfold ctxOff
  refine ite_tables h ?_
  extract_lets v1
  have hv1 : TablesWf v1 := foldl_tables _ (fun _ _ h => goneNotices_canon h) _ _ h
  exact releaseCtxBanks_canon (modCtx_canon hv1)

theorem ctxCfgWrite_canon {x : Nat} {b : Bar} {v : Dev} (h : TablesWf v) : TablesWf (ctxCfgWrite x b v) := by
  unfold ctxCfgWrite
  refine ite_tables (ite_tables (ctxOff_canon h) h) ?_
  extract_lets _ v0
  have hv0 : TablesWf v0 := setCtx_tables _ _ h
  exact ite_tables (ctxOn_canon hv0) hv0

theorem ctxWrite_canon {x g : Nat} {b : Bar} {v : Dev} (h : TablesWf v) : TablesWf (ctxWrite x g b v) :=
  ite_tables (ctxCfgWrite_canon h) (ite_tables h (ite_tables (setCtx_tables _ _ h) (ite_tables (setCtx_tables _ _ h)
    (ite_tables (setCtx_tables _ _ h) (ite_tables (setCtx_tables _ _ h) (ite_tables (setCtx_tables _ _ h)
    (ite_tables (setCtx_tables _ _ h) h)))))))

theorem invalWrite_canon {b : Bar} {v : Dev} (h : TablesWf v) : TablesWf (invalWrite b v) := ite_tables h { h with }
theorem invalDone_canon {v : Dev} (h : TablesWf v) : TablesWf (invalDone v) := ite_tables (dropTlb_canon { h with }) h

theorem ringError_canon {r err : Nat} {v : Dev} (h : TablesWf v) : TablesWf (ringError r err v) :=
  ite_tables (stopRing_canon h) h

theorem takeSlot_canon {r : Nat} {line : BitVec 512} {v : Dev} (h : TablesWf v) : TablesWf (takeSlot r line v) :=
  ite_tables (ringError_canon h) (setRing_tables _ _ h)

theorem takeLine_canon {i : Nat} {line : BitVec 512} {v : Dev} (h : TablesWf v) : TablesWf (takeLine i line v) :=
  foldl_tables _ (fun _ _ h => takeSlot_canon h) _ _ h

theorem ringOn_canon {r : Nat} {v : Dev} (h : TablesWf v) : TablesWf (ringOn r v) := by
  unfold ringOn
  refine ite_tables (setRing_tables _ _ h) ?_
  extract_lets v0 v1 _
  have hv0 : TablesWf v0 := setRing_tables _ _ h
  have hv1 : TablesWf v1 := { hv0 with }
  exact ite_tables (takeSlot_canon hv1) hv1

theorem ringOff_canon {r : Nat} {v : Dev} (h : TablesWf v) : TablesWf (ringOff r v) :=
  abortParts_canon (stabForget_canon (modRing_canon h))

theorem negEta_canon {ctx : Nat} {bs : List Byte} {step : Nat} : AccKeepsTables (negEta ctx bs step) :=
  acc_bind_tables readNat_canon fun _ => acc_pure_tables _

theorem newPass_canon {r : Nat} {v : Dev} (h : TablesWf v) : TablesWf (newPass r v) := modRing_canon h
theorem replayFail_canon {r : Nat} {st : Byte} {v : Dev} (h : TablesWf v) : TablesWf (replayFail r st v) := failCtx_canon h

theorem replayStart_canon {r : Nat} {w : Work} (h : TablesWf w.dev) : TablesWf (replayStart r w).dev := by
  unfold replayStart
  refine iteWork_tables h (runAcc_canon ?_ (fun _ _ h2 => h2) (fun _ _ _ h3 => onDev_tables (replayFail_canon h3)) h)
  refine acc_bind_tables readBytes_canon fun _ => acc_ite_tables ?_ (acc_pure_tables _)
  extract_lets jp1
  have hjp1 : ∀ a, AccKeepsTables (jp1 a) := fun _ => acc_bind_tables negEta_canon fun _ =>
    acc_bind_tables writeNat_canon fun _ => acc_bind_tables writeNat_canon fun _ => acc_modify_tables fun _ h =>
    onDev_tables (newPass_canon h)
  clear_value jp1
  exact acc_ite_tables (acc_bind_tables (acc_throw_tables _) fun _ => hjp1 ()) (hjp1 ())

theorem boundaryRecord_canon {r ctx : Nat} {a : W64} : AccKeepsTables (boundaryRecord r ctx a) := by
  unfold boundaryRecord
  refine acc_bind_tables acc_get_tables fun _ => ?_
  extract_lets +onlyGivenNames -underBinder _
  refine acc_bind_tables readBytes_canon fun _ => ?_
  extract_lets +onlyGivenNames -underBinder jp1
  have hjp1 : ∀ a, AccKeepsTables (jp1 a) := by
    intro _
    unfold jp1
    extract_lets +onlyGivenNames -underBinder _
    split
    exact acc_bind_tables negEta_canon fun _ => acc_bind_tables writeBytes_canon fun _ =>
      acc_bind_tables writeBytes_canon fun _ => acc_pure_tables _
  clear_value jp1
  exact acc_ite_tables (acc_bind_tables (acc_throw_tables _) fun _ => hjp1 ()) (hjp1 ())

theorem boundaryNext_canon {r ctx : Nat} {res : Nat × Nat × Bool} {w : Work} (h : TablesWf w.dev) :
    TablesWf (boundaryNext r ctx res w).dev := by
  unfold boundaryNext
  split
  extract_lets v0 v1
  have hv0 : TablesWf v0.dev := onDev_tables (ctrAdd_tables _ _ _ h)
  have hv1 : TablesWf v1.dev := iteWork_tables (mirrorTake_canon hv0) hv0
  exact iteWork_tables (iteWork_tables (onDev_tables (modRing_canon hv1)) (onDev_tables (newPass_canon hv1)))
    (onDev_tables (raise_canon (modRing_canon (freeNext_canon hv1))))

theorem releaseHeld_canon {r : Nat} {w : Work} (h : TablesWf w.dev) : TablesWf (releaseHeld r w).dev :=
  iteWork_tables h (runAcc_canon readStep_canon (fun _ _ h => iteWork_tables h (onDev_tables (newPass_canon h)))
    (fun _ _ _ h1 => onDev_tables (replayFail_canon h1)) h)

theorem releaseAll_canon {w : Work} (h : TablesWf w.dev) : TablesWf (releaseAll w).dev :=
  foldlWork_tables _ (fun _ _ h => releaseHeld_canon h) _ _ h

theorem stepBoundary_canon {r : Nat} {w : Work} (h : TablesWf w.dev) : TablesWf (stepBoundary r w).dev :=
  iteWork_tables (releaseHeld_canon h) (iteWork_tables h (runAcc_canon boundaryRecord_canon (fun _ _ h =>
    boundaryNext_canon h) (fun _ _ _ h1 => onDev_tables (replayFail_canon h1)) h))

theorem ringCtrl_canon {r : Nat} {en start : Bool} {w : Work} (h : TablesWf w.dev) : TablesWf (ringCtrl r en start w).dev := by
  unfold ringCtrl
  extract_lets _ v0
  have hv0 : TablesWf v0.dev := iteWork_tables (onDev_tables (ringOn_canon h))
    (iteWork_tables (onDev_tables (ringOff_canon h)) h)
  exact iteWork_tables (replayStart_canon hv0) hv0

theorem ringWrite_canon {r g : Nat} {b : Bar} {w : Work} (h : TablesWf w.dev) : TablesWf (ringWrite r g b w).dev :=
  iteWork_tables (iteWork_tables (ringCtrl_canon h) h) (iteWork_tables h (iteWork_tables (onDev_tables (setRing_tables _ _ h))
    (iteWork_tables (onDev_tables (setRing_tables _ _ h)) (onDev_tables (setRing_tables _ _ h)))))

theorem acquireLine_canon {i : Nat} {v : Dev} (h : TablesWf v) : TablesWf (acquireLine i v) :=
  ite_tables (ite_tables (emit_canon h) h) { h with timers := tabPut_wf _ _ _ _ h.timers }

theorem dbWrite_canon {i : Nat} {b : Bar} {v : Dev} (h : TablesWf v) : TablesWf (dbWrite i b v) := by
  unfold dbWrite
  refine ite_tables ?_ ?_
  · extract_lets v0
    have hv0 : TablesWf v0 := setDb_tables _ _ h
    exact ite_tables (acquireLine_canon hv0) hv0
  · refine ite_tables h (ite_tables h ?_)
    extract_lets v1
    have hv1 : TablesWf v1 := lineReread_canon (setDb_tables _ _ h)
    exact ite_tables (emit_canon hv1) hv1

theorem doorbellSnoop_canon {i : Nat} {v : Dev} (h : TablesWf v) : TablesWf (doorbellSnoop i v) :=
  ite_tables (ctrAdd_tables _ _ _ (emit_canon (emit_canon (setDb_tables _ _ h)))) h

theorem doorbellData_canon {i : Nat} {line : BitVec 512} {ok : Bool} {v : Dev} (h : TablesWf v) :
    TablesWf (doorbellData i line ok v) :=
  ite_tables h (ite_tables (lineReread_canon (takeLine_canon (setDb_tables _ _ h))) (setDb_tables _ _ h))

theorem doorbellPoll_canon {i : Nat} {line : BitVec 512} {ok : Bool} {v : Dev} (h : TablesWf v) :
    TablesWf (doorbellPoll i line ok v) := by
  unfold doorbellPoll
  refine ite_tables h ?_
  extract_lets v0 v1
  have hv0 : TablesWf v0 := ctrAdd_tables _ _ _ (emit_canon (timerMark_tables _ h))
  have hv1 : TablesWf v1 := ite_tables (lineReread_canon (takeLine_canon hv0)) hv0
  exact ite_tables (emit_canon hv1) hv1

theorem ringUnit_canon {x : Ring} {i : Nat} : AccKeepsTables (ringUnit x i) :=
  acc_bind_tables acc_get_tables fun _ => acc_bind_tables hostAsks_canon fun _ => readBytes_canon

theorem parkFetch_canon {x : Desc} {v : Dev} (h : TablesWf v) : TablesWf (parkFetch x v) := ite_tables h (parkLeave_canon h)

theorem stage_canon {r : Nat} : AccKeepsTables (stage r) := by
  unfold stage
  refine acc_getThen_tables fun _ hw => ?_
  extract_lets +onlyGivenNames -underBinder v1 _ _ _ jp9
  have hv1 : TablesWf v1 := hw
  have hjp9 : ∀ a, AccKeepsTables (jp9 a) := by
    intro _
    unfold jp9
    extract_lets +onlyGivenNames -underBinder _
    refine acc_bind_tables ringUnit_canon fun _ => ?_
    extract_lets +onlyGivenNames -underBinder _ jp8
    have hjp8 : ∀ a, AccKeepsTables (jp8 a) := by
      intro _
      unfold jp8
      refine acc_bind_tables (acc_mapM_tables (fun _ => ringUnit_canon) _) fun _ => ?_
      extract_lets +onlyGivenNames -underBinder _
      refine acc_bind_tables readStep_canon fun _ => ?_
      extract_lets +onlyGivenNames -underBinder _ _ _ jp7
      have hjp7 : ∀ a, AccKeepsTables (jp7 a) := by
        intro _
        unfold jp7
        extract_lets +onlyGivenNames -underBinder _ _ jp6
        have hjp6 : ∀ a, AccKeepsTables (jp6 a) := by
          intro _
          unfold jp6
          refine acc_modify_tables fun _ h2 => onDev_tables ?_
          split
          next _ u3 e3 =>
            extract_lets +onlyGivenNames -underBinder _ _ v4 v5
            have hv4 : TablesWf v4 := modRing_canon ((snd_tables (takeSeq_canon (stabPass_canon h2)) e3))
            have hv5 : TablesWf v5 := countQueues_canon (parkFetch_canon { hv4 with })
            exact ite_tables hv5 (abortParts_canon hv5)
        clear_value jp6
        exact acc_ite_tables (acc_bind_tables (acc_throw_tables _) fun _ => hjp6 ()) (hjp6 ())
      clear_value jp7
      exact acc_ite_tables (acc_bind_tables planOf_canon fun _ => hjp7 _) (acc_bind_tables (acc_pure_tables _) fun _ => hjp7 _)
    clear_value jp8
    exact acc_ite_tables (acc_bind_tables (acc_throw_tables _) fun _ => hjp8 ()) (hjp8 ())
  clear_value jp9
  exact acc_ite_tables (acc_bind_tables (acc_throw_tables _) fun _ => hjp9 ()) (hjp9 ())

theorem fetchFail_canon {r : Nat} {st : Byte} {v : Dev} (h : TablesWf v) : TablesWf (fetchFail r st v) := by
  unfold fetchFail
  extract_lets v0
  have hv0 : TablesWf v0 := ringError_canon h
  exact ite_tables (failCtx_canon (freeNext_canon hv0)) hv0

theorem descriptorFetch_canon {r : Nat} {w : Work} (h : TablesWf w.dev) : TablesWf (descriptorFetch r w).dev :=
  iteWork_tables h (runAccOr_canon stage_canon (fun _ _ h => h) (fun _ _ _ h1 => onDev_tables (fetchFail_canon h1))
    (fun _ h2 => iteWork_tables (onDev_tables (stabWait_canon h2)) h2) h)

theorem replayPart_canon {x : Desc} {st : Byte} {v : Dev} (h : TablesWf v) : TablesWf (replayPart x st v) :=
  ite_tables (failCtxBy_canon h) h

theorem recordPart_canon {x : Desc} {p : Nat} {st : Byte} {v : Dev} (h : TablesWf v) : TablesWf (recordPart x p st v) :=
  replayPart_canon (traceEnd_canon (modPart_canon h))

theorem partComplete_canon {d p : Nat} {w : Work} (h : TablesWf w.dev) : TablesWf (partComplete d p w).dev := by
  unfold partComplete
  split
  · exact h
  · split
    · exact h
    · refine iteWork_tables h ?_
      extract_lets v0
      have hv0 : TablesWf v0.dev := iteWork_tables (freeDest_canon h) h
      exact onDev_tables (recordPart_canon hv0)

theorem attempt_canon {x : Desc} {m : Acc Unit} (hm : AccKeepsTables m) : AccKeepsTables (attempt x m) := by
  unfold attempt
  refine acc_tryCatch_tables (acc_bind_tables (ueFails_canon (fun _ h => failCtxBy_canon h) hm) fun _ => acc_pure_tables _)
    fun _ => ?_
  split
  · exact acc_throw_tables _
  · exact acc_pure_tables _

theorem raiseCmpl_canon {x : Desc} {v : Dev} (h : TablesWf v) : TablesWf (raiseCmpl x v) := ite_tables (raise_canon h) h
theorem ringDone_canon {x : Desc} {v : Dev} (h : TablesWf v) : TablesWf (ringDone x v) := ite_tables h (modRing_canon h)

theorem completeBody_canon {x : Desc} : AccKeepsTables (completeBody x) := by
  unfold completeBody
  refine acc_bind_tables (attempt_canon completeEffects_canon) fun _ => ?_
  extract_lets +onlyGivenNames jp1
  have hjp1 : ∀ a, AccKeepsTables (jp1 a) := fun _ => acc_modify_tables fun _ h =>
    onDev_tables (dropDesc_canon (countDone_canon (ringDone_canon h)))
  clear_value jp1
  refine acc_ite_tables ?_ (hjp1 ())
  refine acc_bind_tables acc_get_tables fun _ => ?_
  extract_lets +onlyGivenNames jp5
  have hjp5 : ∀ a, AccKeepsTables (jp5 a) := fun _ => acc_bind_tables (attempt_canon writeRecord_canon) fun _ =>
    acc_bind_tables (acc_modify_tables fun _ h4 => onDev_tables (iteApp_tables (raiseCmpl_canon h4) (ringError_canon h4)))
    fun _ => hjp1 ()
  clear_value jp5
  exact acc_ite_tables (acc_bind_tables (acc_throw_tables _) fun _ => hjp5 ()) (hjp5 ())

theorem descriptorComplete_canon {d : Nat} {w : Work} (h : TablesWf w.dev) : TablesWf (descriptorComplete d w).dev := by
  unfold descriptorComplete
  split
  · exact h
  · exact iteWork_tables h (runAcc_canon completeBody_canon (fun _ _ h => h) (fun _ _ _ h1 => h1) h)

theorem fence_canon {d : Nat} {w : Work} (h : TablesWf w.dev) : TablesWf (fence d w).dev := by
  unfold fence
  split
  · exact iteWork_tables (runPart_canon (acc_pure_tables _) h) h
  · exact h

theorem signal_canon {d : Nat} {w : Work} (h : TablesWf w.dev) : TablesWf (signal d w).dev := by
  unfold signal
  split
  · exact iteWork_tables (runPart_canon addEpoch_canon h) h
  · exact h

theorem waitOver_canon {r : Nat} {v : Dev} (h : TablesWf v) : TablesWf (waitOver r v) := modRing_canon h

theorem waitRun_canon {d : Nat} {w : Work} (h : TablesWf w.dev) : TablesWf (waitRun d w).dev := by
  unfold waitRun
  split
  · refine runPart_canon ?_ h
    refine acc_bind_tables readEpoch_canon fun _ => ?_
    extract_lets jp1
    have hjp1 : ∀ a, AccKeepsTables (jp1 a) := fun _ => acc_modify_tables fun _ h => onDev_tables (waitOver_canon h)
    clear_value jp1
    exact acc_ite_tables (acc_bind_tables (acc_throw_tables _) fun _ => hjp1 ()) (hjp1 ())
  · exact h

theorem timedOut_canon {x : Desc} {v : Dev} (h : TablesWf v) : TablesWf (timedOut x v) :=
  ringError_canon (modRing_canon (endPart_canon (startPart_canon h)))

theorem waitUnread_canon {x : Desc} {st : Byte} {a : W64} {v : Dev} (h : TablesWf v) : TablesWf (waitUnread x st a v) :=
  ite_tables (endPart_canon (startPart_canon h)) (timedOut_canon h)

theorem waitTimeout_canon {d : Nat} {w : Work} (h : TablesWf w.dev) : TablesWf (waitTimeout d w).dev := by
  unfold waitTimeout
  split
  · exact iteWork_tables (runAcc_canon readEpoch_canon (fun _ _ h => iteWork_tables (onDev_tables (timedOut_canon h))
      h) (fun _ _ _ h1 => onDev_tables (waitUnread_canon h1)) h) h
  · exact h

theorem abortNotice_canon {gno : Nat} {w : Work} (h : TablesWf w.dev) : TablesWf (abortNotice gno w).dev := by
  unfold abortNotice
  refine iteWork_tables h ?_
  extract_lets _ v1
  have hv1 : TablesWf v1.dev := foldlWork_tables _ (fun _ _ h => remoteFail_canon h) _ _ h
  exact onDev_tables (failCtx_canon hv1)

theorem setAttn_canon {f : Attn → Attn} {v : Dev} (h : TablesWf v) : TablesWf (setAttn f v) := { h with }
theorem heldHigh_canon {v : Dev} (h : TablesWf v) : TablesWf (heldHigh v) := ctrHigh_tables _ _ _ h
theorem attnFail_canon {v : Dev} (h : TablesWf v) : TablesWf (attnFail v) := heldHigh_canon (setAttn_canon h)

theorem attnPut_canon {a : W64} {bs : List Byte} : AccKeepsTables (attnPut a bs) := by
  unfold attnPut
  refine acc_bind_tables translate_canon fun _ => ?_
  extract_lets jp0
  have hjp0 : ∀ a, AccKeepsTables (jp0 a) := fun _ => acc_bind_tables acc_get_tables fun _ =>
    acc_bind_tables hostAsks_canon fun _ => writeBytes_canon
  clear_value jp0
  split
  · refine acc_getThen_tables fun _ hw1 => ?_
    extract_lets v2
    have hv2 : TablesWf v2 := hw1
    exact acc_bind_tables (acc_modify_tables fun _ h3 => onDev_tables (freeNext_canon h3)) fun _ =>
      acc_ite_tables (acc_bind_tables (acc_throw_tables _) fun _ => hjp0 ()) (hjp0 ())
  · exact hjp0 ()

theorem attnRecordWrite_canon {w : Work} (h : TablesWf w.dev) : TablesWf (attnRecordWrite w).dev := by
  unfold attnRecordWrite
  extract_lets
  split
  · exact h
  · exact iteWork_tables h (runAcc_canon (ueFailsOpen_canon attnPut_canon) (fun _ _ h =>
      onDev_tables (setAttn_canon h)) (fun _ _ _ h1 => onDev_tables (attnFail_canon h1)) h)

theorem attnCfg_canon {x : W64} {v : Dev} (h : TablesWf v) : TablesWf (attnCfg x v) := by
  unfold attnCfg
  extract_lets v0 _
  have hv0 : TablesWf v0 := setAttn_canon h
  exact ite_tables (ite_tables (setAttn_canon hv0) hv0) (heldHigh_canon (ite_tables hv0 (setAttn_canon hv0)))

theorem attnHead_canon {x : W32} {v : Dev} (h : TablesWf v) : TablesWf (attnHead x v) :=
  heldHigh_canon (setAttn_canon h)

theorem attnStatus_canon {x : W32} {v : Dev} (h : TablesWf v) : TablesWf (attnStatus x v) := setAttn_canon h

theorem attnWrite_canon {g : Nat} {b : Bar} {v : Dev} (h : TablesWf v) : TablesWf (attnWrite g b v) := by
  unfold attnWrite
  refine ite_tables (ite_tables (setAttn_canon h) h) (ite_tables (setAttn_canon h) ?_)
  refine ite_tables ?_ (ite_tables (ite_tables (attnStatus_canon h) h) (invalWrite_canon h))
  extract_lets v0
  have hv0 : TablesWf v0 := ite_tables (attnCfg_canon h) h
  exact ite_tables (attnHead_canon hv0) hv0

theorem pulseStart_canon {v : Dev} (h : TablesWf v) : TablesWf (pulseStart v) := ite_tables (setAttn_canon h) h
theorem pulseEnd_canon {v : Dev} (h : TablesWf v) : TablesWf (pulseEnd v) := ite_tables (setAttn_canon h) h

theorem railsOff_canon {v : Dev} (h : TablesWf v) : TablesWf (railsOff v) := by
  unfold railsOff
  extract_lets v0
  have hv0 : TablesWf v0 := linkReset_canon (stopPorts_canon h)
  exact { hv0 with rings := by dsimp only; exact tabMap_wf _ _ _ hv0.rings, engines := rfl, chisels := rfl }

theorem attnFlush_canon {w : Work} (h : TablesWf w.dev) : TablesWf (attnFlush w).dev :=
  foldlWork_tables _ (fun _ _ h => attnRecordWrite_canon h) _ _ h

theorem thermalTrip_canon {src : TripSource} {w : Work} (h : TablesWf w.dev) : TablesWf (thermalTrip src w).dev := by
  unfold thermalTrip
  extract_lets +onlyGivenNames v0
  have hv0 : TablesWf v0 := h
  refine iteWork_tables h ?_
  extract_lets +onlyGivenNames v1
  have hv1 : TablesWf v1.dev := by
    unfold v1
    split
    · exact iteWork_tables h (attnFlush_canon (onDev_tables (raiseThermal_canon h)))
    · exact h
  exact railsOff_canon hv1

end Sys2Proof.Machine
end

section
/-! The tables under moulds, the fabric and the registers. -/

namespace Sys2Proof.Machine

open Sys2Proof

/-! ### Moulds -/

theorem setMould_canon {f : Mould → Mould} {v : Dev} (h : TablesWf v) : TablesWf (setMould f v) := { h with }

theorem roleWrite_canon {x : BitVec 3} {v : Dev} (h : TablesWf v) : TablesWf (roleWrite x v) :=
  ite_tables h (ownChange_canon (setMould_canon h))

theorem sendPairing_canon {q : Pair} {refuse : Bool} {v : Dev} (h : TablesWf v) : TablesWf (sendPairing q refuse v) :=
  getD_tables (sendMsg_canon h) h

theorem refuseOther_canon {k : Nat} {g : Byte} {node : BitVec 10} {v : Dev} (h : TablesWf v) :
    TablesWf (refuseOther k g node v) := by
  unfold refuseOther
  refine ite_tables h ?_
  extract_lets v0
  have hv0 : TablesWf v0 := ite_tables (setPair_tables _ _ h) h
  exact sendPairing_canon hv0

theorem pairingOther_canon {g : Byte} {node : BitVec 10} {v : Dev} (h : TablesWf v) : TablesWf (pairingOther g node v) := by
  unfold pairingOther
  refine ite_tables h ?_
  split
  · exact refuseOther_canon h
  · exact setMould_canon h

theorem answerAsked_canon {k : Nat} {v : Dev} (h : TablesWf v) : TablesWf (answerAsked k v) :=
  foldl_tables _ (fun _ _ h => refuseOther_canon h) _ _ (setMould_canon h)

theorem pairOn_canon {k : Nat} {v : Dev} (h : TablesWf v) : TablesWf (pairOn k v) := by
  unfold pairOn
  refine ite_tables ?_ (answerAsked_canon (sendPairing_canon (setPair_tables _ _ h)))
  extract_lets v0
  have hv0 : TablesWf v0 := setPair_tables _ _ h
  exact ite_tables (sendPairing_canon hv0) hv0

theorem pairOff_canon {k : Nat} {v : Dev} (h : TablesWf v) : TablesWf (pairOff k v) := setPair_tables _ _ h

theorem pairingFrame_canon {k : Nat} {m : FabMsg} {v : Dev} (h : TablesWf v) : TablesWf (pairingFrame k m v) := by
  unfold pairingFrame
  split
  · exact ite_tables (ite_tables h (pairingOther_canon h)) (ite_tables (ite_tables h (sendPairing_canon h))
      (ite_tables h (ite_tables (setPair_tables _ _ h) (ite_tables (sendPairing_canon (setPair_tables _ _ h))
      (sendPairing_canon (setPair_tables _ _ h))))))
  · exact h

theorem pairingHeard_canon {m : FabMsg} {v : Dev} (h : TablesWf v) : TablesWf (pairingHeard m v) := by
  unfold pairingHeard
  split
  · split
    · exact ite_tables h (pairingOther_canon h)
    · exact foldl_tables _ (fun _ _ h => pairingFrame_canon h) _ _ h
  · exact h

theorem breakPairs_canon {node : BitVec 10} {v : Dev} (h : TablesWf v) : TablesWf (breakPairs node v) := setMould_canon h
theorem raiseCast_canon {k : Nat} {q : Pair} {v : Dev} (h : TablesWf v) : TablesWf (raiseCast k q v) := raise_canon h

theorem persistedWrite_canon {k : Nat} {p : W32} {w : Work} (h : TablesWf w.dev) : TablesWf (persistedWrite k p w).dev :=
  iteWork_tables (releaseAll_canon (onDev_tables (ite_tables (raiseCast_canon (setPair_tables _ _ h))
    (setPair_tables _ _ h)))) (onDev_tables (setPair_tables _ _ h))

theorem pairWrite_canon {k g : Nat} {b : Bar} {w : Work} (h : TablesWf w.dev) : TablesWf (pairWrite k g b w).dev := by
  unfold pairWrite
  refine iteWork_tables (iteWork_tables h (onDev_tables (setPair_tables _ _ h))) (iteWork_tables ?_ ?_)
  · refine iteWork_tables h (iteWork_tables (iteWork_tables h (onDev_tables (pairOff_canon h))) ?_)
    extract_lets v0
    have hv0 : TablesWf v0.dev := onDev_tables (setPair_tables _ _ h)
    exact iteWork_tables (onDev_tables (pairOn_canon hv0)) (onDev_tables (pairOff_canon hv0))
  · refine iteWork_tables ?_ h
    extract_lets v1
    have hv1 : TablesWf v1.dev := iteWork_tables (onDev_tables (setPair_tables _ _ h)) h
    exact iteWork_tables (persistedWrite_canon hv1) hv1

theorem ctrlWrite_canon {x : W32} {v : Dev} (h : TablesWf v) : TablesWf (ctrlWrite x v) := setMould_canon h
theorem streamCfg_canon {x : W64} {v : Dev} (h : TablesWf v) : TablesWf (streamCfg x v) := setMould_canon h

theorem bulkWrite_canon {a : W64} {bs : List Byte} : AccKeepsTables (bulkWrite a bs) :=
  acc_bind_tables hostAsks_canon fun _ => writeBytes_canon

theorem streamWrite_canon {base : W64} {size pos : Nat} {bs : List Byte} : AccKeepsTables (streamWrite base size pos bs) :=
  acc_bind_tables bulkWrite_canon fun _ => acc_ite_tables bulkWrite_canon (acc_pure_tables _)

theorem streamForward_canon {w : Work} (h : TablesWf w.dev) : TablesWf (streamForward w).dev := by
  unfold streamForward
  extract_lets
  split
  · exact h
  · extract_lets
    refine iteWork_tables h ?_
    extract_lets
    refine runAcc_canon (acc_bind_tables (ueFailsOpen_canon (acc_bind_tables hostAsks_canon fun _ =>
      readBytes_canon)) fun _ => ueFailsOpen_canon (acc_bind_tables streamWrite_canon fun _ => bulkWrite_canon))
      (fun _ _ h => ?_) (fun _ _ _ h2 => keepUe_canon h h2) h
    refine onDev_tables ?_
    extract_lets v1
    have hv1 : TablesWf v1 := setMould_canon h
    split
    · exact setPair_tables _ _ hv1
    · exact hv1

theorem mouldWrite_canon {g : Nat} {b : Bar} {v : Dev} (h : TablesWf v) : TablesWf (mouldWrite g b v) := by
  unfold mouldWrite
  refine ite_tables ?_ (ite_tables (setMould_canon h) (ite_tables (ite_tables (streamCfg_canon h) h)
    (ite_tables (setMould_canon h) (ite_tables (setMould_canon h) h))))
  extract_lets v0
  have hv0 : TablesWf v0 := ite_tables (roleWrite_canon h) h
  exact ite_tables (ctrlWrite_canon hv0) hv0

/-! ### Fabric -/

theorem redeal_canon {p : Nat} {v : Dev} (h : TablesWf v) : TablesWf (redeal p v) := by
  unfold redeal
  extract_lets _ _ v0
  have hv0 : TablesWf v0 := { h with }
  refine foldl_tables _ (fun _ _ h1 => ?_) _ _ hv0
  split
  · exact h1
  · exact sendFrame_canon h1

theorem portDown_canon {p : Nat} {st : BitVec 3} {w : Work} (h : TablesWf w.dev) : TablesWf (portDown p st w).dev :=
  unreachableFail_canon (onDev_tables (redeal_canon (setPort_tables _ _ h)))

theorem portOn_canon {p : Nat} {v : Dev} (h : TablesWf v) : TablesWf (portOn p v) := ite_tables h (setPort_tables _ _ h)

theorem portOff_canon {p : Nat} {w : Work} (h : TablesWf w.dev) : TablesWf (portOff p w).dev :=
  onDev_tables (setPort_tables _ _ (portDown_canon h))

theorem portWrite_canon {p : Nat} {b : Bar} {w : Work} (h : TablesWf w.dev) : TablesWf (portWrite p b w).dev := by
  unfold portWrite
  refine iteWork_tables h (iteWork_tables (iteWork_tables h (portOff_canon h)) ?_)
  extract_lets v0
  have hv0 : TablesWf v0.dev := onDev_tables (setPort_tables _ _ h)
  exact iteWork_tables (onDev_tables (portOn_canon hv0)) hv0

theorem lanesTrained_canon {p : Nat} {low high : Bool} {v : Dev} (h : TablesWf v) : TablesWf (lanesTrained p low high v) := by
  unfold lanesTrained
  refine ite_tables h (ite_tables (setPort_tables _ _ h) ?_)
  extract_lets v0 _
  have hv0 : TablesWf v0 := setPort_tables _ _ h
  exact sendFrame_canon { hv0 with }

theorem raiseMembership_canon {node : BitVec 10} {old new : BitVec 3} {incarn : W32} {reason : Nat} {v : Dev} (h : TablesWf v) :
    TablesWf (raiseMembership node old new incarn reason v) :=
  ite_tables (raise_canon h) h

theorem raisePeerLost_canon {node : BitVec 10} {role : BitVec 3} {why : Nat} {incarn : W32} {v : Dev} (h : TablesWf v) :
    TablesWf (raisePeerLost node role why incarn v) :=
  raise_canon h

theorem nodeGone_canon {node : BitVec 10} {st : BitVec 3} {why : Nat} {w : Work} (h : TablesWf w.dev) :
    TablesWf (nodeGone node st why w).dev :=
  nodeLost_canon (onDev_tables (breakPairs_canon (raisePeerLost_canon (raiseMembership_canon (setMember_tables _
    _ h)))))

theorem nodeSilent_canon {node : BitVec 10} {w : Work} (h : TablesWf w.dev) : TablesWf (nodeSilent node w).dev :=
  remoteCtxs_canon h (nodeGone_canon h)

theorem newLife_canon {node : BitVec 10} {old new : W32} {v : Dev} (h : TablesWf v) : TablesWf (newLife node old new v) :=
  ite_tables h { h with }

theorem setTwin_canon {st : BitVec 3} {incarn : W32} {v : Dev} (h : TablesWf v) : TablesWf (setTwin st incarn v) := by
  unfold setTwin
  extract_lets _ v0 _ v1
  have hv0 : TablesWf v0 := newLife_canon h
  have hv1 : TablesWf v1 := { hv0 with }
  exact ite_tables hv1 (raiseMembership_canon hv1)

theorem heard_canon {node : BitVec 10} {incarn : W32} {feed : BitVec 4} {module_ : BitVec 8} {role : BitVec 3} {busy : Bool} {hops
    : BitVec 4} {v : Dev} (h : TablesWf v) :
    TablesWf (heard node incarn feed module_ role busy hops v) := by
  unfold heard
  refine ite_tables (raiseMembership_canon { h with }) ?_
  extract_lets _ v0 v1
  have hv0 : TablesWf v0 := newLife_canon (ite_tables h (breakPairs_canon h))
  have hv1 : TablesWf v1 := setMember_tables _ _ hv0
  exact ite_tables hv1 (raiseMembership_canon hv1)

theorem forwardOnce_canon {p : Nat} {hops : BitVec 4} {key : Nat × Nat} {m : FabMsg} {v : Dev} (h : TablesWf v) :
    TablesWf (forwardOnce p hops key m v) :=
  ite_tables h (floodOn_canon { h with })

theorem markHeard_canon {p : Nat} {src : BitVec 10} {v : Dev} (h : TablesWf v) : TablesWf (markHeard p src v) := by
  unfold markHeard
  refine ite_tables (ite_tables (setTwin_canon h) { h with }) ?_
  extract_lets _ v0
  have hv0 : TablesWf v0 := ite_tables h (setMember_tables _ _ h)
  exact setMember_tables _ _ hv0

theorem twinAnnounce_canon {m : FabMsg} {w : Work} (h : TablesWf w.dev) : TablesWf (twinAnnounce m w).dev := by
  unfold twinAnnounce
  split
  · exact iteWork_tables h (iteWork_tables (onDev_tables (raiseMembership_canon { h with }))
      (onDev_tables (setTwin_canon { h with })))
  · exact h
  · exact iteWork_tables (nodeLost_canon (onDev_tables (raisePeerLost_canon (setTwin_canon h)))) h
  · exact h

theorem lossHeard_canon {node : BitVec 10} {incarn : W32} {w : Work} (h : TablesWf w.dev) :
    TablesWf (lossHeard node incarn w).dev :=
  iteWork_tables (nodeSilent_canon h) h

theorem leaveHeard_canon {node : BitVec 10} {incarn : W32} {w : Work} (h : TablesWf w.dev) :
    TablesWf (leaveHeard node incarn w).dev :=
  iteWork_tables h (nodeGone_canon (iteWork_tables (onDev_tables (setMember_tables _ _ h)) h))

theorem announceHeard_canon {hops : BitVec 4} {m : FabMsg} {w : Work} (h : TablesWf w.dev) :
    TablesWf (announceHeard hops m w).dev := by
  unfold announceHeard
  split
  · exact iteWork_tables h (onDev_tables (heard_canon h))
  · exact lossHeard_canon h
  · exact leaveHeard_canon h
  · exact h

theorem announceReceived_canon {p : Nat} {hops : BitVec 4} {msg : Nat} {m : FabMsg} {w : Work} (h : TablesWf w.dev) :
    TablesWf (announceReceived p hops msg m w).dev := by
  unfold announceReceived
  extract_lets +onlyGivenNames _
  split
  · exact h
  · refine iteWork_tables h ?_
    extract_lets +onlyGivenNames _ v0
    have hv0 : TablesWf v0.dev := onDev_tables (markHeard_canon (emit_canon h))
    refine iteWork_tables hv0 ?_
    extract_lets +onlyGivenNames v2
    have hv2 : TablesWf v2.dev := by
      unfold v2
      refine onDev_tables ?_
      extract_lets +onlyGivenNames _ v1
      have hv1 : TablesWf v1 := { hv0 with }
      exact ite_tables (traceFab_canon hv1) hv1
    exact onDev_tables { iteWork_tables (twinAnnounce_canon hv2) (announceHeard_canon (onDev_tables (forwardOnce_canon
      hv2))) with }

theorem announceTimeout_canon {node : BitVec 10} {w : Work} (h : TablesWf w.dev) : TablesWf (announceTimeout node w).dev :=
  iteWork_tables (nodeSilent_canon h) h

theorem neighbourLost_canon {node : BitVec 10} {twin : Bool} {w : Work} (h : TablesWf w.dev) :
    TablesWf (neighbourLost node twin w).dev := by
  unfold neighbourLost
  extract_lets v0 _
  have hv0 : TablesWf v0 := h
  exact iteWork_tables (iteWork_tables (remoteCtxs_canon hv0 (nodeLost_canon (onDev_tables (raisePeerLost_canon
    (raiseMembership_canon { h with }))))) h) (iteWork_tables (onDev_tables (announceOn_canon (nodeSilent_canon h))) h)

theorem senderHeard_canon {p : Nat} {node : BitVec 10} {v : Dev} (h : TablesWf v) : TablesWf (senderHeard p node v) :=
  ite_tables (ite_tables { h with } h) (ite_tables h (setMember_tables _ _ h))

theorem identityHeard_canon {p msg : Nat} {i : Identity} {v : Dev} (h : TablesWf v) : TablesWf (identityHeard p msg i v) := by
  unfold identityHeard
  extract_lets v0
  have hv0 : TablesWf v0 := emit_canon h
  exact ite_tables hv0 (senderHeard_canon hv0)

theorem identityFrame_canon {p msg : Nat} {i : Identity} {v : Dev} (h : TablesWf v) : TablesWf (identityFrame p msg i v) := by
  unfold identityFrame
  extract_lets +onlyGivenNames _
  refine ite_tables h ?_
  extract_lets +onlyGivenNames v0
  have hv0 : TablesWf v0 := identityHeard_canon h
  refine ite_tables hv0 ?_
  extract_lets +onlyGivenNames _ _ v1
  have hv1 : TablesWf v1 := setPort_tables _ _ hv0
  exact ite_tables hv1 (ite_tables (setTwin_canon hv1) (ownChange_canon (newLife_canon hv1)))

theorem portRetrain_canon {p : Nat} {v : Dev} (h : TablesWf v) : TablesWf (portRetrain p v) := ite_tables (setPort_tables _ _ h) h

theorem announceSend_canon {v : Dev} (h : TablesWf v) : TablesWf (announceSend v) := by
  unfold announceSend
  refine ite_tables h ?_
  extract_lets v0
  have hv0 : TablesWf v0 := announceOn_canon h
  exact timerMark_tables _ { hv0 with }

theorem heartbeatSend_canon {p : Nat} {v : Dev} (h : TablesWf v) : TablesWf (heartbeatSend p v) := by
  unfold heartbeatSend
  refine ite_tables h ?_
  extract_lets _ _ v0 v1
  have hv0 : TablesWf v0 := { h with }
  have hv1 : TablesWf v1 := ite_tables (traceFab_canon hv0) hv0
  exact timerMark_tables _ (sendFrame_canon hv1)

theorem answerGone_canon {gno : Nat} {m : FabMsg} {v : Dev} (h : TablesWf v) : TablesWf (answerGone gno m v) := by
  unfold answerGone
  split
  · exact ite_tables h (getD_tables (sendMsg_canon h) h)
  · exact h

theorem rxGone_canon {gno seq : Nat} {src : BitVec 10} {w : Work} (h : TablesWf w.dev) : TablesWf (rxGone gno seq src w).dev := by
  unfold rxGone
  split
  · exact foldlWork_tables _ (fun _ _ h => collLoseRank_canon h) _ _ h
  · exact h

theorem deliver_canon {p : Nat} {src : BitVec 10} {m : FabMsg} {w : Work} (h : TablesWf w.dev) :
    TablesWf (deliver p src m w).dev := by
  unfold deliver
  split
  · exact rxHeader_canon (onDev_tables (answerGone_canon h))
  · exact onDev_tables (rxCredit_canon (answerGone_canon h))
  · exact rxMismatch_canon h
  · exact abortNotice_canon h
  · exact rxGone_canon h
  · exact onDev_tables (rxData_canon (answerGone_canon h))
  · exact rxCopy_canon h
  · exact rxCopy_canon h
  · exact rxCopy_canon h
  · exact rxCopy_canon h
  · exact onDev_tables (pairingHeard_canon h)
  · exact h

theorem traceArrival_canon {p : Nat} {src : BitVec 10} {msg frame : Nat} {m : FabMsg} {v : Dev} (h : TablesWf v) :
    TablesWf (traceArrival p src msg frame m v) := by
  unfold traceArrival
  split
  · exact ite_tables (traceFab_canon h) h
  · exact ite_tables (traceFab_canon h) h
  · exact h

theorem ackReceived_canon {p : Nat} {src : BitVec 10} {msg frame : Nat} {v : Dev} (h : TablesWf v) :
    TablesWf (ackReceived p src msg frame v) :=
  { h with }

theorem dataFrame_canon {p : Nat} {src : BitVec 10} {msg frame : Nat} {m : FabMsg} {w : Work} (h : TablesWf w.dev) :
    TablesWf (dataFrame p src msg frame m w).dev := by
  unfold dataFrame
  extract_lets _ v0
  have hv0 : TablesWf v0.dev := onDev_tables (emit_canon (ctrAdd_tables _ _ _ (markHeard_canon h)))
  exact iteWork_tables hv0 (deliver_canon (onDev_tables (traceArrival_canon { hv0 with })))

theorem frameReceived_canon {p : Nat} {src : BitVec 10} {msg frame : Nat} {m : FabMsg} {crcOk : Bool} {w : Work} (h : TablesWf w.dev) :
    TablesWf (frameReceived p src msg frame m crcOk w).dev := by
  unfold frameReceived
  refine iteWork_tables h ?_
  split
  · exact onDev_tables (identityFrame_canon h)
  · exact iteWork_tables (onDev_tables (ackReceived_canon (markHeard_canon h)))
      (iteWork_tables (onDev_tables (ackReceived_canon (senderHeard_canon h))) h)
  · exact iteWork_tables h (iteWork_tables (announceReceived_canon h) (dataFrame_canon h))

theorem sendAgain_canon {t : TxFrame} {v : Dev} (h : TablesWf v) : TablesWf (sendAgain t v) :=
  ite_tables (emit_canon h) (emit_canon (ctrAdd_tables _ _ _ h))

theorem ackTimeout_canon {p msg frame : Nat} {w : Work} (h : TablesWf w.dev) : TablesWf (ackTimeout p msg frame w).dev := by
  unfold ackTimeout
  split
  · exact h
  · refine iteWork_tables h (iteWork_tables (portDown_canon h) ?_)
    refine onDev_tables ?_
    extract_lets _ _ _ v0
    have hv0 : TablesWf v0 := { h with }
    exact sendAgain_canon (ctrAdd_tables _ _ _ (setPort_tables _ _ hv0))

theorem askEgress_canon {p out : Nat} {v : Dev} (h : TablesWf v) : TablesWf (askEgress p out v) := setArb_tables _ _ h

theorem frameForward_canon {p : Nat} {dest src : BitVec 10} {msg frame : Nat} {m : FabMsg} {v : Dev} (h : TablesWf v) :
    TablesWf (frameForward p dest src msg frame m v) := by
  unfold frameForward
  refine ite_tables h ?_
  extract_lets v0
  have hv0 : TablesWf v0 := markHeard_canon h
  split
  · exact hv0
  · exact emit_canon (askEgress_canon (ctrAdd_tables _ _ _ (ctrAdd_tables _ _ _ (ctrAdd_tables _ _ _ hv0))))

theorem groupRefuse_canon {gno err : Nat} {v : Dev} (h : TablesWf v) : TablesWf (groupRefuse gno err v) := modGroup_canon h

theorem groupOn_canon {gno : Nat} {w : Work} (h : TablesWf w.dev) : TablesWf (groupOn gno w).dev :=
  runAcc_canon (ueFailsOpen_canon (acc_bind_tables readBytes_canon fun _ =>
    acc_ite_tables (acc_bind_tables readBytes_canon fun _ => acc_pure_tables _) (acc_bind_tables (acc_pure_tables _) fun _ =>
    acc_pure_tables _))) (fun _ _ h => iteWork_tables (onDev_tables (groupRefuse_canon h)) (onDev_tables (setGroup_tables _ _ h)))
    (fun _ _ _ h1 => onDev_tables (groupRefuse_canon h1)) h

theorem groupOff_canon {gno : Nat} {v : Dev} (h : TablesWf v) : TablesWf (groupOff gno v) :=
  ite_tables h (modGroup_canon (goneNotices_canon h))

theorem groupWrite_canon {gno g : Nat} {b : Bar} {w : Work} (h : TablesWf w.dev) : TablesWf (groupWrite gno g b w).dev := by
  unfold groupWrite
  refine iteWork_tables (iteWork_tables h (onDev_tables (setGroup_tables _ _ h))) (iteWork_tables h ?_)
  refine iteWork_tables (iteWork_tables h (onDev_tables (groupOff_canon h))) ?_
  extract_lets v0
  have hv0 : TablesWf v0.dev := onDev_tables (setGroup_tables _ _ h)
  exact iteWork_tables (groupOn_canon hv0) hv0

theorem nodeWrite_canon {x : BitVec 10} {v : Dev} (h : TablesWf v) : TablesWf (nodeWrite x v) :=
  ite_tables h (ownChange_canon { h with })

theorem fabCtrl_canon {x : W32} {v : Dev} (h : TablesWf v) : TablesWf (fabCtrl x v) := by
  unfold fabCtrl
  extract_lets _ v0
  have hv0 : TablesWf v0 := { h with }
  exact ite_tables (sendLeave_canon hv0) hv0

theorem fabWrite_canon {b : Bar} {v : Dev} (h : TablesWf v) : TablesWf (fabWrite b v) := by
  unfold fabWrite
  extract_lets v0
  have hv0 : TablesWf v0 := ite_tables (nodeWrite_canon h) h
  exact ite_tables (fabCtrl_canon hv0) hv0

theorem routeWrite_canon {n : Nat} {b : Bar} {w : Work} (h : TablesWf w.dev) : TablesWf (routeWrite n b w).dev :=
  unreachableFail_canon (onDev_tables { h with routes := tabPut_wf _ _ _ _ h.routes })

theorem watchdogExpiry_canon {w : Work} (h : TablesWf w.dev) : TablesWf (watchdogExpiry w).dev :=
  iteWork_tables h (unreachableFail_canon (onDev_tables (watchdogRestart_canon (testsStopped_canon h))))

/-! ### Regs -/

theorem writeDev_canon {g : Nat} {b : Bar} {v : Dev} (h : TablesWf v) : TablesWf (writeDev g b v) := ite_tables { h with } h
theorem paceCtrl_canon {x : W64} {v : Dev} (h : TablesWf v) : TablesWf (paceCtrl x v) := { h with }

theorem pstateWrite_canon {x : W64} {v : Dev} (h : TablesWf v) : TablesWf (pstateWrite x v) := by
  unfold pstateWrite
  extract_lets _ v0
  have hv0 : TablesWf v0 := { h with }
  exact ite_tables (parkEnter_canon hv0) (parkLeave_canon hv0)

theorem writePace_canon {g : Nat} {b : Bar} {v : Dev} (h : TablesWf v) : TablesWf (writePace g b v) := by
  unfold writePace
  refine ite_tables ?_ ?_
  · extract_lets v1
    have hv1 : TablesWf v1 := ite_tables (paceCtrl_canon h) h
    exact ite_tables { hv1 with } hv1
  · refine ite_tables ?_ ?_
    · extract_lets v2
      have hv2 : TablesWf v2 := ite_tables { h with } h
      exact ite_tables { hv2 with } hv2
    · refine ite_tables (ite_tables { h with } h) (ite_tables (ite_tables { h with } h) ?_)
      refine ite_tables ?_ h
      extract_lets v3
      have hv3 : TablesWf v3 := ite_tables { h with } h
      exact ite_tables (pstateWrite_canon hv3) hv3

theorem writeCxl_canon {g : Nat} {b : Bar} {v : Dev} (h : TablesWf v) : TablesWf (writeCxl g b v) :=
  ite_tables (setCxl_canon h) (ite_tables (setCxl_canon h) h)

theorem writeArb_canon {g : Nat} {b : Bar} {v : Dev} (h : TablesWf v) : TablesWf (writeArb g b v) := by
  unfold writeArb
  refine ite_tables ?_ ?_
  · extract_lets v0
    have hv0 : TablesWf v0 := ite_tables (writeClass_canon h) h
    exact ite_tables (writeClass_canon hv0) hv0
  · refine ite_tables ?_ h
    extract_lets _ _ v1
    have hv1 : TablesWf v1 := ite_tables (writeQuota_canon h) h
    exact ite_tables (writeQuota_canon hv1) hv1

theorem recovAsks_canon {v : Dev} (h : TablesWf v) : TablesWf (recovAsks v) := { h with }

theorem recover_canon {img : List Byte} {readOk : Bool} {w : Work} (h : TablesWf w.dev) : TablesWf (recover img readOk w).dev :=
  iteWork_tables h (recoverWith_canon h)

theorem recovWrite_canon {x : W64} {img : Work → List Byte × Bool} {w : Work} (h : TablesWf w.dev) :
    TablesWf (recovWrite x img w).dev := by
  unfold recovWrite
  extract_lets v0
  have hv0 : TablesWf v0.dev := onDev_tables { h with }
  exact iteWork_tables (recover_canon (iteWork_tables (onDev_tables (recovAsks_canon hv0)) hv0)) hv0

theorem writeArm_canon {g : Nat} {b : Bar} {w : Work} (h : TablesWf w.dev) : TablesWf (writeArm g b w).dev :=
  iteWork_tables (onDev_tables { h with }) (iteWork_tables (recovWrite_canon h) (iteWork_tables (onDev_tables { h with }) h))

theorem compWrite_canon {o : Nat} {b : Bar} {v : Dev} (h : TablesWf v) : TablesWf (compWrite o b v) := by
  unfold compWrite
  extract_lets v0
  have hv0 : TablesWf v0 := ite_tables (setCxl_canon h) h
  exact ite_tables (setCxl_canon hv0) hv0

theorem writeGran_canon {o : Nat} {b : Bar} {w : Work} (h : TablesWf w.dev) : TablesWf (writeGran o b w).dev :=
  iteWork_tables (onDev_tables (writeDev_canon h)) (iteWork_tables (onDev_tables (writePace_canon h))
    (iteWork_tables (onDev_tables (writeCxl_canon h)) (iteWork_tables (onDev_tables (writeArb_canon h))
    (iteWork_tables h (iteWork_tables (onDev_tables (ctxWrite_canon h)) (iteWork_tables h (iteWork_tables (ringWrite_canon h)
    (iteWork_tables (onDev_tables (dbWrite_canon h)) (iteWork_tables (onDev_tables (attnWrite_canon h))
    (iteWork_tables h (iteWork_tables (onDev_tables (fabWrite_canon h)) (iteWork_tables h (iteWork_tables (portWrite_canon h)
    (iteWork_tables h (iteWork_tables (groupWrite_canon h) (iteWork_tables (routeWrite_canon h)
    (iteWork_tables h (iteWork_tables (onDev_tables (mouldWrite_canon h)) (iteWork_tables h (iteWork_tables (pairWrite_canon
    h) (iteWork_tables h (iteWork_tables (pairWrite_canon h) (iteWork_tables h (iteWork_tables (ctrWrite_canon h)
    (iteWork_tables h (iteWork_tables (onDev_tables (mirrorWrite_canon h)) (iteWork_tables h (iteWork_tables (trcWrite_canon
    h) (iteWork_tables (writeArm_canon h) (iteWork_tables (onDev_tables (compWrite_canon h)) h))))))))))))))))))))))))))))))

theorem unsupported_canon {v : Dev} (h : TablesWf v) : TablesWf (unsupported v) := emit_canon (setCxl_canon h)

theorem barWrite_canon {off : Nat} {wide : Bool} {hw : HostWrite} {w : Work} (h : TablesWf w.dev) :
    TablesWf (barWrite off wide hw w).dev :=
  iteWork_tables (onDev_tables (unsupported_canon h)) (iteWork_tables h (iteWork_tables (onDev_tables (ctrAdd_tables _ _ _ h))
    (writeGran_canon h)))

theorem decoderWrite_canon {n : Nat} {commit : Bool} {hw : HostWrite} {v : Dev} (h : TablesWf v) :
    TablesWf (decoderWrite n commit hw v) :=
  ite_tables (ctrAdd_tables _ _ _ h) (setCxl_canon h)

theorem ideModeWrite_canon {skid : Bool} {hw : HostWrite} {v : Dev} (h : TablesWf v) : TablesWf (ideModeWrite skid hw v) :=
  ite_tables (ctrAdd_tables _ _ _ h) (setCxl_canon h)

theorem hostWrite_canon {t : HostTarget} {wide : Bool} {hw : HostWrite} {w : Work} (h : TablesWf w.dev) :
    TablesWf (hostWrite t wide hw w).dev := by
  unfold hostWrite
  refine iteWork_tables h ?_
  split
  · exact barWrite_canon h
  · exact onDev_tables (decoderWrite_canon h)
  · exact onDev_tables (setCxl_canon h)
  · exact onDev_tables (ideModeWrite_canon h)

theorem unsupportedAccess_canon {off size : Nat} {v : Dev} (h : TablesWf v) : TablesWf (unsupportedAccess off size v) :=
  ite_tables (unsupported_canon h) h

theorem latchTime_canon {who : TimeReader} {v : Dev} (h : TablesWf v) : TablesWf (latchTime who v) := { h with }

theorem highWord_canon {who : TimeReader} {v : Dev} (h : TablesWf v) : TablesWf (highWord who v).2 := by
  unfold highWord
  split
  · exact { h with }
  · exact h

theorem timeRead_canon {who : TimeReader} {part : TimePart} {v : Dev} (h : TablesWf v) : TablesWf (timeRead who part v) := by
  unfold timeRead
  refine ite_tables h (ite_tables (emit_canon h) ?_)
  split
  · exact emit_canon (latchTime_canon h)
  · split
    next _ u e => exact emit_canon ((snd_tables (highWord_canon h) e))
  · exact emit_canon h

theorem i3cSet_canon {off : W32} {v : Dev} (h : TablesWf v) : TablesWf (i3cSet off v) := ite_tables h { h with }

theorem i3cGet_canon {wide : Bool} {v : Dev} (h : TablesWf v) : TablesWf (i3cGet wide v) :=
  ite_tables h (freeNext_canon (emit_canon h))

theorem jtagTake_canon {i : JtagInstr} {f : Dev → Dev} {v : Dev} (hf : KeepsTables f) (h1 : TablesWf v) :
    TablesWf (jtagTake i f v) :=
  ite_tables h1 (hf _ { h1 with })

theorem jtagBypass_canon {tdi : Bool} {v : Dev} (h : TablesWf v) : TablesWf (jtagBypass tdi v) := by
  unfold jtagBypass
  refine jtagTake_canon (fun _ hu => emit_canon ?_) h
  exact { hu with }

theorem jtagSample_canon {bits : List Bool} {v : Dev} (h : TablesWf v) : TablesWf (jtagSample bits v) :=
  jtagTake_canon (fun _ h => emit_canon { h with }) h

theorem jtagExtest_canon {v : Dev} (h : TablesWf v) : TablesWf (jtagExtest v) :=
  ite_tables (jtagTake_canon (fun _ h => emit_canon h) h) h

theorem debugByte_canon {lo hi : Nat} {w : Work} {a : Nat} {b : Byte} (h : TablesWf w.dev) :
    TablesWf (debugByte lo hi w a b).dev :=
  iteWork_tables h h

theorem debugHeal_canon {lo hi : Nat} {v : Dev} (h : TablesWf v) : TablesWf (debugHeal lo hi v) := { h with }

theorem debugGates_canon {lo n : Nat} {write : Bool} : AccKeepsTables (debugGates lo n write) :=
  acc_bind_tables (acc_forIn_tables (fun _ _ => acc_ite_tables (acc_bind_tables snoopGate_canon fun _ => acc_pure_tables _)
    (acc_pure_tables _)) _ _) fun _ => acc_pure_tables _

theorem debugRead_canon {base n : Nat} : AccKeepsTables (debugRead base n) := acc_mapM_tables (fun _ => readPhys_canon) _

theorem debugStore_canon {a : Nat} {bs : List Byte} : AccKeepsTables (debugStore a bs) := by
  unfold debugStore
  refine acc_bind_tables debugGates_canon fun _ => acc_getThen_tables fun _ hw => ?_
  extract_lets o1
  clear_value o1
  refine acc_bind_tables (acc_set_tables (onDev_tables (debugHeal_canon (foldlWork_tables _ (fun _ _ h2 =>
    debugByte_canon h2) _ _ hw)))) fun _ => ?_
  split
  · exact acc_bind_tables (acc_modify_tables fun _ h3 => onDev_tables (meetUe_canon h3)) fun _ => acc_throw_tables _
  · exact acc_pure_tables _

theorem debugMem_canon {a : Nat} {write : Bool} {moved : Nat} {body : Nat → Nat → Acc (List Byte)} {w : Work} (hbody
    : ∀ a a1, AccKeepsTables (body a a1)) (h1 : TablesWf w.dev) :
    TablesWf (debugMem a write moved body w).dev := by
  unfold debugMem
  split
  extract_lets v0
  have hv0 : TablesWf v0.dev := onDev_tables (emergencyRevoke_canon h1)
  refine iteWork_tables h1 ?_
  split
  · next _ u1 e1 => exact onDev_tables (emergencyEnd_canon (emit_canon (snoopsUsed_tables ((acc_run_tables (hbody _ _)
      e1 hv0 :)))))
  · next _ _ u2 e2 => exact onDev_tables (emergencyEnd_canon (snoopsUsed_tables ((acc_run_tables (hbody _ _) e2 hv0 :))))
  · next u3 e3 => exact h1

theorem debugReg_canon {o : Nat} {v : Dev} (h : TablesWf v) : TablesWf (debugReg o v) := by
  unfold debugReg
  refine ite_tables (freeNext_canon (emit_canon (latchTime_canon h)))
    (ite_tables ?_ (freeNext_canon (emit_canon h)))
  split
  next _ u1 e1 => exact freeNext_canon (emit_canon ((snd_tables (highWord_canon h) e1)))

theorem debugAccess_canon {t : DebugTarget} {w : Work} (h : TablesWf w.dev) : TablesWf (debugAccess t w).dev := by
  unfold debugAccess
  extract_lets v1
  have hv1 : TablesWf v1.dev := onDev_tables (jtagTake_canon (fun _ h => h) h)
  refine iteWork_tables h ?_
  split
  · exact debugMem_canon (fun _ _ => debugRead_canon) hv1
  · refine debugMem_canon (fun _ _ => ?_) hv1
    extract_lets jp2
    have hjp2 : ∀ a, AccKeepsTables (jp2 a) := fun _ => acc_bind_tables debugStore_canon fun _ => acc_pure_tables _
    clear_value jp2
    exact acc_ite_tables (acc_bind_tables (acc_throw_tables _) fun _ => hjp2 ()) (hjp2 ())
  · exact iteWork_tables (onDev_tables (debugReg_canon hv1)) hv1
  · exact iteWork_tables (writeGran_canon hv1) hv1

end Sys2Proof.Machine
end

section
/-! The tables under every step: each command runs an operation of the sections above. -/

namespace Sys2Proof.Machine

open Sys2Proof

theorem runDev_canon {f : Dev → Dev} {s : State} (h : TablesWf (f s.dev)) : TablesAfter (runDev f s) := by
  rintro t ⟨⟩
  exact h

theorem runWork_canon {f : Work → Work} {s : State} (h : TablesWf (f (workOf s)).dev) : TablesAfter (runWork f s) := by
  rintro t ⟨⟩
  exact commit_tables s h

/-- Every command is the run of an operation that keeps the tables canonical. -/
theorem exec_canon {s : State} (h : TablesWf s.dev) (c : Instr) : TablesAfter (exec c s) := by
  cases c
  case powerUp => exact runDev_canon (powerUp_canon h)
  case inputFaultTurnOff => exact runWork_canon (inputFault_canon h)
  case inputRestored => exact runDev_canon (ite_tables (applyPower_canon h) h)
  case perstLAssert => exact runDev_canon (perstAssert_canon h)
  case perstLRelease => exact runDev_canon (perstRelease_canon h)
  case romStart => exact runWork_canon (romStart_canon h)
  case memoryInitDone => exact runWork_canon (memoryInitDone_canon h)
  case startupSelfTest => exact runDev_canon (startupSelfTest_canon h)
  case recoveryLoad => exact runWork_canon (guarded_canon (fun _ h => recovWrite_canon h) h)
  case flashUpdate => exact runWork_canon (flashUpdate_canon h)
  case watchdogExpiry => exact runWork_canon (watchdogExpiry_canon h)
  case cxlLinkUp =>
    show TablesAfter (execCxlLinkUp _ _ _ s)
    unfold execCxlLinkUp
    exact runWork_canon (waitsDrain_canon (onDev_tables (cxlLinkUp_canon h)))
  case linkReset => exact runDev_canon (linkReset_canon h)
  case cxlEnable => exact runDev_canon (cxlEnable_canon h)
  case ideMacFailure => exact runDev_canon (ideMacFailure_canon h)
  case hdmRead => exact runWork_canon (hdmRead_canon h)
  case hdmWrite => exact runWork_canon (hdmWrite_canon h)
  case backInvalidate => exact runDev_canon (backInvalidate_canon h)
  case atsInvalidation => exact runDev_canon (atsInvalidation_canon h)
  case atsInvalidationComplete => exact runDev_canon (atsInvalidationComplete_canon h)
  case atsTranslation =>
    show TablesAfter (execAtsTranslation _ _ _ _ _ _ s)
    unfold execAtsTranslation
    exact runWork_canon (waitsDrain_canon (atsAnswer_canon h))
  case hostReadData => exact runWork_canon (hostReadData_canon h)
  case doeObject => exact runDev_canon (doeObject_canon h)
  case doeAbort => exact runDev_canon (doeAbort_canon h)
  case doeDiscovery => exact runDev_canon (doeDiscovery_canon h)
  case cdatTableAccess => exact runDev_canon (cdatAccess_canon h)
  case getVersion => exact runDev_canon (getVersion_canon h)
  case getCapabilities => exact runDev_canon (getCapabilities_canon h)
  case negotiateAlgorithms => exact runDev_canon (negotiateAlgorithms_canon h)
  case getDigests => exact runWork_canon (getDigests_canon h)
  case getCertificate => exact runWork_canon (getCertificate_canon h)
  case challenge => exact runWork_canon (challenge_canon h)
  case getMeasurements => exact runDev_canon (getMeasurements_canon h)
  case keyExchange => exact runDev_canon (keyExchange_canon h)
  case finish => exact runDev_canon (finishReq_canon h)
  case keyUpdate => exact runDev_canon (keyUpdate_canon h)
  case spdmHeartbeat => exact runDev_canon (spdmHeartbeat_canon h)
  case endSession => exact runDev_canon (endSession_canon h)
  case chunkSend => exact runDev_canon (chunkSend_canon h)
  case chunkGet => exact runDev_canon (chunkGet_canon h)
  case bar0Write => exact runWork_canon (hostWrite_canon h)
  case bar0UnsupportedAccess => exact runDev_canon (unsupportedAccess_canon h)
  case i3cSetOffset => exact runDev_canon (i3cSet_canon h)
  case i3cRead => exact runDev_canon (i3cGet_canon h)
  case jtagBypass => exact runDev_canon (jtagBypass_canon h)
  case jtagIdcode => exact runDev_canon (jtagTake_canon (fun _ h => emit_canon h) h)
  case jtagSamplePreload => exact runDev_canon (jtagSample_canon h)
  case jtagExtest => exact runDev_canon (jtagExtest_canon h)
  case debugAccess => exact runWork_canon (debugAccess_canon h)
  case refclockLost => exact runDev_canon (refclockLost_canon h)
  case refclockRestored => exact runDev_canon (refclockRestored_canon h)
  case paceMonitorWindow => exact runDev_canon (paceWindow_canon h)
  case paceMonitorCalibration => exact runDev_canon (paceCalibrate_canon h)
  case governorDecision => exact runDev_canon (governorDecision_canon h)
  case issueGating => exact runDev_canon (issueGating_canon h)
  case sensorUpdate => exact runDev_canon (sensorUpdate_canon h)
  case sensorCalibration => exact runDev_canon (sensorCalibration_canon h)
  case thermalTrip => exact runWork_canon (thermalTrip_canon h)
  case parkEnter | parkLeave => exact runWork_canon (guarded_canon (fun _ h => onDev_tables (pstateWrite_canon h)) h)
  case parkEntered => exact runWork_canon (parkEntered_canon h)
  case parkLeft => exact runWork_canon (parkLeft_canon h)
  case refreshDue => exact runDev_canon (refreshDue_canon h)
  case refreshDone => exact runDev_canon (powered_canon (fun _ h => refreshDone_canon h) h)
  case patrolScrub => exact runDev_canon (powered_canon (fun _ h => patrolScrub_canon h) h)
  case memoryUe => exact runWork_canon (memoryUe_canon h)
  case partialWriteUe => exact runWork_canon (partialWriteUe_canon h)
  case arbDecision => exact runDev_canon (powered_canon (fun _ h => arbDecide_canon h) h)
  case backoffEnd => exact runDev_canon (powered_canon (fun _ h => backoffEnd_canon h) h)
  case quotaWindowStart => exact runDev_canon (powered_canon (fun _ h => quotaWindowStart_canon h) h)
  case emergencyRevoke => exact runDev_canon (powered_canon (fun _ h => emergencyRevoke_canon h) h)
  case emergencyEnd => exact runDev_canon (powered_canon (fun _ h => emergencyEnd_canon h) h)
  case ctxEnable | ctxDisable => exact runWork_canon (guarded_canon (fun _ h => onDev_tables (ctxWrite_canon h)) h)
  case ctxInval => exact runWork_canon (guarded_canon (fun _ h => onDev_tables (invalWrite_canon h)) h)
  case ctxInvalDone => exact runDev_canon (invalDone_canon h)
  case ringEnable | ringDisable | replayStart => exact runWork_canon (guarded_canon (fun _ h => ringWrite_canon h) h)
  case dbLineRegister | dbLineRelease => exact runWork_canon (guarded_canon (fun _ h => onDev_tables (dbWrite_canon h)) h)
  case doorbellSnoop => exact runDev_canon (doorbellSnoop_canon h)
  case doorbellData => exact runDev_canon (doorbellData_canon h)
  case doorbellPoll => exact runDev_canon (doorbellPoll_canon h)
  case descriptorFetch => exact runWork_canon (descriptorFetch_canon h)
  case partComplete => exact runWork_canon (partComplete_canon h)
  case descriptorComplete => exact runWork_canon (descriptorComplete_canon h)
  case fence => exact runWork_canon (fence_canon h)
  case wait => exact runWork_canon (waitRun_canon h)
  case waitTimeout => exact runWork_canon (waitTimeout_canon h)
  case signal => exact runWork_canon (signal_canon h)
  case stepBoundary => exact runWork_canon (stepBoundary_canon h)
  case abortNoticeReceived => exact runWork_canon (abortNotice_canon h)
  case attnRecordWrite => exact runWork_canon (poweredWork_canon (fun _ h => attnRecordWrite_canon h) h)
  case attnEnable | attnHeadWrite => exact runWork_canon (guarded_canon (fun _ h => onDev_tables (attnWrite_canon h)) h)
  case attnPulseStart => exact runDev_canon (pulseStart_canon h)
  case attnPulseEnd => exact runDev_canon (pulseEnd_canon h)
  case mmProduct | mmBackwardPair | mmKeep | statGather => exact runDev_canon (enqueueAll_canon h)
  case mmDrainOnly => exact runDev_canon (enqueueDrain_canon h)
  case passBoundary => exact runWork_canon (passBoundary_canon h)
  case shadowExchange => exact runWork_canon (exchange_canon h)
  case bankClose => exact runDev_canon (bankClose_canon h)
  case treeEmpty => exact runDev_canon (treeEmpty_canon h)
  case drainComplete => exact runWork_canon (drainComplete_canon h)
  case mov | neg | abs | add | sub | mul | fma | axpby | div | recip | sqrt | rsqrt | max | min | select | cmpgt | vopGather | exp | log
      | tanh | sigmoid | softplus | relu | gelu | silu | dsigmoid | dtanh | drelu | dexp | dsoftplus | dgelu | dsilu | rsum | rsumsq |
      rmax | rmin | rcount | rwelf | amax | runder | cmbRowstat | cmbSumsq | cmbWelford | softmaxNorm =>
      exact runWork_canon (vopRun_canon h)
  case conv => exact runWork_canon (convRun_canon h)
  case kernel => exact runDev_canon (kernelAll_canon h)
  case kernelPartStart => exact runDev_canon (kernelStart_canon h)
  case chiselInstruction => exact runWork_canon (chiselInstr_canon h)
  case dlaunch => exact runWork_canon (dlaunch_canon h)
  case dwait | dpoll => exact runWork_canon (dread_canon h)
  case cbar => exact runWork_canon (cbar_canon h)
  case ecall => exact runWork_canon (ecall_canon h)
  case kernelTimeout => exact runDev_canon (kernelTimeout_canon h)
  case subDescriptorComplete => exact runWork_canon (subComplete_canon h)
  case gatherPromote => exact runDev_canon (gatherPromote_canon h)
  case fold | norm => exact runWork_canon (statRun_canon h)
  case root | apply | solve => exact runWork_canon (rootRun_canon h)
  case allreduce | reducescatter | allgather | broadcast | permute => exact runWork_canon (collRun_canon h)
  case collHeaderFrame | frameReceived => exact runWork_canon (frameReceived_canon h)
  case creditGrant => exact runDev_canon (rxCredit_canon h)
  case collTimeout => exact runWork_canon (collTimeout_canon h)
  case copy => exact runWork_canon (copyRun_canon h)
  case castmarkRecord | castmarkClose => exact runWork_canon (castRun_canon h)
  case fingerprint | point | losscmp => exact runWork_canon (checkRun_canon h)
  case testEngine | testCstoreBank | testTidy | testDramChannel | testPort => exact runWork_canon (testRun_canon (fun _ h => h) h)
  case testSensors => exact runWork_canon (testRun_canon (fun _ h => sensorsNow_canon h) h)
  case testDevice => exact runWork_canon (deviceRun_canon h)
  case portEnable => exact runWork_canon (guarded_canon (fun _ h => portWrite_canon h) h)
  case lanesTrained => exact runDev_canon (lanesTrained_canon h)
  case identityFrame => exact runDev_canon (identityFrame_canon h)
  case portRetrain => exact runDev_canon (portRetrain_canon h)
  case frameAckTimeout => exact runWork_canon (ackTimeout_canon h)
  case frameForward => exact runDev_canon (frameForward_canon h)
  case heartbeatSend => exact runDev_canon (heartbeatSend_canon h)
  case neighbourLost => exact runWork_canon (neighbourLost_canon h)
  case announceSend => exact runDev_canon (announceSend_canon h)
  case announceReceived => exact runWork_canon (announceReceived_canon h)
  case announceTimeout => exact runWork_canon (announceTimeout_canon h)
  case leave => exact runWork_canon (guarded_canon (fun _ h => onDev_tables (fabWrite_canon h)) h)
  case groupEnable | groupDisable => exact runWork_canon (guarded_canon (fun _ h => groupWrite_canon h) h)
  case mouldRoleWrite | streamRingEnable => exact runWork_canon (guarded_canon (fun _ h => onDev_tables (mouldWrite_canon h)) h)
  case chargeEnable | chargeDisable | persistedWrite => exact runWork_canon (guarded_canon (fun _ h => pairWrite_canon h) h)
  case pairingFrame => exact runDev_canon (pairingFrame_canon h)
  case streamForward => exact runWork_canon (poweredWork_canon (fun _ h => streamForward_canon h) h)
  case ctrSample | ctrReset | ctrSampleReset => exact runWork_canon (guarded_canon (fun _ h => ctrWrite_canon h) h)
  case mirrorSample => exact runWork_canon (poweredWork_canon (fun _ h => mirrorSample_canon h) h)
  case pcSample => exact runDev_canon (powered_canon (fun _ h => pcSample_canon h) h)
  case traceRecordAccept => exact runDev_canon (powered_canon (fun _ h => traceAccept_canon h) h)
  case traceTrigger => exact runDev_canon (powered_canon (fun _ h => traceTrigger_canon h) h)
  case trcFire | trcArm | trcDump => exact runWork_canon (guarded_canon (fun _ h => trcWrite_canon h) h)
  case traceSpillDrain => exact runWork_canon (poweredWork_canon (fun _ h => spillDrain_canon h) h)
  case stitchLineFault => exact runDev_canon (stitchFault_canon h)
  case mismatchNotice => exact runWork_canon (rxMismatch_canon h)
  case paceTimeLowRead => exact runDev_canon (timeRead_canon h)
  case birspReceived =>
    show TablesAfter (execBirspReceived _ s)
    unfold execBirspReceived
    exact runWork_canon (waitsDrain_canon (onDev_tables (birsp_canon h)))

/-- A unit of the time base touches no table. -/
theorem idle_canon {s : State} (h : TablesWf s.dev) : TablesWf (idle s).dev := by
  unfold idle
  split
  · exact { h with }
  · exact h

/-- Settles O3: a step on an empty queue touches no table, and every command keeps them canonical. -/
theorem everyStepKeepsTablesCanonical : Obligations.EveryStepKeepsTablesCanonical := by
  intro s t h hstep
  unfold step at hstep
  split at hstep
  · cases hstep
    exact idle_canon h
  · next c rest _ => exact exec_canon (s := { s with pending := rest }) h c t hstep

end Sys2Proof.Machine
end

section
/-! Attention events held, dropped and written in order (R323). -/

namespace Sys2Proof.Machine

open Sys2Proof

theorem leBytes_length : ∀ n v : Nat, (leBytes n v).length = n
  | 0, _ => rfl
  | n + 1, _ => congrArg (· + 1) (leBytes_length n _)

theorem attnHeld_noRoom {a : Attn} (h : attnRoom a = 0) : attnHeld a = a.held.length := by
  rw [attnHeld, h, Nat.sub_zero]

/-- A record is its 56 bytes of event, the count of those dropped, and its phase (R321). -/
theorem attnBytes_split (e : AttnEvent) (n phase : Nat) : ∃ l : List Byte, l.length = 56 ∧
    attnBytes e n phase = l ++ (leBytes 4 n ++ (leBytes 3 0 ++ leBytes 1 phase)) := by
  refine ⟨_, ?_, (List.append_assoc _ _ _).trans ((List.append_assoc _ _ _).trans rfl)⟩
  simp [leBytes_length]

/-- Settles O46: an event held or dropped is `raise_attn_eq`, and a record written is `record_written`. -/
theorem attentionEventsAreHeldInOrder : Obligations.AttentionEventsAreHeldInOrder := by
  refine ⟨fun code ctx payload v hroom => ⟨fun hl => ?_, fun hl => ?_⟩, fun e n phase => ?_,
    fun e rest w s hs hr hl hh hroom h hw hp => ?_⟩
  · rw [raise_attn_eq, attnHeld_noRoom hroom, if_pos hl]
  · rw [raise_attn_eq, attnHeld_noRoom hroom, if_neg (Nat.not_lt.mpr hl)]
  · obtain ⟨l, hlen, hsplit⟩ := attnBytes_split e n phase
    rw [hsplit, List.drop_left' hlen, List.take_left' (leBytes_length ..)]
    simp [hlen, leBytes_length]
  · obtain ⟨t, hx, hst, ha, -⟩ := record_written hr hh hroom hs h hw hl hp
    exact ⟨t, hx, hst, by rw [ha]; rfl, by rw [ha]; rfl, by rw [ha]; rfl, by rw [ha]; rfl⟩

end Sys2Proof.Machine
end

section
/-! The management ports and the debug port (R477, R478, R489, R490, R504). -/

namespace Sys2Proof.Machine

open Sys2Proof

/-- An instruction of the JTAG port in force: every one but EXTEST leaves the pins to the device (R489). -/
def jtagTaken (i : JtagInstr) (v : Dev) : Dev := { v with mgmt := { v.mgmt with jtag := i, pinsDriven := i = .extest } }

theorem jtagTake_on {i : JtagInstr} {f : Dev → Dev} {v : Dev} (h : v.power.state ≠ .off) : jtagTake i f v = f (jtagTaken i v) :=
  if_neg h

theorem jtagTake_off {i : JtagInstr} {f : Dev → Dev} {v : Dev} (h : v.power.state = .off) : jtagTake i f v = v :=
  if_pos h

theorem jtagBypass_on {tdi : Bool} {v : Dev} (h : v.power.state ≠ .off) : jtagBypass tdi v = { v with
    mgmt := { v.mgmt with jtag := .bypass, pinsDriven := false, bypassBit := tdi }
    out := v.out ++ [.jtagBit (decide (v.mgmt.jtag = .bypass) && v.mgmt.bypassBit)] } := by
  unfold jtagBypass
  exact jtagTake_on h

theorem jtagBypass_off {tdi : Bool} {v : Dev} (h : v.power.state = .off) : jtagBypass tdi v = v := by
  unfold jtagBypass
  exact jtagTake_off h

theorem jtagExtest_off {v : Dev} (h : v.power.state = .off) : jtagExtest v = v :=
  (congrArg (ite _ · v) (jtagTake_off h)).trans (ite_self v)

theorem jtagExtest_held {v : Dev} (h : v.power.perstLow = true) (ho : v.power.state ≠ .off) :
    jtagExtest v = emit (.jtagPins v.mgmt.boundary) (jtagTaken .extest v) :=
  (if_pos h).trans (jtagTake_on ho)

/-! ### The I3C target (R490, R504) -/

theorem i3cUp_of {v : Dev} (hv : v.power.vaon = true) (ho : v.power.state ≠ .off) : i3cUp v = true := by
  simp [i3cUp, hv, ho]

theorem i3cUp_not {v : Dev} (h : v.power.vaon = false ∨ v.power.state = .off) : i3cUp v = false := by
  rcases h with h | h <;> simp [i3cUp, h]

theorem i3cSet_up {off : W32} {v : Dev} (h : i3cUp v = true) : i3cSet off v = { v with mgmt := { v.mgmt with i3cOffset := off } } :=
  if_neg (by simp [h])

theorem i3cGet_up {wide : Bool} {v : Dev} (h : i3cUp v = true) :
    i3cGet wide v = freeNext (emit (.i3cData (leBytes 4 (i3cWord v v.mgmt.i3cOffset.toNat).toNat ++
      if wide then leBytes 4 (i3cWord v (v.mgmt.i3cOffset.toNat + 4)).toNat else [])) v) :=
  if_neg (by simp [h])

theorem i3c_down {off : W32} {wide : Bool} {v : Dev} (h : i3cUp v = false) : i3cSet off v = v ∧ i3cGet wide v = v :=
  ⟨if_pos (by simp [h]), if_pos (by simp [h])⟩

/-- Settles O23: what the I3C target answers, and what each instruction of the JTAG port does. -/
theorem managementPortsAnswer : Obligations.ManagementPortsAnswer := by
  refine ⟨fun off s hv ho => runDev_eq (f := i3cSet off) (i3cSet_up (i3cUp_of hv ho)),
    fun wide s hv ho => runDev_eq (f := i3cGet wide) (i3cGet_up (i3cUp_of hv ho)), fun off wide s h => ?_, fun s ho => ?_,
    fun tdi bits s ho => ⟨?_, ?_, ?_, ?_⟩⟩
  · obtain ⟨hset, hget⟩ := i3c_down (off := off) (wide := wide) (i3cUp_not h)
    exact ⟨runDev_unchanged (f := i3cSet off) hset, runDev_unchanged (f := i3cGet wide) hget⟩
  · refine ⟨fun tdi => runDev_eq (jtagBypass_on ho), runDev_eq (jtagTake_on ho), fun bits => ?_,
      fun hp => runDev_eq (f := jtagExtest) (jtagExtest_held hp ho), fun hp => runDev_unchanged (f := jtagExtest) (if_neg (by simp [hp]))⟩
    exact ⟨_, by simp [upto], runDev_eq (f := jtagSample bits) (jtagTake_on ho)⟩
  · exact runDev_unchanged (jtagBypass_off ho)
  · exact runDev_unchanged (jtagTake_off ho)
  · exact runDev_unchanged (f := jtagSample bits) (jtagTake_off ho)
  · exact runDev_unchanged (jtagExtest_off ho)

/-! ### The debug port (R489) -/

theorem debugAccess_locked {tg : DebugTarget} {w : Work} (h : w.dev.arm.debugUnlock = false) : debugAccess tg w = w :=
  if_pos (by rw [h]; rfl)

section
variable {w : Work} (hu : w.dev.arm.debugUnlock = true) (ho : w.dev.power.state ≠ .off) (hr : w.dev.power.railsUp = true)
include hu ho hr

theorem debugAccess_readReg {o : Nat} (h : o % 4 = 0) : debugAccess (.readReg o) w = onDev (fun v => debugReg o (jtagTaken .debug v)) w := by
  have hw : onDev (jtagTake .debug fun v => v) w = onDev (jtagTaken .debug) w := congrArg (fun v => { w with dev := v }) (jtagTake_on ho)
  unfold debugAccess
  rw [if_neg (by rw [hu, hr]; decide)]
  dsimp only
  rw [hw]
  exact if_pos h

theorem debugAccess_writeReg {o : Nat} {x : W32} (h : o % 4 = 0) (hl : earlyBlock o = true) :
    debugAccess (.writeReg o x) w = writeGran (o - o % 8) (barOf o false (x.setWidth 64)) (onDev (jtagTaken .debug) w) := by
  have hw : onDev (jtagTake .debug fun v => v) w = onDev (jtagTaken .debug) w := congrArg (fun v => { w with dev := v }) (jtagTake_on ho)
  unfold debugAccess
  rw [if_neg (by rw [hu, hr]; decide)]
  dsimp only
  rw [hw]
  exact if_pos (by simp [h, blockLive, hl])

end

/-- DEV_SCRATCH's low word as the debug port reads it (R499). -/
theorem debugReg_scratch (v : Dev) : debugReg 0x30 v = freeNext (emit (.debugData (leBytes 4 (v.blk.scratch.toNat % 2 ^ 32))) v) := by
  have hx : (if blockLive v 0x30 then readWord v 0x30 else 0) = v.blk.scratch.setWidth 32 :=
    (if_pos (Bool.or_true _)).trans rfl
  unfold debugReg
  rw [hx]
  simp

/-- Settles O24: a locked port does nothing; unlocked, DEV_SCRATCH answers or takes the word. -/
theorem debugPortNeedsUnlock : Obligations.DebugPortNeedsUnlock := by
  refine ⟨fun tg s h => runWork_unchanged (f := debugAccess tg) (debugAccess_locked h), fun x s hu ho hr => ⟨?_, ?_⟩⟩
  · refine (runWork_eq (debugAccess_readReg hu ho hr (by decide))).trans ((congrArg _ (commit_workOf s _)).trans ?_)
    exact congrArg (fun v => Host.Outcome.next { s with dev := v }) (debugReg_scratch _)
  · refine (runWork_eq ((debugAccess_writeReg hu ho hr (by decide) (by decide)).trans ?_)).trans (congrArg _ (commit_workOf s _))
    rw [barOf_low _ (by decide), writeGran_dev _ _ (by decide)]
    refine congrArg (fun y => onDev (fun v => { v with blk := { v.blk with scratch := y } }) (onDev (jtagTaken .debug) (workOf s))) ?_
    rw [merge_low, and_lowMask, BitVec.or_comm, show (x.setWidth 64).setWidth 32 = x by simp]
    rfl

end Sys2Proof.Machine
end

section
/-! Flash updates (R441, R446). -/

namespace Sys2Proof.Machine

open Sys2Proof

/-- Bytes written to flash change nothing else, and read back (R441). -/
theorem commit_flashPokes {s : State} (hs : Memory.wf s = true) (f : Dev → Dev) (base : Nat) (bs : List Byte) :
    let t := commit s (onDev f (pokes .flash base bs (workOf s)))
    t.mem = s.mem ∧ t.host = s.host ∧ t.dev = f s.dev ∧ (∀ i < bs.length, flashByte t (base + i) = bs.getD i 0) ∧
      ∀ a, a < base ∨ base + bs.length ≤ a → flashByte t a = flashByte s a := by
  have hsp : ∀ x ∈ (pokes .flash base bs (workOf s)).stores, x.space = .flash := fun x hx =>
    (mem_pokes_stores hx).resolve_right List.not_mem_nil
  refine ⟨?_, ?_, ?_, fun i hi => ?_, fun a ha => ?_⟩
  · refine (applyStores_elsewhere _ _ _ fun x hx => by rw [hsp x hx]; decide).trans ?_
    exact congrArg (wipeMem · s.mem) (pokes_wiped ..)
  · exact applyStores_elsewhere _ _ _ fun x hx => by rw [hsp x hx]; decide
  · refine (breakReserved_elsewhere _ fun x hx => by rw [hsp x hx]; decide).trans ?_
    exact congrArg f (pokes_dev ..)
  · rw [flashByte_commit s _ _ hs, onDev_stores, storeAt_pokes, if_pos ⟨Nat.le_add_right .., by omega⟩, Nat.add_sub_cancel_left,
      List.getElem?_eq_getElem hi]
    exact (List.getElem_eq_getD _)
  · rw [flashByte_commit s _ _ hs, onDev_stores, storeAt_pokes, if_neg (by omega)]
    rfl

/-- What FLASH_UPDATE stores of a request that passes: all of it, or what came before the interruption (R446). -/
theorem flashUpdate_stores {k : FlashKind} {bs : List Byte} {cut : Option Nat} {w : Work} (hf : w.dev.arm.firmware = true)
    (hp : flashPasses k bs w = true) (hc : cut = none ∨ cut.getD bs.length < bs.length) :
    flashUpdate k bs true cut w =
      onDev (fun v => { v with torn := v.torn.filter (fun c => c ≠ k) ++ (if cut = none then [] else [k]) })
        (pokes .flash (flashPlace k) (bs.take (cut.getD bs.length)) w) := by
  unfold flashUpdate
  rw [if_neg (by simp [hf, hp])]
  cases cut with
  | none => simp
  | some n => exact (if_pos (by simpa using hc)).trans (by simp)

theorem flashUpdate_refused {k : FlashKind} {bs : List Byte} {priv : Bool} {cut : Option Nat} {w : Work}
    (h : ¬(priv = true ∧ (cut = none ∨ cut.getD bs.length < bs.length) ∧ flashPasses k bs w = true)) :
    flashUpdate k bs priv cut w = w := by
  unfold flashUpdate
  split
  · rfl
  next hg =>
    cases cut with
    | none => simp_all
    | some n => exact if_neg fun hn => h (by simp_all)

/-- Settles O10: a request that passes is stored by `pokes`, and one that does not changes nothing. -/
theorem flashUpdateStoresWhatPasses : Obligations.FlashUpdateStoresWhatPasses := by
  intro k bs priv cut s hs hf base n acts
  have hbase : base = flashPlace k := by cases k <;> rfl
  have hacts : acts ↔ priv = true ∧ (cut = none ∨ n < bs.length) ∧ flashPasses k bs (workOf s) = true := by
    unfold acts
    cases k <;> simp [flashPasses]
  by_cases h : acts
  · obtain ⟨rfl, hcut, hpass⟩ := hacts.mp h
    obtain ⟨hm, hh, hd, hin, hout⟩ := commit_flashPokes hs (fun v => { v with
      torn := v.torn.filter (fun c => c ≠ k) ++ (if cut = none then [] else [k]) }) base (bs.take n)
    have hlen : (bs.take n).length = n := by
      rw [List.length_take]
      rcases hcut with rfl | hn
      · exact Nat.min_self _
      · omega
    refine ⟨_, runWork_eq (flashUpdate_stores (w := workOf s) hf hpass hcut), ?_⟩
    rw [← hbase]
    refine ⟨hm, hh, fun _ => ⟨fun i hi => ?_, fun a ha => hout a (by rwa [hlen]), hd⟩, fun hn => absurd h hn⟩
    rw [hin i (by rwa [hlen])]
    simp [hi]
  · refine ⟨s, runWork_unchanged (flashUpdate_refused fun hp => h (hacts.mpr hp)), rfl, rfl, fun ha => absurd ha h,
      fun _ => ⟨rfl, fun _ => rfl⟩⟩

end Sys2Proof.Machine
end

section
/-! Images checked before they start (R437, R443 to R446, R450, R452, R483). -/

namespace Sys2Proof.Machine

open Sys2Proof

theorem flashBytes_onDev (o n : Nat) (f : Dev → Dev) (w : Work) : flashBytes o n (onDev f w) = flashBytes o n w := by
  rw [flashBytes, flashBytes, peeks_eq_map, peeks_eq_map]
  rfl

/-! ### What the firmware's start and a refusal leave -/

/-- What neither the start of the firmware nor its refusal touches: the bytes stored, contexts, rings, descriptors, torn slots, the
incarnation, whether configuration requests are answered, and the PUF's verdict. -/
def bootView (w : Work) : (List Store × Wipe) × (Tab Ctx × Tab Ring × List Desc × List FlashKind) × W32 × Bool × Bool :=
  ((w.stores, w.wiped), (w.dev.ctxs, w.dev.rings, w.dev.descs, w.dev.torn), w.dev.fab.incarn, w.dev.cxl.configLive, w.dev.arm.pufOk)

theorem applyConfig_bootView (w : Work) : bootView (applyConfig w) = bootView w := by
  unfold applyConfig bootView onDev
  dsimp only
  split <;> rfl

theorem startFirmware_bootView (img : List Byte) (source : Bool) (w : Work) : bootView (startFirmware img source w) = bootView w := by
  unfold startFirmware
  extract_lets u
  exact (show _ = bootView (applyConfig u) from rfl).trans (applyConfig_bootView u)

theorem waitRecovery_bootView (err : Nat) (w : Work) : bootView (onDev (waitRecovery err) w) = bootView w := rfl

/-- The registers that the configuration leaves in the armature's block (R449, R452). -/
theorem applyConfig_arm (w : Work) : ∃ c e m t, (applyConfig w).dev.arm =
    { w.dev.arm with stage := 4, cfgState := c, cfgErr := e, cfgMeas := m, wdtTimeout := t, nodeIdWritten := false } := by
  unfold applyConfig onDev
  dsimp only
  split <;> exact ⟨_, _, _, _, rfl⟩

/-- An image accepted is measured, and starts the firmware with the watchdog armed (R437, R443, R450, R452). -/
structure Started (img : List Byte) (source : Bool) (a : Arm) : Prop where
  stage : a.stage = 5
  imgErr : a.imgErr = 0
  source : a.source = source
  firmware : a.firmware = true
  wdtArmed : a.wdtArmed = true
  secret : a.secret = none
  meas : a.meas = digestOf (imageDigest img)
  fwVersion : a.fwVersion = BitVec.ofNat 32 (leAt img 20 4)
  fwSvn : a.fwSvn = BitVec.ofNat 32 (leAt img 24 4)

theorem startFirmware_started (img : List Byte) (source : Bool) (w : Work) : Started img source (startFirmware img source w).dev.arm := by
  unfold startFirmware
  extract_lets u
  obtain ⟨c, e, m, t, ha⟩ := applyConfig_arm u
  constructor
  all_goals rw [onDev_dev]
  all_goals dsimp only
  all_goals rw [ha]
  all_goals rfl

/-! ### ROM_START (R437, R443, R445) -/

theorem drawIncarnation_ne (v : Dev) : (drawIncarnation v).fab.incarn ≠ v.fab.incarn := by
  unfold drawIncarnation
  dsimp only
  generalize (Config.freeIncarnation v.free).toNat = r
  have hr : r % (2 ^ 32 - 1) < 2 ^ 32 - 1 := Nat.mod_lt _ (by decide)
  generalize r % (2 ^ 32 - 1) = k at hr
  bv_omega

/-- The module as the ROM takes it over (R437, R450). -/
def romTaken (secret : Option (BitVec 256)) (flashOk : Bool) (v : Dev) : Dev :=
  drawIncarnation { v with
    arm := { v.arm with romPending := false, stage := 1, pufOk := secret.isSome, secret := secret, flashOk := flashOk, source := false }
    cxl := { v.cxl with configLive := true } }

/-- The image in flash starts, where no update has torn it, or is refused with its code (R443, R446). -/
theorem romStart_runs {puf : List Byte} {flashOk : Bool} {w : Work} (hs : w.dev.power.state = .start)
    (hp : w.dev.power.perstLow = false) (hr : w.dev.power.railsUp = true) (hrom : w.dev.arm.romPending = true)
    (hh : w.dev.power.hot = false) :
    let u := onDev (romTaken (pufSecret puf w) flashOk) w
    romStart puf flashOk w =
      if w.dev.torn = [] then
        if (if flashOk then imageCheck (flashBytes 0 16777216 w) 16777216 else 5) = 0 then startFirmware (flashBytes 0 16777216 w) false u
        else onDev (waitRecovery (if flashOk then imageCheck (flashBytes 0 16777216 w) 16777216 else 5)) u
      else onDev (waitRecovery (if flashOk then 1 + (freeVal u.dev).toNat % 4 else 5)) (onDev freeNext u) := by
  intro u
  have htorn : u.dev.torn = w.dev.torn := rfl
  have hflash : flashBytes 0 16777216 u = flashBytes 0 16777216 w := flashBytes_onDev ..
  have hrun : romStart puf flashOk w =
      if flashOk && (if u.dev.torn.isEmpty then u else onDev freeNext u).dev.torn.isEmpty && flashImageErr flashOk u = 0 then
        startFirmware (flashBytes 0 16777216 (if u.dev.torn.isEmpty then u else onDev freeNext u)) false
          (if u.dev.torn.isEmpty then u else onDev freeNext u)
      else onDev (waitRecovery (flashImageErr flashOk u)) (if u.dev.torn.isEmpty then u else onDev freeNext u) := by
    unfold romStart
    exact if_neg (by simp [hs, hp, hr, hrom, hh])
  rw [hrun, flashImageErr, hflash]
  cases h : w.dev.torn with
  | nil => cases flashOk <;> simp [htorn, hflash, h]
  | cons k l => cases flashOk <;> simp [htorn, h]

theorem exec_romStart {puf : List Byte} {flashOk : Bool} {s : State} {u : Work} (h : romStart puf flashOk (workOf s) = u)
    (hv : bootView u = bootView (onDev (romTaken (pufSecret puf (workOf s)) flashOk) (workOf s))) :
    ∃ t, exec (.romStart puf flashOk) s = .next t ∧ t.dev = u.dev ∧ t.mem = s.mem ∧ t.host = s.host ∧ t.flash = s.flash ∧
      t.dev.fab.incarn ≠ s.dev.fab.incarn ∧ t.dev.arm.pufOk = (pufSecret puf (workOf s)).isSome ∧ t.dev.cxl.configLive = true ∧
      t.dev.ctxs = s.dev.ctxs ∧ t.dev.rings = s.dev.rings ∧ t.dev.descs = s.dev.descs ∧ t.dev.torn = s.dev.torn := by
  simp only [bootView, Prod.mk.injEq] at hv
  obtain ⟨⟨hst, hwi⟩, ⟨hc, hr, hd, ht⟩, hi, hl, hp⟩ := hv
  refine ⟨_, runWork_eq h, ?_⟩
  rw [commit_noStores s u hst hwi]
  refine ⟨rfl, rfl, rfl, rfl, ?_, hp, hl, hc, hr, hd, ht⟩
  rw [hi]
  exact drawIncarnation_ne _

/-! ### RECOVERY_LOAD (R445) -/

/-- The module once ARM_RECOV_CTRL is written while the ROM waits for it: the length stands, and the host is asked. -/
def recovTaken (x : W64) (v : Dev) : Dev := recovAsks { v with arm := { v.arm with recovBytes := x.setWidth 25 } }

theorem recovWrite_runs {x : W64} {img : List Byte} {readOk : Bool} {w : Work} (hs : starting 2 w.dev = true)
    (hb : w.dev.cxl.busMaster = true) (hn : img.length = (x.setWidth 25).toNat) :
    recovWrite (x ||| placeB 31 true) (fun _ => (img, readOk)) w = recoverWith img readOk (onDev (recovTaken x) w) := by
  let u := onDev (fun v => { v with arm := { v.arm with recovBytes := x.setWidth 25 } }) w
  have hask : (if starting 2 u.dev && u.dev.cxl.busMaster then onDev recovAsks u else u) = onDev (recovTaken x) w :=
    if_pos (Bool.and_eq_true_iff.mpr ⟨hs, hb⟩)
  have himg : (if u.dev.cxl.busMaster then (img, readOk) else ([], false)) = (img, readOk) := if_pos hb
  have hlen : fld 25 0 (x ||| placeB 31 true) = x.setWidth 25 := by
    rw [fld_orEnable x (.inl (by decide)), BitVec.ushiftRight_zero]
  have hrun : recovWrite (x ||| placeB 31 true) (fun _ => (img, readOk)) w =
      recover (if u.dev.cxl.busMaster then (img, readOk) else ([], false)).1 (if u.dev.cxl.busMaster then (img, readOk) else ([], false)).2
        (if starting 2 u.dev && u.dev.cxl.busMaster then onDev recovAsks u else u) := by
    unfold recovWrite
    rw [hlen]
    exact if_pos (bitAt_orEnable x)
  have hok : (readOk && w.dev.cxl.busMaster && decide (img.length = (x.setWidth 25 : BitVec 25).toNat)) = readOk := by
    rw [hb, decide_eq_true hn, Bool.and_true, Bool.and_true]
  rw [hrun, hask, himg]
  exact (if_neg (by rw [show starting 2 (onDev (recovTaken x) w).dev = true from hs]; decide)).trans
    (congrArg (fun b => recoverWith img b (onDev (recovTaken x) w)) hok)

/-- Settles O8: the ROM and a recovery load start what passes `imageCheck`, and else record its code. -/
theorem imagesAreCheckedBeforeTheyStart : Obligations.ImagesAreCheckedBeforeTheyStart := by
  constructor
  · intro puf flashOk s hs hp hr hrom hh img err
    have hrun := romStart_runs (puf := puf) (flashOk := flashOk) (w := workOf s) hs hp hr hrom hh
    extract_lets u at hrun
    by_cases ht : s.dev.torn = []
    · replace hrun : romStart puf flashOk (workOf s) = if err = 0 then startFirmware img false u else onDev (waitRecovery err) u :=
        hrun.trans (if_pos ht)
      by_cases he : err = 0
      · rw [if_pos he] at hrun
        obtain ⟨t, hx, hd, hm, hh, hf, hi, hp, hl, hc, hg, hds, htn⟩ := exec_romStart hrun (startFirmware_bootView ..)
        have hs := startFirmware_started img false u
        refine ⟨t, hx, hm, hh, hf, hi, hp, hl, hc, hg, hds, htn, fun h => absurd ht h, fun _ h => absurd he h, fun _ _ => ?_⟩
        rw [hd]
        exact ⟨hs.stage, hs.imgErr, hs.firmware, hs.wdtArmed, hs.secret, hs.meas, hs.fwVersion, hs.fwSvn⟩
      · rw [if_neg he] at hrun
        obtain ⟨t, hx, hd, hm, hh, hf, hi, hp, hl, hc, hg, hds, htn⟩ := exec_romStart hrun (waitRecovery_bootView ..)
        refine ⟨t, hx, hm, hh, hf, hi, hp, hl, hc, hg, hds, htn, fun h => absurd ht h, fun _ _ => ?_, fun _ h => absurd h he⟩
        rw [hd]
        exact ⟨rfl, rfl, rfl⟩
    · replace hrun := hrun.trans (if_neg ht)
      obtain ⟨t, hx, hd, hm, hh, hf, hi, hp, hl, hc, hg, hds, htn⟩ := exec_romStart hrun rfl
      refine ⟨t, hx, hm, hh, hf, hi, hp, hl, hc, hg, hds, htn, fun _ => ?_, fun h => absurd h ht, fun h => absurd h ht⟩
      rw [hd]
      refine ⟨rfl, rfl, ?_⟩
      cases flashOk with
      | false => rfl
      | true =>
        have hlt : (freeVal u.dev).toNat % 4 < 4 := Nat.mod_lt _ (by decide)
        have hcode : (BitVec.ofNat 4 (1 + (freeVal u.dev).toNat % 4)).toNat = 1 + (freeVal u.dev).toNat % 4 := by
          rw [BitVec.toNat_ofNat, Nat.mod_eq_of_lt (by omega)]
        change 1 ≤ (BitVec.ofNat 4 (1 + (freeVal u.dev).toNat % 4)).toNat ∧ (BitVec.ofNat 4 (1 + (freeVal u.dev).toNat % 4)).toNat ≤ 4
        rw [hcode]
        omega
  · intro w img readOk s hw hs hr hst hb hn err
    have hstart : starting 2 s.dev = true := by simp [starting, hs, hr, hst]
    have hrun : guarded 0x90028 w.ide (recovWrite (w.value ||| placeB 31 true) fun _ => (img, readOk)) (workOf s) =
        if err = 0 then startFirmware img true (onDev (recovTaken w.value) (workOf s))
        else onDev (waitRecovery err) (onDev (recovTaken w.value) (workOf s)) := by
      obtain ⟨hreach, hlive, hide⟩ := hw
      exact (guarded_open _ _ _ (workOf s) hreach hlive hide).trans (recovWrite_runs (w := workOf s) hstart hb hn)
    by_cases he : err = 0
    · rw [if_pos he] at hrun
      have hv := startFirmware_bootView img true (onDev (recovTaken w.value) (workOf s))
      have hs := startFirmware_started img true (onDev (recovTaken w.value) (workOf s))
      simp only [bootView, Prod.mk.injEq] at hv
      obtain ⟨⟨hst, hwi⟩, ⟨hc, hg, -, -⟩, -⟩ := hv
      refine ⟨_, runWork_eq hrun, ?_⟩
      rw [commit_noStores s _ hst hwi]
      exact ⟨rfl, rfl, rfl, hc, hg, fun h => absurd he h, fun _ => ⟨hs.stage, hs.source, hs.firmware, hs.wdtArmed, hs.meas⟩⟩
    · rw [if_neg he] at hrun
      refine ⟨_, runWork_eq hrun, ?_⟩
      rw [commit_noStores s _ rfl rfl]
      exact ⟨rfl, rfl, rfl, rfl, rfl, fun _ => ⟨rfl, rfl, rfl⟩, fun h => absurd h he⟩

end Sys2Proof.Machine
end

section
/-! The watchdog (R428, R452, R494). -/

namespace Sys2Proof.Machine

open Sys2Proof

theorem testsStopped_none {w : Work} (h : ∀ x ∈ w.dev.descs, x.cls ≠ 0xD) : testsStopped w = w := by
  have hnone : w.dev.descs.filter (fun x => x.cls = 0xD && x.parts.any (fun p => p.state = .running)) = [] :=
    List.filter_eq_nil_iff.mpr fun x hx => by simp [h x hx]
  unfold testsStopped
  rw [hnone]
  rfl

theorem unreachableFail_none {w : Work} (h : ∀ c ∈ w.dev.groups, c.2.enable = false) : unreachableFail w = w := by
  have hnone : w.dev.groups.filter (fun c => c.2.enable) = [] := List.filter_eq_nil_iff.mpr fun c hc => by simp [h c hc]
  unfold unreachableFail
  rw [hnone]
  rfl

/-- An entry that a map of a table lists is the image of one. -/
theorem of_mem_tabMap {α : Type} [DecidableEq α] {d : α} {f : Nat → α → α} {t : Tab α} {c : Nat × α} (h : c ∈ tabMap d f t) :
    ∃ x, c.2 = f c.1 x := by
  obtain ⟨b, -, rfl⟩ := List.mem_map.mp (List.mem_of_mem_filter h)
  exact ⟨_, rfl⟩

theorem stopPorts_state {v : Dev} {c : Nat × Port} (h : c ∈ (stopPorts v).ports) : c.2.state = if c.2.enable then 5 else 0 := by
  unfold stopPorts at h
  dsimp only at h
  obtain ⟨p, hp⟩ := of_mem_tabMap h
  rw [hp]

theorem watchdogExpiry_restarts {w : Work} (ha : w.dev.arm.wdtArmed = true) (hg : ∀ c ∈ w.dev.groups, c.2.enable = false)
    (hd : ∀ x ∈ w.dev.descs, x.cls ≠ 0xD) : watchdogExpiry w = onDev watchdogRestart w := by
  unfold watchdogExpiry
  rw [if_neg (by simp [ha]), testsStopped_none hd]
  exact unreachableFail_none hg

theorem satAdd_one_byte (x : Byte) : satAdd x 1 = if x.toNat + 1 < 255 then x + 1 else 255 := by
  unfold satAdd
  split
  · rw [if_neg (by omega)]
    rfl
  · rw [if_pos (by omega)]
    exact BitVec.eq_of_toNat_eq (by simp)

/-- Settles O11: with nothing to end, the watchdog's restart is `watchdogRestart`. -/
theorem watchdogRestarts : Obligations.WatchdogRestarts := by
  intro s ha hg hd
  refine ⟨_, (runWork_eq (watchdogExpiry_restarts (w := workOf s) ha hg hd)).trans (congrArg _ (commit_workOf s _)), ?_, rfl, rfl, rfl, rfl,
    fun c hc => ?_, rfl, rfl, rfl⟩
  · rw [← satAdd_one_byte]
    rfl
  · exact stopPorts_state (v := s.dev) hc

end Sys2Proof.Machine
end

section
/-! SPDM once the connection is set up: certificates, measurements and sessions (R450, R451). -/

namespace Sys2Proof.Machine

open Sys2Proof

theorem onDev_eq {f g : Dev → Dev} {w : Work} (h : f w.dev = g w.dev) : onDev f w = onDev g w :=
  congrArg (fun v => { w with dev := v }) h

theorem spdmExpected_algorithms {r : SpdmReq} {v : Dev} (hr : isFinish r = false) (h : v.cxl.spdm.algorithms = true) :
    spdmExpected v 3 none r = true := by
  simp [spdmExpected, sessionOk, hr, h]

theorem spdmExpected_session {r : SpdmReq} {v : Dev} {id : W32} (h : v.cxl.spdm.algorithms = true)
    (hs : ∃ x ∈ v.cxl.spdm.sessions, x.id = id ∧ x.established = !isFinish r) : spdmExpected v 3 (some id) r = true := by
  obtain ⟨x, hx, hid, he⟩ := hs
  have hok : sessionOk v (isFinish r) (some id) = true :=
    List.any_eq_true.mpr ⟨x, hx, by rw [decide_eq_true hid, he]; cases isFinish r <;> rfl⟩
  simp [spdmExpected, h, hok]

theorem spdmRequest_secured {r : SpdmReq} {id : W32} {v : Dev} (h : (getMailbox v 0).object = some (.secured id r)) :
    spdmRequest v = some (some id, r) := by
  rw [spdmRequest, h]

theorem sessionUp_of {v : Dev} {id : W32} (h : ∃ x ∈ v.cxl.spdm.sessions, x.id = id ∧ x.established = true) : sessionUp v id = true := by
  obtain ⟨x, hx, hid, he⟩ := h
  exact List.any_eq_true.mpr ⟨x, hx, by rw [decide_eq_true hid, he]; rfl⟩

/-- A response that the alias key signs, and its refusal where there is none (R450). -/
theorem signed_able {v : Dev} {text : List Byte} {f : BitVec 768 → SpdmRsp} (h : v.arm.pufOk = true ∧ v.arm.firmware = true) :
    signed v text f = (f (Config.aliasSignature v.arm.aliasKey text v.free), freeNext v) :=
  if_pos (Bool.and_eq_true_iff.mpr h)

theorem signed_unable {v : Dev} {text : List Byte} {f : BitVec 768 → SpdmRsp} (h : ¬(v.arm.pufOk = true ∧ v.arm.firmware = true)) :
    signed v text f = (.error 0x05, v) :=
  if_neg (mt Bool.and_eq_true_iff.mp h)

/-- The measurement blocks that an index names (R451). -/
def askedBlocks (i : Byte) (v : Dev) : List (Nat × Nat × List Byte) :=
  if i = 0 then [(8, 0, [])] else if i = 0xFF then measurements v else (measurements v).filter (fun b => b.1 = i.toNat)

theorem askedBlocks_isEmpty (i : Byte) (v : Dev) : (askedBlocks i v).isEmpty = decide (8 < i.toNat ∧ i ≠ 0xFF) := by
  have hnum : (measurements v).map (·.1) = [1, 2, 3, 4, 5, 6, 7, 8] := rfl
  have hempty : ∀ n : Nat, ((measurements v).filter (fun b => b.1 = n)).isEmpty = !decide (n ∈ [1, 2, 3, 4, 5, 6, 7, 8]) := by
    intro n
    rw [← hnum, Bool.eq_iff_iff]
    simp only [List.isEmpty_iff, List.filter_eq_nil_iff, decide_eq_true_eq, Bool.not_eq_true', decide_eq_false_iff_not, List.mem_map,
      not_exists, not_and]
  unfold askedBlocks
  split
  · next h => subst h; rfl
  · next h0 =>
    split
    · next h => subst h; rfl
    · next h1 =>
      have hne : i.toNat ≠ 0 := fun h => h0 (BitVec.eq_of_toNat_eq h)
      rw [hempty, Bool.eq_iff_iff, decide_eq_true_eq, and_iff_left h1]
      simp
      omega

/-! ### Answers outside a session -/

section
variable {w : Work} (hc : configUp w.dev = true) (ha : w.dev.cxl.spdm.algorithms = true)
include hc ha

theorem getDigests_answers (ho : (getMailbox w.dev 0).object = some (.spdm .getDigests)) :
    getDigests w = onDev (spdmAnswer none (.digests (sha384 (chainOf w)))) w := by
  unfold getDigests
  exact onDev_eq ((spdmServe_answers (spdmRequest_plain ho) rfl hc (spdmExpected_algorithms rfl ha)).trans rfl)

theorem getCertificate_answers {off len : Nat} (hl : len ≤ 16368) (ho : (getMailbox w.dev 0).object = some (.spdm (.getCertificate 0 off len))) :
    getCertificate w = onDev (spdmAnswer none
      (if off < (chainOf w).length then
        .certificate (((chainOf w).drop off).take len) ((chainOf w).length - off - (((chainOf w).drop off).take len).length)
      else .error 0x01)) w := by
  unfold getCertificate
  refine onDev_eq ((spdmServe_answers (spdmRequest_plain ho) rfl hc (spdmExpected_algorithms rfl ha)).trans ?_)
  have hroom : ¬spdmRoom < (((chainOf w).drop off).take len).length := by
    rw [List.length_take, spdmRoom]
    omega
  by_cases hoff : off < (chainOf w).length
  · rw [if_neg (by simpa using hoff), if_neg hroom, if_pos hoff]
  · rw [if_pos (by simpa using hoff), if_neg hoff]

theorem challenge_answers {nonce : BitVec 256} (ho : (getMailbox w.dev 0).object = some (.spdm (.challenge 0 nonce))) :
    challenge w = onDev (fun v =>
      let a := signed v (leBytes 1 0 ++ leBytes 32 nonce.toNat)
        (fun sig => .challengeAuth (sha384 (chainOf w)).toNat ((Config.exchangeValue v.free).toNat % 2 ^ 256) sig)
      spdmAnswer none a.1 a.2) w := by
  unfold challenge
  exact onDev_eq ((spdmServe_answers (spdmRequest_plain ho) rfl hc (spdmExpected_algorithms rfl ha)).trans rfl)

end

section
variable {v : Dev} {i : Byte} {sig : Bool} {nonce : BitVec 256} (hc : configUp v = true) (ha : v.cxl.spdm.algorithms = true)
  (ho : (getMailbox v 0).object = some (.spdm (.getMeasurements i sig nonce)))
include hc ha ho

theorem getMeasurements_answers :
    getMeasurements v =
      let a := if (askedBlocks i v).isEmpty then (.error 0x01, v)
        else if sig then
          signed v (leBytes 32 nonce.toNat ++ (askedBlocks i v).flatMap (fun m => leBytes 1 m.1 ++ leBytes 1 m.2.1 ++ m.2.2))
            (fun s => .measurements (askedBlocks i v) (some s))
        else (.measurements (askedBlocks i v) none, v)
      spdmAnswer none a.1 a.2 :=
  (spdmServe_answers (spdmRequest_plain ho) rfl hc (spdmExpected_algorithms rfl ha)).trans rfl

end

/-- Settles O20: each request's answer, signed where the device has its alias key. -/
theorem spdmAnswersForTheDevice : Obligations.SpdmAnswersForTheDevice := by
  intro s hc ha
  refine ⟨fun ho => ?_, fun off len hl ho => ?_, fun nonce ho => ⟨fun hab => ?_, fun hab => ?_⟩, fun i sig nonce ho => ⟨fun hi => ?_,
    fun hi hsig => ?_, fun hi hsig => ⟨fun hab => ?_, fun hab => ?_⟩⟩⟩
  · exact (runWork_eq (getDigests_answers (w := workOf s) hc ha ho)).trans (congrArg _ (commit_workOf s _))
  · exact (runWork_eq (getCertificate_answers (w := workOf s) hc ha hl ho)).trans (congrArg _ (commit_workOf s _))
  · refine (runWork_eq (challenge_answers (w := workOf s) hc ha ho)).trans ((congrArg _ (commit_workOf s _)).trans ?_)
    exact congrArg (fun a : SpdmRsp × Dev => Host.Outcome.next { s with dev := spdmAnswer none a.1 a.2 }) (signed_able hab)
  · refine (runWork_eq (challenge_answers (w := workOf s) hc ha ho)).trans ((congrArg _ (commit_workOf s _)).trans ?_)
    exact congrArg (fun a : SpdmRsp × Dev => Host.Outcome.next { s with dev := spdmAnswer none a.1 a.2 }) (signed_unable hab)
  · refine runDev_eq ((getMeasurements_answers hc ha ho).trans ?_)
    rw [askedBlocks_isEmpty, decide_eq_true hi]
    rfl
  · refine runDev_eq ((getMeasurements_answers hc ha ho).trans ?_)
    rw [askedBlocks_isEmpty, decide_eq_false fun h => hi.elim (Nat.not_le.mpr h.1) h.2, hsig]
    rfl
  · refine runDev_eq ((getMeasurements_answers hc ha ho).trans ?_)
    rw [askedBlocks_isEmpty, decide_eq_false fun h => hi.elim (Nat.not_le.mpr h.1) h.2, hsig, signed_able hab]
    rfl
  · refine runDev_eq ((getMeasurements_answers hc ha ho).trans ?_)
    rw [askedBlocks_isEmpty, decide_eq_false fun h => hi.elim (Nat.not_le.mpr h.1) h.2, hsig, signed_unable hab]
    rfl

/-! ### Sessions -/

/-- A device whose mailbox 0 has been answered in a session, or in none, with the connection as it then is. -/
def answeredIn (sess : Option W32) (r : SpdmRsp) (c : Spdm) (v : Dev) : Dev :=
  { v with out := v.out ++ [.spdm sess r], cxl := { v.cxl with mailboxes := v.cxl.mailboxes.set 0 {}, spdm := c } }

/-- The sessions with one of them changed. -/
def sessionsWith (id : W32) (f : SpdmSession → SpdmSession) (c : Spdm) : Spdm :=
  { c with sessions := c.sessions.map (fun x => if x.id = id then f x else x) }

theorem spdmAnswer_setSpdm (sess : Option W32) (r : SpdmRsp) (f : Spdm → Spdm) (v : Dev) :
    spdmAnswer sess r (setSpdm f v) = answeredIn sess r (f v.cxl.spdm) v := rfl

section
variable {v : Dev} {id : W32} (hc : configUp v = true) (ha : v.cxl.spdm.algorithms = true)
include hc ha

theorem keyExchange_begins {rid : W16} {x : BitVec 768} (hk : v.cxl.spdm.keyAlgs = true)
    (hable : v.arm.pufOk = true ∧ v.arm.firmware = true) (ho : (getMailbox v 0).object = some (.spdm (.keyExchange rid x))) :
    let id : W32 := rid.setWidth 32 ||| (v.cxl.spdm.nextSession.setWidth 32 <<< 16)
    keyExchange v = answeredIn none
      (.keyExchangeRsp id (Config.exchangeValue v.free) (Config.aliasSignature v.arm.aliasKey (leBytes 96 x.toNat) v.free))
      { v.cxl.spdm with
        sessions := v.cxl.spdm.sessions ++ [{ id := id, established := false, reqGen := 0, rspGen := 0, beats := 0 }]
        nextSession := v.cxl.spdm.nextSession + 1 } (freeNext v) := by
  refine (spdmServe_answers (spdmRequest_plain ho) rfl hc (spdmExpected_algorithms rfl ha)).trans ?_
  conv_lhs => simp only [signed_able hable, hable.1, hable.2, hk, Bool.not_true, Bool.and_self, Bool.false_eq_true, if_false, if_true]
  exact spdmAnswer_setSpdm ..

theorem finishReq_completes (hs : ∃ x ∈ v.cxl.spdm.sessions, x.id = id ∧ x.established = false)
    (ho : (getMailbox v 0).object = some (.secured id (.finish id true))) :
    finishReq v = answeredIn (some id) .finishRsp (sessionsWith id (fun x => { x with established := true }) v.cxl.spdm) v :=
  (spdmServe_answers (spdmRequest_secured ho) rfl hc (spdmExpected_session ha hs)).trans (spdmAnswer_setSpdm ..)

variable (hs : ∃ x ∈ v.cxl.spdm.sessions, x.id = id ∧ x.established = true)
include hs

theorem keyUpdate_answers {tag : Byte} (ho : (getMailbox v 0).object = some (.secured id (.keyUpdate id 2 tag))) :
    keyUpdate v = answeredIn (some id) (.keyUpdateAck 2 tag)
      (sessionsWith id (fun x => { x with reqGen := x.reqGen + 1, rspGen := x.rspGen + 1 }) v.cxl.spdm) v := by
  refine (spdmServe_answers (spdmRequest_secured ho) rfl hc (spdmExpected_session ha hs)).trans ?_
  simp only [sessionUp_of hs]
  rfl

theorem spdmHeartbeat_answers (ho : (getMailbox v 0).object = some (.secured id (.heartbeat id))) :
    spdmHeartbeat v = answeredIn (some id) .heartbeatAck (sessionsWith id (fun x => { x with beats := x.beats + 1 }) v.cxl.spdm) v := by
  refine (spdmServe_answers (spdmRequest_secured ho) rfl hc (spdmExpected_session ha hs)).trans ?_
  simp only [sessionUp_of hs]
  rfl

theorem endSession_answers (ho : (getMailbox v 0).object = some (.secured id (.endSession id))) :
    endSession v = answeredIn (some id) .endSessionAck
      { v.cxl.spdm with sessions := v.cxl.spdm.sessions.filter (fun x => x.id ≠ id) } v := by
  refine (spdmServe_answers (spdmRequest_secured ho) rfl hc (spdmExpected_session ha hs)).trans ?_
  simp only [sessionUp_of hs]
  rfl

end

/-- Settles O21: each request of a session answered, and the sessions as it leaves them. -/
theorem spdmSessionsBeginAndEnd : Obligations.SpdmSessionsBeginAndEnd := by
  intro s hc ha said spdm change
  exact ⟨fun rid x hk hp hf ho => ⟨_, _, runDev_eq (keyExchange_begins hc ha hk ⟨hp, hf⟩ ho)⟩,
    fun id hs ho => runDev_eq (finishReq_completes hc ha hs ho),
    fun id hs => ⟨fun tag ho => runDev_eq (keyUpdate_answers hc ha hs ho), fun ho => runDev_eq (spdmHeartbeat_answers hc ha hs ho),
      fun ho => runDev_eq (endSession_answers hc ha hs ho)⟩⟩

end Sys2Proof.Machine
end

section
/-! The ordering commands (R240, R305, R328 to R330): a FENCE is a part like any other, and one that a chisel core launched needs an entry
of that core's stream table. -/

namespace Sys2Proof.Machine

open Sys2Proof

/-- A FENCE that a chisel core of cluster 0 launched. -/
def launchedFence : Desc := { id := 0, ring := 0, sub := some (0, 0), ctx := 1, cls := 8, parts := [{}] }

/-- The entries of a core 0 whose stream table is full, all of another descriptor's parts. -/
def fullStab : List StabEntry := List.replicate 32768 ⟨0, 1, 7, 0⟩

section
variable {v : Dev} (h : v.stab = fullStab)
include h

theorem stabFree_full : stabFree v 0 = none := by
  have hheld : stabHeld v 0 = List.replicate 32768 ⟨0, 1, 7, 0⟩ := by
    unfold stabHeld
    rw [h]
    exact List.filter_replicate_of_pos rfl
  unfold stabFree
  rw [hheld]
  dsimp only
  rw [List.length_replicate]
  exact if_neg (by decide)

theorem stabAny_full : v.stab.any (fun e => e.d = 0 && e.p = 0) = false := by
  rw [h, fullStab, List.any_replicate]
  decide

/-- A part that needs an entry of that table waits for one. -/
theorem stabBlocked_full {x : Desc} (hx : getDesc v 0 = some x) (hc : stabCore x 0 = some 0) : stabBlocked v 0 0 = some 0 := by
  unfold stabBlocked
  rw [hx]
  dsimp only
  rw [hc]
  dsimp only
  rw [stabFree_full h, stabAny_full h]
  rfl

end

/-- A module whose memory has its contents, with that FENCE ready and nothing before it, and core 0's stream table full. -/
def fullTable : Dev :=
  { power := { lost := .none }, ctxs := [(1, { state := 1 })], descs := [launchedFence], stab := fullStab }

/-- A FENCE whose turn has come waits where its stream table has no entry for it. -/
theorem fence_waits {d c : Nat} {x : Desc} {q : Part} {s : State} (h : startable s.dev d 0 8 = some (x, q))
    (he : earlierGone s.dev x = true) (hf : onFenced s.dev d 0 = false) (hb : stabBlocked s.dev d 0 = some c) :
    exec (.fence d) s = .next { s with dev := stabWait c (.part d 0) s.dev } := by
  have hrun : fence d (workOf s) = onDev (stabWait c (.part d 0)) (workOf s) := by
    unfold fence
    rw [show startable (workOf s).dev d 0 8 = some (x, q) from h]
    exact (if_pos he).trans (runPart_blocked (w := workOf s) hf hb)
  exact (runWork_eq hrun).trans (congrArg _ (commit_workOf s _))

theorem getDesc_stabWait (c : Nat) (who : StabIssuer) (v : Dev) (d : Nat) : getDesc (stabWait c who v) d = getDesc v d := by
  unfold stabWait
  split <;> rfl

/-- A part that runs with nothing to compute ends. -/
theorem runsPart_ends {c : Instr} {d p : Nat} {x : Desc} {q : Part} {s : State} (h : RunsPart c d p (pure ()) s)
    (hx : getDesc s.dev d = some x) (hq : x.parts[p]? = some q) (hl : s.dev.power.lost = .none) :
    ∃ t y r, exec c s = .next t ∧ getDesc t.dev d = some y ∧ y.parts[p]? = some r ∧ r.state = .ended := by
  obtain ⟨hok, -⟩ := h
  obtain ⟨t, ht, -, hended, -⟩ := hok _ rfl rfl hl ((startPart_partOnly d p s.dev).power)
  obtain ⟨hp, -⟩ := List.getElem?_eq_some_iff.mp hq
  obtain ⟨r, hr, hstate, -⟩ := hended _ _ (getDesc_startPart hx hq) (List.getElem?_set_self hp)
  exact ⟨t, _, r, ht, hr, List.getElem?_set_self (by rwa [List.length_set]), hstate⟩

/-- Refutes O43: nothing there asks that a ring issued the descriptor. A FENCE that a chisel core launched, with no descriptor before it,
does not run while that core's stream table is full; it waits for an entry. -/
theorem not_orderingCommandsRun : ¬ Obligations.OrderingCommandsRun := by
  rintro ⟨hfence, -⟩
  have hx : getDesc fullTable 0 = some launchedFence := rfl
  have hstart : startable fullTable 0 0 8 = some (launchedFence, {}) := rfl
  obtain ⟨hruns, -⟩ := hfence 0 launchedFence {} { dev := fullTable } rfl hstart
  obtain ⟨t, y, r, ht, hy, hr, hended⟩ := runsPart_ends (hruns rfl) hx rfl rfl
  obtain rfl := Host.Outcome.next.inj ((fence_waits (s := { dev := fullTable }) hstart rfl rfl (stabBlocked_full rfl rfl rfl)).symm.trans ht)
  obtain rfl : launchedFence = y := Option.some.inj (hx.symm.trans ((getDesc_stabWait ..).symm.trans hy))
  obtain rfl : ({} : Part) = r := Option.some.inj hr
  exact absurd hended (by decide)

end Sys2Proof.Machine
end
section
/-! Doorbell lines (R303 to R305, R316 to R319): how a line's data move the tails of the rings that name it, or stop a ring. -/

namespace Sys2Proof.Machine

open Sys2Proof

/-! ### The rings that name a line -/

/-- A ring that is enabled, host-fed and names a line (R317). -/
def namesLine (i : Nat) (x : Ring) : Bool := x.enable && x.mode = 0 && x.dbLine.toNat = i

theorem namesLine_iff {i : Nat} {x : Ring} : namesLine i x = true ↔ x.enable = true ∧ x.mode = 0 ∧ x.dbLine.toNat = i := by
  simp [namesLine, and_assoc]

theorem namesLine_ne {i : Nat} {x : Ring} (h : namesLine i x = true) : x ≠ {} := by
  rintro rfl
  obtain ⟨he, -⟩ := namesLine_iff.mp h
  cases he

/-- A slot of a line is within its ring's range (R305). -/
def slotInRange (line : BitVec 512) (x : Ring) : Prop :=
  (slotTail line x.dbSlot.toNat - x.head).toNat ≤ 2 ^ x.sizeLog2.toNat ∧
    (x.cqWritten - slotCqHead line x.dbSlot.toNat).toNat ≤ 2 ^ x.cqLog2.toNat

/-- A ring that takes its slot of a line (R317). -/
def slotTaken (line : BitVec 512) (x : Ring) : Ring :=
  settle { x with tail := slotTail line x.dbSlot.toNat, cqHead := slotCqHead line x.dbSlot.toNat }

theorem takeSlot_taken {r : Nat} {line : BitVec 512} {v : Dev} (h : slotInRange line (getRing v r)) :
    takeSlot r line v = setRing r (slotTaken line (getRing v r)) v := by
  obtain ⟨ht, hc⟩ := h
  exact if_neg (by simp only [Bool.or_eq_true, decide_eq_true_eq]; omega)

theorem takeSlot_outOfRange {r : Nat} {line : BitVec 512} {v : Dev} (h : ¬slotInRange line (getRing v r))
    (he : (getRing v r).enable = true) (h3 : (getRing v r).state ≠ 3) : takeSlot r line v = stopRing r 1 v := by
  refine (if_pos ?_).trans (if_pos (by rw [he, decide_eq_true h3]; rfl))
  simp only [slotInRange, not_and_or, Nat.not_le] at h
  simpa using h

/-- The keys of a canonical table are distinct. -/
theorem tabWfFrom_keys {α : Type} [DecidableEq α] {d : α} : ∀ {t : Tab α} {lo : Nat}, tabWfFrom d lo t = true →
    (∀ c ∈ t, lo ≤ c.1) ∧ (t.map (·.1)).Nodup
  | [], _, _ => ⟨by simp, List.nodup_nil⟩
  | (k, v) :: t, lo, hw => by
    simp only [tabWfFrom, Bool.and_eq_true, decide_eq_true_eq] at hw
    obtain ⟨⟨hlo, -⟩, ht⟩ := hw
    obtain ⟨hle, hnd⟩ := tabWfFrom_keys ht
    refine ⟨fun c hc => ?_, ?_⟩
    · rcases List.mem_cons.mp hc with rfl | hc
      · exact hlo
      · exact (Nat.le_succ_of_le hlo).trans (hle c hc)
    · refine List.nodup_cons.mpr ⟨fun hm => ?_, hnd⟩
      obtain ⟨c, hc, hk⟩ := List.mem_map.mp hm
      have hck : c.1 = k := hk
      have := hle c hc
      omega

/-- What a canonical table reads as a value other than its default it lists. -/
theorem mem_of_tabGet {α : Type} [DecidableEq α] {d : α} {k : Nat} : ∀ {t : Tab α}, tabGet d t k ≠ d → (k, tabGet d t k) ∈ t
  | [], h => absurd rfl h
  | (j, u) :: t, h => by
    by_cases hk : k = j
    · rw [tabGet_cons, if_pos hk, hk]
      exact List.mem_cons_self ..
    · rw [tabGet_cons, if_neg hk] at h ⊢
      exact List.mem_cons_of_mem _ (mem_of_tabGet h)

/-- The numbers of the rings that name a line. -/
def lineRings (i : Nat) (v : Dev) : List Nat := (v.rings.filter (fun c => namesLine i c.2)).map (·.1)

theorem takeLine_eq (i : Nat) (line : BitVec 512) (v : Dev) :
    takeLine i line v = (lineRings i v).foldl (fun v r => takeSlot r line v) v := rfl

theorem lineRings_nodup {i : Nat} {v : Dev} (hw : tabWf {} v.rings = true) : (lineRings i v).Nodup :=
  ((tabWfFrom_keys hw).2.sublist (List.filter_sublist.map _))

theorem mem_lineRings {i r : Nat} {v : Dev} (hw : tabWf {} v.rings = true) : r ∈ lineRings i v ↔ namesLine i (getRing v r) = true := by
  constructor
  · intro h
    obtain ⟨c, hc, rfl⟩ := List.mem_map.mp h
    obtain ⟨hc, hn⟩ := List.mem_filter.mp hc
    rwa [getRing, (tabGet_of_mem hw hc).2]
  · intro h
    exact List.mem_map.mpr ⟨_, List.mem_filter.mpr ⟨mem_of_tabGet (namesLine_ne h), h⟩, rfl⟩

/-- Rings whose slots of a line are in range all take them, and nothing else changes (R317). -/
theorem foldl_takeSlot {line : BitVec 512} : ∀ (l : List Nat) (v : Dev), l.Nodup → tabWf {} v.rings = true →
    (∀ r ∈ l, slotInRange line (getRing v r)) →
    ∃ rings, l.foldl (fun v r => takeSlot r line v) v = { v with rings := rings } ∧
      ∀ r, tabGet {} rings r = if r ∈ l then slotTaken line (getRing v r) else getRing v r
  | [], v, _, _, _ => ⟨v.rings, rfl, fun _ => rfl⟩
  | k :: l, v, hnd, hw, hin => by
    obtain ⟨hk, hnd⟩ := List.nodup_cons.mp hnd
    have hother : ∀ r, r ≠ k → getRing (setRing k (slotTaken line (getRing v k)) v) r = getRing v r := fun r hr =>
      getRing_setRing_other k r _ v hr
    obtain ⟨rings, hfold, hget⟩ := foldl_takeSlot l (setRing k (slotTaken line (getRing v k)) v) hnd (tabPut_wf _ _ _ _ hw) fun r hr => by
      rw [hother r fun he => hk (he ▸ hr)]
      exact hin r (List.mem_cons_of_mem _ hr)
    refine ⟨rings, ?_, fun r => ?_⟩
    · rw [List.foldl_cons, takeSlot_taken (hin k (List.mem_cons_self ..)), hfold]
      rfl
    · rw [hget]
      by_cases hr : r = k
      · subst hr
        rw [if_neg hk, if_pos (List.mem_cons_self ..), getRing_setRing_same _ _ _ hw]
      · rw [hother r hr]
        simp only [List.mem_cons, hr, false_or]

/-- The rings once a line's data are taken: those that name it have its slots (R317). -/
def RingsTook (i : Nat) (line : BitVec 512) (v : Dev) (rings : Tab Ring) : Prop :=
  ∀ r, tabGet {} rings r = if namesLine i (getRing v r) then slotTaken line (getRing v r) else getRing v r

theorem takeLine_takes {i : Nat} {line : BitVec 512} {v : Dev} (hw : tabWf {} v.rings = true)
    (hin : ∀ c ∈ v.rings, namesLine i c.2 = true → slotInRange line c.2) :
    ∃ rings, takeLine i line v = { v with rings := rings } ∧
      RingsTook i line v rings := by
  obtain ⟨rings, hfold, hget⟩ := foldl_takeSlot (line := line) (lineRings i v) v (lineRings_nodup hw) hw fun r hr => by
    have hn := (mem_lineRings hw).mp hr
    exact hin (r, getRing v r) (mem_of_tabGet (namesLine_ne hn)) hn
  refine ⟨rings, hfold, fun r => ?_⟩
  rw [hget, if_congr (mem_lineRings hw) rfl rfl]

/-- Where one ring alone names a line, it alone is compared. -/
theorem takeLine_one {i r : Nat} {line : BitVec 512} {v : Dev} (hw : tabWf {} v.rings = true) (hr : namesLine i (getRing v r) = true)
    (hone : ∀ q, namesLine i (getRing v q) = true → q = r) : takeLine i line v = takeSlot r line v := by
  have hlist : lineRings i v = [r] := by
    have hperm : List.Perm (lineRings i v) [r] := (List.perm_ext_iff_of_nodup (lineRings_nodup hw) (List.nodup_singleton r)).mpr fun q => by
      rw [mem_lineRings hw, List.mem_singleton]
      exact ⟨hone q, fun h => h ▸ hr⟩
    exact List.perm_singleton.mp hperm
  rw [takeLine_eq, hlist]
  rfl

/-! ### A line read again after a link reset (R295) -/

theorem raise_cxl (code ctx : Nat) (payload : List Byte) (v : Dev) : (raise code ctx payload v).cxl = v.cxl := by rw [raise_only]

theorem raise_rings (code ctx : Nat) (payload : List Byte) (v : Dev) : (raise code ctx payload v).rings = v.rings := by rw [raise_only]

theorem resetsTold_rings (v : Dev) : (resetsTold v).rings = v.rings := by
  unfold resetsTold
  split
  · exact foldl_same (g := Dev.rings) (fun v _ => by rw [raise_only]; rfl) _ _
  · rfl

theorem lineReread_rings (i : Nat) (v : Dev) : (lineReread i v).rings = v.rings := by
  unfold lineReread
  split
  · exact resetsTold_rings _
  · rfl

theorem resetsTold_cacheEn (v : Dev) : (resetsTold v).cxl.cacheEn = v.cxl.cacheEn := by
  unfold resetsTold
  split
  · exact foldl_same (g := fun v => v.cxl.cacheEn) (fun v _ => by rw [raise_only]; rfl) _ _
  · rfl

theorem lineReread_cacheEn (i : Nat) (v : Dev) : (lineReread i v).cxl.cacheEn = v.cxl.cacheEn := by
  unfold lineReread
  split
  · exact resetsTold_cacheEn _
  · rfl

section
variable {i : Nat} {v : Dev} (hl : v.cxl.linkUp = true)
include hl

theorem lineReread_more (h : ∃ j ∈ v.cxl.rereads, j ≠ i) :
    lineReread i v = { v with cxl := { v.cxl with rereads := v.cxl.rereads.filter (fun j => j ≠ i) } } := by
  obtain ⟨j, hj, hne⟩ := h
  refine (if_pos hl).trans (resetsTold_untold (.inl ?_))
  exact List.ne_nil_of_mem (List.mem_filter.mpr ⟨hj, decide_eq_true hne⟩)

theorem lineReread_last (hr : v.cxl.rereads = [i]) (hd : v.cxl.resetsDue = 1) :
    lineReread i v = raise 0x0005 0 [satAdd v.cxl.linkResets 1]
      { v with cxl := { v.cxl with rereads := [], resetsDue := 0, linkResets := satAdd v.cxl.linkResets 1 } } := by
  have hnone : v.cxl.rereads.filter (fun j => j ≠ i) = [] := by simp [hr]
  have hread : setCxl (fun c => { c with rereads := c.rereads.filter (fun j => j ≠ i) }) v = { v with cxl := { v.cxl with rereads := [] } } :=
    congrArg (fun l => { v with cxl := { v.cxl with rereads := l } }) hnone
  exact ((if_pos hl).trans (congrArg resetsTold hread)).trans (resetsTold_once rfl hd)

section
variable (hr : v.cxl.rereads = [i]) (hd : v.cxl.resetsDue = 1)
include hr hd

theorem lineReread_seq : (lineReread i v).attn.seq = v.attn.seq + 1 := by
  rw [lineReread_last hl hr hd]
  exact raise_seq ..

theorem lineReread_cxl : (lineReread i v).cxl =
    { v.cxl with rereads := [], resetsDue := 0, linkResets := satAdd v.cxl.linkResets 1 } := by
  rw [lineReread_last hl hr hd]
  exact raise_cxl ..

theorem lineReread_held (hroom : attnHeld v.attn < 64) : (lineReread i v).attn.held =
    v.attn.held ++ [⟨v.pace.time, 0x0005, 0, v.attn.seq, [satAdd v.cxl.linkResets 1]⟩] := by
  rw [lineReread_last hl hr hd, raise_attn_eq]
  exact congrArg Attn.held (if_pos hroom)

end

end

/-! ### DB_LINE (R316) -/

theorem emit_ite (b : Bool) (o : Out) (v : Dev) : (if b then emit o v else v) = { v with out := v.out ++ if b then [o] else [] } := by
  cases b with
  | true => rfl
  | false => exact congrArg (fun l => { v with out := l }) (List.append_nil _).symm

theorem dbWrite_registers {i : Nat} {x : W64} {v : Dev} (hv : (getDb v i).valid = false) (hc : v.cxl.cacheEn = true)
    (hl : v.cxl.linkUp = true) : dbWrite i ⟨true, true, x ||| 1⟩ v =
      emit (.rdShared i) (setDb i { getDb v i with addr := (x >>> 6).setWidth 46, valid := true, held := false, polled := false } v) := by
  have hon : bitAt 0 (x ||| 1) = true := (bitAt_orOne x).trans (Bool.or_true _)
  have haddr : fld 46 6 (x ||| 1) = (x >>> 6).setWidth 46 := by
    apply BitVec.eq_of_getLsbD_eq
    intro k hk
    have hne : (1#64).getLsbD (6 + k) = false := by simp
    simp [fld, hne]
  unfold dbWrite
  simp only [merge_wide, hv, hon, haddr, if_true, Bool.not_false]
  exact (if_pos hc).trans (if_pos hl)

theorem dbWrite_releases {i : Nat} {v : Dev} (hv : (getDb v i).valid = true) (hr : ∀ c ∈ v.rings, namesLine i c.2 = false) :
    let u := lineReread i (setDb i { getDb v i with valid := false, held := false, polled := false, data := 0 } v)
    dbWrite i ⟨true, false, 0⟩ v = if (getDb v i).held then emit (.cleanEvict i) u else u := by
  have hoff : bitAt 0 (Bar.merge ⟨true, false, 0⟩ (placeB 0 (getDb v i).valid ||| place 6 (getDb v i).addr)) = false := by
    simp [Bar.merge, bitAt]
  have hnone : v.rings.any (fun c => c.2.enable && c.2.mode = 0 && c.2.dbLine.toNat = i) = false :=
    List.any_eq_false.mpr fun c hc => Bool.eq_false_iff.mp (hr c hc)
  unfold dbWrite
  simp only [hoff, if_true]
  rw [hv, hnone]
  rfl

/-! ### A line's data (R317, R319) -/

section
variable {i : Nat} {line : BitVec 512} {v : Dev}

theorem doorbellData_takes (hv : (getDb v i).valid = true) (hh : (getDb v i).held = false) (hc : v.cxl.cacheEn = true)
    (hl : v.cxl.linkUp = true) : doorbellData i line true v =
      lineReread i (takeLine i line (setDb i { getDb v i with held := true, polled := false, data := line } v)) := by
  unfold doorbellData
  simp [hv, hh, hc, hl]

theorem doorbellData_refused (hv : (getDb v i).valid = true) (hh : (getDb v i).held = false) (hc : v.cxl.cacheEn = true)
    (hl : v.cxl.linkUp = true) : doorbellData i line false v = setDb i { getDb v i with polled := true } v := by
  unfold doorbellData
  simp [hv, hh, hc, hl]

/-- The device as a poll of a line finds it, counted (R319). -/
def polledDev (i : Nat) (v : Dev) : Dev := ctrAdd 0x3FF 4 1 (emit (.dbRead i) (timerMark (tmPoll i) v))

theorem doorbellPoll_takes {rings : Tab Ring} (hv : (getDb v i).valid = true) (hl : v.cxl.linkUp = true) (hc : v.cxl.cacheEn = false)
    (ht : timerDue v (tmPoll i) v.attn.pollInterval.toNat = true)
    (htake : takeLine i line (polledDev i v) = { polledDev i v with rings := rings }) :
    doorbellPoll i line true v = lineReread i { polledDev i v with rings := rings } := by
  have hoff : (lineReread i { polledDev i v with rings := rings }).cxl.cacheEn = false := (lineReread_cacheEn ..).trans hc
  have hpoll : doorbellPoll i line true v =
      if (getDb v i).polled && (lineReread i (takeLine i line (polledDev i v))).cxl.cacheEn then
        emit (.rdShared i) (lineReread i (takeLine i line (polledDev i v)))
      else lineReread i (takeLine i line (polledDev i v)) := by
    unfold doorbellPoll
    exact if_neg (by simp [hv, hl, hc, ht])
  rw [hpoll, htake, hoff]
  exact if_neg (by simp)

end

/-- A ring stopped by an error changes alone, but for what its fetches wait for and what tells of it (R305, R322). -/
theorem stopRing_eq {r : Nat} (err : Nat) {v : Dev} (hw : tabWf {} v.rings = true) : stopRing r err v =
    raise 0x0006 (getRing v r).ctx.toNat (leBytes 2 r ++ leBytes 1 err) { v with
      rings := tabPut {} v.rings r { getRing v r with state := 3, err := BitVec.ofNat 3 err }
      stabWaits := v.stabWaits.filter (fun k => k ≠ .fetch r) } := by
  have hwaits : v.stabWaits.filter (fun k => !fetchOf (fun q => q = r) k) = v.stabWaits.filter (fun k => k ≠ .fetch r) :=
    List.filter_congr fun k _ => by cases k <;> simp [fetchOf]
  have hforget : stabForget (fetchOf (fun q => q = r)) (modRing r (fun x => { x with state := 3, err := BitVec.ofNat 3 err }) v) = { v with
      rings := tabPut {} v.rings r { getRing v r with state := 3, err := BitVec.ofNat 3 err }
      stabWaits := v.stabWaits.filter (fun k => k ≠ .fetch r) } :=
    congrArg (fun l => { v with rings := tabPut {} v.rings r { getRing v r with state := 3, err := BitVec.ofNat 3 err }, stabWaits := l }) hwaits
  have hctx : (getRing (modRing r (fun x => { x with state := 3, err := BitVec.ofNat 3 err }) v) r).ctx = (getRing v r).ctx :=
    (congrArg Ring.ctx (getRing_setRing_same r _ v hw) :)
  unfold stopRing
  rw [hforget, raiseRingError]
  exact congrArg (fun c : BitVec 6 => raise 0x0006 c.toNat (leBytes 2 r ++ leBytes 1 err) _) hctx

theorem doorbellSnoop_held {i : Nat} {v : Dev} (hv : (getDb v i).valid = true) (hh : (getDb v i).held = true)
    (hc : v.cxl.cacheEn = true) (hl : v.cxl.linkUp = true) :
    doorbellSnoop i v = ctrAdd 0x3FF 3 1 (emit (.rdShared i) (emit (.snoopAnswer i) (setDb i { getDb v i with held := false } v))) := by
  unfold doorbellSnoop
  simp [hv, hh, hc, hl]

/-! ### The obligation -/

/-- What a line's data taken leave to tell of a link reset (R295): nothing while another line is to be read again, and else the reset
counted and its event. -/
theorem lineReread_tells {i : Nat} {v u : Dev} (hl : v.cxl.linkUp = true) (hc : u.cxl = v.cxl) (ha : u.attn = v.attn)
    (hp : u.pace = v.pace) :
    ((∃ j ∈ v.cxl.rereads, j ≠ i) → (lineReread i u).attn = v.attn ∧
      (lineReread i u).cxl = { v.cxl with rereads := v.cxl.rereads.filter (fun j => j ≠ i) }) ∧
    (v.cxl.rereads = [i] → v.cxl.resetsDue = 1 → (lineReread i u).attn.seq = v.attn.seq + 1 ∧
      (lineReread i u).cxl = { v.cxl with rereads := [], resetsDue := 0, linkResets := satAdd v.cxl.linkResets 1 } ∧
      (attnHeld v.attn < 64 → (lineReread i u).attn.held = v.attn.held ++
        [⟨v.pace.time, 0x0005, 0, v.attn.seq, [satAdd v.cxl.linkResets 1]⟩])) := by
  have hlu : u.cxl.linkUp = true := by rw [hc, hl]
  rw [← hc, ← ha, ← hp]
  refine ⟨fun h => ?_, fun hr hd => ?_⟩
  · rw [lineReread_more hlu h]
    exact ⟨rfl, rfl⟩
  · exact ⟨lineReread_seq hlu hr hd, lineReread_cxl hlu hr hd, lineReread_held hlu hr hd⟩

/-- The line registered once its data have come. -/
def lineHeld (i : Nat) (line : BitVec 512) (v : Dev) : Dev := setDb i { getDb v i with held := true, polled := false, data := line } v

/-- Data out of range of the one ring that names the line stop it (R305). -/
theorem doorbellData_stops {i r : Nat} {line : BitVec 512} {v : Dev} (hw : tabWf {} v.rings = true) (hv : (getDb v i).valid = true)
    (hh : (getDb v i).held = false) (hc : v.cxl.cacheEn = true) (hl : v.cxl.linkUp = true) (hn : namesLine i (getRing v r) = true)
    (h3 : (getRing v r).state ≠ 3) (hone : ∀ q, namesLine i (getRing v q) = true → q = r) (hout : ¬slotInRange line (getRing v r)) :
    doorbellData i line true v = lineReread i (raise 0x0006 (getRing v r).ctx.toNat (leBytes 2 r ++ leBytes 1 1) { lineHeld i line v with
      rings := tabPut {} v.rings r { getRing v r with state := 3, err := 1 }
      stabWaits := v.stabWaits.filter (fun k => k ≠ .fetch r) }) := by
  have htake : takeLine i line (lineHeld i line v) = stopRing r 1 (lineHeld i line v) :=
    (takeLine_one (v := lineHeld i line v) hw hn hone).trans
      (takeSlot_outOfRange (v := lineHeld i line v) hout (namesLine_iff.mp hn).1 h3)
  exact (doorbellData_takes hv hh hc hl).trans (congrArg (lineReread i) (htake.trans (stopRing_eq 1 (v := lineHeld i line v) hw)))

section
variable {i : Fin 4096} {line : BitVec 512} {s : State} (hw : tabWf {} s.dev.rings = true) (hv : (getDb s.dev i.val).valid = true)
  (hl : s.dev.cxl.linkUp = true) (hin : ∀ c ∈ s.dev.rings, namesLine i.val c.2 = true → slotInRange line c.2)
include hw hv hl hin

theorem exec_doorbellData_takes (hh : (getDb s.dev i.val).held = false) (hc : s.dev.cxl.cacheEn = true) :
    ∃ rings, exec (.doorbellData i line true) s =
      .next { s with dev := lineReread i.val { lineHeld i.val line s.dev with rings := rings } } ∧ RingsTook i.val line s.dev rings := by
  obtain ⟨rings, htake, hget⟩ := takeLine_takes (v := lineHeld i.val line s.dev) hw hin
  exact ⟨rings, runDev_eq ((doorbellData_takes hv hh hc hl).trans (congrArg (lineReread i.val) htake)), hget⟩

theorem exec_doorbellPoll_takes (hc : s.dev.cxl.cacheEn = false)
    (ht : timerDue s.dev (tmPoll i.val) s.dev.attn.pollInterval.toNat = true) :
    ∃ rings, exec (.doorbellPoll i line true) s =
      .next { s with dev := lineReread i.val { polledDev i.val s.dev with rings := rings } } ∧ RingsTook i.val line s.dev rings := by
  obtain ⟨rings, htake, hget⟩ := takeLine_takes (v := polledDev i.val s.dev) hw hin
  exact ⟨rings, runDev_eq (doorbellPoll_takes hv hl hc ht htake), hget⟩

end

/-- Settles O40: each write of DB_LINE, each datum of a line, and a snoop. -/
theorem doorbellsMoveTheTails : Obligations.DoorbellsMoveTheTails := by
  refine ⟨fun i w s hs hv hc hl => ?_, fun i ide s hs hv hr => ?_, fun i r line s hw hv hh hc hl => ?_, fun i s hv hh hc hl => ?_,
    fun i line s hw hv hl => ?_, fun i line s hv hh hc hl => runDev_eq (doorbellData_refused hv hh hc hl)⟩
  · exact (runWork_guarded_lands _ hs).trans (congrArg (fun v => Host.Outcome.next { s with dev := v }) (dbWrite_registers hv hc hl))
  · refine (runWork_guarded_lands _ hs).trans (congrArg (fun v => Host.Outcome.next { s with dev := v }) ((dbWrite_releases hv ?_).trans ?_))
    · exact fun c hcm => Bool.eq_false_iff.mpr (mt namesLine_iff.mp (hr c hcm))
    · exact emit_ite ..
  · intro x named hn h3 hone hout
    have hrun := doorbellData_stops (line := line) hw hv hh hc hl (namesLine_iff.mpr hn) h3 (fun q hq => hone q (namesLine_iff.mp hq))
      fun ⟨htail, hcq⟩ => hout.elim (Nat.not_lt.mpr htail) (Nat.not_lt.mpr hcq)
    have hrings := (congrArg Dev.rings hrun).trans ((lineReread_rings ..).trans (raise_rings ..))
    refine ⟨_, runDev_eq hrun, ?_, fun q hq => ?_, ?_⟩
    · rw [← hrun, getRing, hrings]
      exact tabGet_tabPut_same _ _ _ _ hw
    · rw [← hrun, getRing, hrings]
      exact tabGet_tabPut_other _ _ _ _ _ hq
    · rw [← hrun, hrings, hrun]
      rfl
  · refine ⟨_, runDev_eq (doorbellSnoop_held hv hh hc hl), ?_⟩
    simp only [ctrAdd, emit, List.append_assoc, List.singleton_append]
    rfl
  · intro mine inRange took told hin
    have hmine : ∀ x, namesLine i.val x = true ↔ mine x := fun x => namesLine_iff
    have htook : ∀ {u : Dev} {rings : Tab Ring}, RingsTook i.val line s.dev rings →
        took { s with dev := lineReread i.val { u with rings := rings } } := by
      intro u rings hget r
      have hr : getRing (lineReread i.val { u with rings := rings }) r = tabGet {} rings r := by rw [getRing, lineReread_rings]
      rw [hr, hget]
      exact ⟨fun hm => if_neg (mt (hmine _).mp hm), fun hm => if_pos ((hmine _).mpr hm)⟩
    have hin : ∀ c ∈ s.dev.rings, namesLine i.val c.2 = true → slotInRange line c.2 := fun c hcm hn => hin c hcm ((hmine _).mp hn)
    refine ⟨fun hh hc => ?_, fun hc ht => ?_⟩
    · obtain ⟨rings, hx, hget⟩ := exec_doorbellData_takes hw hv hl hin hh hc
      refine ⟨_, hx, htook hget, lineReread_tells hl rfl rfl rfl, ?_⟩
      rw [lineReread_rings]
      rfl
    · obtain ⟨rings, hx, hget⟩ := exec_doorbellPoll_takes hw hv hl hin hc ht
      refine ⟨_, hx, htook hget, lineReread_tells hl rfl rfl rfl, ?_⟩
      rw [lineReread_rings]
      rfl

end Sys2Proof.Machine
end
section
/-! Sensors (R458, R482 to R484, R501, R502): the sources that can warn, their next states, and the events that tell of them. -/

namespace Sys2Proof.Machine

open Sys2Proof

/-! ### Warn bits -/

/-- The numbers of the sources that can warn: fields, stacks and power stages (R484). -/
def warnKeys : List Nat := upto 4 ++ (upto 20).map (0x10 + ·) ++ (upto 2).map (0x30 + ·)

theorem warnSources_keys (s : Sns) : (warnSources s).map (·.1) = warnKeys := by
  simp [warnSources, warnKeys, Function.comp_def]

theorem warnKeys_nodup : warnKeys.Nodup := by decide

theorem warnKeys_range {k : Nat} (h : k ∈ warnKeys) : k < 4 ∨ 0x10 ≤ k ∧ k < 0x24 ∨ 0x30 ≤ k ∧ k < 0x32 := by
  revert k
  decide

theorem getLsbD_putBit {w : Nat} (b : Bool) (x : BitVec w) {i j : Nat} (hi : i < w) (hj : j < w) :
    (if b then x ||| (1#w <<< i) else x &&& ~~~(1#w <<< i)).getLsbD j = if j = i then b else x.getLsbD j := by
  have hbit : (1#w <<< i).getLsbD j = decide (j = i) := by
    rw [← BitVec.twoPow_eq, BitVec.getLsbD_twoPow]
    simp [hi, eq_comm]
  cases b with
  | true => rw [if_pos rfl, BitVec.getLsbD_or, hbit]; by_cases h : j = i <;> simp [h]
  | false => rw [if_neg Bool.false_ne_true, BitVec.getLsbD_and, BitVec.getLsbD_not, hbit]; by_cases h : j = i <;> simp [h, hj]

theorem warnBit_setWarnBit {src k : Nat} (b : Bool) (s : Sns) (hs : src ∈ warnKeys) (hk : k ∈ warnKeys) :
    warnBit (setWarnBit src b s) k = if k = src then b else warnBit s k := by
  have hs := warnKeys_range hs
  have hk := warnKeys_range hk
  unfold setWarnBit warnBit
  dsimp only
  by_cases h1 : src < 4
  · rw [if_pos h1]
    by_cases h2 : k < 4
    · simp only [if_pos h2]; exact getLsbD_putBit b _ h1 h2
    · simp only [if_neg h2]; exact (if_neg (by omega)).symm
  · rw [if_neg h1]
    by_cases h3 : src < 0x30
    · rw [if_pos h3]
      by_cases h2 : k < 4
      · simp only [if_pos h2]; exact (if_neg (by omega)).symm
      · by_cases h4 : k < 0x30
        · simp only [if_neg h2, if_pos h4]
          rw [getLsbD_putBit b _ (by omega) (by omega)]
          exact if_congr (by omega) rfl rfl
        · simp only [if_neg h2, if_neg h4]; exact (if_neg (by omega)).symm
    · rw [if_neg h3]
      by_cases h2 : k < 4
      · simp only [if_pos h2]; exact (if_neg (by omega)).symm
      · by_cases h4 : k < 0x30
        · simp only [if_neg h2, if_pos h4]; exact (if_neg (by omega)).symm
        · simp only [if_neg h2, if_neg h4]
          rw [getLsbD_putBit b _ (by omega) (by omega)]
          exact if_congr (by omega) rfl rfl

/-- The sampled part of the sensors: everything but the warn bits and the stamp. -/
def unwarned (s : Sns) : Sns := { s with warnField := 0, warnStack := 0, warnPwr := 0, update := 0 }

theorem setWarnBit_unwarned (src : Nat) (b : Bool) (s : Sns) : unwarned (setWarnBit src b s) = unwarned s := by
  unfold setWarnBit
  dsimp only
  split
  · rfl
  · split <;> rfl

/-- Writing the bits of sources with distinct numbers: each takes its own, and no other changes. -/
theorem warnBits_written {next : Nat × Int × Option Int → Bool} : ∀ (l : List (Nat × Int × Option Int)) (s : Sns),
    (l.map (·.1)).Nodup → (∀ c ∈ l, c.1 ∈ warnKeys) →
    (∀ c ∈ l, warnBit (l.foldl (fun s c => setWarnBit c.1 (next c) s) s) c.1 = next c) ∧
    (∀ k ∈ warnKeys, k ∉ l.map (·.1) → warnBit (l.foldl (fun s c => setWarnBit c.1 (next c) s) s) k = warnBit s k)
  | [], _, _, _ => ⟨fun _ h => (List.not_mem_nil h).elim, fun _ _ _ => rfl⟩
  | a :: l, s, hn, hk => by
    obtain ⟨ha, hn⟩ := List.nodup_cons.mp hn
    have hka : a.1 ∈ warnKeys := hk a List.mem_cons_self
    obtain ⟨hin, hout⟩ := warnBits_written (next := next) l (setWarnBit a.1 (next a) s) hn
      fun c hc => hk c (List.mem_cons_of_mem _ hc)
    constructor
    · intro c hc
      rcases List.mem_cons.mp hc with rfl | hc
      · exact (hout _ hka ha).trans ((warnBit_setWarnBit _ _ hka hka).trans (if_pos rfl))
      · exact hin c hc
    · intro k hkk hkl
      rw [List.map_cons, List.mem_cons, not_or] at hkl
      exact (hout k hkk hkl.2).trans ((warnBit_setWarnBit _ _ hka hkk).trans (if_neg hkl.1))

/-! ### One update -/

/-- The sources with a working sensor. -/
def liveSources (s : Sns) : List (Nat × Int × Option Int) := (warnSources s).filter (fun c => c.2.2.isSome)

/-- All readings of one sampling, with the hottest field's (R501, R502). -/
def sensed (r : Readings) (v : Sns) : Sns :=
  let s := { v with
    tj := maskFailed v 0 r.tj 16, tstack := maskFailed v 16 r.tstack 20, tpwr := maskFailed v 36 r.tpwr 2
    vin := r.vin, iin := r.iin, rails := (upto 7).map (fun i => r.rails.getD i 0) }
  match hottest s with
  | some (t, f) => { s with hotTemp := reading t, hotField := BitVec.ofNat 2 f }
  | none => s

/-- A source's next warn bit (R482). -/
def nextBit (old s : Sns) (c : Nat × Int × Option Int) : Bool :=
  warnNext (warnBit old c.1) (allFallen old (liveSources s)) (c.2.2.getD 0) c.2.1

/-- The readings of one sampling with the warn bits that follow from them. -/
def rewarned (old s : Sns) : Sns := (liveSources s).foldl (fun w c => setWarnBit c.1 (nextBit old s c) w) s

/-- The device with an update's readings, before the events that tell of it. -/
def updated (r : Readings) (v : Dev) : Dev :=
  let s := rewarned v.sns (sensed r v.sns)
  timerMark tmSensor { v with
    sns := { s with update := now v }
    power := { v.power with
      hot := !allCool s
      railsUp := v.power.railsUp || (v.power.state = .start && !v.power.perstLow && !(!allCool s)) } }

/-- The event of a source whose bit changes. -/
def tellWarn (old s : Sns) (w : Dev) (c : Nat × Int × Option Int) : Dev :=
  if nextBit old s c = warnBit old c.1 then w
  else raiseThermal (b2n (!nextBit old s c)) c.1 (reading (c.2.2.getD 0)) w

theorem sensorUpdate_eq (r : Readings) (v : Dev) (ho : v.power.state ≠ .off) (hd : timerDue v tmSensor 10000 = true) :
    sensorUpdate r v = (liveSources (sensed r v.sns)).foldl (tellWarn v.sns (sensed r v.sns)) (updated r v) := by
  unfold sensorUpdate
  rw [if_neg (by simp [ho, hd])]
  rfl

/-- What depends on the sampling alone does not see the warn bits. -/
theorem rewarned_unwarned (old s : Sns) : unwarned (rewarned old s) = unwarned s := by
  unfold rewarned
  generalize liveSources s = l
  generalize nextBit old s = next
  suffices ∀ w, unwarned (l.foldl (fun w c => setWarnBit c.1 (next c) w) w) = unwarned w from this s
  induction l with
  | nil => exact fun _ => rfl
  | cons a l ih => exact fun w => (ih _).trans (setWarnBit_unwarned ..)

theorem warnSources_unwarned (s : Sns) : warnSources (unwarned s) = warnSources s := rfl

theorem allCool_unwarned (s : Sns) : allCool (unwarned s) = allCool s := rfl

theorem sensed_failed (r : Readings) (v : Sns) : (sensed r v).failed = v.failed := by
  unfold sensed; dsimp only; split <;> rfl

theorem sensed_readings (r : Readings) (v : Sns) : (sensed r v).tj = maskFailed v 0 r.tj 16 ∧
    (sensed r v).tstack = maskFailed v 16 r.tstack 20 ∧ (sensed r v).tpwr = maskFailed v 36 r.tpwr 2 := by
  unfold sensed; dsimp only; split <;> exact ⟨rfl, rfl, rfl⟩

theorem sensed_warnBit (r : Readings) (v : Sns) (k : Nat) : warnBit (sensed r v) k = warnBit v k := by
  unfold sensed; dsimp only; split <;> rfl

theorem maskFailed_getElem? (s : Sns) (o : Nat) (l : List W16) (n : Nat) {i : Nat} (hi : i < n) :
    (maskFailed s o l n)[i]? = some (if s.failed.getLsbD (o + i) then 0x8000 else l.getD i 0) := by
  simp [maskFailed, upto, hi, sensorFailed, failedReading]

theorem liveSources_keys_nodup (s : Sns) : ((liveSources s).map (·.1)).Nodup :=
  List.Nodup.sublist ((List.filter_sublist).map _) (warnSources_keys s ▸ warnKeys_nodup)

theorem warnSources_key {s : Sns} {c : Nat × Int × Option Int} (h : c ∈ warnSources s) : c.1 ∈ warnKeys :=
  warnSources_keys s ▸ List.mem_map_of_mem h

theorem liveSources_key {s : Sns} {c : Nat × Int × Option Int} (h : c ∈ liveSources s) : c.1 ∈ warnKeys :=
  warnSources_key (List.mem_filter.mp h).1

theorem liveSources_length_le (s : Sns) : (liveSources s).length ≤ 26 :=
  (List.length_filter_le ..).trans (by rw [← List.length_map (f := (·.1)), warnSources_keys]; decide)

/-- A working source's new warn bit. -/
theorem rewarned_warnBit (old s : Sns) {c : Nat × Int × Option Int} (h : c ∈ liveSources s) :
    warnBit (rewarned old s) c.1 = nextBit old s c :=
  (warnBits_written _ _ (liveSources_keys_nodup s) fun _ => liveSources_key).1 c h

theorem mem_liveSources {s : Sns} {c : Nat × Int × Option Int} {T : Int} (h : c ∈ warnSources s) (hT : c.2.2 = some T) :
    c ∈ liveSources s := List.mem_filter.mpr ⟨h, by rw [hT]; rfl⟩

/-- Every working source that is warned, or reaches its threshold, has fallen (R482). -/
def hasFallen (old s : Sns) : Prop := ∀ c ∈ warnSources s, ∀ T, c.2.2 = some T →
  warnBit old c.1 = true ∨ c.2.1 ≤ T → T ≤ c.2.1 - 80

theorem allFallen_iff (old s : Sns) : allFallen old (liveSources s) = true ↔ hasFallen old s := by
  unfold allFallen hasFallen warnNext fallen
  simp only [List.all_eq_true, Bool.or_eq_true, Bool.not_eq_true', Bool.or_eq_false_iff, decide_eq_true_eq, decide_eq_false_iff_not,
    Bool.not_false, Bool.and_true]
  constructor
  · intro h c hc T hT ho
    have := h c (mem_liveSources hc hT)
    rw [hT, Option.getD_some] at this
    rcases this with ⟨h1, h2⟩ | h
    · rw [h2] at ho; simp_all
    · exact h
  · intro h c hc
    obtain ⟨hc, hs⟩ := List.mem_filter.mp hc
    obtain ⟨T, hT⟩ := Option.isSome_iff_exists.mp hs
    have := h c hc T hT
    rw [hT, Option.getD_some]
    cases ho : warnBit old c.1 <;> simp_all; omega

/-- How a working source's bit moves: set at its threshold, cleared below it once every warned source has fallen, else kept (R482). -/
theorem nextBit_moves (old s : Sns) {c : Nat × Int × Option Int} {T : Int} (hT : c.2.2 = some T) :
    (c.2.1 ≤ T → nextBit old s c = true) ∧ (T < c.2.1 → hasFallen old s → nextBit old s c = false) ∧
    (T < c.2.1 → ¬ hasFallen old s → nextBit old s c = warnBit old c.1) := by
  unfold nextBit warnNext
  rw [← allFallen_iff, hT, Option.getD_some]
  refine ⟨fun h => ?_, fun h hf => ?_, fun h hf => ?_⟩
  · rw [decide_eq_true h, Bool.true_or]
  · rw [decide_eq_false (Int.not_le.mpr h), hf]; simp
  · rw [decide_eq_false (Int.not_le.mpr h), Bool.eq_false_iff.mpr hf]; simp

/-! ### The events of an update -/

/-- The device beside its attention ring, counters and trace. -/
def quietly (v : Dev) : Dev := { v with attn := {}, ctr := {}, trc := {} }

theorem raise_quietly (code ctx : Nat) (payload : List Byte) (v : Dev) : quietly (raise code ctx payload v) = quietly v := by
  rw [raise_only]; rfl

theorem tellWarn_quietly (old s : Sns) (w : Dev) (c : Nat × Int × Option Int) : quietly (tellWarn old s w c) = quietly w := by
  unfold tellWarn raiseThermal
  split
  · rfl
  · exact raise_quietly ..

theorem tellWarn_held (old s : Sns) (w : Dev) (c : Nat × Int × Option Int) : w.attn.held ⊆ (tellWarn old s w c).attn.held ∧
    attnHeld (tellWarn old s w c).attn ≤ attnHeld w.attn + 1 := by
  unfold tellWarn raiseThermal
  split
  · exact ⟨List.Subset.refl _, Nat.le_succ _⟩
  · rw [raise_attn_eq]
    split
    · refine ⟨List.subset_append_left .., ?_⟩
      simp only [attnHeld, attnRoom, List.length_append, List.length_singleton]
      omega
    · exact ⟨List.Subset.refl _, Nat.le_succ _⟩

theorem tellWarn_event (old s : Sns) (w : Dev) {c : Nat × Int × Option Int} (hc : nextBit old s c ≠ warnBit old c.1)
    (hr : attnHeld w.attn < 64) : ∃ e ∈ (tellWarn old s w c).attn.held, e.code = 0x0016 ∧
      e.payload = leBytes 1 (b2n (!nextBit old s c)) ++ leBytes 1 c.1 ++ leBytes 2 (reading (c.2.2.getD 0)).toNat := by
  unfold tellWarn raiseThermal
  rw [if_neg hc, raise_attn_eq, if_pos hr]
  exact ⟨_, List.mem_append_right _ (List.mem_singleton.mpr rfl), rfl, rfl⟩

theorem tellWarns_held (old s : Sns) (l : List (Nat × Int × Option Int)) (w : Dev) :
    w.attn.held ⊆ (l.foldl (tellWarn old s) w).attn.held := by
  induction l generalizing w with
  | nil => exact List.Subset.refl _
  | cons c l ih => exact fun e he => ih _ ((tellWarn_held old s w c).1 he)

/-- With room for them all, each source whose bit changes has its event. -/
theorem tellWarns_event (old s : Sns) {c : Nat × Int × Option Int} (hc : nextBit old s c ≠ warnBit old c.1)
    (l : List (Nat × Int × Option Int)) (w : Dev) (hm : c ∈ l) (hr : attnHeld w.attn + l.length ≤ 64) :
    ∃ e ∈ (l.foldl (tellWarn old s) w).attn.held, e.code = 0x0016 ∧
      e.payload = leBytes 1 (b2n (!nextBit old s c)) ++ leBytes 1 c.1 ++ leBytes 2 (reading (c.2.2.getD 0)).toNat := by
  induction l generalizing w with
  | nil => exact (List.not_mem_nil hm).elim
  | cons a l ih =>
    rw [List.length_cons] at hr
    rcases List.mem_cons.mp hm with rfl | hm
    · obtain ⟨e, he, h⟩ := tellWarn_event old s w hc (by omega)
      exact ⟨e, tellWarns_held old s l _ he, h⟩
    · have hh := (tellWarn_held old s w a).2
      exact ih (tellWarn old s w a) hm (by omega)

/-- An update beside its events. -/
theorem sensorUpdate_quietly (r : Readings) (v : Dev) (ho : v.power.state ≠ .off) (hd : timerDue v tmSensor 10000 = true) :
    quietly (sensorUpdate r v) = quietly (updated r v) := by
  rw [sensorUpdate_eq r v ho hd]
  exact foldl_same (fun w c => tellWarn_quietly _ _ w c) _ _

theorem warnSources_rewarned (old s : Sns) (t : BitVec 64) : warnSources { rewarned old s with update := t } = warnSources s := by
  have h := congrArg warnSources (rewarned_unwarned old s)
  exact h

theorem allCool_rewarned (old s : Sns) (t : BitVec 64) : allCool { rewarned old s with update := t } = allCool s := by
  have h := congrArg allCool (rewarned_unwarned old s)
  exact h

theorem fieldTemp_rewarned (old s : Sns) (t : BitVec 64) (f : Nat) : fieldTemp { rewarned old s with update := t } f = fieldTemp s f := by
  have h := congrArg (fieldTemp · f) (rewarned_unwarned old s)
  exact h

theorem readings_rewarned (old s : Sns) : (rewarned old s).tj = s.tj ∧ (rewarned old s).tstack = s.tstack ∧
    (rewarned old s).tpwr = s.tpwr ∧ (rewarned old s).failed = s.failed := by
  have h := rewarned_unwarned old s
  exact ⟨(congrArg Sns.tj h :), (congrArg Sns.tstack h :), (congrArg Sns.tpwr h :), (congrArg Sns.failed h :)⟩

/-- The sensors after an update. -/
theorem sensorUpdate_sns (r : Readings) (v : Dev) (ho : v.power.state ≠ .off) (hd : timerDue v tmSensor 10000 = true) :
    (sensorUpdate r v).sns = { rewarned v.sns (sensed r v.sns) with update := v.pace.time } :=
  (congrArg Dev.sns (sensorUpdate_quietly r v ho hd) :)

/-- What an update leaves: the tables and the parts. -/
theorem sensorUpdate_tables (r : Readings) (v : Dev) (ho : v.power.state ≠ .off) (hd : timerDue v tmSensor 10000 = true) :
    (sensorUpdate r v).ctxs = v.ctxs ∧ (sensorUpdate r v).rings = v.rings ∧ (sensorUpdate r v).descs = v.descs := by
  have h := sensorUpdate_quietly r v ho hd
  exact ⟨(congrArg Dev.ctxs h :), (congrArg Dev.rings h :), (congrArg Dev.descs h :)⟩

theorem sensorUpdate_power (r : Readings) (v : Dev) (ho : v.power.state ≠ .off) (hd : timerDue v tmSensor 10000 = true) :
    (sensorUpdate r v).power = { v.power with
      hot := !allCool (sensorUpdate r v).sns
      railsUp := v.power.railsUp ||
        (decide (v.power.state = .start) && !v.power.perstLow && allCool (sensorUpdate r v).sns) } := by
  rw [sensorUpdate_sns r v ho hd, allCool_rewarned]
  have h := (congrArg Dev.power (sensorUpdate_quietly r v ho hd) :)
  have hc : allCool (rewarned v.sns (sensed r v.sns)) = allCool (sensed r v.sns) := allCool_rewarned _ _ _
  refine h.trans ?_
  dsimp only [quietly, updated, timerMark]
  rw [hc, Bool.not_not]

/-- A working source's warn bit before, in the readings' order, and after an update. -/
theorem sensorUpdate_warnBit (r : Readings) (v : Dev) (ho : v.power.state ≠ .off) (hd : timerDue v tmSensor 10000 = true)
    {c : Nat × Int × Option Int} (hc : c ∈ liveSources (sensed r v.sns)) :
    warnBit (sensorUpdate r v).sns c.1 = nextBit v.sns (sensed r v.sns) c := by
  rw [sensorUpdate_sns r v ho hd, ← rewarned_warnBit v.sns (sensed r v.sns) hc]
  rfl

theorem sensorUpdate_sources (r : Readings) (v : Dev) (ho : v.power.state ≠ .off) (hd : timerDue v tmSensor 10000 = true) :
    warnSources (sensorUpdate r v).sns = warnSources (sensed r v.sns) := by
  rw [sensorUpdate_sns r v ho hd, warnSources_rewarned]

/-- How a working source's bit moves with an update (R482). -/
theorem sensorUpdate_moves (r : Readings) (v : Dev) (ho : v.power.state ≠ .off) (hd : timerDue v tmSensor 10000 = true)
    {c : Nat × Int × Option Int} {T : Int} (hc : c ∈ warnSources (sensorUpdate r v).sns) (hT : c.2.2 = some T) :
    (c.2.1 ≤ T → warnBit (sensorUpdate r v).sns c.1 = true) ∧
    (T < c.2.1 → hasFallen v.sns (sensorUpdate r v).sns → warnBit (sensorUpdate r v).sns c.1 = false) ∧
    (T < c.2.1 → ¬ hasFallen v.sns (sensorUpdate r v).sns → warnBit (sensorUpdate r v).sns c.1 = warnBit v.sns c.1) := by
  have hs := sensorUpdate_sources r v ho hd
  rw [hs] at hc
  unfold hasFallen
  rw [sensorUpdate_warnBit r v ho hd (mem_liveSources hc hT), hs]
  exact nextBit_moves v.sns (sensed r v.sns) hT

theorem sensorUpdate_events (r : Readings) (v : Dev) (ho : v.power.state ≠ .off) (hd : timerDue v tmSensor 10000 = true)
    (hr : attnHeld v.attn + 26 ≤ 64) {c : Nat × Int × Option Int} {T : Int} (hc : c ∈ warnSources (sensorUpdate r v).sns)
    (hT : c.2.2 = some T) (hb : warnBit (sensorUpdate r v).sns c.1 ≠ warnBit v.sns c.1) :
    ∃ e ∈ (sensorUpdate r v).attn.held, e.code = 0x0016 ∧
      e.payload = leBytes 1 (if warnBit (sensorUpdate r v).sns c.1 then 0 else 1) ++ leBytes 1 c.1 ++ leBytes 2 (reading T).toNat := by
  rw [sensorUpdate_sources r v ho hd] at hc
  have hl := mem_liveSources hc hT
  rw [sensorUpdate_warnBit r v ho hd hl] at hb ⊢
  have hlen := liveSources_length_le (sensed r v.sns)
  obtain ⟨e, he, hcode, hp⟩ := tellWarns_event v.sns (sensed r v.sns) hb _ (updated r v) hl
    (show attnHeld v.attn + _ ≤ 64 by omega)
  rw [sensorUpdate_eq r v ho hd]
  refine ⟨e, he, hcode, hp.trans ?_⟩
  rw [hT, Option.getD_some]
  cases nextBit v.sns (sensed r v.sns) c <;> rfl

/-- The readings after an update: a working sensor's own, and 0x8000 of a failed one (R501, R502). -/
theorem sensorUpdate_readings (r : Readings) (v : Dev) (ho : v.power.state ≠ .off) (hd : timerDue v tmSensor 10000 = true) :
    (sensorUpdate r v).sns.failed = v.sns.failed ∧ (sensorUpdate r v).sns.tj = maskFailed v.sns 0 r.tj 16 ∧
    (sensorUpdate r v).sns.tstack = maskFailed v.sns 16 r.tstack 20 ∧ (sensorUpdate r v).sns.tpwr = maskFailed v.sns 36 r.tpwr 2 := by
  obtain ⟨htj, hts, htp, hf⟩ := readings_rewarned v.sns (sensed r v.sns)
  obtain ⟨hrj, hrs, hrp⟩ := sensed_readings r v.sns
  rw [sensorUpdate_sns r v ho hd]
  exact ⟨hf.trans (sensed_failed r v.sns), htj.trans hrj, hts.trans hrs, htp.trans hrp⟩

theorem mem_warnSources_field (s : Sns) {f : Nat} (hf : f < 4) : (f, (1680 : Int), fieldTemp s f) ∈ warnSources s :=
  List.mem_append_left _ (List.mem_append_left _ (List.mem_map.mpr ⟨f, List.mem_range.mpr hf, rfl⟩))

theorem mem_warnSources_stack (s : Sns) {i : Nat} (hi : i < 20) (hw : s.failed.getLsbD (16 + i) = false) :
    (0x10 + i, (1600 : Int), some (temp (s.tstack.getD i 0))) ∈ warnSources s :=
  List.mem_append_left _ (List.mem_append_right _ (List.mem_map.mpr ⟨i, List.mem_range.mpr hi, by simp [sensorFailed, hw, warnStackT]⟩))

theorem mem_warnSources_power (s : Sns) {i : Nat} (hi : i < 2) (hw : s.failed.getLsbD (36 + i) = false) :
    (0x30 + i, (1840 : Int), some (temp (s.tpwr.getD i 0))) ∈ warnSources s :=
  List.mem_append_right _ (List.mem_map.mpr ⟨i, List.mem_range.mpr hi, by simp [sensorFailed, hw, warnPower]⟩)

theorem maskFailed_working (s : Sns) (o : Nat) (l : List W16) (n : Nat) {i : Nat} (hi : i < n) (hw : s.failed.getLsbD (o + i) = false) :
    (maskFailed s o l n).getD i 0 = l.getD i 0 := by
  rw [List.getD_eq_getElem?_getD, maskFailed_getElem? s o l n hi, hw, Option.getD_some]
  rfl

theorem warnBit_stack (s : Sns) {i : Nat} (hi : i < 20) : warnBit s (0x10 + i) = s.warnStack.getLsbD i := by
  unfold warnBit
  rw [if_neg (by omega), if_pos (by omega), Nat.add_sub_cancel_left]

theorem warnBit_power (s : Sns) (i : Nat) : warnBit s (0x30 + i) = s.warnPwr.getLsbD i := by
  unfold warnBit
  rw [if_neg (by omega), if_neg (by omega), Nat.add_sub_cancel_left]

/-- SENSOR_CALIBRATION that is due. -/
theorem sensorCalibration_eq (failed : BitVec 38) (v : Dev) (ho : v.power.state ≠ .off) (hd : timerDue v tmSensorCal 1000000 = true) :
    sensorCalibration failed v = timerMark tmSensorCal (sensorsFail failed v) := by
  unfold sensorCalibration
  rw [if_neg (by simp [ho, hd])]

/-- Settles O28: the moves of the warn bits are `sensorUpdate_moves`, their events `sensorUpdate_events`. -/
theorem sensorsReportAndWarn : Obligations.SensorsReportAndWarn := by
  unfold Obligations.SensorsReportAndWarn
  constructor
  · intro r s ho hd
    obtain ⟨hf, htj, hts, htp⟩ := sensorUpdate_readings r s.dev ho hd
    obtain ⟨hctx, hring, hdesc⟩ := sensorUpdate_tables r s.dev ho hd
    have hm := @sensorUpdate_moves r s.dev ho hd
    refine ⟨_, runDev_eq rfl, congrArg Sns.update (sensorUpdate_sns r s.dev ho hd), hf, fun i hi => ?_, fun i hi => ?_,
      fun i hi => ?_, ⟨fun f hf4 T hT => ?_, fun i hi hw => ?_, fun i hi hw => ?_⟩,
      fun hr c hc T hT => sensorUpdate_events r s.dev ho hd hr hc hT, sensorUpdate_power r s.dev ho hd,
      hctx, hring, hdesc, rfl, rfl⟩
    · rw [htj, maskFailed_getElem? _ _ _ _ hi, Nat.zero_add]
    · rw [hts, maskFailed_getElem? _ _ _ _ hi]
    · rw [htp, maskFailed_getElem? _ _ _ _ hi]
    · have := hm (mem_warnSources_field _ hf4) hT
      rwa [warnBit, warnBit, if_pos hf4, if_pos hf4] at this
    · have := hm (mem_warnSources_stack _ hi (hf ▸ hw)) rfl
      rwa [warnBit_stack _ hi, warnBit_stack _ hi, hts, maskFailed_working _ _ _ _ hi hw] at this
    · have := hm (mem_warnSources_power _ hi (hf ▸ hw)) rfl
      rwa [warnBit_power, warnBit_power, htp, maskFailed_working _ _ _ _ hi hw] at this
  · intro failed s ho hd
    refine ⟨_, runDev_eq (sensorCalibration_eq failed s.dev ho hd), rfl, rfl⟩

end Sys2Proof.Machine
end
section
/-! A thermal trip (R479, R483): what a module without its rails keeps, and the record of the trip. -/

namespace Sys2Proof.Machine

open Sys2Proof

/-! ### Without rails -/

/-- The work of a trip once its event is told: the rails are off, and no store to device memory stays. -/
def powerLost (w : Work) : Work :=
  { w with dev := railsOff w.dev, wiped := .all, stores := w.stores.filter (fun x => x.space ≠ .dev) }

/-- The event of a trip and its record (R321, R483). -/
def tripTold (src : TripSource) (w : Work) : Work :=
  match tripPayload w.dev.sns src with
  | some c => if w.dev.power.perstLow then w else attnFlush (onDev (raiseThermal 2 c.1 c.2) w)
  | none => w

theorem thermalTrip_eq {src : TripSource} {w : Work} (ho : w.dev.power.state ≠ .off) (ht : w.dev.power.state ≠ .tripped)
    (hh : tripHolds w.dev.sns src = true) : thermalTrip src w = powerLost (tripTold src w) := by
  unfold thermalTrip
  rw [if_neg (by simp [ho, ht, hh])]
  rfl

theorem memLoss_join_all (l : MemLoss) : l.join .all = .all := by cases l <;> rfl

theorem railsOff_power (v : Dev) : (railsOff v).power = { v.power with
    state := .tripped, rbHigh := false, railsUp := false, lost := .all, hot := !allCool v.sns } := by
  unfold railsOff linkReset loseMem
  dsimp only
  simp only [memLoss_join_all]
  split <;> rfl

theorem railsOff_stopped (v : Dev) : (railsOff v).blk.ready = false ∧ (railsOff v).blk.busyCause = 1 ∧
    (railsOff v).cxl.memoryActive = false ∧ (railsOff v).descs = [] ∧ (railsOff v).engines = [] ∧ (railsOff v).chisels = [] ∧
    (railsOff v).stab = [] := ⟨rfl, rfl, rfl, rfl, rfl, rfl, rfl⟩

theorem railsOff_linkDown (v : Dev) : (railsOff v).cxl.linkUp = false := by
  unfold railsOff linkReset
  dsimp only
  split
  · next h => exact Bool.not_eq_true' _ ▸ h
  · rfl

theorem linkReset_ports (v : Dev) : (linkReset v).ports = v.ports := by
  unfold linkReset; dsimp only; split <;> rfl

theorem railsOff_ports (v : Dev) : (railsOff v).ports = (stopPorts v).ports := linkReset_ports _

/-- The registers and tables that stay when the rails go. -/
theorem railsOff_keeps (v : Dev) : (railsOff v).rings = tabMap {} (fun _ => ringCut) v.rings ∧ (railsOff v).ctxs = v.ctxs ∧
    (railsOff v).groups = v.groups ∧ (railsOff v).sns = v.sns ∧ (railsOff v).pace = v.pace := by
  unfold railsOff linkReset
  dsimp only
  split <;> exact ⟨rfl, rfl, rfl, rfl, rfl⟩

theorem railsOff_attn (v : Dev) : (railsOff v).attn = { v.attn with pulseLow := false, pulseDue := false } := by
  unfold railsOff linkReset
  dsimp only
  split <;> rfl

theorem commit_powerLost_dev (s : State) (w : Work) : (commit s (powerLost w)).dev = railsOff w.dev := rfl

theorem applyStores_otherSpace {sp : Space} {d : Byte} {m : List Host.Cell} :
    ∀ (l : List Store), (∀ x ∈ l, x.space ≠ sp) → applyStores sp d m l = m
  | [], _ => rfl
  | x :: l, h => (if_neg (h x List.mem_cons_self)).trans (applyStores_otherSpace l fun y hy => h y (List.mem_cons_of_mem _ hy))

theorem commit_powerLost_mem (s : State) (w : Work) : (commit s (powerLost w)).mem = [] :=
  applyStores_otherSpace _ fun x hx => by simpa using (List.mem_filter.mp hx).2

theorem storeAt_hostStores (a : Nat) (l : List Store) :
    storeAt .host a (l.filter (fun x => x.space ≠ .dev)) = storeAt .host a l := by
  induction l with
  | nil => rfl
  | cons x l ih =>
    by_cases hx : x.space = .dev
    · rw [List.filter_cons_of_neg (by simp [hx]), ih, storeAt, if_neg (by simp [hx])]
    · rw [List.filter_cons_of_pos (by simp [hx]), storeAt, storeAt, ih]

theorem commit_powerLost_hostByte (s : State) (w : Work) (a : Nat) (hs : Memory.wf s = true) :
    hostByte (commit s (powerLost w)) a = (storeAt .host a w.stores).getD (hostByte s a) :=
  (hostByte_commit s (powerLost w) a hs).trans (congrArg (fun o => o.getD (hostByte s a)) (storeAt_hostStores a w.stores))

theorem memByte_powerLost (s : State) (w : Work) (a : Nat) :
    memByte (commit s (powerLost w)) a = Config.lostByte (commit s (powerLost w)).dev.free a := by
  unfold memByte devByte
  rw [commit_powerLost_mem, commit_powerLost_dev, railsOff_power]
  rfl

/-! ### The event of a trip -/

theorem attnFlush_noRoom {w : Work} (h : attnRoom w.dev.attn = 0) : attnFlush w = w := by
  unfold attnFlush
  induction w.dev.attn.held with
  | nil => rfl
  | cons _ l ih => rw [List.foldl_cons, attnRecordWrite_idle (.inr h), ih]

theorem raiseThermal_only (kind src : Nat) (t : W16) (v : Dev) : raiseThermal kind src t v = { v with
    attn := (raiseThermal kind src t v).attn, ctr := (raiseThermal kind src t v).ctr, trc := (raiseThermal kind src t v).trc } :=
  raise_only ..

theorem raiseThermal_room (kind src : Nat) (t : W16) (v : Dev) : attnRoom (raiseThermal kind src t v).attn = attnRoom v.attn := by
  unfold raiseThermal
  rw [raise_attn_eq]
  split <;> rfl

theorem raiseThermal_seq (kind src : Nat) (t : W16) (v : Dev) : (raiseThermal kind src t v).attn.seq = v.attn.seq + 1 := by
  unfold raiseThermal
  rw [raise_attn_eq]
  split <;> rfl

/-- The event of a trip as the ring holds it (R484). -/
def tripEvent (v : Dev) (c : Nat × W16) : AttnEvent :=
  ⟨v.pace.time, 0x0016, 0, v.attn.seq, [2] ++ leBytes 1 c.1 ++ leBytes 2 c.2.toNat⟩

theorem raiseTrip_attn (c : Nat × W16) (v : Dev) (h : attnHeld v.attn < 64) : (raiseThermal 2 c.1 c.2 v).attn =
    { v.attn with held := v.attn.held ++ [tripEvent v c], seq := v.attn.seq + 1 } := by
  unfold raiseThermal
  rw [raise_attn_eq, if_pos h]
  rfl

/-- Without room in the ring, a trip tells its event by holding it. -/
theorem tripTold_noRoom {src : TripSource} {w : Work} (h : attnRoom w.dev.attn = 0) : tripTold src w =
    match tripPayload w.dev.sns src with
    | some c => if w.dev.power.perstLow then w else onDev (raiseThermal 2 c.1 c.2) w
    | none => w := by
  unfold tripTold
  split
  · rw [attnFlush_noRoom ((raiseThermal_room ..).trans h)]
  · rfl

/-- What a trip's event leaves where the ring has no room. -/
theorem tripTold_keeps {src : TripSource} {w : Work} (h : attnRoom w.dev.attn = 0) :
    ∃ a c t, tripTold src w = { w with dev := { w.dev with attn := a, ctr := c, trc := t } } := by
  rw [tripTold_noRoom h]
  split
  · split
    · exact ⟨_, _, _, rfl⟩
    · exact ⟨_, _, _, congrArg (fun v => { w with dev := v }) (raiseThermal_only ..)⟩
  · exact ⟨_, _, _, rfl⟩

theorem tripTold_quiet {src : TripSource} {w : Work} (h : w.dev.power.perstLow = true ∨ ∃ r, src = .rail r) : tripTold src w = w := by
  unfold tripTold
  split
  · next c hc =>
    refine if_pos (h.resolve_right ?_)
    rintro ⟨r, rfl⟩
    cases hc
  · rfl

theorem tripTold_raises {src : TripSource} {w : Work} {c : Nat × W16} (hp : w.dev.power.perstLow = false)
    (hc : tripPayload w.dev.sns src = some c) : tripTold src w = attnFlush (onDev (raiseThermal 2 c.1 c.2) w) := by
  unfold tripTold
  rw [hc]
  exact if_neg (by rw [hp]; exact Bool.false_ne_true)

section
variable {s : State} {v : Dev} {u : Work} {e : AttnEvent} (hh : v.attn.held = [e]) (hr : attnRoom v.attn ≠ 0)
  (h : (recordPut v.attn e).run { workOf s with dev := v } = (.ok (), u))
include hh hr h

/-- With one event held and room, the flush writes its record. -/
theorem attnFlush_one : attnFlush { workOf s with dev := v } = onDev (setAttn (recordDone [])) (snoopsUsed { u with dest := [] }) := by
  unfold attnFlush
  dsimp only
  rw [hh, List.foldl_cons, List.foldl_nil]
  unfold attnRecordWrite
  dsimp only
  rw [hh]
  exact (if_neg hr).trans (runAcc_ok (ueFails_ok h))

theorem attnFlush_one_attn : (attnFlush { workOf s with dev := v }).dev.attn = recordDone [] v.attn := by
  rw [attnFlush_one hh hr h]
  have ha : attnView u = attnView { workOf s with dev := v } := (attnPut_ends _ _).ok _ _ u h
  exact congrArg (recordDone []) (congrArg (fun p => p.1) ha :)

theorem attnFlush_one_stores : (attnFlush { workOf s with dev := v }).stores = u.stores := by
  rw [attnFlush_one hh hr h]
  rfl

end

/-- A trip whose event and record go straight to the ring. -/
theorem tripTold_written {src : TripSource} {s : State} {c : Nat × W16} {u : Work} (hp : s.dev.power.perstLow = false)
    (hc : tripPayload s.dev.sns src = some c) (hh : s.dev.attn.held = []) (hr : attnRoom s.dev.attn ≠ 0)
    (h : (recordPut s.dev.attn (tripEvent s.dev c)).run { workOf s with dev := raiseThermal 2 c.1 c.2 s.dev } = (.ok (), u)) :
    (tripTold src (workOf s)).dev.attn = recordDone [] { s.dev.attn with held := [tripEvent s.dev c], seq := s.dev.attn.seq + 1 } ∧
    (tripTold src (workOf s)).stores = u.stores := by
  have hlt : attnHeld s.dev.attn < 64 := by
    rw [attnHeld, hh, List.length_nil, Nat.zero_sub]
    omega
  have hv := raiseTrip_attn c s.dev hlt
  rw [hh, List.nil_append] at hv
  have hroom : attnRoom (raiseThermal 2 c.1 c.2 s.dev).attn ≠ 0 := by rw [raiseThermal_room]; exact hr
  rw [tripTold_raises (w := workOf s) hp hc]
  change (attnFlush { workOf s with dev := raiseThermal 2 c.1 c.2 s.dev }).dev.attn = _ ∧
    (attnFlush { workOf s with dev := raiseThermal 2 c.1 c.2 s.dev }).stores = _
  generalize raiseThermal 2 c.1 c.2 s.dev = v at hv hroom h
  have hheld : v.attn.held = [tripEvent s.dev c] := by rw [hv]
  have hput : (recordPut v.attn (tripEvent s.dev c)).run { workOf s with dev := v } = (.ok (), u) := by rw [hv]; exact h
  exact ⟨(attnFlush_one_attn hheld hroom hput).trans (congrArg _ hv), attnFlush_one_stores hheld hroom hput⟩

theorem refreshDue_noRails {c : Nat} {v : Dev} (h : v.power.railsUp = false) : refreshDue c v = v :=
  if_pos (by rw [h]; rfl)

/-- Settles O29: a trip is `powerLost` after `tripTold`, and with the rails off every guarded command is unchanged. -/
theorem thermalTripStopsTheModule : Obligations.ThermalTripStopsTheModule := by
  unfold Obligations.ThermalTripStopsTheModule
  constructor
  · intro src s ho ht hh
    have hx : exec (.thermalTrip src) s = .next (commit s (powerLost (tripTold src (workOf s)))) :=
      runWork_eq (thermalTrip_eq (w := workOf s) ho ht hh)
    refine ⟨_, hx, ?_⟩
    rw [commit_powerLost_dev, commit_powerLost_mem]
    generalize hw : tripTold src (workOf s) = w
    obtain ⟨hready, hbusy, hma, hdescs, heng, hchis, hstab⟩ := railsOff_stopped w.dev
    obtain ⟨hrings, hctxs, hgroups, hsns, hpace⟩ := railsOff_keeps w.dev
    have hpow := railsOff_power w.dev
    refine ⟨by rw [hpow], by rw [hpow], by rw [hpow], by rw [hpow], hready, hbusy, hma, railsOff_linkDown _, hdescs, heng, hchis,
      hstab, fun c hc => stopPorts_state (railsOff_ports w.dev ▸ hc), rfl, fun a => memByte_powerLost s w a, fun h0 => ?_, ?_⟩
    · obtain ⟨a, c, t, ht⟩ := tripTold_keeps (src := src) (w := workOf s) h0
      rw [hw] at ht
      have hst : w.stores = [] := by rw [ht]; rfl
      have hhost : (commit s (powerLost w)).host = s.host := by rw [commit_host, powerLost, hst]; rfl
      have hflash : (commit s (powerLost w)).flash = s.flash := by rw [commit_flash, powerLost, hst]; rfl
      rw [hpow, hrings, hctxs, hgroups, hsns, hpace, railsOff_attn, hhost, hflash]
      refine ⟨by rw [ht]; rfl, by rw [ht]; rfl, by rw [ht]; rfl, by rw [ht]; rfl, by rw [ht]; rfl, by rw [ht]; rfl, rfl, rfl,
        fun hq => ?_, fun c hp hc => ?_⟩
      · rw [← hw, tripTold_quiet (w := workOf s) hq]; rfl
      · have hw' : w.dev = raiseThermal 2 c.1 c.2 s.dev := by
          rw [← hw, tripTold_raises (w := workOf s) hp hc, attnFlush_noRoom ((raiseThermal_room ..).trans h0)]; rfl
        rw [hw']
        refine ⟨raiseThermal_seq .., fun hl => ?_⟩
        have hv := raiseTrip_attn c s.dev (attnHeld_noRoom h0 ▸ hl)
        rw [hv]
        rfl
    · intro c u hs hp hc hheld hroom
      dsimp only
      intro hrun
      obtain ⟨ha, hst⟩ := tripTold_written hp hc hheld hroom hrun
      rw [hw] at ha hst
      rw [railsOff_attn, ha]
      exact ⟨fun x => (commit_powerLost_hostByte s w x hs).trans (by rw [hst]), rfl, rfl⟩
  · intro s hr
    have hD (f : Dev → Dev) : runDev (powered f) s = .next s :=
      runDev_eq (if_neg (by rw [hr]; exact Bool.false_ne_true))
    have hW (f : Work → Work) : runWork (poweredWork f) s = .next s :=
      runWork_unchanged (if_neg (by rw [workOf_dev, hr]; exact Bool.false_ne_true))
    exact ⟨fun ch => ⟨runDev_eq (refreshDue_noRails hr), hD _⟩, fun _ _ => hD _, fun _ _ _ => hD _, fun _ _ => hD _, fun _ _ => hD _,
      fun _ => ⟨hD _, hD _⟩, fun _ => hW _, fun _ _ => hD _, fun _ => hD _, fun _ => hD _, hW _, hW _, hW _⟩

end Sys2Proof.Machine
end
section
/-! Counters reset, sampled and mirrored (R460 to R467). -/

namespace Sys2Proof.Machine

open Sys2Proof

/-! ### The counters' tables -/

section
variable {k : Nat} {v : Dev}

theorem ctrGet_ctrReset (j : Nat) {i : Nat} (hi : i < 4096) : ctrGet (ctrReset k v) j i = if j = k then 0 else ctrGet v j i := by
  refine (tabGet_filter_keys 0 (fun c => decide (c / 4096 ≠ k)) (4096 * j + i) v.ctr.values).trans ?_
  have hdiv : (4096 * j + i) / 4096 = j := by omega
  rw [hdiv]
  by_cases h : j = k <;> simp [h, ctrGet]

theorem ctrEpoch_ctrReset (h : tabWf 0 v.ctr.epochs = true) : ctrEpoch (ctrReset k v) k = ctrEpoch v k + 1 :=
  tabGet_tabPut_same _ _ _ _ h

theorem ctrEpoch_ctrReset_other {j : Nat} (hj : j ≠ k) : ctrEpoch (ctrReset k v) j = ctrEpoch v j :=
  tabGet_tabPut_other _ _ _ _ _ hj

theorem samples_ctrCountSample (h : tabWf 0 v.ctr.samples = true) :
    tabGet 0 (ctrCountSample k v).ctr.samples k = tabGet 0 v.ctr.samples k + 1 :=
  tabGet_tabPut_same _ _ _ _ h

end

/-- A record is its header and its counters (R465). -/
theorem sampleBody_length (v : Dev) (set n cause : Nat) (e : W32) : (sampleBody v set n cause e).length = 24 + 8 * n := by
  have hf (l : List Nat) : (l.flatMap (fun i => leBytes 8 (ctrGet v set i).toNat)).length = 8 * l.length := by
    induction l with
    | nil => rfl
    | cons a l ih => rw [List.flatMap_cons, List.length_append, leBytes_length, ih, List.length_cons]; omega
  simp only [sampleBody, List.length_append, leBytes_length, hf, upto, List.length_range]

/-! ### The writes of a record -/

/-- What a record's write leaves: all of the device but what a translation, a count of bytes and a store change. -/
def sampleView (w : Work) : Dev :=
  { w.dev with cxl := {}, tlb := [], ue := [], free := 0, ctr := { w.dev.ctr with values := [] } }

theorem sampleView_blind : WriteBlind sampleView where
  snooped _ _ := rfl
  cxl _ _ := rfl
  tlb _ _ := rfl
  values _ _ := rfl
  stores _ _ := rfl
  ue _ _ := rfl

theorem sampleView_used (w : Work) : sampleView (snoopsUsed { w with dest := [] }) = sampleView w := rfl

theorem writeSample_ends (ctx : Nat) (a : W64) (seq : Nat) (body : List Byte) : EndSame sampleView (writeSample ctx a seq body) :=
  endSame_bind (writeBytes_ends sampleView_blind _ _ _) fun _ =>
    endSame_bind (writeBytes_ends sampleView_blind _ _ _) fun _ => writeBytes_ends sampleView_blind _ _ _

/-- Without lines snooped, using the snoops changes nothing. -/
theorem snoopsUsed_none {w : Work} (h : w.snooped = []) : snoopsUsed w = w := by
  have hd : w.dev.cxl.directory.map (fun e => if w.snooped.contains e.line then { e with snoop := .idle } else e) =
      w.dev.cxl.directory := by
    rw [h]
    exact List.map_id' _
  unfold snoopsUsed
  rw [hd, ← h]

/-! ### The queue of commands -/

/-- A command alone in the queue, on a work that has run nothing. -/
def ctrAsked (c : CtrCmd) (s : State) : Work :=
  onDev (fun v => { v with ctr := { v.ctr with queue := [c] } }) (workOf s)

theorem ctrStep_idle {w : Work} (h : w.dev.ctr.queue = []) : ctrStep w = w := by
  unfold ctrStep
  rw [h]

theorem ctrDrain_once {w : Work} (h : (ctrStep w).dev.ctr.queue = []) : ctrDrain w = ctrStep w := by
  have hidle (l : List Nat) : l.foldl (fun w _ => ctrStep w) (ctrStep w) = ctrStep w := by
    induction l with
    | nil => rfl
    | cons _ l ih => rw [List.foldl_cons, ctrStep_idle h, ih]
  exact hidle [1, 2, 3, 4, 5, 6, 7]

section
variable {s : State} (hq : s.dev.ctr.queue = [])
include hq

theorem workOf_popped : onDev (fun v => { v with ctr := { v.ctr with queue := [] } }) (workOf s) = workOf s :=
  (congrArg (fun q => onDev (fun v => { v with ctr := { v.ctr with queue := q } }) (workOf s)) hq).symm

/-- The only command of the queue runs on the state as it was. -/
theorem ctrStep_asked {c : CtrCmd} {u : Work} (h : (ctrExec c).run (workOf s) = (.ok (), u)) :
    ctrStep (ctrAsked c s) = snoopsUsed { u with dest := [] } := by
  rw [← workOf_popped hq] at h
  unfold ctrStep
  exact runAcc_ok (w := ctrAsked c s) (a := ()) (ueFails_ok (fail := failCtxOpen 0 stMemoryUe.toNat) h :)

theorem ctrDrain_asked {c : CtrCmd} {u : Work} (h : (ctrExec c).run (workOf s) = (.ok (), u)) (hu : u.dev.ctr.queue = []) :
    ctrDrain (ctrAsked c s) = snoopsUsed { u with dest := [] } := by
  have hs := ctrStep_asked hq h
  exact (ctrDrain_once (by rw [hs]; exact hu)).trans hs

theorem ctrCommand_asked {op : BitVec 2} {set : BitVec 12} (ho : op ≠ 3) (hs : (setCount set.toNat).isSome = true) :
    ctrCommand op set (workOf s) = ctrDrain (ctrAsked ⟨op, set, s.dev.ctr.cmdAddr⟩ s) := by
  have hn : (setCount set.toNat).isNone = false := by rw [← Option.not_isSome, hs]; rfl
  unfold ctrCommand
  dsimp only
  rw [workOf_dev, if_neg (by rw [hq]; decide), if_neg (by rw [hn, Bool.or_false]; simpa using ho)]
  refine congrArg ctrDrain (onDev_eq ?_)
  dsimp only
  rw [workOf_dev, hq]
  rfl

theorem ctrCommand_unlisted {op : BitVec 2} {set : BitVec 12} (hs : setCount set.toNat = none) :
    ctrCommand op set (workOf s) = workOf s := by
  unfold ctrCommand
  dsimp only
  rw [workOf_dev, hq, if_neg (by decide), if_pos (by rw [hs, Option.isNone_none, Bool.or_true])]

end

theorem fld_ctrCmd (op : BitVec 2) (set : BitVec 12) : fld 2 0 (place 0 op ||| place 2 set) = op ∧ fld 12 2 (place 0 op ||| place 2 set) = set := by
  constructor
  · refine BitVec.eq_of_getLsbD_eq fun i hi => ?_
    simp only [fld, place, BitVec.getLsbD_setWidth, BitVec.getLsbD_ushiftRight, BitVec.getLsbD_or, BitVec.getLsbD_shiftLeft]
    have h2 : i < 64 := by omega
    simp [hi, h2]
  · refine BitVec.eq_of_getLsbD_eq fun i hi => ?_
    simp only [fld, place, BitVec.getLsbD_setWidth, BitVec.getLsbD_ushiftRight, BitVec.getLsbD_or, BitVec.getLsbD_shiftLeft]
    have h64 : 2 + i < 64 := by omega
    have h2 : ¬ 2 + i < 2 := by omega
    have h1 : i < 64 := by omega
    simp [hi, h64, h1, h2]

/-- A write of CTR_CMD that lands. -/
theorem ctrRow_lands {s : State} {ide : Bool} (op : BitVec 2) (set : BitVec 12) (h : WriteLands s 0x70000 ide) :
    ctrRow op set ide s = .next (commit s (ctrCommand op set (workOf s))) := by
  refine (runWork_lands _ h).trans ?_
  obtain ⟨ho, hs⟩ := fld_ctrCmd op set
  change Host.Outcome.next (commit s (ctrCommand (fld 2 0 _) (fld 12 2 _) (workOf s))) = _
  rw [ho, hs]

theorem ctrExec_reset {k : BitVec 12} {a : W64} {n : Nat} (h : setCount k.toNat = some n) (w : Work) :
    (ctrExec ⟨1, k, a⟩).run w = (.ok (), onDev (ctrReset k.toNat) w) := by
  unfold ctrExec
  rw [h]
  rfl

theorem ctrExec_sample {k : BitVec 12} {a : W64} {n : Nat} (h : setCount k.toNat = some n) :
    ctrExec ⟨0, k, a⟩ = takeSample 0 k.toNat n 0 false a := by
  unfold ctrExec
  rw [h]
  rfl

theorem ctrExec_sampleReset {k : BitVec 12} {a : W64} {n : Nat} (h : setCount k.toNat = some n) :
    ctrExec ⟨2, k, a⟩ = takeSample 0 k.toNat n 0 true a := by
  unfold ctrExec
  rw [h]
  rfl

/-- SAMPLE is the record's write with the sample counted. -/
theorem takeSample_run (ctx set n cause : Nat) (a : W64) (w : Work) : (takeSample ctx set n cause false a).run w =
    (writeSample ctx a (tabGet 0 (ctrCountSample set w.dev).ctr.samples set).toNat
      (sampleBody w.dev set n cause (ctrEpoch w.dev set))).run (onDev (ctrCountSample set) w) := rfl

/-- SAMPLE_RESET is the record's write with the counters cleared and the sample counted. -/
theorem takeSample_reset_run (ctx set n cause : Nat) (a : W64) (w : Work) : (takeSample ctx set n cause true a).run w =
    (writeSample ctx a (tabGet 0 (ctrCountSample set (ctrReset set w.dev)).ctr.samples set).toNat
      (sampleBody w.dev set n cause (ctrEpoch w.dev set + 1))).run (onDev (fun v => ctrCountSample set (ctrReset set v)) w) := rfl

/-! ### The record of a set written -/

section
variable {u w : Work} (h : sampleView w = sampleView u)
include h

/-- What a record's write leaves, field by field. -/
theorem sampleView_queue : w.dev.ctr.queue = u.dev.ctr.queue := (congrArg (fun v : Dev => v.ctr.queue) h :)
theorem sampleView_samples : w.dev.ctr.samples = u.dev.ctr.samples := (congrArg (fun v : Dev => v.ctr.samples) h :)
theorem sampleView_epoch (k : Nat) : ctrEpoch w.dev k = ctrEpoch u.dev k := (congrArg (fun v : Dev => tabGet 0 v.ctr.epochs k) h :)
theorem sampleView_tables : w.dev.rings = u.dev.rings ∧ w.dev.descs = u.dev.descs ∧ w.dev.ctxs = u.dev.ctxs ∧ w.dev.attn = u.dev.attn :=
  ⟨(congrArg Dev.rings h :), (congrArg Dev.descs h :), (congrArg Dev.ctxs h :), (congrArg Dev.attn h :)⟩

end

section
variable {k : BitVec 12} {ide : Bool} {s : State} (hl : WriteLands s 0x70000 ide) (hq : s.dev.ctr.queue = [])
include hl hq

/-- An operation on a set that is not listed is ignored. -/
theorem ctrRow_unlisted {op : BitVec 2} (hk : setCount k.toNat = none) : ctrRow op k ide s = .next s := by
  rw [ctrRow_lands op k hl, ctrCommand_unlisted hq hk]
  exact congrArg Host.Outcome.next (commit_workOf s s.dev)

/-- An operation that runs to its end on the state as it was. -/
theorem ctrRow_done {op : BitVec 2} {n : Nat} {u : Work} (ho : op ≠ 3) (hk : setCount k.toNat = some n)
    (h : (ctrExec ⟨op, k, s.dev.ctr.cmdAddr⟩).run (workOf s) = (.ok (), u)) (hu : u.dev.ctr.queue = []) :
    ctrRow op k ide s = .next (commit s (snoopsUsed { u with dest := [] })) := by
  rw [ctrRow_lands op k hl, ctrCommand_asked hq ho (by rw [hk]; rfl), ctrDrain_asked hq h hu]

theorem ctrReset_done {n : Nat} (hk : setCount k.toNat = some n) :
    exec (.ctrReset k ide) s = .next { s with dev := ctrReset k.toNat s.dev } := by
  refine (ctrRow_done hl hq (by decide) hk (ctrExec_reset hk _) hq).trans ?_
  rw [snoopsUsed_none rfl]
  exact congrArg Host.Outcome.next (commit_workOf s _)

end

/-! ### A mirror's sample -/

theorem runAccOr_ok {α : Type} {m : Acc α} {onOk : α → Work → Work} {onFail : Byte → W64 → Work → Work} {onWait : Work → Work}
    {w u : Work} {a : α} (h : m.run { w with dest := [], snooped := [], flags := {} } = (.ok a, u)) :
    runAccOr m onOk onFail onWait w = onOk a (snoopsUsed { u with dest := [] }) := by
  unfold runAccOr
  rw [h]

theorem runAccOr_stop {α : Type} {m : Acc α} {onOk : α → Work → Work} {onFail : Byte → W64 → Work → Work} {onWait : Work → Work}
    {w u : Work} {st : Byte} {a : W64} (h : m.run { w with dest := [], snooped := [], flags := {} } = (.error (.fail st a), u)) :
    runAccOr m onOk onFail onWait w = onFail st a (snoopsUsed (freeDest u)) := by
  unfold runAccOr
  rw [h]

theorem runAccOr_wait {α : Type} {m : Acc α} {onOk : α → Work → Work} {onFail : Byte → W64 → Work → Work} {onWait : Work → Work}
    {w u : Work} (h : m.run { w with dest := [], snooped := [], flags := {} } = (.error .wait, u)) :
    runAccOr m onOk onFail onWait w = onWait w := by
  unfold runAccOr
  rw [h]

/-- The device once a context's sample is latched. -/
def mirrorLatched (x : Nat) (v : Dev) : Dev := ctrCountSample x (timerMark (tmMirror x) v)

/-- The sample latched for a context's mirror (R465, R466). -/
def mirrorWaitOf (x : Nat) (v : Dev) : MirrorWait :=
  ⟨x, (getMirror v x).addr, (tabGet 0 (mirrorLatched x v).ctr.samples x).toNat, sampleBody v x 19 1 (ctrEpoch v x)⟩

section
variable {x : Nat} {s : State} (hr : s.dev.power.railsUp = true) (hp : (getMirror s.dev x).period ≠ 0)
  (ha : (getMirror s.dev x).addr ≠ 0) (hd : timerDue s.dev (tmMirror x) (1000 * (getMirror s.dev x).period.toNat) = true)
include hr hp ha hd

theorem mirrorSample_puts : poweredWork (mirrorSample x) (workOf s) =
    mirrorPut (mirrorWaitOf x s.dev) { workOf s with dev := mirrorLatched x s.dev } := by
  refine (if_pos hr).trans ?_
  unfold mirrorSample
  dsimp only
  rw [workOf_dev, if_neg (by rw [hd]; simpa using ⟨hp, ha⟩)]
  unfold mirrorTake
  exact if_neg ha

end

section
variable {m : MirrorWait} {s : State} {v : Dev} {u : Work}

theorem mirrorPut_written (h : (writeSample m.ctx m.addr m.seq m.body).run { workOf s with dev := v } = (.ok (), u)) :
    mirrorPut m { workOf s with dev := v } = snoopsUsed { u with dest := [] } :=
  runAccOr_ok (ueFails_ok h)

theorem mirrorPut_fails {a : W64} (h : (writeSample m.ctx m.addr m.seq m.body).run { workOf s with dev := v } = (.error (.fail stTranslation a), u)) :
    mirrorPut m { workOf s with dev := v } =
      onDev (fun v => { v with ctr := { v.ctr with mirrorFaults := satAdd v.ctr.mirrorFaults 1 } }) (snoopsUsed (freeDest u)) :=
  (runAccOr_stop (ueFails_stop h rfl)).trans (if_pos rfl)

theorem mirrorPut_waits (h : (writeSample m.ctx m.addr m.seq m.body).run { workOf s with dev := v } = (.error .wait, u)) :
    mirrorPut m { workOf s with dev := v } =
      onDev (fun v => { v with ctr := { v.ctr with mirrorWaits := v.ctr.mirrorWaits ++ [m] } }) { workOf s with dev := v } :=
  runAccOr_wait (ueFails_stop h rfl)

end

theorem sampleView_freeDestByte (r : Requestor) (va : W64) (w : Work) : sampleView (freeDestByte r va w) = sampleView w := by
  unfold freeDestByte
  split
  · next u h =>
    exact (endSame_bind (clearTag_ends sampleView_blind r va) fun _ => writeRaw_ends sampleView_blind r _ _ va _).ok w _ u h
  · rfl

/-- Destinations made free leave the same. -/
theorem sampleView_freed (w : Work) : sampleView (snoopsUsed (freeDest w)) = sampleView w := by
  change sampleView (freeDest w) = sampleView w
  unfold freeDest
  refine List.foldlRecOn (motive := fun u : Work => sampleView u = sampleView w) _ _ rfl fun u h c _ => ?_
  exact List.foldlRecOn (motive := fun u : Work => sampleView u = sampleView w) _ _ h fun t k i _ =>
    (sampleView_freeDestByte _ _ t).trans k


/-- Settles O59: each operation runs alone from the queue (`ctrRow_done`), and a mirror's sample is one record's write (`mirrorSample_puts`). -/
theorem countersResetAndSample : Obligations.CountersResetAndSample := by
  unfold Obligations.CountersResetAndSample
  refine ⟨fun set ide s hl hq hv he hsm hlost => ?_, ?_, sampleBody_length⟩
  · refine ⟨fun hk => ⟨ctrRow_unlisted hl hq hk, ctrRow_unlisted hl hq hk, ctrRow_unlisted hl hq hk⟩, fun n hk => ⟨?_, ?_, ?_⟩⟩
    · exact ⟨_, ctrReset_done hl hq hk, fun i hi => (ctrGet_ctrReset _ hi).trans (if_pos rfl), ctrEpoch_ctrReset he,
        fun j i hj hi => (ctrGet_ctrReset _ hi).trans (if_neg hj), fun j hj => ctrEpoch_ctrReset_other hj, rfl⟩
    · intro w hs hw hp hrun
      have hview := (writeSample_ends _ _ _ _).ok _ _ w ((takeSample_run ..).symm.trans hrun)
      obtain ⟨hr, hd, hc, ha⟩ := sampleView_tables hview
      refine ⟨_, ctrRow_done hl hq (by decide) hk (ctrExec_sample hk ▸ hrun) ((sampleView_queue hview).trans hq),
        storedBy_commit hs hw hlost hp, ?_⟩
      rw [commit_dev, breakReserved_only]
      exact ⟨sampleView_epoch hview _, (congrArg (tabGet 0 · _) (sampleView_samples hview)).trans (samples_ctrCountSample hsm),
        (sampleView_queue hview).trans hq, hr, hd, hc, ha⟩
    · intro w hs hw hp
      dsimp only
      intro hrun
      have hview := (writeSample_ends _ _ _ _).ok _ _ w hrun
      obtain ⟨hr, hd, hc, -⟩ := sampleView_tables hview
      refine ⟨fun i hi => (ctrGet_ctrReset _ hi).trans (if_pos rfl), ?_⟩
      refine ⟨_, ctrRow_done hl hq (by decide) hk ((ctrExec_sampleReset hk ▸ takeSample_reset_run ..).trans hrun)
        ((sampleView_queue hview).trans hq), storedBy_commit hs hw hlost hp, ?_⟩
      rw [commit_dev, breakReserved_only]
      exact ⟨fun i hi => rfl, (sampleView_epoch hview _).trans (ctrEpoch_ctrReset he),
        (congrArg (tabGet 0 · _) (sampleView_samples hview)).trans (samples_ctrCountSample hsm),
        (sampleView_queue hview).trans hq, hr, hd, hc⟩
  · intro x s
    dsimp only
    intro hr hp ha hd
    have hx {u : Work} (h : mirrorPut (mirrorWaitOf x.val s.dev) { workOf s with dev := mirrorLatched x.val s.dev } = u) :
        exec (.mirrorSample x) s = .next (commit s u) := runWork_eq ((mirrorSample_puts hr hp ha hd).trans h)
    refine ⟨fun w hs hw hlost hpw hrun => ?_, fun a w hrun => ?_, fun w hrun => ?_⟩
    · have hview := (writeSample_ends _ _ _ _).ok _ _ w hrun
      obtain ⟨hr, hd, hc, -⟩ := sampleView_tables hview
      refine ⟨_, hx (mirrorPut_written hrun), storedBy_commit hs hw hlost hpw, ?_⟩
      rw [commit_dev, breakReserved_only]
      exact ⟨rfl, hr, hd, hc⟩
    · have hview := (sampleView_freed w).trans ((writeSample_ends _ _ _ _).stop _ _ _ w hrun (by decide))
      obtain ⟨hr, hd, hc, -⟩ := sampleView_tables hview
      refine ⟨_, hx (mirrorPut_fails hrun), ?_⟩
      rw [commit_dev, breakReserved_only]
      exact ⟨(congrArg (fun v : Dev => satAdd v.ctr.mirrorFaults 1) hview :), hr, hd⟩
    · refine ⟨_, hx (mirrorPut_waits hrun), ?_⟩
      rw [commit_noStores _ _ rfl rfl]
      exact ⟨rfl, rfl, rfl, rfl, rfl⟩

end Sys2Proof.Machine
end
section
/-! The trace (R468 to R475): samples queued, records accepted, triggers, and the buffer armed, dumped and drained. -/

namespace Sys2Proof.Machine

open Sys2Proof

/-! ### Queues -/

/-- A queue once a record is offered to it (R470). -/
def queued (q : Nat) (r : TraceRec) (t : W64) (x : TraceQueue) : TraceQueue :=
  if 64 ≤ x.records.length then { x with drops := x.drops + 1 }
  else if x.drops = 0 then { x with records := x.records ++ [r] }
  else { records := x.records ++ [⟨t, 0x07, 0, 0x3FF, leBytes 4 x.drops ++ leBytes 1 q⟩, r], drops := 0 }

theorem traceTo_eq (q : Nat) (r : TraceRec) (v : Dev) :
    traceTo q r v = setTrc (fun t => { t with queues := t.queues.modify q (queued q r v.pace.time) }) v := rfl

theorem queues_modified {l : List TraceQueue} {q : Nat} (f : TraceQueue → TraceQueue) (h : q < l.length) :
    (l.modify q f).getD q {} = f (l.getD q {}) := by
  rw [List.getD_eq_getElem?_getD, List.getD_eq_getElem?_getD, List.getElem?_modify_eq, List.getElem?_eq_getElem h]
  rfl

theorem queues_modified_other {l : List TraceQueue} {q j : Nat} (f : TraceQueue → TraceQueue) (h : j ≠ q) :
    (l.modify q f).getD j {} = l.getD j {} := by
  rw [List.getD_eq_getElem?_getD, List.getD_eq_getElem?_getD, List.getElem?_modify]
  simp only [h.symm, if_false, Option.map_eq_map, Option.map_id']

/-- A cause that may be noted changes the causes only. -/
theorem trcCause_offered (c : Prop) [Decidable c] (f : Trc → Trc) (v : Dev) :
    ∃ l, (if c then trcCause 3 (setTrc f v) else setTrc f v) = setTrc (fun t => { f t with causes := l }) v := by
  unfold trcCause
  split
  · split
    · exact ⟨_, rfl⟩
    · exact ⟨(f v.trc).causes, rfl⟩
  · exact ⟨(f v.trc).causes, rfl⟩

/-! ### Samples -/

/-- A sample that is due is one record offered to its port's queue (R468). -/
theorem pcSample_offers {u : SampleUnit} {stall : Byte} {v : Dev} (ht : trcOn (sampleSource u).2.2 v = true)
    (hd : timerDue v (tmPcs (sampleSource u).1) v.trc.interval.toNat = true) :
    ∃ ctx payload l, pcSample u stall v =
      setTrc (fun t => { t with
        causes := l
        queues := t.queues.modify (sampleSource u).2.1
          (queued (sampleSource u).2.1 ⟨v.pace.time, 0x01, ctx, BitVec.ofNat 16 (sampleSource u).1, payload⟩ v.pace.time) })
        (timerMark (tmPcs (sampleSource u).1) v) := by
  unfold pcSample
  generalize sampleSource u = x at ht hd ⊢
  obtain ⟨src, q, bit⟩ := x
  dsimp only at ht hd ⊢
  rw [if_neg (by rw [ht, hd]; exact Bool.false_ne_true), traceTo_eq]
  exact ⟨_, _, trcCause_offered _ _ _⟩

theorem setTrc_eq {f : Trc → Trc} {v : Dev} {t : Trc} (h : f v.trc = t) : setTrc f v = { v with trc := t } := by
  rw [← h]
  rfl

/-! ### Records accepted, and the trigger -/

section
variable {q : Nat} {r : TraceRec} {rest : List TraceRec} {v : Dev} (hk : (v.trc.queues.getD q {}).records = r :: rest)
include hk

theorem traceAccept_head : traceAccept q v =
    if !v.trc.running then
      (if r.type = 0x07 then v else setTrc (fun t => { t with
        queues := t.queues.set q { v.trc.queues.getD q {} with records := rest }, droppedFull := satAdd t.droppedFull 1 }) v)
    else if !trcRoom v.trc then v
    else setTrc (fun t => trcPush r { t with queues := t.queues.set q { v.trc.queues.getD q {} with records := rest } }) v := by
  unfold traceAccept
  dsimp only
  rw [hk]
  rfl

end

theorem trcRoom_noSpill {t : Trc} (h : t.spillEnable = false) : trcRoom t = true := by
  unfold trcRoom
  rw [h]
  rfl

/-- A wrapping buffer drops its oldest record when it is full (R471). -/
theorem trcPush_wraps (r : TraceRec) {t : Trc} (hs : t.spillEnable = false) (hm : t.mode = 1) :
    trcPush r t = { t with buffer := (t.buffer ++ [r]).drop (t.buffer.length + 1 - trcCap) } := by
  unfold trcPush
  rw [if_neg (by rw [hs]; exact Bool.false_ne_true), if_neg (by rw [hm]; simp)]

/-- A buffer that stops when full takes its last record and stops (R471). -/
theorem trcPush_stops (r : TraceRec) {t : Trc} (hs : t.spillEnable = false) (hm : t.mode = 0) (hl : t.buffer.length < trcCap) :
    trcPush r t = { t with buffer := t.buffer ++ [r], running := decide (t.buffer.length + 1 < trcCap) } := by
  unfold trcPush
  rw [if_neg (by rw [hs]; exact Bool.false_ne_true), if_pos (by rw [hm]; rfl), if_pos hl]

theorem wrapped_eq {α : Type} (l : List α) (r : α) (h : l.length ≤ trcCap) : (l ++ [r]).drop (l.length + 1 - trcCap) =
    if l.length < trcCap then l ++ [r] else (l ++ [r]).drop 1 := by
  split
  · next hl => rw [Nat.sub_eq_zero_of_le hl]; rfl
  · next hl => rw [Nat.le_antisymm h (Nat.not_lt.mp hl), Nat.add_sub_cancel_left]

section
variable {cause : Nat} {rest : List Nat} {v : Dev} (hc : v.trc.causes = cause :: rest)
include hc

theorem traceTrigger_again (ht : v.trc.running = false ∨ v.trc.triggered = true) :
    traceTrigger cause v = setTrc (fun t => { t with causes := rest }) v := by
  unfold traceTrigger
  rw [hc]
  dsimp only
  rw [if_neg (not_not_intro rfl), if_pos (by rcases ht with ht | ht <;> simp [ht])]

/-- The first trigger writes its record in a wrapping buffer. -/
theorem traceTrigger_first (hr : v.trc.running = true) (ht : v.trc.triggered = false) (hs : v.trc.spillEnable = false) (hm : v.trc.mode = 1) :
    traceTrigger cause v = setTrc (fun t => trcPush ⟨v.pace.time, 0x06, 0, 0x3FF, [BitVec.ofNat 8 cause]⟩
      { t with causes := [], triggered := true }) v := by
  unfold traceTrigger
  rw [hc]
  dsimp only
  rw [if_neg (not_not_intro rfl), if_neg (by rw [ht, hr]; exact Bool.false_ne_true), if_neg (by rw [trcRoom_noSpill hs]; exact Bool.false_ne_true)]
  unfold setTrc
  dsimp only
  rw [if_neg (by rw [hs]; exact Bool.false_ne_true), if_neg (by rw [hm]; decide)]
  rfl

end

/-! ### The registers -/

theorem getLsbD_orBit (x : W64) (k : Nat) {j : Nat} (hj : j < 64) : (x ||| placeB k true).getLsbD j = (x.getLsbD j || decide (j = k)) := by
  have hb : (placeB k true).getLsbD j = decide (j = k) := by
    unfold placeB
    rw [if_pos rfl, ← BitVec.twoPow_eq, BitVec.getLsbD_twoPow]
    by_cases h : j = k
    · simp [← h, hj]
    · simp [h, Ne.symm h]
  rw [BitVec.getLsbD_or, hb]

/-- A field does not see a bit set outside it. -/
theorem fld_orBit {w lo k : Nat} (x : W64) (hw : lo + w ≤ 64) (h : k < lo ∨ lo + w ≤ k) :
    fld w lo (x ||| placeB k true) = (x >>> lo).setWidth w := by
  refine BitVec.eq_of_getLsbD_eq fun i hi => ?_
  have hne : lo + i ≠ k := by omega
  simp only [fld, BitVec.getLsbD_setWidth, BitVec.getLsbD_ushiftRight, getLsbD_orBit x k (show lo + i < 64 by omega), hne, decide_false,
    Bool.or_false]

theorem bitAt_orBit_same (x : W64) {k : Nat} (hk : k < 64) : bitAt k (x ||| placeB k true) = true := by
  rw [bitAt, getLsbD_orBit x k hk, decide_eq_true rfl, Bool.or_true]

theorem bitAt_orBit_other (x : W64) {j k : Nat} (hj : j < 64) (h : j ≠ k) : bitAt j (x ||| placeB k true) = x.getLsbD j := by
  rw [bitAt, getLsbD_orBit x k hj, decide_eq_false h, Bool.or_false]

theorem trcTrig_fires {x : W64} {v : Dev} (hx : x.getLsbD 0 = true) : trcTrig (x ||| placeB 4 true) v = setTrc (fun t => { t with
    trigEn := x.setWidth 4, trigCtx := (x >>> 5).setWidth 6, trigStall := (x >>> 11).setWidth 8, trigCode := (x >>> 19).setWidth 13
    causes := t.causes ++ [0] }) v := by
  unfold trcTrig
  rw [fld_orBit x (by decide) (by decide), fld_orBit x (by decide) (by decide), fld_orBit x (by decide) (by decide),
    fld_orBit x (by decide) (by decide), bitAt_orBit_same x (by decide), BitVec.ushiftRight_zero]
  unfold trcCause setTrc
  dsimp only
  rw [if_pos rfl, if_pos (by simp [hx])]

/-- MODE and PRE of a write of TRC_CTRL (R475). -/
def trcModed (x : W64) (t : Trc) : Trc := { t with mode := x.setWidth 2, pre := (x >>> 2).setWidth 4 }

theorem trcCtrl_moded {x : W64} {k : Nat} {w : Work} (hk : 6 ≤ k) (hx : (x.setWidth 2 : BitVec 2) ≠ 3) :
    onDev (setTrc (fun t => { t with
      mode := if fld 2 0 (x ||| placeB k true) = 3 then t.mode else fld 2 0 (x ||| placeB k true), pre := fld 4 2 (x ||| placeB k true) })) w =
    onDev (setTrc (trcModed x)) w := by
  rw [fld_orBit x (by decide) (.inr (by omega)), fld_orBit x (by decide) (.inr (by omega)), BitVec.ushiftRight_zero]
  simp only [if_neg hx]
  rfl

theorem trcCtrl_arms {x : W64} {w : Work} (h7 : x.getLsbD 7 = false) (hx : (x.setWidth 2 : BitVec 2) ≠ 3) :
    trcCtrl (x ||| placeB 6 true) w = onDev (fun v => trcArm (setTrc (trcModed x) v)) w := by
  unfold trcCtrl
  dsimp only
  rw [trcCtrl_moded (by decide) hx, bitAt_orBit_same x (by decide), bitAt_orBit_other x (by decide) (by decide), h7]
  rfl

theorem trcCtrl_dumps {x : W64} {w : Work} (h6 : x.getLsbD 6 = false) (hx : (x.setWidth 2 : BitVec 2) ≠ 3) :
    trcCtrl (x ||| placeB 7 true) w = trcDump (onDev (setTrc (trcModed x)) w) := by
  unfold trcCtrl
  dsimp only
  rw [trcCtrl_moded (by decide) hx, bitAt_orBit_same x (by decide), bitAt_orBit_other x (by decide) (by decide), h6]
  rfl

/-! ### The buffer copied and drained -/

/-- The copy of a stopped buffer to the spill region (R473). -/
def dumpWrite (t : Trc) : Acc Unit := writeBytes (edge 0) t.spillBase ((t.buffer.take (spillBytes t / 32)).flatMap traceBytes)

theorem trcDump_running {w : Work} (hr : w.dev.trc.running = true) : trcDump w = w := if_pos (by rw [hr, Bool.or_true])

section
variable {s : State} {v : Dev} {u : Work} (hs : v.trc.spillEnable = false) (hr : v.trc.running = false)
include hs hr

theorem trcDump_written (h : (dumpWrite v.trc).run { workOf s with dev := setTrc (fun t => { t with dumpWaits := false }) v } = (.ok (), u)) :
    trcDump { workOf s with dev := v } = onDev (setTrc (fun t => { t with dumped := true })) (snoopsUsed { u with dest := [] }) := by
  unfold trcDump
  dsimp only
  rw [if_neg (by rw [hs, hr]; exact Bool.false_ne_true)]
  exact runAccOr_ok (ueFails_ok h)

theorem trcDump_waits (h : (dumpWrite v.trc).run { workOf s with dev := setTrc (fun t => { t with dumpWaits := false }) v } = (.error .wait, u)) :
    trcDump { workOf s with dev := v } = { workOf s with dev := setTrc (fun t => { t with dumpWaits := true }) v } := by
  unfold trcDump
  dsimp only
  rw [if_neg (by rw [hs, hr]; exact Bool.false_ne_true)]
  exact runAccOr_wait (ueFails_stop h rfl)

end

theorem spillOne_idle {w : Work} (h : w.dev.trc.buffer = []) : spillOne.run w = (.ok (), w) := by
  unfold spillOne
  refine (acc_bind_ok (acc_get w)).trans ?_
  dsimp only
  rw [h]
  rfl

/-- The trace once the last record of the buffer is in the spill region (R473). -/
def spilled (t : Trc) : Trc :=
  let n := t.drained + 32
  let filled := (n - t.armBase).toNat
  let full := (t.mode = 0 && decide (spillBytes t ≤ filled)) || t.stopAt.any (fun s => decide (s ≤ filled))
  let t := { t with buffer := [], drained := n, spillTail := if n.toNat % 4096 = 0 then n else t.spillTail }
  if full then { t with running := false, buffer := [], droppedFull := satAdd t.droppedFull 0 } else t

theorem spilled_buffer (t : Trc) : (spilled t).buffer = [] ∧ (spilled t).drained = t.drained + 32 ∧
    (spilled t).spillEnable = t.spillEnable ∧ (spilled t).queues = t.queues := by
  unfold spilled
  dsimp only
  split <;> exact ⟨rfl, rfl, rfl, rfl⟩

theorem spillOne_last {r : TraceRec} {w u : Work} (hb : w.dev.trc.buffer = [r])
    (h : (writeBytes (edge 0) (w.dev.trc.spillBase + BitVec.ofNat 64 (w.dev.trc.drained.toNat % spillBytes w.dev.trc)) (traceBytes r)).run w =
      (.ok (), u)) : spillOne.run w = (.ok (), onDev (setTrc spilled) u) := by
  unfold spillOne
  refine (acc_bind_ok (acc_get w)).trans ?_
  dsimp only
  rw [hb]
  exact (acc_bind_ok h).trans rfl

/-- Drains one after another, of which the first leaves the others nothing to do. -/
theorem forIn_run {m : Acc Unit} {u : Work} (h2 : m.run u = (.ok (), u)) (l : List Nat) (i : Nat) (w : Work) (h : m.run w = (.ok (), u)) :
    (forIn (i :: l) PUnit.unit (fun _ _ => m >>= fun _ => pure (ForInStep.yield PUnit.unit)) : Acc PUnit).run w = (.ok (), u) := by
  have hy {w : Work} (h : m.run w = (.ok (), u)) :
      (m >>= fun _ => pure (ForInStep.yield PUnit.unit) : Acc (ForInStep PUnit)).run w = (.ok (.yield ⟨⟩), u) := acc_bind_ok h
  induction l generalizing i w with
  | nil => rw [List.forIn_cons]; exact (acc_bind_ok (hy h)).trans rfl
  | cons j l ih => rw [List.forIn_cons]; exact (acc_bind_ok (hy h)).trans (ih j u h2)

theorem spilled_idle (u : Work) : (ueFailsOpen 0 spillOne).run (onDev (setTrc spilled) u) = (.ok (), onDev (setTrc spilled) u) := by
  have hb : (onDev (setTrc spilled) u).dev.trc.buffer = [] := (spilled_buffer u.dev.trc).1
  generalize onDev (setTrc spilled) u = w at hb
  exact ueFails_ok (fail := failCtxOpen 0 stMemoryUe.toNat) (spillOne_idle hb)

theorem spillDrain_last {s : State} {r : TraceRec} {u : Work} (hs : s.dev.trc.spillEnable = true) (hb : s.dev.trc.buffer = [r])
    (h : (writeBytes (edge 0) (s.dev.trc.spillBase + BitVec.ofNat 64 (s.dev.trc.drained.toNat % spillBytes s.dev.trc)) (traceBytes r)).run
      (workOf s) = (.ok (), u)) : spillDrain (workOf s) = snoopsUsed { onDev (setTrc spilled) u with dest := [] } := by
  have h1 := ueFails_ok (fail := failCtxOpen 0 stMemoryUe.toNat) (spillOne_last (w := workOf s) hb h)
  have h2 := spilled_idle u
  generalize onDev (setTrc spilled) u = w at h1 h2 ⊢
  unfold spillDrain
  rw [if_neg (by rw [workOf_dev, hs]; exact Bool.false_ne_true)]
  exact runAcc_ok (a := ()) ((acc_bind_ok (forIn_run h2 [1, 2, 3] 0 (workOf s) h1)).trans rfl)

theorem spillDrain_off {w : Work} (h : w.dev.trc.spillEnable = false) : spillDrain w = w := if_pos (by rw [h]; rfl)

theorem sampleView_trc {u w : Work} (h : sampleView w = sampleView u) : w.dev.trc = u.dev.trc := (congrArg Dev.trc h :)

/-- Settles O60: an equation for each operation, with the writes of a copy and of a drain under `sampleView`. -/
theorem traceCapturesInOrder : Obligations.TraceCapturesInOrder := by
  unfold Obligations.TraceCapturesInOrder
  refine ⟨fun u stall s => ?_, fun q r rest s => ?_, fun cause rest s hp hc hr => ?_, fun w s hl hw => ?_, fun w s hl h7 hm => ?_,
    fun w u s hs hl h6 hm hsp hu => ?_, fun r u s hs hu hlost hp => ?_⟩
  · dsimp only
    intro hr ht hd hq
    obtain ⟨ctx, payload, l, hx⟩ := pcSample_offers (u := u) (stall := stall) ht hd
    refine ⟨_, ⟨s.dev.pace.time, 0x01, ctx, BitVec.ofNat 16 (sampleSource u).1, payload⟩, runDev_eq ((if_pos hr).trans hx),
      fun h1 h2 => ?_, fun h1 h2 => ?_, fun h1 => ?_, rfl, rfl, rfl, fun j hj => queues_modified_other _ hj, rfl, rfl⟩
    · have hk := (queues_modified (queued (sampleSource u).2.1 ⟨s.dev.pace.time, 0x01, ctx, BitVec.ofNat 16 (sampleSource u).1, payload⟩
        s.dev.pace.time) hq).trans ((if_neg (Nat.not_le.mpr h1)).trans (if_pos h2))
      exact congrArg TraceQueue.records hk
    · have hk := (queues_modified (queued (sampleSource u).2.1 ⟨s.dev.pace.time, 0x01, ctx, BitVec.ofNat 16 (sampleSource u).1, payload⟩
        s.dev.pace.time) hq).trans ((if_neg (Nat.not_le.mpr h1)).trans (if_neg h2))
      exact ⟨_, congrArg TraceQueue.records hk, congrArg TraceQueue.drops hk, rfl, rfl⟩
    · exact (queues_modified _ hq).trans (if_pos h1)
  · dsimp only
    intro hp hk hlen
    have hx := traceAccept_head hk
    have hex {v : Dev} (h : traceAccept q.val s.dev = v) : exec (.traceRecordAccept q) s = .next { s with dev := v } :=
      runDev_eq ((if_pos hp).trans h)
    refine ⟨fun hr h7 => hex (hx.trans ?_), fun hr h7 => hex (hx.trans ?_), fun hr hs hm hl => hex (hx.trans ?_),
      fun hr hs hm hl => hex (hx.trans ?_)⟩
    · rw [if_pos (by rw [hr]; rfl), if_pos h7]
    · rw [if_pos (by rw [hr]; rfl), if_neg h7]; rfl
    · rw [if_neg (by rw [hr]; exact Bool.false_ne_true), if_neg (by rw [trcRoom_noSpill hs]; exact Bool.false_ne_true)]
      refine setTrc_eq ?_
      rw [trcPush_wraps r (by exact hs) (by exact hm), wrapped_eq _ r hl]
    · rw [if_neg (by rw [hr]; exact Bool.false_ne_true), if_neg (by rw [trcRoom_noSpill hs]; exact Bool.false_ne_true)]
      exact setTrc_eq (trcPush_stops r (by exact hs) (by exact hm) (by exact hl))
  · have hex {v : Dev} (h : traceTrigger cause.val s.dev = v) : exec (.traceTrigger cause) s = .next { s with dev := v } :=
      runDev_eq ((if_pos hp).trans h)
    refine ⟨fun ht => hex (traceTrigger_again hc (.inr ht)), fun ht hs hm hl => hex ((traceTrigger_first hc hr ht hs hm).trans ?_)⟩
    refine setTrc_eq ?_
    rw [trcPush_wraps _ (by exact hs) (by exact hm), wrapped_eq _ _ (Nat.le_of_lt hl), if_pos hl]
  · refine (runWork_lands _ hl).trans ?_
    change Host.Outcome.next (commit s { workOf s with dev := trcTrig (w.value ||| placeB 4 true) s.dev }) = _
    rw [trcTrig_fires hw, commit_workOf]
    rfl
  · refine (runWork_lands _ hl).trans ?_
    change Host.Outcome.next (commit s (trcCtrl (w.value ||| placeB 6 true) (workOf s))) = _
    rw [trcCtrl_arms h7 hm]
    exact congrArg Host.Outcome.next (commit_workOf s _)
  · have hex {v : Work} (h : trcDump { workOf s with dev := setTrc (trcModed w.value) s.dev } = v) :
        exec (.trcDump w) s = .next (commit s v) := by
      refine (runWork_lands _ hl).trans ?_
      change Host.Outcome.next (commit s (trcCtrl (w.value ||| placeB 7 true) (workOf s))) = _
      rw [trcCtrl_dumps h6 hm]
      exact congrArg (fun v => Host.Outcome.next (commit s v)) h
    dsimp only
    refine ⟨fun hr => (hex (trcDump_running hr)).trans (congrArg Host.Outcome.next (commit_workOf s _)),
      fun hr hlost hpu => ⟨fun hrun => ?_, fun hrun => ?_⟩⟩
    · have hview := (writeBytes_ends sampleView_blind _ _ _).ok _ _ u hrun
      obtain ⟨hri, hd, hc, -⟩ := sampleView_tables hview
      refine ⟨_, hex (trcDump_written hsp hr hrun), storedBy_commit hs hu hlost hpu, ?_⟩
      rw [commit_dev, breakReserved_only]
      exact ⟨(congrArg (fun t : Trc => { t with dumped := true }) (sampleView_trc hview) :), hri, hd, hc⟩
    · exact (hex (trcDump_waits hsp hr hrun)).trans (congrArg Host.Outcome.next (commit_workOf s _))
  · dsimp only
    refine ⟨fun hsp => runWork_unchanged ?_, fun hr hsp hb hrun => ?_⟩
    · unfold poweredWork
      rw [spillDrain_off (w := workOf s) hsp, ite_self]
    · have hview := (writeBytes_ends sampleView_blind _ _ _).ok _ _ u hrun
      obtain ⟨hri, hd, hc, -⟩ := sampleView_tables hview
      obtain ⟨hb1, hb2, hb3, hb4⟩ := spilled_buffer u.dev.trc
      have ht := sampleView_trc hview
      refine ⟨_, runWork_eq ((if_pos hr).trans (spillDrain_last hsp hb hrun)), storedBy_commit hs hu hlost hp, ?_⟩
      rw [commit_dev, breakReserved_only]
      exact ⟨hb1, hb2.trans (by rw [ht]; rfl), hb3.trans (by rw [ht]; exact hsp), hb4.trans (by rw [ht]; rfl), hri, hd, hc⟩

end Sys2Proof.Machine
end
section
/-! Ports (R337, R338, R346): enabled, trained, admitted or refused, and trained again. -/

namespace Sys2Proof.Machine

open Sys2Proof

/-! ### Ports and members as tables -/

/-- An enabled port is listed, whatever the table was. -/
theorem getPort_setPort_enabled (p : Nat) {q : Port} (v : Dev) (h : q.enable = true) : getPort (setPort p q v) p = q :=
  tabGet_tabPut_here _ (fun hq => by rw [hq] at h; exact Bool.noConfusion h) _ _

/-! ### Ports enabled and trained -/

theorem portOn_starts {p : Nat} {v : Dev} (hp : v.pace.parkState = 0) (hc : v.arm.cfgState ≠ 3 ∨ v.arm.nodeIdWritten = true) :
    portOn p v = setPort p { getPort v p with
      enable := true, state := 1, lanes := 0, refuse := 0, lastTrain := v.pace.time, fell := false } v := by
  unfold portOn
  refine if_neg ?_
  rw [hp]
  rcases hc with h | h
  · simpa using fun h3 => absurd h3 h
  · simp [h]

theorem portWrite_enables {p : Nat} {x : W64} {w : Work} (he : (getPort w.dev p).enable = false) :
    portWrite p ⟨true, true, x ||| 1⟩ w =
      onDev (fun v => portOn p (setPort p { getPort v p with sideLink := x.getLsbD 1 } v)) w := by
  have h0 : bitAt 0 (x ||| 1) = true := by simp [bitAt]
  have h1 : bitAt 1 (x ||| 1) = x.getLsbD 1 := by simp [bitAt]
  unfold portWrite
  dsimp only
  rw [if_neg (by decide), if_neg (by rw [he]; exact Bool.false_ne_true), h0, h1, if_pos rfl]
  rfl

theorem lanesTrained_refuses {p : Nat} {v : Dev} (he : (getPort v p).enable = true) (hs : (getPort v p).state = 1)
    (hf : v.arm.firmware = true) :
    lanesTrained p false false v = setPort p { getPort v p with state := 4, refuse := 6, lanes := 0 } v := by
  unfold lanesTrained
  dsimp only
  rw [if_neg (by simp [he, hs, hf])]
  rfl

theorem lanesTrained_identifies {p : Nat} {low high : Bool} {v : Dev} (he : (getPort v p).enable = true) (hs : (getPort v p).state = 1)
    (hf : v.arm.firmware = true) (hl : (low || high) = true) :
    lanesTrained p low high v = sendFrame p 0 v.fab.nextMsg 0 0 (.identity (ownIdentity v p))
      (setPort p { getPort v p with lanes := if low && high then 8 else 4 }
        { v with fab := { v.fab with nextMsg := v.fab.nextMsg + 1 } }) := by
  have hn : lanesOf low high = if low && high then 8 else 4 := by
    unfold lanesOf
    rw [hl, if_pos rfl]
  have hid (q : Port) (hq : q.enable = true) (hside : q.sideLink = (getPort v p).sideLink) :
      ownIdentity (setPort p q v) p = ownIdentity v p := by
    unfold ownIdentity
    rw [getPort_setPort_enabled p v hq, hside]
    rfl
  unfold lanesTrained
  dsimp only
  rw [if_neg (by simp [he, hs, hf]), hn, if_neg (by split <;> decide), hid { getPort v p with lanes := if low && high then 8 else 4 } he rfl]
  rfl

theorem portRetrain_trains {p : Nat} {v : Dev} (hf : v.arm.firmware = true) (he : (getPort v p).enable = true)
    (hq : toRetrain (getPort v p) = true) (ht : 10000000 ≤ (v.pace.time - (getPort v p).lastTrain).toNat) :
    portRetrain p v = setPort p { getPort v p with
      state := 1, lanes := 0, refuse := 0, retrains := satAdd (getPort v p).retrains 1, lastTrain := v.pace.time } v := by
  unfold portRetrain
  refine if_pos ?_
  rw [he, hq, hf]
  exact decide_eq_true ht

theorem portRetrain_early {p : Nat} {v : Dev} (ht : (v.pace.time - (getPort v p).lastTrain).toNat < 10000000) : portRetrain p v = v := by
  unfold portRetrain
  refine if_neg ?_
  have h : decide (10000000 ≤ since v (getPort v p).lastTrain) = false := decide_eq_false (Nat.not_le.mpr ht)
  rw [h, Bool.and_false]
  exact Bool.false_ne_true

theorem toRetrain_of {q : Port} (h : q.state = 5 ∨ q.fell = true ∧ (q.state = 1 ∨ q.state = 4 ∧ q.refuse = 6)) : toRetrain q = true := by
  unfold toRetrain
  rcases h with h | ⟨hf, h | ⟨h, hr⟩⟩ <;> simp [*]

/-! ### Identities -/

/-- The members once an identity frame of a node has been heard on a port. -/
def membersHeard (q : Port) (i : Identity) (v : Dev) : Tab Member :=
  if q.sideLink || i.node = v.fab.nodeId then v.members
  else tabPut {} v.members i.node.toNat { getMember v i.node.toNat with lastSeen := v.pace.time, lastFrame := v.pace.time }

/-- And this module's own record of its twin. -/
def fabHeard (q : Port) (i : Identity) (v : Dev) : Fab :=
  if q.sideLink = true ∧ i.node = v.fab.nodeId ∧ i.incarn = v.fab.twinIncarn then { v.fab with twinSeen := v.pace.time } else v.fab

theorem emit_heard {f : Dev → Dev} (o : Out) (v : Dev) {m : Tab Member} {b : Fab}
    (h : ∀ l, f { v with out := l } = { v with out := l, members := m, fab := b }) :
    f (emit o v) = { v with out := v.out ++ [o], members := m, fab := b } := h _

/-- An identity frame is acknowledged, and its sender heard (R335, R339). -/
theorem identityHeard_eq (p msg : Nat) (i : Identity) (v : Dev) : identityHeard p msg i v = { v with
    out := v.out ++ [.frame p v.fab.nodeId i.node msg 0 (.ack msg 0)]
    members := membersHeard (getPort v p) i v
    fab := fabHeard (getPort v p) i v } := by
  unfold identityHeard
  refine emit_heard (f := fun u => if (getPort u p).sideLink && i.incarn ≠ u.fab.twinIncarn then u else senderHeard p i.node u) _ v fun l => ?_
  unfold senderHeard membersHeard fabHeard
  change (if (getPort v p).sideLink && decide (i.incarn ≠ v.fab.twinIncarn) then ({ v with out := l } : Dev)
    else if (getPort v p).sideLink then
      (if i.node = v.fab.nodeId then { v with out := l, fab := { v.fab with twinSeen := v.pace.time } } else { v with out := l })
    else if i.node = v.fab.nodeId then { v with out := l } else _) = _
  cases hs : (getPort v p).sideLink with
  | true =>
    by_cases hi : i.incarn = v.fab.twinIncarn
    · by_cases hn : i.node = v.fab.nodeId <;> simp [hi, hn]
    · simp [hi]
  | false =>
    by_cases hn : i.node = v.fab.nodeId
    · simp [hn]
    · simp [hn]
      rfl

section
variable {p : Nat} {msg : Nat} {i : Identity} {v : Dev} (he : (getPort v p).enable = true) (hl : (getPort v p).lanes ≠ 0)
  (hs : (getPort v p).state = 1 ∨ (getPort v p).state = 4)

/-- The device once an identity frame is acknowledged. -/
def heardOf (p msg : Nat) (i : Identity) (v : Dev) : Dev := { v with
  out := v.out ++ [.frame p v.fab.nodeId i.node msg 0 (.ack msg 0)]
  members := membersHeard (getPort v p) i v
  fab := fabHeard (getPort v p) i v }

theorem heardOf_member (h : tabWf {} v.members = true) : (getMember (heardOf p msg i v) i.node.toNat).state = (getMember v i.node.toNat).state ∧
    (getMember (heardOf p msg i v) i.node.toNat).incarn = (getMember v i.node.toNat).incarn := by
  unfold heardOf membersHeard getMember
  dsimp only
  split
  · exact ⟨rfl, rfl⟩
  · rw [tabGet_tabPut_same _ _ _ _ h]
    exact ⟨rfl, rfl⟩

theorem heardOf_twin : (heardOf p msg i v).fab = fabHeard (getPort v p) i v ∧ (fabHeard (getPort v p) i v).twinState = v.fab.twinState ∧
    (fabHeard (getPort v p) i v).twinIncarn = v.fab.twinIncarn ∧ (fabHeard (getPort v p) i v).nodeId = v.fab.nodeId := by
  refine ⟨rfl, ?_⟩
  unfold fabHeard
  split <;> exact ⟨rfl, rfl, rfl⟩

/-- What is heard does not change whether the port is admitted. -/
theorem identityRefusal_heard (h : tabWf {} v.members = true) (q : Port) :
    identityRefusal (heardOf p msg i v) q i = identityRefusal v q i := by
  obtain ⟨hst, hin⟩ := heardOf_member (p := p) (msg := msg) (i := i) h
  obtain ⟨hf, htw, hti, hno⟩ := heardOf_twin (p := p) (msg := msg) (i := i) (v := v)
  unfold identityRefusal
  dsimp only
  rw [hst, hin, hf, htw, hti, hno]
  rfl

include he hl hs

/-- The port that an identity frame decides on. -/
theorem identityFrame_decides : identityFrame p msg i v =
    (let u := heardOf p msg i v
     let r := identityRefusal u (getPort v p) i
     let u' := setPort p { getPort v p with
        state := if r ≠ 0 then 4 else if (getPort v p).lanes = 8 then 2 else 3
        refuse := BitVec.ofNat 4 r, partner := i.node, partnerPort := i.port, partnerSide := i.straps.side
        fell := (getPort v p).fell && r ≠ 0 } u
     if r ≠ 0 then u' else if (getPort v p).sideLink then setTwin 2 i.incarn u'
     else ownChange (newLife i.node (getMember u' i.node.toNat).incarn i.incarn u')) := by
  unfold identityFrame
  dsimp only
  rw [if_neg (by simp [he, hl]), if_neg (by rcases hs with h | h <;> simp [h]), identityHeard_eq]
  rfl

end

theorem raiseMembership_quietly (node : BitVec 10) (old new : BitVec 3) (incarn : W32) (reason : Nat) (v : Dev) :
    quietly (raiseMembership node old new incarn reason v) = quietly v := by
  unfold raiseMembership
  split
  · exact raise_quietly ..
  · rfl

theorem quietly_fab {u v : Dev} (h : quietly u = quietly v) : u.fab = v.fab := (congrArg Dev.fab h :)
theorem quietly_out {u v : Dev} (h : quietly u = quietly v) : u.out = v.out := (congrArg Dev.out h :)
theorem quietly_members {u v : Dev} (h : quietly u = quietly v) : u.members = v.members := (congrArg Dev.members h :)

theorem newLife_only (node : BitVec 10) (old new : W32) (v : Dev) : ∃ l, newLife node old new v = { v with fab := { v.fab with seen := l } } := by
  unfold newLife
  split
  · exact ⟨v.fab.seen, rfl⟩
  · exact ⟨_, rfl⟩

/-- A change of the twin's state (R368) is a change of this module's own record of it, with its event. -/
theorem setTwin_quietly (st : BitVec 3) (incarn : W32) (v : Dev) : ∃ l, quietly (setTwin st incarn v) =
    quietly { v with fab := { v.fab with twinState := st, twinIncarn := incarn, twinSeen := v.pace.time, seen := l } } := by
  obtain ⟨l, hl⟩ := newLife_only v.fab.nodeId v.fab.twinIncarn incarn v
  unfold setTwin
  rw [hl]
  refine ⟨l, ?_⟩
  dsimp only
  split
  · rfl
  · exact raiseMembership_quietly ..

theorem identityRefusal_side {v : Dev} {q : Port} {i : Identity} (h : i.straps.side ≠ v.power.straps.side) (hq : q.sideLink = false) :
    identityRefusal v q i = 1 := by
  unfold identityRefusal
  exact if_pos (by simp [hq, h])

theorem identityRefusal_link {v : Dev} {q : Port} {i : Identity} (h : i.straps.side = v.power.straps.side) (hq : q.sideLink = false)
    (hi : i.sideLink = true) : identityRefusal v q i = 2 := by
  unfold identityRefusal
  rw [if_neg (by simp [hq, h]), if_pos (by simp [hq, hi])]

section
variable {p : Nat} {msg : Nat} {i : Identity} {v : Dev} (hw : tabWf {} v.members = true) (he : (getPort v p).enable = true)
  (hl : (getPort v p).lanes ≠ 0) (hs : (getPort v p).state = 1 ∨ (getPort v p).state = 4)
include hw he hl hs

theorem identityFrame_refuses (hr : identityRefusal v (getPort v p) i ≠ 0) : identityFrame p msg i v = setPort p { getPort v p with
    state := 4, refuse := BitVec.ofNat 4 (identityRefusal v (getPort v p) i), partner := i.node, partnerPort := i.port
    partnerSide := i.straps.side } (heardOf p msg i v) := by
  rw [identityFrame_decides he hl hs]
  dsimp only
  rw [identityRefusal_heard hw]
  simp only [if_pos hr]
  rw [decide_eq_true hr, Bool.and_true]

theorem identityFrame_admits (hr : identityRefusal v (getPort v p) i = 0) (hq : (getPort v p).sideLink = false) :
    identityFrame p msg i v = ownChange (newLife i.node (getMember v i.node.toNat).incarn i.incarn (setPort p { getPort v p with
      state := if (getPort v p).lanes = 8 then 2 else 3, refuse := 0, fell := false
      partner := i.node, partnerPort := i.port, partnerSide := i.straps.side } (heardOf p msg i v))) := by
  have hin := (heardOf_member (p := p) (msg := msg) (i := i) hw).2
  rw [identityFrame_decides he hl hs]
  dsimp only
  rw [identityRefusal_heard hw, hr, if_neg (not_not_intro rfl), if_neg (by rw [hq]; exact Bool.false_ne_true)]
  change ownChange (newLife i.node (getMember (heardOf p msg i v) i.node.toNat).incarn i.incarn _) = _
  rw [hin]
  simp

theorem identityFrame_twin (hr : identityRefusal v (getPort v p) i = 0) (hq : (getPort v p).sideLink = true) :
    ∃ q, identityFrame p msg i v = setTwin 2 i.incarn (setPort p q (heardOf p msg i v)) := by
  rw [identityFrame_decides he hl hs]
  dsimp only
  rw [identityRefusal_heard hw, hr, if_neg (not_not_intro rfl), if_pos hq]
  exact ⟨_, rfl⟩

end

/-- Settles O54: an equation for each command, with `identityFrame_decides` for the admission. -/
theorem portsTrainAndAdmit : Obligations.PortsTrainAndAdmit := by
  unfold Obligations.PortsTrainAndAdmit
  refine ⟨fun p w s hl hw he hp hc => ?_, fun p low high s he hs hf => ?_, fun p msg i s hw he hl hs => ?_, fun p s hf => ?_⟩
  · have hon {v : Dev} (h : portOn p (setPort p { getPort s.dev p with sideLink := w.value.getLsbD 1 } s.dev) = v) :
        exec (.portEnable p w) s = .next { s with dev := v } := by
      refine (runWork_lands _ hl).trans ?_
      rw [portWrite_enables (w := workOf s) he, ← h]
      exact congrArg Host.Outcome.next (commit_workOf s _)
    have hq := getPort_setPort_same p.val { getPort s.dev p with sideLink := w.value.getLsbD 1 } s.dev hw
    refine ⟨_, hon (portOn_starts hp hc), ?_, fun k hk => ?_, rfl⟩
    · rw [hq]
      exact getPort_setPort_same _ _ _ (tabPut_wf _ _ _ _ hw)
    · exact (getPort_setPort_other _ _ _ _ hk).trans (getPort_setPort_other _ _ _ _ hk)
  · dsimp only
    refine ⟨fun h => ⟨_, runDev_eq (lanesTrained_identifies he hs hf h), rfl⟩, fun h1 h2 => ?_⟩
    rw [h1, h2]
    exact runDev_eq (lanesTrained_refuses he hs hf)
  · dsimp only
    refine ⟨fun hr => ?_, fun hr hq => ?_, fun hr hq => ?_, identityRefusal_side, identityRefusal_link⟩
    · exact runDev_eq (identityFrame_refuses hw he hl hs hr)
    · refine runDev_eq ((identityFrame_admits hw he hl hs hr hq).trans ?_)
      have hfab : fabHeard (getPort s.dev p) i s.dev = s.dev.fab := if_neg (by simp [hq])
      unfold ownChange newLife heardOf
      rw [hfab]
      split <;> rfl
    · obtain ⟨q, hx⟩ := identityFrame_twin (msg := msg) hw he hl hs hr hq
      obtain ⟨l, ht⟩ := setTwin_quietly 2 i.incarn (setPort p q (heardOf p msg i s.dev))
      have hm : membersHeard (getPort s.dev p) i s.dev = s.dev.members := if_pos (by rw [hq]; rfl)
      refine ⟨_, runDev_eq hx, (congrArg (fun v : Dev => v.fab.twinState) ht :), (congrArg (fun v : Dev => v.fab.twinIncarn) ht :),
        (congrArg (fun v : Dev => v.fab.twinSeen) ht :), (congrArg Dev.out ht :), (congrArg Dev.members ht :).trans hm⟩
  · dsimp only
    exact fun he hq => ⟨fun ht => runDev_eq (portRetrain_trains hf he (toRetrain_of hq) ht), fun ht => runDev_eq (portRetrain_early ht)⟩

end Sys2Proof.Machine
end
section
/-! Frames (R335, R339, R344 to R346): acknowledged and committed once, sent again, given up with their port, and forwarded. -/

namespace Sys2Proof.Machine

open Sys2Proof

/-! ### Heard frames -/

/-- The members once a frame of a node has come in on an ordinary port (R339). -/
def membersMarked (p : Nat) (src : BitVec 10) (v : Dev) : Tab Member := (markHeard p src v).members

/-- On an ordinary port a frame that is heard changes the membership table only. -/
theorem markHeard_ordinary {p : Nat} {v : Dev} (src : BitVec 10) (h : (getPort v p).sideLink = false) :
    markHeard p src v = { v with members := membersMarked p src v } := by
  unfold membersMarked markHeard
  dsimp only
  rw [if_neg (by rw [h]; exact Bool.false_ne_true)]
  split <;> rfl

/-- The device once an acknowledgement has come in. -/
def ackHeard (p : Nat) (src : BitVec 10) (a b : Nat) (v : Dev) : Dev := { v with
  fab := { v.fab with tx := v.fab.tx.filter (fun x => !(x.msg = a && x.frame = b && (if linkMessage x.body then x.port = p else x.dest = src))) }
  members := membersMarked p src v }

theorem ackReceived_heard {p a b : Nat} {src : BitVec 10} {v : Dev} (h : (getPort v p).sideLink = false) :
    ackReceived p src a b (markHeard p src v) = ackHeard p src a b v := by
  rw [markHeard_ordinary src h]
  rfl

section
variable {p : Nat} {src : BitVec 10} {msg frame : Nat} {m : FabMsg} {w : Work}

theorem frameReceived_bad : frameReceived p src msg frame m false w = w := by
  unfold frameReceived
  exact if_pos rfl

theorem frameReceived_ack {a b : Nat} (hu : portUp (getPort w.dev p) = true) :
    frameReceived p src msg frame (.ack a b) true w = onDev (fun v => ackReceived p src a b (markHeard p src v)) w := by
  unfold frameReceived
  exact (if_neg (by decide)).trans (if_pos hu)

theorem frameReceived_other (hi : ∀ i, m ≠ .identity i) (ha : ∀ a b, m ≠ .ack a b) : frameReceived p src msg frame m true w =
    if !portUp (getPort w.dev p) then w
    else if isFlood m then announceReceived p 1 msg m w
    else dataFrame p src msg frame m w := by
  unfold frameReceived
  dsimp only
  rw [if_neg (by decide)]
  split
  · next i => exact absurd rfl (hi i)
  · next a b => exact absurd rfl (ha a b)
  · rfl

theorem frameReceived_down {ok : Bool} (hu : portUp (getPort w.dev p) = false) (hi : ∀ i, m ≠ .identity i) (ha : ∀ a b, m ≠ .ack a b) :
    frameReceived p src msg frame m ok w = w := by
  cases ok with
  | false => exact frameReceived_bad
  | true => exact (frameReceived_other hi ha).trans (if_pos (by rw [hu]; rfl))

theorem frameReceived_data (hu : portUp (getPort w.dev p) = true) (hi : ∀ i, m ≠ .identity i) (ha : ∀ a b, m ≠ .ack a b)
    (hf : isFlood m = false) : frameReceived p src msg frame m true w = dataFrame p src msg frame m w := by
  rw [frameReceived_other hi ha, if_neg (by rw [hu]; exact Bool.false_ne_true), if_neg (by rw [hf]; exact Bool.false_ne_true)]

/-- The device once a frame is acknowledged, its bytes counted and its sender heard. -/
def frameAcked (p : Nat) (src : BitVec 10) (msg frame : Nat) (m : FabMsg) (v : Dev) : Dev :=
  { v with
    out := v.out ++ [.frame p v.fab.nodeId src msg frame (.ack msg frame)]
    ctr := (ctrAdd (0x300 + p) 1 (msgBytes m) v).ctr, members := membersMarked p src v }

theorem dataFrame_acks (hq : (getPort w.dev p).sideLink = false) : dataFrame p src msg frame m w =
    (let u := onDev (frameAcked p src msg frame m) w
     if w.dev.fab.seen.contains (src.toNat, msg, frame) || !fitsPort u.dev (getPort w.dev p) m then u
     else deliver p src m (onDev (fun v =>
       traceArrival p src msg frame m { v with fab := { v.fab with seen := v.fab.seen ++ [(src.toNat, msg, frame)] } }) u)) := by
  have hx : onDev (fun v => emit (.frame p v.fab.nodeId src msg frame (.ack msg frame)) (ctrAdd (0x300 + p) 1 (msgBytes m) (markHeard p src v))) w =
      onDev (frameAcked p src msg frame m) w := by
    refine onDev_eq ?_
    rw [markHeard_ordinary src hq]
    rfl
  unfold dataFrame
  dsimp only
  rw [hx]
  rfl

theorem dataFrame_seen (hq : (getPort w.dev p).sideLink = false) (hs : w.dev.fab.seen.contains (src.toNat, msg, frame) = true) :
    dataFrame p src msg frame m w = onDev (frameAcked p src msg frame m) w := by
  rw [dataFrame_acks hq]
  exact if_pos (by rw [hs, Bool.true_or])

end

/-! ### Frames of a collective's data -/

theorem groupTraced_off {v : Dev} (g : Nat) (h : trcOn 7 v = false) : groupTraced v g = false := by
  unfold groupTraced
  rw [h]
  rfl

section
variable {p : Nat} {src : BitVec 10} {msg frame : Nat} {g : Byte} {rank seq phase off : Nat} {bs : List Byte} {v : Dev}

theorem traceArrival_off (h : trcOn 7 v = false) :
    traceArrival p src msg frame (.collData g rank seq phase off bs) v = v := by
  change (if frame = 0 && groupTraced v g.toNat then _ else v) = v
  rw [groupTraced_off _ h, Bool.and_false]
  exact if_neg Bool.false_ne_true

theorem answerGone_live (h : groupLive v g.toNat = true) : answerGone g.toNat (.collData g rank seq phase off bs) v = v := by
  change (if groupLive v g.toNat || !decide (rank < (getGroup v g.toNat).record.entries.length) then v else _) = v
  exact if_pos (by rw [h, Bool.true_or])

theorem rxData_kept (hg : groupLive v g.toNat = true) (hr : (otherRanks (getGroup v g.toNat)).contains rank = true)
    (ho : seqOpen v g.toNat seq = true) : ∃ c, rxData g.toNat rank seq phase off bs p v = { v with
      ctr := c
      groups := tabPut {} v.groups g.toNat { getGroup v g.toNat with
        rx := (getGroup v g.toNat).rx ++ [⟨rank, seq, phase, off, bs, p⟩] } } := by
  unfold rxData
  exact ⟨_, if_neg (by rw [hg, hr, ho]; decide)⟩

/-- A frame of a collective's data that is new is kept for its group (R335, R352). -/
theorem dataFrame_collData (w : Work) (hq : (getPort w.dev p).sideLink = false) (hs : w.dev.fab.seen.contains (src.toNat, msg, frame) = false)
    (hg : groupLive w.dev g.toNat = true) (hk : (getGroup w.dev g.toNat).kind = false)
    (hr : (otherRanks (getGroup w.dev g.toNat)).contains rank = true) (ho : seqOpen w.dev g.toNat seq = true) (ht : trcOn 7 w.dev = false) :
    ∃ c, dataFrame p src msg frame (.collData g rank seq phase off bs) w = onDev (fun v => { v with
      out := v.out ++ [.frame p v.fab.nodeId src msg frame (.ack msg frame)]
      ctr := c, members := membersMarked p src v
      fab := { v.fab with seen := v.fab.seen ++ [(src.toNat, msg, frame)] }
      groups := tabPut {} v.groups g.toNat { getGroup v g.toNat with
        rx := (getGroup v g.toNat).rx ++ [⟨rank, seq, phase, off, bs, p⟩] } }) w := by
  rw [dataFrame_acks hq]
  dsimp only
  have hfits : fitsPort (frameAcked p src msg frame (.collData g rank seq phase off bs) w.dev) (getPort w.dev p)
      (.collData g rank seq phase off bs) = true := by
    change ((getGroup w.dev g.toNat).kind == (getPort w.dev p).sideLink) = true
    rw [hk, hq]
    rfl
  obtain ⟨c, hc⟩ := rxData_kept (v := { frameAcked p src msg frame (.collData g rank seq phase off bs) w.dev with
    fab := { w.dev.fab with seen := w.dev.fab.seen ++ [(src.toNat, msg, frame)] } }) (phase := phase) (off := off) (bs := bs) (p := p) hg hr ho
  refine ⟨c, ?_⟩
  rw [onDev_dev, if_neg (by rw [hs, hfits]; decide)]
  refine onDev_eq (w := w) (f := fun v => rxData g.toNat rank seq phase off bs p (answerGone g.toNat (.collData g rank seq phase off bs)
    (traceArrival p src msg frame (.collData g rank seq phase off bs) { frameAcked p src msg frame (.collData g rank seq phase off bs) v with
      fab := { v.fab with seen := v.fab.seen ++ [(src.toNat, msg, frame)] } }))) ?_
  dsimp only
  rw [traceArrival_off (by exact ht), answerGone_live (by exact hg), hc]
  rfl

end

/-! ### Frames sent again -/

section
variable {p msg frame : Nat} {x : TxFrame} {w : Work}
  (hx : w.dev.fab.tx.find? (fun t => t.port = p && t.msg = msg && t.frame = frame) = some x)
include hx

/-- The frame found is the one named. -/
theorem txFound : x.port = p ∧ x.msg = msg ∧ x.frame = frame := by
  have h := List.find?_some hx
  simpa [and_assoc] using h

theorem ackTimeout_early (ht : (w.dev.pace.time - x.sentAt).toNat < 2000) : ackTimeout p msg frame w = w := by
  unfold ackTimeout
  rw [hx]
  exact if_pos ht

theorem ackTimeout_down (ht : 2000 ≤ (w.dev.pace.time - x.sentAt).toNat) (hs : 8 ≤ x.sends) :
    ackTimeout p msg frame w = portDown p 5 w := by
  unfold ackTimeout
  rw [hx]
  exact (if_neg (Nat.not_lt.mpr ht)).trans (if_pos hs)

/-- A frame not acknowledged in time goes out once more (R335). -/
theorem ackTimeout_again (ht : 2000 ≤ (w.dev.pace.time - x.sentAt).toNat) (hs : x.sends < 8) : ∃ c,
    ackTimeout p msg frame w = { w with dev := { w.dev with
      fab := { w.dev.fab with tx := w.dev.fab.tx.map (fun y => if y = x then { x with sends := x.sends + 1, sentAt := w.dev.pace.time } else y) }
      out := w.dev.out ++ [if isFlood x.body then .flood [p] x.hops msg x.body else .frame p w.dev.fab.nodeId x.dest msg frame x.body]
      ports := tabPut {} w.dev.ports p { getPort w.dev p with retries := satAdd (getPort w.dev p).retries 1 }
      ctr := c } } := by
  obtain ⟨hp, hm, hf⟩ := txFound hx
  unfold ackTimeout
  rw [hx]
  dsimp only
  rw [if_neg (show ¬ since w.dev x.sentAt < 2000 from Nat.not_lt.mpr ht), if_neg (Nat.not_le.mpr hs)]
  unfold sendAgain
  rw [hp, hm, hf]
  split <;> exact ⟨_, rfl⟩

end

/-! ### A port that goes down -/

theorem mem_sidePorts {v : Dev} {i : Nat} (h : i ∈ sidePorts v) : portUp (getPort v i) = true := by
  unfold sidePorts at h
  exact (Bool.and_eq_true _ _ ▸ (List.mem_filter.mp h).2).1

theorem mem_ordinaryPorts {v : Dev} {i : Nat} (h : i ∈ ordinaryPorts v) : portUp (getPort v i) = true := by
  unfold ordinaryPorts at h
  exact (Bool.and_eq_true _ _ ▸ (List.mem_filter.mp h).2).1

/-- Frames go out on ports that are up (R344). -/
theorem mem_portsTo {v : Dev} {node : Nat} {mask : BitVec 24} {i : Nat} (h : i ∈ portsTo v node mask) : portUp (getPort v i) = true := by
  unfold portsTo at h
  dsimp only at h
  repeat' split at h
  · exact mem_sidePorts h
  · exact absurd h List.not_mem_nil
  all_goals exact mem_ordinaryPorts (List.mem_filter.mp h).1

/-- The frames of a port dealt again are on other ports (R346). -/
def redealOne (v : Dev) (t : TxFrame) : Dev :=
  match portsTo v t.dest.toNat t.mask with
  | [] => v
  | p0 :: ps => sendFrame ((p0 :: ps).getD (t.frame / 16 % (ps.length + 1)) p0) t.dest.toNat t.msg t.mask t.frame t.body v

/-- What a dealing of frames leaves: all but the frames held, what goes out, and the counters. -/
def unsent (v : Dev) : Dev := { v with fab := { v.fab with tx := [] }, out := [], ctr := {} }

theorem redealOne_unsent (v : Dev) (t : TxFrame) : unsent (redealOne v t) = unsent v := by
  unfold redealOne
  split <;> rfl

theorem redealOne_tx {p : Nat} {v : Dev} (t : TxFrame) (hp : portUp (getPort v p) = false) (h : ∀ y ∈ v.fab.tx, y.port ≠ p) :
    ∀ y ∈ (redealOne v t).fab.tx, y.port ≠ p := by
  unfold redealOne
  split
  · exact h
  · next p0 ps hto =>
    intro y hy
    rcases List.mem_append.mp hy with hy | hy
    · exact h y hy
    · obtain rfl := List.mem_singleton.mp hy
      have hlt : t.frame / 16 % (ps.length + 1) < (p0 :: ps).length := Nat.mod_lt _ (Nat.succ_pos _)
      intro he
      have hin : p ∈ portsTo v t.dest.toNat t.mask := by
        rw [hto, ← he]
        change (p0 :: ps).getD _ p0 ∈ _
        rw [List.getD_eq_getElem _ _ hlt]
        exact List.getElem_mem hlt
      exact Bool.false_ne_true (hp.symm.trans (mem_portsTo hin))

theorem getPort_unsent (v : Dev) (k : Nat) : getPort (unsent v) k = getPort v k := rfl

theorem redeal_eq (p : Nat) (v : Dev) : redeal p v =
    ((v.fab.tx.filter (fun t => t.port = p)).filter (fun t => !linkMessage t.body)).foldl redealOne
      { v with fab := { v.fab with tx := v.fab.tx.filter (fun t => t.port ≠ p) } } := rfl

theorem redeal_unsent (p : Nat) (v : Dev) : unsent (redeal p v) = unsent v := by
  rw [redeal_eq, foldl_same (g := unsent) redealOne_unsent]
  rfl

theorem redeal_tx {p : Nat} {v : Dev} (hp : portUp (getPort v p) = false) : ∀ y ∈ (redeal p v).fab.tx, y.port ≠ p := by
  rw [redeal_eq]
  generalize (v.fab.tx.filter (fun t => t.port = p)).filter (fun t => !linkMessage t.body) = l
  have h0 : ∀ y ∈ v.fab.tx.filter (fun t => t.port ≠ p), y.port ≠ p := fun y hy => by simpa using (List.mem_filter.mp hy).2
  suffices ∀ u : Dev, portUp (getPort u p) = false → (∀ y ∈ u.fab.tx, y.port ≠ p) →
      ∀ y ∈ (l.foldl redealOne u).fab.tx, y.port ≠ p from
    this _ hp h0
  induction l with
  | nil => exact fun u _ h => h
  | cons t l ih =>
    intro u hu h
    refine ih _ ?_ (redealOne_tx t hu h)
    rw [← getPort_unsent, redealOne_unsent]
    exact hu

section
variable {p : Nat} {s : State} (hg : ∀ c ∈ s.dev.groups, c.2.enable = false)
include hg

/-- A port that goes down, where no group is enabled. -/
theorem portDown_deals (st : BitVec 3) : portDown p st (workOf s) = onDev (fun v => redeal p (setPort p { getPort v p with
    state := st, lanes := 0, lastTrain := v.pace.time, fell := st = 5 } v)) (workOf s) := by
  refine unreachableFail_none ?_
  rw [onDev_dev]
  have hgr (v : Dev) : (redeal p v).groups = v.groups := (congrArg Dev.groups (redeal_unsent p v) :)
  rw [hgr]
  exact hg

end

theorem portUp_failed {q : Port} (h : q.state = 5) : portUp q = false := by
  unfold portUp
  rw [h]
  rfl

section
variable {p : Nat} {s : State} (hg : ∀ c ∈ s.dev.groups, c.2.enable = false) (hw : tabWf {} s.dev.ports = true)
include hg hw

/-- What a port leaves that goes down where no group is enabled (R346). -/
theorem portDown_leaves : ∃ v, portDown p 5 (workOf s) = { workOf s with dev := v } ∧
    getPort v p = { getPort s.dev p with state := 5, lanes := 0, lastTrain := s.dev.pace.time, fell := true } ∧
    (∀ k, k ≠ p → getPort v k = getPort s.dev k) ∧ (∀ y ∈ v.fab.tx, y.port ≠ p) ∧ v.descs = s.dev.descs := by
  have hdown := portDown_deals hg (p := p) 5
  generalize hq : ({ getPort s.dev p with state := 5, lanes := 0, lastTrain := s.dev.pace.time, fell := true } : Port) = q
  have hpq : getPort (setPort p q s.dev) p = q := getPort_setPort_same _ _ _ hw
  have hview := redeal_unsent p (setPort p q s.dev)
  have hports (k : Nat) : getPort (redeal p (setPort p q s.dev)) k = getPort (setPort p q s.dev) k :=
    (congrArg (fun v : Dev => getPort v k) hview :)
  refine ⟨redeal p (setPort p q s.dev), hdown.trans (by rw [← hq]; rfl), (hports p).trans hpq,
    fun k hk => (hports k).trans (getPort_setPort_other _ _ _ _ hk), redeal_tx ?_, (congrArg Dev.descs hview :)⟩
  rw [hpq, ← hq]
  exact portUp_failed rfl

end

/-! ### Frames forwarded, and heartbeats -/

theorem ctrAdd3_only (a i b j c k n : Nat) (v : Dev) : ∃ x, ctrAdd a i n (ctrAdd b j n (ctrAdd c k n v)) = { v with ctr := x } := ⟨_, rfl⟩

/-- A frame for another node goes on by its route (R345). -/
theorem frameForward_goes {p : Nat} {dest src : BitVec 10} {msg frame k : Nat} {ps : List Nat} {m : FabMsg} {v : Dev}
    (hu : portUp (getPort v p) = true) (hq : (getPort v p).sideLink = false) (hd : dest ≠ v.fab.nodeId)
    (hto : portsTo v dest.toNat 0 = k :: ps) : ∃ c, frameForward p dest src msg frame m v =
      (let o := (k :: ps).getD (frame / 16 % (ps.length + 1)) k
       { v with
        out := v.out ++ [.frame o src dest msg frame m]
        arbs := tabPut {} v.arbs (4736 + o) (raiseAll 2 [⟨⟨.coll, p⟩, .other, 1⟩] [] (getArb v (4736 + o)))
        ctr := c, members := membersMarked p src v }) := by
  have hto' (l : Tab Member) : portsTo { v with members := l } dest.toNat 0 = k :: ps := hto
  unfold frameForward
  dsimp only
  rw [if_neg (by simp [hu, hq, hd]), markHeard_ordinary src hq, hto']
  dsimp only
  generalize (k :: ps).getD (frame / 16 % (ps.length + 1)) k = o
  obtain ⟨c, hc⟩ := ctrAdd3_only (0x300 + o) 3 (0x300 + o) 0 (0x300 + p) 1 (msgBytes m) { v with members := membersMarked p src v }
  refine ⟨c, ?_⟩
  rw [hc]
  rfl

theorem heartbeatSend_sends {p : Nat} {v : Dev} (hu : portUp (getPort v p) = true) (hd : timerDue v (tmHeartbeat p) 100000 = true)
    (ht : floodTraced v 8 = false) : heartbeatSend p v = timerMark (tmHeartbeat p)
      (sendFrame p (getPort v p).partner.toNat v.fab.nextMsg 0 0 .heartbeat { v with fab := { v.fab with nextMsg := v.fab.nextMsg + 1 } }) := by
  have ht' (f : Fab) : floodTraced { v with fab := f } 8 = false := ht
  unfold heartbeatSend
  dsimp only
  rw [if_neg (by simp [hu, hd]), ht', if_neg Bool.false_ne_true]

/-- Settles O55: an equation for each case of a frame, with `portDown_leaves` for the port given up. -/
theorem framesAreCarriedOnce : Obligations.FramesAreCarriedOnce := by
  unfold Obligations.FramesAreCarriedOnce
  refine ⟨fun p src msg frame m crcOk s => ⟨fun h => ?_, fun hu hi ha => ?_, fun h hu hq => ⟨fun a b hm => ?_, fun ha hi hf hs => ?_,
    fun g rank seq phase off bs hm hs hg hk hr ho hw ht => ?_⟩⟩,
    fun p msg frame x s hx => ⟨fun ht => ?_, fun ht hs => ?_, fun ht hs hw hg => ?_⟩,
    fun p dest src msg frame k ps m s hu hq hd hto => ?_, fun p s hu hd ht => ?_⟩
  · rw [h]
    exact runWork_unchanged frameReceived_bad
  · exact runWork_unchanged (frameReceived_down hu hi ha)
  · rw [h, hm]
    exact ⟨_, (runWork_eq ((frameReceived_ack (w := workOf s) hu).trans (onDev_eq (ackReceived_heard hq)))).trans
      (congrArg Host.Outcome.next (commit_workOf s _)), rfl, rfl⟩
  · rw [h]
    exact ⟨_, (runWork_eq ((frameReceived_data (w := workOf s) hu hi ha hf).trans (dataFrame_seen hq hs))).trans
      (congrArg Host.Outcome.next (commit_workOf s _)), rfl⟩
  · rw [h, hm]
    obtain ⟨c, hc⟩ := dataFrame_collData (src := src) (msg := msg) (frame := frame) (phase := phase) (off := off) (bs := bs)
      (workOf s) hq hs hg hk hr ho ht
    refine ⟨_, (runWork_eq ((frameReceived_data (w := workOf s) hu (fun _ => FabMsg.noConfusion)
      (fun _ _ => FabMsg.noConfusion) rfl).trans hc)).trans
      (congrArg Host.Outcome.next (commit_workOf s _)), rfl, rfl, tabGet_tabPut_same _ _ _ _ hw,
      fun k hk => tabGet_tabPut_other _ _ _ _ _ hk, rfl, rfl, rfl, rfl⟩
  · exact runWork_unchanged (ackTimeout_early (w := workOf s) hx ht)
  · obtain ⟨c, hc⟩ := ackTimeout_again (w := workOf s) hx ht hs
    exact ⟨_, (runWork_eq hc).trans (congrArg Host.Outcome.next (commit_workOf s _)), rfl, rfl, rfl, rfl⟩
  · obtain ⟨v, hv, hp, hk, htx, hd⟩ := portDown_leaves (p := p) hg hw
    exact ⟨_, (runWork_eq ((ackTimeout_down (w := workOf s) hx ht hs).trans hv)).trans (congrArg Host.Outcome.next (commit_workOf s v)),
      hp, hk, htx, hd, rfl, rfl⟩
  · obtain ⟨c, hc⟩ := frameForward_goes (src := src) (msg := msg) (frame := frame) (m := m) hu hq hd hto
    exact ⟨_, runDev_eq hc, rfl⟩
  · refine ⟨_, runDev_eq (heartbeatSend_sends hu hd ht), ?_, rfl, ?_, rfl⟩
    · change _ ++ [Out.frame _ _ (BitVec.ofNat 10 _) _ _ _] = _
      rw [BitVec.ofNat_toNat, BitVec.setWidth_eq]
    · exact List.length_append

end Sys2Proof.Machine
end
section
/-! Membership (R339 to R341, R368, R391, R436): announces heard and passed on, losses, and this module's own announces. -/

namespace Sys2Proof.Machine

open Sys2Proof

/-! ### Nodes that go -/

theorem nodeLost_none {node : BitVec 10} {twin : Bool} {w : Work} (h : ∀ c ∈ w.dev.groups, c.2.enable = false) : nodeLost node twin w = w := by
  have hnone : w.dev.groups.filter (fun c => c.2.enable && c.2.kind = twin) = [] :=
    List.filter_eq_nil_iff.mpr fun c hc => by simp [h c hc]
  unfold nodeLost
  rw [hnone]
  rfl

theorem mem_zip_self {α : Type} : ∀ {l : List α} {c : α × α}, c ∈ l.zip l → c.1 = c.2
  | a :: l, c, h => by
    rcases List.mem_cons.mp h with rfl | h
    · rfl
    · exact mem_zip_self h

/-- Where no part has ended, no context fails. -/
theorem remoteCtxs_same {v : Dev} {w : Work} (h : w.dev.descs = v.descs) : remoteCtxs v w = w := by
  unfold remoteCtxs
  extract_lets hit
  have hnone : (v.descs.zip w.dev.descs).filter hit = [] := by
    rw [h]
    refine List.filter_eq_nil_iff.mpr fun c hc => ?_
    obtain ⟨x, y⟩ := c
    obtain rfl : x = y := mem_zip_self hc
    unfold hit
    rw [Bool.not_eq_true, List.any_eq_false]
    intro p hp
    rw [mem_zip_self hp]
    cases hs : decide (p.2.state = .running) <;> simp_all
  rw [hnone]
  rfl

/-- A node's entry, pairings and events once it is gone (R341, R391). -/
def goneDev (node : BitVec 10) (st : BitVec 3) (why : Nat) (m : Member) (v : Dev) : Dev :=
  breakPairs node (raisePeerLost node m.role (if st = 4 then 1 else 0) m.incarn
    (raiseMembership node m.state st m.incarn why (setMember node.toNat { m with state := st } v)))

theorem breakPairs_quietly (node : BitVec 10) {u v : Dev} (h : quietly u = quietly v) :
    quietly (breakPairs node u) = quietly (breakPairs node v) :=
  (congrArg (breakPairs node) h :)

theorem goneDev_quietly (node : BitVec 10) (st : BitVec 3) (why : Nat) (m : Member) (v : Dev) :
    quietly (goneDev node st why m v) = quietly (breakPairs node (setMember node.toNat { m with state := st } v)) :=
  breakPairs_quietly node ((raise_quietly ..).trans (raiseMembership_quietly ..))

theorem raiseMembership_room {node : BitVec 10} {old new : BitVec 3} {incarn : W32} {reason : Nat} {v : Dev} (h : attnHeld v.attn < 63) :
    attnHeld (raiseMembership node old new incarn reason v).attn < 64 := by
  unfold raiseMembership
  split
  · rw [raise_attn_eq, if_pos (by omega)]
    simp only [attnHeld, attnRoom, List.length_append, List.length_singleton] at h ⊢
    omega
  · omega

/-- With room, PEER_LOST is among the events held. -/
theorem goneDev_event (node : BitVec 10) (why : Nat) (m : Member) (v : Dev) (h : attnHeld v.attn < 63) :
    ∃ a ∈ (goneDev node 3 why m v).attn.held, a.code = 0x11 ∧
      a.payload = leBytes 2 node.toNat ++ leBytes 1 m.role.toNat ++ leBytes 1 0 ++ leBytes 4 m.incarn.toNat := by
  have hr : attnHeld (raiseMembership node m.state 3 m.incarn why (setMember node.toNat { m with state := 3 } v)).attn < 64 :=
    raiseMembership_room h
  generalize hu : raiseMembership node m.state 3 m.incarn why (setMember node.toNat { m with state := 3 } v) = u at hr
  have hx : (goneDev node 3 why m v).attn = (raisePeerLost node m.role 0 m.incarn u).attn := by rw [← hu]; rfl
  rw [hx]
  unfold raisePeerLost
  rw [raise_attn_eq, if_pos hr]
  exact ⟨_, List.mem_append_right _ (List.mem_singleton.mpr rfl), rfl, rfl⟩

/-- What the loss of a node leaves, beside its events (R341). -/
theorem goneDev_leaves (node : BitVec 10) (st : BitVec 3) (why : Nat) (m : Member) (v : Dev) :
    let u := goneDev node st why m v
    u.members = tabPut {} v.members node.toNat { m with state := st } ∧ u.ports = v.ports ∧ u.groups = v.groups ∧ u.descs = v.descs ∧
      u.out = v.out ∧ u.fab = v.fab := by
  have h := goneDev_quietly node st why m v
  exact ⟨(congrArg Dev.members h :), (congrArg Dev.ports h :), (congrArg Dev.groups h :), (congrArg Dev.descs h :),
    (congrArg Dev.out h :), (congrArg Dev.fab h :)⟩

/-- A node that falls silent where no group is enabled. -/
theorem nodeSilent_eq {node : BitVec 10} {w : Work} (hg : ∀ c ∈ w.dev.groups, c.2.enable = false) :
    nodeSilent node w = onDev (goneDev node 3 1 (getMember w.dev node.toNat)) w := by
  obtain ⟨-, -, hgr, hd, -, -⟩ := goneDev_leaves node 3 1 (getMember w.dev node.toNat) w.dev
  have hgone : nodeGone node 3 1 w = onDev (goneDev node 3 1 (getMember w.dev node.toNat)) w := by
    refine nodeLost_none (w := onDev (goneDev node 3 1 (getMember w.dev node.toNat)) w) ?_
    rw [onDev_dev, hgr]
    exact hg
  unfold nodeSilent
  rw [hgone]
  exact remoteCtxs_same hd

theorem mayBeLost_of {st : BitVec 3} (h : st = 1 ∨ st = 2 ∨ st = 4) : mayBeLost st = true := by
  unfold mayBeLost
  rcases h with h | h | h <;> rw [h] <;> decide

theorem announceTimeout_silent {node : BitVec 10} {w : Work} (hm : mayBeLost (getMember w.dev node.toNat).state = true)
    (ht : 3000000 * w.dev.fab.announceMs.toNat ≤ (w.dev.pace.time - (getMember w.dev node.toNat).lastAnnounce).toNat) :
    announceTimeout node w = nodeSilent node w := by
  unfold announceTimeout
  refine if_pos ?_
  rw [hm]
  exact decide_eq_true ht

theorem neighbourLost_silent {node : BitVec 10} {w : Work} (hm : mayBeLost (getMember w.dev node.toNat).state = true)
    (hn : wasNeighbour w.dev node = true)
    (ht : 1000 * w.dev.fab.hbLostUs.toNat ≤ (w.dev.pace.time - (getMember w.dev node.toNat).lastFrame).toNat) :
    neighbourLost node false w = onDev (fun v => announceOn (ordinaryPorts v)
      (fun seq => .lossAnnounce node (getMember w.dev node.toNat).incarn seq v.fab.nodeId) v) (nodeSilent node w) := by
  unfold neighbourLost
  refine (if_neg Bool.false_ne_true).trans (if_pos ?_)
  rw [hm, hn]
  exact decide_eq_true ht

/-! ### What this module floods -/

/-- The frames held for a flood (R335, R340). -/
def floodHeld (ports : List Nat) (hops : BitVec 4) (m : FabMsg) (v : Dev) : List TxFrame :=
  v.fab.tx ++ ports.map (fun p => {
    port := p, dest := (getPort v p).partner, msg := v.fab.nextMsg, frame := 0, body := m, mask := 0, sends := 1
    sentAt := v.pace.time, hops := hops })

theorem floodOn_eq (ports : List Nat) (hops : BitVec 4) (m : FabMsg) (v : Dev) : floodOn ports hops m v = { v with
    fab := { v.fab with nextMsg := v.fab.nextMsg + 1, tx := floodHeld ports hops m v }
    out := v.out ++ [.flood ports hops v.fab.nextMsg m] } := rfl

theorem announceOn_untraced {ports : List Nat} {m : W32 → FabMsg} {v : Dev} (h : floodTraced v 9 = false) : announceOn ports m v = { v with
    fab := { v.fab with
      annSeq := v.fab.annSeq + 1, nextMsg := v.fab.nextMsg + 1, tx := floodHeld ports 1 (m v.fab.annSeq) v }
    out := v.out ++ [.flood ports 1 v.fab.nextMsg (m v.fab.annSeq)] } := by
  unfold announceOn
  dsimp only
  rw [h, if_neg Bool.false_ne_true]
  rfl

/-- The trace of a flood leaves all but the trace and the free values. -/
def untraced (v : Dev) : Dev := { v with trc := {}, free := 0 }

theorem traceFab_untraced (type ctx other seq port : Nat) (v : Dev) : untraced (traceFab type ctx other seq port v) = untraced v := rfl

theorem announceOn_leaves (ports : List Nat) (m : W32 → FabMsg) (v : Dev) :
    let u := announceOn ports m v
    u.members = v.members ∧ u.ports = v.ports ∧ u.groups = v.groups ∧ u.descs = v.descs ∧ u.attn = v.attn ∧
      u.fab.annSeq = v.fab.annSeq + 1 ∧ u.out = v.out ++ [.flood ports 1 v.fab.nextMsg (m v.fab.annSeq)] := by
  generalize ht : (if floodTraced v 9 then
    ports.foldl (fun u p => traceFab 0x04 0 (getPort u p).partner.toNat v.fab.annSeq.toNat p u) v else v) = u
  have hu : untraced u = untraced v := by
    rw [← ht]
    split
    · exact foldl_same (g := untraced) (fun u p => traceFab_untraced 0x04 0 (getPort u p).partner.toNat v.fab.annSeq.toNat p u) _ _
    · rfl
  have hx : announceOn ports m v = (let w := floodOn ports 1 (m v.fab.annSeq) u; { w with fab := { w.fab with annSeq := v.fab.annSeq + 1 } }) := by
    rw [← ht]; rfl
  have hfab : u.fab = v.fab := (congrArg Dev.fab hu :)
  have hout : u.out = v.out := (congrArg Dev.out hu :)
  rw [hx, floodOn_eq]
  dsimp only
  rw [hfab, hout]
  exact ⟨(congrArg Dev.members hu :), (congrArg Dev.ports hu :), (congrArg Dev.groups hu :), (congrArg Dev.descs hu :),
    (congrArg Dev.attn hu :), rfl, rfl⟩

theorem announceSend_changed {v : Dev} (hf : v.arm.firmware = true) (hc : v.fab.changed = true) (ht : floodTraced v 9 = false) :
    announceSend v = timerMark tmAnnounce { v with
      fab := { v.fab with
        annSeq := v.fab.annSeq + 1, changed := false, nextMsg := v.fab.nextMsg + 1
        tx := floodHeld (ordinaryPorts v) 1 (.announce v.fab.nodeId v.fab.incarn v.power.straps.feedId v.power.straps.moduleId
          v.mould.role (!v.power.rbHigh) v.pace.measured v.fab.annSeq) v }
      out := v.out ++ [.flood (ordinaryPorts v) 1 v.fab.nextMsg (.announce v.fab.nodeId v.fab.incarn v.power.straps.feedId
        v.power.straps.moduleId v.mould.role (!v.power.rbHigh) v.pace.measured v.fab.annSeq)] } := by
  unfold announceSend
  rw [if_neg (by rw [hf, hc, Bool.true_or]; decide), announceOn_untraced ht]

/-! ### LEAVE -/

/-- FAB_CTRL's fields of a write (R370). -/
def fabCtrled (x : W64) (f : Fab) : Fab := { f with
  announceMs := clampW 1 100 (x.setWidth 8), hbLostUs := clampW 200 50000 ((x >>> 8).setWidth 16), attnEn := x.getLsbD 24 }

theorem fabWrite_leaves (x : W64) (v : Dev) : fabWrite (barOf 0x50004 false (x ||| placeB 25 true)) v =
    sendLeave { v with fab := fabCtrled x v.fab } := by
  have h8 : ((x ||| placeB 25 true).setWidth 32 : W32).setWidth 8 = (x.setWidth 8 : Byte) := by
    refine BitVec.eq_of_getLsbD_eq fun i hi => ?_
    have h32 : i < 32 := by omega
    have hne : i ≠ 25 := by omega
    simp only [BitVec.getLsbD_setWidth, getLsbD_orBit x 25 (show i < 64 by omega), hne, h32, decide_true, decide_false, Bool.or_false,
      Bool.true_and]
  have h16 : (((x ||| placeB 25 true).setWidth 32 : W32) >>> 8).setWidth 16 = ((x >>> 8).setWidth 16 : W16) := by
    refine BitVec.eq_of_getLsbD_eq fun i hi => ?_
    have h32 : 8 + i < 32 := by omega
    have hne : 8 + i ≠ 25 := by omega
    simp only [BitVec.getLsbD_setWidth, BitVec.getLsbD_ushiftRight, getLsbD_orBit x 25 (show 8 + i < 64 by omega), hne, h32, decide_true,
      decide_false, Bool.or_false, Bool.true_and]
  have hb {j : Nat} (hj : j < 32) : ((x ||| placeB 25 true).setWidth 32 : W32).getLsbD j = (x.getLsbD j || decide (j = 25)) := by
    rw [BitVec.getLsbD_setWidth, getLsbD_orBit x 25 (show j < 64 by omega), decide_eq_true hj, Bool.true_and]
  rw [barOf_high _ (by decide)]
  unfold fabWrite
  dsimp only
  rw [if_neg Bool.false_ne_true, if_pos rfl, fld_highHalf]
  unfold fabCtrl
  rw [h8, h16, hb (by decide), hb (by decide)]
  simp
  rfl

/-! ### Announces heard -/

section
variable {p : Nat} {src : BitVec 10} {v : Dev} (hq : (getPort v p).sideLink = false) (hn : src ≠ v.fab.nodeId)
include hq hn

theorem membersMarked_eq : membersMarked p src v =
    (let l := tabPut {} v.members src.toNat { getMember v src.toNat with lastSeen := v.pace.time }
     tabPut {} l (getPort v p).partner.toNat
      { tabGet {} l (getPort v p).partner.toNat with lastSeen := v.pace.time, lastFrame := v.pace.time }) := by
  unfold membersMarked markHeard
  dsimp only
  rw [if_neg (by rw [hq]; exact Bool.false_ne_true), if_neg hn]
  rfl

theorem membersMarked_emit (o : Out) : membersMarked p src (emit o v) = membersMarked p src v := by
  rw [membersMarked_eq (v := emit o v) hq hn, membersMarked_eq hq hn]
  rfl

variable (hw : tabWf {} v.members = true)
include hw

theorem membersMarked_wf : tabWf {} (membersMarked p src v) = true := by
  rw [membersMarked_eq hq hn]
  exact tabPut_wf _ _ _ _ (tabPut_wf _ _ _ _ hw)

/-- The sender's entry once its frame has been heard. -/
theorem membersMarked_sender : tabGet {} (membersMarked p src v) src.toNat = { getMember v src.toNat with
    lastSeen := v.pace.time
    lastFrame := if (getPort v p).partner = src then v.pace.time else (getMember v src.toNat).lastFrame } := by
  rw [membersMarked_eq hq hn]
  dsimp only
  by_cases h : (getPort v p).partner = src
  · rw [h, tabGet_tabPut_same _ _ _ _ (tabPut_wf _ _ _ _ hw), tabGet_tabPut_same _ _ _ _ hw, if_pos rfl]
  · rw [tabGet_tabPut_other _ _ _ _ _ (fun k => h (BitVec.eq_of_toNat_eq k.symm)), tabGet_tabPut_same _ _ _ _ hw, if_neg h]

omit hw in
theorem membersMarked_other {k : Nat} (h1 : k ≠ src.toNat) (h2 : k ≠ (getPort v p).partner.toNat) :
    tabGet {} (membersMarked p src v) k = getMember v k := by
  rw [membersMarked_eq hq hn]
  exact (tabGet_tabPut_other _ _ _ _ _ h2).trans (tabGet_tabPut_other _ _ _ _ _ h1)

end

/-- A flooded message goes on once, or not again (R340). -/
theorem forwardOnce_eq (p : Nat) (hops : BitVec 4) (key : Nat × Nat) (m : FabMsg) (v : Dev) : ∃ f,
    forwardOnce p hops key m v = { v with
      fab := f
      out := v.out ++ (if v.fab.forwarded.contains key then [] else
        [.flood ((ordinaryPorts v).filter (fun i => i ≠ p)) (satAdd hops 1) v.fab.nextMsg m]) } ∧ f.nodeId = v.fab.nodeId := by
  unfold forwardOnce
  split
  · exact ⟨v.fab, by rw [List.append_nil], rfl⟩
  · exact ⟨_, floodOn_eq .., rfl⟩

/-- The pairings once those with a node that has come again are broken (R391). -/
def pairsBroken (node : BitVec 10) (m : Mould) : Mould := { m with pairs := m.pairs.map (fun c =>
  if c.state = 2 ∧ c.node = node then { c with state := 4 } else c) }

theorem breakPairs_eq (node : BitVec 10) (v : Dev) : breakPairs node v = { v with mould := pairsBroken node v.mould } := by
  unfold breakPairs setMould pairsBroken
  simp only [Bool.and_eq_true, decide_eq_true_eq]

section
variable {node : BitVec 10} {incarn : W32} {feed : BitVec 4} {module_ : BitVec 8} {role : BitVec 3} {busy : Bool} {hops : BitVec 4}
  {v : Dev}

/-- An announce of the node's present life, or of a first one, enters what it says (R341). -/
theorem heard_quietly (h : ¬(((getMember v node.toNat).state = 1 ∨ (getMember v node.toNat).state = 2) ∧
      (getMember v node.toNat).incarn ≠ incarn)) : ∃ l, quietly (heard node incarn feed module_ role busy hops v) = quietly { v with
    members := tabPut {} v.members node.toNat { getMember v node.toNat with
      state := if busy then 1 else 2, hops := hops, feedId := feed, moduleId := module_, role := role, busy := busy, incarn := incarn
      lastSeen := v.pace.time, lastAnnounce := v.pace.time }
    mould := if (getMember v node.toNat).incarn = incarn then v.mould else pairsBroken node v.mould
    fab := { v.fab with seen := l } } := by
  have hb : (if (getMember v node.toNat).incarn = incarn then v else breakPairs node v) =
      { v with mould := if (getMember v node.toNat).incarn = incarn then v.mould else pairsBroken node v.mould } := by
    split
    · rfl
    · exact breakPairs_eq node v
  unfold heard
  dsimp only
  rw [if_neg (by simpa using h), hb]
  generalize (if (getMember v node.toNat).incarn = incarn then v.mould else pairsBroken node v.mould) = b
  generalize (if busy then 1 else 2 : BitVec 3) = st
  obtain ⟨l, hl⟩ := newLife_only node (getMember v node.toNat).incarn incarn { v with mould := b }
  rw [hl]
  refine ⟨l, ?_⟩
  split
  · rfl
  · exact raiseMembership_quietly ..

end

/-- The key by which a flooded frame of a port's partner is kept apart. -/
def floodSeen (p msg : Nat) (v : Dev) : Nat × Nat × Nat := ((getPort v p).partner.toNat, msg, 0)

/-- The device once a flooded frame of a node is acknowledged and noted. -/
def floodAcked (p msg : Nat) (node : BitVec 10) (v : Dev) : Dev := { v with
  out := v.out ++ [.frame p v.fab.nodeId (getPort v p).partner msg 0 (.ack msg 0)]
  members := membersMarked p node v
  fab := { v.fab with seen := v.fab.seen ++ [floodSeen p msg v] } }

theorem floodTraced_off {v : Dev} (b : Nat) (h : trcOn 7 v = false) : floodTraced v b = false := by
  unfold floodTraced
  rw [h]
  rfl

theorem announceHeard_other {hops : BitVec 4} {node : BitVec 10} {incarn : W32} {feed : BitVec 4} {module_ : BitVec 8} {role : BitVec 3}
    {busy : Bool} {pace : W16} {seq : W32} {w : Work} (h : node ≠ w.dev.fab.nodeId) :
    announceHeard hops (.announce node incarn feed module_ role busy pace seq) w =
      onDev (heard node incarn feed module_ role busy hops) w :=
  if_neg (by unfold ownLife; simp [h])

section
variable {p msg : Nat} {hops : BitVec 4} {node : BitVec 10} {incarn : W32} {feed : BitVec 4} {module_ : BitVec 8} {role : BitVec 3}
  {busy : Bool} {pace : W16} {seq : W32} {w : Work}
  (hu : portUp (getPort w.dev p) = true) (hq : (getPort w.dev p).sideLink = false) (hn : node ≠ w.dev.fab.nodeId)
  (hs : w.dev.fab.seen.contains (floodSeen p msg w.dev) = false) (ht : trcOn 7 w.dev = false)
include hu hq hn hs ht

/-- A new announce of another node on an ordinary port (R340, R341). -/
theorem announceReceived_heard : ∃ f : Dev → Fab, announceReceived p hops msg (.announce node incarn feed module_ role busy pace seq) w =
    onDev (fun v => (fun u => { u with fab := f u }) (heard node incarn feed module_ role busy hops
      (forwardOnce p hops (node.toNat, seq.toNat) (.announce node incarn feed module_ role busy pace seq) (floodAcked p msg node v)))) w := by
  refine ⟨fun v => { v.fab with seen := if v.fab.seen.contains (floodSeen p msg w.dev) then v.fab.seen
    else v.fab.seen ++ [floodSeen p msg w.dev] }, ?_⟩
  unfold announceReceived
  dsimp only [floodKey]
  rw [if_neg (by rw [hu]; exact Bool.false_ne_true)]
  have hack : onDev (fun v => markHeard p node (emit (.frame p v.fab.nodeId (getPort w.dev p).partner msg 0 (.ack msg 0)) v)) w =
      onDev (fun v => { v with
        out := v.out ++ [.frame p v.fab.nodeId (getPort v p).partner msg 0 (.ack msg 0)], members := membersMarked p node v }) w := by
    refine onDev_eq ((markHeard_ordinary node
      (v := emit (.frame p w.dev.fab.nodeId (getPort w.dev p).partner msg 0 (.ack msg 0)) w.dev) hq).trans ?_)
    rw [membersMarked_emit hq hn]
    rfl
  rw [hack]
  dsimp only [onDev_dev]
  change (if w.dev.fab.seen.contains (floodSeen p msg w.dev) then _ else _) = _
  rw [if_neg (by rw [hs]; exact Bool.false_ne_true), if_neg (by rw [hq]; exact Bool.false_ne_true)]
  refine (congrArg (fun u => onDev _ (announceHeard hops _ (onDev (forwardOnce p hops _ _) u)))
    (show _ = onDev (floodAcked p msg node) w from ?_)).trans ?_
  · refine congrArg (fun v => { w with dev := v }) (if_neg ?_)
    exact fun h => Bool.false_ne_true ((floodTraced_off (v := w.dev) 9 ht).symm.trans h)
  · obtain ⟨f, hf, hnode⟩ := forwardOnce_eq p hops (node.toNat, seq.toNat) (.announce node incarn feed module_ role busy pace seq)
      (floodAcked p msg node w.dev)
    rw [announceHeard_other]
    · rfl
    · rw [onDev_dev, onDev_dev, hf]
      exact fun h => hn (h.trans hnode)

end

/-- What a new announce leaves, beside its events. -/
theorem announceReceived_leaves {p msg : Nat} {hops : BitVec 4} {node : BitVec 10} {incarn : W32} {feed : BitVec 4} {module_ : BitVec 8}
    {role : BitVec 3} {busy : Bool} {pace : W16} {seq : W32} {w : Work} (hw : tabWf {} w.dev.members = true)
    (hu : portUp (getPort w.dev p) = true) (hq : (getPort w.dev p).sideLink = false) (hn : node ≠ w.dev.fab.nodeId)
    (hs : w.dev.fab.seen.contains (floodSeen p msg w.dev) = false) (ht : trcOn 7 w.dev = false)
    (hd : ¬(((getMember w.dev node.toNat).state = 1 ∨ (getMember w.dev node.toNat).state = 2) ∧
      (getMember w.dev node.toNat).incarn ≠ incarn)) :
    let m : FabMsg := .announce node incarn feed module_ role busy pace seq
    let v := w.dev
    let q := getPort v p
    ∃ (u : Dev) (f : Fab), announceReceived p hops msg m w = { w with dev := u } ∧ quietly u = quietly { v with
      members := tabPut {} (membersMarked p node v) node.toNat { getMember v node.toNat with
        state := if busy then 1 else 2, hops := hops, feedId := feed, moduleId := module_, role := role, busy := busy, incarn := incarn
        lastSeen := v.pace.time, lastAnnounce := v.pace.time
        lastFrame := if q.partner = node then v.pace.time else (getMember v node.toNat).lastFrame }
      mould := if (getMember v node.toNat).incarn = incarn then v.mould else pairsBroken node v.mould
      fab := f
      out := v.out ++ [.frame p v.fab.nodeId q.partner msg 0 (.ack msg 0)] ++
        (if v.fab.forwarded.contains (node.toNat, seq.toNat) then [] else
        [.flood ((ordinaryPorts v).filter (fun i => i ≠ p)) (satAdd hops 1) v.fab.nextMsg m]) } := by
  dsimp only
  obtain ⟨F, hF⟩ := announceReceived_heard (hops := hops) (incarn := incarn) (feed := feed) (module_ := module_) (role := role)
    (busy := busy) (pace := pace) (seq := seq) hu hq hn hs ht
  obtain ⟨f, hf, -⟩ := forwardOnce_eq p hops (node.toNat, seq.toNat) (.announce node incarn feed module_ role busy pace seq)
    (floodAcked p msg node w.dev)
  have hm := membersMarked_sender hq hn hw
  generalize hu1 : forwardOnce p hops (node.toNat, seq.toNat) (.announce node incarn feed module_ role busy pace seq)
    (floodAcked p msg node w.dev) = u1 at hf
  have hmem : getMember u1 node.toNat = { getMember w.dev node.toNat with
      lastSeen := w.dev.pace.time
      lastFrame := if (getPort w.dev p).partner = node then w.dev.pace.time else (getMember w.dev node.toNat).lastFrame } := by
    rw [hf]; exact hm
  obtain ⟨l, hl⟩ := heard_quietly (node := node) (incarn := incarn) (feed := feed) (module_ := module_) (role := role) (busy := busy)
    (hops := hops) (v := u1) (by rw [hmem]; exact hd)
  rw [hmem] at hl
  have hx := hF.trans (congrArg (fun x => { w with dev := { heard node incarn feed module_ role busy hops x with
    fab := F (heard node incarn feed module_ role busy hops x) } }) hu1)
  generalize heard node incarn feed module_ role busy hops u1 = u2 at hl hx
  refine ⟨_, F u2, hx, ?_⟩
  have hl2 := congrArg (fun u : Dev => { u with fab := F u2 }) hl
  rw [hf] at hl2
  exact hl2

end Sys2Proof.Machine
end
section
/-! The obligation on membership (R339 to R341). -/

namespace Sys2Proof.Machine

open Sys2Proof

section
variable {s : State} (hg : ∀ c ∈ s.dev.groups, c.2.enable = false) {node : BitVec 10}
include hg

/-- The loss of the twin for its silence (R339, R368). -/
theorem neighbourLost_twin (hm : mayBeLost s.dev.fab.twinState = true)
    (ht : 1000 * s.dev.fab.hbLostUs.toNat ≤ (s.dev.pace.time - s.dev.fab.twinSeen).toNat) : ∃ v, neighbourLost node true (workOf s) =
      { workOf s with dev := v } ∧ quietly v = quietly { s.dev with fab := { s.dev.fab with twinState := 3 } } := by
  generalize hv : raisePeerLost s.dev.fab.nodeId s.dev.fab.twinRole 2 s.dev.fab.twinIncarn
    (raiseMembership s.dev.fab.nodeId s.dev.fab.twinState 3 s.dev.fab.twinIncarn 4 { s.dev with fab := { s.dev.fab with twinState := 3 } }) = v
  have hq : quietly v = quietly { s.dev with fab := { s.dev.fab with twinState := 3 } } := by
    rw [← hv]
    exact (raise_quietly ..).trans (raiseMembership_quietly ..)
  have hgr : v.groups = s.dev.groups := (congrArg Dev.groups hq :)
  have hde : v.descs = s.dev.descs := (congrArg Dev.descs hq :)
  have hx : neighbourLost node true (workOf s) = remoteCtxs s.dev (nodeLost s.dev.fab.nodeId true { workOf s with dev := v }) := by
    rw [← hv]
    unfold neighbourLost
    refine (if_pos rfl).trans (if_pos ?_)
    rw [workOf_dev, hm]
    exact decide_eq_true ht
  refine ⟨v, hx.trans ?_, hq⟩
  rw [nodeLost_none (by dsimp only; rw [hgr]; exact hg), remoteCtxs_same (by exact hde)]

/-- The loss of a neighbour is entered, then flooded (R339, R341). -/
theorem neighbourLost_floods (hm : mayBeLost (getMember s.dev node.toNat).state = true) (hn : wasNeighbour s.dev node = true)
    (ht : 1000 * s.dev.fab.hbLostUs.toNat ≤ (s.dev.pace.time - (getMember s.dev node.toNat).lastFrame).toNat) :
    let e := getMember s.dev node.toNat
    let u := goneDev node 3 1 e s.dev
    ∃ v, neighbourLost node false (workOf s) = { workOf s with dev := v } ∧ v.members = u.members ∧ v.ports = u.ports ∧
      v.groups = u.groups ∧ v.descs = u.descs ∧ v.attn = u.attn ∧ v.fab.annSeq = s.dev.fab.annSeq + 1 ∧
      v.out = s.dev.out ++
        [.flood (ordinaryPorts s.dev) 1 s.dev.fab.nextMsg (.lossAnnounce node e.incarn s.dev.fab.annSeq s.dev.fab.nodeId)] := by
  dsimp only
  obtain ⟨-, hpo, -, -, hou, hfa⟩ := goneDev_leaves node 3 1 (getMember s.dev node.toNat) s.dev
  have hx := (neighbourLost_silent (w := workOf s) hm hn ht).trans (congrArg (onDev _) (nodeSilent_eq (w := workOf s) hg))
  have hports : ordinaryPorts (goneDev node 3 1 (getMember s.dev node.toNat) s.dev) = ordinaryPorts s.dev := by
    unfold ordinaryPorts getPort
    rw [hpo]
  obtain ⟨h1, h2, h3, h4, h5, h6, h7⟩ := announceOn_leaves (ordinaryPorts (goneDev node 3 1 (getMember s.dev node.toNat) s.dev))
    (fun seq => .lossAnnounce node (getMember s.dev node.toNat).incarn seq
      (goneDev node 3 1 (getMember s.dev node.toNat) s.dev).fab.nodeId) (goneDev node 3 1 (getMember s.dev node.toNat) s.dev)
  exact ⟨_, hx, h1, h2, h3, h4, h5, h6.trans (by rw [hfa]), h7.trans (by rw [hfa, hou, hports])⟩

end

/-- Settles O56: an announce by `announceReceived_leaves`, losses by `goneDev_leaves` and `goneDev_event`, and what the module floods by
`announceOn_untraced`. -/
theorem membershipFollowsAnnounces : Obligations.MembershipFollowsAnnounces := by
  unfold Obligations.MembershipFollowsAnnounces
  refine ⟨fun p hops msg node incarn feed module_ role busy pace seq s hw => ?_, fun node s hw hg hr => ?_, fun node s hg hst ht => ?_,
    fun s hf9 => ⟨fun hf hc => ?_, fun w hl => ?_⟩⟩
  · dsimp only
    intro hu hq hn hs ht hd
    obtain ⟨u, f, hx, hv⟩ := announceReceived_leaves (w := workOf s) (hops := hops) (feed := feed) (module_ := module_) (role := role)
      (busy := busy) (pace := pace) (seq := seq) hw hu hq hn hs ht hd
    have hmem : u.members = _ := (congrArg Dev.members hv :)
    refine ⟨_, (runWork_eq hx).trans (congrArg Host.Outcome.next (commit_workOf s u)), ?_, fun k h1 h2 => ?_,
      (congrArg Dev.out hv :), ?_, (congrArg Dev.ports hv :), (congrArg Dev.groups hv :), (congrArg Dev.descs hv :), rfl⟩
    · exact (congrArg (tabGet {} · node.toNat) hmem).trans (tabGet_tabPut_same _ _ _ _ (membersMarked_wf hq hn hw))
    · exact (congrArg (tabGet {} · k) hmem).trans ((tabGet_tabPut_other _ _ _ _ _ h1).trans (membersMarked_other hq hn h1 h2))
    · exact (congrArg Dev.mould hv :)
  · dsimp only
    intro hst
    obtain ⟨hme, hpo, hgr, hde, hou, hfa⟩ := goneDev_leaves node 3 1 (getMember s.dev node.toNat) s.dev
    have hev := goneDev_event node 1 (getMember s.dev node.toNat) s.dev hr
    have hsil := nodeSilent_eq (node := node) (w := workOf s) hg
    refine ⟨fun ht => ?_, fun hn ht => ?_⟩
    · refine ⟨_, (runWork_eq ((announceTimeout_silent (w := workOf s) (mayBeLost_of hst) ht).trans hsil)).trans
        (congrArg Host.Outcome.next (commit_workOf s _)), ⟨?_, fun k hk => ?_, hev, hpo, hgr, hde, rfl, rfl⟩, hou⟩
      · exact (congrArg (tabGet {} · node.toNat) hme).trans (tabGet_tabPut_same _ _ _ _ hw)
      · exact (congrArg (tabGet {} · k) hme).trans (tabGet_tabPut_other _ _ _ _ _ hk)
    · obtain ⟨v, hx, hme', hpo', hgr', hde', hat', hseq, hou'⟩ := neighbourLost_floods (node := node) hg (mayBeLost_of hst) hn ht
      refine ⟨_, (runWork_eq hx).trans (congrArg Host.Outcome.next (commit_workOf s v)),
        ⟨?_, fun k hk => ?_, by rw [← hat'] at hev; exact hev, hpo'.trans hpo, hgr'.trans hgr, hde'.trans hde, rfl, rfl⟩, hseq, hou'⟩
      · exact (congrArg (tabGet {} · node.toNat) (hme'.trans hme)).trans (tabGet_tabPut_same _ _ _ _ hw)
      · exact (congrArg (tabGet {} · k) (hme'.trans hme)).trans (tabGet_tabPut_other _ _ _ _ _ hk)
  · obtain ⟨v, hx, hv⟩ := neighbourLost_twin (node := node) hg (mayBeLost_of hst) ht
    exact ⟨_, (runWork_eq hx).trans (congrArg Host.Outcome.next (commit_workOf s v)), (congrArg Dev.fab hv :), (congrArg Dev.members hv :),
      (congrArg Dev.ports hv :), (congrArg Dev.descs hv :), rfl⟩
  · exact ⟨_, runDev_eq (announceSend_changed hf hc hf9), rfl⟩
  · dsimp only
    refine (runWork_lands _ hl).trans ?_
    change Host.Outcome.next (commit s { workOf s with dev := fabWrite (barOf 0x50004 false (w.value ||| placeB 25 true)) s.dev }) = _
    rw [fabWrite_leaves]
    unfold sendLeave
    rw [announceOn_untraced (by exact hf9)]
    exact congrArg Host.Outcome.next (commit_workOf s _)

end Sys2Proof.Machine
end
section
/-! Groups (R347, R348, R350, R364): enabled by their record or refused, and disabled. -/

namespace Sys2Proof.Machine

open Sys2Proof

/-! ### The record read -/

/-- What reading leaves: the device but its link and translations, and what is stored and wiped. -/
def recordView (w : Work) : Dev × List Store × Wipe := (sampleView w, w.stores, w.wiped)

theorem recordView_blind : ReadBlind recordView where
  snooped _ _ := rfl
  cxl _ _ := rfl
  tlb _ _ := rfl
  values _ _ := rfl

/-- The check of a record sees nothing that reading changes. -/
theorem groupRefusal_view {u w : Work} (h : sampleView u = sampleView w) (g : Group) (r : GroupRec) :
    groupRefusal u.dev g r = groupRefusal w.dev g r :=
  (congrArg (fun v => groupRefusal v g r) h :)

/-- A group whose context is not enabled is refused (R348). -/
theorem groupRefusal_ctxOff {v : Dev} {g : Group} {r : GroupRec} (h : (getCtx v g.ctx.toNat).enable = false) : groupRefusal v g r ≠ 0 := by
  unfold groupRefusal
  simp only [h, Bool.not_false, if_true]
  repeat' split
  all_goals decide

/-! ### Groups enabled -/

/-- The group with what a write of its second word sets (R372). -/
def groupSet (x : W64) (q : Group) : Group := { q with kind := x.getLsbD 1, ctx := (x >>> 8).setWidth 6 }

theorem groupWrite_enables {gno : Nat} {x : W64} {w : Work} (he : (getGroup w.dev gno).enable = false) :
    groupWrite gno 1 ⟨true, true, x ||| 1⟩ w = groupOn gno (onDev (setGroup gno (groupSet x (getGroup w.dev gno))) w) := by
  have h0 : bitAt 0 (x ||| 1) = true := by simp [bitAt]
  have h1 : bitAt 1 (x ||| 1) = x.getLsbD 1 := by simp [bitAt]
  have hf : fld 6 8 (x ||| 1) = (x >>> 8).setWidth 6 := fld_orBit (k := 0) x (by decide) (by decide)
  unfold groupWrite
  dsimp only
  rw [if_neg (by decide), if_neg (by decide), if_neg (by rw [he]; exact Bool.false_ne_true), h0, h1, hf, if_pos rfl]
  rfl

theorem groupWrite_disables {gno : Nat} {x : W64} {w : Work} (he : (getGroup w.dev gno).enable = true) :
    groupWrite gno 1 ⟨true, true, x &&& ~~~1⟩ w = onDev (groupOff gno) w := by
  have h0 : bitAt 0 (x &&& ~~~1) = false := by simp [bitAt]
  unfold groupWrite
  dsimp only
  rw [if_neg (by decide), if_neg (by decide), if_pos he, h0, if_neg Bool.false_ne_true]

/-- A group enabled by its record: one generation on, with nothing left of its earlier life (R348). -/
def groupBegun (q : Group) (r : GroupRec) : Group := { q with
  enable := true, err := 0, gen := q.gen + 1, record := r, nextSeq := 0, headers := [], credits := [], mismatches := [], lost := [], rx := [] }

section
variable {gno : Nat} {s : State} {q : Group} {v : Dev} {bs es : List Byte} {w1 w2 : Work}
  (hq : getGroup v gno = q)
  (h1 : (readBytes (edge 0) q.addr 64).run { workOf s with dev := v } = (.ok bs, w1)) (hm : membersOk q.kind (leAt bs 0 2) = true)
  (h2 : (readBytes (edge 0) (q.addr + 64) (8 * leAt bs 0 2)).run w1 = (.ok es, w2))
include hq h1 hm h2

/-- ENABLE with a record that can be read is its check (R347, R348). -/
theorem groupOn_reads : groupOn gno { workOf s with dev := v } =
    (let w := snoopsUsed { w2 with dest := [] }
     let k := groupRefusal w2.dev q (recordOf bs es)
     if k ≠ 0 then onDev (groupRefuse gno k) w else onDev (setGroup gno (groupBegun q (recordOf bs es))) w) := by
  have hrun : (do
      let bs ← readBytes (edge 0) q.addr 64
      let n := leAt bs 0 2
      let es ← if membersOk q.kind n then readBytes (edge 0) (q.addr + 64) (8 * n) else pure []
      pure (recordOf bs es) : Acc GroupRec).run { workOf s with dev := v } = (.ok (recordOf bs es), w2) := by
    refine (acc_bind_ok h1).trans ?_
    dsimp only
    rw [if_pos hm]
    exact (acc_bind_ok h2).trans rfl
  unfold groupOn
  dsimp only
  rw [hq]
  exact runAcc_ok (ueFails_ok (fail := failCtxOpen 0 stMemoryUe.toNat) hrun)

omit hq hm in
theorem groupRecord_view : recordView w2 = recordView { workOf s with dev := v } :=
  ((readBytes_ends recordView_blind _ _ _).ok _ _ w2 h2).trans ((readBytes_ends recordView_blind _ _ _).ok _ _ w1 h1)

end

section
variable {gno : Nat} {s : State} {q : Group} {bs es : List Byte} {w1 w2 : Work} (hw : tabWf {} s.dev.groups = true)
  (h1 : (readBytes (edge 0) q.addr 64).run { workOf s with dev := setGroup gno q s.dev } = (.ok bs, w1))
  (hm : membersOk q.kind (leAt bs 0 2) = true)
  (h2 : (readBytes (edge 0) (q.addr + 64) (8 * leAt bs 0 2)).run w1 = (.ok es, w2))
include hw h1 hm h2

/-- What ENABLE leaves with a record that can be read: the group, refused or begun, and all else (R348). -/
theorem groupOn_leaves :
    let k := groupRefusal (setGroup gno q s.dev) q (recordOf bs es)
    let g := if k ≠ 0 then { q with err := BitVec.ofNat 3 k } else groupBegun q (recordOf bs es)
    ∃ v, commit s (groupOn gno { workOf s with dev := setGroup gno q s.dev }) = { s with dev := setGroup gno g v } ∧
      sampleView { workOf s with dev := v } = sampleView { workOf s with dev := setGroup gno q s.dev } := by
  have hq : getGroup (setGroup gno q s.dev) gno = q := getGroup_setGroup_same _ _ _ hw
  have hview := groupRecord_view (v := setGroup gno q s.dev) (q := q) h1 h2
  have hsv : sampleView w2 = sampleView { workOf s with dev := setGroup gno q s.dev } := congrArg (fun c => c.1) hview
  have hst : w2.stores = [] := congrArg (fun c => c.2.1) hview
  have hwi : w2.wiped = .none := congrArg (fun c => c.2.2) hview
  have hgq : getGroup w2.dev gno = q := (congrArg (fun v => getGroup v gno) hsv :).trans hq
  have hk := groupRefusal_view (g := q) (r := recordOf bs es) hsv
  dsimp only
  rw [groupOn_reads hq h1 hm h2]
  dsimp only
  rw [hk]
  refine ⟨(snoopsUsed { w2 with dest := [] }).dev, ?_, hsv⟩
  split
  · rw [commit_noStores _ _ (by exact hst) (by exact hwi)]
    refine congrArg (fun v => { s with dev := v }) ?_
    change setGroup gno { getGroup w2.dev gno with err := _ } _ = _
    rw [hgq]
  · exact commit_noStores _ _ hst hwi

end

/-! ### Groups disabled -/

theorem goneNotices_none {gno : Nat} {v : Dev} (h : ∀ c ∈ (getGroup v gno).headers, c.2.seq < (getGroup v gno).nextSeq) :
    goneNotices gno v = v := by
  have hnone : (getGroup v gno).headers.filter (fun c => decide ((getGroup v gno).nextSeq ≤ c.2.seq)) = [] :=
    List.filter_eq_nil_iff.mpr fun c hc => by simpa using h c hc
  unfold goneNotices
  dsimp only
  rw [hnone]
  rfl

theorem groupOff_running {gno : Nat} {v : Dev} (h : groupRunning v gno = true) : groupOff gno v = v := if_pos h

theorem groupOff_quiet {gno : Nat} {v : Dev} (h : groupRunning v gno = false)
    (hh : ∀ c ∈ (getGroup v gno).headers, c.2.seq < (getGroup v gno).nextSeq) :
    groupOff gno v = setGroup gno { getGroup v gno with enable := false } v := by
  unfold groupOff
  rw [if_neg (by rw [h]; exact Bool.false_ne_true), goneNotices_none hh]
  rfl

/-- Settles O57: ENABLE is the check of the record that it reads (`groupOn_reads`), and reading leaves the rest (`groupRecord_view`). -/
theorem groupsEnableAndDisable : Obligations.GroupsEnableAndDisable := by
  unfold Obligations.GroupsEnableAndDisable
  refine ⟨fun g w bs es w1 w2 s hl hw he => ?_, fun g w s hl he => ?_⟩
  · intro q v h1 hm h2 r k
    obtain ⟨u, hx, hu⟩ := groupOn_leaves hw h1 hm h2
    have hgr : u.groups = tabPut {} s.dev.groups g.val q := (congrArg Dev.groups hu :)
    have hwf : tabWf {} u.groups = true := hgr ▸ tabPut_wf _ _ _ _ hw
    have hex : exec (.groupEnable g w) s = .next (commit s (groupOn g.val { workOf s with dev := v })) := by
      refine (runWork_lands _ hl).trans ?_
      rw [groupWrite_enables (w := workOf s) he]
      rfl
    refine ⟨_, hex.trans (congrArg Host.Outcome.next hx), rfl, rfl, (congrArg Dev.descs hu :), (congrArg Dev.rings hu :),
      (congrArg Dev.ctxs hu :), fun i hi => ?_, fun hk => ?_, fun hk => ?_, fun hc => groupRefusal_ctxOff hc⟩
    · refine (getGroup_setGroup_other _ _ _ _ hi).trans ?_
      exact (congrArg (tabGet {} · i) hgr).trans (tabGet_tabPut_other _ _ _ _ _ hi)
    · exact (getGroup_setGroup_same _ _ _ hwf).trans (if_pos hk)
    · exact (getGroup_setGroup_same _ _ _ hwf).trans (if_neg (not_not_intro hk))
  · have hx : exec (.groupDisable g w) s = .next { s with dev := groupOff g.val s.dev } := by
      refine (runWork_lands _ hl).trans ?_
      rw [groupWrite_disables (w := workOf s) he]
      exact congrArg Host.Outcome.next (commit_workOf s _)
    refine ⟨fun hr => ?_, fun hr hh => ?_⟩
    · rw [hx, groupOff_running hr]
    · rw [hx, groupOff_quiet hr hh]
      rfl

end Sys2Proof.Machine
end

section
/-! Collectives (R349, R352 to R354, R364): their ends, what arrives for them, their folds. -/

namespace Sys2Proof.Machine

open Sys2Proof

/-! ### Parts ended one after another -/

/-- What the end of a collective's parts leaves: all but the descriptors, their stream table entries, the groups, and what a
write of free values touches. -/
def besideColl (v : Dev) : Dev := { unwrittenOf v with descs := [], stab := [], groups := [] }

/-- Some parts of a descriptor have ended with a status; its other parts and the other descriptors are as before. -/
structure PartsEnded (d : Nat) (js : List Nat) (st : Byte) (v u : Dev) : Prop where
  beside : besideColl u = besideColl v
  other : ∀ e, e ≠ d → getDesc u e = getDesc v e
  mine : ∀ x, getDesc v d = some x → ∃ y, getDesc u d = some y ∧ ∀ (p : Nat) (q : Part), x.parts[p]? = some q →
    ∃ r, y.parts[p]? = some r ∧ (p ∈ js → r.state = .ended ∧ r.status = st) ∧ (p ∉ js → r = q)

section
variable {d : Nat} {js : List Nat} {st : Byte} {v u u' : Dev}

theorem PartsEnded.of_same (hb : besideColl u = besideColl v) (hd : u.descs = v.descs) : PartsEnded d [] st v u := by
  have same : ∀ e, getDesc u e = getDesc v e := fun e => by rw [getDesc, hd]; rfl
  exact ⟨hb, fun e _ => same e, fun x hx => ⟨x, (same d).trans hx, fun p q hq => ⟨q, hq, nofun, fun _ => rfl⟩⟩⟩

/-- A change beside the descriptors after the end. -/
theorem PartsEnded.then_same (h : PartsEnded d js st v u) (hb : besideColl u' = besideColl u) (hd : u'.descs = u.descs) :
    PartsEnded d js st v u' := by
  have same : ∀ e, getDesc u' e = getDesc u e := fun e => by rw [getDesc, hd]; rfl
  refine ⟨hb.trans h.beside, fun e he => (same e).trans (h.other e he), fun x hx => ?_⟩
  obtain ⟨y, hy, hp⟩ := h.mine x hx
  exact ⟨y, (same d).trans hy, hp⟩

/-- A change beside the descriptors before the end. -/
theorem PartsEnded.after_same (h : PartsEnded d js st u u') (hb : besideColl u = besideColl v) (hd : u.descs = v.descs) :
    PartsEnded d js st v u' := by
  have same : ∀ e, getDesc u e = getDesc v e := fun e => by rw [getDesc, hd]; rfl
  exact ⟨h.beside.trans hb, fun e he => (h.other e he).trans (same e), fun x hx => h.mine x ((same d).trans hx)⟩

theorem endPart_besideColl {p : Nat} (a : W64) (f : Flags) (v : Dev) (h : st ≠ stMemoryUe) :
    besideColl (endPart d p st a f v) = besideColl v := by
  cases hx : getDesc v d with
  | none => rw [endPart_none p st a f hx]
  | some x =>
    rw [endPart_some p st a f hx, if_neg h]
    rfl

/-- One more part ends, before those. -/
theorem PartsEnded.cons {j : Nat} (a : W64) (f : Flags) (hst : st ≠ stMemoryUe) (h : PartsEnded d js st (endPart d j st a f v) u) :
    PartsEnded d (j :: js) st v u := by
  have hone := partEnded_endPart (d := d) (p := j) a f v hst
  refine ⟨h.beside.trans (endPart_besideColl a f v hst), fun e he => (h.other e he).trans (hone.2.1 e he), fun x hx => ?_⟩
  have hx' : getDesc (endPart d j st a f v) d = some { x with parts := x.parts.modify j (endedPart st a f) } := by
    rw [endPart_some j st a f hx, if_neg hst]
    exact (getDesc_modPart d d j _ v).trans ((if_pos rfl).trans (by rw [hx]; rfl))
  obtain ⟨y, hy, hp⟩ := h.mine _ hx'
  refine ⟨y, hy, fun p q hq => ?_⟩
  obtain ⟨r, hr, hin, hout⟩ := hp p (if j = p then endedPart st a f q else q)
    (by rw [List.getElem?_modify, hq]; split <;> rfl)
  refine ⟨r, hr, fun hm => ?_, fun hm => ?_⟩
  · by_cases ht : p ∈ js
    · exact hin ht
    · obtain rfl : j = p := by simpa [ht, eq_comm] using hm
      rw [hout ht, if_pos rfl]
      exact ⟨rfl, rfl⟩
  · rw [List.mem_cons, not_or] at hm
    rw [hout hm.2, if_neg (Ne.symm hm.1)]

theorem foldl_endPart (a : W64) (f : Flags) (hst : st ≠ stMemoryUe) :
    ∀ (js : List Nat) (v : Dev), PartsEnded d js st v (js.foldl (fun v p => endPart d p st a f v) v)
  | [], _ => .of_same rfl rfl
  | j :: js, v => .cons a f hst (foldl_endPart a f hst js (endPart d j st a f v))

end

/-! ### The end of a collective (R310, R352, R353, R364) -/

/-- A part has not ended. -/
def Part.Alive (q : Part) : Prop := q.state = .queued ∨ q.state = .running

theorem mem_aliveParts {x : Desc} {p : Nat} {q : Part} (h : x.parts[p]? = some q) : p ∈ aliveParts x ↔ q.Alive := by
  obtain ⟨hp, -⟩ := List.getElem?_eq_some_iff.mp h
  unfold aliveParts upto Part.Alive
  rw [List.mem_filter, List.mem_range, List.getD_eq_getElem?_getD, h]
  simp [hp]

/-- The parts of a list that have not ended yet. -/
def stillAlive (v : Dev) (d : Nat) (ps : List Nat) : List Nat :=
  match getDesc v d with
  | some y => ps.filter (fun p => (aliveParts y).contains p)
  | none => []

/-- What has arrived for a collective that is over is dropped. -/
def collOver (x : Desc) (gno : Nat) (v : Dev) : Dev :=
  match x.coll, getDesc v x.id with
  | some c, some y => if (aliveParts y).isEmpty then collForget gno c.seq v else v
  | _, _ => v

theorem collOver_same (x : Desc) (gno : Nat) (v : Dev) :
    besideColl (collOver x gno v) = besideColl v ∧ (collOver x gno v).descs = v.descs := by
  unfold collOver
  split
  · split
    · exact ⟨rfl, rfl⟩
    · exact ⟨rfl, rfl⟩
  · exact ⟨rfl, rfl⟩

/-- The work with what a failure leaves undefined made free, and with nothing of the sort for a success or a malformed
collective. -/
def collFreedWork (x : Desc) (ps : List Nat) (st : Byte) (w : Work) : Work :=
  if st = stSuccess || st = stMalformed then { w with dest := [] }
  else
    freeDest { w with
      dest := (collFreed (collOf x.bytes) (getGroup w.dev (collOf x.bytes).group) x (stillAlive w.dev x.id ps)).map
        (fun c => destNow x 1 c.1 c.2 w) }

theorem collEndParts_eq (x : Desc) (ps : List Nat) (st : Byte) (a : W64) (f : Flags) (w : Work) :
    collEndParts x ps st a f w = onDev (fun v => collOver x (collOf x.bytes).group
      ((stillAlive w.dev x.id ps).foldl (fun v p => endPart x.id p st a f v) v)) (collFreedWork x ps st w) := rfl

theorem collFreedWork_dev (x : Desc) (ps : List Nat) (st : Byte) (w : Work) :
    besideColl (collFreedWork x ps st w).dev = besideColl w.dev ∧ (collFreedWork x ps st w).dev.descs = w.dev.descs := by
  unfold collFreedWork
  split
  · exact ⟨rfl, rfl⟩
  · generalize (collFreed _ _ _ _).map _ = l
    have hdev : unwrittenOf (freeDest { w with dest := l }).dev = unwrittenOf w.dev := congrArg (·.1) (freeDest_view _)
    exact ⟨congrArg (fun v => { v with descs := [], stab := [], groups := [] }) hdev, (congrArg Dev.descs hdev :)⟩

theorem collFreedWork_kept (x : Desc) (ps : List Nat) {st : Byte} (w : Work) (h : st = stSuccess ∨ st = stMalformed) :
    collFreedWork x ps st w = { w with dest := [] } := if_pos (by simpa using h)

section
variable {x : Desc} {ps : List Nat} {st : Byte} (a : W64) (f : Flags) (w : Work) (hst : st ≠ stMemoryUe)
include hst

theorem collEndParts_ends : PartsEnded x.id (stillAlive w.dev x.id ps) st w.dev (collEndParts x ps st a f w).dev := by
  obtain ⟨hb, hd⟩ := collFreedWork_dev x ps st w
  rw [collEndParts_eq]
  have hfold := foldl_endPart (d := x.id) a f hst (stillAlive w.dev x.id ps) (collFreedWork x ps st w).dev
  obtain ⟨hb', hd'⟩ := collOver_same x (collOf x.bytes).group
    ((stillAlive w.dev x.id ps).foldl (fun v p => endPart x.id p st a f v) (collFreedWork x ps st w).dev)
  exact (hfold.after_same hb hd).then_same hb' hd'

end

/-- A success or a malformed collective stores nothing. -/
theorem collEndParts_kept (x : Desc) (ps : List Nat) {st : Byte} (a : W64) (f : Flags) (w : Work) (h : st = stSuccess ∨ st = stMalformed) :
    (collEndParts x ps st a f w).stores = w.stores ∧ (collEndParts x ps st a f w).wiped = w.wiped := by
  rw [collEndParts_eq, collFreedWork_kept x ps w h]
  exact ⟨rfl, rfl⟩

/-- The status with which a collective's part ends, where the collective ends with one. -/
def collStatus (v : Dev) (y : Desc) (st : Byte) (p : Nat) : Byte :=
  if st ≠ stMalformed ∧ y.coll.any (fun c => partDone v y c p) = true then stSuccess else st

/-- A collective has ended with a status: each part that had not ended has. -/
structure CollEnded (d : Nat) (st : Byte) (v u : Dev) : Prop where
  beside : besideColl u = besideColl v
  other : ∀ e, e ≠ d → getDesc u e = getDesc v e
  mine : ∀ (y : Desc) (p : Nat) (q : Part), getDesc v d = some y → y.parts[p]? = some q → q.Alive →
    ∃ z r, getDesc u d = some z ∧ z.parts[p]? = some r ∧ r.state = .ended ∧ r.status = collStatus v y st p

theorem mem_stillAlive {v : Dev} {d p : Nat} {ps : List Nat} {y : Desc} {q : Part} (hy : getDesc v d = some y)
    (hq : y.parts[p]? = some q) : p ∈ stillAlive v d ps ↔ p ∈ ps ∧ q.Alive := by
  unfold stillAlive
  rw [hy]
  simp [List.mem_filter, mem_aliveParts hq]

/-- The parts of a running collective that are done, and those that are not. -/
def doneParts (v : Dev) (y : Desc) : List Nat := (aliveParts y).filter (fun j => y.coll.any (fun c => partDone v y c j))
def undoneParts (v : Dev) (y : Desc) : List Nat := (aliveParts y).filter (fun j => !y.coll.any (fun c => partDone v y c j))

theorem collEnd_some {x y : Desc} {st : Byte} (a : W64) (f : Flags) {w : Work} (hy : getDesc w.dev x.id = some y) :
    collEnd x st a f w = if st = stMalformed then collEndParts y (aliveParts y) st a f w
      else collEndParts y (undoneParts w.dev y) st a f (collEndParts y (doneParts w.dev y) stSuccess 0 {} w) := by
  unfold collEnd
  rw [hy]
  rfl

theorem collEnd_none {x : Desc} (st : Byte) (a : W64) (f : Flags) {w : Work} (hy : getDesc w.dev x.id = none) :
    collEnd x st a f w = w := by
  unfold collEnd
  rw [hy]

section
variable {d : Nat} {st : Byte} {v u t : Dev} {y : Desc} (hy : getDesc v d = some y)
include hy

theorem CollEnded.malformed (h : PartsEnded d (stillAlive v d (aliveParts y)) stMalformed v u) : CollEnded d stMalformed v u := by
  refine ⟨h.beside, h.other, fun z p q hz hq ha => ?_⟩
  obtain rfl := Option.some.inj (hy.symm.trans hz)
  obtain ⟨z, hz, hp⟩ := h.mine y hy
  obtain ⟨r, hr, hin, -⟩ := hp p q hq
  obtain ⟨he, hs⟩ := hin ((mem_stillAlive hy hq).mpr ⟨(mem_aliveParts hq).mpr ha, ha⟩)
  exact ⟨z, r, hz, hr, he, hs.trans (if_neg (fun k => k.1 rfl)).symm⟩

/-- The parts that are done end with SUCCESS, then the others with the status. -/
theorem CollEnded.of_both (hm : st ≠ stMalformed) (h : PartsEnded d (stillAlive v d (doneParts v y)) stSuccess v u)
    (k : PartsEnded d (stillAlive u d (undoneParts v y)) st u t) : CollEnded d st v t := by
  refine ⟨k.beside.trans h.beside, fun e he => (k.other e he).trans (h.other e he), fun z p q hz hq ha => ?_⟩
  obtain rfl := Option.some.inj (hy.symm.trans hz)
  obtain ⟨z, hz, hp⟩ := h.mine y hy
  obtain ⟨z', hz', hp'⟩ := k.mine z hz
  obtain ⟨r, hr, hin, hout⟩ := hp p q hq
  obtain ⟨r', hr', hin', hout'⟩ := hp' p r hr
  have hal : p ∈ aliveParts y := (mem_aliveParts hq).mpr ha
  refine ⟨z', r', hz', hr', ?_⟩
  by_cases hdone : y.coll.any (fun c => partDone v y c p) = true
  · obtain ⟨he, hs⟩ := hin ((mem_stillAlive hy hq).mpr ⟨List.mem_filter.mpr ⟨hal, hdone⟩, ha⟩)
    have hsame : r' = r := hout' fun hmem => by simpa [undoneParts, hdone] using ((mem_stillAlive hz hr).mp hmem).1
    rw [hsame]
    exact ⟨he, hs.trans (if_pos ⟨hm, hdone⟩).symm⟩
  · have hsame : r = q := hout fun hmem => by simpa [doneParts, hdone] using ((mem_stillAlive hy hq).mp hmem).1
    obtain ⟨he, hs⟩ := hin' ((mem_stillAlive hz hr).mpr ⟨List.mem_filter.mpr ⟨hal, by simpa using hdone⟩, by rw [hsame]; exact ha⟩)
    exact ⟨he, hs.trans (if_neg (fun k => hdone k.2)).symm⟩

end

theorem collEnd_ends (x : Desc) {st : Byte} (a : W64) (f : Flags) (w : Work) (hst : st ≠ stMemoryUe) :
    CollEnded x.id st w.dev (collEnd x st a f w).dev := by
  cases hy : getDesc w.dev x.id with
  | none =>
    rw [collEnd_none st a f hy]
    exact ⟨rfl, fun _ _ => rfl, fun y p q h => (nomatch hy.symm.trans h)⟩
  | some y =>
    have hid : y.id = x.id := getDesc_id hy
    rw [collEnd_some a f hy]
    split
    · next hm =>
      subst hm
      exact .malformed hy (hid ▸ collEndParts_ends (x := y) (ps := aliveParts y) a f w hst)
    · next hm =>
      have hone := collEndParts_ends (x := y) (ps := doneParts w.dev y) 0 {} w (st := stSuccess) (by decide)
      have htwo := collEndParts_ends (x := y) (ps := undoneParts w.dev y) a f
        (collEndParts y (doneParts w.dev y) stSuccess 0 {} w) hst
      exact .of_both hy hm (hid ▸ hone) (hid ▸ htwo)

theorem collEnd_kept (x : Desc) {st : Byte} (a : W64) (f : Flags) (w : Work) (h : st = stSuccess ∨ st = stMalformed) :
    (collEnd x st a f w).stores = w.stores ∧ (collEnd x st a f w).wiped = w.wiped := by
  cases hy : getDesc w.dev x.id with
  | none =>
    rw [collEnd_none st a f hy]
    exact ⟨rfl, rfl⟩
  | some y =>
    rw [collEnd_some a f hy]
    split
    · exact collEndParts_kept y _ a f w h
    · obtain ⟨hs, hw⟩ := collEndParts_kept y (doneParts w.dev y) 0 {} w (st := stSuccess) (.inl rfl)
      obtain ⟨hs', hw'⟩ := collEndParts_kept y (undoneParts w.dev y) a f (collEndParts y (doneParts w.dev y) stSuccess 0 {} w) h
      exact ⟨hs'.trans hs, hw'.trans hw⟩

end Sys2Proof.Machine
end

section
/-! Collectives: what moves, what arrives, and the statement (R335, R349, R352 to R354, R359, R364). -/

namespace Sys2Proof.Machine

open Sys2Proof

/-! ### A collective under way -/

section
variable {d op : Nat} {x : Desc} {c : CollRun} {w u : Work} {done : Bool} (hx : getDesc w.dev d = some x) (hcls : x.cls = 6)
  (hop : (collOf x.bytes).op = op) (hc : x.coll = some c) (hs : c.stage ≠ 0) (hr : x.parts.any (fun p => p.state = .running) = true)
  (hx2 : getDesc (collCheck x w).dev d = some x)
include hx hcls hop hc hs hr hx2

/-- A collective that has started and whose headers agree is moved on as far as it can go. -/
theorem collRun_goes : collRun op d w = runAcc (collGo x c) (fun done w => if done then collEnd x stSuccess 0 {} w else w)
    (fun st a w => collEnd x st a {} w) (collCheck x w) := by
  unfold collRun
  rw [hx]
  dsimp only
  rw [hc]
  dsimp only
  rw [if_neg (by simp [hcls, hop]), if_neg hs, hx]
  dsimp only
  rw [if_pos hr, hx2]
  dsimp only
  rw [hc]
  dsimp only
  exact if_neg (by simpa [hs] using hr)

theorem collRun_done (hd : (collCheck x w).dest = []) (hn : (collCheck x w).snooped = []) (hf : (collCheck x w).flags = {})
    (hgo : (collGo x c).run (collCheck x w) = (.ok done, u)) :
    collRun op d w = if done then collEnd x stSuccess 0 {} (snoopsUsed { u with dest := [] }) else snoopsUsed { u with dest := [] } := by
  rw [collRun_goes hx hcls hop hc hs hr hx2]
  generalize collCheck x w = w2 at hd hn hf hgo ⊢
  refine runAcc_ok ?_
  rw [← hgo]
  obtain ⟨⟩ := w2
  subst hd hn hf
  rfl

end

theorem besideColl_rings {u v : Dev} (h : besideColl u = besideColl v) : u.rings = v.rings := (congrArg Dev.rings h :)
theorem besideColl_ctxs {u v : Dev} (h : besideColl u = besideColl v) : u.ctxs = v.ctxs := (congrArg Dev.ctxs h :)
theorem besideColl_out {u v : Dev} (h : besideColl u = besideColl v) : u.out = v.out := (congrArg Dev.out h :)
theorem besideColl_power {u v : Dev} (h : besideColl u = besideColl v) : u.power = v.power := (congrArg Dev.power h :)

/-- A command that is a collective's step. -/
def RunsColl (op : Nat) (k : Nat → Instr) : Prop := ∀ d s, exec (k d) s = runWork (collRun op d) s

/-- What the two outcomes of a collective's step leave. -/
theorem collStep {op d : Nat} {k : Nat → Instr} (hk : RunsColl op k) {x : Desc} {c : CollRun} {w : Work} {s : State} (hm : Memory.wf s = true)
    (hx : getDesc s.dev d = some x) (hcls : x.cls = 6) (hop : (collOf x.bytes).op = op) (hc : x.coll = some c) (hs : c.stage ≠ 0)
    (hr : x.parts.any (fun p => p.state = .running) = true) (hx2 : getDesc (collCheck x (workOf s)).dev d = some x)
    (hd : (collCheck x (workOf s)).dest = []) (hn : (collCheck x (workOf s)).snooped = []) (hf : (collCheck x (workOf s)).flags = {})
    (hw : w.wiped = .none) (hl : s.dev.power.lost = .none) (hp : w.dev.power = s.dev.power) :
    ((collGo x c).run (collCheck x (workOf s)) = (.ok true, w) → ∃ t, exec (k d) s = .next t ∧ StoredBy s t w.stores ∧
      (∀ (y : Desc) (p : Nat) (q : Part), getDesc w.dev d = some y → y.parts[p]? = some q →
        (q.state = .queued ∨ q.state = .running) →
        ∃ y' q', getDesc t.dev d = some y' ∧ y'.parts[p]? = some q' ∧ q'.state = .ended ∧ q'.status = stSuccess) ∧
      (∀ e, e ≠ d → getDesc t.dev e = getDesc w.dev e) ∧ t.dev.rings = w.dev.rings ∧ t.dev.ctxs = w.dev.ctxs ∧
      t.dev.out = w.dev.out) ∧
    ((collGo x c).run (collCheck x (workOf s)) = (.ok false, w) → ∃ t, exec (k d) s = .next t ∧ StoredBy s t w.stores ∧
      t.dev.descs = w.dev.descs ∧ t.dev.groups = w.dev.groups ∧ t.dev.rings = w.dev.rings ∧ t.dev.out = w.dev.out) := by
  have hid : x.id = d := getDesc_id hx
  refine ⟨fun hgo => ?_, fun hgo => ?_⟩
  · have hrun := (hk d s).trans (runWork_eq (f := collRun op d)
      ((collRun_done (w := workOf s) hx hcls hop hc hs hr hx2 hd hn hf hgo).trans (if_pos rfl)))
    have hend := collEnd_ends x (st := stSuccess) 0 {} (snoopsUsed { w with dest := [] }) (by decide)
    obtain ⟨hst, hwi⟩ := collEnd_kept x (st := stSuccess) 0 {} (snoopsUsed { w with dest := [] }) (.inl rfl)
    rw [hid] at hend
    generalize collEnd x stSuccess 0 {} (snoopsUsed { w with dest := [] }) = u at hrun hend hst hwi
    refine ⟨_, hrun, hst ▸ storedBy_commit hm (hwi.trans hw) hl ((besideColl_power hend.beside).trans hp), ?_, fun e he => ?_, ?_, ?_, ?_⟩
    · intro y p q hy hq ha
      obtain ⟨z, r, hz, hr', he, hss⟩ := hend.mine y p q hy hq ha
      refine ⟨z, r, (getDesc_breakReserved ..).trans hz, hr', he, hss.trans ?_⟩
      unfold collStatus
      split <;> rfl
    · exact (getDesc_breakReserved ..).trans (hend.other e he)
    · exact (breakReserved_rings ..).trans (besideColl_rings hend.beside)
    · exact (breakReserved_ctxs ..).trans (besideColl_ctxs hend.beside)
    · rw [commit_dev, breakReserved_only]
      exact (besideColl_out hend.beside :)
  · have hrun := (hk d s).trans (runWork_eq (f := collRun op d)
      ((collRun_done (w := workOf s) hx hcls hop hc hs hr hx2 hd hn hf hgo).trans (if_neg Bool.false_ne_true)))
    refine ⟨_, hrun, storedBy_commit hm hw hl hp, ?_⟩
    rw [commit_dev, breakReserved_only]
    exact ⟨rfl, rfl, rfl, rfl⟩

/-! ### Headers, credits and notices that arrive (R335, R349, R353) -/

/-- What the arrival of a frame does not touch. -/
def arrivalView (v : Dev) : (Tab Group × List Desc × Tab Ring × Tab Ctx × Tab Port) × List Out × BitVec 10 × List (Nat × Nat × Nat) :=
  ((v.groups, v.descs, v.rings, v.ctxs, v.ports), v.out, v.fab.nodeId, v.fab.seen)

theorem arrivalView_quietly {u v : Dev} (h : quietly u = quietly v) : arrivalView u = arrivalView v := (congrArg arrivalView h :)

theorem arrivalView_untraced {u v : Dev} (h : untraced u = untraced v) : arrivalView u = arrivalView v := (congrArg arrivalView h :)

theorem markHeard_view (p : Nat) (src : BitVec 10) (v : Dev) : arrivalView (markHeard p src v) = arrivalView v := by
  cases hq : (getPort v p).sideLink with
  | false =>
    rw [markHeard_ordinary src hq]
    rfl
  | true =>
    unfold markHeard
    dsimp only
    rw [if_pos hq]
    split
    · unfold setTwin newLife
      dsimp only
      rw [if_pos rfl]
      split
      · rfl
      · exact (arrivalView_quietly (raiseMembership_quietly ..)).trans rfl
    · rfl

section
variable {p : Nat} {src : BitVec 10} {msg frame : Nat} {g : Byte} {rank : Nat} {h : CollHeader} {v : Dev}

theorem traceArrival_view : arrivalView (traceArrival p src msg frame (.collHeader g rank h) v) = arrivalView v := by
  change arrivalView (if frame = 0 && groupTraced v g.toNat then _ else v) = arrivalView v
  split
  · exact arrivalView_untraced (traceFab_untraced ..)
  · rfl

theorem answerGone_header (hl : groupLive v g.toNat = true) : answerGone g.toNat (.collHeader g rank h) v = v := by
  change (if groupLive v g.toNat || !decide (rank < (getGroup v g.toNat).record.entries.length) then v else _) = v
  exact if_pos (by rw [hl, Bool.true_or])

/-- A header of another rank for a sequence that this member has not started is kept. -/
theorem rxHeader_keeps {w : Work} {gno : Nat} (hl : groupLive w.dev gno = true)
    (hr : (otherRanks (getGroup w.dev gno)).contains rank = true) (ho : seqOpen w.dev gno h.seq = true)
    (hn : ∀ y ∈ (getGroup w.dev gno).headers, ¬(y.1 = rank ∧ y.2.seq = h.seq)) (hf : collFind w.dev gno h.seq = none) :
    rxHeader gno rank h w = onDev (modGroup gno (fun g => { g with headers := g.headers ++ [(rank, h)] })) w := by
  have hany : (getGroup w.dev gno).headers.any (fun y => y.1 = rank && y.2.seq = h.seq) = false :=
    List.any_eq_false.mpr fun y hy => by simpa using hn y hy
  unfold rxHeader
  dsimp only
  rw [if_neg (by rw [hl, hr, ho, hany]; decide)]
  have hf' : collFind (onDev (modGroup gno (fun g => { g with headers := g.headers ++ [(rank, h)] })) w).dev gno h.seq = none := hf
  rw [hf']

/-- The device that has acknowledged a header frame and noted its number. -/
def headerAcked (p : Nat) (src : BitVec 10) (msg frame : Nat) (g : Byte) (rank : Nat) (h : CollHeader) (v : Dev) : Dev :=
  let u := emit (.frame p v.fab.nodeId src msg frame (.ack msg frame))
    (ctrAdd (0x300 + p) 1 (msgBytes (.collHeader g rank h)) (markHeard p src v))
  traceArrival p src msg frame (.collHeader g rank h) { u with fab := { u.fab with seen := u.fab.seen ++ [(src.toNat, msg, frame)] } }

theorem headerAcked_view : arrivalView (headerAcked p src msg frame g rank h v) =
    ((v.groups, v.descs, v.rings, v.ctxs, v.ports), v.out ++ [.frame p v.fab.nodeId src msg frame (.ack msg frame)], v.fab.nodeId,
      v.fab.seen ++ [(src.toNat, msg, frame)]) := by
  have hm := markHeard_view p src v
  unfold headerAcked
  rw [traceArrival_view]
  generalize markHeard p src v = u at hm ⊢
  change ((u.groups, u.descs, u.rings, u.ctxs, u.ports), u.out ++ _, u.fab.nodeId, u.fab.seen ++ _) = _
  obtain ⟨h1, h2⟩ := Prod.mk.inj hm
  obtain ⟨h3, h4⟩ := Prod.mk.inj h2
  obtain ⟨h5, h6⟩ := Prod.mk.inj h4
  rw [h1, h3, h5, h6]

theorem groupLive_view {u : Dev} (hg : u.groups = v.groups) (hc : u.ctxs = v.ctxs) (gno : Nat) : groupLive u gno = groupLive v gno := by
  unfold groupLive getGroup getCtx
  rw [hg, hc]

theorem collFind_view {u : Dev} (hd : u.descs = v.descs) (gno seq : Nat) : collFind u gno seq = collFind v gno seq := by
  unfold collFind
  rw [hd]

theorem seqOpen_view {u : Dev} (hg : u.groups = v.groups) (hd : u.descs = v.descs) (gno seq : Nat) :
    seqOpen u gno seq = seqOpen v gno seq := by
  unfold seqOpen getGroup
  rw [hg, collFind_view hd]

/-- A header frame that is new is acknowledged and its header kept (R335, R353). -/
theorem dataFrame_header {w : Work} (hl : groupLive w.dev g.toNat = true)
    (hk : (getGroup w.dev g.toNat).kind = (getPort w.dev p).sideLink) (hs : w.dev.fab.seen.contains (src.toNat, msg, frame) = false)
    (hr : (otherRanks (getGroup w.dev g.toNat)).contains rank = true) (ho : seqOpen w.dev g.toNat h.seq = true)
    (hn : ∀ y ∈ (getGroup w.dev g.toNat).headers, ¬(y.1 = rank ∧ y.2.seq = h.seq)) (hf : collFind w.dev g.toNat h.seq = none) :
    dataFrame p src msg frame (.collHeader g rank h) w =
      onDev (fun v => modGroup g.toNat (fun g => { g with headers := g.headers ++ [(rank, h)] })
        (headerAcked p src msg frame g rank h v)) w := by
  have hm := markHeard_view p src w.dev
  have ha := headerAcked_view (p := p) (src := src) (msg := msg) (frame := frame) (g := g) (rank := rank) (h := h) (v := w.dev)
  have hacked : dataFrame p src msg frame (.collHeader g rank h) w =
      (if (markHeard p src w.dev).fab.seen.contains (src.toNat, msg, frame) ||
          !((getGroup (markHeard p src w.dev) g.toNat).kind == (getPort (markHeard p src w.dev) p).sideLink) then _
        else rxHeader g.toNat rank h (onDev (answerGone g.toNat (.collHeader g rank h)) (onDev (headerAcked p src msg frame g rank h) w))) := rfl
  rw [hacked]
  clear hacked
  have hgroups : (markHeard p src w.dev).groups = w.dev.groups := congrArg (·.1.1) hm
  have hports : (markHeard p src w.dev).ports = w.dev.ports := congrArg (·.1.2.2.2.2) hm
  have hseen : (markHeard p src w.dev).fab.seen = w.dev.fab.seen := congrArg (·.2.2.2) hm
  have hfit : ((getGroup (markHeard p src w.dev) g.toNat).kind == (getPort (markHeard p src w.dev) p).sideLink) = true := by
    unfold getGroup getPort
    rw [hgroups, hports]
    exact beq_iff_eq.mpr hk
  rw [if_neg (by rw [hseen, hs, hfit]; decide)]
  change rxHeader g.toNat rank h { w with dev := answerGone g.toNat (.collHeader g rank h) (headerAcked p src msg frame g rank h w.dev) } =
    { w with dev := modGroup g.toNat (fun g => { g with headers := g.headers ++ [(rank, h)] }) (headerAcked p src msg frame g rank h w.dev) }
  generalize headerAcked p src msg frame g rank h w.dev = u at ha
  have hug : u.groups = w.dev.groups := congrArg (·.1.1) ha
  have hud : u.descs = w.dev.descs := congrArg (·.1.2.1) ha
  have huc : u.ctxs = w.dev.ctxs := congrArg (·.1.2.2.2.1) ha
  have hgroup : getGroup u g.toNat = getGroup w.dev g.toNat := by unfold getGroup; rw [hug]
  have hlive : groupLive u g.toNat = true := (groupLive_view hug huc _).trans hl
  rw [answerGone_header hlive]
  exact rxHeader_keeps (w := { w with dev := u }) hlive (by rw [hgroup]; exact hr) ((seqOpen_view hug hud _ _).trans ho)
    (by rw [hgroup]; exact hn) ((collFind_view hud _ _).trans hf)

/-- A collective's header frame on an up port, for a sequence that this member has not started. -/
theorem collHeaderFrame_kept {q : Fin 24} {s : State} (hu : portUp (getPort s.dev q.val) = true) (hl : groupLive s.dev g.toNat = true)
    (hk : (getGroup s.dev g.toNat).kind = (getPort s.dev q.val).sideLink) (hs : s.dev.fab.seen.contains (src.toNat, msg, frame) = false)
    (hr : (otherRanks (getGroup s.dev g.toNat)).contains rank = true) (ho : seqOpen s.dev g.toNat h.seq = true)
    (hn : ∀ y ∈ (getGroup s.dev g.toNat).headers, ¬(y.1 = rank ∧ y.2.seq = h.seq)) (hf : collFind s.dev g.toNat h.seq = none) :
    ∃ t, exec (.collHeaderFrame ⟨q, src, msg, frame⟩ g rank h) s = .next t ∧ t.mem = s.mem ∧ t.host = s.host ∧
      t.dev.groups = tabPut {} s.dev.groups g.toNat
        { getGroup s.dev g.toNat with headers := (getGroup s.dev g.toNat).headers ++ [(rank, h)] } ∧
      t.dev.descs = s.dev.descs ∧ t.dev.rings = s.dev.rings ∧ t.dev.ctxs = s.dev.ctxs ∧
      t.dev.fab.seen.contains (src.toNat, msg, frame) = true ∧
      Out.frame q.val s.dev.fab.nodeId src msg frame (.ack msg frame) ∈ t.dev.out := by
  have ha := headerAcked_view (p := q.val) (src := src) (msg := msg) (frame := frame) (g := g) (rank := rank) (h := h) (v := s.dev)
  have hrun : exec (.collHeaderFrame ⟨q, src, msg, frame⟩ g rank h) s = .next { s with
      dev := modGroup g.toNat (fun g => { g with headers := g.headers ++ [(rank, h)] })
        (headerAcked q.val src msg frame g rank h s.dev) } := by
    refine (runWork_eq (f := frameReceived q.val src msg frame (.collHeader g rank h) true) ?_).trans (congrArg _ (commit_workOf s _))
    exact (frameReceived_data (w := workOf s) hu (fun _ => FabMsg.noConfusion) (fun _ _ => FabMsg.noConfusion) rfl).trans
      (dataFrame_header (w := workOf s) hl hk hs hr ho hn hf)
  generalize headerAcked q.val src msg frame g rank h s.dev = u at ha hrun
  have hug : u.groups = s.dev.groups := congrArg (·.1.1) ha
  have hseen : u.fab.seen = s.dev.fab.seen ++ [(src.toNat, msg, frame)] := congrArg (·.2.2.2) ha
  have hout : u.out = s.dev.out ++ [.frame q.val s.dev.fab.nodeId src msg frame (.ack msg frame)] := congrArg (·.2.1) ha
  refine ⟨_, hrun, rfl, rfl, ?_, congrArg (·.1.2.1) ha, congrArg (·.1.2.2.1) ha, congrArg (·.1.2.2.2.1) ha, ?_, ?_⟩
  · change tabPut {} u.groups g.toNat { getGroup u g.toNat with headers := (getGroup u g.toNat).headers ++ [(rank, h)] } = _
    unfold getGroup
    rw [hug]
  · change u.fab.seen.contains _ = true
    rw [hseen]
    simp
  · change _ ∈ u.out
    rw [hout]
    exact List.mem_append_right _ (List.mem_singleton_self _)

end

section
variable {g : Byte} {rank seq : Nat} {s : State} (hl : groupLive s.dev g.toNat = true)
  (hr : (otherRanks (getGroup s.dev g.toNat)).contains rank = true) (ho : seqOpen s.dev g.toNat seq = true)
include hl hr ho

theorem creditGrant_kept {seg : Option Nat} (hn : (getGroup s.dev g.toNat).credits.contains (rank, seq, seg) = false) :
    exec (.creditGrant g rank ⟨seq, seg⟩) s = .next { s with dev := { s.dev with
      groups := tabPut {} s.dev.groups g.toNat { getGroup s.dev g.toNat with
        credits := (getGroup s.dev g.toNat).credits ++ [(rank, seq, seg)] } } } :=
  runDev_eq (f := rxCredit g.toNat rank seq seg) (if_neg (by rw [hl, hr, ho, hn]; decide))

theorem rxMismatch_takes : rxMismatch g.toNat rank seq (workOf s) =
    match collFind s.dev g.toNat seq with
    | some x =>
      if x.parts.any (fun p => p.state = .running) then collEnd x stMalformed 0 {} (workOf s)
      else onDev (modGroup g.toNat (fun g => { g with mismatches := setAdd g.mismatches seq })) (workOf s)
    | none => onDev (modGroup g.toNat (fun g => { g with mismatches := setAdd g.mismatches seq })) (workOf s) :=
  if_neg (by rw [show groupLive (workOf s).dev g.toNat = true from hl, show seqOpen (workOf s).dev g.toNat seq = true from ho,
    show (otherRanks (getGroup (workOf s).dev g.toNat)).contains rank = true from hr]; decide)

theorem mismatchNotice_kept (hf : collFind s.dev g.toNat seq = none) :
    exec (.mismatchNotice g rank seq) s = .next { s with dev := { s.dev with
      groups := tabPut {} s.dev.groups g.toNat { getGroup s.dev g.toNat with
        mismatches := setAdd (getGroup s.dev g.toNat).mismatches seq } } } := by
  refine (runWork_eq (f := rxMismatch g.toNat rank seq) (u := onDev (modGroup g.toNat
    (fun g => { g with mismatches := setAdd g.mismatches seq })) (workOf s)) ?_).trans (congrArg _ (commit_workOf s _))
  rw [rxMismatch_takes hl hr ho, hf]

theorem mismatchNotice_ends {x : Desc} (hf : collFind s.dev g.toNat seq = some x) (hx : getDesc s.dev x.id = some x)
    (hp : x.parts.any (fun p => p.state = .running) = true) :
    ∃ t, exec (.mismatchNotice g rank seq) s = .next t ∧ t.mem = s.mem ∧ t.host = s.host ∧ t.dev.rings = s.dev.rings ∧
      t.dev.ctxs = s.dev.ctxs ∧ (∀ e, e ≠ x.id → getDesc t.dev e = getDesc s.dev e) ∧
      (∀ (p : Nat) (q : Part), x.parts[p]? = some q → (q.state = .queued ∨ q.state = .running) →
        ∃ y q', getDesc t.dev x.id = some y ∧ y.parts[p]? = some q' ∧ q'.state = .ended ∧ q'.status = stMalformed) := by
  have hrun := runWork_eq (f := rxMismatch g.toNat rank seq) (s := s) (u := collEnd x stMalformed 0 {} (workOf s))
    (by rw [rxMismatch_takes hl hr ho, hf]; exact if_pos hp)
  have hend := collEnd_ends x (st := stMalformed) 0 {} (workOf s) (by decide)
  obtain ⟨hst, hwi⟩ := collEnd_kept x (st := stMalformed) 0 {} (workOf s) (.inr rfl)
  generalize collEnd x stMalformed 0 {} (workOf s) = u at hrun hend hst hwi
  rw [commit_noStores s u hst hwi] at hrun
  refine ⟨_, hrun, rfl, rfl, besideColl_rings hend.beside, besideColl_ctxs hend.beside, hend.other, fun p q hq ha => ?_⟩
  obtain ⟨z, r, hz, hr', he, hs⟩ := hend.mine x p q hx hq ha
  exact ⟨z, r, hz, hr', he, hs.trans (if_neg (fun k => k.1 rfl))⟩

end

/-! ### The time limit (R364) -/

theorem collTimeout_ends {d : Nat} {x : Desc} {s : State} (hx : getDesc s.dev d = some x) (hcls : x.cls = 6)
    (ht : (collOf x.bytes).timeout ≠ 0) (hdue : (collOf x.bytes).timeout ≤ (s.dev.pace.time - x.time).toNat)
    (ha : x.parts.any (fun p => p.state = .queued || p.state = .running) = true) :
    ∃ t, exec (.collTimeout d) s = .next t ∧ t.dev.rings = s.dev.rings ∧ t.dev.ctxs = s.dev.ctxs ∧
      (∀ e, e ≠ d → getDesc t.dev e = getDesc s.dev e) ∧
      (∀ (p : Nat) (q : Part), x.parts[p]? = some q → (q.state = .queued ∨ q.state = .running) →
        ∃ y q', getDesc t.dev d = some y ∧ y.parts[p]? = some q' ∧ q'.state = .ended ∧
          q'.status = if x.coll.any (fun c => partDone s.dev x c p) then stSuccess else stRemote) := by
  have hid : x.id = d := getDesc_id hx
  have hrun := runWork_eq (f := collTimeout d) (s := s) (u := collEnd x stRemote 0 {} (workOf s)) (by
    unfold collTimeout
    rw [show getDesc (workOf s).dev d = some x from hx]
    dsimp only
    have hdue' : (collOf x.bytes).timeout ≤ since (workOf s).dev x.time := hdue
    exact if_pos (by simp only [ha, hcls, ht, hdue', decide_true, ne_eq, not_false_eq_true, Bool.and_self]))
  have hend := collEnd_ends x (st := stRemote) 0 {} (workOf s) (by decide)
  rw [hid] at hend
  generalize collEnd x stRemote 0 {} (workOf s) = u at hrun hend
  refine ⟨_, hrun, (breakReserved_rings ..).trans (besideColl_rings hend.beside),
    (breakReserved_ctxs ..).trans (besideColl_ctxs hend.beside), fun e he => (getDesc_breakReserved ..).trans (hend.other e he),
    fun p q hq hal => ?_⟩
  obtain ⟨z, r, hz, hr', he, hs⟩ := hend.mine x p q hx hq hal
  exact ⟨z, r, (getDesc_breakReserved ..).trans hz, hr', he,
    hs.trans (if_congr (and_iff_right (show stRemote ≠ stMalformed by decide)) rfl rfl)⟩

/-! ### The statement -/

theorem runsColl {k : Nat × (Nat → Instr)}
    (h : k ∈ ([(0, .allreduce), (1, .reducescatter), (2, .allgather), (3, .broadcast), (4, .permute)] : List (Nat × (Nat → Instr)))) :
    RunsColl k.1 k.2 := by
  simp only [List.mem_cons, List.not_mem_nil, or_false] at h
  rcases h with rfl | rfl | rfl | rfl | rfl <;> exact fun _ _ => rfl

/-- Settles O53: a collective ends by the status of each of its parts, headers, credits and notices are kept for their
sequence, and folds and gathers compute what R354 and R359 say. -/
theorem collectivesMeetAndEnd : Obligations.CollectivesMeetAndEnd := by
  refine ⟨?_, ?_, ?_, ?_, ?_, ?_⟩
  · intro k hk d x c w s hm hx hcls hop hc hs hr w2 hx2 _ hd hn hf hw hl hp
    exact collStep (runsColl hk) hm hx hcls hop hc hs hr hx2 hd hn hf hw hl hp
  · intro p src msg frame g rank h s hu hl hk hs hr ho hn hf
    exact collHeaderFrame_kept hu hl hk hs hr ho hn hf
  · intro g rank seq s hl hr ho
    exact ⟨fun seg hn => creditGrant_kept hl hr ho hn, mismatchNotice_kept hl hr ho,
      fun x hf hx hp => mismatchNotice_ends hl hr ho hf hx hp⟩
  · intro d x s hx hcls ht hdue ha
    exact collTimeout_ends hx hcls ht hdue ha
  · intro a b c e f
    exact ⟨rfl, rfl, rfl, rfl, rfl⟩
  · intro o codes scales hcc hfmt
    exact if_pos (by simp [hcc, hfmt])

end Sys2Proof.Machine
end

section
/-! TEST (R240, R453 to R458): a test is a part like any other, and one that a chisel core launched needs an entry of that core's stream
table. -/

namespace Sys2Proof.Machine

open Sys2Proof

/-- A TEST of the sensors that a chisel core of cluster 0 launched; its record goes to 0x1_0000. -/
def launchedTest : Desc :=
  { id := 0, ring := 0, sub := some (0, 0), ctx := 1, cls := 0xD, parts := [{}]
    bytes := List.replicate 16 0 ++ leBytes 8 6 ++ leBytes 8 0x10000 ++ List.replicate 224 0 }

/-- The same, begun. -/
def begunTest : Desc := { launchedTest with parts := [{ state := .running }] }

/-- A module with that TEST ready, nothing before it, and core 0's stream table full. The page tables of its context map the first GiB
of device memory to itself, writable. -/
def sLaunchedTest : State :=
  { dev := { power := { lost := .none }, ctxs := [(1, { ptRoot := 1, enable := true, state := 1 })], descs := [launchedTest]
             stab := fullStab }
    mem := [(0x1000, 0x03), (0x1001, 0x20), (0x2000, 0x07)] }

/-- A part started where its table has no entry left takes none. -/
theorem startPart_launchedTest : startPart 0 0 sLaunchedTest.dev =
    { sLaunchedTest.dev with descs := [begunTest] } := by
  have hhold : stabHold 0 0 0 sLaunchedTest.dev = sLaunchedTest.dev := by
    unfold stabHold
    rw [stabFree_full (v := sLaunchedTest.dev) rfl]
    exact if_neg (by rw [stabAny_full (v := sLaunchedTest.dev) rfl]; decide)
  unfold startPart
  rw [show getDesc sLaunchedTest.dev 0 = some launchedTest from rfl]
  dsimp only
  rw [show stabCore launchedTest 0 = some 0 from rfl]
  dsimp only
  rw [hhold]
  rfl

/-- A computation that succeeds, with nothing wiped and the rails as they were. -/
def ranQuietly (m : Acc Unit) (w : Work) : Bool :=
  match m.run w with
  | (.ok _, u) => decide (u.wiped = .none) && decide (u.dev.power = w.dev.power)
  | _ => false

theorem ranQuietly_some {m : Acc Unit} {w : Work} (h : ranQuietly m w = true) :
    ∃ u, m.run w = (.ok (), u) ∧ u.wiped = .none ∧ u.dev.power = w.dev.power := by
  unfold ranQuietly at h
  split at h
  · next u hu =>
    rw [Bool.and_eq_true, decide_eq_true_eq, decide_eq_true_eq] at h
    exact ⟨u, hu, h⟩
  · cases h

/-- Its record could be written, were it begun. -/
theorem launchedTest_reports : ranQuietly (testReport begunTest 0 0)
    (onDev (sensorsNow 0) (workOf { sLaunchedTest with
      dev := { sLaunchedTest.dev with descs := [begunTest] } })) = true := by
  decide +kernel

theorem onDev_workOf (f : Dev → Dev) (s : State) : onDev f (workOf s) = workOf { s with dev := f s.dev } := rfl

/-- A TEST whose turn has come waits where its stream table has no entry for it. -/
theorem testSensors_waits {d c : Nat} {failed : BitVec 38} {detail : W32} {s : State} (h : testReady s.dev 6 d = true)
    (hf : onFenced s.dev d 0 = false) (hb : stabBlocked s.dev d 0 = some c) :
    exec (.testSensors ⟨d, .whole⟩ failed detail) s = .next { s with dev := stabWait c (.part d 0) s.dev } := by
  have hrun : testRun 6 d .whole (failed ≠ 0) detail (sensorsNow failed) (workOf s) = onDev (stabWait c (.part d 0)) (workOf s) := by
    refine (if_pos h).trans ?_
    unfold beginPart
    rw [show onFenced (workOf s).dev d 0 = false from hf, show stabBlocked (workOf s).dev d 0 = some c from hb]
    rfl
  exact (runWork_eq hrun).trans (congrArg _ (commit_workOf s _))

theorem stabWait_pace (c : Nat) (who : StabIssuer) (v : Dev) : (stabWait c who v).pace = v.pace := by
  unfold stabWait
  split <;> rfl

/-- Refutes O52: the clause on the sensors asks neither that a ring issued the TEST nor that its part may hold an entry. A TEST of
the sensors that a chisel core launched, its turn come, calibrates nothing while that core's stream table is full; it waits for an
entry. -/
theorem not_testsRecordAndFence : ¬ Obligations.TestsRecordAndFence := by
  rintro ⟨-, hsensors, -⟩
  obtain ⟨u, hu, hwiped, hpower⟩ := ranQuietly_some launchedTest_reports
  have hstart := startPart_launchedTest
  obtain ⟨t, ht, -, -, -, hcal⟩ := hsensors 0 0 0 begunTest u sLaunchedTest
    (by decide) (by decide) (by rw [hstart]; rfl) hwiped rfl hpower
    (by rw [onDev_workOf, hstart]; exact hu)
  have hblocked : stabBlocked sLaunchedTest.dev 0 0 = some 0 := stabBlocked_full rfl rfl rfl
  obtain rfl := Host.Outcome.next.inj ((testSensors_waits (by decide) (by decide) hblocked).symm.trans ht)
  have hsame : (stabWait 0 (.part 0 0) sLaunchedTest.dev).pace.calibrations = sLaunchedTest.dev.pace.calibrations :=
    congrArg (·.calibrations) (stabWait_pace ..)
  exact absurd (hsame.symm.trans hcal) (by decide)

end Sys2Proof.Machine
end
